-- ==== Sys2Proof/Word.lean ====
section
/-!
DEFINITION. Word.lean: the words of the block and the plain data its commands carry: bytes, the name of a
queue (R175, R176), the unit classes (R197), the kinds of DMA error (R154), a fragment-table entry (R216),
and the physical facts that only the world outside the module can supply with an event.
-/
namespace Sys2Proof

/-- One byte. -/
abbrev Byte := BitVec 8

/-- A string of bytes, the first at the lowest address. -/
abbrev Bytes := List Byte

/-- The name of a queue (R175, R176); `mgmt` is the management link's control requests (R165) and `tap`
the manufacturing port's MFG_CMD path (R481), which are served as control queues without rings. -/
inductive QRef where
  | admin (fn : Nat)
  | ctl (n : Nat)
  | job (fn qid : Nat)
  | mgmt
  | tap
  deriving DecidableEq, Repr

/-- The unit classes of R197, in the order of R534. -/
inductive UnitClass where
  | bench | hash | cbu | aes | sc
  deriving DecidableEq, Repr

/-- A protected store in which a word can fail (R493). -/
inductive Store where
  | context (word : Nat)
  | imported (entry : Nat)
  | keyCache (ctx : Nat)
  | hashState (group : Nat)
  | operand (slot : Nat)
  | mirror (block : Nat)
  | other (job : Option Nat)
  deriving DecidableEq, Repr

/-- A protected word: its store, the 1 MiB bank that holds it and its offset there (R493). -/
structure SramWord where
  store  : Store
  bank   : Nat
  offset : Nat
  deriving DecidableEq, Repr

/-- How a DMA read ends when it does not succeed (R154), in the order of FN_DMA.KIND. -/
inductive DmaErr where
  | ur | ca | timeout | poisoned
  | internal (word : SramWord)
  deriving DecidableEq, Repr

/-- What a DMA completion belongs to (R154). -/
inductive DmaTarget where
  | ring (q : QRef)
  | jobRead (job : Nat)
  | jobWrite (job : Nat)
  | completion (job : Nat)
  | headWriteBack (q : QRef)
  deriving DecidableEq, Repr

/-- One entry of a fragment table (R216), as the device read it. -/
structure FragEntry where
  addr  : BitVec 64
  len   : BitVec 32
  flags : BitVec 32
  deriving DecidableEq, Repr

/-- The strap balls as the keeper samples them (R48, R49). -/
structure Straps where
  bootMode : BitVec 2
  flvSel   : Bool
  clkSel   : Bool
  deriving DecidableEq, Repr

/-- What the keeper boot ROM finds when it checks its stores (R60, R61): whether the keeper firmware matches
its digest, the numbers of the counters whose records fail, the log records that cannot be read, and which
journals cannot be read. -/
structure KeeperCheck where
  fwOk        : Bool
  badCounters : List Nat
  badLogRecs  : List Nat
  lcJournalBad  : Bool
  updJournalBad : Bool
  revJournalBad : Bool
  deriving DecidableEq, Repr

/-- Low-margin and high-margin raw reads of a fuse word that does not read as its nominal bits at every
margin (R65). -/
structure MarginRead where
  word : Nat
  low  : BitVec 39
  nom  : BitVec 39
  high : BitVec 39
  deriving DecidableEq, Repr

/-- The SPI ports (R85). -/
inductive Port where
  | a | b
  deriving DecidableEq, Repr

/-- A flash chip: port and chip select (the PORT_CS byte of R92). -/
structure Chip where
  port : Port
  cs   : Bool
  deriving DecidableEq, Repr

/-- Where a host SPI transaction's command came in: chip, opcode as HOST_OPCODE of R95 counts it, address. -/
structure SpiCmd where
  chip   : Chip
  opcode : BitVec 16
  addr   : Nat
  deriving DecidableEq, Repr

/-- One 4 KiB flash block as read from a chip. -/
structure FlashBlock where
  block : Nat
  data  : Bytes
  deriving DecidableEq, Repr

/-- The capability fields of the configuration space that the spec gives a value or a use (R140 to R142, R144); their
offsets are the PCIe standards'. Each reads as the dword or the field's own encoding. -/
inductive CfgField where
  | maxPayloadSupported | maxPayload | maxReadRequest | timeoutRanges | completionTimeout
  | barLow | barHigh | vfBarLow | vfBarHigh
  | totalVfs | initialVfs | vfOffset | vfStride | supportedPageSizes | systemPageSize
  | serialLow | serialHigh | noSoftReset
  deriving DecidableEq, Repr

/-- What a configuration-space request does (R77, R140 to R145, R151): reads of a header dword or of a capability field, and
the writes that reach state of the function. -/
inductive CfgOp where
  | read (off : Nat)
  | readField (f : CfgField)
  | setMemSpace (on : Bool)
  | setMsix (enable fnMask : Bool)
  | setField (f : CfgField) (value : BitVec 32)
  deriving DecidableEq, Repr

/-- What a host access to a BAR does: a write of a value, or a read (R148). -/
inductive BarAccess where
  | write (value : BitVec 64)
  | read
  deriving DecidableEq, Repr

/-- Who drives a digest-unit command: the host through PF BAR0, or the security controller (R416, R421). -/
inductive DruSide where
  | host | sc
  deriving DecidableEq, Repr

/-- Who claims the digest unit: one side, or both in the same cycle (R418). -/
inductive DruClaimant where
  | host | sc | both
  deriving DecidableEq, Repr

/-- The changes of R151 that can release a pending message. -/
inductive MsixChange where
  | unmask (vector : Nat)
  | enable
  | clearFnMask
  deriving DecidableEq, Repr

/-- How much of a register a read takes: 8 bytes, or the 4-byte half at its offset or 4 above it (R148). -/
inductive ReadPart where
  | whole
  | low
  | high
  deriving DecidableEq, Repr

/-- The MCTP bindings (R162, R163). -/
inductive Binding where
  | i3c | vdm
  deriving DecidableEq, Repr, Inhabited

/-- How a message reaches the device: its MCTP binding, and whether it came as a secured message (type 0x06) of the SPDM
secured session (R162, R164). -/
structure Channel where
  binding : Binding
  secured : Bool
  deriving DecidableEq, Repr, Inhabited

/-- What a requester asks of the PLDM inventory: the commands of the DSP0240 base (R166), or the identifiers of DSP0267. -/
inductive PldmInquiry where
  | identifiers
  | setTid (tid : Byte)
  | getTid
  | getVersion (pldmType : Byte)
  | getTypes
  | getCommands (pldmType : Byte)
  deriving DecidableEq, Repr

/-- The health tests of R437 and the known-answer test, as ENT_LAST.TEST numbers them. -/
inductive HealthTest where
  | rct | apt | alive | lock | kat
  deriving DecidableEq, Repr

/-- The debug functions of the TAP that need a right of R477. -/
inductive TapFunction where
  | scHalt | leDebug | trace | fuseRead
  deriving DecidableEq, Repr

/-- The unit of the engine that ran (part of) a job: its class and number. -/
structure UnitId where
  cls : UnitClass
  num : Nat
  deriving DecidableEq, Repr

/-- What physically went wrong in a job's run on its unit, beside its own outcome: a verdict pair other than
those of R240 (R241), a wrong result that the unit's own check reports (R398), or a fault in the lane-engine
steps of a hash-group job (R486). -/
inductive UnitFault where
  | none
  | badPair
  | wrongResult
  deriving DecidableEq, Repr

/-- Little-endian value of a byte string. -/
def leNat : Bytes → Nat
  | [] => 0
  | b :: bs => b.toNat + 256 * leNat bs

/-- The `n` bytes of `v`, least significant first. -/
def leBytes : Nat → Nat → Bytes
  | 0, _ => []
  | n + 1, v => BitVec.ofNat 8 v :: leBytes n (v / 256)

/-- `n` bytes of `b` from offset `off`. -/
def slice (b : Bytes) (off n : Nat) : Bytes := (b.drop off).take n

/-- `n` zero bytes. -/
def zeros (n : Nat) : Bytes := List.replicate n 0

end Sys2Proof
end

