-- ==== Sys2Proof/Syntax.lean ====
section
/-!
DEFINITION. Syntax.lean: the commands of the block, one constructor for each row of spec/opcode_table.json,
in the table's order. The table gives the rows no operands; each constructor carries what the rules say the
event brings with it: the register, queue, job or function it names and the data that only the outside world
has (bytes of host memory and of flash, measured values, which unit became free, a physical fault).
A job is named by the serial number the block gave it at dispatch. Where an operand has a default, the default is the
ordinary case: the host as the sender, a message in the clear, a whole register, no physical fault.
-/
namespace Sys2Proof

inductive Instr where
  -- power, clocks, thermal (Module, Power and Clocks)
  | vinRestored (mv : Nat) (straps : Straps) (chk : KeeperCheck)
  | undervoltage
  | vinAverage (mv : Nat)
  | vinTierDwellExpired (minMv : Nat)
  | pwrLimitWrite (value : BitVec 64)
  | pwrfailAssert
  | pfHoldEnd (passed : Bool := true)
  | nvOkSet
  | tjSample (code : BitVec 8)
  | throttleStep
  | throttleRelease
  | devThermRead
  -- start-up
  | railsStart (pwrfailHigh : Bool)
  | railsUp
  | railFault (rail : BitVec 16)
  | fusesSensed (margins : List MarginRead)
  | lcRollForward
  | rootDisableAtStart
  | bundleVerify (recoverLow : Bool) (romOk : Bool := true)
  | activationRollForward
  | fwStart (katOk : Bool) (blobVersion : Nat)
  | serviceReady
  | entropySamplingEnd (katOk : Bool)
  | drbgInstantiate (katOk : Bool)
  | linkTraining
  | configRequest (fn : Nat) (op : CfgOp)
  | loaderConfigTakeover
  -- resets and PCIe functions
  | perstAssert
  | perstDeassert
  | flr (fn : Nat)
  | flrComplete (fn : Nat)
  | vfEnableSet (numVfs : Nat)
  | vfEnableClear
  | tapReset
  | d3hotEntry (fn : Nat)
  | d0Return (fn : Nat)
  | busMasterDisable (fn : Nat)
  | busMasterEnable (fn : Nat)
  | msixUnmask (fn : Nat) (change : MsixChange)
  | dmaCompletion (target : DmaTarget) (err : Option DmaErr) (addr : BitVec 64)
  | registerWrite (fn : Nat) (offset size : Nat) (access : BarAccess)
  | evtCounterRead (bank reg : Nat) (part : ReadPart)
  -- platform guard and Sieve
  | flashResetWaitEnd (port : Port) (answers : List (Chip × Option Bytes))
  | guardCommitResume (manifest : Bytes) (images : List (List Bytes))
  | manifestReadDone (d : Nat) (bytes : Bytes)
  | regionReadDone (d region : Nat) (blocks recovery : List Bytes)
  | domainRelease (d : Nat)
  | pltPgHigh (n : Nat)
  | pltPgFall (n : Nat)
  | backgroundBurst (d region : Nat) (blocks recovery : List Bytes)
  | pltRecoverEdge (images : List (Nat × Nat × List Bytes))
  | hostRead (cmd : SpiCmd) (len : Nat) (flash : List FlashBlock) (eccBlock : Option Nat)
  | owedBlockCheck (port : Port) (data : Bytes)
  | mirrorRefetchDone (chip : Chip) (block : Nat) (data : Bytes)
  | hostProgram (cmd : SpiCmd) (data : Bytes)
  | hostErase (cmd : SpiCmd)
  | hostWriteEnable (cmd : SpiCmd)
  | hostStatusRead (cmd : SpiCmd) (flashStatus : BitVec 8)
  | hostIdRead (cmd : SpiCmd) (flashId : Bytes)
  | hostSfdpRead (cmd : SpiCmd) (len : Nat)
  | hostSuspend (cmd : SpiCmd)
  | hostResetCmd (cmd : SpiCmd)
  | hostModeSwitch (cmd : SpiCmd)
  | hostOpcodeDenied (cmd : SpiCmd)
  | hostResetPin (port : Port)
  | guardCommit (j : Nat) (manifest : Bytes) (images : List (List Bytes))
  | guardHold (j : Nat)
  | guardReverify (j : Nat)
  | guardSvnAdvance (j : Nat)
  -- attestation
  | getVersion (msg : Bytes) (ch : Channel := default)
  | getCapabilities (msg : Bytes) (ch : Channel := default)
  | negotiateAlgorithms (msg : Bytes) (ch : Channel := default)
  | getDigests (msg : Bytes) (ch : Channel := default)
  | getCertificate (slot off len : Nat) (msg : Bytes) (ch : Channel := default)
  | challenge (slot : Nat) (msg : Bytes) (ch : Channel := default)
  | getMeasurements (slot index : Nat) (sign : Bool) (msg : Bytes) (ch : Channel := default)
  | keyExchange (slot : Nat) (msg : Bytes) (ch : Channel := default)
  | finish (msg : Bytes) (verifyDataOk : Bool) (ch : Channel := default)
  | keyUpdate (msg : Bytes) (ch : Channel := default)
  | heartbeat (msg : Bytes) (ch : Channel := default)
  | endSession (msg : Bytes) (ch : Channel := default)
  | chunkSend (chunk : Bytes) (last : Bool) (ch : Channel := default)
  | chunkGet (msg : Bytes) (ch : Channel := default)
  -- management port
  | mgPointerWrite (byte : BitVec 8)
  | mgAlertWrite (value : BitVec 64)
  | entdaa (addr : BitVec 7)
  | setdasa (static addr : BitVec 7)
  | rstdaa
  | enec
  | disec
  | setmwl (len : Nat)
  | setmrl (len : Nat)
  | getpid
  | getbcr
  | getdcr
  | getstatus
  | getmwl
  | getmrl
  | getmxds
  | setEndpointId (b : Binding) (eid : BitVec 8)
  | getEndpointId (b : Binding)
  | getMctpVersionSupport (b : Binding) (msgType : BitVec 8)
  | getMessageTypeSupport (b : Binding)
  | getVendorMsgSupport (b : Binding)
  | mgControlRequest (ch : Channel) (entry input : Bytes)
  | mgAuthNonceRequest (ch : Channel)
  | mgAuthProof (ch : Channel) (method : Nat) (proof : Bytes)
  | queryDeviceIdentifiers (ch : Channel) (what : PldmInquiry := .identifiers)
  | getFirmwareParameters (ch : Channel)
  | requestUpdate (ch : Channel) (eid : BitVec 8) (maxTransfer : Nat)
  | passComponentTable (ch : Channel) (component : Nat)
  | updateComponent (ch : Channel) (header : Bytes)
  | firmwareDataResponse (ch : Channel) (offset : Nat) (data : Bytes) (readBackOk : Bool)
  | activateFirmware (ch : Channel)
  | getStatus (ch : Channel)
  | cancelUpdateComponent (ch : Channel)
  | cancelUpdate (ch : Channel)
  -- sessions
  | sessionAssign (j : Nat) (inp : Bytes)
  | sessionOpenNonce (j : Nat)
  | sessionOpenProof (j : Nat) (inp : Bytes)
  | sessionClose (j : Nat)
  | sessionIdleClose (fn : Nat)
  | nonceExpired (fn : Nat)
  | lockoutExpired (fn : Nat)
  -- queues and rings
  | doorbellSqRing (q : QRef)
  | doorbellCqReport (q : QRef) (cqHead : BitVec 16) (cqPhase : Bool)
  | sqRepoll (q : QRef)
  | indexBlockRead (q : QRef) (sqTail : BitVec 32) (rsvdZero : Bool) (err : Option DmaErr)
  | sqFetch (q : QRef) (entries : List Bytes) (err : Option DmaErr)
  | hopperDispatch (cls : UnitClass) (inFrags outFrags : List FragEntry) (fragErr : DmaErr := .ur)
  | engineWindowAdvance
  | shareWindowEnd (cls : UnitClass)
  | modTimerExpired (q : QRef)
  | jobComplete (j : Nat) (fault : UnitFault) (ecc : Option SramWord)
  | yieldPoint (j : Nat)
  | jobResume (j : Nat)
  | entropyWaitEnd (j : Nat)
  | entropyWaitTimeout (j : Nat)
  | queueCreate (j : Nat)
  | queueDestroy (j : Nat)
  | queueDrained (q : QRef)
  | queueRestart (j : Nat)
  | queueEnable (q : QRef) (cfg : BitVec 64)
  | queueDisable (q : QRef)
  | adminQueueRestart (fn : Nat) (skip : Bool)
  | qSubmittedRead (q : QRef)
  | identify (j : Nat)
  | abort (j : Nat)
  -- control commands
  | rootImport (j : Nat) (inp : Bytes)
  | rootGenerate (j : Nat)
  | rootSpoil (j : Nat)
  | opstoreConfig (j : Nat) (inp : Bytes)
  | slotGrant (j : Nat)
  | counterReestablish (j : Nat) (inp : Bytes)
  | timeSet (j : Nat)
  | timeSetTimeout (j : Nat)
  | ppsEdge
  | eventLogRead (j : Nat)
  | spoilNow (j : Nat)
  | fuseProgram (j : Nat) (inp : Bytes) (badWord : Option Nat)
  | fuseLock (j : Nat) (badWord : Option Nat)
  | lcTransition (j : Nat) (inp : Bytes) (badWord : Option Nat := none)
  | ownerTransfer (j : Nat) (badWord : Option Nat := none)
  | debugNonce (j : Nat)
  | debugCert (j : Nat) (inp : Bytes)
  | mfgCmd (entry input : Bytes)
  | mfgRsp
  | tapBypass
  | tapIdcode
  | tapSamplePreload
  | tapExtest
  -- firmware update
  | updateBegin (j : Nat) (inp : Bytes)
  | updateBlock (j : Nat) (inp : Bytes)
  | updateVerify (j : Nat) (readBackOk : Bool)
  | updateActivate (j : Nat)
  | updateConfirm (j : Nat)
  | updateCancel (j : Nat)
  | updateLockExpired
  | activationTimeReached
  | alignLost
  | activationDeferred
  | activationStart
  | activationDrainExpired
  | activationCopyDone
  | microcodeSwap
  | policySwap
  | selftestDone (passed : Bool)
  | confirmDeadlineExpired
  | confirmationRun
  | restore
  -- key commands
  | ctxCreate (j : Nat)
  | ctxQuery (j : Nat)
  | invalidate (j : Nat)
  | invalidateBarrier (j : Nat)
  | sweep (j : Nat)
  | contextImageSave (j : Nat)
  | contextImageCommit (j : Nat)
  | contextImageLoad (j : Nat) (inp : Bytes)
  | scopeSet (j : Nat)
  | externalWrap (j : Nat) (inp : Bytes)
  | keyExport (j : Nat)
  | migrateStatement (j : Nat) (inp : Bytes)
  | migrateExportNonce (j : Nat)
  | migrateExport (j : Nat) (inp : Bytes)
  | migrateImport (j : Nat) (inp : Bytes)
  | statefulQuery (j : Nat)
  | reservationWrite (rec : Nat)
  -- lattice
  | mlkemKeygen (j : Nat)
  | mlkemEncaps (j : Nat) (inp : Bytes)
  | mlkemDecaps (j : Nat) (inp : Bytes)
  | mlkemEncapsInternal (j : Nat) (inp : Bytes)
  | mlkemKeygenInternal (j : Nat) (inp : Bytes)
  | mldsaKeygen (j : Nat)
  | mldsaSign (j : Nat) (inp : Bytes)
  | mldsaVerify (j : Nat) (inp : Bytes)
  | mldsaKeygenInternal (j : Nat) (inp : Bytes)
  -- hash fabric
  | hash (j : Nat) (inp : Bytes)
  | cshake (j : Nat) (inp : Bytes)
  | kmac (j : Nat) (inp : Bytes)
  | hmac (j : Nat) (inp : Bytes)
  | streamOpen (j : Nat) (inp : Bytes)
  | streamPart (j : Nat) (inp : Bytes)
  | streamFinal (j : Nat) (inp : Bytes)
  | slhdsaKeygen (j : Nat)
  | slhdsaSign (j : Nat) (inp : Bytes)
  | slhdsaVerify (j : Nat) (inp : Bytes)
  | slhdsaKeygenInternal (j : Nat) (inp : Bytes)
  | lmsKeygen (j : Nat)
  | lmsSign (j : Nat) (inp : Bytes)
  | lmsVerify (j : Nat) (inp : Bytes)
  | xmssKeygen (j : Nat)
  | xmssSign (j : Nat) (inp : Bytes)
  | xmssVerify (j : Nat) (inp : Bytes)
  | cacheSave (j : Nat)
  | cacheLoad (j : Nat) (inp : Bytes)
  | seal (j : Nat) (inp : Bytes)
  -- code-based
  | mceKeygen (j : Nat)
  | mceEncaps (j : Nat) (inp : Bytes)
  | mceDecaps (j : Nat) (inp : Bytes)
  | mcePkLoad (j : Nat) (inp : Bytes)
  | hqcKeygen (j : Nat)
  | hqcEncaps (j : Nat) (inp : Bytes)
  | hqcDecaps (j : Nat) (inp : Bytes)
  -- curves, RSA, modular arithmetic, DX500, AES
  | ecKeygen (j : Nat)
  | ecdsaSign (j : Nat) (inp : Bytes)
  | ecdsaVerify (j : Nat) (inp : Bytes)
  | ecdh (j : Nat) (inp : Bytes)
  | eddsaSign (j : Nat) (inp : Bytes)
  | eddsaVerify (j : Nat) (inp : Bytes)
  | ecValidate (j : Nat) (inp : Bytes)
  | curveLoad (j : Nat) (inp : Bytes)
  | rsaKeygen (j : Nat)
  | rsaKeyLoad (j : Nat) (inp : Bytes)
  | rsaPrivate (j : Nat) (inp : Bytes)
  | rsaPublic (j : Nat) (inp : Bytes)
  | modexp (j : Nat) (inp : Bytes)
  | modmul (j : Nat) (inp : Bytes)
  | modinv (j : Nat) (inp : Bytes)
  | dxProgramLoad (j : Nat) (inp : Bytes)
  | dxRun (j : Nat)
  | dxSlotWrite (j : Nat) (inp : Bytes)
  | dxSlotRead (j : Nat)
  | gcmEncrypt (j : Nat) (inp : Bytes)
  | gcmDecrypt (j : Nat) (inp : Bytes)
  | xtsEncrypt (j : Nat) (inp : Bytes)
  | xtsDecrypt (j : Nat) (inp : Bytes)
  | kwWrap (j : Nat) (inp : Bytes)
  | kwUnwrap (j : Nat) (inp : Bytes)
  | cmac (j : Nat) (inp : Bytes)
  | random (j : Nat) (inp : Bytes)
  | noiseRead (j : Nat)
  -- digest register unit
  | druClaim (tag : BitVec 8) (page : Bool) (who : DruClaimant := .host)
  | druRelease (page : Bool) (who : DruSide := .host)
  | druStart (alg : BitVec 4) (sealed page : Bool) (who : DruSide := .host)
  | druRestore (sealed page : Bool)
  | druSave (page : Bool)
  | druPageSelect (page : Bool)
  | druSaveDone
  | druDataWrite (size : Nat) (word : BitVec 64) (who : DruSide := .host)
  | druLastcntWrite (count : BitVec 4) (who : DruSide := .host)
  | druLastWrite (size : Nat) (word : BitVec 64) (who : DruSide := .host)
  | druFinishDone
  | druExpectWrite (index : Nat) (value : BitVec 64)
  | druResultRead (index : Option Nat) (doneThisCycle : Bool) (part : ReadPart := .whole)
  -- entropy
  | blockRelease
  | pairFailure (osc : Nat) (test : HealthTest) (partner : Option Nat)
  | retestPass (pair : Nat)
  -- tamper and faults
  | lidMesh (nets : BitVec 4)
  | loopMismatch (n : Nat)
  | voltageMinor
  | clockMinor
  | tempMinor (code : BitVec 8 := 0xFF)
  | minorPersist (cls : Nat)
  | lockstep
  | sramCorrected (w : SramWord)
  | sramUncorrectable (w : SramWord)
  | coreMismatch (core : Nat)
  | coreKat (failed : List Nat)
  | tamperClear
  | rootDisablePending
  | tamperRecordHandled
  | logBufferFlush
  -- the table's later rows
  | mramRefresh
  | vbatRemoved
  | vbatApplied
  | linkTrainingComplete
  | mgRegisterRead (len : Nat)
  | tapDebugInstruction (f : TapFunction)
  | highHalfWaitTimeout (j : Nat)
  | randomCapStep
  | indexPortServe
  deriving DecidableEq, Repr

end Sys2Proof
end

