-- ==== Sys2Proof/Config.lean ====
section
/-!
DEFINITION. Config.lean: the values the spec leaves open, and what it takes from outside itself that the model
does not compute. Every constant here is opaque: no proof can see a value of it, so a claim proved of the model
holds whatever the value is. The functions of the standards the spec names are computed beside the commands
(Digests, Aes, Curves, Lattices, HashSigs, Codes); what stays here keeps every input the rules put together
(log row 4).
-/
namespace Sys2Proof.Config

/-- What the model takes from outside the spec without computing it: the pieces of HQC (R357), a prime test beside the
computed one (R397), a DX500 program's effect on its registers (R408), the maker's keys, measurements and microcode,
the frames of X.509, SPDM and PLDM, and the configuration space the rules leave open. -/
inductive Prim where
  | hqcPk (pset : Nat) | hqcCt (pset : Nat) | hqcSs (pset : Nat) | hqcMsg (pset : Nat) | hqcReject (pset : Nat)
  | probablePrime
  | dxRun | dxStatus | dxSeal
  | makerKey | makerSig | romDigest | fwDigest (part : Nat) | x509 | cfgSpace | spdm (msg : Nat) | pldm (cmd : Nat) | microcode
  deriving DecidableEq, Repr

/-- Byte `i` of the value of a standard's function. -/
opaque primByte : Prim → List Bytes → Nat → Byte

/-- A verdict of a standard's function. -/
opaque primTrue : Prim → List Bytes → Bool

/-- A public count a standard's function yields (iterations, candidates, an index, a length). -/
opaque primCount : Prim → List Bytes → Nat

/-- Byte `i` of the `k`-th free value: DRBG output, noise and every other value the spec leaves open. -/
opaque freeByte : Nat → Nat → Byte

/-- The `k`-th free number. -/
opaque freeNat : Nat → Nat

/-- CYCLES of a job for which the spec states on what it depends but gives no figure (R235): a function of
the opcode and the public facts. -/
opaque cycles : BitVec 16 → List Nat → Nat

/-- The check bits of a fuse word other than the blank one (R457): the spec does not name the code. -/
opaque fuseCheckBits : BitVec 32 → BitVec 7

/-- The decoding of a raw fuse word that is not a codeword: corrected data, or uncorrectable (R65). -/
opaque fuseCorrect : BitVec 39 → Option (BitVec 32)

/-- What a byte of a flash's SFDP copy is to the Sieve (R119): a parameter of no concern, a dummy-cycle field of a read
command in a host-side mode (the bits of the byte it fills and their place), or the size of the erase type with an opcode. -/
inductive SfdpRole where
  | same
  | dummy (mode : Nat) (mask : Byte) (shift : Nat)
  | eraseSize (opcode : Nat)
  deriving DecidableEq, Repr, Inhabited

/-- The role of byte `i` of an SFDP copy: the tables are JESD216's (log row 4). -/
opaque sfdpRole : Bytes → Nat → SfdpRole

/-- The words of the mask ROM, by word address (R69). -/
opaque maskRom : Nat → BitVec 32

/-- What a single GETSTATUS, GETMXDS or IDCODE answers: the spec gives no value. -/
opaque i3cByte : Nat → Nat → Byte

/-- The value of a standard's function as `n` bytes. -/
def prim (p : Prim) (ins : List Bytes) (n : Nat) : Bytes := (List.range n).map (primByte p ins)

/-- The `k`-th free value as `n` bytes. -/
def freeBytes (k n : Nat) : Bytes := (List.range n).map (freeByte k)

end Sys2Proof.Config
end

