-- ==== Sys2Proof/Machine/Digests.lean ====
section
/-!
DEFINITION. Machine/Digests.lean: the hash functions of R325 and R415 as their standards define them: SHA-2 (FIPS 180-4),
SHA-3 and SHAKE (FIPS 202), cSHAKE and KMAC (SP 800-185) and HMAC (FIPS 198-1), over whole bytes. The spec names the
standards and does not restate them (log row 4).
-/
namespace Sys2Proof.Machine

/-- Big-endian value of a byte string. -/
def beNat (b : Bytes) : Nat := leNat b.reverse

/-- `n` big-endian bytes of a number. -/
def beBytes (n v : Nat) : Bytes := (leBytes n v).reverse

/-- Bit length. -/
def bitLen (n : Nat) : Nat := if n = 0 then 0 else Nat.log2 n + 1

/-- b ^ e modulo m over the `n` low bits of e. -/
def powLow (m : Nat) : (n : Nat) → Nat → Nat → Nat
  | 0, _, _ => 1 % m
  | n + 1, b, e =>
    let r := powLow m n (b * b % m) (e / 2)
    if e % 2 = 1 then r * b % m else r

/-- b ^ e modulo m. -/
def powModN (m b e : Nat) : Nat := powLow m (bitLen e) (b % m) e

/-- a − b modulo m. -/
def subMod (m a b : Nat) : Nat := (a + (m - b % m)) % m

/-- Bytewise exclusive or, as long as the shorter. -/
def xorBytes (a b : Bytes) : Bytes := List.zipWith (· ^^^ ·) a b

/-- Chunks of `n` bytes, at most `k` of them. -/
def chunks (n : Nat) : (k : Nat) → Bytes → List Bytes
  | 0, _ => []
  | k + 1, b => b.take n :: chunks n k (b.drop n)

/-- A string cut into blocks of `n` bytes; the last may be short. -/
def blocksOf (n : Nat) (b : Bytes) : List Bytes := chunks n ((b.length + n - 1) / n) b

end Sys2Proof.Machine

namespace Sys2Proof.Config
open Sys2Proof.Machine

/-! ### SHA-2 (FIPS 180-4) -/

/-- The constants of SHA-384 and SHA-512; SHA-256 uses the upper halves of the first 64. -/
def sha2K : List Nat :=
  [0x428a2f98d728ae22, 0x7137449123ef65cd, 0xb5c0fbcfec4d3b2f, 0xe9b5dba58189dbbc,
   0x3956c25bf348b538, 0x59f111f1b605d019, 0x923f82a4af194f9b, 0xab1c5ed5da6d8118,
   0xd807aa98a3030242, 0x12835b0145706fbe, 0x243185be4ee4b28c, 0x550c7dc3d5ffb4e2,
   0x72be5d74f27b896f, 0x80deb1fe3b1696b1, 0x9bdc06a725c71235, 0xc19bf174cf692694]
  ++ [0xe49b69c19ef14ad2, 0xefbe4786384f25e3, 0x0fc19dc68b8cd5b5, 0x240ca1cc77ac9c65,
   0x2de92c6f592b0275, 0x4a7484aa6ea6e483, 0x5cb0a9dcbd41fbd4, 0x76f988da831153b5,
   0x983e5152ee66dfab, 0xa831c66d2db43210, 0xb00327c898fb213f, 0xbf597fc7beef0ee4,
   0xc6e00bf33da88fc2, 0xd5a79147930aa725, 0x06ca6351e003826f, 0x142929670a0e6e70]
  ++ [0x27b70a8546d22ffc, 0x2e1b21385c26c926, 0x4d2c6dfc5ac42aed, 0x53380d139d95b3df,
   0x650a73548baf63de, 0x766a0abb3c77b2a8, 0x81c2c92e47edaee6, 0x92722c851482353b,
   0xa2bfe8a14cf10364, 0xa81a664bbc423001, 0xc24b8b70d0f89791, 0xc76c51a30654be30,
   0xd192e819d6ef5218, 0xd69906245565a910, 0xf40e35855771202a, 0x106aa07032bbd1b8]
  ++ [0x19a4c116b8d2d0c8, 0x1e376c085141ab53, 0x2748774cdf8eeb99, 0x34b0bcb5e19b48a8,
   0x391c0cb3c5c95a63, 0x4ed8aa4ae3418acb, 0x5b9cca4f7763e373, 0x682e6ff3d6b2b8a3,
   0x748f82ee5defb2fc, 0x78a5636f43172f60, 0x84c87814a1f0ab72, 0x8cc702081a6439ec,
   0x90befffa23631e28, 0xa4506cebde82bde9, 0xbef9a3f7b2c67915, 0xc67178f2e372532b]
  ++ [0xca273eceea26619c, 0xd186b8c721c0c207, 0xeada7dd6cde0eb1e, 0xf57d4f7fee6ed178,
   0x06f067aa72176fba, 0x0a637dc5a2c898a6, 0x113f9804bef90dae, 0x1b710b35131c471b,
   0x28db77f523047d84, 0x32caab7b40c72493, 0x3c9ebe0a15c9bebc, 0x431d67c49c100d4c,
   0x4cc5d4becb3e42b6, 0x597f299cfc657e2a, 0x5fcb6fab3ad6faec, 0x6c44198c4a475817]

/-- What distinguishes the two word sizes: the rotations of the four functions (the third of a small one is a shift) and
the round constants. -/
structure Sha2Form (w : Nat) where
  bigE   : Nat × Nat × Nat
  bigA   : Nat × Nat × Nat
  small0 : Nat × Nat × Nat
  small1 : Nat × Nat × Nat
  k      : List (BitVec w)

def sha2Form32 : Sha2Form 32 :=
  { bigE := (6, 11, 25), bigA := (2, 13, 22), small0 := (7, 18, 3), small1 := (17, 19, 10),
    k := (sha2K.take 64).map fun k => BitVec.ofNat 32 (k / 2 ^ 32) }

def sha2Form64 : Sha2Form 64 :=
  { bigE := (14, 18, 41), bigA := (28, 34, 39), small0 := (1, 8, 7), small1 := (19, 61, 6), k := sha2K.map (BitVec.ofNat 64) }

/-- The eight working variables. -/
structure Sha2Vars (w : Nat) where
  a : BitVec w
  b : BitVec w
  c : BitVec w
  d : BitVec w
  e : BitVec w
  f : BitVec w
  g : BitVec w
  h : BitVec w

def sha2Big (r : Nat × Nat × Nat) {w : Nat} (x : BitVec w) : BitVec w :=
  x.rotateRight r.1 ^^^ x.rotateRight r.2.1 ^^^ x.rotateRight r.2.2

def sha2Small (r : Nat × Nat × Nat) {w : Nat} (x : BitVec w) : BitVec w :=
  x.rotateRight r.1 ^^^ x.rotateRight r.2.1 ^^^ (x >>> r.2.2)

/-- One round with its constant and schedule word. -/
def Sha2Vars.round {w : Nat} (p : Sha2Form w) (v : Sha2Vars w) (k m : BitVec w) : Sha2Vars w :=
  let t1 := v.h + sha2Big p.bigE v.e + ((v.e &&& v.f) ^^^ (~~~v.e &&& v.g)) + k + m
  let t2 := sha2Big p.bigA v.a + ((v.a &&& v.b) ^^^ (v.a &&& v.c) ^^^ (v.b &&& v.c))
  { a := t1 + t2, b := v.a, c := v.b, d := v.c, e := v.d + t1, f := v.e, g := v.f, h := v.g }

/-- The rounds of the constants that remain, over the sixteen schedule words that come next. -/
def sha2Rounds {w : Nat} (p : Sha2Form w) : List (BitVec w) → List (BitVec w) → Sha2Vars w → Sha2Vars w
  | [], _, v => v
  | k :: ks, win, v =>
    let at' (i : Nat) : BitVec w := win.getD i 0
    let next := sha2Small p.small1 (at' 14) + at' 9 + sha2Small p.small0 (at' 1) + at' 0
    sha2Rounds p ks (win.drop 1 ++ [next]) (v.round p k (at' 0))

/-- The compression function: a chaining value of eight words and one block. -/
def sha2Block {w : Nat} (p : Sha2Form w) (h : List (BitVec w)) (block : Bytes) : List (BitVec w) :=
  let i (n : Nat) : BitVec w := h.getD n 0
  let v := sha2Rounds p p.k ((chunks (w / 8) 16 block).map fun b => BitVec.ofNat w (beNat b))
    { a := i 0, b := i 1, c := i 2, d := i 3, e := i 4, f := i 5, g := i 6, h := i 7 }
  List.zipWith (· + ·) h [v.a, v.b, v.c, v.d, v.e, v.f, v.g, v.h]

/-- The padding of a message of `n` bytes: a one bit, zeros, the length in bits. -/
def sha2Pad (w n : Nat) : Bytes :=
  let b := 2 * w
  [0x80] ++ zeros ((2 * b - (n + 1 + b / 8) % b) % b) ++ beBytes (b / 8) (8 * n)

/-- The chaining value after whole blocks. -/
def sha2Absorb {w : Nat} (p : Sha2Form w) (h : List (BitVec w)) (m : Bytes) : List (BitVec w) :=
  (blocksOf (2 * w) m).foldl (sha2Block p) h

/-- The words of a chaining value, most significant byte first. -/
def sha2Bytes {w : Nat} (h : List (BitVec w)) : Bytes := h.flatMap fun x => beBytes (w / 8) x.toNat

/-- The initial chaining values. -/
def sha512Init : List (BitVec 64) :=
  [0x6a09e667f3bcc908, 0xbb67ae8584caa73b, 0x3c6ef372fe94f82b, 0xa54ff53a5f1d36f1, 0x510e527fade682d1, 0x9b05688c2b3e6c1f,
   0x1f83d9abfb41bd6b, 0x5be0cd19137e2179]

def sha384Init : List (BitVec 64) :=
  [0xcbbb9d5dc1059ed8, 0x629a292a367cd507, 0x9159015a3070dd17, 0x152fecd8f70e5939, 0x67332667ffc00b31, 0x8eb44a8768581511,
   0xdb0c2e0d64f98fa7, 0x47b5481dbefa4fa4]

def sha256Init : List (BitVec 32) := sha512Init.map fun x => x.extractLsb' 32 32

/-! ### Keccak (FIPS 202) -/

/-- The round constants. -/
def keccakRc : List (BitVec 64) :=
  [0x1, 0x8082, 0x800000000000808a, 0x8000000080008000, 0x808b, 0x80000001, 0x8000000080008081, 0x8000000000008009]
  ++ [0x8a, 0x88, 0x80008009, 0x8000000a, 0x8000808b, 0x800000000000008b, 0x8000000000008089, 0x8000000000008003]
  ++ [0x8000000000008002, 0x8000000000000080, 0x800a, 0x800000008000000a, 0x8000000080008081, 0x8000000000008080, 0x80000001,
      0x8000000080008008]

/-- The rotation of lane (x, y), at x + 5y. -/
def keccakRot : List Nat := [0, 1, 62, 28, 27, 36, 44, 6, 55, 20, 3, 10, 43, 25, 39, 41, 45, 15, 21, 8, 18, 2, 61, 56, 14]

/-- One round on 25 lanes. -/
def keccakRound (a : List (BitVec 64)) (rc : BitVec 64) : List (BitVec 64) :=
  let lane (s : List (BitVec 64)) (x y : Nat) : BitVec 64 := s.getD (x % 5 + 5 * y) 0
  let c := (List.range 5).map fun x => lane a x 0 ^^^ lane a x 1 ^^^ lane a x 2 ^^^ lane a x 3 ^^^ lane a x 4
  let d := (List.range 5).map fun x => c.getD ((x + 4) % 5) 0 ^^^ (c.getD ((x + 1) % 5) 0).rotateLeft 1
  let t := (List.range 25).map fun i => (a.getD i 0 ^^^ d.getD (i % 5) 0).rotateLeft (keccakRot.getD i 0)
  let b := (List.range 25).map fun i => lane t (i % 5 + 3 * (i / 5)) (i % 5)
  let e := (List.range 25).map fun i => lane b (i % 5) (i / 5) ^^^ (~~~lane b (i % 5 + 1) (i / 5) &&& lane b (i % 5 + 2) (i / 5))
  List.zipWith (· ^^^ ·) e (rc :: List.replicate 24 0)

/-- Keccak-f[1600] on a state of 200 bytes. -/
def keccakF (s : Bytes) : Bytes :=
  (keccakRc.foldl keccakRound ((chunks 8 25 s).map fun b => BitVec.ofNat 64 (leNat b))).flatMap fun x => leBytes 8 x.toNat

/-- The sponge's state after whole blocks. -/
def keccakAbsorb (rate : Nat) (s m : Bytes) : Bytes :=
  (blocksOf rate m).foldl (fun s b => keccakF (xorBytes s (b ++ zeros (200 - b.length)))) s

/-- The padding of the last block of a message of `n` bytes, with the domain bits of the function in front. -/
def keccakPad (rate : Nat) (domain : Byte) (n : Nat) : Bytes :=
  let k := rate - n % rate
  if k = 1 then [domain ||| 0x80] else [domain] ++ zeros (k - 2) ++ [0x80]

/-- `k` blocks of output. -/
def keccakSqueeze (rate : Nat) : Nat → Bytes → Bytes
  | 0, _ => []
  | k + 1, s => s.take rate ++ (if k = 0 then [] else keccakSqueeze rate k (keccakF s))

/-- A sponge that has absorbed whole blocks takes the rest of a message and gives `n` bytes. -/
def keccakFinish (rate : Nat) (domain : Byte) (s rest : Bytes) (n : Nat) : Bytes :=
  (keccakSqueeze rate ((n + rate - 1) / rate) (keccakAbsorb rate s (rest ++ keccakPad rate domain rest.length))).take n

/-- A sponge over a whole message. -/
def sponge (rate : Nat) (domain : Byte) (m : Bytes) (n : Nat) : Bytes := keccakFinish rate domain (zeros 200) m n

/-! ### The functions by ALG (R310, R326) -/

/-- The digest length of ALG 1 to 8 (R310). -/
def digestLen : Nat → Nat
  | 1 => 32 | 2 => 48 | 3 => 64 | 4 => 32 | 5 => 48 | 6 => 64 | 7 => 32 | 8 => 64 | _ => 0

/-- The block of ALG 1 to 8 in bytes: SHA-2's block, or the sponge's rate. -/
def blockLen : Nat → Nat
  | 1 => 64 | 2 => 128 | 3 => 128 | 4 => 136 | 5 => 104 | 6 => 72 | 7 => 168 | _ => 136

/-- The state of a function that has absorbed whole blocks, as bytes: the chaining value of SHA-2 most significant byte
first, or the 200 bytes of the sponge. An empty `base` is the state before the first block. -/
def hashState (alg : Nat) (base m : Bytes) : Bytes :=
  let words (w : Nat) : List (BitVec w) := (chunks (w / 8) 8 base).map fun b => BitVec.ofNat w (beNat b)
  if alg = 1 then sha2Bytes (sha2Absorb sha2Form32 (if base = [] then sha256Init else words 32) m)
  else if alg = 2 ∨ alg = 3 then
    sha2Bytes (sha2Absorb sha2Form64 (if base = [] then (if alg = 2 then sha384Init else sha512Init) else words 64) m)
  else keccakAbsorb (blockLen alg) (if base = [] then zeros 200 else base) m

/-- The value over a state that holds `done` bytes and the rest of the message: a digest, or `n` bytes of an XOF. -/
def hashResume (alg : Nat) (base : Bytes) (done : Nat) (rest : Bytes) (n : Nat) : Bytes :=
  if alg = 1 then (hashState 1 base (rest ++ sha2Pad 32 (done + rest.length))).take n
  else if alg = 2 ∨ alg = 3 then (hashState alg base (rest ++ sha2Pad 64 (done + rest.length))).take n
  else keccakFinish (blockLen alg) (if alg ≤ 6 then 0x06 else 0x1F) (if base = [] then zeros 200 else base) rest n

/-- The value of ALG over a message: a digest, or `n` bytes of an XOF. -/
@[irreducible] def hashOf (alg : Nat) (m : Bytes) (n : Nat) : Bytes := hashResume alg [] 0 m (if alg ≤ 6 then min n (digestLen alg) else n)

/-- SHA-256 of a message. -/
def sha256 (m : Bytes) : Bytes := hashOf 1 m 32

/-- SHA-384 of a message. -/
def sha384 (m : Bytes) : Bytes := hashOf 2 m 48

/-- SHA-512 of a message. -/
def sha512 (m : Bytes) : Bytes := hashOf 3 m 64

/-- SHA3-256 and SHA3-512. -/
def sha3_256 (m : Bytes) : Bytes := hashOf 4 m 32
def sha3_512 (m : Bytes) : Bytes := hashOf 6 m 64

/-- `n` bytes of SHAKE128 and of SHAKE256. -/
def shake128 (m : Bytes) (n : Nat) : Bytes := hashOf 7 m n
def shake256 (m : Bytes) (n : Nat) : Bytes := hashOf 8 m n

/-! ### cSHAKE and KMAC (SP 800-185) -/

/-- The number of bytes of a number, at least one. -/
def intBytes (v : Nat) : Nat := max 1 ((Nat.log2 v + 8) / 8)

def leftEncode (v : Nat) : Bytes := BitVec.ofNat 8 (intBytes v) :: beBytes (intBytes v) v
def rightEncode (v : Nat) : Bytes := beBytes (intBytes v) v ++ [BitVec.ofNat 8 (intBytes v)]
def encodeString (b : Bytes) : Bytes := leftEncode (8 * b.length) ++ b

def bytepad (b : Bytes) (rate : Nat) : Bytes :=
  let x := leftEncode rate ++ b
  x ++ zeros ((rate - x.length % rate) % rate)

/-- cSHAKE128 (ALG 7) or cSHAKE256 (ALG 8) with a function name and a customisation string. -/
@[irreducible] def cshakeOf (alg : Nat) (name custom m : Bytes) (n : Nat) : Bytes :=
  if name = [] ∧ custom = [] then hashOf alg m n
  else sponge (blockLen alg) 0x04 (bytepad (encodeString name ++ encodeString custom) (blockLen alg) ++ m) n

/-- The bytes of an ASCII string. -/
def ascii (t : String) : Bytes := t.toList.map fun c => BitVec.ofNat 8 c.toNat

/-- KMAC128 (ALG 7) or KMAC256 (ALG 8), or the XOF form, in which the output length does not enter. -/
def kmacOf (alg : Nat) (xof : Bool) (key custom m : Bytes) (n : Nat) : Bytes :=
  cshakeOf alg (ascii "KMAC") custom (bytepad (encodeString key) (blockLen alg) ++ m ++ rightEncode (if xof then 0 else 8 * n)) n

/-- KMAC256(key, x, 8n bits, custom) as the rules of chapter 07 use it. -/
def kmac256 (key x : Bytes) (n : Nat) (custom : Bytes) : Bytes := kmacOf 8 false key custom x n

/-! ### HMAC (FIPS 198-1) -/

/-- HMAC with the digest of ALG 1 to 6. -/
def hmacOf (alg : Nat) (key m : Bytes) : Bytes :=
  let h (x : Bytes) : Bytes := hashOf alg x (digestLen alg)
  let b := blockLen alg
  let k := if b < key.length then h key else key
  let pad (c : Byte) : Bytes := (k ++ zeros (b - k.length)).map (· ^^^ c)
  h (pad 0x5C ++ h (pad 0x36 ++ m))

end Sys2Proof.Config
end

