-- ==== Sys2Proof/Machine/Aes.lean ====
section
/-!
DEFINITION. Machine/Aes.lean: AES-256 (FIPS 197) and its modes as R409 lists them: GCM with a 96-bit IV (SP 800-38D),
XTS with ciphertext stealing (SP 800-38E), KW and KWP (SP 800-38F) and CMAC (SP 800-38B). The spec names the standards and
does not restate them (log row 4).
-/
namespace Sys2Proof.Machine
open Sys2Proof

/-! ### The cipher -/

/-- Multiplication by x in GF(2^8). -/
def gfX (a : Byte) : Byte := if a.getLsbD 7 then (a <<< 1) ^^^ 0x1B else a <<< 1

/-- A product in GF(2^8), over the `n` low bits of the second factor. -/
def gfMul (n : Nat) (a b : Byte) : Byte :=
  match n with
  | 0 => 0
  | n + 1 => (if b.getLsbD 0 then a else 0) ^^^ gfMul n (gfX a) (b >>> 1)

/-- The inverse, with 0 for 0: the 254th power. -/
def gfInv (a : Byte) : Byte :=
  let m := gfMul 8
  let a2 := m a a
  let a3 := m a2 a
  let a12 := m (m a3 a3) (m a3 a3)
  let a15 := m a12 a3
  let a240 := m (m (m a15 a15) (m a15 a15)) (m (m a15 a15) (m a15 a15))
  let a240 := m a240 a240
  m (m a240 a12) a2

/-- The substitution box: the inverse, then the affine map. -/
def sboxOf (a : Byte) : Byte :=
  let b := gfInv a
  b ^^^ b.rotateLeft 1 ^^^ b.rotateLeft 2 ^^^ b.rotateLeft 3 ^^^ b.rotateLeft 4 ^^^ 0x63

/-- The box and its inverse as tables. -/
def sboxTable : Bytes := (List.range 256).map fun i => sboxOf (BitVec.ofNat 8 i)
def sboxInvTable : Bytes := (List.range 256).map fun i => BitVec.ofNat 8 (sboxTable.findIdx (· = BitVec.ofNat 8 i))

def sbox (a : Byte) : Byte := sboxTable.getD a.toNat 0
def sboxInv (a : Byte) : Byte := sboxInvTable.getD a.toNat 0

/-- The key schedule of AES-256, word `i` from the words before it, the last first. -/
def aesExpand : (left i : Nat) → Byte → List Bytes → List Bytes
  | 0, _, _, ws => ws
  | n + 1, i, rc, ws =>
    let prev := ws.getD 0 []
    let t :=
      if i % 8 = 0 then xorBytes ((prev.drop 1 ++ prev.take 1).map sbox) [rc, 0, 0, 0]
      else if i % 8 = 4 then prev.map sbox else prev
    aesExpand n (i + 1) (if i % 8 = 0 then gfX rc else rc) (xorBytes (ws.getD 7 []) t :: ws)

/-- The fifteen round keys of a 32-byte key. -/
def aesKeys (key : Bytes) : List Bytes := chunks 16 15 ((aesExpand 52 8 1 (chunks 4 8 key).reverse).reverse.flatten)

/-- A column times the circulant of four bytes. -/
def mixColumn (row : Bytes) (c : Bytes) : Bytes :=
  (List.range 4).map fun i => (List.range 4).foldl (fun t k => t ^^^ gfMul 8 (c.getD k 0) (row.getD ((k + 4 - i) % 4) 0)) 0

def mixColumns (row s : Bytes) : Bytes := (chunks 4 4 s).flatMap (mixColumn row)

/-- Row `r` moves left by `r` columns, times `k` (1 to encrypt, 3 to decrypt). -/
def shiftRows (k : Nat) (s : Bytes) : Bytes := (List.range 16).map fun i => s.getD ((i + 4 * k * (i % 4)) % 16) 0

/-- Encrypt one block under the round keys. -/
def aesBlock (ks : List Bytes) (b : Bytes) : Bytes :=
  let s := (ks.drop 1).take 13 |>.foldl
    (fun s k => xorBytes (mixColumns [2, 3, 1, 1] (shiftRows 1 (s.map sbox))) k) (xorBytes b (ks.getD 0 []))
  xorBytes (shiftRows 1 (s.map sbox)) (ks.getD 14 [])

/-- Decrypt one block. -/
def aesUnblock (ks : List Bytes) (b : Bytes) : Bytes :=
  let s := ((ks.drop 1).take 13).reverse.foldl
    (fun s k => mixColumns [14, 11, 13, 9] (xorBytes ((shiftRows 3 s).map sboxInv) k)) (xorBytes b (ks.getD 14 []))
  xorBytes ((shiftRows 3 s).map sboxInv) (ks.getD 0 [])

/-- AES-256 of one block, and its inverse. -/
@[irreducible] def aesEnc (key b : Bytes) : Bytes := aesBlock (aesKeys key) b
@[irreducible] def aesDec (key b : Bytes) : Bytes := aesUnblock (aesKeys key) b

/-! ### GCM -/

/-- A product of GHASH: bit 0 of a block is its most significant. -/
def ghashMul (x y : BitVec 128) : BitVec 128 :=
  ((List.range 128).foldl (fun (zv : BitVec 128 × BitVec 128) i =>
    (if x.getMsbD i then zv.1 ^^^ zv.2 else zv.1,
     if zv.2.getLsbD 0 then (zv.2 >>> 1) ^^^ 0xE1000000000000000000000000000000#128 else zv.2 >>> 1)) (0, y)).1

/-- A string padded with zeros to whole blocks. -/
def pad16 (b : Bytes) : Bytes := b ++ zeros ((16 - b.length % 16) % 16)

/-- GHASH of whole blocks under H. -/
def ghash (h : BitVec 128) (m : Bytes) : BitVec 128 :=
  (blocksOf 16 m).foldl (fun y b => ghashMul (y ^^^ BitVec.ofNat 128 (beNat b)) h) 0

/-- The key stream from a counter block: its last four bytes count. -/
def gctr (key iv : Bytes) (from' : Nat) (m : Bytes) : Bytes :=
  xorBytes m ((List.range ((m.length + 15) / 16)).flatMap fun i => aesEnc key (iv ++ beBytes 4 (from' + i)))

/-- The ciphertext of a plaintext, and the plaintext of a ciphertext. -/
def gcmCrypt (key iv m : Bytes) : Bytes := gctr key iv 2 m

/-- The 16-byte tag over additional data and ciphertext. -/
def gcmTag (key iv aad c : Bytes) : Bytes :=
  let h := BitVec.ofNat 128 (beNat (aesEnc key (zeros 16)))
  gctr key iv 1 (beBytes 16 (ghash h (pad16 aad ++ pad16 c ++ beBytes 8 (8 * aad.length) ++ beBytes 8 (8 * c.length))).toNat)

/-- The tag, which may be truncated, belongs to the ciphertext. -/
def gcmOk (key iv aad c tag : Bytes) : Bool := (gcmTag key iv aad c).take tag.length = tag

/-! ### XTS -/

/-- The next tweak: multiplication by x, least significant byte first. -/
def xtsNext (t : Bytes) : Bytes :=
  let n := 2 * leNat t
  leBytes 16 (if n < 2 ^ 128 then n else Nat.xor (n - 2 ^ 128) 0x87)

/-- One block under a tweak. -/
def xtsBlock (f : Bytes → Bytes) (t b : Bytes) : Bytes := xorBytes (f (xorBytes b t)) t

/-- A data unit with ciphertext stealing, from its first tweak; the last full block of a unit with a partial one takes the
tweak after it when deciphering. -/
def xtsUnit (f : Bytes → Bytes) (dec : Bool) : Nat → Bytes → Bytes → Bytes
  | 0, _, _ => []
  | k + 1, t, m =>
    if m.length ≤ 16 then xtsBlock f t m
    else if m.length < 32 then
      let t1 := if dec then xtsNext t else t
      let t2 := if dec then t else xtsNext t
      let c := xtsBlock f t1 (m.take 16)
      let r := m.length - 16
      xtsBlock f t2 (m.drop 16 ++ c.drop r) ++ c.take r
    else xtsBlock f t (m.take 16) ++ xtsUnit f dec k (xtsNext t) (m.drop 16)

/-- XTS-AES-256 under K1 ‖ K2 with a tweak of 16 bytes. -/
def xtsCrypt (dec : Bool) (key tweak m : Bytes) : Bytes :=
  xtsUnit (if dec then aesDec (key.take 32) else aesEnc (key.take 32)) dec (m.length / 16 + 1) (aesEnc (key.drop 32) tweak) m

/-! ### Key wrap -/

/-- The steps of the wrapping function from number `t` on, over A and the semiblocks. -/
def wrapSteps (key : Bytes) : (left t : Nat) → Bytes → List Bytes → Bytes × List Bytes
  | 0, _, a, rs => (a, rs)
  | n + 1, t, a, rs =>
    let b := aesEnc key (a ++ rs.getD 0 [])
    wrapSteps key n (t + 1) (xorBytes (b.take 8) (beBytes 8 t)) (rs.drop 1 ++ [b.drop 8])

/-- The steps back, from number `t` down. -/
def unwrapSteps (key : Bytes) : (t : Nat) → Bytes → List Bytes → Bytes × List Bytes
  | 0, a, rs => (a, rs)
  | t + 1, a, rs =>
    let b := aesDec key (xorBytes a (beBytes 8 (t + 1)) ++ rs.getLastD [])
    unwrapSteps key t (b.take 8) (b.drop 8 :: rs.dropLast)

/-- W of SP 800-38F over a check value and whole semiblocks, at least two of them. -/
def kwW (key a p : Bytes) : Bytes :=
  let rs := blocksOf 8 p
  let r := wrapSteps key (6 * rs.length) 1 a rs
  r.1 ++ r.2.flatten

/-- W back: the check value and the data. -/
def kwWInv (key c : Bytes) : Bytes × Bytes :=
  let rs := blocksOf 8 (c.drop 8)
  let r := unwrapSteps key (6 * rs.length) (c.take 8) rs
  (r.1, r.2.flatten)

/-- The check values of KW and KWP. -/
def kwIv : Bytes := List.replicate 8 0xA6
def kwpIv : Bytes := [0xA6, 0x59, 0x59, 0xA6]

/-- KW. -/
def kwWrap (key m : Bytes) : Bytes := kwW key kwIv m

/-- KW back; none where the check value differs. -/
def kwUnwrap (key c : Bytes) : Option Bytes :=
  let r := kwWInv key c
  if r.1 = kwIv then some r.2 else none

/-- KWP: the length enters the check value, and one padded semiblock is a single block of AES. -/
def kwpWrap (key m : Bytes) : Bytes :=
  let a := kwpIv ++ beBytes 4 m.length
  let p := m ++ zeros ((8 - m.length % 8) % 8)
  if p.length ≤ 8 then aesEnc key (a ++ p) else kwW key a p

/-- KWP back; none where the check value, the length or the padding is wrong. -/
def kwpUnwrap (key c : Bytes) : Option Bytes :=
  let r := if c.length = 16 then (let b := aesDec key c; (b.take 8, b.drop 8)) else kwWInv key c
  let n := beNat (r.1.drop 4)
  if r.1.take 4 = kwpIv ∧ n ≤ r.2.length ∧ r.2.length < n + 8 ∧ r.2.drop n = zeros (r.2.length - n) then some (r.2.take n) else none

/-! ### CMAC -/

/-- A subkey from the one before it. -/
def cmacNext (k : Bytes) : Bytes :=
  let n := 2 * beNat k
  beBytes 16 (if n < 2 ^ 128 then n else Nat.xor (n - 2 ^ 128) 0x87)

/-- The 16-byte CMAC of a message. -/
def aesCmac (key m : Bytes) : Bytes :=
  let k1 := cmacNext (aesEnc key (zeros 16))
  let n := (m.length - 1) / 16
  let last := m.drop (16 * n)
  let fin := if last.length = 16 then xorBytes last k1
    else xorBytes (last ++ [0x80] ++ zeros (15 - last.length)) (cmacNext k1)
  aesEnc key (xorBytes ((chunks 16 n m).foldl (fun c b => aesEnc key (xorBytes c b)) (zeros 16)) fin)

end Sys2Proof.Machine
end

