-- ==== Sys2Proof/Machine/Curves.lean ====
section
/-!
DEFINITION. Machine/Curves.lean: the curves of R377 and R383 as their standards define them: Weierstrass arithmetic and
ECDSA (FIPS 186-5, RFC 6979), the Montgomery ladders of RFC 7748, EdDSA (RFC 8032), and the primality test of R386 (BPSW).
The spec names the standards and does not restate them (log row 4).
-/
namespace Sys2Proof.Machine
open Sys2Proof

/-! ### Modular arithmetic -/

/-- The inverse modulo a prime. -/
def invMod (p a : Nat) : Nat := powModN p a (p - 2)

/-! ### Primality (BPSW) -/

/-- n − 1 = d · 2^s with d odd: s and d, within `k` halvings. -/
def splitTwo : (k : Nat) → Nat → Nat × Nat
  | 0, d => (0, d)
  | k + 1, d => if d % 2 = 1 ∨ d = 0 then (0, d) else let r := splitTwo k (d / 2); (r.1 + 1, r.2)

/-- A strong probable prime to base 2. -/
def strongBase2 (n : Nat) : Bool :=
  let sd := splitTwo (bitLen n) (n - 1)
  let x := powModN n 2 sd.2
  x = 1 || (List.range sd.1).any fun r => powModN n x (2 ^ r) = n - 1

/-- The Jacobi symbol (a / n) for odd n, within `k` steps. -/
def jacobi : (k : Nat) → Nat → Nat → Int
  | 0, _, n => if n = 1 then 1 else 0
  | k + 1, a, n =>
    let a := a % n
    if a = 0 then (if n = 1 then 1 else 0)
    else
      let t := splitTwo (bitLen a) a
      let s : Int := if t.1 % 2 = 1 ∧ (n % 8 = 3 ∨ n % 8 = 5) then -1 else 1
      let r : Int := if t.2 % 4 = 3 ∧ n % 4 = 3 then -1 else 1
      s * r * jacobi k n t.2

/-- Selfridge's D: the first of 5, −7, 9, −11 … with (D / n) = −1, among `k`; none for a square. -/
def selfridge (n : Nat) : (k i : Nat) → Option Int
  | 0, _ => none
  | k + 1, i =>
    let d : Int := if i % 2 = 0 then 5 + 2 * i else -(5 + 2 * i : Int)
    if jacobi (2 * bitLen n + 8) ((d % (n : Int)).toNat) n = -1 then some d else selfridge n k (i + 1)

/-- U and V of the Lucas sequence with P = 1 at index e, and Q^e, over the bits of e from the most significant. -/
def lucas (n : Nat) (d q : Nat) : List Bool → Nat × Nat × Nat → Nat × Nat × Nat
  | [], r => r
  | b :: bs, (u, v, qk) =>
    let u2 := u * v % n
    let v2 := subMod n (v * v) (2 * qk)
    let q2 := qk * qk % n
    if b then
      let half (x : Nat) : Nat := (if x % 2 = 1 then x + n else x) / 2 % n
      lucas n d q bs (half (u2 + v2), half (d * u2 + v2), q2 * q % n)
    else lucas n d q bs (u2, v2, q2)

/-- The bits of a number, most significant first. -/
def bitsDown (e : Nat) : List Bool := (List.range (bitLen e)).reverse.map e.testBit

/-- The squares of the strong Lucas test: V at index d · 2^r for r from 0 on. -/
def lucasVs (n : Nat) : (k : Nat) → Nat → Nat → List Nat
  | 0, _, _ => []
  | k + 1, v, q => v :: lucasVs n k (subMod n (v * v) (2 * q)) (q * q % n)

/-- A strong Lucas probable prime with Selfridge's parameters. -/
def strongLucas (n : Nat) : Bool :=
  if Nat.sqrt n * Nat.sqrt n = n then false
  else match selfridge n 1000 0 with
    | none => false
    | some d =>
      let dm := (d % (n : Int)).toNat
      let q := (((1 - d) / 4) % (n : Int)).toNat
      let sd := splitTwo (bitLen (n + 1)) (n + 1)
      let r := lucas n dm q (bitsDown sd.2) (0, 2, 1)
      r.1 = 0 || (lucasVs n sd.1 r.2.1 r.2.2).any (· = 0)

/-- Baillie–PSW: both tests (R386 checks 2 and 5). -/
@[irreducible] def bpsw (n : Nat) : Bool :=
  n = 2 || (decide (2 < n ∧ n % 2 = 1) && strongBase2 n && (strongLucas n || decide (n < 25)))

/-! ### Weierstrass curves -/

/-- y² = x³ + ax + b over the integers modulo p, with a base point of order n and cofactor h. -/
structure Weier where
  p  : Nat
  a  : Nat
  b  : Nat
  gx : Nat
  gy : Nat
  n  : Nat
  h  : Nat

/-- An affine point; none is the point at infinity. -/
abbrev Point := Option (Nat × Nat)

/-- The sum of two points. -/
def Weier.add (w : Weier) : Point → Point → Point
  | none, q => q
  | q, none => q
  | some (x1, y1), some (x2, y2) =>
    if x1 = x2 ∧ (y1 + y2) % w.p = 0 then none
    else
      let k := if x1 = x2 then (3 * x1 * x1 + w.a) * invMod w.p (2 * y1) % w.p
        else subMod w.p y2 y1 * invMod w.p (subMod w.p x2 x1) % w.p
      let x := subMod w.p (k * k) (x1 + x2)
      some (x, subMod w.p (k * subMod w.p x1 x) y1)

/-- A multiple of a point, over the bits of the factor from the most significant. -/
def Weier.mulBits (w : Weier) (q : Point) : List Bool → Point → Point
  | [], r => r
  | b :: bs, r => let d := w.add r r; w.mulBits q bs (if b then w.add d q else d)

@[irreducible] def Weier.mul (w : Weier) (k : Nat) (q : Point) : Point := w.mulBits q (bitsDown k) none

def Weier.base (w : Weier) : Point := some (w.gx, w.gy)

/-- A point lies on a curve. -/
def Weier.on (w : Weier) (x y : Nat) : Bool := y * y % w.p = (x * x * x + w.a * x + w.b) % w.p

/-- P-256, P-384 and P-521. -/
def p256 : Weier :=
  { p := 2 ^ 256 - 2 ^ 224 + 2 ^ 192 + 2 ^ 96 - 1, a := 2 ^ 256 - 2 ^ 224 + 2 ^ 192 + 2 ^ 96 - 4,
    b := 0x5ac635d8aa3a93e7b3ebbd55769886bc651d06b0cc53b0f63bce3c3e27d2604b,
    gx := 0x6b17d1f2e12c4247f8bce6e563a440f277037d812deb33a0f4a13945d898c296,
    gy := 0x4fe342e2fe1a7f9b8ee7eb4a7c0f9e162bce33576b315ececbb6406837bf51f5,
    n := 0xffffffff00000000ffffffffffffffffbce6faada7179e84f3b9cac2fc632551, h := 1 }

def p384 : Weier :=
  { p := 2 ^ 384 - 2 ^ 128 - 2 ^ 96 + 2 ^ 32 - 1, a := 2 ^ 384 - 2 ^ 128 - 2 ^ 96 + 2 ^ 32 - 4,
    b := 0xb3312fa7e23ee7e4988e056be3f82d19181d9c6efe8141120314088f5013875ac656398d8a2ed19d2a85c8edd3ec2aef,
    gx := 0xaa87ca22be8b05378eb1c71ef320ad746e1d3b628ba79b9859f741e082542a385502f25dbf55296c3a545e3872760ab7,
    gy := 0x3617de4a96262c6f5d9e98bf9292dc29f8f41dbd289a147ce9da3113b5f0b8c00a60b1ce1d7e819d7a431d7c90ea0e5f,
    n := 0xffffffffffffffffffffffffffffffffffffffffffffffffc7634d81f4372ddf581a0db248b0a77aecec196accc52973, h := 1 }

def p521 : Weier :=
  { p := 2 ^ 521 - 1, a := 2 ^ 521 - 4,
    b := 0x051953eb9618e1c9a1f929a21a0b68540eea2da725b99b315f3b8b489918ef109e156193951ec7e937b1652c0bd3bb1bf073573df883d2c34f1ef451fd46b503f00,
    gx := 0xc6858e06b70404e9cd9e3ecb662395b4429c648139053fb521f828af606b4d3dbaa14b5e77efe75928fe1dc127a2ffa8de3348b3c1856a429bf97e7e31c2e5bd66,
    gy := 0x11839296a789a3bc0045c8a5fb42c7d1bd998f54449579b446817afbd17273e662c97ee72995ef42640c550b9013fad0761353c7086a272c24088be94769fd16650,
    n := 0x1fffffffffffffffffffffffffffffffffffffffffffffffffffffffffffffffffa51868783bf2f966b7fcc0148f709a5d03bb5c9b8899c47aebb6fb71e91386409,
    h := 1 }

/-! ### ECDSA -/

/-- The leftmost bits of a string, as many as n has (R390). -/
def leftBits (n : Nat) (b : Bytes) : Nat := beNat b / 2 ^ (8 * b.length - bitLen n)

/-- A signature with one k; none where r or s comes out zero. -/
def Weier.signWith (w : Weier) (d e k : Nat) : Option (Nat × Nat) :=
  match w.mul k w.base with
  | none => none
  | some (x, _) =>
    let r := x % w.n
    let t := invMod w.n k * (e + r * d) % w.n
    if r = 0 ∨ t = 0 then none else some (r, t)

/-- The first k of a generator that signs, within `fuel` candidates: how many attempts were made, and r and s. A candidate
outside 1 to n − 1 is no attempt. -/
def Weier.signFrom {σ : Type} (w : Weier) (d e : Nat) (next : σ → Nat × σ) : (fuel : Nat) → σ → Nat → Option (Nat × Nat × Nat)
  | 0, _, _ => none
  | fuel + 1, g, i =>
    let (k, g') := next g
    if k = 0 ∨ w.n ≤ k then w.signFrom d e next fuel g' i
    else match w.signWith d e k with
      | some (r, t) => some (i + 1, r, t)
      | none => w.signFrom d e next fuel g' (i + 1)

/-- A verification (R390, R392): the sum point at infinity is false. -/
@[irreducible] def Weier.verify (w : Weier) (q : Point) (e r t : Nat) : Bool :=
  let c := invMod w.n t
  match w.add (w.mul (e * c % w.n) w.base) (w.mul (r * c % w.n) q) with
  | none => false
  | some (x, _) => x % w.n = r

/-- Extra-bits method: k from bitlen(n) + 64 random bits, big-endian. -/
def extraBits (n : Nat) (b : Bytes) : Nat := beNat b % 2 ^ (bitLen n + 64) % (n - 1) + 1

/-- The HMAC generator of RFC 6979: the next value of V until it holds the bits of n. -/
def rfc6979T (alg : Nat) (key : Bytes) (want : Nat) : (k : Nat) → Bytes → Bytes → Bytes × Bytes
  | 0, v, t => (v, t)
  | k + 1, v, t => if want ≤ 8 * t.length then (v, t) else let v := Config.hmacOf alg key v; rfc6979T alg key want k v (t ++ v)

/-- The next candidate of a generator whose state is its key and V. -/
def rfc6979Next (alg n : Nat) (g : Bytes × Bytes) : Nat × Bytes × Bytes :=
  let (v, t) := rfc6979T alg g.1 (bitLen n) (bitLen n) g.2 []
  let key := Config.hmacOf alg g.1 (v ++ [0])
  (leftBits n t, key, Config.hmacOf alg key v)

/-- The generator of RFC 6979 for a key and a digest. -/
def rfc6979Init (alg n d : Nat) (digest : Bytes) : Bytes × Bytes :=
  let l := (bitLen n + 7) / 8
  let x := beBytes l d ++ beBytes l (leftBits n digest % n)
  let hl := Config.digestLen alg
  let k1 := Config.hmacOf alg (zeros hl) (List.replicate hl 1 ++ [0] ++ x)
  let v1 := Config.hmacOf alg k1 (List.replicate hl 1)
  let k2 := Config.hmacOf alg k1 (v1 ++ [1] ++ x)
  (k2, Config.hmacOf alg k2 v1)

/-! ### X25519 and X448 (RFC 7748) -/

/-- A Montgomery curve: p, (A − 2) / 4, its bits. -/
structure Mont where
  p    : Nat
  a24  : Nat
  bits : Nat

def x25519 : Mont := { p := 2 ^ 255 - 19, a24 := 121665, bits := 255 }
def x448 : Mont := { p := 2 ^ 448 - 2 ^ 224 - 1, a24 := 39081, bits := 448 }

/-- One step of the ladder on (x2 : z2) and (x3 : z3) for one bit of the scalar. -/
def Mont.step (m : Mont) (u : Nat) (r : Nat × Nat × Nat × Nat) (bit : Bool) : Nat × Nat × Nat × Nat :=
  let (x2, z2, x3, z3) := if bit then (r.2.2.1, r.2.2.2, r.1, r.2.1) else r
  let p := m.p
  let a := (x2 + z2) % p
  let b := subMod p x2 z2
  let c := (x3 + z3) % p
  let d := subMod p x3 z3
  let aa := a * a % p
  let bb := b * b % p
  let e := subMod p aa bb
  let da := d * a % p
  let cb := c * b % p
  let x5 := (da + cb) * (da + cb) % p
  let z5 := u * (subMod p da cb * subMod p da cb) % p
  let x4 := aa * bb % p
  let z4 := e * (aa + m.a24 * e) % p
  if bit then (x5, z5, x4, z4) else (x4, z4, x5, z5)

/-- The scalar as decodeScalar clamps it. -/
def Mont.clamp (m : Mont) (k : Bytes) : Nat :=
  let v := leNat k
  if m.bits = 255 then v % 2 ^ 254 / 8 * 8 + 2 ^ 254 else v % 2 ^ 447 / 4 * 4 + 2 ^ 447

/-- The function of RFC 7748: bit 255 of an X25519 u is ignored and u is reduced (R392). -/
@[irreducible] def Mont.fn (m : Mont) (k u : Bytes) : Bytes :=
  let s := m.clamp k
  let x := leNat u % 2 ^ (if m.bits = 255 then 255 else 448) % m.p
  let r := ((List.range m.bits).reverse.map s.testBit).foldl (m.step x) (1, 0, x, 1)
  leBytes u.length (r.1 * invMod m.p r.2.1 % m.p)

/-! ### EdDSA (RFC 8032) -/

/-- A twisted Edwards curve a·x² + y² = 1 + d·x²y² with its base point, order and the bytes of an encoding. -/
structure Edwards where
  p   : Nat
  a   : Nat
  d   : Nat
  bx  : Nat
  by' : Nat
  n   : Nat
  len : Nat

def ed25519 : Edwards :=
  { p := 2 ^ 255 - 19, a := 2 ^ 255 - 20, d := 37095705934669439343138083508754565189542113879843219016388785533085940283555,
    bx := 15112221349535400772501151409588531511454012693041857206046113283949847762202,
    by' := 46316835694926478169428394003475163141307993866256225615783033603165251855960,
    n := 2 ^ 252 + 27742317777372353535851937790883648493, len := 32 }

def ed448 : Edwards :=
  { p := 2 ^ 448 - 2 ^ 224 - 1, a := 1, d := 2 ^ 448 - 2 ^ 224 - 1 - 39081,
    bx := 224580040295924300187604334099896036246789641632564134246125461686950415467406032909029192869357953282578032075146446173674602635247710,
    by' := 298819210078481492676017930443930673437544040154080242095928241372331506189835876003536878655418784733982303233503462500531545062832660,
    n := 2 ^ 446 - 13818066809895115352007386748515426880336692474882178609894547503885, len := 57 }

/-- The sum of two points; the law is complete. -/
def Edwards.add (c : Edwards) (u v : Nat × Nat) : Nat × Nat :=
  let t := c.d * u.1 % c.p * v.1 % c.p * (u.2 * v.2 % c.p) % c.p
  ((u.1 * v.2 + v.1 * u.2) % c.p * invMod c.p (1 + t) % c.p,
   subMod c.p (u.2 * v.2) (c.a * (u.1 * v.1 % c.p)) * invMod c.p (subMod c.p 1 t) % c.p)

def Edwards.mulBits (c : Edwards) (q : Nat × Nat) : List Bool → Nat × Nat → Nat × Nat
  | [], r => r
  | b :: bs, r => let d := c.add r r; c.mulBits q bs (if b then c.add d q else d)

@[irreducible] def Edwards.mul (c : Edwards) (k : Nat) (q : Nat × Nat) : Nat × Nat := c.mulBits q (bitsDown k) (0, 1)

/-- A point as bytes: y, with the low bit of x in the last bit. -/
def Edwards.encode (c : Edwards) (q : Nat × Nat) : Bytes := leBytes c.len (q.2 + q.1 % 2 * 2 ^ (8 * c.len - 1))

/-- A square root modulo p, where there is one. -/
def Edwards.sqrt (c : Edwards) (v : Nat) : Option Nat :=
  let x := if c.p % 4 = 3 then powModN c.p v ((c.p + 1) / 4)
    else
      let x := powModN c.p v ((c.p + 3) / 8)
      if x * x % c.p = v % c.p then x else x * powModN c.p 2 ((c.p - 1) / 4) % c.p
  if x * x % c.p = v % c.p then some x else none

/-- The point of an encoding; none where it decodes to none. -/
def Edwards.decode (c : Edwards) (b : Bytes) : Option (Nat × Nat) :=
  let v := leNat b
  let sign := v / 2 ^ (8 * c.len - 1)
  let y := v % 2 ^ (8 * c.len - 1)
  let y2 := y * y % c.p
  if b.length ≠ c.len ∨ c.p ≤ y then none
  else match c.sqrt (subMod c.p y2 1 * invMod c.p (subMod c.p (c.d * y2) c.a)) with
    | none => none
    | some x =>
      if x = 0 ∧ sign = 1 then none
      else some (if x % 2 = sign then x else c.p - x, y)

/-- The hash with its domain prefix: none for Ed25519 in mode 0; F is 1 in mode 2. -/
def Edwards.hash (c : Edwards) (mode : Nat) (ctx m : Bytes) : Bytes :=
  let tail : Bytes := [if mode = 2 then 1 else 0, BitVec.ofNat 8 ctx.length] ++ ctx ++ m
  if c.len = 32 then
    Config.sha512 (if mode = 0 then m else Config.ascii "SigEd25519 no Ed25519 collisions" ++ tail)
  else Config.shake256 (Config.ascii "SigEd448" ++ tail) 114

/-- The secret scalar and the prefix of a seed. -/
def Edwards.expand (c : Edwards) (seed : Bytes) : Nat × Bytes :=
  if c.len = 32 then
    let h := Config.sha512 seed
    (leNat (h.take 32) % 2 ^ 254 / 8 * 8 + 2 ^ 254, h.drop 32)
  else
    let h := Config.shake256 seed 114
    (leNat (h.take 56) % 2 ^ 447 / 4 * 4 + 2 ^ 447, h.drop 57)

/-- The public key of a seed. -/
def Edwards.pk (c : Edwards) (seed : Bytes) : Bytes := c.encode (c.mul (c.expand seed).1 (c.bx, c.by'))

/-- A signature in a mode, with its context string, over the message or its pre-hash. -/
def Edwards.sign (c : Edwards) (seed : Bytes) (mode : Nat) (ctx m : Bytes) : Bytes :=
  let (s, pre) := c.expand seed
  let r := leNat (c.hash mode ctx (pre ++ m)) % c.n
  let rb := c.encode (c.mul r (c.bx, c.by'))
  let k := leNat (c.hash mode ctx (rb ++ c.pk seed ++ m)) % c.n
  rb ++ leBytes c.len ((r + k * s) % c.n)

/-- A and R of a signature decode and S is below L (R391, R392). -/
def Edwards.decodes (c : Edwards) (pk sig : Bytes) : Bool :=
  (c.decode pk).isSome && (c.decode (sig.take c.len)).isSome && decide (leNat (sig.drop c.len) < c.n)

/-- [8][S]B = [8]R + [8][k]A (R391). -/
def Edwards.verify (c : Edwards) (pk sig : Bytes) (mode : Nat) (ctx m : Bytes) : Bool :=
  match c.decode pk, c.decode (sig.take c.len) with
  | some a, some r =>
    let k := leNat (c.hash mode ctx (sig.take c.len ++ pk ++ m)) % c.n
    c.mul (8 * leNat (sig.drop c.len)) (c.bx, c.by') = c.add (c.mul 8 r) (c.mul (8 * k) a)
  | _, _ => false

end Sys2Proof.Machine
end

