-- ==== Sys2Proof/Machine/State.lean ====
section
/-!
DEFINITION. Machine/State.lean: everything the spec gives the block, as plain data, in one component for
each chapter, the queue of waiting commands, and the state after reset. A field that is the model's own and
not the spec's says so (`freeCtr`, `nextJob`, `out`).
Sparse stores (fuse words, contexts, imported keys, operand slots) are lists of (key, value) in one canonical
form: keys strictly rising and no value equal to what an unlisted key reads as (`Sparse.wf` in Ops).
-/
namespace Sys2Proof.Machine

/-- A sparse store: (key, value) pairs in canonical form. -/
abbrev Sparse (α : Type) := List (Nat × α)

/-! ### Power, thermal, start-up (chapters 01, 02) -/

/-- Supplies and tiers: DEV_POWER, PWR_LIMIT (R26 to R37). -/
structure Power where
  vinValid    : Bool   -- VIN restored and not below 2.65 V since (R29)
  vinMv       : Nat    -- DEV_POWER.VIN_MV
  averaged    : Bool   -- a 40 µs average has completed since VIN was restored (R29)
  vinTier     : Nat    -- DEV_POWER.VIN_TIER
  vbatOk      : Bool   -- DEV_POWER.VBAT_OK
  pwrfailHigh : Bool   -- DEV_POWER.PWRFAIL, the filtered level
  pfHold      : Bool   -- DEV_POWER.PF_HOLD
  nvOk        : Bool   -- DEV_POWER.NV_OK
  tierFloor   : BitVec 2 -- PWR_LIMIT.TIER_FLOOR
  deriving DecidableEq, Repr

/-- DEV_THERM (R54 to R56) and the management port's own TJ_PEAK (R160). -/
structure Thermal where
  tjPeak      : BitVec 8
  tjNow       : BitVec 8
  thermStop   : Bool
  throttleEvt : Bool
  thermTier   : Nat
  mgPeak      : BitVec 8
  deriving DecidableEq, Repr

/-- How far start-up has come (R58). `held` is a compute die kept in reset under a held code. -/
inductive BootStage where
  | off | keeper | rails | released | sensed | rolling | bundleOk | loader | firmware | held
  deriving DecidableEq, Repr

/-- Start modes (R72), numbered in R223. -/
inductive StartMode where
  | normal | recovery | loaderOnly | mfgPort
  deriving DecidableEq, Repr

inductive LinkState where
  | down | training | up
  deriving DecidableEq, Repr

/-- Start-up, DEV_BOOT, straps and the link (R48, R58 to R84). -/
structure Boot where
  stage        : BootStage
  code         : BitVec 16
  detail       : BitVec 16
  recovery     : Bool
  countersLost : Bool
  islandLost   : Bool
  timeValid    : Bool
  marginalCnt  : Nat
  mode         : StartMode
  straps       : Straps
  lockdown     : Bool      -- R81
  keeperRomOnly : Bool     -- R60
  firstBadCounter : Nat    -- the number REC_COUNTERS shows (R79)
  entropyReady : Bool      -- ENTROPY_READY has occurred since FW_START (R59)
  serviceReady : Bool      -- SERVICE_READY has occurred since FW_START (R59)
  loaderServes : Bool      -- the ROM loader completes configuration requests (R77)
  perstHigh    : Bool      -- the PERST_N ball
  link         : LinkState -- R76
  cut          : Bool      -- the transmitters are in electrical idle (R488); DEV FLT_TAMPER.CUT
  deriving DecidableEq, Repr

/-! ### The keeper's non-volatile stores (chapters 07, 14, 15, 16) -/

/-- An event-log record (R496). -/
structure LogRec where
  seq    : Nat
  code   : BitVec 16
  kind   : Nat
  cls    : Nat
  ticks  : Nat
  boot   : Nat
  kept   : Nat
  broken : Nat
  unit   : Nat
  detail : BitVec 64
  deriving DecidableEq, Repr

inductive SlogStatus where
  | active | retired | releasePending
  deriving DecidableEq, Repr

/-- A reservation-log record (R279), with the volatile NEXT_INDEX the security controller holds (R281). -/
structure SlogRec where
  num         : Nat      -- record number (R532)
  keyId       : Bytes
  index       : Nat
  gen         : Nat
  sepoch      : Nat
  reservedEnd : Nat
  indexLimit  : Nat
  status      : SlogStatus
  next        : Nat      -- NEXT_INDEX
  exporting   : Bool     -- signing ended by MIGRATE_EXPORT step 4 (R294)
  nonce       : Bytes    -- statement nonce a migrated key was registered under (R295); else empty
  deriving DecidableEq, Repr

/-- A life-cycle transition journal record (R466): raw source pattern, words with their targets, boot count. -/
structure FuseJournal where
  source : List (Nat × BitVec 39)
  words  : List (Nat × BitVec 32)
  boot   : Nat
  deriving DecidableEq, Repr

/-- The GUARD_COMMIT journal record (R124). -/
structure CommitJournal where
  domain : Nat
  chip   : Chip
  base   : Nat
  withRecovery : Bool
  blocks : Nat
  digest : Bytes
  deriving DecidableEq, Repr

/-- The export record of R294. -/
structure ExportRec where
  targetId  : Nat
  mksDigest : Bytes
  nonce     : Bytes
  keys      : List Nat   -- log record numbers
  deriving DecidableEq, Repr

/-- A function's credential in the settings blob (R167, R168). -/
structure Cred where
  mode  : BitVec 2    -- 0 NONE, 1 KEY, 2 PASSPHRASE, 3 KEY_OR_PASSPHRASE
  ctx   : BitVec 32
  tag   : Bytes
  idleS : Nat
  deriving DecidableEq, Repr

/-- A band of the operand-store geometry (R378). -/
structure Band where
  count   : Nat
  sizeLog : Nat
  high    : Bool
  deriving DecidableEq, Repr

/-- A copy of the settings blob: version, credentials, geometry and grants (R167, R379, R380, R524). -/
structure Blob where
  version : Nat
  creds   : Sparse Cred
  bands   : List Band
  grants  : List (Nat × Nat)  -- (slot, function)
  deriving DecidableEq, Repr

/-- The keeper's counters, journals, logs and records. -/
structure Keeper where
  ticks       : Nat                 -- tick counter (R45, R62)
  bootCount   : Nat                 -- counter 0 (R64)
  imageCtr    : Nat                 -- counter 1 (R275)
  sepoch      : Nat                 -- counter 2 (R285)
  debugNonce  : Nat                 -- counter 3 (R476)
  domainSvn   : Sparse Nat          -- counters 8 to 15 (R101, R132), by domain
  imgPending  : Option (Nat × Nat)  -- pending c + 1 and the snapshot point k (R275)
  revJournal  : List (Nat × Nat)    -- (index, GEN), oldest first (R270, R271)
  revReadable : Bool                -- R61
  slog        : List SlogRec        -- R279
  badLogRecs  : List Nat            -- records that cannot be read (R61, R286)
  lcJournal   : Option FuseJournal  -- R466
  lcReadable  : Bool                -- R61
  commitJnl   : Option CommitJournal -- R124
  stmtNonce   : Option Bytes        -- R289
  exportNonce : Option Bytes        -- outstanding step-0 nonce (R293)
  exportRec   : Option ExportRec    -- R294
  importDone  : Bool                -- a MIGRATE_IMPORT has succeeded since the last statement (R289)
  debugRights : BitVec 32           -- R480
  debugExpiry : Nat
  debugDigest : Bytes
  debugSpoiled : Bool               -- a certificate outside RMA was accepted since the last start-up (R252, R480)
  cert0       : Bytes               -- certificate slot 0, empty until the maker writes it (R137)
  idc         : Bytes               -- identity certificate (R287)
  creds       : Sparse Cred         -- by function number; 255 is the management link (R167)
  blobVersion : Nat                 -- settings blob (R524)
  blobTarget  : Nat                 -- blob version the running firmware still has to write once the hold ends (R35, R524)
  lcClearing  : Bool                -- clearing the transition journal waits for the end of the hold (R35, R467)
  oldBlob     : Option Blob         -- an older settings blob, kept until confirmation (R524)
  badCounters : List Nat            -- counters whose records fail (R61, R286)
  deriving DecidableEq, Repr

/-- The logs (R495), newest record first, and the island's latches (R491). -/
structure Logs where
  event     : List LogRec
  tamper    : List LogRec
  buffered  : List LogRec     -- waiting under R495, newest first
  dropped   : Nat
  nextSeq   : Nat
  latched   : List LogRec     -- island records, oldest first, at most 16
  overLatch : Nat             -- 16-bit saturating count of events not latched
  deriving DecidableEq, Repr

/-! ### Fuses (chapter 14) -/

/-- A shadow word (R65, R66) with the flags FUSE_WORD shows. -/
structure Shadow where
  data      : BitVec 32
  invalid   : Bool
  marginal  : Bool
  corrected : Bool
  deriving DecidableEq, Repr

/-- Life-cycle states (R470). -/
inductive LcState where
  | raw | testUnlocked | testLocked | mfg | mission | rma | scrap | invalid
  deriving DecidableEq, Repr

structure Fuses where
  raw       : Sparse (BitVec 39)   -- the array's bits; an unlisted word is blank (R457)
  shadow    : Sparse Shadow
  lc        : LcState
  epoch     : Nat
  pattern   : BitVec 6
  lastWord  : Nat                  -- FUSE_STATUS.LAST_WORD
  rolledFwd : Bool                 -- FUSE_STATUS.ROLLED_FORWARD
  busy      : Bool                 -- a triplicated program is rolled forward (R467); FUSE_STATUS.BUSY reads 1 with it
  unitDis   : BitVec 6             -- unit disables as start-up took them from the FZ_CONFIG shadow (R5)
  idWord    : BitVec 32            -- DEV_ID as start-up took it from the FZ_FACTORY_ID shadow (R5)
  romPatch  : Sparse (Option (BitVec 32)) -- the ROM words replaced, by ROM word address (R69)
  deriving DecidableEq, Repr

/-! ### Platform guard and Sieve (chapter 03) -/

/-- States of a hold domain (R87), in the order of their codes. -/
inductive DomState where
  | disabled | waitPg | waitDep | verifying | released | failedHeld | recovering | committing
  deriving DecidableEq, Repr

/-- A REGION entry of a manifest (R99). -/
structure Region where
  chip      : Chip
  vbr       : Bool     -- VERIFY_BEFORE_RELEASE
  mirror    : Bool
  action    : Nat      -- RECOVERY_ACTION
  base      : Nat
  count     : Nat
  recBase   : Nat
  regionId  : Nat
  root      : Bytes
  recRoot   : Bytes
  matched   : Bool     -- its root has matched (R107, R114)
  remapped  : Bool     -- its blocks are RECOVER (R128)
  onRecovery : Bool    -- what is confirmed is the recovery image's leaves (R107, R128)
  owes      : Bool     -- its recovery action is to run: a stream mismatch (R110, R128)
  rewritten : Bool     -- it has been rewritten and is still to be verified against RECOVERY_ROOT (R128)
  deriving DecidableEq, Repr

/-- A hold domain with what SIEVE_DOMd shows (R87, R134). -/
structure Domain where
  state        : DomState
  recovered    : Bool
  failCode     : Nat
  failRegion   : Nat
  mfSvn        : Nat
  svnUnchecked : Bool
  mfDigest     : Bytes      -- SHA-384 of the accepted manifest; empty when none
  regions      : List Region
  useRecovery  : Bool       -- GUARD_REVERIFY with USE_RECOVERY under way
  job          : Option Nat -- the command that completes with this domain (R133)
  booted       : Bool       -- it has been RELEASED since the guard started (SIEVE_EVT.BOOT_FAIL)
  deriving DecidableEq, Repr

/-- A PORT entry of the policy (R93). -/
structure PolicyPort where
  enable   : Bool
  dummy    : Nat
  initMode : Nat
  cs0      : Nat
  cs1      : Nat
  deriving DecidableEq, Repr

/-- A DOMAIN entry of the policy (R94). -/
structure PolicyDomain where
  enabled : Bool
  hasMf   : Bool
  pgInput : Nat       -- 0 to 3, or 255 for none
  after   : BitVec 8
  mfChip  : Chip
  mfBlock : Nat
  signer  : Bytes
  deriving DecidableEq, Repr

/-- An ALLOW entry of the policy (R95). -/
structure AllowEntry where
  opcode    : BitVec 16
  modes     : BitVec 8
  cls       : Nat
  addrBytes : Nat
  param     : Nat
  deriving DecidableEq, Repr

/-- A RUN of the policy (R96). -/
structure PolicyRun where
  chip   : Chip
  policy : Nat
  base   : Nat
  count  : Nat
  deriving DecidableEq, Repr

/-- An installed Sieve policy (R92). -/
structure Policy where
  fwrChip : Chip
  fwrBase : Nat
  portA   : PolicyPort
  portB   : PolicyPort
  domains : List PolicyDomain
  allowA  : List AllowEntry
  allowB  : List AllowEntry
  runs    : List PolicyRun
  deriving DecidableEq, Repr

/-- One leaf in the node cache (R105, R106). -/
structure Leaf where
  chip   : Chip
  block  : Nat
  digest : Bytes
  deriving DecidableEq, Repr

/-- An owed block (R113): chip, block, and how many of its bytes the host's transfer had reached. -/
structure Owed where
  chip  : Chip
  block : Nat
  seen  : Bytes
  deriving DecidableEq, Repr

/-- A block that the mirror or a verified-block buffer holds (R105, R109). -/
structure Held where
  chip  : Chip
  block : Nat
  data  : Bytes
  deriving DecidableEq, Repr

/-- One Sieve port pair (R85, R104, R109, R113, R120, R122). -/
structure SievePort where
  running  : Bool          -- FLx_RESET_N released and 8D entered
  starting : Bool          -- FLx_RESET_N released, the 1 ms wait running
  mode     : Nat           -- host-side mode
  buffer   : List Held     -- verified-block buffer, most recently used first, at most 256
  owed     : Option Owed
  program  : Option (Chip × Nat × Bytes) -- program buffered until CS_N rises and it is issued (R122)
  sfdp     : List (Chip × Bytes) -- the SFDP copies read at port start-up (R119)
  deriving DecidableEq, Repr

structure Guard where
  policy    : Option Policy
  policySvn : Nat
  running   : Bool               -- the guard runs (not in loader-only recovery, R91)
  domains   : List Domain        -- eight
  portA     : SievePort
  portB     : SievePort
  pgHigh    : List Bool          -- four: the bound input has been high for 1 ms
  leaves    : List Leaf          -- node cache
  mirror    : List Held          -- mirrored blocks
  dead      : List Chip          -- chips that failed port start-up (R104)
  lost      : List (Chip × Nat)  -- blocks unmirrored under R115, to be fetched again
  staging   : Option (Chip × Nat × Nat) -- staging blocks turned WRITE_GUARD by GUARD_COMMIT (R124)
  evt       : BitVec 9           -- SIEVE_EVT
  lastBlock : Nat                -- SIEVE_LAST
  lastFail  : Nat
  lastChip  : BitVec 8
  lastDom   : Nat
  holdPins  : BitVec 8           -- PLT_HOLD_N: bit d set while domain d's ball is released (high)
  deriving DecidableEq, Repr

/-! ### PCIe functions, sessions, management port (chapter 04) -/

/-- FN_SESSION of a function, or the same for the management link (R167 to R174). -/
structure Session where
  isOpen     : Bool
  nonce      : Option (Bytes × Nat)  -- the outstanding step-0 nonce and the tick it was issued at
  idleClosed : Bool
  failCount  : Nat
  lockUntil  : Option Nat            -- tick at which the refusal of R171 ends
  lastAccept : Nat                   -- tick of the last entry accepted at intake (R174)
  idleS      : Nat                   -- idle limit of the open session
  deriving DecidableEq, Repr

/-- Fields of the configuration space that software sets (R140, R142), as the registers encode them. -/
structure CfgRegs where
  maxPayload : BitVec 3    -- Max_Payload_Size: 128 bytes times a power of two
  maxRead    : BitVec 3    -- Max_Read_Request_Size: the same
  timeout    : BitVec 4    -- completion timeout value; 0 is the default of 50 ms
  bar        : BitVec 64   -- BAR0 and BAR1 as written
  vfBar      : BitVec 64   -- VF BAR0 and BAR1 as written (PF)
  pageSize   : BitVec 32   -- System Page Size (PF)
  deriving DecidableEq, Repr

/-- One PCIe function (R143 to R157). -/
structure FnState where
  present  : Bool          -- the PF, or a VF that VF Enable created
  mse      : Bool
  bme      : Bool
  d3hot    : Bool
  msixEn   : Bool
  fnMask   : Bool
  unmasked : List Nat      -- vectors whose mask bit is 0
  pendVec  : List Nat      -- pending bits set
  msixTab  : Sparse (BitVec 64 × BitVec 32) -- message address and data of each MSI-X table entry (R146, R147)
  dmaAddr  : BitVec 52     -- FN_DMA.ADDR
  dmaKind  : Nat           -- FN_DMA.KIND
  dmaFault : Bool          -- FN_DMA.FAULT
  session  : Session
  inFlr    : Bool          -- a function-level reset is draining
  cfg      : CfgRegs       -- R140, R142
  deriving DecidableEq, Repr

/-- SPDM connection state (R136). -/
inductive SpdmConn where
  | none | version | capabilities | negotiated
  deriving DecidableEq, Repr

inductive SpdmSession where
  | none | handshaking | established
  deriving DecidableEq, Repr

/-- The management port: I3C target, MG_ALERT, MCTP, SPDM and the management session (R159 to R166). -/
structure Mgmt where
  dynAddr : Option (BitVec 7)  -- the dynamic address; the bus runs in I3C mode while the target holds one (R159, R160)
  ibiOn   : Bool
  mwl     : Nat
  mrl     : Nat
  ptr     : Nat           -- register pointer, a byte offset
  alert   : BitVec 4      -- MG_ALERT
  eidI3c  : BitVec 8
  eidVdm  : BitVec 8
  conn    : SpdmConn
  spdm    : SpdmSession
  chunk   : Bytes         -- bytes of a CHUNK_SEND under way
  reply   : Bytes         -- response bytes CHUNK_GET still has to deliver
  seen    : Bytes         -- SPDM messages since the connection began, the oldest first
  xfer    : Nat           -- the requester's DataTransferSize; 0 before GET_CAPABILITIES
  block   : Nat           -- PLDM block size (R166)
  comp    : Nat           -- component PassComponentTable named
  secOn   : Binding       -- the binding on which the secured session was set up (R164)
  reqKey  : Bytes         -- session secret of the requester's direction, changed by KEY_UPDATE; empty outside a session (R136)
  rspKey  : Bytes         -- session secret of the device's direction
  tid     : Byte          -- PLDM terminus ID (R166)
  session : Session       -- MG_AUTH proof state (R164); isOpen: the proof has passed
  deriving DecidableEq, Repr

/-! ### Queues and jobs (chapters 05, 06) -/

/-- A submission entry (R212). -/
structure Entry where
  opcode  : BitVec 16
  flags   : BitVec 8
  phase   : BitVec 8
  cmdId   : BitVec 16
  rsvd    : BitVec 16
  ctx     : BitVec 32
  inLen   : BitVec 32
  inAddr  : BitVec 64
  outAddr : BitVec 64
  outLen  : BitVec 32
  slotA   : BitVec 16
  slotB   : BitVec 16
  params  : BitVec 192
  deriving DecidableEq, Repr

inductive QState where
  | absent | running | error | draining
  deriving DecidableEq, Repr

/-- An entry in an intake buffer: its ring index, and whether ABORT has marked it (R236). -/
structure Intake where
  entry   : Entry
  index   : Nat
  aborted : Bool
  stamp   : Nat          -- place in the order of arrival of all entries (R201: CTLQ2 and the management link)
  input   : Bytes        -- the input a management-link or manufacturing-port entry brought with it (R165, R481)
  viaVdm  : Bool         -- it came over the PCIe VDM binding
  deriving DecidableEq, Repr

/-- The four counters of R192, or their latched copies (R194). -/
structure QCounters where
  submitted  : BitVec 64
  dispatched : BitVec 64
  completed  : BitVec 64
  consumed   : BitVec 64
  deriving DecidableEq, Repr

/-- A queue with its register set (R175 to R211). -/
structure Queue where
  ref       : QRef
  state     : QState
  index     : Bool       -- MODE
  sqLog     : Nat
  cqLog     : Nat
  weight    : Nat
  minShare  : Nat
  sqBase    : BitVec 64
  cqBase    : BitVec 64
  idxAddr   : BitVec 64
  head      : Nat        -- SQ_HEAD
  expPhase  : Bool
  errKind   : Nat
  errIndex  : Nat
  cnt       : QCounters
  latched   : QCounters
  modTime   : BitVec 16
  modCount  : BitVec 8
  errNow    : Bool
  evt       : BitVec 3   -- Q_EVT: 0 ERROR, 1 CQ_STALL, 2 SHARE_OVERRIDDEN
  intake    : List Intake
  cqWrite   : Nat        -- position of the next completion entry, modulo twice the ring
  cqReport  : Nat        -- position of the last report (R189)
  unsignalled : Nat      -- completions written since the last message (R191)
  ringPend  : Bool       -- a doorbell awaits the read it asks for (R182, R184)
  repoll    : Bool       -- a phase mismatch awaits the 100 µs reread (R182)
  tail      : Nat        -- SQ_TAIL as last read (R184)
  drainJob  : Option Nat -- the QUEUE_DESTROY that completes when the queue is drained (R208)
  retCount  : Nat        -- entries returned undispatched (R208)
  retIndex  : Nat
  deriving DecidableEq, Repr

inductive CtxState where
  | free | live | dead | exhausted | retired
  deriving DecidableEq, Repr

/-- A context record (R257). -/
structure Ctx where
  parent : Nat
  gen    : Nat
  pgen   : Nat
  type   : Nat
  policy : BitVec 24
  label  : BitVec 48
  state  : CtxState
  deriving DecidableEq, Repr

/-- A hold on an operand slot (R222). -/
structure Hold where
  slot    : Nat
  excl    : Bool
  scratch : Bool
  deriving DecidableEq, Repr

/-- Where a job stands (R225, R233). `yielded`: it has given up its unit; `paused`: stopped under R35, R56 or
R144; the waits are those of R233 (a job paused in a wait keeps the wait and has no unit); `ended`: it has its status and awaits JOB_COMPLETE; `barrier`: a command
that gave up its unit and waits for other jobs (ABORT, INVALIDATE, QUEUE_DESTROY, MIGRATE_EXPORT, guard and
update commands). -/
inductive JobPhase where
  | running | waitEntropy | waitStream | waitReserve | waitIndex | waitLeaf | yielded | paused | barrier | ended
  deriving DecidableEq, Repr

/-- How a job ended: STATUS, RESULT, output, CYCLES (R187). -/
structure Ending where
  status : BitVec 16
  result : BitVec 64
  out    : Bytes
  cycles : Nat
  deriving DecidableEq, Repr

/-- A dispatched job: it holds a completion slot until its completion is written (R193). -/
structure Job where
  id       : Nat
  q        : QRef
  entry    : Entry
  phase    : JobPhase
  cls      : UnitClass
  unit     : Option Nat
  holds    : List Hold
  chain    : List Nat          -- contexts whose in-flight counts it raised (R227)
  chain2   : List Nat          -- the same for CTX2 of SEAL (R351)
  outFrags : List (BitVec 64 × Nat)  -- output ranges (address, length)
  written  : Bytes             -- output bytes already in host memory (R238)
  seeded   : Bool              -- its stream is seeded, or it has left the entropy wait (R444)
  waitFrom : Nat               -- tick at which a wait began
  taken    : Option Nat        -- stateful index taken (R281)
  stream   : Option Nat        -- stream slot the job belongs to (R242)
  stop     : Option (BitVec 16) -- status it ends with at its next yield point (R236, R208, R205, R518)
  started  : Nat               -- a count a command recorded when it began (R270: in-flight at step 1)
  aborts   : Option (QRef × BitVec 16) -- the target an ABORT waits for (R236)
  key      : Bytes             -- the key its unit holds (R229); empty: none
  key2     : Bytes             -- the same for CTX2 of SEAL and WRAP_CTX of KEY_EXPORT
  crec     : Ctx               -- CTX's record at resolution
  crec2    : Ctx
  linkIn   : Bytes             -- the input that came with a management-link or manufacturing-port entry
  viaVdm   : Bool              -- a management-link request that came over the PCIe VDM binding (R165)
  ending   : Option Ending
  heldCpl  : Bool              -- completion held under R144 or R155
  since    : Nat               -- the 100 µs step in which it took the unit it holds (R198)
  lane     : Option Nat        -- the lane engine a hash-group job holds beside its group (R230)
  tasks    : Option Nat        -- subtree tasks not yet dispatched, once it has issued them (R344)
  taskUnits : List Nat         -- hash groups its subtree tasks hold (R344)
  deriving DecidableEq, Repr

/-- Engine time of one occupation in one 100 µs step (R198): which queue's job, and for how many microseconds. -/
structure Use where
  step   : Nat
  q      : QRef
  job    : Nat
  micros : Nat
  deriving DecidableEq, Repr

/-- What the test of R202 found in an aligned window that has ended: the affected queues, and whether every CTLQ0 command
that used the class was a platform-guard command. -/
structure ShareTest where
  hit       : List QRef
  guardOnly : Bool
  deriving DecidableEq, Repr

/-- Arbitration state of one unit class (R198 to R202). -/
structure Arb where
  adminPos : Nat
  sharePos : Nat
  wrrPos   : Nat
  credit   : List (QRef × Nat)
  uses     : List Use             -- occupations in the sliding window, newest first
  always   : Option (List QRef)   -- job queues eligible at every choice of the aligned window; none: no choice yet
  ctl0Used : Bool                 -- CTLQ0 used the class in the aligned window
  ctl0Guard : Bool                -- and every such command was a platform-guard command
  due      : Option ShareTest     -- the test of the last aligned window, until SHARE_WINDOW_END acts on it (R202)
  gave     : List Nat             -- jobs that gave up a unit to a waiting job, until that unit is taken, oldest first (R233)
  served   : List Nat             -- units in service in each of the last 100 steps, newest first (R198)
  deriving DecidableEq, Repr

structure Sched where
  step   : Nat          -- 100 µs steps since the compute die was released (R198)
  arrivals : Nat        -- entries taken so far
  held     : List Nat   -- jobs whose completion is held, in the order in which they ended (R190)
  bench  : Arb
  hash   : Arb
  cbu    : Arb
  aes    : Arb
  sc     : Arb
  deriving DecidableEq, Repr

/-! ### Key tree, operand store, tables (chapters 07 to 11) -/

structure Keys where
  ctx      : Sparse Ctx
  imported : Sparse Bytes
  badEntry : List Nat             -- imported-key entries lost to an uncorrectable word (R493)
  scopes   : Sparse (Nat × Nat)   -- VF number to (index, GEN) (R269)
  cache    : List (Nat × Nat × Nat) -- derived-key cache tags (index, GEN, SEPOCH), most recent first
  inflight : Sparse Nat           -- in-flight counts, apart from the key stores (R227)
  deriving DecidableEq, Repr

/-- The header of a tree cache (R345). -/
structure TreeCache where
  xmss    : Bool
  type    : Nat
  ots     : Nat
  curArea : Bool
  curSub  : Nat
  nextFill : Nat
  ahead    : List Nat     -- leaves of the next subtree computed beyond NEXT_FILL, out of index order (R348)
  keyId   : Bytes
  deriving DecidableEq, Repr

/-- Content tags of a slot (R382). -/
inductive SlotTag where
  | empty
  | mlkem (pset : Nat)
  | mce (pset : Nat)
  | tree (h : TreeCache)
  | rsa (index gen : Nat)
  | dx (seals : BitVec 32)
  deriving DecidableEq, Repr

/-- An operand slot. `owner` is the function it is granted to (R380). -/
structure Slot where
  owner   : Nat
  tag     : SlotTag
  content : Bytes
  deriving DecidableEq, Repr

/-- Who waits for the HIGH half (R508): an UPDATE_BEGIN job, or a PLDM UpdateComponent on its binding. -/
inductive Taker where
  | nobody
  | job (id : Nat)
  | pldm (b : Binding)
  deriving DecidableEq, Repr

structure OpStore where
  bands : List Band
  slots : Sparse Slot
  lent  : Bool           -- the HIGH half is lent to update staging (R381)
  taking : Taker         -- who waits for the HIGH half (R508)
  deriving DecidableEq, Repr

/-- An open stream (R242, R331). -/
structure Stream where
  slot     : Nat
  fn       : Nat
  kind     : Nat
  alg      : Nat
  ctx      : BitVec 32
  keyed    : Bool
  key      : Bytes
  name     : Bytes
  custom   : Bytes
  total    : Nat
  absorbed : Nat
  data     : Bytes
  deriving DecidableEq, Repr

/-- A DX500 program table entry (R406, R408). -/
structure DxProg where
  programId : Nat
  needsEntropy : Bool
  cycleCount : Nat
  code      : Bytes
  deriving DecidableEq, Repr

structure Tables where
  streams   : List Stream
  streamGen : Sparse Nat     -- generation of each stream slot (R331)
  curves    : Sparse Bytes   -- custom curve sets (R386)
  dxProgs   : List (Nat × DxProg)
  microOk   : Bool           -- the compatibility microcode component is installed and checked (R404, R502)
  idxQueue  : List Nat       -- signing jobs waiting at the index port, oldest first (R347)
  capUsed   : Nat            -- bytes drawn by host random-number jobs in this 10 µs step (R443)
  deriving DecidableEq, Repr

/-! ### Digest register unit (chapter 12) -/

inductive DruOwner where
  | none | host | sc
  deriving DecidableEq, Repr

structure Dru where
  owner    : DruOwner
  tag      : BitVec 8
  page     : Bool
  alg      : BitVec 4
  sealedMode : Bool
  active   : Bool
  finishing : Bool
  done     : Bool
  saved    : Bool
  lastCnt  : BitVec 4
  bytes    : Nat          -- message bytes absorbed or buffered
  base     : Bytes        -- the STATE a restore continued from (R431); empty after START
  msg      : Bytes        -- message bytes since START or since the restored BYTES
  final    : Bytes        -- valid bytes of the final word
  result   : Bytes
  expect   : Bytes        -- 64 bytes
  cmp      : BitVec 32
  window   : Bytes        -- 256 bytes
  err      : BitVec 10    -- DRU_ERR
  saving   : Bool         -- SAVE waits for the buffered blocks (R429)
  relPend  : Bool         -- a RELEASE waits for the finish (R432)
  saveKey  : Option Nat   -- serial of the DRU save key's draw; none until entropy is ready (R430)
  deriving DecidableEq, Repr

/-! ### Entropy (chapter 13) -/

inductive EntState where
  | starting | ready | failed | halted
  deriving DecidableEq, Repr

inductive PairState where
  | dropped | retest | healthy | retired
  deriving DecidableEq, Repr

structure Entropy where
  state    : EntState
  running  : Bool             -- sampling has begun (R440)
  sampled  : Bool             -- the 8 ms of start-up sampling have ended (R440)
  pairs    : List PairState   -- sixteen
  pool     : Nat              -- released blocks (R436)
  live     : Bool             -- the instances are instantiated
  evt      : BitVec 8         -- ENT_EVT
  lastTest : Nat              -- ENT_LAST
  lastOsc  : Nat
  partner  : Nat
  reseeds  : BitVec 64        -- ENT_RESEEDS
  requests : List Nat         -- sixteen: generate requests of each instance since it was seeded (R442)
  deriving DecidableEq, Repr

/-! ### Tamper and faults (chapter 15) -/

/-- A counted event: class, object number, tick (R485). -/
structure FaultEvt where
  cls  : Nat
  obj  : Nat
  tick : Nat
  deriving DecidableEq, Repr

/-- The instruction the TAP has selected (R50, R475, R481). -/
inductive TapSel where
  | bypass | idcode | samplePreload | extest | mfgCmd | mfgRsp
  | debug (f : TapFunction)
  deriving DecidableEq, Repr

structure Faults where
  lastCode   : Nat          -- FLT_TAMPER
  majorCount : Nat
  rootPending : Option Nat  -- epoch whose root disable is pending (R490)
  active     : Bool
  evt        : BitVec 10    -- FLT_EVT
  history    : List FaultEvt -- events in their windows, newest first
  lasting    : List Nat     -- fourteen counts of lasting responses
  spares     : Sparse Nat   -- spares used in a bank
  retired    : Nat          -- FLT_SRAM.RETIRED
  lanes      : List Nat     -- dropped lane engines
  cores      : List Nat     -- dropped hash cores
  macs       : List Nat
  aes        : List Nat
  cbu        : Bool
  sensors    : List Nat     -- tamper codes of the conditions not yet normal (R489)
  access     : BitVec 2     -- EVT_ACCESS
  counts     : Sparse Nat   -- event counters by 16 × bank + flag bit (R500)
  tapSelect  : TapSel       -- TAP instruction register
  mfgReply   : Bytes        -- the completion MFG_RSP shifts out
  deriving DecidableEq, Repr

/-! ### Firmware update (chapter 16) -/

/-- Update stages (R505), in the order of their numbers. -/
inductive UpdStage where
  | idle | downloading | verifying | verified | scheduled | activating | unconfirmed | confirming | restoring
  deriving DecidableEq, Repr

inductive UpdHolder where
  | none | host | mgmt
  deriving DecidableEq, Repr

/-- The update journal record (R518, R523). -/
structure UpdJournal where
  stage     : UpdStage
  component : Nat
  digest    : Bytes
  svn       : Nat
  holdHost  : Bool
  holder    : UpdHolder
  swapped   : Bool    -- the component records have exchanged roles (R519, R523)
  hasArea   : Bool    -- made with a recovery area (R513)
  deriving DecidableEq, Repr

structure Update where
  stage      : UpdStage
  holder     : UpdHolder
  holderId   : Nat
  component  : Nat
  header     : Bytes
  image      : Sparse Bytes        -- staged bytes, by 4 KiB piece
  activeAt   : Nat                 -- scheduled TIME in seconds; 0 none
  atPps      : Bool
  waitFrom   : Option Nat          -- tick at which a due activation began to wait (R516)
  timerFrom  : Nat                 -- tick the lock timer or the confirmation deadline runs from
  selftestOk : Bool
  blobNewer  : Bool                -- the firmware found a settings blob newer than its own (R524)
  restored   : Bool
  journal    : Option UpdJournal
  jnlReadable : Bool
  areaOk     : Bool                -- a recovery copy of the staged image was made (R513)
  stagedHalf : Bytes               -- SHA-384 of what the STAGED half holds
  prevHalf   : Bytes               -- SHA-384 of what the PREVIOUS half holds
  stagedIs1  : Bool                -- half 1 is STAGED
  stagedImg  : Bytes               -- content of the STAGED half (a copy the guard can read back)
  prevImg    : Bytes
  slot       : Bytes               -- MRAM firmware slot; empty: blank
  slotHash   : Bytes               -- SHA-384 in the keeper's activation record (R60)
  microCur   : Bytes
  microPrev  : Bytes
  polCur     : Bytes
  polPrev    : Bytes
  polHash    : Bytes               -- stored SHA-384 of the current policy record (R502)
  drained    : Bool                -- activation has stopped the jobs and copied (R518 steps 3 to 5)
  actJob     : Option Nat          -- the UPDATE_ACTIVATE to complete when stage 5 is reached
  confJob    : Option Nat          -- the UPDATE_CONFIRM to complete (R521)
  timeOff    : Int                 -- platform time minus the tick counter (R514)
  deriving DecidableEq, Repr

/-! ### What the block drives to the outside -/

/-- The commands the Sieve itself can issue to a flash (R86, R95): the classes of the allow table that are forwarded, its
own SFDP read and its own entry to 8D-8D-8D. Nothing else can reach a flash. -/
inductive FlashOp where
  | readSfdp | enter8d
  | program
  | erase (kib : Nat)
  | writeEnable | writeDisable
  | readStatus | readFlagStatus
  | readId
  | suspend | resume
  deriving DecidableEq, Repr

/-- One thing the block sends out: `out` of State lists them, newest first. It is the model's own record of
what the balls and links carry, not state of the hardware. -/
inductive Out where
  | hostWrite (fn : Nat) (addr : BitVec 64) (data : Bytes)
  | hostRead (fn : Nat) (addr : BitVec 64) (len : Nat)
  | msix (fn vector : Nat) (addr : BitVec 64) (data : BitVec 32)
  | regData (value : BitVec 64)
  | unsupported (fn : Nat)
  | cfgRetry (fn : Nat)
  | cfgData (fn : Nat) (value : BitVec 32)
  | aer (fn : Nat) (err : DmaErr) (advisory : Bool)
  | clockSwitch (tier : Nat)
  | plxReset (port : Port) (released : Bool)
  | flashCmd (chip : Chip) (op : FlashOp) (addr : Nat) (data : Bytes)
  | flashWrite (chip : Chip) (block : Nat) (data : Bytes)
  | flashErase (chip : Chip) (block : Nat)
  | spiData (port : Port) (data : Bytes)
  | spiHighZ (port : Port)
  | i3c (data : Bytes)
  | i3cNak
  | ibi (data : BitVec 8)
  | mctp (b : Binding) (msgType : Nat) (data : Bytes)
  | spdm (ch : Channel) (data : Bytes)
  | spdmError (ch : Channel) (code : Nat)
  | pldm (b : Binding) (cmd code : Nat) (data : Bytes)
  | tdo (data : Bytes)
  | tapRefused
  | debugServed (f : TapFunction)
  deriving DecidableEq, Repr

/-- What every request the device sends to the host carries beside its address (R153). -/
structure RequestAttr where
  requester : Nat
  tc        : Nat
  relaxed   : Bool
  noSnoop   : Bool
  deriving DecidableEq, Repr

/-- The attributes of a memory request: the function that owns the queue, TC 0, Relaxed Ordering and No Snoop both 0
(R153). -/
def Out.attr : Out → Option RequestAttr
  | .hostWrite fn _ _ | .hostRead fn _ _ | .msix fn _ _ _ => some { requester := fn, tc := 0, relaxed := false, noSnoop := false }
  | _ => none

/-! ### The state -/

structure State where
  power   : Power
  thermal : Thermal
  boot    : Boot
  keeper  : Keeper
  logs    : Logs
  fuses   : Fuses
  guard   : Guard
  fns     : List FnState     -- the PF and VFs 1 to 64
  mgmt    : Mgmt
  queues  : List Queue       -- the queues that are not in their reset state
  jobs    : List Job         -- in dispatch order, oldest first
  sched   : Sched
  keys    : Keys
  store   : OpStore
  tables  : Tables
  dru     : Dru
  ent     : Entropy
  flt     : Faults
  upd     : Update
  nextJob : Nat              -- the model's own: serial number of the next job
  freeCtr : Nat              -- the model's own: how many free values have been drawn
  out     : List Out         -- the model's own: what the block has driven out, newest first
  pending : List Instr       -- commands waiting, first in first out
  deriving DecidableEq, Repr

/-! ### Stops -/

/-- Faults of the block. None of its commands stops the block: every failure of chapter 15 or 17 is a status,
a boot code or a state. This is the one reason a command may end in a fault. -/
inductive Fault where
  /-- Raised by no command; present so that the type is inhabited. Safe. -/
  | never
  deriving DecidableEq, Repr

/-- Refusals of the model. -/
inductive Refusal where
  /-- A command whose meaning has not been written; raised by Dispatch alone. Safe: the run stops. -/
  | notModelled (mnemonic : String)
  deriving DecidableEq, Repr

/-! ### Reset -/

/-- A session at reset: closed, no nonce, no failures. -/
def Session.closed : Session :=
  { isOpen := false, nonce := none, idleClosed := false, failCount := 0, lockUntil := none, lastAccept := 0, idleS := 0 }

/-- The configuration fields at reset: 128-byte payloads, 512-byte read requests, 50 ms, no address, 4 KiB pages (the PCIe
base specification's initial values, PRESUMED: log row 93; the timeout is R140's). -/
def CfgRegs.atReset : CfgRegs := { maxPayload := 0, maxRead := 2, timeout := 0, bar := 0, vfBar := 0, pageSize := 1 }

/-- A function at reset; `present` says whether it exists (R143). -/
def FnState.atReset (present : Bool) : FnState :=
  { present, mse := false, bme := false, d3hot := false, msixEn := false, fnMask := false, unmasked := [],
    pendVec := [], msixTab := [], dmaAddr := 0, dmaKind := 0, dmaFault := false, session := .closed, inFlr := false,
    cfg := .atReset }

/-- The four counters at zero. -/
def QCounters.zero : QCounters := { submitted := 0, dispatched := 0, completed := 0, consumed := 0 }

/-- A queue whose register set is at reset. -/
def Queue.atReset (ref : QRef) : Queue :=
  { ref, state := .absent, index := false, sqLog := 0, cqLog := 0, weight := 0, minShare := 0, sqBase := 0,
    cqBase := 0, idxAddr := 0, head := 0, expPhase := false, errKind := 0, errIndex := 0, cnt := .zero,
    latched := .zero, modTime := 0, modCount := 0, errNow := false, evt := 0, intake := [], cqWrite := 0,
    cqReport := 0, unsignalled := 0, ringPend := false, repoll := false, tail := 0, drainJob := none,
    retCount := 0, retIndex := 0 }

/-- Arbitration of a class at reset. -/
def Arb.atReset : Arb :=
  { adminPos := 0, sharePos := 0, wrrPos := 0, credit := [], uses := [], always := none, ctl0Used := false,
    ctl0Guard := true, due := none, gave := [], served := [] }

def Sched.atReset : Sched :=
  { step := 0, arrivals := 0, held := [], bench := .atReset, hash := .atReset, cbu := .atReset, aes := .atReset, sc := .atReset }

/-- A domain at reset: DISABLED, held, no failure (SIEVE_DOMd). -/
def Domain.atReset : Domain :=
  { state := .disabled, recovered := false, failCode := 0, failRegion := 0xFF, mfSvn := 0, svnUnchecked := false,
    mfDigest := [], regions := [], useRecovery := false, job := none, booted := false }

def SievePort.atReset : SievePort :=
  { running := false, starting := false, mode := 0, buffer := [], owed := none, program := none, sfdp := [] }

def Guard.atReset : Guard :=
  { policy := none, policySvn := 0, running := false, domains := List.replicate 8 Domain.atReset,
    portA := .atReset, portB := .atReset, pgHigh := [false, false, false, false], leaves := [], mirror := [],
    dead := [],
    lost := [], staging := none, evt := 0, lastBlock := 0, lastFail := 0, lastChip := 0, lastDom := 0, holdPins := 0 }

def Keys.empty : Keys :=
  { ctx := [], imported := [], badEntry := [], scopes := [], cache := [], inflight := [] }

/-- The geometry the maker ships (R379). -/
def shippedBands : List Band :=
  [{ count := 2048, sizeLog := 12, high := false }, { count := 2048, sizeLog := 12, high := true }]

def Tables.empty : Tables :=
  { streams := [], streamGen := [], curves := [], dxProgs := [], microOk := false, idxQueue := [], capUsed := 0 }

/-- The DRU at its registers' reset values; `owner` is who owns it then (R432). -/
def Dru.cleared (owner : DruOwner) : Dru :=
  { owner, tag := 0, page := false, alg := 0, sealedMode := false, active := false, finishing := false,
    done := false, saved := false, lastCnt := 0xF, bytes := 0, base := [], msg := [], final := [], result := [],
    expect := zeros 64, cmp := 0, window := zeros 256, err := 0, saving := false, relPend := false,
    saveKey := none }

def Entropy.atReset : Entropy :=
  { state := .starting, running := false, sampled := false, pairs := List.replicate 16 .dropped,
    pool := 0, live := false, evt := 0, lastTest := 0, lastOsc := 0, partner := 0xFF, reseeds := 0,
    requests := List.replicate 16 0 }

def Mgmt.atReset : Mgmt :=
  { dynAddr := none, ibiOn := false, mwl := 1024, mrl := 1024, ptr := 0, alert := 0, eidI3c := 0, eidVdm := 0,
    conn := .none, spdm := .none, chunk := [], reply := [], seen := [], xfer := 0, block := 0, comp := 0,
    secOn := .i3c, reqKey := [], rspKey := [], tid := 0, session := .closed }

/-- The module as its maker's test floor first powers it: VBAT applied, VIN absent, every fuse blank, every
keeper store empty, every register at the reset value its table gives. Values no table gives are named in
the assumption log (rows 2 and 3). -/
def State.reset : State where
  power := { vinValid := false, vinMv := 0, averaged := false, vinTier := 3, vbatOk := true, pwrfailHigh := true,
             pfHold := false, nvOk := false, tierFloor := 0 }
  thermal := { tjPeak := 0, tjNow := 0, thermStop := false, throttleEvt := false, thermTier := 1, mgPeak := 0 }
  boot := { stage := .off, code := 0, detail := 0, recovery := false, countersLost := false, islandLost := false,
            timeValid := false, marginalCnt := 0, mode := .normal,
            straps := { bootMode := 0, flvSel := false, clkSel := false }, lockdown := false,
            keeperRomOnly := false, firstBadCounter := 0, entropyReady := false, serviceReady := false,
            loaderServes := false, perstHigh := false, link := .down, cut := false }
  keeper := { ticks := 0, bootCount := 0, imageCtr := 0, sepoch := 0, debugNonce := 0, domainSvn := [],
              imgPending := none, revJournal := [], revReadable := true, slog := [], badLogRecs := [],
              lcJournal := none, lcReadable := true, commitJnl := none, stmtNonce := none, exportNonce := none,
              exportRec := none, importDone := false, debugRights := 0, debugExpiry := 0, debugDigest := [],
              debugSpoiled := false, cert0 := [], idc := [], creds := [], blobVersion := 0, blobTarget := 0,
              lcClearing := false, oldBlob := none,
              badCounters := [] }
  logs := { event := [], tamper := [], buffered := [], dropped := 0, nextSeq := 0, latched := [], overLatch := 0 }
  fuses := { raw := [], shadow := [], lc := .raw, epoch := 0, pattern := 0, lastWord := 0, rolledFwd := false,
             busy := false, unitDis := 0, idWord := 0, romPatch := [] }
  guard := Guard.atReset
  fns := FnState.atReset true :: List.replicate 64 (FnState.atReset false)
  mgmt := Mgmt.atReset
  queues := []
  jobs := []
  sched := Sched.atReset
  keys := Keys.empty
  store := { bands := shippedBands, slots := [], lent := false, taking := .nobody }
  tables := Tables.empty
  dru := Dru.cleared .none
  ent := Entropy.atReset
  flt := { lastCode := 0, majorCount := 0, rootPending := none, active := false, evt := 0, history := [],
           lasting := List.replicate 14 0, spares := [], retired := 0, lanes := [], cores := [], macs := [],
           aes := [], cbu := false, sensors := [], access := 0, counts := [], tapSelect := .idcode,
           mfgReply := [] }
  upd := { stage := .idle, holder := .none, holderId := 0, component := 0, header := [], image := [],
           activeAt := 0, atPps := false, waitFrom := none, timerFrom := 0, selftestOk := false, blobNewer := false, restored := false,
           journal := none, jnlReadable := true, areaOk := false, stagedHalf := [], prevHalf := [],
           stagedIs1 := true, stagedImg := [], prevImg := [], slot := [], slotHash := [], microCur := [],
           microPrev := [], polCur := [], polPrev := [], polHash := [], drained := false, actJob := none,
           confJob := none, timeOff := 0 }
  nextJob := 0
  freeCtr := 0
  out := []
  pending := []

end Sys2Proof.Machine
end

