-- ==== Sys2Proof/Machine/Ops.lean ====
section
/-!
DEFINITION. Machine/Ops.lean: the named reads and writes of the state: sparse stores, functions, queues, jobs,
free values, effective tier, units in service, the fixed identity registers. Nothing here has an effect of its
own beyond the field it names.
-/
namespace Sys2Proof

/-! ### Queue names and chips -/

/-- The function that owns a queue; control queues belong to the PF (R175). -/
def QRef.fn : QRef → Nat
  | .admin f => f
  | .ctl _ => 0
  | .job f _ => f
  | .mgmt => 255
  | .tap => 0

/-- The completion vector of a queue (R149, R176). -/
def QRef.vector : QRef → Nat
  | .admin _ => 0
  | .ctl n => 1 + n
  | .job f q => if f = 0 then q + 5 else q
  | .mgmt => 0
  | .tap => 0

def QRef.isCtl : QRef → Bool
  | .ctl _ => true | .mgmt => true | .tap => true | _ => false

def QRef.isJob : QRef → Bool
  | .job _ _ => true | _ => false

def QRef.isAdmin : QRef → Bool
  | .admin _ => true | _ => false

/-- A queue has rings unless it is the management link or the manufacturing port. -/
def QRef.hasRing : QRef → Bool
  | .mgmt => false | .tap => false | _ => true

/-- The PORT_CS byte of a chip (R92). -/
def Chip.byte (c : Chip) : BitVec 8 := (if c.port = .b then 0x10 else 0) ||| (if c.cs then 1 else 0)

/-- The chip a PORT_CS byte names; bits other than 4 and 0 must be zero (R92, R133). -/
def Chip.ofByte (b : Nat) : Option Chip :=
  if b = 0 then some ⟨.a, false⟩ else if b = 1 then some ⟨.a, true⟩
  else if b = 0x10 then some ⟨.b, false⟩ else if b = 0x11 then some ⟨.b, true⟩ else none

end Sys2Proof

namespace Sys2Proof.Machine
open Sys2Proof

/-! ### Sparse stores -/

/-- The value at a key, or `d` where the key is not listed. -/
def Sparse.get {α : Type} (d : α) : Sparse α → Nat → α
  | [], _ => d
  | (k, v) :: m, i => if k = i then v else Sparse.get d m i

/-- Insert in key order, replacing. -/
def Sparse.insert {α : Type} : Sparse α → Nat → α → Sparse α
  | [], i, v => [(i, v)]
  | (k, w) :: m, i, v =>
    if i < k then (i, v) :: (k, w) :: m else if i = k then (i, v) :: m else (k, w) :: Sparse.insert m i v

/-- Remove a key. -/
def Sparse.erase {α : Type} (m : Sparse α) (i : Nat) : Sparse α := m.filter fun p => p.1 ≠ i

/-- Write a value: the default is not listed, so equal stores are equal lists. -/
def Sparse.set {α : Type} [DecidableEq α] (d : α) (m : Sparse α) (i : Nat) (v : α) : Sparse α :=
  if v = d then Sparse.erase m i else Sparse.insert m i v

/-- The canonical form: keys strictly rising, no default listed. -/
def Sparse.wf {α : Type} [DecidableEq α] (d : α) (m : Sparse α) : Bool :=
  decide ((m.map Prod.fst).Pairwise (· < ·)) && m.all fun p => decide (p.2 ≠ d)

/-- A FREE record with GEN 0: what an unlisted context index holds (R260, log row 6). -/
def Ctx.blank : Ctx := { parent := 0, gen := 0, pgen := 0, type := 0, policy := 0, label := 0, state := .free }

/-- A shadow word of a blank fuse word (R457). -/
def Shadow.blank : Shadow := { data := 0, invalid := false, marginal := false, corrected := false }

/-- An operand slot granted to the PF and EMPTY (R379, R382). -/
def Slot.blank : Slot := { owner := 0, tag := .empty, content := [] }

/-- The credential every function has at shipment (R172). -/
def Cred.none : Cred := { mode := 0, ctx := 0, tag := [], idleS := 0 }

def Keys.record (k : Keys) (i : Nat) : Ctx := k.ctx.get Ctx.blank i
def Keys.setRec (k : Keys) (i : Nat) (c : Ctx) : Keys := { k with ctx := k.ctx.set Ctx.blank i c }
def Keys.flights (k : Keys) (i : Nat) : Nat := k.inflight.get 0 i
def OpStore.slot (o : OpStore) (i : Nat) : Slot := o.slots.get Slot.blank i
def OpStore.setSlot (o : OpStore) (i : Nat) (v : Slot) : OpStore := { o with slots := o.slots.set Slot.blank i v }
def Fuses.word (f : Fuses) (i : Nat) : BitVec 39 := f.raw.get 0 i
def Fuses.shadowOf (f : Fuses) (i : Nat) : Shadow := f.shadow.get Shadow.blank i
def Keeper.cred (k : Keeper) (fn : Nat) : Cred := k.creds.get Cred.none fn

/-! ### Small updates of components -/

def State.mapPower (s : State) (f : Power → Power) : State := { s with power := f s.power }
def State.mapThermal (s : State) (f : Thermal → Thermal) : State := { s with thermal := f s.thermal }
def State.mapBoot (s : State) (f : Boot → Boot) : State := { s with boot := f s.boot }
def State.mapKeeper (s : State) (f : Keeper → Keeper) : State := { s with keeper := f s.keeper }
def State.mapLogs (s : State) (f : Logs → Logs) : State := { s with logs := f s.logs }
def State.mapFuses (s : State) (f : Fuses → Fuses) : State := { s with fuses := f s.fuses }
def State.mapGuard (s : State) (f : Guard → Guard) : State := { s with guard := f s.guard }
def State.mapMgmt (s : State) (f : Mgmt → Mgmt) : State := { s with mgmt := f s.mgmt }
def State.mapKeys (s : State) (f : Keys → Keys) : State := { s with keys := f s.keys }
def State.mapStore (s : State) (f : OpStore → OpStore) : State := { s with store := f s.store }
def State.mapTables (s : State) (f : Tables → Tables) : State := { s with tables := f s.tables }
def State.mapDru (s : State) (f : Dru → Dru) : State := { s with dru := f s.dru }
def State.mapEnt (s : State) (f : Entropy → Entropy) : State := { s with ent := f s.ent }
def State.mapFlt (s : State) (f : Faults → Faults) : State := { s with flt := f s.flt }
def State.mapUpd (s : State) (f : Update → Update) : State := { s with upd := f s.upd }

/-- Drive something to the outside. -/
def State.emit (s : State) (o : Out) : State := { s with out := o :: s.out }

/-- Drive several things, the first first. -/
def State.emitAll (s : State) : List Out → State
  | [] => s
  | o :: os => (s.emit o).emitAll os

/-- Use up one free value. -/
def State.draw (s : State) : State := { s with freeCtr := s.freeCtr + 1 }

/-- `n` free values have been drawn. -/
def State.drawMany (s : State) (n : Nat) : State := { s with freeCtr := s.freeCtr + n }

/-- The next free value as `n` bytes. -/
def State.freeNow (s : State) (n : Nat) : Bytes := Config.freeBytes s.freeCtr n

/-! ### Time -/

/-- Ticks in `n` seconds (R45: 32.768 kHz). -/
def secs (n : Nat) : Nat := 32768 * n

def State.now (s : State) : Nat := s.keeper.ticks

/-- What happens when no command waits: the keeper's 64-bit tick counter advances by one while the always-on island has
a supply (R45, R62; log row 1). -/
def State.idleTick (s : State) : State :=
  if s.power.vinValid || s.power.vbatOk then s.mapKeeper fun k => { k with ticks := (k.ticks + 1) % 2 ^ 64 } else s

/-! ### Functions -/

def State.fn (s : State) (i : Nat) : FnState := s.fns.getD i (FnState.atReset false)
def State.setFn (s : State) (i : Nat) (f : FnState) : State := { s with fns := s.fns.set i f }
def State.mapFn (s : State) (i : Nat) (f : FnState → FnState) : State := s.setFn i (f (s.fn i))

/-- The session of a function, 255 being the management link (R167). -/
def State.session (s : State) (fn : Nat) : Session := if fn = 255 then s.mgmt.session else (s.fn fn).session

def State.mapSession (s : State) (fn : Nat) (f : Session → Session) : State :=
  if fn = 255 then s.mapMgmt fun m => { m with session := f m.session }
  else s.mapFn fn fun x => { x with session := f x.session }

/-- Max_Payload_Size in bytes. The VFs take the PF's, as SR-IOV has it (PRESUMED, log row 93). -/
def State.maxPayload (s : State) : Nat := 128 * 2 ^ (s.fn 0).cfg.maxPayload.toNat

/-- Max_Read_Request_Size in bytes, for every function. -/
def State.maxRead (s : State) : Nat := 128 * 2 ^ (s.fn 0).cfg.maxRead.toNat

/-! ### Queues -/

/-- A queue's registers; a queue that is not listed is at reset (R211). -/
def State.queue (s : State) (r : QRef) : Queue := (s.queues.find? fun q => q.ref = r).getD (Queue.atReset r)

def State.setQueue (s : State) (q : Queue) : State :=
  { s with queues := if s.queues.any (fun x => x.ref = q.ref)
                     then s.queues.map fun x => if x.ref = q.ref then q else x
                     else s.queues ++ [q] }

def State.mapQueue (s : State) (r : QRef) (f : Queue → Queue) : State := s.setQueue (f (s.queue r))

def State.dropQueue (s : State) (r : QRef) : State := { s with queues := s.queues.filter fun q => q.ref ≠ r }

/-- Submission ring size. -/
def Queue.n (q : Queue) : Nat := 2 ^ q.sqLog

/-- Completion ring size. -/
def Queue.m (q : Queue) : Nat := 2 ^ q.cqLog

def Queue.exists (q : Queue) : Bool := q.state ≠ .absent

/-- in_flight of R194. -/
def Queue.inFlight (q : Queue) : Nat := (q.cnt.dispatched - q.cnt.completed).toNat

/-- Job queues that exist (the device-wide pool of 4,096, R175). -/
def State.jobQueues (s : State) : List Queue := s.queues.filter fun q => q.ref.isJob && q.exists

/-- The sum of MIN_SHARE over all job queues (R200). -/
def State.shareSum (s : State) : Nat := (s.jobQueues.map Queue.minShare).sum

/-! ### Jobs -/

def State.job? (s : State) (id : Nat) : Option Job := s.jobs.find? fun j => j.id = id

def State.putJob (s : State) (j : Job) : State :=
  { s with jobs := s.jobs.map fun x => if x.id = j.id then j else x }

def State.dropJob (s : State) (id : Nat) : State := { s with jobs := s.jobs.filter fun x => x.id ≠ id }

def State.mapJob (s : State) (id : Nat) (f : Job → Job) : State :=
  { s with jobs := s.jobs.map fun x => if x.id = id then f x else x }

/-- Change every job that satisfies `p`. -/
def State.mapJobs (s : State) (p : Job → Bool) (f : Job → Job) : State :=
  { s with jobs := s.jobs.map fun x => if p x then f x else x }

def Job.ended (j : Job) : Bool := j.phase = .ended

def Job.op (j : Job) : Nat := j.entry.opcode.toNat

def Job.group (j : Job) : Nat := j.op / 256

/-- The function a job runs for. -/
def Job.fn (j : Job) : Nat := QRef.fn j.q

/-! ### Fuses read through the shadows -/

/-- The shadow data of a word. -/
def State.fz (s : State) (w : Nat) : BitVec 32 := (s.fuses.shadowOf w).data

/-- FZ_CONFIG unit disables as the shadow holds them, bits [5:0] of word 1,136 (R453). -/
def State.shadowDis (s : State) : BitVec 6 := (s.fz 1136).truncate 6

/-- The unit disables in force: those of the last start-up (R5). -/
def State.disables (s : State) : BitVec 6 := s.fuses.unitDis

/-- Take the Fuse fields of the registers from the shadows: once in a start-up (R5). -/
def State.latchFuseFields (s : State) : State :=
  s.mapFuses fun f => { f with unitDis := s.shadowDis, idWord := s.fz 3 }

/-- DEV_FEATURES (R2, R5): bit i is 1 unless FZ_CONFIG disables the unit. DESIGN CHOICE (log row 85): the spec gives no
fuse bit for CTX_LOG2; it follows bit 5, the ×8 endpoint, since the two parts differ in both. -/
def State.features (s : State) : BitVec 64 :=
  ((~~~ s.disables).zeroExtend 64) ||| (if s.disables.getLsbD 5 then 0x1400#64 else 0x1500#64)

def State.hasCbu (s : State) : Bool := !s.disables.getLsbD 0
def State.benches (s : State) : Nat := if s.disables.getLsbD 1 then 8 else 16
def State.groups (s : State) : Nat := if s.disables.getLsbD 2 then 16 else 32
def State.sieveB (s : State) : Bool := !s.disables.getLsbD 3
def State.mirrorCap (s : State) : Nat := if s.disables.getLsbD 4 then 4096 else 8192
def State.isX8 (s : State) : Bool := !s.disables.getLsbD 5

/-- N of R261: the context indices, with CTX_LOG2 (DESIGN CHOICE, log row 85: the fuse bit they follow is bit 5). -/
def State.ctxCount (s : State) : Nat := if s.isX8 then 2097152 else 1048576

/-- DEV_ID (chapter 04), from FZ_FACTORY_ID word 3 as start-up took it (R5, R453). -/
def State.devId (s : State) : BitVec 64 := s.fuses.idWord.zeroExtend 64

/-- DEVICE_ID, low word first (R453). -/
def State.deviceId (s : State) : Nat := (s.fz 0).toNat + 2 ^ 32 * (s.fz 1).toNat

/-- The PART field of DEV_ID. -/
def State.part (s : State) : Nat := s.fuses.idWord.toNat / 65536

/-- The GRADE field of DEV_ID: 0x41 grade A, 0x45 grade E. -/
def State.grade (s : State) : Nat := s.fuses.idWord.toNat % 256

/-- DEV_COMPAT (R8): FAMILY 0x71, DX_LEVEL 1, COMPAT_LEVEL 1. -/
def devCompat : BitVec 64 := 0x71010001#64

/-- A region's write lock is set (R460). -/
def State.writeLocked (s : State) (r : Nat) : Bool := s.fz (8096 + r) = 0x3CA5C35A#32

/-- A region's read lock is set (R460). -/
def State.readLocked (s : State) (r : Nat) : Bool := s.fz (8096 + 16 + r) = 0x3CA5C35A#32

/-- The root-disable word of copy word `w` is set (R472). -/
def State.rootDisabled (s : State) (w : Nat) : Bool := s.fz (336 + w) = 0xC35A3CA5#32

/-- Word `w` of the current epoch block of FZ_OWNER_CFG (R454). -/
def State.ownerCfg (s : State) (w : Nat) : BitVec 32 := s.fz (2192 + 16 * s.fuses.epoch + w)

/-- The tamper policy word (R484). -/
def State.tamperPolicy (s : State) : BitVec 32 := s.ownerCfg 1

/-- Life-cycle state numbers (R470). -/
def LcState.num : LcState → Nat
  | .raw => 0 | .testUnlocked => 1 | .testLocked => 2 | .mfg => 3 | .mission => 4 | .rma => 5 | .scrap => 6
  | .invalid => 255

/-- Start modes as R223 numbers them. -/
def StartMode.num : StartMode → Nat
  | .normal => 0 | .recovery => 1 | .loaderOnly => 2 | .mfgPort => 3

/-- Domain states as R87 numbers them. -/
def DomState.num : DomState → Nat
  | .disabled => 0 | .waitPg => 1 | .waitDep => 2 | .verifying => 3 | .released => 4 | .failedHeld => 5
  | .recovering => 6 | .committing => 7

/-- A domain of the guard. -/
def State.dom (s : State) (d : Nat) : Domain := s.guard.domains.getD d Domain.atReset

/-- RESULT of a guard command (R133). -/
def State.guardResult (s : State) (d : Nat) (pair : BitVec 64) : BitVec 64 :=
  pair ||| BitVec.ofNat 64 ((s.dom d).state.num * 2 ^ 32 + (s.dom d).failCode * 2 ^ 40)

/-- Queue states as Q_STATE numbers them. -/
def QState.num : QState → Nat
  | .absent => 0 | .running => 1 | .error => 2 | .draining => 3

/-- Record states (R260). -/
def CtxState.num : CtxState → Nat
  | .free => 0 | .live => 1 | .dead => 2 | .exhausted => 3 | .retired => 4

/-- Update stages (R505). -/
def UpdStage.num : UpdStage → Nat
  | .idle => 0 | .downloading => 1 | .verifying => 2 | .verified => 3 | .scheduled => 4 | .activating => 5
  | .unconfirmed => 6 | .confirming => 7 | .restoring => 8

def UpdHolder.num : UpdHolder → Nat
  | .none => 0 | .host => 1 | .mgmt => 2

def EntState.num : EntState → Nat
  | .starting => 0 | .ready => 1 | .failed => 2 | .halted => 3

def DmaErr.num : DmaErr → Nat
  | .ur => 1 | .ca => 2 | .timeout => 3 | .poisoned => 4 | .internal _ => 5

def HealthTest.num : HealthTest → Nat
  | .rct => 1 | .apt => 2 | .alive => 3 | .lock => 4 | .kat => 5

/-! ### Power -/

/-- TIER_FLOOR values 0 and 1 count as 1 (R30). -/
def Power.floor (p : Power) : Nat := max 1 p.tierFloor.toNat

/-- The effective tier (R30): the highest-numbered of three. -/
def State.effTier (s : State) : Nat := max s.power.vinTier (max s.power.floor s.thermal.thermTier)

/-- The always-on island has a supply (R26, R43). -/
def State.islandOn (s : State) : Bool := s.power.vinValid || s.power.vbatOk

/-- The compute die is released (R64). -/
def State.cdRunning (s : State) : Bool :=
  match s.boot.stage with
  | .off | .keeper | .rails | .held => false
  | _ => true

/-- The firmware runs. -/
def State.fwRunning (s : State) : Bool := s.boot.stage = .firmware

/-- Non-volatile changes may begin (R35). -/
def State.nvFree (s : State) : Bool := !s.power.pfHold

/-- The Hopper dispatches: not in power-fail hold, thermal stop, LOCKDOWN, a major response, or from stage 5 of
a bundle activation (R35, R56, R81, R489, R518). -/
def State.dispatching (s : State) : Bool :=
  !s.power.pfHold && !s.thermal.thermStop && !s.boot.lockdown && !s.flt.active
    && !(decide (s.upd.stage = .activating) && decide (s.upd.component = 1))

/-- Platform time (R514). -/
def State.platformTime (s : State) : Nat := (Int.ofNat s.now + s.upd.timeOff).toNat

/-! ### Units in service (R198, R494) -/

/-- A hash group stays in service while one of its sixteen cores remains. -/
def State.groupUp (s : State) (g : Nat) : Bool := decide (g < s.groups) && (List.range 16).any fun i => !s.flt.cores.contains (16 * g + i)

/-- A bench serves while one of its eight lane engines remains. -/
def State.benchUp (s : State) (b : Nat) : Bool := decide (b < s.benches) && (List.range 8).any fun i => !s.flt.lanes.contains (8 * b + i)

/-- Lane engines of the part that are in service. -/
def State.lanesUp (s : State) : List Nat := (List.range (8 * s.benches)).filter fun l => !s.flt.lanes.contains l

/-- The units of a class that are in service: lane engines, hash groups, the CBU, AES engines, the security controller. -/
def State.unitsUp (s : State) : UnitClass → List Nat
  | .bench => s.lanesUp
  | .hash => (List.range s.groups).filter s.groupUp
  | .cbu => if s.hasCbu && !s.flt.cbu then [0] else []
  | .aes => (List.range 16).filter fun i => !s.flt.aes.contains i
  | .sc => [0]

/-- Groups that need the bench MAC (R230). -/
def needsMac (group : Nat) : Bool := group = 6 || group = 7 || group = 0xD

/-- The unit class that serves an opcode group (R230). -/
def groupClass (group : Nat) : UnitClass :=
  if group = 1 ∨ group = 2 ∨ group = 6 ∨ group = 7 ∨ group = 0xD then .bench
  else if group = 3 ∨ group = 4 ∨ group = 8 ∨ group = 0xC then .hash
  else if group = 5 then .cbu
  else if group = 9 ∨ group = 0xB then .aes
  else .sc

/-- A bench's MAC is in use by a job (R231, R375). -/
def State.macBusy (s : State) (b : Nat) : Bool :=
  s.jobs.any fun j => !j.ended && j.cls = .bench && needsMac j.group && j.unit.any fun l => l / 8 = b

/-- A job occupies a unit of a class: its own unit, the groups of its subtree tasks (R344), or the lane engine beside its
group (R230). -/
def Job.occupies (j : Job) (c : UnitClass) (u : Nat) : Bool :=
  (j.cls = c && (j.unit = some u || j.taskUnits.contains u)) || (c = .bench && j.lane = some u)

/-- A unit of a class is occupied. The security controller is one unit, which a command that waits for an event gives up
(R236, R270, log row 12). -/
def State.unitBusy (s : State) (c : UnitClass) (u : Nat) : Bool := s.jobs.any fun j => !j.ended && j.occupies c u

/-- Idle lane engines of a bench. -/
def State.idleLanes (s : State) (b : Nat) : List Nat :=
  ((List.range 8).map (8 * b + ·)).filter fun l => !s.flt.lanes.contains l && !s.unitBusy .bench l

/-- The best bench: most idle lane engines, the lowest-numbered among equals (R231). -/
def State.bestBench (s : State) (mac : Bool) : Option Nat :=
  ((List.range s.benches).filter fun b =>
      (s.idleLanes b).length > 0 && (!mac || (!s.flt.macs.contains b && !s.macBusy b))).foldl
    (fun best b => match best with
      | none => some b
      | some x => if (s.idleLanes b).length > (s.idleLanes x).length then some b else some x) none

/-- The unit R231 gives a job of a group, when one is free. -/
def State.pickUnit (s : State) (group : Nat) : Option Nat :=
  match groupClass group with
  | .bench => (s.bestBench (needsMac group)).bind fun b => (s.idleLanes b).head?
  | c => (s.unitsUp c).find? fun u => !s.unitBusy c u

/-- No unit that a group needs remains in service; the unit kind of R494. -/
def State.noUnitKind (s : State) (group : Nat) : Option Nat :=
  if needsMac group && !(List.range s.benches).any (fun b => s.benchUp b && !s.flt.macs.contains b)
    then (if (s.unitsUp .bench).isEmpty then some 1 else some 3)
  else if !(s.unitsUp (groupClass group)).isEmpty then none
  else match groupClass group with
    | .bench => some 1 | .hash => some 8 | .cbu => some 4 | .aes => some 5 | .sc => some 9

/-- Arbitration state of a class. -/
def Sched.arb (d : Sched) : UnitClass → Arb
  | .bench => d.bench | .hash => d.hash | .cbu => d.cbu | .aes => d.aes | .sc => d.sc

def State.mapArb (s : State) (c : UnitClass) (f : Arb → Arb) : State :=
  { s with sched := match c with
      | .bench => { s.sched with bench := f s.sched.bench }
      | .hash => { s.sched with hash := f s.sched.hash }
      | .cbu => { s.sched with cbu := f s.sched.cbu }
      | .aes => { s.sched with aes := f s.sched.aes }
      | .sc => { s.sched with sc := f s.sched.sc } }

def State.mapSched (s : State) (f : Sched → Sched) : State := { s with sched := f s.sched }

def allClasses : List UnitClass := [.bench, .hash, .cbu, .aes, .sc]

end Sys2Proof.Machine
end

