-- ==== Sys2Proof/Machine/Flags.lean ====
section
/-!
DEFINITION. Machine/Flags.lean: every flag computation of the spec: W1C flags with their event counters (R500),
vectors and the device-event vector (R149 to R151), MG_ALERT and its in-band interrupt (R161), boot codes
(R79), log records (R495, R496), fault classes and their sliding windows (R485), and the verdict pairs (R240).
-/
namespace Sys2Proof.Machine
open Sys2Proof

/-- Add one, saturating at 0xFFFF (R500). -/
def satInc (n : Nat) : Nat := if n < 0xFFFF then n + 1 else n

/-- The counter of flag `bit` of bank `bank` counts one hardware setting (R500). -/
def State.countEvt (s : State) (bank bit : Nat) : State :=
  s.mapFlt fun f => { f with counts := f.counts.set 0 (16 * bank + bit) (satInc (f.counts.get 0 (16 * bank + bit))) }

/-- Something the device sends on its PCIe link; after a cut it sends no further TLP (R488). -/
def State.tlp (s : State) (o : Out) : State := if s.boot.cut then s else s.emit o

/-- Send a vector's message: its table entry's data to its address. -/
def State.sendMsg (s : State) (fn v : Nat) : State :=
  let e := (s.fn fn).msixTab.get (0, 0) v
  s.tlp (.msix fn v e.1 e.2)

/-- A vector's message is sent, or its pending bit is set while it is masked (R151). -/
def State.sendVec (s : State) (fn v : Nat) : State :=
  let f := s.fn fn
  if f.msixEn && !f.fnMask && f.unmasked.contains v then s.sendMsg fn v
  else if f.pendVec.contains v then s else s.setFn fn { f with pendVec := v :: f.pendVec }

/-- The device-event vector: PF vector 5 (R149, R150). -/
def State.deviceEvent (s : State) : State := s.sendVec 0 5

/-- Hardware sets FLT_EVT bit `b`: counted each time; the device-event vector fires on 0 to 1 (R150, R500). -/
def State.setFlt (s : State) (b : Nat) : State :=
  let s1 := s.countEvt 0 b
  if s1.flt.evt.getLsbD b then s1
  else (s1.mapFlt fun f => { f with evt := f.evt ||| (1#10 <<< b) }).deviceEvent

/-- Hardware sets SIEVE_EVT bit `b`. -/
def State.setSieve (s : State) (b : Nat) : State :=
  let s1 := s.countEvt 1 b
  if s1.guard.evt.getLsbD b then s1
  else (s1.mapGuard fun g => { g with evt := g.evt ||| (1#9 <<< b) }).deviceEvent

/-- Hardware sets ENT_EVT bit `b`; it raises no device event (R150). -/
def State.setEnt (s : State) (b : Nat) : State :=
  (s.countEvt 2 b).mapEnt fun e => { e with evt := e.evt ||| (1#8 <<< b) }

/-- Hardware sets DRU_ERR bit `b`; the flags raise no interrupt (chapter 12, DRU_ERR). -/
def State.setDruErr (s : State) (b : Nat) : State :=
  (s.countEvt 3 b).mapDru fun d => { d with err := d.err ||| (1#10 <<< b) }

/-- Hardware sets DEV_THERM.THROTTLE_EVT (R150). -/
def State.setThrottle (s : State) : State :=
  let s1 := s.countEvt 4 0
  if s1.thermal.throttleEvt then s1
  else (s1.mapThermal fun t => { t with throttleEvt := true }).deviceEvent

/-- Hardware sets EVT_ACCESS bit `b`: 0 BAD_ACCESS, 1 DOORBELL_DROP. -/
def State.setAccess (s : State) (b : Nat) : State :=
  let s1 := s.countEvt 5 b
  if s1.flt.access.getLsbD b then s1
  else (s1.mapFlt fun f => { f with access := f.access ||| (1#2 <<< b) }).deviceEvent

/-- The management bus runs in I3C mode: the target holds a dynamic address. Without one it is an I2C target at its static
address (R159, R160; log row 94). -/
def State.i3cMode (s : State) : Bool := s.mgmt.dynAddr.isSome

/-- Raise an in-band interrupt: in I3C mode, where ENEC has enabled it (R161). -/
def State.raiseIbi (s : State) (data : BitVec 8) : State := if s.mgmt.ibiOn && s.i3cMode then s.emit (.ibi data) else s

/-- A response has become pending on a binding: on the I3C binding it raises an in-band interrupt, with the mandatory byte
its standard gives it, 0xAE (R161). -/
def State.pend (s : State) (b : Binding) : State := if b = .i3c then s.raiseIbi 0xAE else s

/-- Hardware sets MG_ALERT bit `b`; a 0-to-1 change raises an in-band interrupt when enabled (R161). -/
def State.setAlert (s : State) (b : Nat) : State :=
  let s1 := s.countEvt 6 b
  if s1.mgmt.alert.getLsbD b then s1
  else
    let s2 := s1.mapMgmt fun m => { m with alert := m.alert ||| (1#4 <<< b) }
    s2.raiseIbi 0x61

/-- A message on an MCTP binding. -/
def State.mctpSend (s : State) (b : Binding) (msgType : Nat) (data : Bytes) : State := (s.emit (.mctp b msgType data)).pend b

/-- A PLDM firmware-update message on a binding. -/
def State.pldmSend (s : State) (b : Binding) (cmd code : Nat) (data : Bytes) : State := (s.emit (.pldm b cmd code data)).pend b

/-- MGMT_ALERT_N is low while any MG_ALERT bit is 1 (R161). -/
def State.mgmtAlertLow (s : State) : Bool := s.mgmt.alert ≠ 0

/-- Hardware sets FN_DMA.FAULT of a function (bank 8 + f, bit 0). -/
def State.setFnDma (s : State) (fn : Nat) (kind : Nat) (addr : BitVec 64) : State :=
  if fn = 255 then s
  else (s.countEvt (8 + fn) 0).mapFn fn fun f =>
    { f with dmaFault := true, dmaKind := kind, dmaAddr := (addr >>> 12).truncate 52 }

/-- Hardware sets FN_SESSION.IDLE_CLOSED of a function (bank 8 + f, bit 1); it raises a device event (R150). -/
def State.setIdleClosed (s : State) (fn : Nat) : State :=
  let s1 := if fn = 255 then s else s.countEvt (8 + fn) 1
  let was := (s1.session fn).idleClosed
  let s2 := s1.mapSession fn fun x => { x with idleClosed := true }
  if was || fn = 255 then s2 else s2.deviceEvent

/-- The event-counter bank of a queue's Q_EVT (R500). -/
def qEvtBank (r : QRef) : Nat := if r.fn = 0 then 256 + r.vector else 2304 + 65 * (r.fn - 1) + r.vector

/-- Hardware sets Q_EVT bit `b` of a queue. -/
def State.setQEvt (s : State) (r : QRef) (b : Nat) : State :=
  (s.countEvt (qEvtBank r) b).mapQueue r fun q => { q with evt := q.evt ||| (1#3 <<< b) }

/-! ### Boot codes -/

/-- DEV_BOOT.CODE takes a value; 0x8001 to 0x8009 set MG_ALERT.BOOT_FAULT (R79, R161). -/
def State.setCode (s : State) (code detail : BitVec 16) : State :=
  let s1 := s.mapBoot fun b => { b with code, detail }
  if 0x8001#16 ≤ code ∧ code ≤ 0x8009#16 then s1.setAlert 0 else s1

/-- A progress code of the normal start mode; in a recovery or manufacturing start mode CODE keeps the
start-mode code (R59), and in LOCKDOWN it keeps 0x8008 (R79). -/
def State.setProgress (s : State) (code detail : BitVec 16) : State :=
  if s.boot.mode = .normal ∧ s.boot.lockdown = false then s.setCode code detail else s

/-! ### The log -/

/-- The word `UNIT` of a record: kind in [15:12], number in [11:0] (R496). -/
def unitWord (kind num : Nat) : Nat := kind * 4096 + num % 4096

/-- Put a record at the head of a log that holds at most `cap` (R495: the new record replaces the oldest). -/
def pushLog (cap : Nat) (l : List LogRec) (r : LogRec) : List LogRec := (r :: l).take cap

/-- The keeper writes one record: SEQ is taken now; KIND 2 goes to both logs and sets LAST_CODE and
MG_ALERT.TAMPER, KIND 3 sets FLT_EVT.GUARANTEE_BROKEN (R160, R495, R496, R533). -/
def State.writeRec (s : State) (r : LogRec) : State :=
  let r := { r with seq := s.logs.nextSeq }
  let s1 := s.mapLogs fun l => { l with
    event := pushLog 16384 l.event r
    tamper := if r.kind = 2 then pushLog 1024 l.tamper r else l.tamper
    nextSeq := l.nextSeq + 1 }
  if r.kind = 2 then (s1.mapFlt fun f => { f with lastCode := r.code.toNat % 256 }).setAlert 1
  else if r.kind = 3 then s1.setFlt 9
  else s1

/-- A record is written, or waits in the keeper buffer of 256 while non-volatile changes may not begin, behind those
that wait already; past 256 it is dropped (R495). -/
def State.addRec (s : State) (r : LogRec) : State :=
  if s.nvFree && s.logs.buffered.isEmpty then s.writeRec r
  else if s.logs.buffered.length < 256 then s.mapLogs fun l => { l with buffered := r :: l.buffered }
  else s.mapLogs fun l => { l with dropped := l.dropped + 1 }

/-- A record of R532 that names neither guarantee: code, kind, class (255 where none), unit word, detail. -/
def State.recOf (s : State) (code : BitVec 16) (kind cls unit detail : Nat) : LogRec :=
  { seq := 0, code, kind, cls, ticks := s.now, boot := s.keeper.bootCount % 2 ^ 32, kept := 0, broken := 0, unit,
    detail := BitVec.ofNat 64 detail }

/-- A record of R532 is added. -/
def State.log (s : State) (code : BitVec 16) (kind cls unit detail : Nat) : State :=
  s.addRec (s.recOf code kind cls unit detail)

/-- An event of KIND 0 without class or unit. -/
def State.logEvent (s : State) (code : BitVec 16) (detail : Nat) : State := s.log code 0 255 0 detail

/-- A GUARANTEE_BROKEN record (R18, R534). -/
def State.logBroken (s : State) (kept broken detail : Nat) : State :=
  s.addRec { seq := 0, code := 0x0800, kind := 3, cls := 255, ticks := s.now, boot := s.keeper.bootCount % 2 ^ 32,
             kept, broken, unit := 0, detail := BitVec.ofNat 64 detail }

/-- Once writing resumes the buffered records are written oldest first, then one LOG_OVERFLOW record with the
number dropped (R495). -/
def State.flushLog (s : State) : State :=
  let s1 := s.logs.buffered.reverse.foldl State.writeRec (s.mapLogs fun l => { l with buffered := [], dropped := 0 })
  if s.logs.dropped = 0 then s1 else s1.logEvent 0x0704 s.logs.dropped

/-- Latched in the always-on island while VIN is absent: the first sixteen are kept, as the records they were when they happened, and the rest counted (R491). -/
def State.latchIsland (s : State) (code : BitVec 16) (cls detail : Nat) : State :=
  s.mapLogs fun l => if l.latched.length < 16 then { l with latched := l.latched ++ [s.recOf code 2 cls 0 detail] }
                     else { l with overLatch := satInc l.overLatch }

/-! ### Fault classes (R485) -/

/-- Threshold of a class. -/
def classThreshold : Nat → Nat
  | 0 => 4 | 1 => 2 | 2 => 3 | 3 => 1 | 4 => 3 | 5 => 1 | 6 => 3 | 7 => 3 | 8 => 3 | 9 => 3 | 10 => 3 | 11 => 3
  | 12 => 3 | 13 => 3 | _ => 1

/-- Window of a class in milliseconds; 0 for threshold 1. -/
def classWindowMs : Nat → Nat
  | 0 => 1000 | 1 => 1000 | 2 => 60000 | 3 => 0 | 4 => 86400000 | 5 => 0 | 6 => 1000 | 7 => 10000 | 8 => 10000
  | 9 => 10000 | 10 => 10000 | 11 => 10000 | 12 => 10000 | 13 => 10000 | _ => 0

/-- Window of a class in ticks. -/
def classWindow (c : Nat) : Nat := classWindowMs c * 32768 / 1000

/-- Events of an object still in the sliding window that ends now. -/
def State.recent (s : State) (c obj : Nat) : List FaultEvt :=
  s.flt.history.filter fun e => e.cls = c && e.obj = obj && s.now < e.tick + classWindow c

/-- FLT_CLASSc.LASTING goes up by one. -/
def bumpLasting : List Nat → Nat → List Nat
  | [], _ => []
  | n :: l, 0 => satInc n :: l
  | n :: l, i + 1 => n :: bumpLasting l i

/-- Count one event of a class against its object. When the count reaches the threshold the fault is lasting:
the object's count returns to zero and LASTING goes up; the Bool says so. -/
def State.faultEvent (s : State) (c obj : Nat) : State × Bool :=
  let keep := s.flt.history.filter fun e => !(e.cls = c && e.obj = obj) || s.now < e.tick + classWindow c
  let others := s.flt.history.filter fun e => !(e.cls = c && e.obj = obj)
  if (s.recent c obj).length + 1 < classThreshold c then
    (s.mapFlt (fun f => { f with history := { cls := c, obj := obj, tick := s.now } :: keep }), false)
  else
    (s.mapFlt (fun f => { f with history := others, lasting := bumpLasting f.lasting c }), true)

/-- FLT_EVT flags of R485 and R486: which bit a class sets. -/
def classFlag : Nat → Option Nat
  | 0 => some 0 | 1 => some 1 | 2 => some 2 | 3 => some 4 | 4 => some 5
  | 7 => some 8 | 8 => some 8 | 9 => some 8 | 10 => some 8 | 12 => some 8 | 13 => some 8 | _ => none

/-- Set the FLT_EVT flag of a class, where it has one. -/
def State.setClassFlag (s : State) (c : Nat) : State :=
  match classFlag c with
  | some b => s.setFlt b
  | none => s

/-! ### Verdict pairs (R240) -/

/-- The true pair in RESULT[31:0]. -/
def pairTrue : BitVec 64 := 0x95A66A59#64

/-- The false pair. -/
def pairFalse : BitVec 64 := 0xC3F03C0F#64

/-! ### Status codes (R528) -/

abbrev Status := BitVec 16
def st.ok : Status := 0x0000
def st.badOpcode : Status := 0x0101
def st.badField : Status := 0x0102
def st.lengthMismatch : Status := 0x0103
def st.fragTableBad : Status := 0x0104
def st.unitAbsent : Status := 0x0105
def st.operandRange : Status := 0x0106
def st.stateRefused : Status := 0x0107
def st.notAuthorised : Status := 0x0108
def st.contextInvalid : Status := 0x0201
def st.keyOrphaned : Status := 0x0202
def st.keyPolicy : Status := 0x0203
def st.keyType : Status := 0x0204
def st.contextFull : Status := 0x0205
def st.stateExhausted : Status := 0x0206
def st.rootDisabled : Status := 0x0207
def st.invalidPoint : Status := 0x0301
def st.verifyFalse : Status := 0x0302
def st.tagFail : Status := 0x0303
def st.decodeFail : Status := 0x0304
def st.paramRejected : Status := 0x0305
def st.slotBusy : Status := 0x0401
def st.slotRange : Status := 0x0402
def st.dmaFault : Status := 0x0403
def st.timeout : Status := 0x0404
def st.busyUpdate : Status := 0x0405
def st.entropyNotReady : Status := 0x0501
def st.entropyFail : Status := 0x0502
def st.abortedHost : Status := 0x0601
def st.abortedTamper : Status := 0x0602
def st.abortedQueueStop : Status := 0x0603
def st.abortedFlr : Status := 0x0604
def st.internalEcc : Status := 0x0F01
def st.engineFault : Status := 0x0F02

end Sys2Proof.Machine
end

