-- ==== Sys2Proof/Machine/HashSigs.lean ====
section
/-!
DEFINITION. Machine/HashSigs.lean: SLH-DSA (FIPS 205), LM-OTS and LMS (RFC 8554 with SP 800-208) and WOTS+ and XMSS (RFC 8391
with SP 800-208), as R325 lists them. The spec names the standards and does not restate them (log row 4).
-/
namespace Sys2Proof.Machine
open Sys2Proof

/-- The first `n` digits of `w` bits of a string, the highest first. -/
def digitsOf (w n : Nat) (b : Bytes) : List Nat :=
  let v := beNat b
  (List.range n).map fun i => v / 2 ^ (8 * b.length - w * (i + 1)) % 2 ^ w

/-- The digits of a one-time signature: those of the message, then those of its checksum moved to the top of 16 bits. -/
def otsDigits (w n ls p : Nat) (m : Bytes) : List Nat :=
  let u := 8 * n / w
  let d := digitsOf w u m
  d ++ digitsOf w (p - u) (beBytes 2 ((d.map fun x => 2 ^ w - 1 - x).sum * 2 ^ ls))

/-- `count` steps of a chain from step `i`. -/
def chainOf' (step : Nat → Bytes → Bytes) : (count i : Nat) → Bytes → Bytes
  | 0, _, x => x
  | n + 1, i, x => chainOf' step n (i + 1) (step i x)

/-- Node `p` at height `z` of a tree over leaves. -/
def treeAt (leaf : Nat → Bytes) (node : Nat → Nat → Bytes → Bytes → Bytes) : (z p : Nat) → Bytes
  | 0, p => leaf p
  | z + 1, p => node (z + 1) p (treeAt leaf node z (2 * p)) (treeAt leaf node z (2 * p + 1))

/-- The authentication path of leaf `i`, lowest first. -/
def pathAt (leaf : Nat → Bytes) (node : Nat → Nat → Bytes → Bytes → Bytes) (h i : Nat) : List Bytes :=
  (List.range h).map fun z => treeAt leaf node z ((i / 2 ^ z) ^^^ 1)

/-- The root over a path: `x` stands at height `z`, position `i`. -/
def climb (node : Nat → Nat → Bytes → Bytes → Bytes) : (z i : Nat) → Bytes → List Bytes → Bytes
  | _, _, x, [] => x
  | z, i, x, a :: l => climb node (z + 1) (i / 2) (if i % 2 = 0 then node (z + 1) (i / 2) x a else node (z + 1) (i / 2) a x) l

/-! ### SLH-DSA -/

/-- The parameters of a set (FIPS 205 table 2). -/
structure SlhSet where
  shake : Bool
  n     : Nat
  h     : Nat
  d     : Nat
  a     : Nat
  k     : Nat
  m     : Nat

/-- The sets in the numbering of R333: the SHA2 variant has the odd number. -/
def slhSet (p : Nat) : SlhSet :=
  let shake : Bool := p % 2 = 0
  match (p + 1) / 2 with
  | 1 => { shake, n := 16, h := 63, d := 7, a := 12, k := 14, m := 30 }
  | 2 => { shake, n := 16, h := 66, d := 22, a := 6, k := 33, m := 34 }
  | 3 => { shake, n := 24, h := 63, d := 7, a := 14, k := 17, m := 39 }
  | 4 => { shake, n := 24, h := 66, d := 22, a := 8, k := 33, m := 42 }
  | 5 => { shake, n := 32, h := 64, d := 8, a := 14, k := 22, m := 47 }
  | _ => { shake, n := 32, h := 68, d := 17, a := 9, k := 35, m := 49 }

/-- An address: layer, tree, type and its three words. -/
structure SlhAdrs where
  layer : Nat
  tree  : Nat
  typ   : Nat
  w1    : Nat
  w2    : Nat
  w3    : Nat

def SlhSet.adrs (t : SlhSet) (x : SlhAdrs) : Bytes :=
  (if t.shake then beBytes 4 x.layer ++ beBytes 12 x.tree ++ beBytes 4 x.typ else beBytes 1 x.layer ++ beBytes 8 x.tree ++ beBytes 1 x.typ)
    ++ beBytes 4 x.w1 ++ beBytes 4 x.w2 ++ beBytes 4 x.w3

/-- F and PRF: `long` is the form of H and T, which use SHA-512 from security category 3 on. -/
def SlhSet.thash (t : SlhSet) (long : Bool) (pkSeed : Bytes) (x : SlhAdrs) (m : Bytes) : Bytes :=
  if t.shake then Config.shake256 (pkSeed ++ t.adrs x ++ m) t.n
  else if long && decide (16 < t.n) then (Config.sha512 (pkSeed ++ zeros (128 - t.n) ++ t.adrs x ++ m)).take t.n
  else (Config.sha256 (pkSeed ++ zeros (64 - t.n) ++ t.adrs x ++ m)).take t.n

/-- MGF1 of a hash (RFC 8017). -/
def mgf1 (alg : Nat) (seed : Bytes) (n : Nat) : Bytes :=
  let l := Config.digestLen alg
  ((List.range ((n + l - 1) / l)).flatMap fun i => Config.hashOf alg (seed ++ beBytes 4 i) l).take n

/-- SHA-256 or SHA-512, by security category. -/
def SlhSet.alg (t : SlhSet) : Nat := if t.n = 16 then 1 else 3

def SlhSet.prfMsg (t : SlhSet) (prf rand m : Bytes) : Bytes :=
  if t.shake then Config.shake256 (prf ++ rand ++ m) t.n else (Config.hmacOf t.alg prf (rand ++ m)).take t.n

def SlhSet.hMsg (t : SlhSet) (r pkSeed pkRoot m : Bytes) : Bytes :=
  if t.shake then Config.shake256 (r ++ pkSeed ++ pkRoot ++ m) t.m
  else mgf1 t.alg (r ++ pkSeed ++ Config.hashOf t.alg (r ++ pkSeed ++ pkRoot ++ m) (Config.digestLen t.alg)) t.m

/-- The length of a WOTS+ signature in nodes. -/
def SlhSet.len (t : SlhSet) : Nat := 2 * t.n + 3

/-- A step of chain `c` of key pair `kp`. -/
def SlhSet.step (t : SlhSet) (pkSeed : Bytes) (layer tree kp c : Nat) (i : Nat) (x : Bytes) : Bytes :=
  t.thash false pkSeed { layer, tree, typ := 0, w1 := kp, w2 := c, w3 := i } x

/-- The secret value of a chain. -/
def SlhSet.wotsSk (t : SlhSet) (skSeed pkSeed : Bytes) (layer tree kp c : Nat) : Bytes :=
  t.thash false pkSeed { layer, tree, typ := 5, w1 := kp, w2 := c, w3 := 0 } skSeed

/-- The compressed WOTS+ public key. -/
def SlhSet.wotsPk (t : SlhSet) (pkSeed : Bytes) (layer tree kp : Nat) (ends : List Bytes) : Bytes :=
  t.thash true pkSeed { layer, tree, typ := 1, w1 := kp, w2 := 0, w3 := 0 } ends.flatten

/-- Leaf `kp` of an XMSS tree. -/
def SlhSet.leaf (t : SlhSet) (skSeed pkSeed : Bytes) (layer tree kp : Nat) : Bytes :=
  t.wotsPk pkSeed layer tree kp ((List.range t.len).map fun c =>
    chainOf' (t.step pkSeed layer tree kp c) 15 0 (t.wotsSk skSeed pkSeed layer tree kp c))

/-- An inner node of an XMSS tree. -/
def SlhSet.node (t : SlhSet) (pkSeed : Bytes) (layer tree z p : Nat) (l r : Bytes) : Bytes :=
  t.thash true pkSeed { layer, tree, typ := 2, w1 := 0, w2 := z, w3 := p } (l ++ r)

/-- The height of one XMSS tree. -/
def SlhSet.hp (t : SlhSet) : Nat := t.h / t.d

/-- The WOTS+ signature of `m` and the authentication path. -/
def SlhSet.xmssSign (t : SlhSet) (skSeed pkSeed : Bytes) (layer tree kp : Nat) (m : Bytes) : List Bytes :=
  let ds := otsDigits 4 t.n 4 t.len m
  ((List.range t.len).map fun c =>
      chainOf' (t.step pkSeed layer tree kp c) (ds.getD c 0) 0 (t.wotsSk skSeed pkSeed layer tree kp c))
    ++ pathAt (t.leaf skSeed pkSeed layer tree) (t.node pkSeed layer tree) t.hp kp

/-- The root an XMSS signature gives. -/
def SlhSet.xmssRoot (t : SlhSet) (pkSeed : Bytes) (layer tree kp : Nat) (m : Bytes) (sig : List Bytes) : Bytes :=
  let ds := otsDigits 4 t.n 4 t.len m
  let ends := (List.range t.len).map fun c =>
    chainOf' (t.step pkSeed layer tree kp c) (15 - ds.getD c 0) (ds.getD c 0) (sig.getD c [])
  climb (t.node pkSeed layer tree) 0 kp (t.wotsPk pkSeed layer tree kp ends) (sig.drop t.len)

/-- The hypertree signature from a layer up. -/
def SlhSet.htSign (t : SlhSet) (skSeed pkSeed : Bytes) : (left layer tree leaf : Nat) → Bytes → List Bytes
  | 0, _, _, _, _ => []
  | n + 1, layer, tree, leaf, m =>
    let sig := t.xmssSign skSeed pkSeed layer tree leaf m
    sig ++ t.htSign skSeed pkSeed n (layer + 1) (tree / 2 ^ t.hp) (tree % 2 ^ t.hp) (t.xmssRoot pkSeed layer tree leaf m sig)

/-- The root a hypertree signature gives. -/
def SlhSet.htRoot (t : SlhSet) (pkSeed : Bytes) : (left layer tree leaf : Nat) → Bytes → List Bytes → Bytes
  | 0, _, _, _, m, _ => m
  | n + 1, layer, tree, leaf, m, sig =>
    let l := t.len + t.hp
    t.htRoot pkSeed n (layer + 1) (tree / 2 ^ t.hp) (tree % 2 ^ t.hp) (t.xmssRoot pkSeed layer tree leaf m (sig.take l)) (sig.drop l)

/-- A FORS secret value, its leaf and a node. -/
def SlhSet.forsSk (t : SlhSet) (skSeed pkSeed : Bytes) (tree kp i : Nat) : Bytes :=
  t.thash false pkSeed { layer := 0, tree, typ := 6, w1 := kp, w2 := 0, w3 := i } skSeed

def SlhSet.forsLeaf (t : SlhSet) (pkSeed : Bytes) (tree kp i : Nat) (x : Bytes) : Bytes :=
  t.thash false pkSeed { layer := 0, tree, typ := 3, w1 := kp, w2 := 0, w3 := i } x

def SlhSet.forsNode (t : SlhSet) (pkSeed : Bytes) (tree kp z p : Nat) (l r : Bytes) : Bytes :=
  t.thash true pkSeed { layer := 0, tree, typ := 3, w1 := kp, w2 := z, w3 := p } (l ++ r)

def SlhSet.forsSign (t : SlhSet) (skSeed pkSeed : Bytes) (tree kp : Nat) (ds : List Nat) : List Bytes :=
  (List.range t.k).flatMap fun i =>
    let at' := i * 2 ^ t.a + ds.getD i 0
    t.forsSk skSeed pkSeed tree kp at' ::
      pathAt (fun l => t.forsLeaf pkSeed tree kp l (t.forsSk skSeed pkSeed tree kp l)) (t.forsNode pkSeed tree kp) t.a at'

def SlhSet.forsPk (t : SlhSet) (pkSeed : Bytes) (tree kp : Nat) (ds : List Nat) (sig : List Bytes) : Bytes :=
  let roots := (List.range t.k).map fun i =>
    let at' := i * 2 ^ t.a + ds.getD i 0
    let part := (sig.drop (i * (t.a + 1))).take (t.a + 1)
    climb (t.forsNode pkSeed tree kp) 0 at' (t.forsLeaf pkSeed tree kp at' (part.headD [])) (part.drop 1)
  t.thash true pkSeed { layer := 0, tree, typ := 4, w1 := kp, w2 := 0, w3 := 0 } roots.flatten

/-- The FORS digits, tree and leaf of a message digest. -/
def SlhSet.parts (t : SlhSet) (digest : Bytes) : List Nat × Nat × Nat :=
  let n := (t.k * t.a + 7) / 8
  let tl := (t.h - t.hp + 7) / 8
  (digitsOf t.a t.k (digest.take n), beNat (slice digest n tl) % 2 ^ (t.h - t.hp),
    beNat (slice digest (n + tl) ((t.hp + 7) / 8)) % 2 ^ t.hp)

/-- PK.root of a key. -/
@[irreducible] def slhRoot (p : Nat) (skSeed pkSeed : Bytes) : Bytes :=
  let t := slhSet p
  treeAt (t.leaf skSeed pkSeed (t.d - 1) 0) (t.node pkSeed (t.d - 1) 0) t.hp 0

/-- slh_sign_internal over M′, with SK.seed, SK.prf, PK.seed, PK.root and opt_rand. -/
@[irreducible] def slhSign (p : Nat) (skSeed prf pkSeed root rand m : Bytes) : Bytes :=
  let t := slhSet p
  let r := t.prfMsg prf rand m
  let (ds, tree, leaf) := t.parts (t.hMsg r pkSeed root m)
  let fors := t.forsSign skSeed pkSeed tree leaf ds
  (r :: fors ++ t.htSign skSeed pkSeed t.d 0 tree leaf (t.forsPk pkSeed tree leaf ds fors)).flatten

/-- slh_verify_internal over M′, for a signature of the right length. -/
@[irreducible] def slhVerify (p : Nat) (pk m sig : Bytes) : Bool :=
  let t := slhSet p
  let pkSeed := pk.take t.n
  let root := pk.drop t.n
  let parts := blocksOf t.n sig
  let (ds, tree, leaf) := t.parts (t.hMsg (parts.headD []) pkSeed root m)
  let fl := t.k * (t.a + 1)
  t.htRoot pkSeed t.d 0 tree leaf (t.forsPk pkSeed tree leaf ds ((parts.drop 1).take fl)) (parts.drop (1 + fl)) = root

/-! ### LM-OTS and LMS -/

/-- The numbers of an LM-OTS type: SHAKE256 or SHA-256, n, w, p and ls (R340). -/
structure OtsSet where
  shake : Bool
  n     : Nat
  w     : Nat
  p     : Nat
  ls    : Nat

def otsSet (ots : Nat) : OtsSet :=
  let i := (ots - 1) % 4
  let long : Bool := (ots - 1) / 4 % 2 = 0
  { shake := decide (8 < ots), n := if long then 32 else 24, w := 2 ^ i
    p := (if long then [265, 133, 67, 34] else [200, 101, 51, 26]).getD i 0
    ls := (if long then [7, 6, 4, 0] else [8, 6, 4, 0]).getD i 0 }

def OtsSet.hash (t : OtsSet) (m : Bytes) : Bytes := if t.shake then Config.shake256 m t.n else (Config.sha256 m).take t.n

/-- A step of chain `i`, and its private value (the pseudorandom method of SP 800-208). -/
def OtsSet.step (t : OtsSet) (id : Bytes) (q i j : Nat) (x : Bytes) : Bytes :=
  t.hash (id ++ beBytes 4 q ++ beBytes 2 i ++ beBytes 1 j ++ x)

def OtsSet.secret (t : OtsSet) (id seed : Bytes) (q i : Nat) : Bytes := t.step id q i 0xFF seed

/-- The public key K over the ends of the chains. -/
def OtsSet.pub (t : OtsSet) (id : Bytes) (q : Nat) (ends : List Bytes) : Bytes :=
  t.hash (id ++ beBytes 4 q ++ [0x80, 0x80] ++ ends.flatten)

/-- The digits of a message with its randomiser. -/
def OtsSet.digits (t : OtsSet) (id c m : Bytes) (q : Nat) : List Nat :=
  otsDigits t.w t.n t.ls t.p (t.hash (id ++ beBytes 4 q ++ [0x81, 0x81] ++ c ++ m))

/-- The chain values of a signature. -/
@[irreducible] def OtsSet.sign (t : OtsSet) (id seed c m : Bytes) (q : Nat) : Bytes :=
  let ds := t.digits id c m q
  (List.range t.p).flatMap fun i => chainOf' (t.step id q i) (ds.getD i 0) 0 (t.secret id seed q i)

/-- The public key a signature gives. -/
def OtsSet.recover (t : OtsSet) (id c m sig : Bytes) (q : Nat) : Bytes :=
  let ds := t.digits id c m q
  t.pub id q ((List.range t.p).map fun i =>
    chainOf' (t.step id q i) (2 ^ t.w - 1 - ds.getD i 0) (ds.getD i 0) (slice sig (t.n * i) t.n))

/-- The value of node `r` over a public key, and over two children. -/
def OtsSet.lmsLeaf (t : OtsSet) (id : Bytes) (r : Nat) (k : Bytes) : Bytes := t.hash (id ++ beBytes 4 r ++ [0x82, 0x82] ++ k)
def OtsSet.lmsNode (t : OtsSet) (id : Bytes) (r : Nat) (a b : Bytes) : Bytes := t.hash (id ++ beBytes 4 r ++ [0x83, 0x83] ++ a ++ b)

/-- Leaf `q` of a tree of height `h`. -/
@[irreducible] def OtsSet.leafOf (t : OtsSet) (h : Nat) (id seed : Bytes) (q : Nat) : Bytes :=
  t.lmsLeaf id (2 ^ h + q) (t.pub id q ((List.range t.p).map fun i => chainOf' (t.step id q i) (2 ^ t.w - 1) 0 (t.secret id seed q i)))

/-- LMS verification: I and the root of the public key, C, the chain values and the path of the signature. -/
@[irreducible] def OtsSet.verify (t : OtsSet) (h : Nat) (id root c m sig path : Bytes) (q : Nat) : Bool :=
  climb (fun z p => t.lmsNode id (2 ^ (h - z) + p)) 0 q (t.lmsLeaf id (2 ^ h + q) (t.recover id c m sig q)) (blocksOf t.n path) = root

/-! ### WOTS+ and XMSS -/

/-- The numbers of an XMSS OID: SHAKE256 or SHA-256, n and the length of a WOTS+ signature (R340). -/
structure XmssSet where
  shake : Bool
  n     : Nat
  len   : Nat

def xmssSet (o : Nat) : XmssSet :=
  let long : Bool := o ≤ 3 || (0x10 ≤ o && o ≤ 0x12)
  { shake := decide (0x10 ≤ o), n := if long then 32 else 24, len := if long then 67 else 51 }

/-- The keyed functions: a number of n bytes (of 4 bytes at n 24, SP 800-208), the key and the message. -/
def XmssSet.hash (t : XmssSet) (kind : Nat) (key m : Bytes) : Bytes :=
  let x := beBytes (if t.n = 32 then 32 else 4) kind ++ key ++ m
  if t.shake then Config.shake256 x t.n else (Config.sha256 x).take t.n

/-- An address of layer 0 and tree 0: the type and its four words. -/
def xmssAdrs (typ a b c d : Nat) : Bytes := zeros 12 ++ beBytes 4 typ ++ beBytes 4 a ++ beBytes 4 b ++ beBytes 4 c ++ beBytes 4 d

def XmssSet.prf (t : XmssSet) (key m : Bytes) : Bytes := t.hash 3 key m

/-- The private value of chain `i` of key pair `q` (the pseudorandom method of SP 800-208). -/
def XmssSet.secret (t : XmssSet) (skSeed pub : Bytes) (q i : Nat) : Bytes := t.hash 4 skSeed (pub ++ xmssAdrs 0 q i 0 0)

/-- A step of chain `i`. -/
def XmssSet.step (t : XmssSet) (pub : Bytes) (q i j : Nat) (x : Bytes) : Bytes :=
  t.hash 0 (t.prf pub (xmssAdrs 0 q i j 0)) (xorBytes x (t.prf pub (xmssAdrs 0 q i j 1)))

/-- RAND_HASH under an address whose last word is the mask number. -/
def XmssSet.pair (t : XmssSet) (pub : Bytes) (adrs : Nat → Bytes) (a b : Bytes) : Bytes :=
  t.hash 1 (t.prf pub (adrs 0)) (xorBytes (a ++ b) (t.prf pub (adrs 1) ++ t.prf pub (adrs 2)))

/-- One level of an L-tree: pairs from the left, and an odd last one as it is. -/
def XmssSet.ltreeUp (t : XmssSet) (pub : Bytes) (q z : Nat) : (i : Nat) → List Bytes → List Bytes
  | i, a :: b :: l => t.pair pub (xmssAdrs 1 q z i) a b :: t.ltreeUp pub q z (i + 1) l
  | _, l => l

def XmssSet.ltreeFrom (t : XmssSet) (pub : Bytes) (q : Nat) : (left z : Nat) → List Bytes → Bytes
  | 0, _, l => l.headD []
  | n + 1, z, l => t.ltreeFrom pub q n (z + 1) (t.ltreeUp pub q z 0 l)

/-- The leaf over a WOTS+ public key of at most 128 nodes. -/
def XmssSet.ltree (t : XmssSet) (pub : Bytes) (q : Nat) (ends : List Bytes) : Bytes := t.ltreeFrom pub q 7 0 ends

/-- A node at height `z` over its children. -/
@[irreducible] def XmssSet.node (t : XmssSet) (pub : Bytes) (z p : Nat) (a b : Bytes) : Bytes := t.pair pub (xmssAdrs 2 0 (z - 1) p) a b

/-- Leaf `q`. -/
@[irreducible] def XmssSet.leafOf (t : XmssSet) (skSeed pub : Bytes) (q : Nat) : Bytes :=
  t.ltree pub q ((List.range t.len).map fun i => chainOf' (t.step pub q i) 15 0 (t.secret skSeed pub q i))

/-- The randomiser of an index. -/
def XmssSet.randomiser (t : XmssSet) (prfKey : Bytes) (q : Nat) : Bytes := t.prf prfKey (beBytes 32 q)

/-- The digits of a message. -/
def XmssSet.digits (t : XmssSet) (r root m : Bytes) (q : Nat) : List Nat :=
  otsDigits 4 t.n 4 t.len (t.hash 2 (r ++ root ++ beBytes t.n q) m)

/-- The chain values of a signature. -/
@[irreducible] def XmssSet.sign (t : XmssSet) (skSeed pub r root m : Bytes) (q : Nat) : Bytes :=
  let ds := t.digits r root m q
  (List.range t.len).flatMap fun i => chainOf' (t.step pub q i) (ds.getD i 0) 0 (t.secret skSeed pub q i)

/-- XMSS verification: the root and PUB_SEED of the public key; index, randomiser, chain values and path of the signature. -/
@[irreducible] def XmssSet.verify (t : XmssSet) (root pub r m sig path : Bytes) (q : Nat) : Bool :=
  let ds := t.digits r root m q
  let ends := (List.range t.len).map fun i => chainOf' (t.step pub q i) (15 - ds.getD i 0) (ds.getD i 0) (slice sig (t.n * i) t.n)
  climb (t.node pub) 0 q (t.ltree pub q ends) (blocksOf t.n path) = root

end Sys2Proof.Machine
end

