-- ==== Sys2Proof/Machine/Lattices.lean ====
section
/-!
DEFINITION. Machine/Lattices.lean: ML-KEM (FIPS 203) and ML-DSA (FIPS 204) as R296 lists them, with PSET 1 to 3 for their
three parameter sets (R297). The spec names the standards and does not restate them (log row 4). A polynomial is the list of
its 256 coefficients, each reduced modulo q.
-/
namespace Sys2Proof.Machine
open Sys2Proof

abbrev Poly := List Nat

/-! ### Polynomials -/

def polyZero : Poly := List.replicate 256 0
def polyAdd (q : Nat) (a b : Poly) : Poly := List.zipWith (fun x y => (x + y) % q) a b
def polySub (q : Nat) (a b : Poly) : Poly := List.zipWith (subMod q) a b

/-- The `n` low bits of a number in reverse order. -/
def bitRev : (n : Nat) → Nat → Nat
  | 0, _ => 0
  | n + 1, v => v % 2 * 2 ^ n + bitRev n (v / 2)

/-- The number-theoretic transform over `depth` levels: node `k` of the level tree splits with the power of ζ at the
reversed bits of `k`. -/
def nttFrom (q zeta bits : Nat) : (depth k : Nat) → Poly → Poly
  | 0, _, f => f
  | n + 1, k, f =>
    let h := f.length / 2
    let z := powModN q zeta (bitRev bits k)
    let t := (f.drop h).map fun x => z * x % q
    nttFrom q zeta bits n (2 * k) (polyAdd q (f.take h) t) ++ nttFrom q zeta bits n (2 * k + 1) (polySub q (f.take h) t)

/-- The transform back. -/
def inttFrom (q zeta bits : Nat) : (depth k : Nat) → Poly → Poly
  | 0, _, f => f
  | n + 1, k, f =>
    let h := f.length / 2
    let a := inttFrom q zeta bits n (2 * k) (f.take h)
    let b := inttFrom q zeta bits n (2 * k + 1) (f.drop h)
    let half := (q + 1) / 2
    let w := half * powModN q (powModN q zeta (bitRev bits k)) (q - 2) % q
    ((polyAdd q a b).map fun x => half * x % q) ++ (polySub q a b).map fun x => w * x % q

/-- The coefficients of a string, `d` bits each, the first in the lowest bits; and back. -/
def unpack (d : Nat) : (n : Nat) → Nat → List Nat
  | 0, _ => []
  | n + 1, v => v % 2 ^ d :: unpack d n (v / 2 ^ d)

def packNat (d : Nat) : List Nat → Nat
  | [] => 0
  | c :: l => c + 2 ^ d * packNat d l

def bitUnpackAll (d : Nat) (b : Bytes) : Poly := unpack d 256 (leNat b)
def bitPackAll (d : Nat) (f : Poly) : Bytes := leBytes (32 * d) (packNat d f)

/-- The first 256 accepted values of a sponge, block by block. -/
def rejectFrom (rate : Nat) (parse : Bytes → List Nat) : (fuel : Nat) → Bytes → List Nat → Poly
  | 0, _, acc => acc.take 256
  | k + 1, s, acc =>
    let acc := acc ++ parse (s.take rate)
    if 256 ≤ acc.length then acc.take 256 else rejectFrom rate parse k (Config.keccakF s) acc

/-- Samples from SHAKE128 or SHAKE256 of a seed; 64 blocks hold 256 accepted values but for a chance below 2^-1000. -/
def rejectSample (alg : Nat) (parse : Bytes → List Nat) (seed : Bytes) : Poly :=
  let rate := Config.blockLen alg
  rejectFrom rate parse 64 (Config.keccakAbsorb rate (zeros 200) (seed ++ Config.keccakPad rate 0x1F seed.length)) []

/-! ### ML-KEM -/

def kq : Nat := 3329
def kemK (p : Nat) : Nat := p + 1
def kemEta1 (p : Nat) : Nat := if p = 1 then 3 else 2
def kemDu (p : Nat) : Nat := if p = 3 then 11 else 10
def kemDv (p : Nat) : Nat := if p = 3 then 5 else 4

def kemNtt : Poly → Poly := nttFrom kq 17 7 7 1
def kemIntt : Poly → Poly := inttFrom kq 17 7 7 1

/-- The product of two transforms: 128 products of pairs. -/
def kemMulAt : (i : Nat) → Poly → Poly → Poly
  | i, a0 :: a1 :: a, b0 :: b1 :: b =>
    let g := powModN kq 17 (2 * bitRev 7 i + 1)
    (a0 * b0 + a1 * b1 % kq * g) % kq :: (a0 * b1 + a1 * b0) % kq :: kemMulAt (i + 1) a b
  | _, _, _ => []

/-- The inner product of two vectors of transforms. -/
def kemDot (a b : List Poly) : Poly := (List.zipWith (kemMulAt 0) a b).foldl (polyAdd kq) polyZero

/-- The 12-bit values below q of a block. -/
def kemParse : Bytes → List Nat
  | a :: b :: c :: l =>
    let d1 := a.toNat + 256 * (b.toNat % 16)
    let d2 := b.toNat / 16 + 16 * c.toNat
    (if d1 < kq then [d1] else []) ++ (if d2 < kq then [d2] else []) ++ kemParse l
  | _ => []

/-- Entry (i, j) of the matrix of ρ. -/
def kemA (rho : Bytes) (i j : Nat) : Poly := rejectSample 7 kemParse (rho ++ [BitVec.ofNat 8 j, BitVec.ofNat 8 i])

/-- The centred binomial distribution of η over SHAKE256(seed ‖ N). -/
def kemNoise (eta : Nat) (seed : Bytes) (n : Nat) : Poly :=
  let ones (v : Nat) : Nat := (unpack 1 eta v).sum
  (unpack (2 * eta) 256 (leNat (Config.shake256 (seed ++ [BitVec.ofNat 8 n]) (64 * eta)))).map fun v =>
    subMod kq (ones v) (ones (v / 2 ^ eta))

def kemCompress (d x : Nat) : Nat := (x * 2 ^ d + 1664) / kq % 2 ^ d
def kemDecompress (d y : Nat) : Nat := (kq * y + 2 ^ (d - 1)) / 2 ^ d

/-- K-PKE.KeyGen: the encryption key and the decryption key. -/
def kpkeKeys (p : Nat) (d : Bytes) : Bytes × Bytes :=
  let k := kemK p
  let g := Config.sha3_512 (d ++ [BitVec.ofNat 8 k])
  let rho := g.take 32
  let s := (List.range k).map fun i => kemNtt (kemNoise (kemEta1 p) (g.drop 32) i)
  let t := (List.range k).map fun i =>
    polyAdd kq (kemDot ((List.range k).map fun j => kemA rho i j) s) (kemNtt (kemNoise (kemEta1 p) (g.drop 32) (k + i)))
  (t.flatMap (bitPackAll 12) ++ rho, s.flatMap (bitPackAll 12))

/-- The polynomials of a string of whole `d`-bit encodings. -/
def polysOf (d k : Nat) (b : Bytes) : List Poly := (chunks (32 * d) k b).map (bitUnpackAll d)

/-- K-PKE.Encrypt. -/
@[irreducible] def kpkeEncrypt (p : Nat) (ek m r : Bytes) : Bytes :=
  let k := kemK p
  let t := (polysOf 12 k ek).map fun f => f.map (· % kq)
  let rho := ek.drop (384 * k)
  let y := (List.range k).map fun i => kemNtt (kemNoise (kemEta1 p) r i)
  let u := (List.range k).map fun i =>
    polyAdd kq (kemIntt (kemDot ((List.range k).map fun j => kemA rho j i) y)) (kemNoise 2 r (k + i))
  let mu := (bitUnpackAll 1 m).map (kemDecompress 1)
  let v := polyAdd kq (polyAdd kq (kemIntt (kemDot t y)) (kemNoise 2 r (2 * k))) mu
  u.flatMap (fun f => bitPackAll (kemDu p) (f.map (kemCompress (kemDu p)))) ++ bitPackAll (kemDv p) (v.map (kemCompress (kemDv p)))

/-- K-PKE.Decrypt. -/
@[irreducible] def kpkeDecrypt (p : Nat) (dk c : Bytes) : Bytes :=
  let k := kemK p
  let n := 32 * kemDu p * k
  let u := (polysOf (kemDu p) k (c.take n)).map fun f => kemNtt (f.map (kemDecompress (kemDu p)))
  let v := (bitUnpackAll (kemDv p) (c.drop n)).map (kemDecompress (kemDv p))
  bitPackAll 1 ((polySub kq v (kemIntt (kemDot (polysOf 12 k dk) u))).map (kemCompress 1))

/-- The encapsulation and decapsulation keys of ML-KEM.KeyGen_internal. -/
@[irreducible] def kemKeys (p : Nat) (d z : Bytes) : Bytes × Bytes :=
  let (ek, dk) := kpkeKeys p d
  (ek, dk ++ ek ++ Config.sha3_256 ek ++ z)

/-- ML-KEM.Encaps_internal: the ciphertext and the shared secret. -/
def kemEncaps (p : Nat) (ek m : Bytes) : Bytes × Bytes :=
  let g := Config.sha3_512 (m ++ Config.sha3_256 ek)
  (kpkeEncrypt p ek m (g.drop 32), g.take 32)

/-- ML-KEM.Decaps_internal (R305): the ciphertext is compared with the re-encrypted one; K′ where they agree, else the
rejection key K̄ = J(z ‖ c). -/
def kemDecaps (p : Nat) (dk c : Bytes) : Bytes :=
  let k := kemK p
  let ek := slice dk (384 * k) (384 * k + 32)
  let m := kpkeDecrypt p (dk.take (384 * k)) c
  let g := Config.sha3_512 (m ++ slice dk (768 * k + 32) 32)
  if kpkeEncrypt p ek m (g.drop 32) = c then g.take 32 else Config.shake256 (dk.drop (768 * k + 64) ++ c) 32

/-! ### ML-DSA -/

def dq : Nat := 8380417

/-- The parameters of a set (FIPS 204 table 1); γ2 and the bits of γ1 follow from them. -/
structure DsaSet where
  k    : Nat
  l    : Nat
  eta  : Nat
  tau  : Nat
  lam  : Nat
  g1   : Nat   -- bits of γ1
  g2   : Nat
  om   : Nat

def dsaSet : Nat → DsaSet
  | 1 => { k := 4, l := 4, eta := 2, tau := 39, lam := 128, g1 := 17, g2 := (dq - 1) / 88, om := 80 }
  | 2 => { k := 6, l := 5, eta := 4, tau := 49, lam := 192, g1 := 19, g2 := (dq - 1) / 32, om := 55 }
  | _ => { k := 8, l := 7, eta := 2, tau := 60, lam := 256, g1 := 19, g2 := (dq - 1) / 32, om := 75 }

def dsaNtt : Poly → Poly := nttFrom dq 1753 8 8 1
def dsaIntt : Poly → Poly := inttFrom dq 1753 8 8 1
def dsaMul (a b : Poly) : Poly := List.zipWith (fun x y => x * y % dq) a b
def dsaDot (a b : List Poly) : Poly := (List.zipWith dsaMul a b).foldl (polyAdd dq) polyZero

/-- The distance of a value from 0 modulo q. -/
def dsaAbs (x : Nat) : Nat := min x (dq - x)
def dsaNorm (v : List Poly) : Nat := (v.flatMap fun f => f.map dsaAbs).foldl max 0

/-- The 23-bit values below q of a block. -/
def dsaParseA : Bytes → List Nat
  | a :: b :: c :: l =>
    let v := a.toNat + 256 * b.toNat + 65536 * (c.toNat % 128)
    (if v < dq then [v] else []) ++ dsaParseA l
  | _ => []

/-- The half-byte samples of η. -/
def dsaParseS (eta : Nat) (b : Bytes) : List Nat :=
  (b.flatMap fun x => [x.toNat % 16, x.toNat / 16]).filterMap fun v =>
    if eta = 2 then (if v < 15 then some (subMod dq 2 (v % 5)) else none) else if v < 9 then some (subMod dq 4 v) else none

def dsaRow (d : DsaSet) (rho : Bytes) (r : Nat) : List Poly :=
  (List.range d.l).map fun s => rejectSample 7 dsaParseA (rho ++ [BitVec.ofNat 8 s, BitVec.ofNat 8 r])

def dsaShort (d : DsaSet) (seed : Bytes) (from' n : Nat) : List Poly :=
  (List.range n).map fun i => rejectSample 8 (dsaParseS d.eta) (seed ++ leBytes 2 (from' + i))

/-- A value packed as b − w with the bits of a + b. -/
def packCentred (bits b : Nat) (f : Poly) : Bytes := bitPackAll bits (f.map fun x => subMod dq b x)
def unpackCentred (bits b : Nat) (x : Bytes) : Poly := (bitUnpackAll bits x).map fun v => subMod dq b v

def DsaSet.etaBits (d : DsaSet) : Nat := if d.eta = 2 then 3 else 4

/-- t = t1 · 2^13 + t0 with t0 in −2^12 + 1 to 2^12. -/
def power2Hi (x : Nat) : Nat := (x + 4095) / 8192
def power2Lo (x : Nat) : Nat := subMod dq x (power2Hi x * 8192)

/-- The matrix of ρ times a vector of transforms, transformed back. -/
def dsaApply (d : DsaSet) (rho : Bytes) (v : List Poly) : List Poly :=
  (List.range d.k).map fun r => dsaIntt (dsaDot (dsaRow d rho r) v)

/-- The key pair of ML-DSA.KeyGen_internal. -/
@[irreducible] def dsaKeys (p : Nat) (xi : Bytes) : Bytes × Bytes :=
  let d := dsaSet p
  let g := Config.shake256 (xi ++ [BitVec.ofNat 8 d.k, BitVec.ofNat 8 d.l]) 128
  let rho := g.take 32
  let s1 := dsaShort d (slice g 32 64) 0 d.l
  let s2 := dsaShort d (slice g 32 64) d.l d.k
  let t := List.zipWith (polyAdd dq) (dsaApply d rho (s1.map dsaNtt)) s2
  let pk := rho ++ t.flatMap fun f => bitPackAll 10 (f.map power2Hi)
  (pk, rho ++ g.drop 96 ++ Config.shake256 pk 64 ++ s1.flatMap (packCentred d.etaBits d.eta) ++ s2.flatMap (packCentred d.etaBits d.eta)
    ++ t.flatMap fun f => packCentred 13 4096 (f.map power2Lo))

/-- The high part of a value, and its low part modulo q (Decompose). -/
def dsaHigh (g2 x : Nat) : Nat := (x + g2 - 1) / (2 * g2) % ((dq - 1) / (2 * g2))
def dsaLow (g2 x : Nat) : Nat := subMod dq x (dsaHigh g2 x * (2 * g2))

/-- The packed high parts. -/
def dsaW1 (d : DsaSet) (w : List Poly) : Bytes := w.flatMap fun f => bitPackAll (if d.g2 = (dq - 1) / 88 then 6 else 4) f

/-- SampleInBall: the positions take the signs of the first 64 bits, from the bytes of the sponge. -/
def ballFrom (tau : Nat) (signs : Nat) : (left : Nat) → Bytes → Poly → Poly
  | 0, _, c => c
  | n + 1, bs, c =>
    let i := 256 - (n + 1)
    let rest := bs.dropWhile fun b => decide (i < b.toNat)
    let j := (rest.headD 0).toNat
    let v := if signs.testBit (tau - (n + 1)) then dq - 1 else 1
    ballFrom tau signs n (rest.drop 1) ((c.set i (c.getD j 0)).set j v)

/-- The challenge of c̃; 1,088 bytes hold its positions but for a chance below 2^-1000. -/
def dsaBall (d : DsaSet) (ct : Bytes) : Poly :=
  let b := Config.shake256 ct 1088
  ballFrom d.tau (leNat (b.take 8)) d.tau (b.drop 8) polyZero

/-- The hint of a signature: the positions of each polynomial, then the counts. -/
def packHint (d : DsaSet) (h : List (List Bool)) : Bytes :=
  let pos := h.map fun f => (List.range 256).filter fun i => f.getD i false
  let ends := (List.range d.k).map fun i => ((pos.take (i + 1)).map List.length).sum
  let flat := pos.flatten
  (flat ++ List.replicate (d.om - flat.length) 0 ++ ends).map (BitVec.ofNat 8)

/-- One iteration of the loop of ML-DSA.Sign_internal; none where the candidate is rejected. -/
def dsaAttempt (d : DsaSet) (rho : Bytes) (s1 s2 t0 : List Poly) (mu rpp : Bytes) (kappa : Nat) : Option Bytes :=
  let gamma1 := 2 ^ d.g1
  let beta := d.tau * d.eta
  let y := (List.range d.l).map fun r => unpackCentred (d.g1 + 1) gamma1 (Config.shake256 (rpp ++ leBytes 2 (kappa + r)) (32 * (d.g1 + 1)))
  let w := dsaApply d rho (y.map dsaNtt)
  let ct := Config.shake256 (mu ++ dsaW1 d (w.map fun f => f.map (dsaHigh d.g2))) (d.lam / 4)
  let c := dsaNtt (dsaBall d ct)
  let times (v : List Poly) : List Poly := v.map fun f => dsaIntt (dsaMul c f)
  let z := List.zipWith (polyAdd dq) y (times s1)
  let r := List.zipWith (polySub dq) w (times s2)
  let ct0 := times t0
  let r' := List.zipWith (polyAdd dq) r ct0
  let h := List.zipWith (fun a b => List.zipWith (fun x y => decide (dsaHigh d.g2 x ≠ dsaHigh d.g2 y)) a b) r' r
  if gamma1 - beta ≤ dsaNorm z ∨ d.g2 - beta ≤ dsaNorm (r.map fun f => f.map (dsaLow d.g2)) then none
  else if d.g2 ≤ dsaNorm ct0 ∨ d.om < (h.map fun f => (f.filter id).length).sum then none
  else some (ct ++ z.flatMap (packCentred (d.g1 + 1) gamma1) ++ packHint d h)

/-- The loop within `left` iterations: how many ran, and the signature, or none at the bound (R312). -/
def dsaLoop (d : DsaSet) (attempt : Nat → Option Bytes) : (left i : Nat) → Nat × Option Bytes
  | 0, i => (i, none)
  | n + 1, i =>
    match attempt (i * d.l) with
    | some s => (i + 1, some s)
    | none => dsaLoop d attempt n (i + 1)

/-- ML-DSA.Sign_internal over μ, bounded at 1,000 iterations (R312). -/
@[irreducible] def dsaSign (p : Nat) (sk rnd mu : Bytes) : Nat × Option Bytes :=
  let d := dsaSet p
  let e := 32 * d.etaBits
  let polys (off n len bits b : Nat) : List Poly := (chunks len n (sk.drop off)).map fun x => dsaNtt (unpackCentred bits b x)
  let s1 := polys 128 d.l e d.etaBits d.eta
  let s2 := polys (128 + e * d.l) d.k e d.etaBits d.eta
  let t0 := polys (128 + e * (d.l + d.k)) d.k 416 13 4096
  let rpp := Config.shake256 (slice sk 32 32 ++ rnd ++ mu) 64
  dsaLoop d (dsaAttempt d (sk.take 32) s1 s2 t0 mu rpp) 1000 0

/-- The hint bits of polynomial `i` of a signature whose hint decodes. -/
def hintAt (d : DsaSet) (h : List Nat) (i : Nat) : List Bool :=
  let ends := h.drop d.om
  let from' := if i = 0 then 0 else ends.getD (i - 1) 0
  let pos := (h.take (ends.getD i 0)).drop from'
  (List.range 256).map pos.contains

/-- UseHint. -/
def useHint (g2 : Nat) (b : Bool) (x : Nat) : Nat :=
  let m := (dq - 1) / (2 * g2)
  let low := dsaLow g2 x
  if b = false then dsaHigh g2 x
  else if 0 < low ∧ low ≤ g2 then (dsaHigh g2 x + 1) % m else (dsaHigh g2 x + m - 1) % m

/-- ML-DSA.Verify_internal over μ, for a signature whose hint decodes: the norm of z, and the comparison of c̃ (R311). -/
@[irreducible] def dsaVerify (p : Nat) (pk mu sig : Bytes) : Bool :=
  let d := dsaSet p
  let n := 32 * (d.g1 + 1)
  let rho := pk.take 32
  let ct := sig.take (d.lam / 4)
  let z := (chunks n d.l (sig.drop (d.lam / 4))).map (unpackCentred (d.g1 + 1) (2 ^ d.g1))
  let h := (sig.drop (d.lam / 4 + n * d.l)).map BitVec.toNat
  let c := dsaNtt (dsaBall d ct)
  let zn := z.map dsaNtt
  let w := (List.range d.k).map fun r =>
    let t1 := dsaNtt ((bitUnpackAll 10 (slice pk (32 + 320 * r) 320)).map (· * 8192))
    let f := dsaIntt (polySub dq (dsaDot (dsaRow d rho r) zn) (dsaMul c t1))
    List.zipWith (useHint d.g2) (hintAt d h r) f
  decide (dsaNorm z < 2 ^ d.g1 - d.tau * d.eta) && Config.shake256 (mu ++ dsaW1 d w) (d.lam / 4) = ct

end Sys2Proof.Machine
end

