-- ==== Sys2Proof/Machine/Crypto.lean ====
section
/-!
DEFINITION. Machine/Crypto.lean: the standards' functions as the rules call them, each with every input the rule
names: signatures with their mode and context string (R309, R336), the Merkle roots of R100 and R352, and region
and epoch key digests.
-/
namespace Sys2Proof.Machine
open Sys2Proof

/-- One byte. -/
def byte (n : Nat) : Bytes := [BitVec.ofNat 8 n]

/-- The object identifier of a pre-hash function (R310). -/
def phOid (ph : Nat) : Bytes :=
  [0x06, 0x09, 0x60, 0x86, 0x48, 0x01, 0x65, 0x03, 0x04, 0x02, ([0x01, 0x02, 0x03, 0x08, 0x09, 0x0A, 0x0B, 0x0C] : Bytes).getD (ph - 1) 0]

/-- M′ of modes 0 and 1 (R309, R336): `msg` is the message, or the digest in mode 1. -/
def dsaMessage (mode ph : Nat) (ctx msg : Bytes) : Bytes :=
  byte mode ++ byte ctx.length ++ ctx ++ (if mode = 1 then phOid ph else []) ++ msg

/-- μ (R309): over tr and M′, or the input itself in mode 2. -/
def dsaMu (mode ph : Nat) (pk ctx msg : Bytes) : Bytes :=
  if mode = 2 then msg else Config.shake256 (Config.shake256 pk 64 ++ dsaMessage mode ph ctx msg) 64

/-- Positions strictly rise. -/
def rising : List Nat → Bool
  | a :: b :: l => decide (a < b) && rising (b :: l)
  | _ => true

/-- The hint of a signature decodes (R311): the counts do not fall and stay within ω, positions rise within each
polynomial, unused positions are zero. -/
def hintOk (p : Nat) (sig : Bytes) : Bool :=
  let d := dsaSet p
  let h := (sig.drop (sig.length - (d.om + d.k))).map BitVec.toNat
  let ends := h.drop d.om
  let starts := 0 :: ends
  ((starts.zip ends).all fun x =>
      decide (x.1 ≤ x.2 ∧ x.2 ≤ d.om) && rising ((h.take x.2).drop x.1))
    && ((h.take d.om).drop (ends.getLast?.getD 0)).all fun x => x = 0

/-- The verdict of ML-DSA verification under a public key, for a signature that decodes (R307, R309, R311). -/
def mldsaOk (pset mode ph : Nat) (pk ctx msg sig : Bytes) : Bool := dsaVerify pset pk (dsaMu mode ph pk ctx msg) sig

/-- The verdict of SLH-DSA verification (R335, R336). -/
def slhOk (pset mode ph : Nat) (pk ctx msg sig : Bytes) : Bool := slhVerify pset pk (dsaMessage mode ph ctx msg) sig

/-- Pure-mode ML-DSA-87, as every signed object of the device uses it (R101, R477, R503). -/
def mldsa87Ok (pk : Bytes) (ctx : String) (msg sig : Bytes) : Bool := hintOk 3 sig && mldsaOk 3 0 0 pk (Config.ascii ctx) msg sig

/-- A Weierstrass private scalar from its seed: d = (t mod (n − 1)) + 1 (R137, R384; big-endian as R376 has integers). -/
def weierScalar (n : Nat) (t : Bytes) : Nat := beNat t % (n - 1) + 1

/-- 0x04 ‖ X ‖ Y with coordinates of `l` bytes (R389); empty for the point at infinity, which no private scalar gives. -/
def encodePoint (l : Nat) : Point → Bytes
  | none => []
  | some (x, y) => [0x04] ++ beBytes l x ++ beBytes l y

/-- The point an encoding carries. -/
def decodePoint (l : Nat) (b : Bytes) : Point := some (beNat (slice b 1 l), beNat (slice b (1 + l) l))

/-- r ‖ s with halves of `l` bytes. -/
def encodeSig (l : Nat) (r t : Nat) : Bytes := beBytes l r ++ beBytes l t

/-- ECDSA P-384 over SHA-384 of a message (R477): the key is a point of the curve, and r and s lie in 1 to n − 1. -/
def ecdsa384Ok (pk msg sig : Bytes) : Bool :=
  let x := beNat (slice pk 1 48)
  let y := beNat (slice pk 49 48)
  let r := beNat (sig.take 48)
  let t := beNat (sig.drop 48)
  pk.take 1 = [0x04] && decide (x < p384.p ∧ y < p384.p) && p384.on x y && decide (1 ≤ r ∧ r < p384.n ∧ 1 ≤ t ∧ t < p384.n)
    && p384.verify (some (x, y)) (leftBits p384.n (Config.sha384 msg)) r t

/-! ### Merkle trees (R100) -/

/-- A leaf of a region. -/
def merkleLeaf (regionId i : Nat) (block : Bytes) : Bytes :=
  Config.sha256 ([0] ++ leBytes 4 regionId ++ leBytes 4 i ++ block)

/-- An inner node. -/
def merkleNode (a b : Bytes) : Bytes := Config.sha256 ([1] ++ a ++ b)

/-- One level up: pairs from the left. -/
def merkleUp (node : Bytes → Bytes → Bytes) : List Bytes → List Bytes
  | a :: b :: l => node a b :: merkleUp node l
  | l => l

/-- `h` levels up. -/
def merkleTop (node : Bytes → Bytes → Bytes) : Nat → List Bytes → List Bytes
  | 0, l => l
  | h + 1, l => merkleTop node h (merkleUp node l)

/-- ceil(log2 n). -/
def log2Up (n : Nat) : Nat := if n ≤ 1 then 0 else Nat.log2 (n - 1) + 1

/-- The root over leaves, padded with zero entries to a power of two (R100). -/
def merkleRoot (leaves : List Bytes) : Bytes :=
  let h := log2Up leaves.length
  ((merkleTop merkleNode h (leaves ++ List.replicate (2 ^ h - leaves.length) (zeros 32))).head?).getD []

/-- The leaves of a run of blocks under a REGION_ID. -/
def runLeaves (regionId : Nat) (blocks : List Bytes) : List Bytes :=
  (blocks.zip (List.range blocks.length)).map fun p => merkleLeaf regionId p.2 p.1

/-- The root of a run of blocks. -/
def runRoot (regionId : Nat) (blocks : List Bytes) : Bytes := merkleRoot (runLeaves regionId blocks)

/-! ### Key digests in fuses (R453 to R455) -/

/-- The 48 bytes that `n` words from fuse word `w` hold. -/
def State.fuseBytes (s : State) (w n : Nat) : Bytes := (List.range n).flatMap fun i => leBytes 4 (s.fz (w + i)).toNat

/-- First word of a key slot: maker slots, or owner slots of the current epoch block (R453, R454). -/
def State.keySlotWord (s : State) (owner : Bool) (slot : Nat) : Nat :=
  if owner then 384 + 48 * s.fuses.epoch + 12 * slot else 768 + 12 * slot

/-- Revocation word of a key slot. -/
def State.keyRevWord (s : State) (owner : Bool) (slot : Nat) : Nat :=
  if owner then 384 + 48 * s.fuses.epoch + 36 + slot else 768 + 96 + slot

/-- A key slot names a key: not revoked, and not all blank (R455). -/
def State.keySlotLive (s : State) (owner : Bool) (slot : Nat) : Bool :=
  decide (slot < (if owner then 3 else 8)) && s.fz (s.keyRevWord owner slot) ≠ 0x5AA55AA5#32
    && (List.range 12).any fun i => s.fuses.word (s.keySlotWord owner slot + i) ≠ 0

/-- SHA-384 of a public key fills an unrevoked slot. -/
def State.keyFills (s : State) (owner : Bool) (slot : Nat) (pk : Bytes) : Bool :=
  s.keySlotLive owner slot && Config.sha384 pk = s.fuseBytes (s.keySlotWord owner slot) 12

/-! ### SVN bands (R456) -/

/-- First word and size of the SVN band of a component. -/
def bandWords : Nat → Nat × Nat
  | 1 => (1168, 512) | 2 => (1168 + 512, 256) | _ => (1168 + 768, 256)

/-- The highest programmed index of a band plus one; 0 when blank. -/
def State.svnBand (s : State) (component : Nat) : Nat :=
  let b := bandWords component
  (List.range b.2).foldl (fun n i => if s.fuses.word (b.1 + i) ≠ 0 then i + 1 else n) 0

end Sys2Proof.Machine
end

