-- ==== Sys2Proof/Machine/Opcodes.lean ====
section
/-!
DEFINITION. Machine/Opcodes.lean: the opcodes of groups 0x01 to 0x0D, 0xA0 and 0xC0 (chapters 06 to 16).
-/
namespace Sys2Proof.Machine

/-- The opcodes. -/
inductive Op where
  | mlkemKeygen | mlkemEncaps | mlkemDecaps | mlkemEncapsInternal | mlkemKeygenInternal
  | mldsaKeygen | mldsaSign | mldsaVerify | mldsaKeygenInternal
  | slhKeygen | slhSign | slhVerify | slhKeygenInternal
  | lmsKeygen | lmsSign | lmsVerify | xmssKeygen | xmssSign | xmssVerify | cacheSave | cacheLoad
  | mceKeygen | mceEncaps | mceDecaps | mcePkLoad | hqcKeygen | hqcEncaps | hqcDecaps
  | ecKeygen | ecdsaSign | ecdsaVerify | ecdh | eddsaSign | eddsaVerify | ecValidate | curveLoad
  | rsaKeygen | rsaKeyLoad | rsaPrivate | rsaPublic | modexp | modmul | modinv
  | hash | cshake | kmac | hmac | streamOpen | streamPart | streamFinal
  | gcmEncrypt | gcmDecrypt | xtsEncrypt | xtsDecrypt | kwWrap | kwUnwrap | cmac
  | ctxCreate | ctxQuery | invalidate | sweep | imageSave | imageLoad | scopeSet
  | externalWrap | keyExport | migrateStatement | migrateExport | migrateImport | statefulQuery
  | random | noiseRead | seal
  | dxProgramLoad | dxRun | dxSlotWrite | dxSlotRead
  | identify | sessionOpen | sessionClose | queueCreate | queueDestroy | queueRestart | abort
  | guardCommit | guardHold | guardReverify | guardSvnAdvance
  | sessionAssign | rootImport | rootGenerate | rootSpoil | opstoreConfig | slotGrant
  | counterReestablish | timeSet | eventLogRead | spoilNow
  | fuseProgram | fuseLock | lcTransition | ownerTransfer | debugNonce | debugCert
  | updateBegin | updateBlock | updateVerify | updateActivate | updateConfirm | updateCancel
  deriving DecidableEq, Repr

/-- The 16-bit code of an opcode. -/
def opCode : Op → Nat
  | .mlkemKeygen => 0x0101 | .mlkemEncaps => 0x0102 | .mlkemDecaps => 0x0103 | .mlkemEncapsInternal => 0x0104 | .mlkemKeygenInternal => 0x0105
  | .mldsaKeygen => 0x0201 | .mldsaSign => 0x0202 | .mldsaVerify => 0x0203 | .mldsaKeygenInternal => 0x0204
  | .slhKeygen => 0x0301 | .slhSign => 0x0302 | .slhVerify => 0x0303 | .slhKeygenInternal => 0x0304
  | .lmsKeygen => 0x0401 | .lmsSign => 0x0402 | .lmsVerify => 0x0403 | .xmssKeygen => 0x0404 | .xmssSign => 0x0405 | .xmssVerify => 0x0406 | .cacheSave => 0x0407 | .cacheLoad => 0x0408
  | .mceKeygen => 0x0501 | .mceEncaps => 0x0502 | .mceDecaps => 0x0503 | .mcePkLoad => 0x0504 | .hqcKeygen => 0x0511 | .hqcEncaps => 0x0512 | .hqcDecaps => 0x0513
  | .ecKeygen => 0x0601 | .ecdsaSign => 0x0602 | .ecdsaVerify => 0x0603 | .ecdh => 0x0604 | .eddsaSign => 0x0605 | .eddsaVerify => 0x0606 | .ecValidate => 0x0607 | .curveLoad => 0x0610
  | .rsaKeygen => 0x0701 | .rsaKeyLoad => 0x0702 | .rsaPrivate => 0x0703 | .rsaPublic => 0x0704 | .modexp => 0x0705 | .modmul => 0x0706 | .modinv => 0x0707
  | .hash => 0x0801 | .cshake => 0x0802 | .kmac => 0x0803 | .hmac => 0x0804 | .streamOpen => 0x0805 | .streamPart => 0x0806 | .streamFinal => 0x0807
  | .gcmEncrypt => 0x0901 | .gcmDecrypt => 0x0902 | .xtsEncrypt => 0x0903 | .xtsDecrypt => 0x0904 | .kwWrap => 0x0905 | .kwUnwrap => 0x0906 | .cmac => 0x0907
  | .ctxCreate => 0x0A01 | .ctxQuery => 0x0A02 | .invalidate => 0x0A03 | .sweep => 0x0A04 | .imageSave => 0x0A05 | .imageLoad => 0x0A06 | .scopeSet => 0x0A07
  | .externalWrap => 0x0A08 | .keyExport => 0x0A09 | .migrateStatement => 0x0A0A | .migrateExport => 0x0A0B | .migrateImport => 0x0A0C | .statefulQuery => 0x0A0D
  | .random => 0x0B01 | .noiseRead => 0x0B02 | .seal => 0x0C01
  | .dxProgramLoad => 0x0D01 | .dxRun => 0x0D02 | .dxSlotWrite => 0x0D03 | .dxSlotRead => 0x0D04
  | .identify => 0xA001 | .sessionOpen => 0xA002 | .sessionClose => 0xA003 | .queueCreate => 0xA004 | .queueDestroy => 0xA005 | .queueRestart => 0xA006 | .abort => 0xA007
  | .guardCommit => 0xC001 | .guardHold => 0xC002 | .guardReverify => 0xC003 | .guardSvnAdvance => 0xC004
  | .sessionAssign => 0xC010 | .rootImport => 0xC011 | .rootGenerate => 0xC012 | .rootSpoil => 0xC013 | .opstoreConfig => 0xC014 | .slotGrant => 0xC015
  | .counterReestablish => 0xC020 | .timeSet => 0xC021 | .eventLogRead => 0xC022 | .spoilNow => 0xC023
  | .fuseProgram => 0xC030 | .fuseLock => 0xC031 | .lcTransition => 0xC032 | .ownerTransfer => 0xC033 | .debugNonce => 0xC034 | .debugCert => 0xC035
  | .updateBegin => 0xC040 | .updateBlock => 0xC041 | .updateVerify => 0xC042 | .updateActivate => 0xC043 | .updateConfirm => 0xC044 | .updateCancel => 0xC045

/-- Every opcode. -/
def allOps : List Op :=
  [.mlkemKeygen, .mlkemEncaps, .mlkemDecaps, .mlkemEncapsInternal, .mlkemKeygenInternal,
   .mldsaKeygen, .mldsaSign, .mldsaVerify, .mldsaKeygenInternal,
   .slhKeygen, .slhSign, .slhVerify, .slhKeygenInternal,
   .lmsKeygen, .lmsSign, .lmsVerify, .xmssKeygen, .xmssSign, .xmssVerify, .cacheSave, .cacheLoad,
   .mceKeygen, .mceEncaps, .mceDecaps, .mcePkLoad, .hqcKeygen, .hqcEncaps, .hqcDecaps,
   .ecKeygen, .ecdsaSign, .ecdsaVerify, .ecdh, .eddsaSign, .eddsaVerify, .ecValidate, .curveLoad,
   .rsaKeygen, .rsaKeyLoad, .rsaPrivate, .rsaPublic, .modexp, .modmul, .modinv,
   .hash, .cshake, .kmac, .hmac, .streamOpen, .streamPart, .streamFinal,
   .gcmEncrypt, .gcmDecrypt, .xtsEncrypt, .xtsDecrypt, .kwWrap, .kwUnwrap, .cmac,
   .ctxCreate, .ctxQuery, .invalidate, .sweep, .imageSave, .imageLoad, .scopeSet,
   .externalWrap, .keyExport, .migrateStatement, .migrateExport, .migrateImport, .statefulQuery,
   .random, .noiseRead, .seal,
   .dxProgramLoad, .dxRun, .dxSlotWrite, .dxSlotRead,
   .identify, .sessionOpen, .sessionClose, .queueCreate, .queueDestroy, .queueRestart, .abort,
   .guardCommit, .guardHold, .guardReverify, .guardSvnAdvance,
   .sessionAssign, .rootImport, .rootGenerate, .rootSpoil, .opstoreConfig, .slotGrant,
   .counterReestablish, .timeSet, .eventLogRead, .spoilNow,
   .fuseProgram, .fuseLock, .lcTransition, .ownerTransfer, .debugNonce, .debugCert,
   .updateBegin, .updateBlock, .updateVerify, .updateActivate, .updateConfirm, .updateCancel]

/-- The opcode a code names; none where neither the catalogue nor an operation chapter lists it (R249). -/
def opOf (c : Nat) : Option Op := allOps.find? fun o => opCode o = c

end Sys2Proof.Machine
end

