-- ==== Sys2Proof/Machine/Operands.lean ====
section
/-!
DEFINITION. Machine/Operands.lean: the operand forms of a submission entry: its 64 bytes (R212), PARAMS fields,
the codes of bad fields (R221), direct buffers and fragment tables (R214, R216 to R218), the reconciliation of
lengths (R220), and the state word of STATE_REFUSED (R223).
-/
namespace Sys2Proof.Machine
open Sys2Proof

/-- The 64 bytes of an entry (R212). -/
def Entry.ofBytes (b : Bytes) : Entry :=
  { opcode := BitVec.ofNat 16 (leNat (slice b 0 2)), flags := BitVec.ofNat 8 (leNat (slice b 2 1)),
    phase := BitVec.ofNat 8 (leNat (slice b 3 1)), cmdId := BitVec.ofNat 16 (leNat (slice b 4 2)),
    rsvd := BitVec.ofNat 16 (leNat (slice b 6 2)), ctx := BitVec.ofNat 32 (leNat (slice b 8 4)),
    inLen := BitVec.ofNat 32 (leNat (slice b 12 4)), inAddr := BitVec.ofNat 64 (leNat (slice b 16 8)),
    outAddr := BitVec.ofNat 64 (leNat (slice b 24 8)), outLen := BitVec.ofNat 32 (leNat (slice b 32 4)),
    slotA := BitVec.ofNat 16 (leNat (slice b 36 2)), slotB := BitVec.ofNat 16 (leNat (slice b 38 2)),
    params := BitVec.ofNat 192 (leNat (slice b 40 24)) }

/-- The entry back as bytes (R212). -/
def Entry.toBytes (e : Entry) : Bytes :=
  leBytes 2 e.opcode.toNat ++ leBytes 1 e.flags.toNat ++ leBytes 1 e.phase.toNat ++ leBytes 2 e.cmdId.toNat
    ++ leBytes 2 e.rsvd.toNat ++ leBytes 4 e.ctx.toNat ++ leBytes 4 e.inLen.toNat ++ leBytes 8 e.inAddr.toNat
    ++ leBytes 8 e.outAddr.toNat ++ leBytes 4 e.outLen.toNat ++ leBytes 2 e.slotA.toNat
    ++ leBytes 2 e.slotB.toNat ++ leBytes 24 e.params.toNat

/-- The `n`-byte little-endian field of PARAMS at byte offset `off`. -/
def Entry.p (e : Entry) (off n : Nat) : Nat := e.params.toNat / 2 ^ (8 * off) % 2 ^ (8 * n)

/-- FLAGS bit `i` is set. -/
def Entry.flag (e : Entry) (i : Nat) : Bool := e.flags.getLsbD i

/-- Group of an entry: the high byte of its opcode (R212). -/
def Entry.group (e : Entry) : Nat := e.opcode.toNat / 256

/-- IN_FT and OUT_FT (R212). -/
def Entry.inFt (e : Entry) : Bool := e.flag 0
def Entry.outFt (e : Entry) : Bool := e.flag 1

/-- No operand slot. -/
def noSlot : BitVec 16 := 0xFFFF

/-! ### Bad fields (R221) -/

def fld.inAddr : Nat := 0xFFFF0000
def fld.outAddr : Nat := 0xFFFF0001
def fld.inLen : Nat := 0xFFFF0002
def fld.outLen : Nat := 0xFFFF0003
def fld.flags : Nat := 0xFFFF0004
def fld.ctx : Nat := 0xFFFF0005
def fld.slotA : Nat := 0xFFFF0006
def fld.slotB : Nat := 0xFFFF0007
def fld.phase : Nat := 0xFFFF0008

/-- Where a field stands in the entry: fields are checked in ascending offset order, PARAMS last (R221). -/
def fieldPos (code : Nat) : Nat :=
  if code = fld.flags then 2 else if code = fld.phase then 3 else if code = fld.ctx then 8
  else if code = fld.inLen then 12 else if code = fld.inAddr then 16 else if code = fld.outAddr then 24
  else if code = fld.outLen then 32 else if code = fld.slotA then 36 else if code = fld.slotB then 38
  else 40 + code

/-- A test of a field: the code BAD_FIELD reports, and whether the field is bad. -/
abbrev FieldTest := Nat × Bool

/-- The bad field that stands first in the entry. -/
def firstBad : List FieldTest → Option Nat
  | [] => none
  | (c, bad) :: l =>
    match bad, firstBad l with
    | false, r => r
    | true, none => some c
    | true, some d => if fieldPos d < fieldPos c then some d else some c

/-- The bytes of PARAMS from `lo` up to `hi` must be zero; the first that is not is the one at fault (R13). -/
def rsvdZero (e : Entry) (lo hi : Nat) : List FieldTest :=
  ((List.range hi).drop lo).map fun i => (i, decide (e.p i 1 ≠ 0))

/-- A field lies outside lo to hi. -/
def outOfRange (e : Entry) (off n lo hi : Nat) : FieldTest := (off, decide (e.p off n < lo ∨ hi < e.p off n))

/-! ### Buffers and fragment tables -/

/-- What walking the tables of a direction gives. -/
inductive FragResult where
  | ok (ranges : List (BitVec 64 × Nat))
  | bad (reason index : Nat)
  | unread (addr : BitVec 64)
  deriving DecidableEq, Repr

/-- The reason an entry breaks, tested in the order 5, 4, 3, 6, 2 of R218. `inTab` counts the entries of this
table before this one, `nData`, `nChain` and `total` what came before it in the direction. -/
def fragReason (f : FragEntry) (inTab nData nChain total : Nat) : Option Nat :=
  let chain := f.flags.getLsbD 0
  let fin := f.flags.getLsbD 1
  if f.flags.toNat ≥ 4 ∨ (chain ∧ fin) then some 5
  else if (chain ∧ f.len ≠ 0) ∨ (¬ chain ∧ f.len = 0) then some 4
  else if (chain ∧ nChain ≥ 65536) ∨ (¬ chain ∧ nData ≥ 65536) then some 3
  else if ¬ chain ∧ total + f.len.toNat ≥ 2 ^ 32 then some 6
  else if ¬ chain ∧ ¬ fin ∧ inTab + 1 ≥ 4096 then some 2
  else none

/-- Walk the entries as the device reads them, one list over all chained tables (R217, R218). `addr` is the
address of the next entry; a bad table address is that of the CHAIN entry that gave it, which is the one before (index 0
where the entry's own address field gave it; log row 92). A list that ends before END is a read that failed (log row 10). -/
def walkFrags : List FragEntry → BitVec 64 → (inTab nData nChain total idx : Nat) → List (BitVec 64 × Nat) → FragResult
  | fs, addr, inTab, nData, nChain, total, idx, acc =>
    if inTab = 0 ∧ addr.toNat % 16 ≠ 0 then .bad 1 (idx - 1)
    else match fs with
      | [] => .unread addr
      | f :: rest =>
        match fragReason f inTab nData nChain total with
        | some r => .bad r idx
        | none =>
          if f.flags.getLsbD 0 then walkFrags rest f.addr 0 nData (nChain + 1) total (idx + 1) acc
          else if f.flags.getLsbD 1 then .ok (acc ++ [(f.addr, f.len.toNat)])
          else walkFrags rest (addr + 16) (inTab + 1) (nData + 1) nChain (total + f.len.toNat) (idx + 1)
                 (acc ++ [(f.addr, f.len.toNat)])

/-- The ranges of a direction: a direct buffer, or the fragments of its tables (R214, R216). -/
def ranges (ft : Bool) (addr : BitVec 64) (len : Nat) (fs : List FragEntry) : FragResult :=
  if ft then walkFrags fs addr 0 0 0 0 0 []
  else if len = 0 then .ok [] else .ok [(addr, len)]

/-- The sum of a direction's ranges. -/
def rangeSum (l : List (BitVec 64 × Nat)) : Nat := (l.map Prod.snd).sum

/-! ### Lengths (R220) -/

/-- What lengths an opcode accepts: from `min` to `max`. -/
structure LenRule where
  min : Nat
  max : Option Nat
  deriving DecidableEq, Repr

/-- Exactly `n` bytes. -/
def LenRule.exactly (n : Nat) : LenRule := ⟨n, some n⟩

/-- At least `n` bytes. -/
def LenRule.atLeast (n : Nat) : LenRule := ⟨n, none⟩

/-- Direction bit and kind bit of a LENGTH_MISMATCH result, with the length (R220). -/
def lenResult (output needed : Bool) (n : Nat) : BitVec 64 :=
  (if output then 0x8000000000000000 else 0) ||| (if needed then 0x4000000000000000 else 0)
    ||| BitVec.ofNat 64 (n % 2 ^ 32)

/-- The length the opcode needs instead, when it does not accept `n`. -/
def LenRule.needs (r : LenRule) (n : Nat) : Option Nat :=
  if n < r.min then some r.min
  else match r.max with
    | some m => if m < n then some m else none
    | none => none

/-- R220 in the order input sum, input length, output sum, output length. -/
def lengthFault (e : Entry) (inSum outSum : Nat) (inRule : LenRule) (outMin : Nat) : Option (BitVec 64) :=
  if inSum ≠ e.inLen.toNat then some (lenResult false false inSum)
  else match inRule.needs e.inLen.toNat with
    | some n => some (lenResult false true n)
    | none =>
      if outSum ≠ e.outLen.toNat then some (lenResult true false outSum)
      else if e.outLen.toNat < outMin then some (lenResult true true outMin)
      else none

/-! ### STATE_REFUSED (R223) -/

/-- RESULT of STATE_REFUSED for a function and the state byte of the object named. -/
def State.refusedWord (s : State) (fn obj : Nat) : BitVec 64 :=
  BitVec.ofNat 64 (
    ((if s.power.nvOk then 1 else 0) + (if s.boot.countersLost then 2 else 0) + (if s.boot.timeValid then 4 else 0)
      + (if (s.session fn).isOpen then 8 else 0)) * 2 ^ 24
    + s.boot.mode.num * 2 ^ 16 + s.fuses.lc.num * 2 ^ 8 + obj % 256)

end Sys2Proof.Machine
end

