-- ==== Sys2Proof/Machine/KeyOps.lean ====
section
/-!
DEFINITION. Machine/KeyOps.lean: the key tree: root aliases (R252, R253), the chain check (R264), scopes (R269),
the type and policy checks (R258, R259), derivation (R262), the derived-key cache (R265), internal keys (R254),
in-flight counts (R227), and the operand store: geometry, grants, holds and spoil (R222, R378 to R382).
-/
namespace Sys2Proof.Machine
open Sys2Proof

/-! ### Handles and aliases -/

def handleIndex (h : BitVec 32) : Nat := h.toNat % 2 ^ 21
def handleTag (h : BitVec 32) : Nat := h.toNat / 2 ^ 21

/-- The handle of an index at a generation (R213). -/
def mkHandle (index gen : Nat) : BitVec 32 := BitVec.ofNat 32 (index + 2 ^ 21 * (gen % 2048))

/-- Alias generation (R252). -/
def State.aliasGen (s : State) (i : Nat) : Nat := if i = 3 then s.fuses.epoch else 0

/-- The copy word of FZ_ROOT_DISABLE that disables the root of an alias (R472). -/
def State.disableWord (s : State) (i : Nat) : Nat :=
  if i = 1 then 0 else if i = 2 then 1 else if i = 3 then 2 + s.fuses.epoch else 10

/-- An alias is usable (R252, R472); alias 3 is not while a root disable is pending (R488 step 6, R490). -/
def State.aliasUsable (s : State) (i : Nat) : Bool :=
  (match i, s.fuses.lc with
    | 1, .testUnlocked => true
    | 1, .testLocked => true
    | 2, .mfg => true
    | 3, .mission => !s.keeper.debugSpoiled && s.flt.rootPending ≠ some s.fuses.epoch
    | 4, .rma => true
    | _, _ => false) && !s.rootDisabled (s.disableWord i)

/-- The 32 bytes of a fuse root that begins at word `w` (R453). -/
def State.rootAt (s : State) (w : Nat) : Bytes :=
  (List.range 8).flatMap fun i => leBytes 4 (s.fz (w + i)).toNat

/-- The Bedrock root of an alias (R252). -/
def State.aliasRoot (s : State) (i : Nat) : Bytes :=
  s.rootAt (if i = 1 then 208 else if i = 2 then 224 else if i = 3 then 240 + 8 * s.fuses.epoch else 320)

/-- The alias of the image root of the life-cycle state (R254). -/
def State.imageAlias (s : State) : Nat :=
  match s.fuses.lc with
  | .mfg => 2 | .mission => 3 | .rma => 4 | _ => 1

/-- A key derived straight from a root (R254); `owner` when the root is ROOT_OWNER. -/
def State.internalKey (s : State) (al : Nat) (name : String) (n : Nat) : Bytes :=
  Config.kmac256 (s.aliasRoot al) (Config.ascii name ++ leBytes 4 (if al = 3 then s.fuses.epoch else 0)) n
    (Config.ascii "PETHAL-INTERNAL")

/-- "IMG" and "PASS" can be derived: alias 3 is usable, in MISSION (R254), and no debug certificate has been accepted since
the last start-up (R480). -/
def State.imageRootOk (s : State) : Bool := !s.keeper.debugSpoiled && (s.fuses.lc ≠ .mission || s.aliasUsable 3)

def State.imgKey (s : State) : Bytes := s.internalKey s.imageAlias "IMG" 32
def State.passKey (s : State) : Bytes := s.internalKey s.imageAlias "PASS" 32
def State.idkSeed (s : State) : Bytes := s.internalKey 2 "IDK" 32
def State.migkSeed (s : State) : Bytes := s.internalKey 2 "MIGK" 64
def State.atk (s : State) : Bytes := s.internalKey 2 "ATK" 56
def State.atko (s : State) : Bytes := s.internalKey 3 "ATKO" 56

/-! ### Records -/

def Ctx.isLive (c : Ctx) : Bool := c.state = .live

/-- POLICY.PARAM (R259). -/
def Ctx.param (c : Ctx) : Nat := c.policy.toNat / 2 ^ 18

/-- A permission bit of POLICY. -/
def Ctx.allows (c : Ctx) (bit : Nat) : Bool := c.policy.getLsbD bit

/-- The imported-key entry of a carried root or imported secret (R255). -/
def Ctx.entry (c : Ctx) : Nat := c.label.toNat % 65536

/-- The 128 bits of a record (R257). -/
def Ctx.bits (c : Ctx) : Nat :=
  c.parent * 2 ^ 107 + c.gen * 2 ^ 95 + c.pgen * 2 ^ 83 + c.type * 2 ^ 77 + c.policy.toNat * 2 ^ 53
    + c.label.toNat * 2 ^ 5 + c.state.num

/-- A record's state from its number; values 4 to 31 do not occur and read as RETIRED (R260). -/
def ctxStateOf : Nat → CtxState
  | 0 => .free | 1 => .live | 2 => .dead | 3 => .exhausted | _ => .retired

/-- The record that 128 bits encode (R257). -/
def Ctx.ofBits (n : Nat) : Ctx :=
  { parent := n / 2 ^ 107 % 2 ^ 21, gen := n / 2 ^ 95 % 4096, pgen := n / 2 ^ 83 % 4096, type := n / 2 ^ 77 % 64,
    policy := BitVec.ofNat 24 (n / 2 ^ 53), label := BitVec.ofNat 48 (n / 2 ^ 5), state := ctxStateOf (n % 32) }

/-! ### The chain check (R264) -/

/-- Follow parents from record `c`; `acc` is the chain so far, the context first. -/
def State.climb (s : State) : Nat → Ctx → List Nat → Status × List Nat
  | 0, _, acc => (st.keyOrphaned, acc)
  | fuel + 1, c, acc =>
    if c.parent = 0 then (st.ok, acc)
    else if c.parent ≤ 4 then
      if !s.aliasUsable c.parent then (st.rootDisabled, acc)
      else if c.pgen ≠ s.aliasGen c.parent then (st.keyOrphaned, acc)
      else (st.ok, acc ++ [c.parent])
    else
      let q := s.keys.record c.parent
      if !q.isLive || q.gen ≠ c.pgen then (st.keyOrphaned, acc)
      else s.climb fuel q (acc ++ [c.parent])

/-- The generation an index holds now. -/
def State.genOf (s : State) (i : Nat) : Nat := if i ≤ 15 then s.aliasGen i else (s.keys.record i).gen

/-- The scope test of a VF (R269). -/
def State.inScope (s : State) (chain : List Nat) (fn : Nat) : Bool :=
  match s.keys.scopes.lookup fn with
  | none => false
  | some (i, g) => chain.contains i && s.genOf i = g

/-- chain_check(handle, fn) of R264, with the chain, the context first. A depth above 8 cannot be made (R263). -/
def State.chainCheck (s : State) (h : BitVec 32) (fn : Nat) : Status × List Nat :=
  let i := handleIndex h
  let r : Status × List Nat :=
    if i = 0 ∨ i ≥ s.ctxCount ∨ (5 ≤ i ∧ i ≤ 15) then (st.contextInvalid, [])
    else if i ≤ 4 then
      if !s.aliasUsable i then (st.rootDisabled, [])
      else if handleTag h ≠ s.aliasGen i then (st.contextInvalid, [])
      else (st.ok, [i])
    else
      let c := s.keys.record i
      if !c.isLive || c.gen % 2048 ≠ handleTag h then (st.contextInvalid, [])
      else s.climb 10 c [i]
  if r.1 = st.ok ∧ 1 ≤ fn ∧ fn ≤ 64 ∧ s.inScope r.2 fn = false then (st.keyPolicy, r.2) else r

/-- The chain check passes for a record at an index, whoever asks (R261). -/
def State.resolves (s : State) (i : Nat) : Bool :=
  let c := s.keys.record i
  c.isLive && (s.climb 10 c [i]).1 = st.ok

/-- What an opcode asks of a context: the TYPEs it admits (none: any), POLICY.PARAM, policy bits that must all be
1, and bits of which one must be. -/
structure CtxNeed where
  types : List Nat
  param : Option Nat
  bits  : List Nat
  oneOf : List Nat
  deriving DecidableEq, Repr

/-- TYPE and PARAM, then POLICY (R253, R258, R259). -/
def State.ctxAdmits (s : State) (n : CtxNeed) (i : Nat) : Status :=
  if i ≤ 4 then
    if n.types ≠ [] then st.keyType
    else if n.bits.all (· = 14) && n.oneOf = [] then st.ok else st.keyPolicy
  else
    let c := s.keys.record i
    if n.types ≠ [] ∧ n.types.contains c.type = false then st.keyType
    else if n.param ≠ none ∧ n.param ≠ some c.param then st.keyType
    else if n.bits.all c.allows && (n.oneOf = [] || n.oneOf.any c.allows) then st.ok
    else st.keyPolicy

/-- Resolution of a handle (step 9 of R219). -/
def State.resolve (s : State) (h : BitVec 32) (fn : Nat) (n : CtxNeed) : Status × List Nat :=
  match s.chainCheck h fn with
  | (c, chain) => if c = st.ok then (s.ctxAdmits n (handleIndex h), chain) else (c, chain)

/-! ### Derivation (R262) -/

/-- The log record of a context's index and GEN (R279, R280). -/
def State.slogOf (s : State) (index gen : Nat) : Option SlogRec :=
  s.keeper.slog.find? fun r => r.index = index && r.gen = gen

def isStateful (type : Nat) : Bool := type = 0x0B || type = 0x0C

/-- SEPOCH of a derivation (R262). -/
def State.sepochOf (s : State) (i : Nat) : Nat :=
  let c := s.keys.record i
  if isStateful c.type then (match s.slogOf i c.gen with | some r => r.sepoch | none => s.keeper.sepoch) else 0

/-- X of R262; `path` holds the labels of depths 1 to D. -/
def State.deriveX (s : State) (i depth : Nat) (path : Bytes) : Bytes :=
  let c := s.keys.record i
  leBytes 1 1 ++ leBytes 1 depth ++ leBytes 1 c.type ++ [0] ++ leBytes 4 c.policy.toNat ++ leBytes 2 c.gen
    ++ leBytes 2 c.pgen ++ leBytes 2 (s.sepochOf i) ++ [0, 0] ++ path ++ zeros (48 - path.length)

/-- Derive down from a parent's key through the contexts of a path, the nearest to the root first. -/
def State.deriveDown (s : State) : List Nat → Nat → Bytes → Bytes → Bytes
  | [], _, key, _ => key
  | i :: rest, depth, key, path =>
    let path' := path ++ leBytes 6 (s.keys.record i).label.toNat
    s.deriveDown rest (depth + 1)
      (Config.kmac256 key (s.deriveX i depth path') 32 (Config.ascii "PETHAL-KT1")) path'

/-- The key of the root a chain ends in: a Bedrock root, or the imported-key entry. -/
def State.rootKey (s : State) (i : Nat) : Bytes :=
  if i ≤ 4 then s.aliasRoot i else s.keys.imported.get [] (s.keys.record i).entry

/-- The key K of a resolved chain, the context first (R262). -/
def State.keyOf (s : State) (chain : List Nat) : Bytes :=
  match chain.reverse with
  | [] => []
  | r :: path => s.deriveDown path 1 (s.rootKey r) []

/-- Depth of a context on its chain. -/
def chainDepth (chain : List Nat) : Nat := chain.length - 1

/-! ### Derived-key cache and in-flight counts -/

/-- Cache tag of a context (R265). -/
def State.cacheTag (s : State) (i : Nat) : Nat × Nat × Nat := (i, (s.keys.record i).gen, s.sepochOf i)

/-- The contexts of a chain whose keys are touched: up to and including the nearest one the cache holds. -/
def State.touched (s : State) : List Nat → List Nat
  | [] => []
  | i :: rest =>
    if i ≤ 15 ∨ (s.keys.record i).parent = 0 then []
    else if s.keys.cache.contains (s.cacheTag i) then [i] else i :: s.touched rest

/-- Deriving a chain's key would read an imported-key entry lost to an uncorrectable word (R493): no key of the chain is
cached, and its root is that entry. -/
def State.lostRoot (s : State) (chain : List Nat) : Bool :=
  match chain.getLast? with
  | some r => decide (15 < r) && s.keys.badEntry.contains (s.keys.record r).entry
      && (s.touched chain).all fun i => !s.keys.cache.contains (s.cacheTag i)
  | none => false

/-- Use of a chain's key: its tags become the most recently used, the least recently used fall out (R265). -/
def State.touchCache (s : State) (chain : List Nat) : State :=
  let tags := (s.touched chain).map s.cacheTag
  s.mapKeys fun k => { k with cache := (tags ++ k.cache.filter fun t => !tags.contains t).take 65536 }

/-- Drop a context's keys from the cache (R270, R273). -/
def Keys.uncache (k : Keys) (i : Nat) : Keys := { k with cache := k.cache.filter fun t => t.1 ≠ i }

/-- In-flight counts of a chain go up by one (R227). -/
def Keys.raise (k : Keys) (chain : List Nat) : Keys :=
  { k with inflight := chain.foldl (fun m i => m.set 0 i (m.get 0 i + 1)) k.inflight }

/-- In-flight counts of a chain go down by one. -/
def Keys.lower (k : Keys) (chain : List Nat) : Keys :=
  { k with inflight := chain.foldl (fun m i => m.set 0 i (m.get 0 i - 1)) k.inflight }

/-! ### Operand store -/

/-- The band of a slot, with the number of slots before it (R378). -/
def bandOf : List Band → Nat → Option Band
  | [], _ => none
  | b :: bs, n => if n < b.count then some b else bandOf bs (n - b.count)

def OpStore.count (o : OpStore) : Nat := (o.bands.map Band.count).sum

/-- Slot size in bytes, where the slot exists. -/
def OpStore.size (o : OpStore) (n : Nat) : Option Nat := (bandOf o.bands n).map fun b => 2 ^ b.sizeLog

def OpStore.isHigh (o : OpStore) (n : Nat) : Bool := ((bandOf o.bands n).map Band.high).getD false

/-- A slot exists and belongs to a function (R380). -/
def State.ownsSlot (s : State) (fn n : Nat) : Bool :=
  (bandOf s.store.bands n).isSome && (s.store.slot n).owner = fn

/-- Slots granted to a function (R246). -/
def State.slotsOwned (s : State) (fn : Nat) : Nat :=
  ((List.range s.store.count).filter fun n => (s.store.slot n).owner = fn).length

/-- The holds in force on a slot (R222). -/
def State.slotHolds (s : State) (n : Nat) : List Hold := s.jobs.flatMap fun j => j.holds.filter fun h => h.slot = n

/-- Any hold on any slot. -/
def State.anyHold (s : State) : Bool := s.jobs.any fun j => !j.holds.isEmpty

/-- A hold on a HIGH slot. -/
def State.highHeld (s : State) : Bool := s.jobs.any fun j => j.holds.any fun h => s.store.isHigh h.slot

/-- A hold can be granted (R222, R381). -/
def State.grantable (s : State) (h : Hold) : Bool :=
  !(s.store.isHigh h.slot && (s.store.lent || s.store.taking ≠ .nobody))
    && (if h.excl then (s.slotHolds h.slot).isEmpty else (s.slotHolds h.slot).all fun x => !x.excl)

/-- Spoil a slot: its tag is EMPTY and its content gone; the grant stays (R382). -/
def OpStore.spoil (o : OpStore) (n : Nat) : OpStore := o.setSlot n { Slot.blank with owner := (o.slot n).owner }

/-- Spoil several slots. -/
def OpStore.spoilAll (o : OpStore) (l : List Nat) : OpStore := l.foldl OpStore.spoil o

/-- Spoil every slot; `keep` says whether grants stay. -/
def OpStore.spoilEvery (o : OpStore) : OpStore := o.spoilAll (o.slots.map Prod.fst)

/-- Write a slot: content and tag; the grant stays. -/
def OpStore.write (o : OpStore) (n : Nat) (tag : SlotTag) (content : Bytes) : OpStore :=
  o.setSlot n { owner := (o.slot n).owner, tag, content }

end Sys2Proof.Machine
end

