-- ==== Sys2Proof/Machine/JobSpec.lean ====
section
/-!
DEFINITION. Machine/JobSpec.lean: what each opcode of the job groups 0x01 to 0x0D asks at intake: parameter sets
and sizes (R297, R333, R340, R358, R383, R394), flag bits, slots and their access (R222), the ranges of its
PARAMS, lengths, contexts, and whether it waits for entropy.
-/
namespace Sys2Proof.Machine
open Sys2Proof

/-! ### Sizes -/

/-- Element `n - 1` of a list of per-set numbers; 0 outside. -/
def pick (l : List Nat) (n : Nat) : Nat := if n = 0 then 0 else l.getD (n - 1) 0

def mlkemEkLen : Nat → Nat := pick [800, 1184, 1568]
def mlkemDkLen : Nat → Nat := pick [1632, 2400, 3168]
def mlkemCtLen : Nat → Nat := pick [768, 1088, 1568]
def mldsaPkLen : Nat → Nat := pick [1312, 1952, 2592]
def mldsaSkLen : Nat → Nat := pick [2560, 4032, 4896]
def mldsaSigLen : Nat → Nat := pick [2420, 3309, 4627]
def slhN : Nat → Nat := pick [16, 16, 16, 16, 24, 24, 24, 24, 32, 32, 32, 32]
def slhSigLen : Nat → Nat :=
  pick [7856, 7856, 17088, 17088, 16224, 16224, 35664, 35664, 29792, 29792, 49856, 49856]
def mcePkLen : Nat → Nat :=
  pick [261120, 261120, 524160, 524160, 1044992, 1044992, 1047319, 1047319, 1357824, 1357824]
def mceSkLen : Nat → Nat := pick [6492, 6492, 13608, 13608, 13932, 13932, 13948, 13948, 14120, 14120]
def mceCtLen : Nat → Nat := pick [96, 96, 156, 156, 208, 208, 194, 194, 208, 208]
def hqcPkLen : Nat → Nat := pick [2241, 4514, 7237]
def hqcCtLen : Nat → Nat := pick [4433, 8978, 14421]

/-- A key blob of a secret of `n` bytes (R277). -/
def blobLen (n : Nat) : Nat := 32 + 8 * ((n + 7) / 8) + 8

/-- Height of an LMS type (R340). -/
def lmsH (t : Nat) : Nat := 5 + 5 * ((t - 5) % 5)
/-- Family number of an LMS type: SHA-256, SHA-256/192, SHAKE256, SHAKE256/192. -/
def lmsFamily (t : Nat) : Nat := (t - 5) / 5
def lmsValid (t : Nat) : Bool := 0x05 ≤ t && t ≤ 0x18
/-- The LM-OTS type belongs to the LMS type's family. -/
def otsValid (t ots : Nat) : Bool := 4 * lmsFamily t + 1 ≤ ots && ots ≤ 4 * lmsFamily t + 4
def lmsN (t : Nat) : Nat := if lmsFamily t % 2 = 0 then 32 else 24
/-- p of an LM-OTS type. -/
def otsP (ots : Nat) : Nat :=
  pick (if ((ots - 1) / 4) % 2 = 0 then [265, 133, 67, 34] else [200, 101, 51, 26]) ((ots - 1) % 4 + 1)
def lmsPkLen (t : Nat) : Nat := 24 + lmsN t
def lmsSigLen (t ots : Nat) : Nat := 12 + lmsN t * (otsP ots + 1) + lmsH t * lmsN t
def xmssValid (o : Nat) : Bool := (1 ≤ o && o ≤ 3) || (0x0D ≤ o && o ≤ 0x15)
/-- Place of an OID in its group of three heights. -/
def xmssPlace (o : Nat) : Nat := if o ≤ 3 then o else (o - 0x0D) % 3 + 1
def xmssH (o : Nat) : Nat := pick [10, 16, 20] (xmssPlace o)
def xmssN (o : Nat) : Nat := if o ≤ 3 || (0x10 ≤ o && o ≤ 0x12) then 32 else 24
def xmssLen (o : Nat) : Nat := if xmssN o = 32 then 67 else 51
def xmssPkLen (o : Nat) : Nat := 4 + 2 * xmssN o
def xmssSigLen (o : Nat) : Nat := 4 + xmssN o + (xmssLen o + xmssH o) * xmssN o
/-- Tree height and node size of a stateful type; XMSS when the flag is set. -/
def treeH (xmss : Bool) (t : Nat) : Nat := if xmss then xmssH t else lmsH t
def treeN (xmss : Bool) (t : Nat) : Nat := if xmss then xmssN t else lmsN t
/-- Minimum tree-cache slot (R346). -/
def treeSlot (h : Nat) : Nat :=
  if h ≤ 5 then 4096 else if h ≤ 10 then 8192 else if h ≤ 15 then 32768 else if h ≤ 16 then 65536
  else if h ≤ 20 then 262144 else 1048576
/-- Bytes of a tree cache (R345). -/
def treeCacheLen (h n : Nat) : Nat :=
  64 + n * (2 ^ (h - h / 2 + 1) - 1) + 2 * (n * (2 ^ (h / 2 + 1) - 1))

/-! ### Curves (R383, R385, R389) -/

/-- The installed set of a custom curve number; none when empty or not custom. -/
def State.curveSet (s : State) (c : Nat) : Option Bytes :=
  if 32 ≤ c ∧ c < 64 then (let b := s.tables.curves.get [] (c - 32); if b = [] then none else some b) else none

/-- Field length L. -/
def State.curveL (s : State) (c : Nat) : Nat :=
  if c < 32 then pick [32, 48, 66, 32, 57, 32, 56] c
  else match s.curveSet c with
    | some b => leNat (slice b 6 2)
    | none => 0

/-- Order length Ln. -/
def State.curveLn (s : State) (c : Nat) : Nat :=
  if c < 32 then pick [32, 48, 66, 32, 57, 0, 0] c
  else match s.curveSet c with
    | some b => leNat (slice b 8 2)
    | none => 0

/-- Weierstrass curve numbers: P-256, P-384, P-521 and the custom ones. -/
def isWeier (c : Nat) : Bool := (1 ≤ c && c ≤ 3) || (32 ≤ c && c < 64)
def isEd (c : Nat) : Bool := c = 4 || c = 5
def isXdh (c : Nat) : Bool := c = 6 || c = 7

/-- Public key length (R389). -/
def State.ecPkLen (s : State) (c : Nat) : Nat := if isWeier c then 1 + 2 * s.curveL c else s.curveL c
/-- Signature length (R389). -/
def State.ecSigLen (s : State) (c : Nat) : Nat := if c = 4 then 64 else if c = 5 then 114 else 2 * s.curveLn c

/-- The curves an opcode serves (R383). -/
def curveServed (op : Op) (c : Nat) : Bool :=
  match op with
  | .ecKeygen => isWeier c || isEd c || isXdh c
  | .ecdsaSign | .ecdsaVerify | .ecValidate => isWeier c
  | .ecdh => isWeier c || isXdh c
  | .eddsaSign | .eddsaVerify => isEd c
  | _ => false

/-- The opcodes that carry a CURVE. -/
def usesCurve : Op → Bool
  | .ecKeygen | .ecdsaSign | .ecdsaVerify | .ecdh | .eddsaSign | .eddsaVerify | .ecValidate => true
  | _ => false

/-! ### RSA (R394) -/

/-- k of a private-key PARAM 16 to 19. -/
def rsaK (param : Nat) : Nat := pick [256, 384, 512, 1024] (param - 15)
/-- The PARAM of a modulus length; 0 where there is none. -/
def rsaParam (k : Nat) : Nat := if k = 256 then 16 else if k = 384 then 17 else if k = 512 then 18 else if k = 1024 then 19 else 0
def rsaKeyLen (k : Nat) : Nat := 4 + k + 5 * (k / 2)
def rsaSlot (k : Nat) : Nat := if k ≤ 256 then 4096 else if k ≤ 512 then 8192 else 16384
def rsaScratch (k : Nat) : Nat := if k ≤ 512 then 65536 else 131072

/-! ### Context image (R274) and migration (R292) -/

def State.bodyLen (s : State) : Nat := 16 * s.ctxCount + 2097152 + 256
def State.imageLen (s : State) : Nat := 64 + s.bodyLen + 16
def State.maxBlob (s : State) : Nat := if s.isX8 then 42403168 else 21431648

/-! ### Streams (R242, R331) -/

/-- The stream a handle of PARAMS names, when it is live and belongs to the function. -/
def State.streamOf (s : State) (fn handle : Nat) : Option Stream :=
  s.tables.streams.find? fun t =>
    t.slot = handle % 65536 && t.fn = fn && s.tables.streamGen.get 0 t.slot = handle / 65536

/-- The KIND a hash opcode works with (R327): its own, or the stream's. -/
def State.kindOf (s : State) (fn : Nat) (e : Entry) : Op → Option Nat
  | .hash => some 0
  | .cshake => some 1
  | .kmac => some 2
  | .hmac => some 3
  | .streamOpen => some (e.p 1 1)
  | .streamPart | .streamFinal => (s.streamOf fn (e.p 12 4)).map Stream.kind
  | _ => none

/-- The ALG a hash opcode works with. -/
def State.algOf (s : State) (fn : Nat) (e : Entry) : Op → Nat
  | .streamPart | .streamFinal => ((s.streamOf fn (e.p 12 4)).map Stream.alg).getD 0
  | _ => e.p 0 1

def isMacKind (k : Option Nat) : Bool := k = some 2 || k = some 3

/-! ### Flag bits -/

/-- FLAGS bits [7:2] the opcode defines for this entry; every other of them must be zero (R212). -/
def State.flagMask (s : State) (fn : Nat) (e : Entry) (op : Op) : BitVec 8 :=
  match op with
  | .mlkemDecaps => if e.ctx = 0 then 4 else 0
  | .mldsaSign | .slhSign | .curveLoad | .rsaPrivate | .gcmEncrypt | .cmac | .random => 4
  | .ecdh => if isXdh (e.p 0 1) then 4 else 0
  | .kmac => 0x0C
  | .hmac => 4
  | .streamFinal =>
    match s.kindOf fn e op with
    | some 2 => 0x1C
    | some 3 => 0x14
    | _ => 0x10
  | .timeSet | .fuseProgram | .fuseLock | .spoilNow | .updateActivate => 4
  | _ => 0

/-! ### Slots -/

/-- What an opcode does with a slot field. -/
inductive SlotRole where
  | unused | shared | excl | scratch | optShared | optExcl
  deriving DecidableEq, Repr

def SlotRole.optional : SlotRole → Bool
  | .unused | .optShared | .optExcl => true
  | _ => false

/-- The roles of SLOT_A and SLOT_B. -/
def slotRoles (e : Entry) : Op → SlotRole × SlotRole
  | .mlkemKeygen => (if e.ctx = 0 then .excl else .unused, .unused)
  | .mlkemDecaps => (if e.ctx = 0 then (if e.flag 2 then .excl else .shared) else .unused, .unused)
  | .lmsKeygen | .xmssKeygen | .cacheLoad => (.excl, .unused)
  | .lmsSign | .xmssSign | .cacheSave => (.shared, .unused)
  | .mceKeygen => (.optExcl, .scratch)
  | .mceEncaps => (.optShared, .scratch)
  | .mceDecaps | .hqcKeygen | .hqcEncaps | .hqcDecaps => (.unused, .scratch)
  | .mcePkLoad => (.excl, .unused)
  | .rsaKeygen => (.unused, .scratch)
  | .rsaKeyLoad => (.excl, .unused)
  | .rsaPrivate => (.optShared, .unused)
  | .dxRun | .dxSlotWrite => (.excl, .unused)
  | .dxSlotRead => (.shared, .unused)
  | _ => (.unused, .unused)

/-- The hold a role asks for on a slot. -/
def SlotRole.hold (r : SlotRole) (slot : BitVec 16) : List Hold :=
  if slot = noSlot then [] else
    match r with
    | .unused => []
    | .shared | .optShared => [{ slot := slot.toNat, excl := false, scratch := false }]
    | .excl | .optExcl => [{ slot := slot.toNat, excl := true, scratch := false }]
    | .scratch => [{ slot := slot.toNat, excl := true, scratch := true }]

/-- The holds of an entry. -/
def holdsOf (e : Entry) (op : Op) : List Hold :=
  (slotRoles e op).1.hold e.slotA ++ (slotRoles e op).2.hold e.slotB

/-- A slot field breaks its role: a slot where none is taken, or none where one is needed. -/
def SlotRole.bad (r : SlotRole) (slot : BitVec 16) : Bool :=
  match r with
  | .unused => slot ≠ noSlot
  | r => !r.optional && slot = noSlot

/-- The least size of the slot in SLOT_A and SLOT_B (R346, R362, R363, R394, R405). -/
def slotNeed (e : Entry) : Op → Nat × Nat
  | .lmsKeygen | .lmsSign => (treeSlot (lmsH (e.p 0 1)), 0)
  | .xmssKeygen | .xmssSign => (treeSlot (xmssH (e.p 0 1)), 0)
  | .cacheSave | .cacheLoad => (treeSlot (treeH (e.p 1 1 = 0) (e.p 0 1)), 0)
  | .mceKeygen =>
    (mcePkLen (e.p 0 1), if e.p 0 1 ≤ 2 then 524288 else if e.p 0 1 ≤ 4 then 1048576 else 2097152)
  | .mceEncaps => (0, 65536)
  | .mceDecaps | .hqcKeygen | .hqcEncaps | .hqcDecaps => (0, 65536)
  | .mcePkLoad => (mcePkLen (e.p 0 1), 0)
  | .rsaKeygen => (0, rsaScratch (e.p 0 2))
  | .rsaKeyLoad | .rsaPrivate => (rsaSlot (e.p 0 2), 0)
  | .dxRun | .dxSlotWrite | .dxSlotRead => (16384, 0)
  | _ => (0, 0)

/-- A slot that exists and belongs to the function is smaller than needed; any other passes (R219). -/
def State.slotSmall (s : State) (fn : Nat) (slot : BitVec 16) (need : Nat) : Bool :=
  s.ownsSlot fn slot.toNat && decide ((s.store.size slot.toNat).getD 0 < need)

/-! ### CTX -/

/-- Whether CTX must be zero (R213). -/
def ctxMustBeZero (e : Entry) : Op → Bool
  | .mlkemKeygen | .mlkemDecaps | .mldsaKeygen | .mldsaSign | .mldsaVerify => false
  | .slhKeygen | .slhSign | .slhVerify => false
  | .lmsKeygen | .lmsSign | .xmssKeygen | .xmssSign | .cacheSave | .cacheLoad => false
  | .mceKeygen | .mceDecaps | .hqcKeygen | .hqcDecaps => false
  | .ecKeygen | .ecdsaSign | .ecdsaVerify | .ecdh | .eddsaSign | .eddsaVerify => false
  | .rsaKeygen | .rsaKeyLoad | .rsaPrivate => false
  | .kmac | .hmac => false
  | .streamOpen => e.p 1 1 < 2
  | .gcmEncrypt | .gcmDecrypt | .xtsEncrypt | .xtsDecrypt | .kwWrap | .kwUnwrap | .cmac => false
  | .ctxCreate | .ctxQuery | .invalidate | .scopeSet | .externalWrap | .keyExport | .statefulQuery => false
  | .migrateExport => e.p 0 1 = 0
  | .seal | .rootSpoil => false
  | _ => true

/-- CTX zero is another form of the opcode, not a missing context. -/
def ctxOptional : Op → Bool
  | .mlkemKeygen | .mlkemDecaps | .mldsaVerify | .slhVerify | .ecdsaVerify | .eddsaVerify => true
  | .kmac | .hmac | .streamOpen => true
  | .gcmEncrypt | .gcmDecrypt | .xtsEncrypt | .xtsDecrypt | .kwWrap | .kwUnwrap | .cmac => true
  | .scopeSet => true
  | _ => false

/-- What the opcode asks of the context in CTX (chapters 07 to 11). -/
def ctxNeed (e : Entry) (op : Op) : CtxNeed :=
  let n (types : List Nat) (param : Option Nat) (bits : List Nat) : CtxNeed := { types, param, bits, oneOf := [] }
  let p := some (e.p 0 1)
  match op with
  | .mlkemKeygen => n [0x08] p [10]
  | .mlkemDecaps => n [0x08] p [9]
  | .mldsaKeygen | .mldsaVerify => n [0x09] p [10]
  | .mldsaSign => n [0x09] p [11]
  | .slhKeygen | .slhVerify => n [0x0A] p [10]
  | .slhSign => n [0x0A] p [11]
  | .lmsKeygen => n [0x0B] p [17, 10]
  | .lmsSign => n [0x0B] p [17, 11]
  | .xmssKeygen => n [0x0C] p [17, 10]
  | .xmssSign => n [0x0C] p [17, 11]
  | .cacheSave | .cacheLoad => n [if e.p 1 1 = 0 then 0x0C else 0x0B] p [17, 10]
  | .mceKeygen => n [0x0E] p [10]
  | .mceDecaps => n [0x0E] p [9]
  | .hqcKeygen => n [0x0D] p [10]
  | .hqcDecaps => n [0x0D] p [9]
  | .ecKeygen | .ecdsaVerify | .eddsaVerify => n [0x0F] p [10]
  | .ecdsaSign | .eddsaSign => n [0x0F] p [11]
  | .ecdh => n [0x0F] p [6]
  | .rsaKeygen => n [0x0E] (some (rsaParam (e.p 0 2))) [10]
  | .rsaKeyLoad => { types := [0x0E], param := some (rsaParam (e.p 0 2)), bits := [], oneOf := [11, 9] }
  | .rsaPrivate => n [0x0E] (some (rsaParam (e.p 0 2))) [if e.flag 2 then 9 else 11]
  | .kmac | .hmac | .streamOpen => n [0x06, 0x02] none [7]
  | .gcmEncrypt | .gcmDecrypt => n [0x07, 0x02] none [8]
  | .xtsEncrypt | .xtsDecrypt => n [0x07] none [8]
  | .kwWrap | .kwUnwrap => n [0x07, 0x02] none [12]
  | .cmac => n [0x07, 0x02] none [7]
  | .ctxCreate => n [] none [14]
  | .externalWrap => n [0x0E] none []
  | .keyExport => n [] none [15]
  | .migrateExport => n [0x01] none []
  | .rootSpoil => n [0x01, 0x02] none []
  | .statefulQuery => n [0x0B, 0x0C] none []
  | .seal =>
    let m := e.p 5 1
    if m = 2 then n [0x0A] none [11] else if m = 3 then n [0x09] (some 3) [11] else n [0x09] none [11]
  | _ => n [] none []

/-- The second context of an entry: CTX2 of SEAL (R351), WRAP_CTX of KEY_EXPORT (R278). -/
def ctx2Of (e : Entry) : Op → Option (BitVec 32 × CtxNeed)
  | .seal => if e.p 5 1 = 3 then some (BitVec.ofNat 32 (e.p 8 4), ⟨[0x0A], none, [11], []⟩) else none
  | .keyExport => some (BitVec.ofNat 32 (e.p 0 4), ⟨[], none, [12], []⟩)
  | _ => none

/-- SLH-DSA-256s, in either variant, for CTX2 of a composite seal (R351). -/
def State.ctx2Ok (s : State) (e : Entry) (op : Op) : Bool :=
  match op, ctx2Of e op with
  | .seal, some (h, _) => (s.keys.record (handleIndex h)).param = 9 || (s.keys.record (handleIndex h)).param = 10
  | _, _ => true

/-! ### PARAMS of the job groups -/

/-- PH_ALG of R308: 1 to 8 in mode 1, else zero. -/
def phBad (e : Entry) : Bool := if e.p 1 1 = 1 then decide (e.p 3 1 = 0 ∨ 8 < e.p 3 1) else e.p 3 1 ≠ 0

/-- The fields of R308. -/
def dsaFields (e : Entry) (psets modes : Nat) (op : Op) : List FieldTest :=
  match op with
  | .mldsaSign | .mldsaVerify | .slhSign | .slhVerify =>
    [outOfRange e 0 1 1 psets, outOfRange e 1 1 0 modes, (2, decide (e.p 1 1 = 2 ∧ e.p 2 1 ≠ 0)), (3, phBad e)]
      ++ rsvdZero e 4 24
  | _ => outOfRange e 0 1 1 psets :: rsvdZero e 1 24

/-- The fields of R342. -/
def treeFields (e : Entry) (xmss : Bool) (keygen : Bool) : List FieldTest :=
  let t := e.p 0 1
  [(0, if xmss then !xmssValid t else !lmsValid t), (1, if xmss then decide (e.p 1 1 ≠ 0) else !otsValid t (e.p 1 1))]
    ++ rsvdZero e 2 8 ++ (if keygen then [] else rsvdZero e 8 16) ++ rsvdZero e 16 24

/-- TAG_LEN of R327. -/
def State.tagLenBad (s : State) (fn : Nat) (e : Entry) (op : Op) : Bool :=
  let t := e.p 8 2
  let check := e.flag 2
  let d := Config.digestLen (s.algOf fn e op)
  let final : Bool := match op with
    | .kmac | .hmac | .streamFinal => true
    | _ => false
  if !final then t ≠ 0
  else match s.kindOf fn e op with
    | some 2 => if check then decide (t < 4 ∨ 64 < t) else t ≠ 0
    | some 3 => if check then decide (t < 4 ∨ min 64 d < t) else decide (t ≠ 0 ∧ (t < 4 ∨ d < t))
    | _ => t ≠ 0

/-- ALG allowed for a KIND. -/
def algBad (kind alg : Nat) : Bool :=
  match kind with
  | 0 => decide (alg = 0 ∨ 8 < alg)
  | 1 => decide (alg ≠ 7 ∧ alg ≠ 8)
  | 2 => decide (alg ≠ 7 ∧ alg ≠ 8)
  | _ => decide (alg = 0 ∨ 6 < alg)

/-- OUT_LEN of a job that produces output of any length (R328). -/
def State.hashOutBad (s : State) (fn : Nat) (e : Entry) (op : Op) : Bool :=
  let n := e.outLen.toNat
  let finals : Bool := match op with
    | .hash | .cshake | .kmac | .hmac => true
    | .streamFinal => !e.flag 4
    | _ => false
  if !finals then false
  else match s.kindOf fn e op with
    | some 0 => decide (7 ≤ s.algOf fn e op ∧ (n = 0 ∨ 16777216 < n))
    | some 1 => decide (n = 0 ∨ 16777216 < n)
    | some 2 => if e.flag 2 then decide (n ≠ 0) else decide (n = 0 ∨ 65536 < n)
    | _ => false

/-- The fields of R327. -/
def State.hashFields (s : State) (fn : Nat) (e : Entry) (op : Op) : List FieldTest :=
  let part : Bool := match op with
    | .streamPart | .streamFinal => true
    | _ => false
  let k := s.kindOf fn e op
  let opening : Bool := !part
  [ (0, if part then decide (e.p 0 1 ≠ 0) else algBad (k.getD 4) (e.p 0 1)),
    (1, if op = .streamOpen then decide (3 < e.p 1 1) else decide (e.p 1 1 ≠ 0)),
    (2, if opening && k = some 1 then decide (255 < e.p 2 2) else decide (e.p 2 2 ≠ 0)),
    (4, if opening && (k = some 1 || k = some 2) then decide (512 < e.p 4 2) else decide (e.p 4 2 ≠ 0)),
    (6, if opening && isMacKind k && e.ctx = 0 then decide (e.p 6 2 = 0 ∨ 256 < e.p 6 2) else decide (e.p 6 2 ≠ 0)),
    (8, s.tagLenBad fn e op),
    (12, if part then (s.streamOf fn (e.p 12 4)).isNone else decide (e.p 12 4 ≠ 0)),
    (16, !part && op ≠ .streamOpen && e.p 16 8 ≠ 0),
    (fld.outLen, s.hashOutBad fn e op) ] ++ rsvdZero e 10 12

/-- The fields of R388. -/
def ecFields (e : Entry) (op : Op) : List FieldTest :=
  let c := e.p 0 1
  let m := e.p 1 1
  let modeBad : Bool := match op with
    | .ecdsaSign => decide (1 < m)
    | .eddsaSign | .eddsaVerify => decide (2 < m) || (c = 5 && m = 1)
    | .curveLoad => decide (31 < m)
    | _ => m ≠ 0
  let ctxBad : Bool := match op with
    | .eddsaSign | .eddsaVerify => c = 4 && ((m = 0 && e.p 2 1 ≠ 0) || (m = 1 && e.p 2 1 = 0))
    | _ => e.p 2 1 ≠ 0
  let hashBad : Bool := match op with
    | .ecdsaSign => if m = 1 then decide (e.p 3 1 = 0 ∨ 6 < e.p 3 1) else e.p 3 1 ≠ 0
    | _ => e.p 3 1 ≠ 0
  [(0, if op = .curveLoad then decide (c ≠ 0) else !curveServed op c), (1, modeBad), (2, ctxBad), (3, hashBad)] ++ rsvdZero e 4 24

/-- The fields of R396. -/
def rsaFields (e : Entry) (op : Op) : List FieldTest :=
  let m := e.p 0 2
  let modBad : Bool := match op with
    | .rsaKeygen | .rsaKeyLoad | .rsaPrivate => rsaParam m = 0
    | .rsaPublic => decide (m < 128 ∨ 1024 < m)
    | _ => decide (m = 0 ∨ 1024 < m)
  [ (0, modBad),
    (2, if op = .modexp then decide (e.p 2 2 = 0 ∨ 1024 < e.p 2 2) else decide (e.p 2 2 ≠ 0)),
    (4, if op = .rsaKeygen then decide (e.p 4 4 < 65537 ∨ e.p 4 4 % 2 = 0) else decide (e.p 4 4 ≠ 0)) ] ++ rsvdZero e 8 24

/-- The fields of R411. -/
def aesFields (e : Entry) (op : Op) : List FieldTest :=
  match op with
  | .gcmEncrypt | .gcmDecrypt => outOfRange e 4 1 12 16 :: rsvdZero e 5 24
  | .xtsEncrypt | .xtsDecrypt => rsvdZero e 0 8
  | .kwWrap | .kwUnwrap => rsvdZero e 0 5 ++ [outOfRange e 5 1 0 1] ++ rsvdZero e 6 24
  | _ => rsvdZero e 0 4 ++ [outOfRange e 4 1 4 16] ++ rsvdZero e 5 24

/-- A named INDEX: 16 to N − 1. -/
def State.indexOk (s : State) (i : Nat) : Bool := 16 ≤ i && i < s.ctxCount

/-- CTX names a root alias; INVALIDATE, KEY_EXPORT and MIGRATE_EXPORT refuse it (R253). -/
def aliasCtx (e : Entry) : Bool := decide (1 ≤ handleIndex e.ctx ∧ handleIndex e.ctx ≤ 4)

/-- The fields of group 0x0A (R267, R268, R273, R293). -/
def State.keyFields (s : State) (e : Entry) (op : Op) : List FieldTest :=
  match op with
  | .ctxCreate =>
    [(0, e.p 0 4 ≠ 0 && !s.indexOk (e.p 0 4)), outOfRange e 4 1 3 15, (5, decide (e.p 5 3 % 64 ≠ 0))] ++ rsvdZero e 14 24
  | .invalidate => (fld.ctx, aliasCtx e) :: rsvdZero e 0 24
  | .sweep =>
    [ (0, !s.indexOk (e.p 0 4)),
      (4, decide (e.p 4 4 = 0 ∨ s.ctxCount < e.p 0 4 + e.p 4 4)) ] ++ rsvdZero e 8 24
  | .imageSave => outOfRange e 0 1 0 1 :: rsvdZero e 1 24
  | .scopeSet => outOfRange e 0 1 1 64 :: rsvdZero e 1 24
  | .externalWrap => outOfRange e 0 4 1 65536 :: rsvdZero e 4 24
  | .keyExport => (fld.ctx, aliasCtx e) :: rsvdZero e 4 24
  | .migrateExport =>
    [outOfRange e 0 1 0 1, (1, decide (e.p 1 1 ≠ 0) && !(e.p 1 1 = (if e.p 0 1 = 0 then 2 else 1))),
     (fld.ctx, aliasCtx e)] ++ rsvdZero e 2 24
  | .migrateImport => rsvdZero e 2 24
  | _ => rsvdZero e 0 24

/-- The ranges of PARAMS and of OUT_LEN for an opcode of the job groups. -/
def State.jobFields (s : State) (fn : Nat) (e : Entry) (op : Op) : List FieldTest :=
  match op with
  | .mlkemKeygen | .mlkemEncaps | .mlkemDecaps | .mlkemEncapsInternal | .mlkemKeygenInternal =>
    outOfRange e 0 1 1 3 :: rsvdZero e 1 24
  | .mldsaKeygen | .mldsaSign | .mldsaVerify | .mldsaKeygenInternal => dsaFields e 3 2 op
  | .slhKeygen | .slhSign | .slhVerify | .slhKeygenInternal => dsaFields e 12 1 op
  | .lmsKeygen => treeFields e false true
  | .lmsSign | .lmsVerify => treeFields e false false
  | .xmssKeygen => treeFields e true true
  | .xmssSign | .xmssVerify => treeFields e true false
  | .cacheSave | .cacheLoad => treeFields e (e.p 1 1 = 0) false
  | .mceKeygen | .mceEncaps | .mceDecaps | .mcePkLoad => outOfRange e 0 1 1 10 :: rsvdZero e 1 24
  | .hqcKeygen | .hqcEncaps | .hqcDecaps => outOfRange e 0 1 1 3 :: rsvdZero e 1 24
  | .ecKeygen | .ecdsaSign | .ecdsaVerify | .ecdh | .eddsaSign | .eddsaVerify | .ecValidate | .curveLoad => ecFields e op
  | .rsaKeygen | .rsaKeyLoad | .rsaPrivate | .rsaPublic | .modexp | .modmul | .modinv => rsaFields e op
  | .hash | .cshake | .kmac | .hmac | .streamOpen | .streamPart | .streamFinal => s.hashFields fn e op
  | .gcmEncrypt | .gcmDecrypt | .xtsEncrypt | .xtsDecrypt | .kwWrap | .kwUnwrap | .cmac => aesFields e op
  | .random => (fld.outLen, decide (e.outLen.toNat = 0 ∨ 16777216 < e.outLen.toNat)) :: rsvdZero e 0 24
  | .noiseRead =>
    (fld.outLen, decide (e.outLen.toNat = 0 ∨ 1048576 < e.outLen.toNat)) :: outOfRange e 0 1 0 15 :: rsvdZero e 1 24
  | .seal =>
    [outOfRange e 0 4 1 65536, (4, decide (e.p 4 1 ≠ 32 ∧ e.p 4 1 ≠ 64)), outOfRange e 5 1 1 3,
     (8, decide (e.p 5 1 ≠ 3 ∧ e.p 8 4 ≠ 0))] ++ rsvdZero e 6 8 ++ rsvdZero e 12 24
  | .dxProgramLoad | .dxRun | .dxSlotWrite | .dxSlotRead =>
    [outOfRange e 0 1 0 63, outOfRange e 1 1 0 31, (2, decide (e.p 2 1 = 0 ∨ 32 - e.p 1 1 < e.p 2 1))] ++ rsvdZero e 3 24
  | _ => s.keyFields e op

/-! ### Lengths of the job groups -/

/-- The message form after `pre` bytes (R309). -/
def dsaForm (e : Entry) (pre : Nat) : LenRule :=
  match e.p 1 1 with
  | 0 => .atLeast (pre + e.p 2 1)
  | 1 => .exactly (pre + e.p 2 1 + Config.digestLen (e.p 3 1))
  | _ => .exactly (pre + 64)

/-- The EdDSA message form after `pre` bytes (R389). -/
def edForm (e : Entry) (pre : Nat) : LenRule :=
  if e.p 1 1 = 2 then .exactly (pre + e.p 2 1 + 64) else .atLeast (pre + e.p 2 1)

/-- Key bytes that lead an AES input (R410). -/
def aesKeyLen (e : Entry) (op : Op) : Nat :=
  if e.ctx ≠ 0 then 0 else match op with
    | .xtsEncrypt | .xtsDecrypt => 64
    | _ => 32

/-- The input lengths an opcode accepts. -/
def State.jobIn (s : State) (fn : Nat) (e : Entry) (op : Op) : LenRule :=
  let p := e.p 0 1
  let pk0 (n : Nat) : Nat := if e.ctx = 0 then n else 0
  let c := e.p 0 1
  let k := e.p 0 2
  let kl := aesKeyLen e op
  let key := e.p 6 2
  match op with
  | .mlkemEncaps => .exactly (mlkemEkLen p)
  | .mlkemDecaps => .exactly (mlkemCtLen p)
  | .mlkemEncapsInternal => .exactly (mlkemEkLen p + 32)
  | .mlkemKeygenInternal => .exactly 64
  | .mldsaSign => dsaForm e 0
  | .mldsaVerify => dsaForm e (pk0 (mldsaPkLen p) + mldsaSigLen p)
  | .mldsaKeygenInternal => .exactly 32
  | .slhSign => dsaForm e 0
  | .slhVerify => dsaForm e (pk0 (2 * slhN p) + slhSigLen p)
  | .slhKeygenInternal => .exactly (3 * slhN p)
  | .lmsSign | .xmssSign => .atLeast 0
  | .lmsVerify => .atLeast (lmsPkLen p + lmsSigLen p (e.p 1 1))
  | .xmssVerify => .atLeast (xmssPkLen p + xmssSigLen p)
  | .cacheLoad => .exactly (treeCacheLen (treeH (e.p 1 1 = 0) p) (treeN (e.p 1 1 = 0) p))
  | .mceEncaps => .exactly (if e.slotA = noSlot then mcePkLen p else 0)
  | .mceDecaps => .exactly (blobLen (mceSkLen p) + mceCtLen p)
  | .mcePkLoad => .exactly (mcePkLen p)
  | .hqcEncaps => .exactly (hqcPkLen p)
  | .hqcDecaps => .exactly (hqcCtLen p)
  | .ecdsaSign => ⟨1, some 128⟩
  | .ecdsaVerify =>
    let b := pk0 (s.ecPkLen c) + 2 * s.curveLn c
    ⟨b + 1, some (b + 128)⟩
  | .ecdh | .ecValidate => .exactly (s.ecPkLen c)
  | .eddsaSign => edForm e 0
  | .eddsaVerify => edForm e (pk0 (s.ecPkLen c) + s.ecSigLen c)
  | .curveLoad => ⟨136, some 785⟩
  | .rsaKeyLoad => .exactly (blobLen (rsaKeyLen k))
  | .rsaPrivate => .exactly ((if e.slotA = noSlot then blobLen (rsaKeyLen k) else 0) + k)
  | .rsaPublic => .exactly (4 + 2 * k)
  | .modexp => .exactly (2 * k + e.p 2 2)
  | .modmul => .exactly (3 * k)
  | .modinv => .exactly (2 * k)
  | .hash | .streamPart => .atLeast 0
  | .cshake => .atLeast (e.p 2 2 + e.p 4 2)
  | .kmac => .atLeast (key + e.p 4 2 + (if e.flag 2 then e.p 8 2 else 0))
  | .hmac => .atLeast (key + (if e.flag 2 then e.p 8 2 else 0))
  | .streamOpen => .exactly (key + e.p 2 2 + e.p 4 2)
  | .streamFinal => .atLeast (if e.flag 2 && !e.flag 4 then e.p 8 2 else 0)
  | .gcmEncrypt => .atLeast (kl + (if e.flag 2 then 0 else 12) + e.p 0 4)
  | .gcmDecrypt => .atLeast (kl + 12 + e.p 0 4 + e.p 4 1)
  | .xtsEncrypt | .xtsDecrypt => ⟨kl + 16, some (kl + 16777216)⟩
  | .kwWrap => ⟨kl + (if e.p 5 1 = 0 then 16 else 1), some (kl + 65536)⟩
  | .kwUnwrap => ⟨kl + (if e.p 5 1 = 0 then 24 else 16), some (kl + 65544)⟩
  | .cmac => .atLeast (kl + (if e.flag 2 then e.p 4 1 else 0))
  | .random => ⟨0, some 48⟩
  | .seal => .exactly (32 + e.p 0 4 * e.p 4 1)
  | .dxProgramLoad => ⟨7287, some 23667⟩
  | .dxSlotWrite => .exactly (512 * e.p 2 1)
  | .imageLoad => .exactly s.imageLen
  | .externalWrap => .exactly (e.p 0 4)
  | .migrateStatement => .exactly 32
  | .migrateExport => .exactly (if e.p 0 1 = 0 then 0 else 16102)
  | .migrateImport => ⟨1696, some s.maxBlob⟩
  | _ => let _ := fn; .exactly 0

/-- KW key data and wrapped data come in whole semiblocks (R412); for another length within the bounds the spec
states no needed length (log row 20). -/
def inUneven (e : Entry) (op : Op) : Bool :=
  let n := e.inLen.toNat - aesKeyLen e op
  match op with
  | .kwWrap => e.p 5 1 = 0 && n % 8 ≠ 0
  | .kwUnwrap => n % 8 ≠ 0
  | _ => false

/-- Depth of a seal tree: ceil(log2 C) (R352). -/
def sealDepth (c : Nat) : Nat := if c ≤ 1 then 0 else Nat.log2 (c - 1) + 1

/-- Signature lengths of a seal (R354): by the PARAM of the records named. -/
def State.sealSigs (s : State) (e : Entry) : Nat × Nat :=
  let p := (s.keys.record (handleIndex e.ctx)).param
  match e.p 5 1 with
  | 1 => (mldsaSigLen p, 0)
  | 2 => (0, slhSigLen p)
  | _ => (4627, 29792)

/-- The output length an opcode needs for its parameters. -/
def State.jobOut (s : State) (fn : Nat) (e : Entry) (op : Op) : Nat :=
  let p := e.p 0 1
  let c := e.p 0 1
  let k := e.p 0 2
  let n := e.inLen.toNat - aesKeyLen e op
  let d := Config.digestLen (s.algOf fn e op)
  match op with
  | .mlkemKeygen => mlkemEkLen p
  | .mlkemEncaps | .mlkemEncapsInternal => mlkemCtLen p + 32
  | .mlkemDecaps => 32
  | .mlkemKeygenInternal => mlkemEkLen p + mlkemDkLen p
  | .mldsaKeygen => mldsaPkLen p
  | .mldsaSign => mldsaSigLen p
  | .mldsaKeygenInternal => mldsaPkLen p + mldsaSkLen p
  | .slhKeygen => 2 * slhN p
  | .slhSign => slhSigLen p
  | .slhKeygenInternal => 6 * slhN p
  | .lmsKeygen => lmsPkLen p
  | .lmsSign => lmsSigLen p (e.p 1 1)
  | .xmssKeygen => xmssPkLen p
  | .xmssSign => xmssSigLen p
  | .cacheSave => treeCacheLen (treeH (e.p 1 1 = 0) p) (treeN (e.p 1 1 = 0) p)
  | .mceKeygen => mcePkLen p + blobLen (mceSkLen p)
  | .mceEncaps => mceCtLen p + 32
  | .mceDecaps => 32
  | .hqcKeygen => hqcPkLen p
  | .hqcEncaps => hqcCtLen p + 32
  | .hqcDecaps => 32
  | .ecKeygen => s.ecPkLen c
  | .ecdsaSign | .eddsaSign => s.ecSigLen c
  | .ecdh => s.curveL c
  | .rsaKeygen => k + blobLen (rsaKeyLen k)
  | .rsaPrivate | .rsaPublic | .modexp | .modmul | .modinv => k
  | .hash => d * (if e.p 0 1 ≤ 6 then 1 else 0)
  | .hmac => if e.flag 2 then 0 else if e.p 8 2 = 0 then d else e.p 8 2
  | .streamFinal =>
    if e.flag 4 then 0
    else match s.kindOf fn e op with
      | some 0 => if s.algOf fn e op ≤ 6 then d else 0
      | some 3 => if e.flag 2 then 0 else if e.p 8 2 = 0 then d else e.p 8 2
      | _ => 0
  | .gcmEncrypt => (if e.flag 2 then 12 else 0) + (n - (if e.flag 2 then 0 else 12) - e.p 0 4) + e.p 4 1
  | .gcmDecrypt => n - 12 - e.p 0 4 - e.p 4 1
  | .xtsEncrypt | .xtsDecrypt => n
  | .kwWrap => 8 * ((n + 7) / 8) + 8
  | .kwUnwrap => n - 8
  | .cmac => if e.flag 2 then 0 else e.p 4 1
  | .seal =>
    56 + e.p 4 1 + (s.sealSigs e).1 + (s.sealSigs e).2 + e.p 0 4 * sealDepth (e.p 0 4) * e.p 4 1
  | .dxSlotRead => 512 * e.p 2 1
  | .ctxQuery | .statefulQuery => 32
  | .imageSave => if e.p 0 1 = 0 then s.imageLen else 0
  | .externalWrap => blobLen (e.p 0 4)
  | .keyExport => 72
  | .migrateStatement => 16102
  | .migrateExport => if e.p 0 1 = 0 then 32 else s.maxBlob
  | _ => 0

/-! ### Start modes, functions, states -/

/-- PF-only opcodes of the job groups (R267, R386, R407). -/
def pfOnly : Op → Bool
  | .sweep | .imageSave | .imageLoad | .scopeSet | .migrateStatement | .migrateExport | .migrateImport => true
  | .curveLoad | .dxProgramLoad => true
  | _ => false

def State.inTest (s : State) : Bool := s.fuses.lc = .testUnlocked || s.fuses.lc = .testLocked

/-- Healthy pairs. -/
def Entropy.healthy (t : Entropy) : Nat := (t.pairs.filter fun p => p = .healthy).length

/-- A job in flight names a custom curve entry (R386). -/
def State.curveInUse (s : State) (entry : Nat) : Bool :=
  s.jobs.any fun j => j.group = 6 && j.op ≠ opCode .curveLoad && j.entry.p 0 1 = 32 + entry

/-- The step-4 conditions of the job groups beyond the start mode: the state byte to report when refused. -/
def State.jobRefuses (s : State) (fn : Nat) (e : Entry) (op : Op) : Option Nat :=
  let when (b : Bool) (n : Nat) : Option Nat := if b then some n else none
  let late : Bool := decide (5 ≤ s.upd.stage.num)
  let micro : Bool := !s.tables.microOk || (s.upd.stage = .activating && s.upd.component = 2)
  if pfOnly op && fn ≠ 0 then some 0
  else match op with
  | .mlkemEncapsInternal | .mlkemKeygenInternal | .mldsaKeygenInternal | .slhKeygenInternal => when (!s.inTest) 0
  | .lmsSign | .xmssSign | .migrateImport => when s.boot.countersLost 0
  | .imageLoad => when (s.boot.countersLost || late) 0
  | .imageSave => when (s.boot.countersLost || late || (e.p 0 1 = 1 && s.keeper.imgPending.isNone)) 0
  | .migrateExport =>
    when (s.boot.countersLost || (e.p 0 1 = 1 && (!s.power.nvOk || late))
      || (e.p 0 1 = 0 && s.keeper.exportRec.isSome && !(e.p 1 1 / 2 % 2 = 1))) 0
  | .ctxCreate =>
    let i := e.p 0 4
    when (s.indexOk i && (s.keys.record i).state ≠ .free) (s.keys.record i).state.num
  | .noiseRead =>
    let p := e.p 0 1
    when (!(s.inTest || s.fuses.lc = .rma) || decide (s.ent.healthy < 9)
      || (decide (p < 16) && s.ent.pairs.getD p .dropped ≠ .healthy)) 0
  | .dxProgramLoad | .dxSlotWrite | .dxSlotRead => when micro 0
  | .dxRun => when (micro || (decide (e.p 0 1 < 64) && (s.tables.dxProgs.lookup (e.p 0 1)).isNone)) 0
  | .curveLoad =>
    let n := e.p 1 1
    when (decide (n < 32) && s.tables.curves.get [] n ≠ [] && (!e.flag 2 || s.curveInUse n)) 0
  | op => when (usesCurve op && 32 ≤ e.p 0 1 && e.p 0 1 < 64 && (s.curveSet (e.p 0 1)).isNone) 0

/-! ### Entropy -/

/-- The job waits for the DRBGs (R225, R302, R307, R326, R335, R342, R361, R387, R395, R408, R410, R445, R449). -/
def State.needsEntropy (s : State) (fn : Nat) (e : Entry) (op : Op) : Bool :=
  match op with
  | .mlkemKeygen | .mlkemEncaps | .mlkemDecaps | .mldsaKeygen | .mldsaSign | .slhKeygen | .slhSign => true
  | .lmsKeygen | .lmsSign | .xmssKeygen | .xmssSign => true
  | .mceKeygen | .mceEncaps | .mceDecaps | .hqcKeygen | .hqcEncaps | .hqcDecaps => true
  | .ecKeygen | .ecdsaSign | .ecdh | .eddsaSign => true
  | .rsaKeygen | .rsaKeyLoad | .rsaPrivate | .modexp | .modmul | .modinv => true
  | .kmac | .hmac | .streamOpen | .streamPart | .streamFinal => isMacKind (s.kindOf fn e op)
  | .gcmEncrypt | .gcmDecrypt | .xtsEncrypt | .xtsDecrypt | .kwWrap | .kwUnwrap | .cmac => true
  | .random | .seal => true
  | .dxRun => match s.tables.dxProgs.lookup (e.p 0 1) with
    | some pr => pr.needsEntropy
    | none => false
  | .imageSave => e.p 0 1 = 0
  | .imageLoad | .externalWrap | .keyExport | .migrateStatement | .migrateExport | .migrateImport => true
  | .rootGenerate => true
  | .sessionOpen => e.p 0 1 = 0
  | .fuseProgram => e.flag 2
  | _ => false

end Sys2Proof.Machine
end

