-- ==== Sys2Proof/Machine/Intake.lean ====
section
/-!
DEFINITION. Machine/Intake.lean: the catalogue of admin and control commands (R247, R248) with the ranges,
states and lengths their chapters give, and the intake of an entry, check by check, in the order of R219.
-/
namespace Sys2Proof.Machine
open Sys2Proof

/-! ### The catalogue (R248) -/

/-- The start modes in which an opcode is legal; every opcode of groups 0x01 to 0x0D in normal mode only (R251). -/
def opModes : Op → List StartMode
  | .identify | .queueCreate | .queueDestroy | .queueRestart => [.normal, .recovery, .loaderOnly, .mfgPort]
  | .sessionOpen | .sessionClose | .abort => [.normal, .recovery]
  | .guardHold | .guardReverify | .rootSpoil | .timeSet | .spoilNow | .debugNonce | .debugCert => [.normal, .recovery]
  | .counterReestablish => [.recovery]
  | .eventLogRead | .updateBegin | .updateBlock | .updateVerify | .updateActivate | .updateCancel =>
    [.normal, .recovery, .loaderOnly]
  | .fuseProgram | .fuseLock | .lcTransition => [.normal, .mfgPort]
  | _ => [.normal]

/-- Admitted on CTLQ0 (R248). -/
def onCtl0 : Op → Bool
  | .guardHold | .guardReverify | .rootSpoil | .spoilNow => true
  | _ => false

/-- A platform-guard command (R202). -/
def isGuardOp (code : Nat) : Bool := 0xC001 ≤ code && code ≤ 0xC004

/-- Marked Mgmt (R248). -/
def onMgmt : Op → Bool
  | .guardCommit | .guardHold | .guardReverify | .guardSvnAdvance | .sessionAssign | .rootSpoil => true
  | .counterReestablish | .timeSet | .eventLogRead | .spoilNow => true
  | .ownerTransfer | .debugNonce | .debugCert => true
  | _ => false

/-- Allowed without a session on the function's admin queue (R173). -/
def noSessionOp : Op → Bool
  | .identify | .sessionOpen | .sessionClose | .queueCreate | .queueDestroy | .queueRestart => true
  | _ => false

/-! ### Fuse regions (R452, R463) -/

/-- First words of the regions. -/
def regionStarts : List Nat :=
  [0, 32, 160, 208, 224, 240, 320, 336, 384, 768, 880, 1136, 1168, 2192, 2320, 8096, 8192]

def regionFirst (r : Nat) : Nat := regionStarts.getD r 8192
def regionSize (r : Nat) : Nat := regionFirst (r + 1) - regionFirst r

/-- The region of a word. -/
def regionOf (w : Nat) : Nat := ((List.range 16).filter fun r => regionFirst r ≤ w).length - 1

/-- A revocation word of region 9 or of a region 8 block (R453 to R455). -/
def isRevocation (w : Nat) : Bool :=
  (768 + 96 ≤ w && w < 768 + 104)
    || (384 ≤ w && w < 768 && 36 ≤ (w - 384) % 48 && (w - 384) % 48 ≤ 38)

/-- The states in which R463 lets FUSE_PROGRAM write a word. -/
def wordStates (w : Nat) : List LcState :=
  if isRevocation w then [.testLocked, .mfg, .mission, .rma]
  else match regionOf w with
    | 0 => [.testUnlocked, .testLocked]
    | 1 | 3 => [.testUnlocked]
    | 4 | 5 | 6 => [.testLocked]
    | 8 | 13 => [.mission]
    | 9 | 11 => [.testLocked, .mfg]
    | 10 => [.testUnlocked, .testLocked, .mfg, .rma]
    | 14 => [.mfg, .mission]
    | _ => []

/-- The states R463 lists for a region. -/
def regionStates : Nat → List LcState
  | 0 => [.testUnlocked, .testLocked]
  | 1 | 3 => [.testUnlocked]
  | 4 | 5 | 6 => [.testLocked]
  | 8 | 13 => [.mission]
  | 9 => [.testLocked, .mfg, .mission, .rma]
  | 10 => [.testUnlocked, .testLocked, .mfg, .rma]
  | 11 => [.testLocked, .mfg]
  | 14 => [.mfg, .mission]
  | _ => []

/-- The current epoch block holds a word of region 8 or 13 (R454). -/
def State.inEpochBlock (s : State) (w : Nat) : Bool :=
  match regionOf w with
  | 8 => (w - 384) / 48 = s.fuses.epoch
  | 13 => (w - 2192) / 16 = s.fuses.epoch
  | _ => true

/-- A fuse command or triplicated program is under way besides the job itself (R462, R471). -/
def State.fuseBusy (s : State) : Bool :=
  s.fuses.busy || s.jobs.any fun j =>
    (j.phase ≠ .ended) && (j.op = 0xC030 || j.op = 0xC031 || j.op = 0xC032 || j.op = 0xC033)

/-! ### Life-cycle transitions (R471) -/

/-- The allowed transitions with the start mode each needs. -/
def lcMove (frm tgt : LcState) : Option StartMode :=
  match frm, tgt with
  | .raw, .testUnlocked => some .mfgPort
  | .testUnlocked, .testLocked => some .mfgPort
  | .testLocked, .mfg => some .normal
  | .mfg, .mission => some .normal
  | .mission, .rma => some .normal
  | .testLocked, .scrap | .mfg, .scrap | .mission, .scrap | .rma, .scrap => some .normal
  | _, _ => none

/-- The state a TARGET byte names. -/
def lcOfNum : Nat → LcState
  | 0 => .raw | 1 => .testUnlocked | 2 => .testLocked | 3 => .mfg | 4 => .mission | 5 => .rma | 6 => .scrap
  | _ => .invalid

/-- The further precondition of R471. -/
def State.lcReady (s : State) (tgt : LcState) : Bool :=
  match tgt with
  | .testLocked => s.writeLocked 1 && s.writeLocked 3
  | .mfg => s.writeLocked 0 && s.writeLocked 4 && s.writeLocked 5 && s.writeLocked 6
  | .mission => s.writeLocked 9 && s.writeLocked 10 && s.writeLocked 11
  | _ => true

/-! ### Update conditions (R505 to R516) -/

/-- The update lock is held (R506). -/
def State.lockHeld (s : State) : Bool := s.upd.stage ≠ .idle || s.upd.holder ≠ .none

/-- RESULT of BUSY_UPDATE (R506). -/
def State.busyWord (s : State) : BitVec 64 :=
  BitVec.ofNat 64 (s.upd.holder.num + 256 * (s.upd.holderId % 256) + 65536 * s.upd.stage.num)

/-- A bundle image made with a recovery area stands in the STAGED half (R513, R516). -/
def State.stagedReady (s : State) : Bool :=
  s.upd.component ≠ 1 || !s.upd.areaOk || s.upd.stagedHalf ≠ []

/-- Commands that keep an activation from beginning (R516): the fuse commands, as FUSE_STATUS.BUSY counts them too, GUARD_COMMIT,
CONTEXT_IMAGE_SAVE and LOAD, and step 1 of MIGRATE_EXPORT. -/
def activationBlocker (op : Nat) (step : Nat) : Bool :=
  op = 0xC030 || op = 0xC031 || op = 0xC032 || op = 0xC033 || op = 0xC001 || op = 0x0A05 || op = 0x0A06 || (op = 0x0A0B && step = 1)

/-- R516. -/
def State.canActivate (s : State) : Bool :=
  s.power.nvOk && !(s.jobs.any fun j => !j.ended && activationBlocker j.op (j.entry.p 0 1)) && s.stagedReady

/-! ### Ranges of PARAMS -/

/-- The largest QID of a function (R175). -/
def maxQid (fn : Nat) : Nat := if fn = 0 then 2042 else 64

/-- METHODs that the credential mode of a function admits (R170, R172). -/
def State.methodOk (s : State) (fn m : Nat) : Bool :=
  match (s.keeper.cred fn).mode.toNat with
  | 0 => fn = 0 && m = 0
  | 1 => m = 1
  | 2 => m = 2
  | _ => m = 1 || m = 2

/-- The nonce of SESSION_OPEN step 0 that is outstanding: valid for 10 s (R170). -/
def State.nonceOf (s : State) (fn : Nat) : Option Bytes :=
  (s.session fn).nonce.bind fun p => if s.now ≤ p.2 + secs 10 then some p.1 else none

/-- IN_LEN and OUT_LEN that a definition fixes at zero (R133, section Queue commands). -/
def zeroLens (e : Entry) : List FieldTest := [(fld.inLen, decide (e.inLen ≠ 0)), (fld.outLen, decide (e.outLen ≠ 0))]

/-- IN_ADDR and OUT_ADDR that a definition fixes at zero, whatever the fragment flags say (R208, R209). -/
def zeroAddrs (e : Entry) : List FieldTest := [(fld.inAddr, decide (e.inAddr ≠ 0)), (fld.outAddr, decide (e.outAddr ≠ 0))]

/-- The fields of an admin or control command. -/
def State.ctlFields (s : State) (fn : Nat) (e : Entry) (op : Op) : List FieldTest :=
  match op with
  | .sessionOpen =>
    [outOfRange e 0 1 0 1, (1, if e.p 0 1 = 1 then !s.methodOk fn (e.p 1 1) else decide (e.p 1 1 ≠ 0))] ++ rsvdZero e 2 24
  | .queueCreate =>
    zeroLens e ++
    [ (fld.flags, e.inFt || e.outFt), (fld.inAddr, decide (e.inAddr.toNat % 4096 ≠ 0)),
      (fld.outAddr, decide (e.outAddr.toNat % 4096 ≠ 0)),
      (0, if e.p 12 1 = 1 then decide (e.p 0 8 % 64 ≠ 0) else decide (e.p 0 8 ≠ 0)),
      outOfRange e 8 2 1 (maxQid fn), outOfRange e 10 1 4 16, outOfRange e 11 1 4 16, outOfRange e 12 1 0 1,
      outOfRange e 13 1 1 255, outOfRange e 14 1 0 192 ] ++ rsvdZero e 15 16 ++ [outOfRange e 19 1 0 1] ++ rsvdZero e 20 24
  | .queueDestroy => zeroLens e ++ zeroAddrs e ++ rsvdZero e 0 8 ++ [outOfRange e 8 2 1 (maxQid fn), outOfRange e 10 1 0 1] ++ rsvdZero e 11 24
  | .queueRestart =>
    let k := (s.queue (.job fn (e.p 8 2))).errKind
    zeroLens e ++ zeroAddrs e ++ rsvdZero e 0 8 ++
    [outOfRange e 8 2 1 (maxQid fn), (10, decide (1 < e.p 10 1) || (e.p 10 1 = 1 && k ≠ 4 && k ≠ 5))] ++ rsvdZero e 11 24
  | .abort => outOfRange e 0 2 0 (maxQid fn) :: rsvdZero e 4 24
  | .guardCommit =>
    zeroLens e ++ [outOfRange e 0 1 0 7, (1, (Chip.ofByte (e.p 1 1)).isNone), outOfRange e 2 1 0 1] ++ rsvdZero e 3 4
      ++ rsvdZero e 8 24
  | .guardReverify => zeroLens e ++ [outOfRange e 0 1 0 7] ++ rsvdZero e 1 2 ++ [outOfRange e 2 1 0 1] ++ rsvdZero e 3 24
  | .guardHold | .guardSvnAdvance => zeroLens e ++ outOfRange e 0 1 0 7 :: rsvdZero e 1 24
  | .sessionAssign =>
    let m := e.p 1 1
    [ (0, decide (64 < e.p 0 1 ∧ e.p 0 1 ≠ 255)), outOfRange e 1 1 0 3,
      (4, if m = 1 ∨ m = 3 then decide (e.p 4 4 = 0) else decide (e.p 4 4 ≠ 0)) ] ++ rsvdZero e 8 24
  | .rootImport | .rootGenerate =>
    [(0, !s.indexOk (e.p 0 4)), outOfRange e 6 1 1 2, (8, decide (e.p 8 3 % 64 ≠ 0))] ++ rsvdZero e 7 8 ++ rsvdZero e 11 12
      ++ rsvdZero e 16 24
  | .opstoreConfig => outOfRange e 0 1 1 16 :: rsvdZero e 1 24
  | .slotGrant => [outOfRange e 2 2 1 4096, outOfRange e 4 1 0 64] ++ rsvdZero e 5 24
  | .counterReestablish => rsvdZero e 12 24
  | .timeSet => rsvdZero e 8 24
  | .eventLogRead => [outOfRange e 4 2 1 2048, outOfRange e 6 1 0 1] ++ rsvdZero e 7 24
  | .fuseProgram =>
    let w := e.p 0 2
    let r := regionOf w
    let root : Bool := decide (3 ≤ r ∧ r ≤ 6)
    if e.flag 2 then
      [(0, decide (8191 < w ∨ w ≠ regionFirst r)), (fld.flags, !root), (2, decide (e.p 2 2 ≠ regionSize r))] ++ rsvdZero e 4 24
    else
      [ (fld.flags, root), (0, decide (8191 < w) || r = 2 || r = 7 || r = 12 || r = 15 || !s.inEpochBlock w),
        (2, decide (e.p 2 2 = 0 ∨ 64 < e.p 2 2 ∨ regionFirst (r + 1) < w + e.p 2 2)
              || !s.inEpochBlock (w + e.p 2 2 - 1)) ] ++ rsvdZero e 4 24
  | .fuseLock =>
    let r := e.p 0 1
    let l := e.p 1 1
    [ (0, decide (15 < r) || r = 2 || r = 7 || r = 15),
      (1, l = 0 || decide (3 < l) || (l = 2 && !s.writeLocked r)) ] ++ rsvdZero e 2 24
  | .lcTransition => (0, (lcMove s.fuses.lc (lcOfNum (e.p 0 1))).isNone) :: rsvdZero e 1 24
  | .updateBlock =>
    let off := e.p 0 4
    let img := leNat (slice s.upd.header 20 4)
    let n := e.inLen.toNat
    [ (0, decide (off % 4096 ≠ 0 ∨ img ≤ off)), (fld.inLen, decide ((n % 4096 ≠ 0 ∧ off + n ≠ img) ∨ img < off + n)) ]
      ++ rsvdZero e 4 24
  | .updateActivate =>
    let t := 32768 * e.p 0 8
    (0, decide (e.p 0 8 ≠ 0 ∧ (t < s.platformTime + secs 2 ∨ s.platformTime + secs 604800 < t))) :: rsvdZero e 8 24
  | _ => rsvdZero e 0 24

/-- Every field test of an entry (step 5 of R219). -/
def State.fieldTests (s : State) (fn : Nat) (e : Entry) (op : Op) : List FieldTest :=
  let roles := slotRoles e op
  let needs := slotNeed e op
  [ (fld.flags, decide ((e.flags &&& 0xFC &&& ~~~ s.flagMask fn e op) ≠ 0)),
    (fld.phase, decide (e.phase &&& 0xFE ≠ 0 ∨ e.rsvd ≠ 0)),
    (fld.ctx, ctxMustBeZero e op && decide (e.ctx ≠ 0)),
    (fld.inAddr, op ≠ .queueCreate && decide (e.inLen = 0 ∧ e.inFt = false ∧ e.inAddr ≠ 0)),
    (fld.outAddr, op ≠ .queueCreate && decide (e.outLen = 0 ∧ e.outFt = false ∧ e.outAddr ≠ 0)),
    (fld.slotA, roles.1.bad e.slotA || (e.slotA ≠ noSlot && s.slotSmall fn e.slotA needs.1)),
    (fld.slotB, roles.2.bad e.slotB || (e.slotB ≠ noSlot && s.slotSmall fn e.slotB needs.2)
      || (e.slotA ≠ noSlot && e.slotA = e.slotB)) ]
  ++ (if e.group ≤ 0x0D then s.jobFields fn e op else s.ctlFields fn e op)

/-! ### Lengths -/

/-- The input an admin or control command accepts. -/
def ctlIn (e : Entry) : Op → LenRule
  | .sessionOpen => .exactly (if e.p 0 1 = 1 && e.p 1 1 ≠ 0 then 32 else 0)
  | .sessionAssign => .exactly (if 2 ≤ e.p 1 1 then 32 else 0)
  | .rootImport => .exactly 32
  | .opstoreConfig => .exactly (4 * e.p 0 1)
  | .counterReestablish => .exactly (48 * e.p 10 2)
  | .fuseProgram => .exactly (if e.flag 2 then 0 else 4 * e.p 2 2)
  | .lcTransition => if e.p 0 1 = 5 then .atLeast 0 else .exactly 0
  | .debugCert => .atLeast 0
  | .updateBegin => .exactly 4096
  | .updateBlock => ⟨1, some 65536⟩
  | _ => .exactly 0

/-- The output an admin or control command needs. -/
def ctlOut (e : Entry) : Op → Nat
  | .identify => 64
  | .sessionOpen => if e.p 0 1 = 0 then 32 else 0
  | .eventLogRead => 32 * e.p 4 2
  | .debugNonce => 24
  | _ => 0

def State.inRule (s : State) (fn : Nat) (e : Entry) (op : Op) : LenRule :=
  if e.group ≤ 0x0D then s.jobIn fn e op else ctlIn e op

def State.outNeed (s : State) (fn : Nat) (e : Entry) (op : Op) : Nat :=
  if e.group ≤ 0x0D then s.jobOut fn e op else ctlOut e op

/-! ### Step 4: states of the objects a command names -/

def State.domainAt (s : State) (d : Nat) : Domain := s.guard.domains.getD d Domain.atReset

/-- The step-4 conditions of admin and control commands beyond the start mode: the state byte when refused. -/
def State.ctlRefuses (s : State) (fn : Nat) (e : Entry) (op : Op) : Option Nat :=
  let when (b : Bool) (n : Nat) : Option Nat := if b then some n else none
  let nv0 := !s.power.nvOk
  let late : Bool := decide (5 ≤ s.upd.stage.num)
  let stage := s.upd.stage.num
  let job := s.queue (.job fn (e.p 8 2))
  let named : Bool := decide (1 ≤ e.p 8 2 ∧ e.p 8 2 ≤ maxQid fn)
  let dom := (s.domainAt (e.p 0 1)).state
  let domOk : Bool := decide (e.p 0 1 ≤ 7)
  match op with
  | .sessionOpen => when (e.p 0 1 = 1 && (s.nonceOf fn).isNone) 0
  | .queueCreate => when (named && job.state ≠ .absent) job.state.num
  | .queueDestroy => when (named && !(job.state = .running || job.state = .error)) job.state.num
  | .queueRestart => when (named && job.state ≠ .error) job.state.num
  | .guardCommit =>
    when (nv0 || late || (domOk && !(dom = .released || dom = .failedHeld))) (if domOk then dom.num else 0)
  | .guardHold => when (domOk && dom = .disabled) dom.num
  | .guardReverify => when (domOk && !(dom = .released || dom = .failedHeld)) dom.num
  | .guardSvnAdvance => when (nv0 || s.boot.countersLost || (domOk && dom ≠ .released)) (if domOk then dom.num else 0)
  | .sessionAssign | .slotGrant => when nv0 0
  | .opstoreConfig => when (nv0 || s.anyHold || s.store.lent) 0
  | .rootImport | .rootGenerate =>
    let c := s.keys.record (e.p 0 4)
    when (s.indexOk (e.p 0 4) && c.state ≠ .free) c.state.num
  | .fuseProgram =>
    let w := e.p 0 2
    let words := (List.range (max 1 (e.p 2 2))).map (w + ·)
    when (nv0 || s.fuseBusy || late || (decide (w ≤ 8191) && (regionStates (regionOf w) ≠ [])
      && !(words.all fun x => (wordStates x).contains s.fuses.lc))) (regionOf w)
  | .fuseLock =>
    let r := e.p 0 1
    when (nv0 || s.fuseBusy || late || (decide (r ≤ 14) && r ≠ 2 && r ≠ 7 && !(regionStates r).contains s.fuses.lc)) r
  | .lcTransition =>
    let tgt := lcOfNum (e.p 0 1)
    when (nv0 || s.boot.countersLost || s.fuseBusy || late
      || (match lcMove s.fuses.lc tgt with
          | some m => decide (s.boot.mode ≠ m) || !s.lcReady tgt
          | none => false)) 0
  | .ownerTransfer =>
    when (nv0 || s.boot.countersLost || s.fuseBusy || late || s.fuses.lc ≠ .mission || decide (7 ≤ s.fuses.epoch)) 0
  | .debugCert => when (s.boot.countersLost || s.fuses.lc = .testUnlocked) 0
  | .updateBegin => when (s.lockHeld) stage
  | .updateBlock | .updateVerify => when (s.upd.stage ≠ .downloading) stage
  | .updateActivate =>
    let now : Bool := e.p 0 8 = 0
    when (!(s.upd.stage = .verified || (now && s.upd.stage = .scheduled)) || (!now && !s.boot.timeValid)
      || (now && !s.canActivate)) stage
  | .updateConfirm => when (s.upd.stage ≠ .unconfirmed || !s.upd.selftestOk) stage
  | .updateCancel => when (decide (stage = 0 ∨ 5 ≤ stage)) stage
  | _ => none

/-- Refused because the other update source holds the lock (R125, R506). -/
def State.busyRefused (s : State) (op : Op) : Bool :=
  match op with
  | .guardCommit => s.lockHeld && decide (s.upd.stage.num < 5)
  | .updateBegin | .updateBlock | .updateVerify | .updateActivate | .updateConfirm | .updateCancel =>
    s.upd.holder = .mgmt && decide (s.upd.stage.num < 5)
  | _ => false

/-! ### Intake (R219) -/

/-- How an intake ends. -/
inductive Admission where
  | ended (status : Status) (result : BitVec 64)
  | unread (addr : BitVec 64)
  | accepted (holds : List Hold) (chain chain2 : List Nat) (inRanges outRanges : List (BitVec 64 × Nat))
  deriving DecidableEq, Repr

/-- The modes in which the ROM or its loader serves entries without sessions (R250, R481). -/
def State.romServes (s : State) : Bool := s.boot.mode = .loaderOnly || s.boot.mode = .mfgPort

/-- Step 1: an open session, or an opcode allowed without one (R173). -/
def State.sessionOk (s : State) (q : QRef) (e : Entry) : Bool :=
  s.romServes || (s.session q.fn).isOpen
    || (match opOf e.opcode.toNat with
        | some o => noSessionOp o || (o = .imageLoad && q.isJob && q.fn = 0)
        | none => false)

/-- The opcode, where it is admitted on the queue (step 2; R249). -/
def admittedOp (q : QRef) (e : Entry) : Option Op :=
  match opOf e.opcode.toNat with
  | some o => match q with
    | .ctl 0 => if onCtl0 o then some o else none
    | .mgmt => if onMgmt o then some o else none
    | _ => some o
  | none => none

/-- The queues the ROM or its loader serves (R250, R481). -/
def romQueue : QRef → Bool
  | .admin 0 => true
  | .ctl 3 => true
  | .tap => true
  | _ => false

/-- Step 3: UNIT_ABSENT where DEV_FEATURES reports it (R4), ENGINE_FAULT where no unit remains (R494). -/
def State.unitFault (s : State) (e : Entry) : Option (Status × BitVec 64) :=
  if e.group = 5 ∧ s.hasCbu = false then some (st.unitAbsent, 0)
  else match s.noUnitKind e.group with
    | some k => some (st.engineFault, BitVec.ofNat 64 (k * 4096))
    | none => none

/-- The state byte of the object an admin or control command names: the queue, the domain or the update stage; zero
where it names none (R223). -/
def State.objectByte (s : State) (fn : Nat) (e : Entry) (op : Op) : Nat :=
  match op with
  | .queueCreate | .queueDestroy | .queueRestart =>
    if 1 ≤ e.p 8 2 ∧ e.p 8 2 ≤ maxQid fn then (s.queue (.job fn (e.p 8 2))).state.num else 0
  | .guardCommit | .guardHold | .guardReverify | .guardSvnAdvance =>
    if e.p 0 1 ≤ 7 then (s.domainAt (e.p 0 1)).state.num else 0
  | .updateBegin | .updateBlock | .updateVerify | .updateActivate | .updateConfirm | .updateCancel => s.upd.stage.num
  | _ => 0

/-- Step 4 (R73, R223, R249 to R251). -/
def State.stateFault (s : State) (q : QRef) (e : Entry) (op : Op) : Option (Status × BitVec 64) :=
  let no (n : Nat) : Option (Status × BitVec 64) := some (st.stateRefused, s.refusedWord q.fn n)
  if (opModes op).contains s.boot.mode = false ∨ (s.romServes = true ∧ romQueue q = false) then no (s.objectByte q.fn e op)
  else match (if e.group ≤ 0x0D then s.jobRefuses q.fn e op else s.ctlRefuses q.fn e op) with
    | some n => if s.busyRefused op && op ≠ .guardCommit then some (st.busyUpdate, s.busyWord) else no n
    | none => if s.busyRefused op then some (st.busyUpdate, s.busyWord) else none

/-- Step 6. -/
def State.slotFault (s : State) (fn : Nat) (e : Entry) : Option (Status × BitVec 64) :=
  if (e.slotA ≠ noSlot ∧ s.ownsSlot fn e.slotA.toNat = false) ∨ (e.slotB ≠ noSlot ∧ s.ownsSlot fn e.slotB.toNat = false)
  then some (st.slotRange, 0) else none

/-- The context that a keyed stream recorded when it opened: each later part runs the chain check again (R266). -/
def State.streamCtx (s : State) (fn : Nat) (e : Entry) (op : Op) : Option (BitVec 32) :=
  match op with
  | .streamPart | .streamFinal =>
    (s.streamOf fn (e.p 12 4)).bind fun t => if t.keyed ∧ t.ctx ≠ 0 then some t.ctx else none
  | _ => none

/-- Step 9: the contexts of an entry resolve, CTX then the second one (R219, R264, R351). -/
def State.contexts (s : State) (fn : Nat) (e : Entry) (op : Op) : Status × List Nat × List Nat :=
  let first : Status × List Nat :=
    match s.streamCtx fn e op with
    | some h => s.chainCheck h fn
    | none => if ctxMustBeZero e op || (e.ctx = 0 && ctxOptional op) then (st.ok, []) else s.resolve e.ctx fn (ctxNeed e op)
  let own : Bool := op = .invalidate && decide (1 ≤ fn ∧ fn ≤ 64)
    && (match s.keys.scopes.lookup fn with
        | some (i, _) => i = handleIndex e.ctx
        | none => false)
  if first.1 ≠ st.ok then (first.1, [], [])
  else if own then (st.keyPolicy, [], [])
  else match ctx2Of e op with
    | none => (st.ok, first.2, [])
    | some (h, need) =>
      match s.resolve h fn need with
      | (c, chain2) => if c ≠ st.ok then (c, [], [])
                       else if !s.ctx2Ok e op then (st.keyType, [], []) else (st.ok, first.2, chain2)

/-- Step 10: the first slot whose hold cannot be granted (R222, R348, R381). -/
def State.busySlot (s : State) (e : Entry) (op : Op) : Option Nat :=
  let signing : Bool := (op = .cacheSave || op = .cacheLoad)
    && s.jobs.any fun j => (j.op = 0x0402 || j.op = 0x0405) && j.holds.any fun h => h.slot = e.slotA.toNat
  if signing then some e.slotA.toNat
  else ((holdsOf e op).find? fun h => !s.grantable h).map Hold.slot

/-- The address fields and fragment flags of an entry that came over the management link or the manufacturing
port are zero (R165, R481). -/
def linkFields (q : QRef) (e : Entry) : List FieldTest :=
  if q.hasRing then []
  else [(fld.inAddr, decide (e.inAddr ≠ 0)), (fld.outAddr, decide (e.outAddr ≠ 0)), (fld.flags, e.inFt || e.outFt)]

/-- Steps 5 to 10. -/
def State.afterState (s : State) (q : QRef) (e : Entry) (op : Op) (inF outF : List FragEntry) : Admission :=
  let fn := q.fn
  match firstBad (linkFields q e ++ s.fieldTests fn e op) with
  | some c => .ended st.badField (BitVec.ofNat 64 c)
  | none =>
    match s.slotFault fn e with
    | some (c, r) => .ended c r
    | none =>
      let inR := if op = .queueCreate then .ok [] else ranges e.inFt e.inAddr e.inLen.toNat inF
      let outR := if op = .queueCreate then .ok [] else ranges e.outFt e.outAddr e.outLen.toNat outF
      match inR, outR with
      | .bad r i, _ => .ended st.fragTableBad (BitVec.ofNat 64 (r * 2 ^ 32 + i))
      | .unread a, _ => .unread a
      | .ok _, .bad r i => .ended st.fragTableBad (BitVec.ofNat 64 (r * 2 ^ 32 + i))
      | .ok _, .unread a => .unread a
      | .ok ins, .ok outs =>
        match lengthFault e (rangeSum ins) (rangeSum outs) (s.inRule fn e op) (s.outNeed fn e op) with
        | some r => .ended st.lengthMismatch r
        | none =>
          if inUneven e op then
            .ended st.lengthMismatch (lenResult false true (Config.freeNat s.freeCtr))
          else
            match s.contexts fn e op with
            | (c, chain, chain2) =>
              if c ≠ st.ok then .ended c 0
              else match s.busySlot e op with
                | some n => .ended st.slotBusy (BitVec.ofNat 64 n)
                | none => .accepted (holdsOf e op) chain chain2 ins outs

/-- The ten checks of R219, the first that fails ending the job. -/
def State.intake (s : State) (q : QRef) (e : Entry) (inF outF : List FragEntry) : Admission :=
  if s.sessionOk q e = false then .ended st.notAuthorised 0
  else match admittedOp q e with
    | none => .ended st.badOpcode 0
    | some op =>
      match s.unitFault e with
      | some (c, r) => .ended c r
      | none =>
        match s.stateFault q e op with
        | some (c, r) => .ended c r
        | none => s.afterState q e op inF outF

/-- Opcodes that take a stateful index (R281). -/
def isSigner (code : Nat) : Bool := code = 0x0402 || code = 0x0405

/-- RESULT of a signing job that ends before it has taken an index, under a status without a RESULT format of its
own (R281). -/
def signerResult (code : Nat) (status : Status) (r : BitVec 64) : BitVec 64 :=
  let formatted : Bool := status = st.badField || status = st.lengthMismatch || status = st.fragTableBad
    || status = st.slotBusy || status = st.stateRefused || status = st.engineFault
  if isSigner code && !formatted then r ||| 0xFFFFFFFFFFFF else r

end Sys2Proof.Machine
end

