-- ==== Sys2Proof/Machine/JobOps.lean ====
section
/-!
DEFINITION. Machine/JobOps.lean: how a job ends and what its end does: the ending it carries, aborts and stops
(R237), streams (R243), the release of slots and in-flight counts (R227, R229), output and zero-fill (R238), the
completion entry (R187, R188), interrupt moderation (R191), the entropy gate (R225, R444, R445), and fault
counting of units (R486, R494).
-/
namespace Sys2Proof.Machine
open Sys2Proof

/-! ### Endings -/

/-- The job has its status; JOB_COMPLETE writes its completion. The keys its unit held are spoiled there (R229); its
units are free. -/
def Job.finish (j : Job) (status : Status) (result : BitVec 64) (out : Bytes) (cycles : Nat) : Job :=
  { j with phase := .ended, stop := none, key := [], key2 := [], tasks := none, taskUnits := [],
           ending := some { status, result, out := if status = st.ok then out else [], cycles } }

/-- RESULT of a status without a RESULT format of its own: zero, but a signing job carries its index, or all ones
before it has taken one (R281). -/
def Job.plainResult (j : Job) (status : Status) : BitVec 64 :=
  match j.taken with
  | some q => BitVec.ofNat 64 (q % 2 ^ 48)
  | none => signerResult j.op status 0

/-- The job leaves the index-port queue. -/
def State.leavePort (s : State) (id : Nat) : State :=
  s.mapTables fun t => { t with idxQueue := t.idxQueue.filter fun i => i ≠ id }

/-- A job that waited goes on: on its unit, or, where it was paused in its wait, once it is resumed (R233). -/
def Job.awake (j : Job) : JobPhase := if j.unit.isSome then .running else .yielded
def Job.wake (j : Job) : Job := { j with phase := j.awake }

/-- A job waits for a leaf or subtree of the cache that signer `d` uses (R348). -/
def Job.waitsLeaf (j : Job) (d : Option Job) : Bool :=
  j.phase = .waitLeaf && d.any fun x => isSigner x.op && x.entry.slotA = j.entry.slotA

/-- End a job; signers that waited for a leaf or subtree of its cache look again (R348). -/
def State.finish (s : State) (id : Nat) (status : Status) (result : BitVec 64) (out : Bytes) (cycles : Nat) : State :=
  (((s.leavePort id).mapJobs (fun j => j.waitsLeaf (s.job? id)) Job.wake).mapJob id fun j => j.finish status result out cycles)

/-- CYCLES of a security-controller command, for which the spec gives no figure (R235). -/
def Job.scCycles (j : Job) : Nat :=
  Config.cycles j.entry.opcode [j.entry.inLen.toNat, j.entry.outLen.toNat, j.entry.params.toNat]

/-- End a job with a status that has no RESULT format, after `cycles`. -/
def State.fail (s : State) (j : Job) (status : Status) (cycles : Nat) : State :=
  s.finish j.id status (j.plainResult status) [] cycles

/-! ### Streams -/

/-- Spoil and free a stream slot; its generation moves on (R243, R331). -/
def Tables.freeStream (t : Tables) (slot : Nat) : Tables :=
  { t with streams := t.streams.filter fun x => x.slot ≠ slot
           streamGen := t.streamGen.set 0 slot ((t.streamGen.get 0 slot + 1) % 65536) }

/-- Free every stream that satisfies `p`. -/
def Tables.freeStreams (t : Tables) (p : Stream → Bool) : Tables :=
  ((t.streams.filter p).map Stream.slot).foldl Tables.freeStream t

/-- A part that ends without OK frees the stream its handle still names (R243). -/
def State.dropStream (s : State) (j : Job) : State :=
  if j.op = 0x0806 ∨ j.op = 0x0807 then
    match s.streamOf j.fn (j.entry.p 12 4) with
    | some t => s.mapTables fun x => x.freeStream t.slot
    | none => s
  else s

/-! ### CYCLES of the public-input phase -/

/-- The integer `i` of a custom curve set, counting P, A, B, GX, GY (R385). -/
def setInt (b : Bytes) (i : Nat) : Nat := let l := leNat (slice b 6 2); beNat (slice b (16 + i * l) l)

/-- N of a custom curve set. -/
def setOrder (b : Bytes) : Nat := beNat (slice b (16 + 5 * leNat (slice b 6 2)) (leNat (slice b 8 2)))

/-- COFACTOR of a custom curve set. -/
def setCofactor (b : Bytes) : Nat := leNat (slice b 10 1)

/-- 30 × b × w² of R401. -/
def ladder (b : Nat) : Nat := 30 * b * ((b + 127) / 128) ^ 2

/-- The public-input phase on a curve (R401). -/
def State.ecPhase (s : State) (c : Nat) : Nat :=
  match s.curveSet c with
  | some set =>
    let b := bitLen (setInt set 0)
    2000 + (if setCofactor set = 1 then 50 * b else ladder b)
  | none => pick [4000, 6000, 9000, 3000, 7000, 0, 0] c

/-- CYCLES of a RANDOM that has delivered `n` bytes (R450). -/
def randomCycles (n : Nat) (fresh : Bool) : Nat := 100 + 82 * ((n + 15) / 16) + (if fresh then 400 * ((n + 4095) / 4096) else 0)

/-- CYCLES of a job's public-input phase, where the spec gives a figure (R318, R399, R401, R450); else a function of the
public facts (R235). -/
def State.phaseCycles (s : State) (j : Job) : Nat :=
  if j.op = 0x0B01 then 100
  else if j.op = 0x0102 ∨ j.op = 0x0104 then 2000
  else if j.op = 0x0203 then 1200
  else if j.group = 7 then 1000
  else if j.group = 6 ∧ j.op ≠ 0x0610 then s.ecPhase (j.entry.p 0 1)
  else if j.group ≤ 2 ∨ j.group = 5 then Config.cycles j.entry.opcode [j.entry.p 0 1]
  else Config.cycles j.entry.opcode [j.entry.inLen.toNat, j.entry.p 0 2]

/-! ### Aborts and stops (R237) -/

/-- The slots a job leaves spoiled when it is stopped: its scratch slots and those it held exclusively. -/
def Job.spoiledSlots (j : Job) : List Nat := (j.holds.filter fun h => h.excl).map Hold.slot

/-- The scratch slots of a job. -/
def Job.scratch (j : Job) : List Nat := (j.holds.filter fun h => h.scratch).map Hold.slot

/-- Waiting rather than computing: a stop takes effect at once (R233). -/
def Job.waiting (j : Job) : Bool :=
  match j.phase with
  | .running | .ended => false
  | _ => true

/-- The slots a stop spoils: a DMA_FAULT of R155 spoils no persistent slot, but for MCE_KEYGEN, whose rule names every
stop (R366); every other stop spoils those the job held exclusively too (R237). -/
def Job.stopSpoils (j : Job) (status : Status) : List Nat :=
  if status = st.dmaFault ∧ j.op ≠ 0x0501 then j.scratch else j.spoiledSlots

/-- CYCLES of a job stopped where it stands (R235): none for one that waited for an earlier part of its stream, the
public-input phase for one in its entropy wait; else the count at which it stopped, which the spec does not fix. -/
def State.stopCycles (s : State) (j : Job) : Nat :=
  match j.phase with
  | .waitStream => 0
  | .waitEntropy => s.phaseCycles j
  | _ => Config.freeNat s.freeCtr

/-- A job ended under R155 counts as completed for the revocation barrier. -/
def State.uncount (s : State) (j : Job) (status : Status) : State :=
  if status = st.dmaFault then
    (s.mapKeys fun k => (k.lower j.chain).lower j.chain2).mapJob j.id fun x => { x with chain := [], chain2 := [] }
  else s

/-- Stop a job now with a status. -/
def State.stopJob (s : State) (j : Job) (status : Status) : State :=
  ((((s.mapStore fun o => o.spoilAll (j.stopSpoils status)).dropStream j).uncount j status).draw).fail j status (s.stopCycles j)

/-- Order jobs to stop with a status: those that wait stop at once, those that run stop at their next yield point. -/
def State.orderStop (s : State) (p : Job → Bool) (status : Status) : State :=
  let hit := s.jobs.filter fun j => p j && !j.ended
  (hit.filter Job.waiting).foldl (fun s j => s.stopJob j status)
    (s.mapJobs (fun j => p j && j.phase = .running) fun j => { j with stop := some status })

/-- Stop jobs at once, without a yield point (R487, R488). -/
def State.stopNow (s : State) (p : Job → Bool) (status : Status) : State :=
  (s.jobs.filter fun j => p j && !j.ended).foldl (fun s j => s.stopJob j status) s

/-! ### Staging in the HIGH half (R381, R508, R509) -/

/-- IMAGE_LEN of the staged header. -/
def Update.len (u : Update) : Nat := leNat (slice u.header 20 4)

/-- A block cut into 4 KiB pieces with their numbers. -/
def pieces (off : Nat) (data : Bytes) : List (Nat × Bytes) :=
  (List.range ((data.length + 4095) / 4096)).map fun i => (off / 4096 + i, slice data (4096 * i) 4096)

/-- A block repeats a byte already received with another value (R509). -/
def Update.conflicts (u : Update) (l : List (Nat × Bytes)) : Bool :=
  l.any fun p => decide (Sparse.get [] u.image p.1 ≠ []) && Sparse.get [] u.image p.1 ≠ p.2

/-- Stage a block. -/
def Update.stagePieces (u : Update) (l : List (Nat × Bytes)) : Update :=
  { u with image := l.foldl (fun m p => Sparse.insert m p.1 p.2) u.image }

/-- Distinct bytes received. -/
def Update.received (u : Update) : Nat := (u.image.map fun p => p.2.length).sum

/-- The first piece not yet received. -/
def Update.firstGap (u : Update) : Option Nat :=
  (List.range ((u.len + 4095) / 4096)).find? fun k => Sparse.get [] u.image k = []

/-- The staged bytes in order. -/
def Update.staged (u : Update) : Bytes := u.image.flatMap Prod.snd

/-- A PLDM message of the device about a transfer (R527): RequestFirmwareData for the next bytes missing. -/
def State.requestData (s : State) (b : Binding) : State :=
  match s.upd.firstGap with
  | some k => s.pldmSend b 0x15 0 (leBytes 4 (4096 * k) ++ leBytes 4 (min s.mgmt.block (s.upd.len - 4096 * k)))
  | none => s

/-- Staging takes the HIGH half once no HIGH slot has a hold: its slots are spoiled, the header becomes the first image
bytes, and the stage becomes 1 (R381, R508). The UPDATE_BEGIN that waited completes; a PLDM update asks for its data. -/
def State.takeHigh (s : State) : State :=
  let s1 := (s.mapStore fun o => { (o.spoilAll ((o.slots.map Prod.fst).filter o.isHigh)) with lent := true, taking := .nobody }).mapUpd
    fun u => ({ u with stage := .downloading, image := [], restored := false, timerFrom := s.now } : Update).stagePieces (pieces 0 u.header)
  if s.highHeld then s
  else match s.store.taking with
    | .nobody => s
    | .job id =>
      match s.job? id with
      | some j => s1.finish id st.ok 0 [] j.scCycles
      | none => s
    | .pldm b => (s1.pldmSend b 0x14 0 []).requestData b

/-! ### What a job leaves behind -/

/-- Release a job's counts and slots, spoil its scratch slots and forget it; with its holds gone, staging may have the
HIGH half. -/
def State.release (s : State) (j : Job) : State :=
  (((s.mapKeys fun k => (k.lower j.chain).lower j.chain2).mapStore fun o => o.spoilAll j.scratch).dropJob j.id).takeHigh

/-- The log record number a signing job's key has (R281). -/
def State.slogNum (s : State) (j : Job) : Nat :=
  let i := handleIndex j.entry.ctx
  ((s.slogOf i j.crec.gen).map SlogRec.num).getD 0

/-- The INDEX_UNDELIVERED record of a job that ends without a completion while it holds an index (R281). -/
def State.undelivered (s : State) (j : Job) : State :=
  match j.taken with
  | some q => s.logEvent 0x0410 (s.slogNum j * 2 ^ 48 + q % 2 ^ 48)
  | none => s

/-- Jobs that end without a completion: they write nothing further. -/
def State.loseJobs (s : State) (l : List Job) : State :=
  l.foldl (fun s j => (((s.leavePort j.id).dropStream j).mapStore fun o => o.spoilAll j.spoiledSlots).release j) s

/-! ### Completion -/

/-- Cut data into the ranges of a direction. -/
def scatter : List (BitVec 64 × Nat) → Bytes → List (BitVec 64 × Bytes)
  | [], _ => []
  | (a, n) :: rs, d => if d = [] then [] else (a, d.take n) :: scatter rs (d.drop n)

/-- Where a range of `n` bytes is cut so that no request is longer than `m` (R153): offset and length of each piece. -/
def cuts (n m : Nat) : List (Nat × Nat) :=
  (List.range ((n + m - 1) / m)).map fun i => (m * i, min m (n - m * i))

/-- Write data to a job's output ranges, no request longer than Max_Payload_Size (R153). -/
def State.writeOut (s : State) (fn : Nat) (rs : List (BitVec 64 × Nat)) (d : Bytes) : State :=
  (scatter rs d).foldl (fun s p => (cuts p.2.length s.maxPayload).foldl (fun s c =>
    s.tlp (.hostWrite fn (p.1 + BitVec.ofNat 64 c.1) (slice p.2 c.1 c.2))) s) s

/-- Ask for the bytes of ranges of host memory, no request longer than Max_Read_Request_Size (R153). -/
def State.readIn (s : State) (fn : Nat) (rs : List (BitVec 64 × Nat)) : State :=
  rs.foldl (fun s p => (cuts p.2 s.maxRead).foldl (fun s c => s.tlp (.hostRead fn (p.1 + BitVec.ofNat 64 c.1) c.2)) s) s

/-- The 32 bytes of a completion entry (R187). -/
def completionBytes (cmdId status : BitVec 16) (head phase len : Nat) (result : BitVec 64) (cycles : Nat) : Bytes :=
  leBytes 2 cmdId.toNat ++ leBytes 2 status.toNat ++ leBytes 2 head ++ leBytes 1 phase ++ [0] ++ leBytes 4 len
    ++ zeros 4 ++ leBytes 8 result.toNat ++ leBytes 8 cycles

/-- The ring's message is due (R191). -/
def Queue.signals (q : Queue) (status : Status) : Bool :=
  decide (max 1 q.modCount.toNat ≤ q.unsignalled) || q.modTime = 0 || (q.errNow && status ≠ st.ok)

/-- Send the vector's message of a queue and start counting again. -/
def State.signal (s : State) (r : QRef) : State :=
  (s.mapQueue r fun q => { q with unsignalled := 0 }).sendVec r.fn r.vector

/-- The completion entry of a ring queue: written, counted, signalled (R188, R191, R192). -/
def State.postEntry (s : State) (r : QRef) (cmdId : BitVec 16) (e : Ending) : State :=
  let q := s.queue r
  let bytes := completionBytes cmdId e.status q.head (if q.cqWrite < q.m then 1 else 0) e.out.length e.result e.cycles
  let s1 := (s.tlp (.hostWrite r.fn (q.cqBase + BitVec.ofNat 64 (32 * (q.cqWrite % q.m))) bytes)).mapQueue r fun q =>
    { q with cqWrite := (q.cqWrite + 1) % (2 * q.m), cnt := { q.cnt with completed := q.cnt.completed + 1 },
             unsignalled := q.unsignalled + 1 }
  if (s1.queue r).signals e.status then s1.signal r else s1

/-- Completion of a command of any source: a ring entry, an MCTP response with at most 4,096 bytes of output (R165; that
RESULT_LEN counts the bytes sent is log row 94), or the bits MFG_RSP shifts out
(R481). -/
def State.post (s : State) (j : Job) (e : Ending) : State :=
  match j.q with
  | .mgmt => s.mctpSend (if j.viaVdm then .vdm else .i3c) 0x7E
      ([0x1F, 0x6E, 0x02] ++ completionBytes j.entry.cmdId e.status 0 0 (min 4096 e.out.length) e.result e.cycles ++ e.out.take 4096)
  | .tap =>
    let bits := completionBytes j.entry.cmdId e.status 0 0 e.out.length e.result e.cycles
    s.mapFlt fun f => { f with mfgReply := bits }
  | r => s.postEntry r j.entry.cmdId e

/-- ABORT commands that waited for this job end with OK (R236). -/
def State.wakeAborts (s : State) (q : QRef) (cmdId status : BitVec 16) : State :=
  s.mapJobs (fun j => j.phase = .barrier && j.aborts = some (q, cmdId)) fun j =>
    j.finish st.ok (BitVec.ofNat 64 (j.started + 65536 * status.toNat)) [] (Config.cycles j.entry.opcode [j.started])

/-- A part of a stream has left: the oldest part that waits runs on, once no earlier part of the stream is in flight
(R242). The jobs stand in dispatch order. -/
def State.wakeStream (s : State) (stream : Option Nat) : State :=
  match stream with
  | none => s
  | some n =>
    match s.jobs.find? fun k => k.stream = some n with
    | some k => if k.phase = .waitStream then s.mapJob k.id Job.wake else s
    | none => s

/-- RESULT of a guard command that ends with neither STATE_REFUSED nor BAD_FIELD (R133): STATE and FAIL_CODE of its domain as
they are at completion, over the verdict pair or zeros. -/
def State.finalEnding (s : State) (j : Job) (e : Ending) : Ending :=
  if isGuardOp j.op ∧ e.status ≠ st.stateRefused ∧ e.status ≠ st.badField then
    { e with result := s.guardResult (j.entry.p 0 1) (if e.status = st.busyUpdate then 0 else e.result &&& 0xFFFFFFFF#64) }
  else e

/-- SPOIL_AFTER of an ML-KEM DECAPS: its slot is spoiled once the shared secret has been written (R303). -/
def State.spoilAfter (s : State) (j : Job) : State :=
  if j.op = 0x0103 ∧ j.entry.ctx = 0 ∧ j.entry.flag 2 then s.mapStore fun o => o.spoil j.entry.slotA.toNat else s

/-- Write a job's output or zero-fill, then its completion; then the job is gone (R151, R226, R227, R238), and what waited
for it goes on (R236, R242). -/
def State.complete (s : State) (j : Job) (e : Ending) : State :=
  let s1 := if e.status = st.ok then (if j.q.hasRing then s.writeOut j.q.fn j.outFrags e.out else s).spoilAfter j
            else s.writeOut j.q.fn j.outFrags (zeros j.written.length)
  (((s1.post j (s1.finalEnding j e)).release j).wakeStream j.stream).wakeAborts j.q j.entry.cmdId e.status

/-! ### The entropy gate (R225, R444, R445) -/

/-- One generate request of a DRBG instance (R442): it reseeds first with prediction resistance or after 2^20 requests,
with 384 bits of the pool. -/
def State.request (s : State) (inst : Nat) (fresh : Bool) : State :=
  s.mapEnt fun e =>
    let n := e.requests.getD inst 0
    if fresh ∨ 2 ^ 20 ≤ n then { e with requests := e.requests.set inst 1, reseeds := e.reseeds + 1, pool := e.pool - 2 }
    else { e with requests := e.requests.set inst (n + 1) }

/-- The instance that seeds a job's stream: that of its bench, of its group's bench, of bench 0 for the CBU, of its AES
engine (R314, R330, R357, R443). -/
def Job.inst (j : Job) : Nat :=
  let u := j.unit.getD 0
  match j.cls with
  | .bench => u / 8
  | .hash => u / 2
  | .cbu => 0
  | .aes => u
  | .sc => 0

/-- Generate requests that wait on an instance: those of the RANDOM jobs on its engine, which draw request by request while
every other draw is made within one step (R443, R444). -/
def State.pendingReqs (s : State) (n : Nat) : Nat :=
  (s.jobs.filter fun j => j.op = 0x0B01 && !j.ended && j.unit.isSome && j.inst = n).length

/-- The instances with the fewest pending requests (R443). -/
def State.freeInsts (s : State) : List Nat :=
  (List.range 16).filter fun n => (List.range 16).all fun m => decide (s.pendingReqs n ≤ s.pendingReqs m)

/-- A draw of the security controller, on the instance with the fewest pending requests (R443); which among equals is
free. -/
def State.scDraw (s : State) : State :=
  (s.request (s.freeInsts.getD (Config.freeNat s.freeCtr % s.freeInsts.length) 0) false).draw

/-- The stream of a job is seeded, and its one-time values are drawn (R444): one request of its instance. A command of the
security controller draws for itself, and RANDOM draws at each of its requests. -/
def State.seedJob (s : State) (j : Job) : State :=
  (if j.cls = .sc ∨ j.op = 0x0B01 then s else s.request j.inst false).mapJob j.id fun x =>
    { x with phase := if x.phase = .waitEntropy then x.awake else x.phase, seeded := true }

/-- What the DRBGs do with a job that reaches them. -/
inductive Gate where
  | go
  | wait
  | fail
  deriving DecidableEq, Repr

/-- R445; a job whose stream is seeded never asks again (R444). -/
def State.gate (s : State) (j : Job) (needs : Bool) : Gate :=
  if !needs || j.seeded then .go
  else match s.ent.state with
    | .ready => .go
    | .starting => .wait
    | _ => .fail

/-- The state a body sees once the gate lets it go: its stream is seeded now, unless it needs none or has it (R444). -/
def State.seeding (s : State) (j : Job) (op : Op) : State :=
  if s.needsEntropy j.q.fn j.entry op = true ∧ j.seeded = false then s.seedJob j else s

/-- Run the body of a job whose public phase has passed: at once when it needs no entropy or its stream is seeded
now, else it waits or ends with ENTROPY_FAIL and the CYCLES of its public phase. -/
def State.gated (s : State) (j : Job) (op : Op) (pub : Nat) (body : State → Job → State) : State :=
  match s.gate j (s.needsEntropy j.q.fn j.entry op) with
  | .wait => s.mapJob j.id fun x => { x with phase := .waitEntropy, waitFrom := s.now }
  | .fail => (s.dropStream j).fail j st.entropyFail pub
  | .go => body (s.seeding j op) { j with seeded := true }

/-- A job row acts only on a running job of its own opcode whose input has the length it declared, and is the one that
came with an entry of the management link or the manufacturing port (log row 7). -/
def State.runOp (s : State) (id : Nat) (op : Op) (inp : Bytes) (run : State → Job → State) : State :=
  match s.job? id with
  | some j =>
    if j.op = opCode op ∧ j.phase = .running ∧ j.stop = none ∧ inp.length = j.entry.inLen.toNat ∧ (j.q.hasRing ∨ inp = j.linkIn)
    then run s j else s
  | none => s

/-- The same for a command without input. -/
def State.runCmd (s : State) (id : Nat) (op : Op) (run : State → Job → State) : State := s.runOp id op [] run

/-- End a job with OK. -/
def State.done (s : State) (j : Job) (result : Nat) (out : Bytes) (cycles : Nat) : State :=
  s.finish j.id st.ok (BitVec.ofNat 64 result) out cycles

/-- End a job with a status and a RESULT of its own. -/
def State.endWith (s : State) (j : Job) (status : Status) (result : Nat) (cycles : Nat) : State :=
  s.finish j.id status (BitVec.ofNat 64 result) [] cycles

/-- End a job with a verdict: OK and the true pair, or `bad` and the false pair (R240). -/
def State.verdict (s : State) (j : Job) (good : Bool) (bad : Status) (cycles : Nat) : State :=
  if good then s.finish j.id st.ok pairTrue [] cycles else s.finish j.id bad pairFalse [] cycles

/-! ### Units -/

/-- The lane engine of bench ⌊g/2⌋ that a job takes beside hash group `g` for its steps off the tree: the ML-DSA signature
of a batch seal (R230, R354); none where no lane engine of the bench is idle. -/
def State.laneBeside (s : State) (j : Job) (g : Nat) : Option Nat :=
  if j.group = 0x0C ∧ j.entry.p 5 1 ≠ 2 then (s.idleLanes (g / 2)).head? else none

/-- The state memory of one hash group's treehash sequencer (R322): 128 KiB. -/
def treehashBytes : Nat := 128 * 1024

/-- What the state memory of a hash group holds (R322, R335): the working state of the job that has the group, for itself or
for a subtree task; none when no job has it. No rule gives that state a layout or lets a command read it. -/
def State.groupMemory (s : State) (g : Nat) : Option Nat :=
  (s.jobs.find? fun j => !j.ended && ((j.cls = .hash && j.unit = some g) || j.taskUnits.contains g)).map Job.id

/-- The class of R485 that counts a job's ENGINE_FAULT, its object, and the UNIT word. -/
def Job.faultClass (j : Job) : Nat × Nat × Nat :=
  let u := j.unit.getD 0
  match j.cls with
  | .bench => if needsMac j.group then (8, u / 8, unitWord 3 (u / 8)) else (7, u, unitWord 1 u)
  | .hash => (12, u, unitWord 8 u)
  | .cbu => (9, 0, unitWord 4 0)
  | .aes => (10, u, unitWord 5 u)
  | .sc => (13, 0, unitWord 9 0)

/-- Drop the unit of a class (R494). -/
def Faults.drop (f : Faults) (cls obj : Nat) : Faults :=
  let add (n : Nat) (l : List Nat) : List Nat := if l.contains n then l else n :: l
  match cls with
  | 6 => { f with cores := add obj f.cores }
  | 7 => { f with lanes := add obj f.lanes }
  | 8 => { f with macs := add obj f.macs }
  | 9 => { f with cbu := true }
  | 10 => { f with aes := add obj f.aes }
  | 12 => { f with cores := (List.range 16).foldl (fun l i => add (16 * obj + i) l) f.cores }
  | _ => f

/-- A unit is dropped: FLT_EVT.UNIT_DROPPED and its record (R494, R532). -/
def State.dropUnit (s : State) (cls obj unit : Nat) : State :=
  ((s.mapFlt fun f => f.drop cls obj).log 0x0702 1 cls unit 0).setFlt 7

/-- Jobs that a dropped unit was running move at their next yield point: the unit is not theirs (R494). -/
def State.unitDown (s : State) (c : UnitClass) (u : Nat) : Bool := !(s.unitsUp c).contains u

end Sys2Proof.Machine
end

