-- ==== Sys2Proof/Machine/BlobOps.lean ====
section
/-!
DEFINITION. Machine/BlobOps.lean: key blobs (R277, R278): the header, the wrapping under AES-256-KWP, and the checks a
job makes before it unwraps one (R368, R398).
-/
namespace Sys2Proof.Machine
open Sys2Proof

/-- The 32 header bytes of a blob: KIND, TYPE, POLICY, KEY_LEN, LABEL (R277). -/
def blobHeader (kind type policy keyLen label : Nat) : Bytes :=
  leBytes 4 0x4B425850 ++ leBytes 2 1 ++ byte kind ++ byte type ++ leBytes 4 policy ++ leBytes 4 keyLen
    ++ leBytes 6 label ++ zeros 10

/-- The header over a context's record. -/
def Ctx.blobHeader (c : Ctx) (kind keyLen : Nat) : Bytes :=
  Sys2Proof.Machine.blobHeader kind c.type c.policy.toNat keyLen c.label.toNat

/-- KEK of a blob. -/
def blobKek (kw header : Bytes) : Bytes := Config.kmac256 kw header 32 (Config.ascii "PETHAL-KB1")

/-- A whole blob of a secret under the wrapping key. -/
def makeBlob (kw header secret : Bytes) : Bytes :=
  header ++ kwpWrap (blobKek kw header) secret

/-- What a blob's header fails, if anything (R368): MAGIC, FORMAT, KIND 1 and RSVD with DECODE_FAIL; KEY_LEN, TYPE,
POLICY and LABEL against the context with KEY_TYPE. -/
def blobFault (c : Ctx) (keyLen : Nat) (b : Bytes) : Option Status :=
  let h := b.take 32
  if slice h 0 7 ≠ leBytes 4 0x4B425850 ++ leBytes 2 1 ++ byte 1 ∨ slice h 22 10 ≠ zeros 10 then some st.decodeFail
  else if h ≠ c.blobHeader 1 keyLen then some st.keyType
  else none

/-- What the wrapped part of a blob holds under the wrapping key, where it verifies and has the length KEY_LEN (R278). -/
def blobOpen (kw b : Bytes) : Option Bytes :=
  (kwpUnwrap (blobKek kw (b.take 32)) (b.drop 32)).filter fun x => decide (x.length = leNat (slice b 12 4))

/-- The wrapped part verifies. -/
def blobOk (kw b : Bytes) : Bool := (blobOpen kw b).isSome

/-- The secret of a blob that verifies. -/
def blobSecret (kw b : Bytes) : Bytes := (blobOpen kw b).getD []

end Sys2Proof.Machine
end

