-- ==== Sys2Proof/Machine/LatticeCmds.lean ====
section
/-!
DEFINITION. Machine/LatticeCmds.lean: ML-KEM and ML-DSA (chapter 08): keys, checks, RESULTs and CYCLES of R298 to R318 over
the functions of Lattices.lean.
-/
namespace Sys2Proof.Machine
open Sys2Proof

/-! ### Seeds and counts -/

/-- PSET of an entry. -/
def Job.pset (j : Job) : Nat := j.entry.p 0 1

/-- d and z of a context key (R299). -/
def mlkemSeed (key : Bytes) (p : Nat) : Bytes :=
  Config.kmac256 key (Config.ascii "ML-KEM" ++ byte p) 64 (Config.ascii "PETHAL-SEED")

/-- ξ of a context key (R299). -/
def mldsaSeed (key : Bytes) (p : Nat) : Bytes :=
  Config.kmac256 key (Config.ascii "ML-DSA" ++ byte p) 32 (Config.ascii "PETHAL-SEED")

/-- The encapsulation and decapsulation keys of ML-KEM.KeyGen_internal. -/
def mlkemEk (p : Nat) (d z : Bytes) : Bytes := (kemKeys p d z).1
def mlkemDk (p : Nat) (d z : Bytes) : Bytes := (kemKeys p d z).2

/-- The key pair of ML-DSA.KeyGen_internal. -/
def mldsaPk (p : Nat) (xi : Bytes) : Bytes := (dsaKeys p xi).1
def mldsaSk (p : Nat) (xi : Bytes) : Bytes := (dsaKeys p xi).2

/-- ML-DSA.Sign over μ with a key's seed: the iterations run and the signature, none at the bound of 1,000 (R312). -/
def mldsaSign (p : Nat) (xi rnd : Bytes) (mode ph : Nat) (ctx msg : Bytes) : Nat × Option Bytes :=
  dsaSign p (mldsaSk p xi) rnd (dsaMu mode ph (mldsaPk p xi) ctx msg)

/-- The fixed counts A of R317. -/
def mlkemKeyCycles : Nat → Nat := pick [120500, 186200, 292600]
def mlkemEncCycles : Nat → Nat := pick [89000, 136500, 215600]
def mlkemDecCycles : Nat → Nat := pick [146300, 227600, 365700]
def mldsaKeyCycles : Nat → Nat := pick [98000, 156000, 231000]
def mldsaSignCycles : Nat → Nat := pick [75000, 95000, 130000]
def mldsaIterCycles : Nat → Nat := pick [60100, 81800, 170800]
def mldsaVerifyCycles : Nat → Nat := pick [107400, 170150, 268800]

/-- B of R317 for a message form of `n` bytes: M' adds 2 bytes, and the identifier of 11 in mode 1. -/
def muBlocks (mode n : Nat) : Nat :=
  if mode = 2 then 0 else (64 + 2 + (if mode = 1 then 11 else 0) + n) / 136 + 1

/-! ### The modulus check (R304) -/

/-- The 12-bit coefficients of an encoding (FIPS 203 ByteDecode12). -/
def coeffs12 : Bytes → List Nat
  | a :: b :: c :: l => (a.toNat + 256 * (b.toNat % 16)) :: (b.toNat / 16 + 16 * c.toNat) :: coeffs12 l
  | _ => []

/-- The index of the first coefficient of ek that is not below 3,329; `k` is the module rank, PSET + 1. -/
def badCoeff (p : Nat) (ek : Bytes) : Option Nat :=
  let l := coeffs12 (ek.take (384 * (p + 1)))
  let i := l.findIdx fun c => decide (3329 ≤ c)
  if i < l.length then some i else none

/-! ### Group 0x01 -/

/-- KEYGEN: a context's ek, or an ephemeral key whose dk fills SLOT_A (R299, R300). -/
def execMlkemKeygen (j : Nat) (s : State) : Host.Outcome State Fault Refusal :=
  .next (s.runCmd j .mlkemKeygen fun s j =>
    s.gated j .mlkemKeygen (s.phaseCycles j) fun s j =>
      let p := j.pset
      if j.entry.ctx = 0 then
        let seed := s.freeNow 64
        let s1 := s.draw.mapStore fun o =>
          o.write j.entry.slotA.toNat (.mlkem p) (mlkemDk p (slice seed 0 32) (slice seed 32 32))
        s1.done j p (mlkemEk p (slice seed 0 32) (slice seed 32 32)) (mlkemKeyCycles p)
      else
        let seed := mlkemSeed j.key p
        s.done j p (mlkemEk p (slice seed 0 32) (slice seed 32 32)) (mlkemKeyCycles p))

/-- Ciphertext and shared secret of an encapsulation. -/
def mlkemEnc (p : Nat) (ek m : Bytes) : Bytes := (kemEncaps p ek m).1 ++ (kemEncaps p ek m).2

/-- ENCAPS: the modulus check, then the encapsulation with m from the DRBG (R302, R304). -/
def execMlkemEncaps (j : Nat) (inp : Bytes) (s : State) : Host.Outcome State Fault Refusal :=
  .next (s.runOp j .mlkemEncaps inp fun s j =>
    match badCoeff j.pset inp with
    | some i => s.endWith j st.operandRange i 2000
    | none => s.gated j .mlkemEncaps 2000 fun s j =>
        s.draw.done j j.pset (mlkemEnc j.pset inp (s.freeNow 32)) (mlkemEncCycles j.pset))

/-- DECAPS: always the whole of Decaps_internal; which key it wrote is not reported (R305). A slot that is not tagged
with ML-KEM of the PSET ends it with KEY_TYPE (R300). SPOIL_AFTER acts once K is written (State.spoilAfter, R303). -/
def execMlkemDecaps (j : Nat) (inp : Bytes) (s : State) : Host.Outcome State Fault Refusal :=
  .next (s.runOp j .mlkemDecaps inp fun s j =>
    let p := j.pset
    let slot := s.store.slot j.entry.slotA.toNat
    if j.entry.ctx = 0 ∧ slot.tag ≠ .mlkem p then s.fail j st.keyType (s.phaseCycles j)
    else s.gated j .mlkemDecaps (s.phaseCycles j) fun s j =>
      let seed := mlkemSeed j.key p
      let dk := if j.entry.ctx = 0 then slot.content else mlkemDk p (slice seed 0 32) (slice seed 32 32)
      s.done j p (kemDecaps p dk inp) (mlkemDecCycles p))

/-- ENCAPS_INTERNAL: ek ‖ m (R302). -/
def execMlkemEncapsInternal (j : Nat) (inp : Bytes) (s : State) : Host.Outcome State Fault Refusal :=
  .next (s.runOp j .mlkemEncapsInternal inp fun s j =>
    let ek := inp.take (mlkemEkLen j.pset)
    match badCoeff j.pset ek with
    | some i => s.endWith j st.operandRange i 2000
    | none => s.done j j.pset (mlkemEnc j.pset ek (inp.drop (mlkemEkLen j.pset))) (mlkemEncCycles j.pset))

/-- KEYGEN_INTERNAL: d ‖ z to ek ‖ dk (R302). -/
def execMlkemKeygenInternal (j : Nat) (inp : Bytes) (s : State) : Host.Outcome State Fault Refusal :=
  .next (s.runOp j .mlkemKeygenInternal inp fun s j =>
    let d := slice inp 0 32
    let z := slice inp 32 32
    s.done j j.pset (mlkemEk j.pset d z ++ mlkemDk j.pset d z) (mlkemKeyCycles j.pset))

/-! ### Group 0x02 -/

/-- KEYGEN of a context (R307, R312). -/
def execMldsaKeygen (j : Nat) (s : State) : Host.Outcome State Fault Refusal :=
  .next (s.runCmd j .mldsaKeygen fun s j =>
    s.gated j .mldsaKeygen (s.phaseCycles j) fun s j =>
      s.done j j.pset (mldsaPk j.pset (mldsaSeed j.key j.pset)) (mldsaKeyCycles j.pset))

/-- The context string and the message of a message form (R309). -/
def formCtx (e : Entry) (form : Bytes) : Bytes := form.take (e.p 2 1)
def formMsg (e : Entry) (form : Bytes) : Bytes := form.drop (e.p 2 1)

/-- SIGN: the rejection loop, bounded at 1,000 iterations (R312). -/
def execMldsaSign (j : Nat) (inp : Bytes) (s : State) : Host.Outcome State Fault Refusal :=
  .next (s.runOp j .mldsaSign inp fun s j =>
    s.gated j .mldsaSign (s.phaseCycles j) fun s j =>
      let p := j.pset
      let det := j.entry.flag 2
      let rnd := if det then zeros 32 else s.freeNow 32
      let sig := mldsaSign p (mldsaSeed j.key p) rnd (j.entry.p 1 1) (j.entry.p 3 1) (formCtx j.entry inp) (formMsg j.entry inp)
      let s1 := if det then s else s.draw
      let cycles (i : Nat) : Nat := mldsaSignCycles p + 32 * muBlocks (j.entry.p 1 1) inp.length + mldsaIterCycles p * i
      match sig.2 with
      | none => s1.endWith j st.engineFault 1000 (cycles 1000)
      | some x => s1.done j (sig.1 + 65536 * p) x (cycles sig.1))

/-- VERIFY (R311). -/
def execMldsaVerify (j : Nat) (inp : Bytes) (s : State) : Host.Outcome State Fault Refusal :=
  .next (s.runOp j .mldsaVerify inp fun s j =>
    let p := j.pset
    let pkLen := if j.entry.ctx = 0 then mldsaPkLen p else 0
    let pk := if j.entry.ctx = 0 then inp.take pkLen else mldsaPk p (mldsaSeed j.key p)
    let sig := slice inp pkLen (mldsaSigLen p)
    let form := inp.drop (pkLen + mldsaSigLen p)
    let t := if j.entry.ctx = 0 then pkLen / 136 + 1 else 0
    if !hintOk p sig then s.endWith j st.decodeFail 0 1200
    else
      s.verdict j (mldsaOk p (j.entry.p 1 1) (j.entry.p 3 1) pk (formCtx j.entry form) (formMsg j.entry form) sig)
        st.verifyFalse (mldsaVerifyCycles p + 32 * muBlocks (j.entry.p 1 1) form.length + 32 * t))

/-- KEYGEN_INTERNAL: ξ to pk ‖ sk. -/
def execMldsaKeygenInternal (j : Nat) (inp : Bytes) (s : State) : Host.Outcome State Fault Refusal :=
  .next (s.runOp j .mldsaKeygenInternal inp fun s j =>
    s.done j j.pset (mldsaPk j.pset inp ++ mldsaSk j.pset inp) (mldsaKeyCycles j.pset))

end Sys2Proof.Machine
end

