-- ==== Sys2Proof/Machine/HashCmds.lean ====
section
/-!
DEFINITION. Machine/HashCmds.lean: the hash fabric (chapter 09): hash and MAC jobs with the step counts of R323 and R332,
streams (R242 to R244, R331), SLH-DSA (R333 to R339), LMS and XMSS with their tree caches, the index port and the
reservation log (R279 to R282, R340 to R350), and the batch seal (R351 to R354).
-/
namespace Sys2Proof.Machine
open Sys2Proof

/-! ### Steps of a hash job (R323, R332) -/

/-- Block or rate of an ALG in bytes. -/
def hashRate : Nat → Nat := pick [64, 128, 128, 136, 104, 72, 168, 136]

/-- Cycles of one step of an ALG (R323). -/
def stepCycles : Nat → Nat := pick [16, 20, 20, 12, 12, 12, 12, 12]

/-- Steps that absorb `n` bytes with the standard's padding. -/
def absorbSteps (alg n : Nat) : Nat :=
  if alg = 1 then (n + 72) / 64 else if alg ≤ 3 then (n + 144) / 128 else n / hashRate alg + 1

/-- Permutations that squeeze beyond the first block of output. -/
def squeezeSteps (alg out : Nat) : Nat := if alg ≤ 3 then 0 else (out + hashRate alg - 1) / hashRate alg - 1

/-- Bytes of a minimal big-endian integer of SP 800-185, at least one. -/
def encBytes (x : Nat) : Nat := if x = 0 then 1 else Nat.log2 x / 8 + 1

/-- Bytes of encode_string for a string of `n` bytes. -/
def encLen (n : Nat) : Nat := 1 + encBytes (8 * n) + n

/-- Blocks of bytepad over `n` bytes. -/
def padBlocks (alg n : Nat) : Nat := (2 + n + hashRate alg - 1) / hashRate alg

/-- Blocks of the cSHAKE prefix; none when both strings are empty. -/
def cshakePrefix (alg nameLen customLen : Nat) : Nat :=
  if nameLen = 0 ∧ customLen = 0 then 0 else padBlocks alg (encLen nameLen + encLen customLen)

/-- Steps of KMAC before its message: the prefix of the name "KMAC" and the padded key. -/
def kmacHead (alg customLen keyLen : Nat) : Nat := padBlocks alg (encLen 4 + encLen customLen) + padBlocks alg (encLen keyLen)

/-- Bytes of right_encode(L); L is 0 for the XOF forms. -/
def rightLen (xof : Bool) (out : Nat) : Nat := 1 + encBytes (if xof then 0 else 8 * out)

/-- Steps of HMAC before its message: a key longer than the block is hashed, then the inner pad. -/
def hmacHead (alg keyLen : Nat) : Nat := (if hashRate alg < keyLen then absorbSteps alg keyLen else 0) + 1

/-- Steps of HMAC's outer hash. -/
def hmacTail (alg : Nat) : Nat := 1 + absorbSteps alg (Config.digestLen alg)

/-- Full blocks that the message bytes from `a` on fill as they arrive. -/
def fullSteps (alg a n : Nat) : Nat := (a + n) / hashRate alg - a / hashRate alg

/-- CYCLES of a group 0x08 job; each step of a keyed job counts four times (R323, R330, R332). -/
def hashCycles (alg steps : Nat) (masked : Bool) : Nat := 40 + steps * stepCycles alg * (if masked then 4 else 1)

/-! ### Values -/

/-- A digest or XOF output. -/
def hashOut (alg n : Nat) (m : Bytes) : Bytes := Config.hashOf alg m n

def cshakeOut (alg n : Nat) (name custom m : Bytes) : Bytes :=
  Config.cshakeOf alg name custom m n

/-- KMAC, or its XOF form, in which the output length does not enter (SP 800-185). -/
def kmacOut (alg n : Nat) (xof : Bool) (key custom m : Bytes) : Bytes :=
  Config.kmacOf alg xof key custom m n

def hmacOut (alg n : Nat) (key m : Bytes) : Bytes := (Config.hmacOf alg key m).take n

/-- The value of a finished hash or MAC of a KIND. -/
def kindOut (kind alg n : Nat) (xof : Bool) (key name custom m : Bytes) : Bytes :=
  match kind with
  | 0 => hashOut alg n m
  | 1 => cshakeOut alg n name custom m
  | 2 => kmacOut alg n xof key custom m
  | _ => hmacOut alg n key m

/-- Output bytes of a job of a KIND: the digest, TAG_LEN, or OUT_LEN (R328). -/
def outBytes (kind alg : Nat) (e : Entry) : Nat :=
  if e.flag 2 then e.p 8 2
  else if kind = 3 then (if e.p 8 2 = 0 then Config.digestLen alg else e.p 8 2)
  else if kind = 0 ∧ alg ≤ 6 then Config.digestLen alg
  else e.outLen.toNat

/-- End a job with its output, or with CHECK with the verdict on the expected tag (R328, R329). -/
def State.endHash (s : State) (j : Job) (alg : Nat) (out tag : Bytes) (cycles : Nat) : State :=
  if j.entry.flag 2 then s.verdict j (out = tag) st.verifyFalse cycles else s.done j alg out cycles

/-- The expected tag at the end of an input with CHECK. -/
def tagOf (e : Entry) (inp : Bytes) : Bytes := if e.flag 2 then inp.drop (inp.length - e.p 8 2) else []

/-- The input without it. -/
def bodyOf (e : Entry) (inp : Bytes) : Bytes := if e.flag 2 then inp.take (inp.length - e.p 8 2) else inp

/-- The key of a keyed job and the rest of its input (R330). -/
def Job.keyed (j : Job) (inp : Bytes) : Bytes × Bytes :=
  if j.entry.ctx = 0 then (inp.take (j.entry.p 6 2), inp.drop (j.entry.p 6 2)) else (j.key, inp)

/-! ### One-shot jobs -/

def execHash (j : Nat) (inp : Bytes) (s : State) : Host.Outcome State Fault Refusal :=
  .next (s.runOp j .hash inp fun s j =>
    let alg := j.entry.p 0 1
    let n := outBytes 0 alg { j.entry with flags := 0 }
    s.done j alg (hashOut alg n inp) (hashCycles alg (absorbSteps alg inp.length + squeezeSteps alg n) false))

/-- CSHAKE: N ‖ S ‖ message. -/
def execCshake (j : Nat) (inp : Bytes) (s : State) : Host.Outcome State Fault Refusal :=
  .next (s.runOp j .cshake inp fun s j =>
    let e := j.entry
    let alg := e.p 0 1
    let m := inp.drop (e.p 2 2 + e.p 4 2)
    let n := e.outLen.toNat
    s.done j alg (cshakeOut alg n (inp.take (e.p 2 2)) (slice inp (e.p 2 2) (e.p 4 2)) m)
      (hashCycles alg (cshakePrefix alg (e.p 2 2) (e.p 4 2) + absorbSteps alg m.length + squeezeSteps alg n) false))

/-- KMAC: [key] ‖ S ‖ message ‖ [tag]. -/
def execKmac (j : Nat) (inp : Bytes) (s : State) : Host.Outcome State Fault Refusal :=
  .next (s.runOp j .kmac inp fun s j =>
    s.gated j .kmac (s.phaseCycles j) fun s j =>
      let e := j.entry
      let alg := e.p 0 1
      let xof := e.flag 3
      let (key, rest) := j.keyed (bodyOf e inp)
      let m := rest.drop (e.p 4 2)
      let n := outBytes 2 alg e
      s.endHash j alg (kmacOut alg n xof key (rest.take (e.p 4 2)) m) (tagOf e inp)
        (hashCycles alg (kmacHead alg (e.p 4 2) key.length + absorbSteps alg (m.length + rightLen xof n) + squeezeSteps alg n) true))

/-- HMAC: [key] ‖ message ‖ [tag]. -/
def execHmac (j : Nat) (inp : Bytes) (s : State) : Host.Outcome State Fault Refusal :=
  .next (s.runOp j .hmac inp fun s j =>
    s.gated j .hmac (s.phaseCycles j) fun s j =>
      let e := j.entry
      let alg := e.p 0 1
      let (key, m) := j.keyed (bodyOf e inp)
      s.endHash j alg (hmacOut alg (outBytes 3 alg e) key m) (tagOf e inp)
        (hashCycles alg (hmacHead alg key.length + absorbSteps alg m.length + hmacTail alg) true))

/-! ### Streams -/

/-- The handle of a stream slot: its number and generation (R331). -/
def Tables.streamHandle (t : Tables) (slot : Nat) : Nat := slot + 65536 * t.streamGen.get 0 slot

/-- The lowest stream slot not in use. -/
def Tables.freeSlot (t : Tables) : Option Nat :=
  (List.range (min 65536 (t.streams.length + 1))).find? fun n => !(t.streams.any fun x => x.slot = n)

/-- Steps an opening runs: the prefix of cSHAKE, the prefix and key of KMAC, the key and inner pad of HMAC. -/
def openSteps (kind alg nameLen customLen keyLen : Nat) : Nat :=
  match kind with
  | 0 => 0
  | 1 => cshakePrefix alg nameLen customLen
  | 2 => kmacHead alg customLen keyLen
  | _ => hmacHead alg keyLen

/-- STREAM_OPEN: [key] ‖ [N] ‖ [S]; the handle is in RESULT (R244, R331). -/
def execStreamOpen (j : Nat) (inp : Bytes) (s : State) : Host.Outcome State Fault Refusal :=
  .next (s.runOp j .streamOpen inp fun s j =>
    s.gated j .streamOpen (s.phaseCycles j) fun s j =>
      let e := j.entry
      let kind := e.p 1 1
      let alg := e.p 0 1
      let keyed : Bool := decide (2 ≤ kind)
      let (key, rest) := if keyed then j.keyed inp else ([], inp)
      match s.tables.freeSlot with
      | none => s.endWith j st.slotBusy 0xFFFF (s.phaseCycles j)
      | some n =>
        let t : Stream := { slot := n, fn := j.fn, kind, alg, ctx := e.ctx, keyed, key, name := rest.take (e.p 2 2),
                            custom := rest.drop (e.p 2 2), total := e.p 16 8, absorbed := 0, data := [] }
        (s.mapTables fun x => { x with streams := t :: x.streams }).done j (s.tables.streamHandle n) []
          (hashCycles alg (openSteps kind alg (e.p 2 2) (e.p 4 2) key.length) keyed))

/-- Change a stream. -/
def Tables.setStream (t : Tables) (x : Stream) : Tables :=
  { t with streams := t.streams.map fun y => if y.slot = x.slot then x else y }

/-- A part of a stream whose handle still names it, with the offset it continues from (R243); a handle whose stream was
freed meanwhile is stale (R242). -/
def State.onStream (s : State) (j : Job) (run : State → Stream → State) : State :=
  match s.streamOf j.fn (j.entry.p 12 4) with
  | none => s.endWith j st.badField 12 (s.phaseCycles j)
  | some t =>
    if j.entry.p 16 8 ≠ t.absorbed then s.finish j.id st.lengthMismatch (BitVec.ofNat 64 (t.absorbed % 2 ^ 32)) [] (s.phaseCycles j)
    else run s t

/-- STREAM_PART. -/
def execStreamPart (j : Nat) (inp : Bytes) (s : State) : Host.Outcome State Fault Refusal :=
  .next (s.runOp j .streamPart inp fun s j =>
    s.gated j .streamPart (s.phaseCycles j) fun s j =>
      s.onStream j fun s t =>
        (s.mapTables fun x => x.setStream { t with absorbed := t.absorbed + inp.length, data := t.data ++ inp }).done j 0 []
          (hashCycles t.alg (fullSteps t.alg t.absorbed inp.length) t.keyed))

/-- Steps of a final part. -/
def finalSteps (t : Stream) (n out : Nat) (xof : Bool) : Nat :=
  let total := t.absorbed + n + (if t.kind = 2 then rightLen xof out else 0)
  absorbSteps t.alg total - t.absorbed / hashRate t.alg
    + (if t.kind = 3 then hmacTail t.alg else squeezeSteps t.alg out)

/-- STREAM_FINAL: DISCARD frees the slot and does nothing else (R331); a total other than the one declared ends with
LENGTH_MISMATCH (R243); else the value of the whole message. The slot is freed. -/
def execStreamFinal (j : Nat) (inp : Bytes) (s : State) : Host.Outcome State Fault Refusal :=
  .next (s.runOp j .streamFinal inp fun s j =>
    s.gated j .streamFinal (s.phaseCycles j) fun s j =>
      let e := j.entry
      match e.flag 4, s.streamOf j.fn (e.p 12 4) with
      | true, some t => (s.mapTables fun x => x.freeStream t.slot).done j t.alg [] (hashCycles t.alg 0 t.keyed)
      | _, _ =>
        s.onStream j fun s t =>
          let m := bodyOf e inp
          let total := t.absorbed + m.length
          let n := outBytes t.kind t.alg e
          let xof := e.flag 3
          let cycles := hashCycles t.alg (finalSteps t m.length n xof) t.keyed
          let s1 := s.mapTables fun x => x.freeStream t.slot
          if total ≠ t.total then s1.finish j.id st.lengthMismatch (BitVec.ofNat 64 (total % 2 ^ 32)) [] cycles
          else s1.endHash j t.alg (kindOut t.kind t.alg n xof t.key t.name t.custom (t.data ++ m)) (tagOf e inp) cycles)

/-! ### SLH-DSA -/

/-- SK.seed ‖ SK.prf ‖ PK.seed of a context key (R334). -/
def slhSeed (key : Bytes) (p : Nat) : Bytes :=
  Config.kmac256 key (Config.ascii "SLH-DSA" ++ byte p) (3 * slhN p) (Config.ascii "PETHAL-SEED")

/-- The key pair of slh_keygen_internal. -/
def slhPk (p : Nat) (seed : Bytes) : Bytes :=
  seed.drop (2 * slhN p) ++ slhRoot p (seed.take (slhN p)) (seed.drop (2 * slhN p))
def slhSk (p : Nat) (seed : Bytes) : Bytes := seed.take (2 * slhN p) ++ slhPk p seed

/-- CYCLES of a group 0x03 job: PSET, MODE, CTX_LEN and the length of the message form (R339). -/
def Job.slhCycles (j : Job) (form : Nat) : Nat := Config.cycles j.entry.opcode [j.pset, j.entry.p 1 1, j.entry.p 2 1, form]

def execSlhdsaKeygen (j : Nat) (s : State) : Host.Outcome State Fault Refusal :=
  .next (s.runCmd j .slhKeygen fun s j =>
    s.gated j .slhKeygen (s.phaseCycles j) fun s j =>
      s.done j j.pset (slhPk j.pset (slhSeed j.key j.pset)) (j.slhCycles 0))

/-- A signature over M′ with its opt_rand (R336). -/
def slhSig (p : Nat) (seed rand m : Bytes) : Bytes :=
  let n := slhN p
  slhSign p (seed.take n) (slice seed n n) (seed.drop (2 * n)) ((slhPk p seed).drop n) rand m

/-- SIGN: opt_rand is PK.seed when DETERMINISTIC, else n bytes from the DRBG. -/
def execSlhdsaSign (j : Nat) (inp : Bytes) (s : State) : Host.Outcome State Fault Refusal :=
  .next (s.runOp j .slhSign inp fun s j =>
    s.gated j .slhSign (s.phaseCycles j) fun s j =>
      let p := j.pset
      let seed := slhSeed j.key p
      let det := j.entry.flag 2
      let rand := if det then seed.drop (2 * slhN p) else s.freeNow (slhN p)
      (if det then s else s.draw).done j p (slhSig p seed rand (dsaMessage (j.entry.p 1 1) (j.entry.p 3 1) (formCtx j.entry inp) (formMsg j.entry inp)))
        (j.slhCycles inp.length))

/-- VERIFY: every string of the right length decodes (R337). -/
def execSlhdsaVerify (j : Nat) (inp : Bytes) (s : State) : Host.Outcome State Fault Refusal :=
  .next (s.runOp j .slhVerify inp fun s j =>
    let p := j.pset
    let e := j.entry
    let pkLen := if e.ctx = 0 then 2 * slhN p else 0
    let pk := if e.ctx = 0 then inp.take pkLen else slhPk p (slhSeed j.key p)
    let form := inp.drop (pkLen + slhSigLen p)
    s.verdict j (slhOk p (e.p 1 1) (e.p 3 1) pk (formCtx e form) (formMsg e form) (slice inp pkLen (slhSigLen p)))
      st.verifyFalse (j.slhCycles form.length))

def execSlhdsaKeygenInternal (j : Nat) (inp : Bytes) (s : State) : Host.Outcome State Fault Refusal :=
  .next (s.runOp j .slhKeygenInternal inp fun s j =>
    s.done j j.pset (slhPk j.pset inp ++ slhSk j.pset inp) (j.slhCycles 0))

/-! ### LMS and XMSS trees (R340, R341, R345) -/

/-- What names a stateful tree: the scheme, TYPE and OTS_TYPE. -/
structure TreeKind where
  xmss : Bool
  type : Nat
  ots  : Nat
  deriving DecidableEq, Repr

def TreeKind.h (k : TreeKind) : Nat := treeH k.xmss k.type
def TreeKind.n (k : TreeKind) : Nat := treeN k.xmss k.type
def TreeKind.b (k : TreeKind) : Nat := k.h / 2
def TreeKind.num (k : TreeKind) : Nat := if k.xmss then 2 else 1

/-- The tree a job of group 0x04 works on. -/
def Job.tree (j : Job) (xmss : Bool) : TreeKind := { xmss, type := j.entry.p 0 1, ots := j.entry.p 1 1 }

/-- The seeds of a key (R341): I ‖ SEED, or SK_SEED ‖ SK_PRF ‖ PUB_SEED. -/
def TreeKind.seed (k : TreeKind) (key : Bytes) : Bytes :=
  if k.xmss then Config.kmac256 key (Config.ascii "XMSS" ++ byte k.type) (3 * k.n) (Config.ascii "PETHAL-SEED")
  else Config.kmac256 key (Config.ascii "LMS" ++ byte k.type ++ byte k.ots) (16 + k.n) (Config.ascii "PETHAL-SEED")

/-- The public part of the seeds: I, or PUB_SEED. -/
def TreeKind.pub (k : TreeKind) (seed : Bytes) : Bytes := if k.xmss then seed.drop (2 * k.n) else seed.take 16

/-- Leaf `i`. -/
def TreeKind.leaf (k : TreeKind) (seed : Bytes) (i : Nat) : Bytes :=
  if k.xmss then (xmssSet k.type).leafOf (seed.take k.n) (seed.drop (2 * k.n)) i
  else (otsSet k.ots).leafOf k.h (seed.take 16) (seed.drop 16) i

/-- The node at height `t`, position `p` of the tree, from its children. -/
def TreeKind.node (k : TreeKind) (pub : Bytes) (t p : Nat) (l r : Bytes) : Bytes :=
  if k.xmss then (xmssSet k.type).node pub t p l r else (otsSet k.ots).lmsNode pub (2 ^ (k.h - t) + p) l r

/-- One level up from a row whose first entry has an even position. -/
def TreeKind.up (k : TreeKind) (pub : Bytes) (t : Nat) : Nat → List Bytes → List Bytes
  | p, a :: b :: l => k.node pub t p a b :: k.up pub t (p + 1) l
  | _, _ => []

/-- The nodes of a subtree of height `m` in heap order, from its lowest row at height `t`, first position `p`. -/
def TreeKind.heap (k : TreeKind) (pub : Bytes) : (m t p : Nat) → List Bytes → List Bytes
  | 0, _, _, row => row
  | m + 1, t, p, row => k.heap pub m (t + 1) (p / 2) (k.up pub (t + 1) (p / 2) row) ++ row

/-- The nodes of bottom subtree `i`. -/
def TreeKind.area (k : TreeKind) (seed : Bytes) (i : Nat) : List Bytes :=
  k.heap (k.pub seed) k.b 0 (i * 2 ^ k.b) ((List.range (2 ^ k.b)).map fun l => k.leaf seed (i * 2 ^ k.b + l))

/-- The nodes of the top tree, from level b to the root. -/
def TreeKind.top (k : TreeKind) (seed : Bytes) : List Bytes :=
  k.heap (k.pub seed) (k.h - k.b) k.b 0 ((List.range (2 ^ (k.h - k.b))).map fun i => (k.area seed i).head?.getD [])

/-- The public key over a root. -/
def TreeKind.pk (k : TreeKind) (seed root : Bytes) : Bytes :=
  if k.xmss then (leBytes 4 k.type).reverse ++ root ++ k.pub seed
  else (leBytes 4 k.type).reverse ++ (leBytes 4 k.ots).reverse ++ k.pub seed ++ root

/-- Lengths of the parts of a cache. -/
def TreeKind.topLen (k : TreeKind) : Nat := k.n * (2 ^ (k.h - k.b + 1) - 1)
def TreeKind.areaLen (k : TreeKind) : Nat := k.n * (2 ^ (k.b + 1) - 1)

/-- Node `i` of a part that starts at byte `off`. -/
def TreeKind.nodeAt (k : TreeKind) (c : Bytes) (off i : Nat) : Bytes := slice c (off + k.n * (i - 1)) k.n

/-- First byte of an area. -/
def TreeKind.areaOff (k : TreeKind) (second : Bool) : Nat := k.topLen + (if second then k.areaLen else 0)

/-- A cache's content with one area replaced. -/
def TreeKind.putArea (k : TreeKind) (c : Bytes) (second : Bool) (a : Bytes) : Bytes :=
  c.take (k.areaOff second) ++ a ++ c.drop (k.areaOff second + k.areaLen)

/-- The height of node `i` of a subtree of height b, and the leaf after its last. -/
def TreeKind.coverEnd (k : TreeKind) (i : Nat) : Nat :=
  let t := k.b - Nat.log2 i
  (i + 1) * 2 ^ t - 2 ^ k.b

/-- The leaves below node `i` of an area. -/
def TreeKind.covered (k : TreeKind) (i : Nat) : List Nat :=
  let n := 2 ^ (k.b - Nat.log2 i)
  (List.range n).map (k.coverEnd i - n + ·)

/-- An area in which the leaves that are done and the parents they complete are those of subtree `i`, and every other
node is what it was. -/
def TreeKind.fill (k : TreeKind) (seed : Bytes) (old : Bytes) (i : Nat) (done : Nat → Bool) : Bytes :=
  let new := k.area seed i
  (List.range (2 ^ (k.b + 1) - 1)).flatMap fun m =>
    if (k.covered (m + 1)).all done then new.getD m [] else slice old (k.n * m) k.n

/-- The header of a cache (R345). -/
def TreeKind.header (k : TreeKind) (t : TreeCache) : Bytes :=
  leBytes 4 0x43525450 ++ leBytes 2 1 ++ byte k.num ++ byte k.type ++ byte k.ots ++ byte k.h ++ byte k.b
    ++ byte (if t.curArea then 1 else 0) ++ leBytes 4 t.curSub ++ leBytes 4 t.nextFill ++ zeros 12 ++ t.keyId

/-- KIND, TYPE, OTS_TYPE and KEY_ID of a slot's cache match the key's record and PARAMS (step 1 of R347). -/
def TreeKind.matches (k : TreeKind) (t : TreeCache) (r : SlogRec) : Bool :=
  t.xmss = k.xmss && t.type = k.type && t.ots = k.ots && t.keyId = r.keyId

/-- The log record of a job's key, by index and GEN as resolved. -/
def State.jobRec (s : State) (j : Job) : Option SlogRec := s.slogOf (handleIndex j.entry.ctx) j.crec.gen

/-- Change a log record. -/
def Keeper.mapRec (k : Keeper) (num : Nat) (f : SlogRec → SlogRec) : Keeper :=
  { k with slog := k.slog.map fun r => if r.num = num then f r else r }

/-! ### Key generation (R280, R343) -/

/-- The lowest record number of the log that is free. -/
def Keeper.freeRec (k : Keeper) : Option Nat :=
  (List.range (min 8192 (k.slog.length + k.badLogRecs.length + 1))).find? fun n =>
    !(k.slog.any fun r => r.num = n) && !k.badLogRecs.contains n

/-- The cache of a fresh tree for an index: both areas complete (step 4 of R343). Past the last subtree there is no next
one; what the other area then holds is free. -/
def TreeKind.freshCache (k : TreeKind) (seed keyId free : Bytes) (next : Nat) : TreeCache × Bytes :=
  let last := 2 ^ (k.h - k.b) - 1
  let i := min (next / 2 ^ k.b) last
  let other := if i < last then (k.area seed (i + 1)).flatten else free
  ({ xmss := k.xmss, type := k.type, ots := k.ots, curArea := false, curSub := i, nextFill := 2 ^ k.b, ahead := [], keyId },
   (k.top seed).flatten ++ (k.area seed i).flatten ++ other)

/-- CYCLES of a key generation: TYPE, OTS_TYPE and H (R344). -/
def Job.treeCycles (j : Job) (k : TreeKind) : Nat := Config.cycles j.entry.opcode [k.type, k.ots, k.h]

/-- The key of a registration (R262, R280): the one its unit holds, unless an image commit has moved the SEPOCH on since the
job was dispatched (R285), when the key of the SEPOCH that is registered is derived. -/
def State.regKey (s : State) (j : Job) : Bytes :=
  let sepoch := match s.jobRec j with | some r => r.sepoch | none => s.keeper.sepoch
  if sepoch = j.started then j.key else s.keyOf j.chain

/-- The subtree tasks of a key generation of height 10 or more: 2^(H - b), each of height b (R344). -/
def TreeKind.taskCount (k : TreeKind) : Nat := if 10 ≤ k.h then 2 ^ (k.h - k.b) else 0

/-- Key generation of R343, once its subtree tasks have ended. While non-volatile changes may not begin the registration
waits (R35). -/
def State.treeRegister (s : State) (j : Job) (k : TreeKind) : State :=
  let i := handleIndex j.entry.ctx
  let limit := j.entry.p 8 8
  let old := s.jobRec j
  let seed := k.seed (s.regKey j)
  let pk := k.pk seed ((k.top seed).head?.getD [])
  let kid := Config.sha256 pk
  let clash : Bool := s.keeper.slog.any fun r => r.keyId = kid && (r.index ≠ i || r.status = .retired)
  let other : Bool := match old with | some r => r.keyId ≠ kid | none => false
  let cycles := j.treeCycles k
  let fill (s : State) (next : Nat) : State :=
    let c := k.freshCache seed kid (s.freeNow k.areaLen) next
    (s.draw.mapStore fun o => o.write j.entry.slotA.toNat (.tree c.1) c.2).done j 0 pk cycles
  if old.isNone ∧ 2 ^ k.h < limit then s.endWith j st.badField 8 (s.phaseCycles j)
  else if old.isNone ∧ s.keeper.freeRec.isNone then s.fail j st.contextFull (s.phaseCycles j)
  else if other ∨ clash then s.fail j st.stateExhausted cycles
  else if !s.nvFree then s
  else match old, s.keeper.freeRec with
    | some r, _ =>
      fill (s.mapKeeper fun x => x.mapRec r.num fun r => { r with status := if r.status = .releasePending then .active else r.status }) r.next
    | none, some n =>
      fill (s.mapKeeper fun x => { x with slog := x.slog ++
        [{ num := n, keyId := kid, index := i, gen := j.crec.gen, sepoch := s.keeper.sepoch, reservedEnd := 0,
           indexLimit := if limit = 0 then 2 ^ k.h else limit, status := .active, next := 0, exporting := false, nonce := [] }] }) 0
    | none, none => s

/-- Key generation: for H of 10 or more it issues its subtree tasks, which HOPPER_DISPATCH gives to hash groups (R344). Its row
given again stands for the end of the tasks that run; with none left to dispatch, the home group combines the roots. -/
def State.treeKeygen (s : State) (j : Job) (k : TreeKind) : State :=
  match j.tasks with
  | none =>
    if k.taskCount = 0 then s.treeRegister j k
    else s.mapJob j.id fun x => { x with tasks := some k.taskCount, taskUnits := [] }
  | some 0 => s.treeRegister j k
  | some (_ + 1) => s.mapJob j.id fun x => { x with taskUnits := [] }

def execLmsKeygen (j : Nat) (s : State) : Host.Outcome State Fault Refusal :=
  .next (s.runCmd j .lmsKeygen fun s j => s.gated j .lmsKeygen (s.phaseCycles j) fun s j => s.treeKeygen j (j.tree false))

def execXmssKeygen (j : Nat) (s : State) : Host.Outcome State Fault Refusal :=
  .next (s.runCmd j .xmssKeygen fun s j => s.gated j .xmssKeygen (s.phaseCycles j) fun s j => s.treeKeygen j (j.tree true))

/-! ### Signing (R281, R282, R347, R348) -/

/-- The indices that other running jobs of the same cache have taken (R348). -/
def State.otherIndices (s : State) (j : Job) : List Nat :=
  (s.jobs.filter fun x => x.id ≠ j.id && isSigner x.op && !x.ended && x.entry.slotA = j.entry.slotA).filterMap Job.taken

/-- A leaf of the next subtree has been computed. -/
def TreeCache.has (t : TreeCache) (l : Nat) : Bool := decide (l < t.nextFill) || t.ahead.contains l

/-- The leaves of the next subtree that a job with index `q` is assigned: those up to its own position that are not computed,
after those of every other running job with an earlier index of its subtree, in index order (R347 step 6, R348). -/
def TreeKind.assigned (k : TreeKind) (t : TreeCache) (others : List Nat) (q : Nat) : List Nat :=
  let frm := (others.filter fun p => decide (p < q) && p / 2 ^ k.b = q / 2 ^ k.b).foldl (fun m p => max m (p % 2 ^ k.b + 1)) 0
  (List.range (q % 2 ^ k.b + 1)).filter fun l => decide (frm ≤ l) && !t.has l

/-- What step 4 of R347 needs and another running job is computing (R348): the subtree itself, where a job with an earlier
index of it is under way, or, for the subtree that comes next, leaves assigned to a job of the current one. -/
def TreeKind.mustWait (k : TreeKind) (t : TreeCache) (others : List Nat) (q : Nat) : Bool :=
  let i := q / 2 ^ k.b
  i ≠ t.curSub &&
    ((others.any fun p => decide (p < q) && p / 2 ^ k.b = i)
      || (i = t.curSub + 1 && others.any fun p => p / 2 ^ k.b = t.curSub && !(k.assigned t (others.filter (· ≠ p)) p).isEmpty))

/-- Step 4 of R347: the header and content with the current area on subtree `i`, and the leaves computed. -/
def TreeKind.prepare (k : TreeKind) (seed : Bytes) (t : TreeCache) (c : Bytes) (i : Nat) : TreeCache × Bytes × Nat :=
  if i = t.curSub then (t, c, 0)
  else if i = t.curSub + 1 then
    ({ t with curArea := !t.curArea, curSub := i, nextFill := 0, ahead := [] },
     k.putArea c (!t.curArea) (k.area seed i).flatten, ((List.range (2 ^ k.b)).filter fun l => !t.has l).length)
  else ({ t with curSub := i, nextFill := 0, ahead := [] }, k.putArea c t.curArea (k.area seed i).flatten, 2 ^ k.b)

/-- NEXT_FILL moves on over every leaf that is there; those beyond a gap stay noted. -/
def TreeCache.settle (t : TreeCache) (n : Nat) : TreeCache :=
  let f := ((List.range (n + 1)).find? fun l => decide (n ≤ l) || !t.has l).getD n
  { t with nextFill := f, ahead := t.ahead.filter fun l => decide (f ≤ l) }

/-- Step 6 of R347: the leaves of the next subtree that the job is assigned, up to the position of `q`. -/
def TreeKind.advance (k : TreeKind) (seed : Bytes) (t : TreeCache) (c : Bytes) (others : List Nat) (q : Nat) :
    TreeCache × Bytes × Nat :=
  let mine := k.assigned t others q
  if t.curSub + 1 < 2 ^ (k.h - k.b) ∧ mine ≠ [] then
    let off := k.areaOff (!t.curArea)
    let t1 := { t with ahead := t.ahead ++ mine }
    (t1.settle (2 ^ k.b), k.putArea c (!t.curArea) (k.fill seed (slice c off k.areaLen) (t.curSub + 1) t1.has), mine.length)
  else (t, c, 0)

/-- The authentication path of `q`, lowest first, from the current area and TOP. -/
def TreeKind.path (k : TreeKind) (t : TreeCache) (c : Bytes) (q : Nat) : Bytes :=
  (List.range k.h).flatMap fun l =>
    if l < k.b then k.nodeAt c (k.areaOff t.curArea) ((2 ^ (k.b - l) + q % 2 ^ k.b / 2 ^ l) ^^^ 1)
    else k.nodeAt c 0 ((2 ^ (k.h - l) + q / 2 ^ l) ^^^ 1)

/-- The signature of a message under index `q`, with the randomiser `r` of LMS. -/
def TreeKind.sign (k : TreeKind) (seed : Bytes) (t : TreeCache) (c : Bytes) (q : Nat) (r m : Bytes) : Bytes :=
  let be : Nat → Bytes := beBytes 4
  if k.xmss then
    let x := xmssSet k.type
    let rx := x.randomiser (slice seed k.n k.n) q
    be q ++ rx ++ x.sign (seed.take k.n) (seed.drop (2 * k.n)) rx (k.nodeAt c 0 1) m q ++ k.path t c q
  else
    be q ++ be k.ots ++ r ++ (otsSet k.ots).sign (seed.take 16) (seed.drop 16) r m q ++ be k.type ++ k.path t c q

/-- Steps 4 to 6 of a signing job that has taken index `q`; it waits for what another job is computing (R348). -/
def State.treeFinish (s : State) (j : Job) (k : TreeKind) (q : Nat) (t : TreeCache) (inp : Bytes) : State :=
  let others := s.otherIndices j
  if k.mustWait t others q then s.mapJob j.id fun x => { x with phase := .waitLeaf, waitFrom := s.now }
  else
    let a := j.entry.slotA.toNat
    let seed := k.seed j.key
    let p := k.prepare seed t (s.store.slot a).content (q / 2 ^ k.b)
    let f := k.advance seed p.1 p.2.1 others q
    let count := p.2.2 + f.2.2
    let sig := k.sign seed p.1 p.2.1 q (s.freeNow k.n) inp
    ((if k.xmss then s else s.draw).mapStore fun o => o.write a (.tree f.1) f.2.1).done j (q + 2 ^ 48 * count) sig
      (Config.cycles j.entry.opcode [k.type, k.ots, inp.length, count])

/-- A signing job: step 1, the entropy wait, the index port, then steps 4 to 6 once it holds an index. -/
def State.treeSign (s : State) (j : Job) (k : TreeKind) (op : Op) (inp : Bytes) : State :=
  match s.jobRec j, (s.store.slot j.entry.slotA.toNat).tag, j.taken with
  | some _, .tree t, some q => s.treeFinish j k q t inp
  | some r, .tree t, none =>
    if k.matches t r then
      s.gated j op (s.phaseCycles j) fun s j =>
        (s.mapJob j.id fun x => { x with phase := .waitIndex, waitFrom := s.now }).mapTables fun x =>
          { x with idxQueue := x.idxQueue ++ [j.id] }
    else s.fail j st.keyType (s.phaseCycles j)
  | _, _, _ => s.fail j st.keyType (s.phaseCycles j)

def execLmsSign (j : Nat) (inp : Bytes) (s : State) : Host.Outcome State Fault Refusal :=
  .next (s.runOp j .lmsSign inp fun s j => s.treeSign j (j.tree false) .lmsSign inp)

def execXmssSign (j : Nat) (inp : Bytes) (s : State) : Host.Outcome State Fault Refusal :=
  .next (s.runOp j .xmssSign inp fun s j => s.treeSign j (j.tree true) .xmssSign inp)

/-- Take an index for a job, or end it, or let it wait for a reservation (R281, R282). -/
def State.takeIndex (s : State) (j : Job) : State :=
  let s1 := s.leavePort j.id
  match s.jobRec j with
  | none => s1.fail j st.stateExhausted (s.phaseCycles j)
  | some r =>
    if r.status = .retired ∨ r.exporting ∨ r.indexLimit ≤ r.next then s1.fail j st.stateExhausted (s.phaseCycles j)
    else if r.reservedEnd ≤ r.next then s1.mapJob j.id fun x => { x with phase := .waitReserve }
    else
      (s1.mapKeeper fun k => k.mapRec r.num fun r => { r with next := r.next + 1 }).mapJob j.id fun x =>
        { x.wake with taken := some r.next }

/-- INDEX_PORT_SERVE: one index for the job that has waited longest at the port. -/
def execIndexPortServe (s : State) : Host.Outcome State Fault Refusal :=
  .next (match s.tables.idxQueue with
    | [] => s
    | i :: _ =>
      match s.job? i with
      | some j => if j.phase = .waitIndex then s.takeIndex j else s.leavePort i
      | none => s.leavePort i)

/-- RESERVATION_WRITE: with fewer than 4,096 reserved indices unused, RESERVED_END moves forward by one block, capped at
INDEX_LIMIT, and the signers of that key that waited for it return to the index port (R282). -/
def execReservationWrite (rec : Nat) (s : State) : Host.Outcome State Fault Refusal :=
  .next (match s.keeper.slog.find? fun r => r.num = rec with
    | none => s
    | some r =>
      if !s.nvFree ∨ r.status ≠ .active ∨ r.next + 4096 ≤ r.reservedEnd ∨ r.indexLimit ≤ r.reservedEnd then s
      else
        let p (j : Job) : Bool := j.phase = .waitReserve && ((s.jobRec j).map SlogRec.num) = some rec
        ((s.mapKeeper fun k => k.mapRec rec fun r => { r with reservedEnd := min (r.reservedEnd + 4096) r.indexLimit }).mapTables
          fun t => { t with idxQueue := t.idxQueue ++ (s.jobs.filter p).map Job.id }).mapJobs p fun j => { j with phase := .waitIndex })

/-! ### Verification (R350) -/

/-- The four big-endian bytes at an offset. -/
def be32At (b : Bytes) (off : Nat) : Nat := beNat (slice b off 4)

/-- CYCLES of the public-input phase of VERIFY: TYPE and OTS_TYPE only. -/
def Job.treePhase (j : Job) : Nat := Config.cycles j.entry.opcode [j.entry.p 0 1, j.entry.p 1 1]

def execLmsVerify (j : Nat) (inp : Bytes) (s : State) : Host.Outcome State Fault Refusal :=
  .next (s.runOp j .lmsVerify inp fun s j =>
    let t := j.entry.p 0 1
    let o := j.entry.p 1 1
    let pk := inp.take (lmsPkLen t)
    let sig := slice inp (lmsPkLen t) (lmsSigLen t o)
    let m := inp.drop (lmsPkLen t + lmsSigLen t o)
    if be32At pk 0 ≠ t ∨ be32At pk 4 ≠ o ∨ be32At sig 4 ≠ o ∨ be32At sig (8 + lmsN t * (otsP o + 1)) ≠ t
        ∨ 2 ^ lmsH t ≤ be32At sig 0 then
      s.endWith j st.decodeFail 0 j.treePhase
    else
      let n := lmsN t
      let ots := 8 + n * (otsP o + 1)
      s.verdict j
        ((otsSet o).verify (lmsH t) (slice pk 8 16) (pk.drop 24) (slice sig 8 n) m (slice sig (8 + n) (n * otsP o)) (sig.drop (4 + ots))
          (be32At sig 0))
        st.verifyFalse (Config.cycles j.entry.opcode [t, o, m.length]))

/-- XMSS signatures carry no type fields of their own (RFC 8391). -/
def execXmssVerify (j : Nat) (inp : Bytes) (s : State) : Host.Outcome State Fault Refusal :=
  .next (s.runOp j .xmssVerify inp fun s j =>
    let t := j.entry.p 0 1
    let pk := inp.take (xmssPkLen t)
    let sig := slice inp (xmssPkLen t) (xmssSigLen t)
    let m := inp.drop (xmssPkLen t + xmssSigLen t)
    if be32At pk 0 ≠ t ∨ 2 ^ xmssH t ≤ be32At sig 0 then s.endWith j st.decodeFail 0 j.treePhase
    else
      let n := xmssN t
      let ots := n * xmssLen t
      s.verdict j
        ((xmssSet t).verify (slice pk 4 n) (slice pk (4 + n) n) (slice sig 4 n) m (slice sig (4 + n) ots) (sig.drop (4 + n + ots))
          (be32At sig 0))
        st.verifyFalse (Config.cycles j.entry.opcode [t, 0, m.length]))

/-! ### Cache images (R349) -/

/-- The tree of a cache command: XMSS when OTS_TYPE is 0. -/
def Job.cacheTree (j : Job) : TreeKind := j.tree (decide (j.entry.p 1 1 = 0))

def execCacheSave (j : Nat) (s : State) : Host.Outcome State Fault Refusal :=
  .next (s.runCmd j .cacheSave fun s j =>
    let k := j.cacheTree
    let slot := s.store.slot j.entry.slotA.toNat
    match s.jobRec j, slot.tag with
    | some r, .tree t =>
      if k.matches t r then
        s.done j 0 (k.header t ++ slot.content) (Config.cycles j.entry.opcode [k.type, k.ots])
      else s.fail j st.keyType (s.phaseCycles j)
    | _, _ => s.fail j st.keyType (s.phaseCycles j))

/-- The header fields of a cache image that a tag keeps; none when CUR_AREA names no area. -/
def cacheHeader (k : TreeKind) (b : Bytes) : Option TreeCache :=
  let area := leNat (slice b 11 1)
  if leNat (slice b 6 1) = k.num ∧ leNat (slice b 7 1) = k.type ∧ leNat (slice b 8 1) = k.ots ∧ area ≤ 1 then
    some { xmss := k.xmss, type := k.type, ots := k.ots, curArea := decide (area = 1), curSub := leNat (slice b 12 4),
           nextFill := 0, ahead := [], keyId := slice b 32 32 }
  else none

/-- The `n` nodes of a row that starts at a byte. -/
def TreeKind.row (k : TreeKind) (c : Bytes) (off n : Nat) : List Bytes := (List.range n).map fun i => slice c (off + k.n * i) k.n

/-- TOP, recomputed from its level-b nodes, yields the root whose pk hashes to KEY_ID; the current area, recomputed from
its leaves, yields the TOP node at its position. -/
def TreeKind.sound (k : TreeKind) (seed : Bytes) (t : TreeCache) (c : Bytes) : Bool :=
  let w := 2 ^ (k.h - k.b)
  let low := k.row c (k.n * (w - 1)) w
  let root := (k.heap (k.pub seed) (k.h - k.b) k.b 0 low).head?.getD []
  let leaves := k.row c (k.areaOff t.curArea + k.n * (2 ^ k.b - 1)) (2 ^ k.b)
  let sub := (k.heap (k.pub seed) k.b 0 (t.curSub * 2 ^ k.b) leaves).head?.getD []
  decide (t.curSub < w) && Config.sha256 (k.pk seed root) = t.keyId && sub = low.getD t.curSub []

def execCacheLoad (j : Nat) (inp : Bytes) (s : State) : Host.Outcome State Fault Refusal :=
  .next (s.runOp j .cacheLoad inp fun s j =>
    let k := j.cacheTree
    let a := j.entry.slotA.toNat
    let good : Option TreeCache := match s.jobRec j, cacheHeader k inp with
      | some r, some t => if k.matches t r && k.sound (k.seed j.key) t (inp.drop 64) then some t else none
      | _, _ => none
    let cycles := Config.cycles j.entry.opcode [k.type, k.ots]
    match good with
    | some t => (s.mapStore fun o => o.write a (.tree t) (inp.drop 64)).done j 0 [] cycles
    | none => (s.mapStore fun o => o.spoil a).fail j st.paramRejected cycles)

/-! ### Batch seal (R351 to R354) -/

def sealHash (d : Nat) (m : Bytes) : Bytes := hashOut (if d = 32 then 1 else 3) d m

def sealLeaf (d i : Nat) (x : Bytes) : Bytes := sealHash d ([0] ++ leBytes 4 i ++ x)

def sealNode (d : Nat) (a b : Bytes) : Bytes := sealHash d ([1] ++ a ++ b)

/-- Every level of the tree, level 0 first. -/
def sealLevels (d : Nat) : Nat → List Bytes → List (List Bytes)
  | 0, row => [row]
  | h + 1, row => row :: sealLevels d h (merkleUp (sealNode d) row)

/-- The inclusion path of position `i`: its node's sibling at each level below the root, lowest first. -/
def sealPath (levels : List (List Bytes)) (h i : Nat) : Bytes :=
  (List.range h).flatMap fun l => ((levels.getD l []).getD ((i / 2 ^ l) ^^^ 1) [])

/-- The signed statement (R353). -/
def sealStatement (mode d c h time : Nat) (label root : Bytes) : Bytes :=
  leBytes 4 0x4C455350 ++ leBytes 2 1 ++ byte mode ++ byte d ++ leBytes 4 c ++ byte h ++ zeros 3 ++ leBytes 8 time ++ label ++ root

/-- The ML-DSA signature of a seal waits while every lane engine of its bench is busy (R230, R354). -/
def State.laneWait (s : State) (j : Job) : Bool :=
  let b := j.unit.getD 0 / 2
  j.lane.isNone && (s.laneBeside j (j.unit.getD 0)).isNone && s.benchUp b && decide (j.entry.p 5 1 ≠ 2)

/-- The job takes the lane engine it still lacks. -/
def State.holdLane (s : State) (j : Job) : State :=
  s.mapJob j.id fun x => { x with lane := if x.lane.isSome then x.lane else s.laneBeside j (j.unit.getD 0) }

/-- SEAL: the statement, its hedged signatures and the paths. The loop bound of R312 holds for its ML-DSA signature. -/
def execSeal (j : Nat) (inp : Bytes) (s : State) : Host.Outcome State Fault Refusal :=
  .next (s.runOp j .seal inp fun s j =>
    s.gated j .seal (s.phaseCycles j) fun s j =>
      let e := j.entry
      let c := e.p 0 4
      let d := e.p 4 1
      let mode := e.p 5 1
      if s.laneWait j then s else
      let s := s.holdLane j
      let h := sealDepth c
      let leaves := (List.range c).map fun i => sealLeaf d i (slice inp (32 + i * d) d)
      let levels := sealLevels d h (leaves ++ List.replicate (2 ^ h - c) (zeros d))
      let root := ((levels.getD h []).head?).getD []
      let time := if s.boot.timeValid then s.platformTime else 0
      let stmt := sealStatement mode d c h time (inp.take 32) root
      let p := j.crec.param
      let sig1 := if mode = 2 then (0, some []) else
        mldsaSign p (mldsaSeed j.key p) (s.freeNow 32) 0 0 (Config.ascii "PETHAL-SEAL1") stmt
      let q := if mode = 2 then p else j.crec2.param
      let seed := slhSeed (if mode = 2 then j.key else j.key2) q
      let sig2 := if mode = 1 then [] else
        slhSig q seed (Config.freeBytes (s.freeCtr + 1) (slhN q)) (dsaMessage 0 0 (Config.ascii "PETHAL-SEAL1") stmt)
      let s1 := s.draw.draw
      let cycles (i : Nat) : Nat := Config.cycles e.opcode [c, d, mode, p, q, i]
      match sig1.2 with
      | none => s1.endWith j st.engineFault 1000 (cycles 1000)
      | some x =>
        s1.done j (sig1.1 + 2 ^ 16 * h + 2 ^ 24 * mode)
          (stmt ++ x ++ sig2 ++ (List.range c).flatMap fun i => sealPath levels h i) (cycles sig1.1))

end Sys2Proof.Machine
end

