-- ==== Sys2Proof/Machine/ClassicCmds.lean ====
section
/-!
DEFINITION. Machine/ClassicCmds.lean: chapter 11: curves (R383 to R393), RSA and modular arithmetic (R394 to R399) with
their integers in big-endian order, the compatibility sequencer (R404 to R408) and AES (R409 to R413).
-/
namespace Sys2Proof.Machine
open Sys2Proof

/-! ### Curves: keys and counts -/

/-- CURVE of an entry. -/
def Job.curve (j : Job) : Nat := j.entry.p 0 1

/-- The bytes of a custom curve set; empty for a named curve. -/
def State.setBytes (s : State) (c : Nat) : Bytes := (s.curveSet c).getD []

/-- The Weierstrass curve of a number: P-256, P-384, P-521, or a custom set (R383, R385). -/
def State.weier (s : State) (c : Nat) : Weier :=
  if c = 1 then p256 else if c = 2 then p384 else if c = 3 then p521
  else
    let t := s.setBytes c
    { p := setInt t 0, a := setInt t 1, b := setInt t 2, gx := setInt t 3, gy := setInt t 4, n := setOrder t, h := setCofactor t }

/-- The Edwards and the Montgomery curve of a number. -/
def edwards (c : Nat) : Edwards := if c = 4 then ed25519 else ed448
def mont (c : Nat) : Mont := if c = 6 then x25519 else x448

/-- What the rule's KMAC gives an ECC context: t of a Weierstrass curve, the seed of an Edwards curve, k of an XDH one (R384). -/
def State.ecSecret (s : State) (key : Bytes) (c : Nat) : Bytes :=
  let seed (name : String) (x : Bytes) (n : Nat) : Bytes :=
    Config.kmac256 key (Config.ascii name ++ byte c ++ x) n (Config.ascii "PETHAL-SEED")
  if isEd c then seed "EdDSA" [] (if c = 4 then 32 else 57)
  else if isXdh c then seed "XDH" [] (if c = 6 then 32 else 56)
  else seed "ECC" (if 32 ≤ c then Config.sha384 (s.setBytes c) else []) (s.curveLn c + 8)

/-- d of a Weierstrass context (R384). -/
def State.ecScalar (s : State) (key : Bytes) (c : Nat) : Nat := weierScalar (s.weier c).n (s.ecSecret key c)

/-- The public key of an ECC context (R384, R389). -/
def State.ecPk (s : State) (key : Bytes) (c : Nat) : Bytes :=
  if isEd c then (edwards c).pk (s.ecSecret key c)
  else if isXdh c then (mont c).fn (s.ecSecret key c) (leBytes (s.curveL c) (if c = 6 then 9 else 5))
  else encodePoint (s.curveL c) ((s.weier c).mul (s.ecScalar key c) (s.weier c).base)

/-- Bit length of the field prime of a custom curve. -/
def State.setBits (s : State) (c : Nat) : Nat := bitLen (setInt (s.setBytes c) 0)

/-- The columns of R401. -/
def State.ecGenCycles (s : State) (c : Nat) : Nat :=
  if 32 ≤ c then 8000 + ladder (s.setBits c) else pick [50000, 110000, 250000, 40000, 110000, 40000, 110000] c
def State.ecSignCycles (s : State) (c : Nat) : Nat :=
  if 32 ≤ c then 26000 + ladder (s.setBits c) else pick [60000, 128000, 280000, 48000, 125000] c
def State.ecVerifyCycles (s : State) (c : Nat) : Nat :=
  if 32 ≤ c then 20000 + 2 * ladder (s.setBits c) else pick [110000, 240000, 520000, 100000, 260000] c
def State.ecdhCycles (s : State) (c : Nat) : Nat :=
  if 32 ≤ c then 8000 + ladder (s.setBits c) else pick [55000, 120000, 260000, 0, 0, 40000, 110000] c

/-! ### Curves: points -/

/-- The checks of a Weierstrass public key, in the order of R392. -/
def State.pointFault (s : State) (c : Nat) (pk : Bytes) : Option Status :=
  let w := s.weier c
  let l := s.curveL c
  let x := beNat (slice pk 1 l)
  let y := beNat (slice pk (1 + l) l)
  if pk.take 1 ≠ [0x04] then some st.decodeFail
  else if w.p ≤ x ∨ w.p ≤ y then some st.operandRange
  else if !w.on x y then some st.invalidPoint
  else if 1 < w.h ∧ (w.mul w.n (some (x, y))).isSome then some st.invalidPoint
  else none

/-! ### Group 0x06 -/

def execEcKeygen (j : Nat) (s : State) : Host.Outcome State Fault Refusal :=
  .next (s.runCmd j .ecKeygen fun s j =>
    s.gated j .ecKeygen (s.ecPhase j.curve) fun s j =>
      s.done j 0 (s.ecPk j.key j.curve) (s.ecGenCycles j.curve))

/-- The attempts of a signature, r and s: hedged, each k from bitlen(n) + 64 bits of a free value of its own, or with the
generator of RFC 6979 under HASH (R390). Where a whole run of 2^20 candidates signed nothing, the three are free (log row 95). -/
def State.ecdsaTry (s : State) (w : Weier) (d : Nat) (det : Bool) (hash : Nat) (digest : Bytes) : Nat × Nat × Nat :=
  let e := leftBits w.n digest
  let m := (bitLen w.n + 71) / 8
  let r := if det then w.signFrom d e (rfc6979Next hash w.n) (2 ^ 20) (rfc6979Init hash w.n d digest) 0
    else w.signFrom d e (fun i => (extraBits w.n (Config.freeBytes i m), i + 1)) (2 ^ 20) s.freeCtr 0
  r.getD (Config.freeNat s.freeCtr, Config.freeNat (s.freeCtr + 1), Config.freeNat (s.freeCtr + 2))

/-- ECDSA_SIGN: k from the DRBG, or under RFC 6979 with HASH; the attempts count in RESULT and CYCLES (R390). -/
def execEcdsaSign (j : Nat) (inp : Bytes) (s : State) : Host.Outcome State Fault Refusal :=
  .next (s.runOp j .ecdsaSign inp fun s j =>
    s.gated j .ecdsaSign (s.ecPhase j.curve) fun s j =>
      let c := j.curve
      let det : Bool := j.entry.p 1 1 = 1
      let r := s.ecdsaTry (s.weier c) (s.ecScalar j.key c) det (j.entry.p 3 1) inp
      (if det then s else s.drawMany r.1).done j (r.1 % 65536 + 65536 * c) (encodeSig (s.curveLn c) r.2.1 r.2.2)
        (r.1 * s.ecSignCycles c))

/-- ECDSA_VERIFY: [pk] ‖ r ‖ s ‖ digest. -/
def execEcdsaVerify (j : Nat) (inp : Bytes) (s : State) : Host.Outcome State Fault Refusal :=
  .next (s.runOp j .ecdsaVerify inp fun s j =>
    let c := j.curve
    let own : Bool := j.entry.ctx ≠ 0
    let pkLen := if own then 0 else s.ecPkLen c
    let pk := if own then s.ecPk j.key c else inp.take pkLen
    let w := s.weier c
    let ln := s.curveLn c
    let r := slice inp pkLen ln
    let t := slice inp (pkLen + ln) ln
    let inRange (x : Bytes) : Bool := decide (1 ≤ beNat x ∧ beNat x < w.n)
    match (if own then none else s.pointFault c pk) with
    | some f => s.endWith j f 0 (s.ecPhase c)
    | none =>
      if !inRange r || !inRange t then s.endWith j st.operandRange 0 (s.ecPhase c)
      else s.verdict j (w.verify (decodePoint (s.curveL c) pk) (leftBits w.n (inp.drop (pkLen + 2 * ln))) (beNat r) (beNat t))
        st.verifyFalse (s.ecVerifyCycles c))

/-- The shared secret: X of h·d·Q on a Weierstrass curve (ECC CDH with cofactor, R377), or the function of RFC 7748. -/
def State.ecShared (s : State) (key : Bytes) (c : Nat) (peer : Bytes) : Bytes :=
  if isXdh c then (mont c).fn (s.ecSecret key c) peer
  else
    let w := s.weier c
    match w.mul (w.h * s.ecScalar key c) (decodePoint (s.curveL c) peer) with
    | some (x, _) => beBytes (s.curveL c) x
    | none => []

/-- ECDH: the peer's key is checked on Weierstrass curves; an all-zero XDH result with ZERO_CHECK ends with
INVALID_POINT after the full count (R392, R393). -/
def execEcdh (j : Nat) (inp : Bytes) (s : State) : Host.Outcome State Fault Refusal :=
  .next (s.runOp j .ecdh inp fun s j =>
    let c := j.curve
    match (if isWeier c then s.pointFault c inp else none) with
    | some f => s.endWith j f 0 (s.ecPhase c)
    | none => s.gated j .ecdh (s.ecPhase c) fun s j =>
        let z := s.ecShared j.key c inp
        if isXdh c && j.entry.flag 2 && z = zeros (s.curveL c) then s.fail j st.invalidPoint (s.ecdhCycles c)
        else s.done j 0 z (s.ecdhCycles c))

/-- Bytes of the domain prefix of EdDSA: none for Ed25519 in mode 0 (RFC 8032). -/
def edDom (e : Entry) : Nat :=
  if e.p 0 1 = 4 then (if e.p 1 1 = 0 then 0 else 34 + e.p 2 1) else 10 + e.p 2 1

/-- Hash blocks of a pass over `n` bytes: SHA-512, or SHAKE256. -/
def edBlocks (c n : Nat) : Nat := if c = 4 then (n + 144) / 128 else n / 136 + 1

/-- What R401 adds: 80 or 32 cycles for each block of the passes of `lens` bytes. -/
def edAdd (c : Nat) (lens : List Nat) : Nat := (if c = 4 then 80 else 32) * (lens.map (edBlocks c)).sum

/-- EDDSA_SIGN: deterministic under RFC 8032; its passes are the seed's, r's and k's. -/
def execEddsaSign (j : Nat) (inp : Bytes) (s : State) : Host.Outcome State Fault Refusal :=
  .next (s.runOp j .eddsaSign inp fun s j =>
    s.gated j .eddsaSign (s.ecPhase j.curve) fun s j =>
      let c := j.curve
      let e := j.entry
      let l := s.curveL c
      let m := inp.length - e.p 2 1
      s.done j 0 ((edwards c).sign (s.ecSecret j.key c) (e.p 1 1) (inp.take (e.p 2 1)) (inp.drop (e.p 2 1)))
        (s.ecSignCycles c + edAdd c [l, edDom e + l + m, edDom e + 2 * l + m]))

/-- EDDSA_VERIFY: A and R decode and S is below L, then the verdict (R391, R392). -/
def execEddsaVerify (j : Nat) (inp : Bytes) (s : State) : Host.Outcome State Fault Refusal :=
  .next (s.runOp j .eddsaVerify inp fun s j =>
    let c := j.curve
    let e := j.entry
    let own : Bool := e.ctx ≠ 0
    let pkLen := if own then 0 else s.ecPkLen c
    let pk := if own then s.ecPk j.key c else inp.take pkLen
    let sig := slice inp pkLen (s.ecSigLen c)
    let form := inp.drop (pkLen + s.ecSigLen c)
    let m := form.length - e.p 2 1
    if !(edwards c).decodes pk sig then s.endWith j st.decodeFail 0 (s.ecPhase c)
    else
      s.verdict j ((edwards c).verify pk sig (e.p 1 1) (form.take (e.p 2 1)) (form.drop (e.p 2 1)))
        st.verifyFalse (s.ecVerifyCycles c + edAdd c [edDom e + 2 * s.curveL c + m]))

/-- EC_VALIDATE: the public-input phase alone; a failure carries the check's status in RESULT[47:32]. -/
def execEcValidate (j : Nat) (inp : Bytes) (s : State) : Host.Outcome State Fault Refusal :=
  .next (s.runOp j .ecValidate inp fun s j =>
    match s.pointFault j.curve inp with
    | some f => s.finish j.id st.verifyFalse (pairFalse ||| (f.zeroExtend 64 <<< 32)) [] (s.ecPhase j.curve)
    | none => s.finish j.id st.ok pairTrue [] (s.ecPhase j.curve))

/-- The nine checks of a curve set (R386): the number of the first that fails. -/
def curveFault (b : Bytes) : Option Nat :=
  let w : Weier := { p := setInt b 0, a := setInt b 1, b := setInt b 2, gx := setInt b 3, gy := setInt b 4, n := setOrder b,
                     h := setCofactor b }
  let gap : Int := (w.h * w.n : Int) - (w.p : Int) - 1
  let bad : Nat → Bool
    | 1 => slice b 16 1 = [0] || decide (w.p < 2 ^ 159 ∨ w.p ≤ w.a ∨ w.p ≤ w.b ∨ w.p ≤ w.gx ∨ w.p ≤ w.gy)
    | 2 => !bpsw w.p
    | 3 => decide ((4 * w.a ^ 3 + 27 * w.b ^ 2) % w.p = 0)
    | 4 => !w.on w.gx w.gy
    | 5 => !bpsw w.n
    | 6 => (w.mul w.n w.base).isSome
    | 7 => decide (w.h < 1 ∨ 8 < w.h) || decide (4 * (w.p : Int) < gap * gap)
    | 8 => (List.range 20).any fun k => powModN w.n w.p (k + 1) = 1 % w.n
    | _ => decide (w.h * w.n = w.p)
  ((List.range 9).map (· + 1)).find? bad

/-- CYCLES of CURVE_LOAD: a function of L, at most 80,000,000 (R386). -/
def curveLoadCycles (op : BitVec 16) (l : Nat) : Nat := min 80000000 (Config.cycles op [l])

/-- CURVE_LOAD (R386). A set that passes is installed only if the entry is still free to take it: another load may have
filled it, or a job may name it, since this one was admitted. -/
def execCurveLoad (j : Nat) (inp : Bytes) (s : State) : Host.Outcome State Fault Refusal :=
  .next (s.runOp j .curveLoad inp fun s j =>
    let l := leNat (slice inp 6 2)
    let ln := leNat (slice inp 8 2)
    let need := 16 + 5 * l + ln
    let form : Bool := slice inp 0 6 = leBytes 4 0x56524350 ++ leBytes 2 1 && slice inp 11 5 = zeros 5
      && decide (20 ≤ l ∧ l ≤ 128 ∧ 20 ≤ ln ∧ ln ≤ l + 1)
    let n := j.entry.p 1 1
    if !form then s.fail j st.decodeFail (s.phaseCycles j)
    else if inp.length ≠ need then s.finish j.id st.lengthMismatch (lenResult false true need) [] (s.phaseCycles j)
    else
      let cycles := curveLoadCycles j.entry.opcode l
      match curveFault inp with
      | some f => s.endWith j st.paramRejected f cycles
      | none =>
        if s.tables.curves.get [] n ≠ [] ∧ (j.entry.flag 2 = false ∨ s.curveInUse n) then
          s.finish j.id st.stateRefused (s.refusedWord j.fn 0) [] cycles
        else (s.mapTables fun t => { t with curves := t.curves.set [] n inp }).done j 0 [] cycles)

/-! ### Group 0x07 -/

/-- Bits of an exponent, most significant first. -/
def bitsOf (b : Bytes) : List Bool := b.flatMap fun x => (List.range 8).map fun i => x.getLsbD (7 - i)

/-- base ^ exponent modulo m. -/
def powMod (m base : Nat) (e : Bytes) : Nat :=
  (bitsOf e).foldl (fun acc bit => if bit then acc * acc % m * base % m else acc * acc % m) (1 % m)

/-- MOD_LEN of an entry. -/
def Job.modLen (j : Job) : Nat := j.entry.p 0 2

/-- The column of R402 for a modulus length: the next larger where it has none. -/
def rsaCol (k : Nat) : Nat := if k ≤ 256 then 1 else if k ≤ 384 then 2 else if k ≤ 512 then 3 else 4

def rsaPrivCycles (k : Nat) : Nat := pick [720000, 2327000, 5120000, 38000000] (rsaCol k)
def rsaBlobCycles (k : Nat) : Nat := pick [8000, 10000, 12000, 20000] (rsaCol k)
def rsaLoadCycles (k : Nat) : Nat := pick [20000, 30000, 40000, 80000] (rsaCol k)
def rsaPubCycles (k : Nat) : Nat := pick [40000, 85000, 150000, 580000] (rsaCol k)
def rsaGenCycles (k n : Nat) : Nat :=
  pick [2000000, 4000000, 7000000, 30000000] (rsaCol k) + pick [120000, 300000, 560000, 3600000] (rsaCol k) * n

/-- The `i`-th candidate for a prime of `bits` bits: a free odd number from √2 · 2^(bits − 1) up (FIPS 186-5). -/
def rsaCandidate (bits i : Nat) : Nat :=
  let lo := Nat.sqrt (2 ^ (2 * bits - 1)) + 1
  Nat.lor (lo + beNat (Config.freeBytes i (bits / 8)) % (2 ^ bits - 1 - lo)) 1

/-- A candidate is taken: p − 1 has no factor with e, the candidate lies far enough from the other prime, and the test
sequence of FIPS 186-5 passes it; that sequence draws its own bases, so its verdict on a number that is not prime is open. -/
def rsaTake (bits e other c : Nat) : Bool :=
  Nat.gcd (c - 1) e = 1 && decide (2 ^ (bits - 100) < (c - other) + (other - c))
    && (bpsw c || Config.primTrue .probablePrime [beBytes (bits / 8) c])

/-- The first candidate from `i` on that is taken, within the limit of 5 · nlen / 2 candidates: how many were tried, and the
prime, or none where the limit is reached (R397). -/
def rsaPrime (bits e other : Nat) : (left : Nat) → (i tried : Nat) → Nat × Option Nat
  | 0, _, tried => (tried, none)
  | k + 1, i, tried =>
    let c := rsaCandidate bits i
    if rsaTake bits e other c then (tried + 1, some c) else rsaPrime bits e other k (i + 1) (tried + 1)

/-- The inverse modulo any number. -/
def inverse (m a : Nat) : Nat := ((Nat.gcdA a m) % (m : Int)).toNat

/-- The wrapped key E ‖ N ‖ P ‖ Q ‖ DP ‖ DQ ‖ QINV of two primes (R394), d being the inverse of e modulo the least common
multiple of p − 1 and q − 1. -/
def rsaKeyOf (k e p q : Nat) : Bytes :=
  let d := inverse (Nat.lcm (p - 1) (q - 1)) e
  beBytes 4 e ++ beBytes k (p * q) ++ beBytes (k / 2) p ++ beBytes (k / 2) q ++ beBytes (k / 2) (d % (p - 1))
    ++ beBytes (k / 2) (d % (q - 1)) ++ beBytes (k / 2) (inverse p (q % p))

/-- RSA_KEYGEN: two primes for the exponent of PARAMS, the candidates tried for both in RESULT and CYCLES, and ENGINE_FAULT
where a prime's limit of 5 × nlen / 2 candidates is reached (R397). -/
def execRsaKeygen (j : Nat) (s : State) : Host.Outcome State Fault Refusal :=
  .next (s.runCmd j .rsaKeygen fun s j =>
    s.gated j .rsaKeygen 1000 fun s j =>
      let k := j.modLen
      let e := j.entry.p 4 4
      let limit := 5 * (8 * k) / 2
      let p := rsaPrime (4 * k) e 0 limit s.freeCtr 0
      let q := match p.2 with
        | some x => rsaPrime (4 * k) e x limit (s.freeCtr + p.1) 0
        | none => (0, none)
      let n := p.1 + q.1
      match p.2, q.2 with
      | some x, some y =>
        let key := rsaKeyOf k e x y
        (s.drawMany n).done j (n + 65536 * rsaParam k) (slice key 4 k ++ makeBlob j.key (j.crec.blobHeader 1 (rsaKeyLen k)) key)
          (rsaGenCycles k n)
      | _, _ => (s.drawMany n).endWith j st.engineFault (n + 65536 * rsaParam k) (rsaGenCycles k n))

/-- RSA_KEY_LOAD: the blob's key fills SLOT_A (R398). -/
def execRsaKeyLoad (j : Nat) (inp : Bytes) (s : State) : Host.Outcome State Fault Refusal :=
  .next (s.runOp j .rsaKeyLoad inp fun s j =>
    let k := j.modLen
    match blobFault j.crec (rsaKeyLen k) inp with
    | some c => s.fail j c 1000
    | none => s.gated j .rsaKeyLoad 1000 fun s j =>
        if blobOk j.key inp then
          (s.mapStore fun o => o.write j.entry.slotA.toNat (.rsa (handleIndex j.entry.ctx) j.crec.gen)
            (blobSecret j.key inp)).done j (rsaParam k) [] (rsaLoadCycles k)
        else s.fail j st.tagFail (rsaLoadCycles k))

/-- c^d by CRT over the wrapped key E ‖ N ‖ P ‖ Q ‖ DP ‖ DQ ‖ QINV (R394, R398). -/
def rsaCrt (k : Nat) (key : Bytes) (c : Nat) : Nat :=
  let h := k / 2
  let part (i : Nat) : Bytes := slice key (4 + k + i * h) h
  let p := beNat (part 0)
  let q := beNat (part 1)
  let m1 := powMod p c (part 2)
  let m2 := powMod q c (part 3)
  m2 + (beNat (part 4) * ((m1 + p * q - m2 % p) % p)) % p * q

/-- The private operation on a key: the range of c, the computation, and the check by e. -/
def State.rsaRun (s : State) (j : Job) (key c : Bytes) (cycles : Nat) : State :=
  let k := j.modLen
  let n := beNat (slice key 4 k)
  let x := beNat c
  let y := rsaCrt k key x
  if n ≤ x then s.endWith j st.operandRange 1 1000
  else if powMod n y (key.take 4) ≠ x then s.endWith j st.engineFault (rsaParam k) cycles
  else s.done j (rsaParam k) (beBytes k y) cycles

/-- RSA_PRIVATE: the key of the slot whose tag names CTX's index and GEN, or of the blob that leads the input. -/
def execRsaPrivate (j : Nat) (inp : Bytes) (s : State) : Host.Outcome State Fault Refusal :=
  .next (s.runOp j .rsaPrivate inp fun s j =>
    let k := j.modLen
    if j.entry.slotA ≠ noSlot then
      let slot := s.store.slot j.entry.slotA.toNat
      if slot.tag ≠ .rsa (handleIndex j.entry.ctx) j.crec.gen then s.fail j st.keyType 1000
      else if beNat (slice slot.content 4 k) ≤ beNat inp then s.endWith j st.operandRange 1 1000
      else s.gated j .rsaPrivate 1000 fun s j => s.rsaRun j slot.content inp (rsaPrivCycles k)
    else
      let blob := inp.take (blobLen (rsaKeyLen k))
      match blobFault j.crec (rsaKeyLen k) blob with
      | some c => s.fail j c 1000
      | none => s.gated j .rsaPrivate 1000 fun s j =>
          if blobOk j.key blob then
            s.rsaRun j (blobSecret j.key blob) (inp.drop (blobLen (rsaKeyLen k))) (rsaPrivCycles k + rsaBlobCycles k)
          else s.fail j st.tagFail (rsaPrivCycles k + rsaBlobCycles k))

/-- RSA_PUBLIC: E ‖ N ‖ x (R399). -/
def execRsaPublic (j : Nat) (inp : Bytes) (s : State) : Host.Outcome State Fault Refusal :=
  .next (s.runOp j .rsaPublic inp fun s j =>
    let k := j.modLen
    let e := beNat (inp.take 4)
    let n := beNat (slice inp 4 k)
    let x := beNat (inp.drop (4 + k))
    if n % 2 = 0 ∨ slice inp 4 1 = [0] then s.endWith j st.operandRange 0 1000
    else if n ≤ x then s.endWith j st.operandRange 1 1000
    else if e % 2 = 0 ∨ e < 3 then s.endWith j st.operandRange 3 1000
    else s.done j 0 (beBytes k (powMod n x (inp.take 4))) (rsaPubCycles k))

/-- The modulus and the operands below it, or the operand at fault (R399). -/
def modFault (m : Nat) (ops : List Nat) : Option Nat :=
  if m % 2 = 0 ∨ m ≤ 1 then some 0
  else
    let i := ops.findIdx fun x => decide (m ≤ x)
    if i < ops.length then some (i + 1) else none

/-- w of R402 for the modular opcodes. -/
def modW (k : Nat) : Nat := (k + 15) / 16

def execModexp (j : Nat) (inp : Bytes) (s : State) : Host.Outcome State Fault Refusal :=
  .next (s.runOp j .modexp inp fun s j =>
    let k := j.modLen
    let w := modW k
    let m := beNat (inp.take k)
    let b := beNat (slice inp k k)
    match modFault m [b] with
    | some i => s.endWith j st.operandRange i 1000
    | none => s.gated j .modexp 1000 fun s j =>
        s.done j 0 (beBytes k (powMod m b (inp.drop (2 * k)))) (1000 + 8 * j.entry.p 2 2 * (6 * w ^ 2 + 8 * w)))

def execModmul (j : Nat) (inp : Bytes) (s : State) : Host.Outcome State Fault Refusal :=
  .next (s.runOp j .modmul inp fun s j =>
    let k := j.modLen
    let w := modW k
    let m := beNat (inp.take k)
    let a := beNat (slice inp k k)
    let b := beNat (inp.drop (2 * k))
    match modFault m [a, b] with
    | some i => s.endWith j st.operandRange i 1000
    | none => s.gated j .modmul 1000 fun s j => s.done j 0 (beBytes k (a * b % m)) (1000 + 9 * w ^ 2 + 12 * w))

/-- MODINV: with a common factor the full count runs, then OPERAND_RANGE with 0x80 (R399). -/
def execModinv (j : Nat) (inp : Bytes) (s : State) : Host.Outcome State Fault Refusal :=
  .next (s.runOp j .modinv inp fun s j =>
    let k := j.modLen
    let m := beNat (inp.take k)
    let a := beNat (inp.drop k)
    let cycles := 1000 + 24 * k * (modW k + 2)
    match modFault m [a] with
    | some i => s.endWith j st.operandRange i 1000
    | none => s.gated j .modinv 1000 fun s j =>
        if Nat.gcd a m ≠ 1 then s.endWith j st.operandRange 0x80 cycles
        else s.done j 0 (beBytes k (inverse m a)) cycles)

/-! ### Group 0x0D -/

/-- The format of a program image (R406). -/
def dxFormOk (b : Bytes) : Bool :=
  let n := leNat (slice b 12 4)
  slice b 0 6 = leBytes 4 0x50584450 ++ leBytes 2 1 && decide (leNat (slice b 6 1) ≤ 1) && decide (leNat (slice b 7 1) ≤ 1)
    && decide (4 ≤ n ∧ n ≤ 16384 ∧ n % 4 = 0) && slice b 24 40 = zeros 40 && decide (b.length = 64 + n + 2592 + 4627)

/-- DX_PROGRAM_LOAD (R408). -/
def execDxProgramLoad (j : Nat) (inp : Bytes) (s : State) : Host.Outcome State Fault Refusal :=
  .next (s.runOp j .dxProgramLoad inp fun s j =>
    let n := leNat (slice inp 12 4)
    let pk := slice inp (64 + n) 2592
    let cycles := Config.cycles j.entry.opcode [inp.length]
    if !dxFormOk inp then s.fail j st.decodeFail (s.phaseCycles j)
    else if !(List.range 8).any fun i => s.keyFills false i pk then s.fail j st.paramRejected cycles
    else if !mldsa87Ok pk "PETHAL-DX500" (inp.take (64 + n)) (slice inp (2656 + n) 4627) then
      s.finish j.id st.verifyFalse pairFalse [] cycles
    else
      let pr : DxProg := { programId := leNat (slice inp 8 4), needsEntropy := leNat (slice inp 7 1) = 1,
                           cycleCount := leNat (slice inp 16 8), code := slice inp 64 n }
      (s.mapTables fun t => { t with dxProgs := (j.entry.p 0 1, pr) :: t.dxProgs.filter fun x => x.1 ≠ j.entry.p 0 1 }).finish
        j.id st.ok pairTrue [] cycles)

/-- DX_RUN: the program works on the registers in place and may seal some (R405, R408). -/
def execDxRun (j : Nat) (s : State) : Host.Outcome State Fault Refusal :=
  .next (s.runCmd j .dxRun fun s j =>
    let a := j.entry.slotA.toNat
    match s.tables.dxProgs.lookup (j.entry.p 0 1), (s.store.slot a).tag with
    | none, _ => s.finish j.id st.stateRefused (s.refusedWord j.fn 0) [] (s.phaseCycles j)
    | some pr, .dx seals => s.gated j .dxRun (s.phaseCycles j) fun s j =>
        let ins := [pr.code, (s.store.slot a).content, leBytes 4 seals.toNat, if pr.needsEntropy then s.freeNow 32 else []]
        let regs := Config.prim .dxRun ins 16384
        let seals' := seals ||| BitVec.ofNat 32 (Config.primCount .dxSeal ins)
        let status := Config.primCount .dxStatus ins % 65536
        let s1 := (if pr.needsEntropy then s.draw else s).mapStore fun o => o.write a (.dx seals') regs
        if status = 0 then s1.done j 0 [] pr.cycleCount else s1.endWith j st.paramRejected status pr.cycleCount
    | some _, _ => s.fail j st.keyType (s.phaseCycles j))

/-- The bits of the registers REG to REG + COUNT − 1. -/
def regMask (e : Entry) : BitVec 32 :=
  (List.range (e.p 2 1)).foldl (fun m i => m ||| (1#32 <<< (e.p 1 1 + i))) 0

/-- DX_SLOT_WRITE: an EMPTY slot becomes a register slot; the seal bits of the registers written are cleared. -/
def execDxSlotWrite (j : Nat) (inp : Bytes) (s : State) : Host.Outcome State Fault Refusal :=
  .next (s.runOp j .dxSlotWrite inp fun s j =>
    let a := j.entry.slotA.toNat
    let off := 512 * j.entry.p 1 1
    let cycles := Config.cycles j.entry.opcode [inp.length]
    let put (old : Bytes) : Bytes := old.take off ++ inp ++ old.drop (off + inp.length)
    match (s.store.slot a).tag with
    | .empty => (s.mapStore fun o => o.write a (.dx 0) (put (zeros 16384))).done j 0 [] cycles
    | .dx seals => (s.mapStore fun o => o.write a (.dx (seals &&& ~~~ regMask j.entry)) (put (o.slot a).content)).done j 0 [] cycles
    | _ => s.fail j st.keyType (s.phaseCycles j))

/-- DX_SLOT_READ: a read that covers a sealed register ends with KEY_POLICY. -/
def execDxSlotRead (j : Nat) (s : State) : Host.Outcome State Fault Refusal :=
  .next (s.runCmd j .dxSlotRead fun s j =>
    let slot := s.store.slot j.entry.slotA.toNat
    match slot.tag with
    | .dx seals =>
      if (seals &&& regMask j.entry) ≠ 0 then s.fail j st.keyPolicy (s.phaseCycles j)
      else s.done j 0 (slice slot.content (512 * j.entry.p 1 1) (512 * j.entry.p 2 1)) (Config.cycles j.entry.opcode [j.entry.p 2 1])
    | _ => s.fail j st.keyType (s.phaseCycles j))

/-! ### Group 0x09 -/

/-- 16-byte blocks of `n` bytes. -/
def blocks16 (n : Nat) : Nat := (n + 15) / 16

/-- The key of an AES job, of `n` bytes at the head of the input when CTX is zero, and the rest of the input (R410). -/
def Job.aes (j : Job) (n : Nat) (inp : Bytes) : Bytes × Bytes := if j.entry.ctx = 0 then (inp.take n, inp.drop n) else (j.key, inp)

/-- CYCLES of GCM and CMAC over `b` blocks (R413). -/
def gcmCycles (b : Nat) : Nat := 80 + 4 * (b + 1)

/-- GCM_ENCRYPT: [IV] ‖ AAD ‖ P to [IV] ‖ C ‖ tag; IV_GEN draws the IV and writes it first (R412). -/
def execGcmEncrypt (j : Nat) (inp : Bytes) (s : State) : Host.Outcome State Fault Refusal :=
  .next (s.runOp j .gcmEncrypt inp fun s j =>
    s.gated j .gcmEncrypt (s.phaseCycles j) fun s j =>
      let gen := j.entry.flag 2
      let (key, rest) := j.aes 32 inp
      let iv := if gen then s.freeNow 12 else rest.take 12
      let body := if gen then rest else rest.drop 12
      let aad := body.take (j.entry.p 0 4)
      let p := body.drop (j.entry.p 0 4)
      let c := gcmCrypt key iv p
      let out := (if gen then iv else []) ++ c
        ++ (gcmTag key iv aad c).take (j.entry.p 4 1)
      (if gen then s.draw else s).done j 0 out (gcmCycles (blocks16 aad.length + blocks16 p.length)))

/-- GCM_DECRYPT: IV ‖ AAD ‖ C ‖ tag; a mismatch zero-fills the plaintext (R238, R412). -/
def execGcmDecrypt (j : Nat) (inp : Bytes) (s : State) : Host.Outcome State Fault Refusal :=
  .next (s.runOp j .gcmDecrypt inp fun s j =>
    s.gated j .gcmDecrypt (s.phaseCycles j) fun s j =>
      let (key, rest) := j.aes 32 inp
      let iv := rest.take 12
      let body := rest.drop 12
      let aad := body.take (j.entry.p 0 4)
      let n := body.length - j.entry.p 0 4 - j.entry.p 4 1
      let c := slice body (j.entry.p 0 4) n
      let cycles := gcmCycles (blocks16 aad.length + blocks16 n)
      if gcmOk key iv aad c (body.drop (j.entry.p 0 4 + n)) then
        s.finish j.id st.ok pairTrue (gcmCrypt key iv c) cycles
      else (s.mapJob j.id fun x => { x with written := zeros n }).finish j.id st.tagFail pairFalse [] cycles)

/-- An XTS data unit (R411, R412): with K1 equal to K2 it runs in full and then ends with PARAM_REJECTED. -/
def State.xts (s : State) (j : Job) (dec : Bool) (inp : Bytes) : State :=
  let (k, m) := j.aes 64 inp
  let key := if j.entry.ctx = 0 then k else Config.kmac256 k (Config.ascii "AES-XTS") 64 (Config.ascii "PETHAL-SEED")
  let cycles := 80 + 4 * blocks16 m.length + (if m.length % 16 = 0 then 0 else 4)
  if key.take 32 = key.drop 32 then s.fail j st.paramRejected cycles
  else s.done j 0 (xtsCrypt dec key (leBytes 16 (j.entry.p 8 16)) m) cycles

def execXtsEncrypt (j : Nat) (inp : Bytes) (s : State) : Host.Outcome State Fault Refusal :=
  .next (s.runOp j .xtsEncrypt inp fun s j => s.gated j .xtsEncrypt (s.phaseCycles j) fun s j => s.xts j false inp)

def execXtsDecrypt (j : Nat) (inp : Bytes) (s : State) : Host.Outcome State Fault Refusal :=
  .next (s.runOp j .xtsDecrypt inp fun s j => s.gated j .xtsDecrypt (s.phaseCycles j) fun s j => s.xts j true inp)

/-- CYCLES of KW and KWP over `n` bytes of key data (R413). -/
def kwCycles (n : Nat) : Nat := 80 + 24 * ((n + 7) / 8)

def execKwWrap (j : Nat) (inp : Bytes) (s : State) : Host.Outcome State Fault Refusal :=
  .next (s.runOp j .kwWrap inp fun s j =>
    s.gated j .kwWrap (s.phaseCycles j) fun s j =>
      let (key, m) := j.aes 32 inp
      s.done j 0 (if j.entry.p 5 1 = 0 then kwWrap key m else kwpWrap key m) (kwCycles m.length))

/-- KW_UNWRAP: an integrity failure ends with TAG_FAIL after a count of the length (R412). KWP recovers the length of the
key data. -/
def execKwUnwrap (j : Nat) (inp : Bytes) (s : State) : Host.Outcome State Fault Refusal :=
  .next (s.runOp j .kwUnwrap inp fun s j =>
    s.gated j .kwUnwrap (s.phaseCycles j) fun s j =>
      let (key, w) := j.aes 32 inp
      let n := w.length - 8
      match (if j.entry.p 5 1 = 1 then kwpUnwrap key w else kwUnwrap key w) with
      | some m => s.done j 0 m (kwCycles n)
      | none => s.fail j st.tagFail (kwCycles n))

/-- CMAC: Message ‖ [tag]; CHECK returns a verdict (R240, R412). An empty message is one block. -/
def execCmac (j : Nat) (inp : Bytes) (s : State) : Host.Outcome State Fault Refusal :=
  .next (s.runOp j .cmac inp fun s j =>
    s.gated j .cmac (s.phaseCycles j) fun s j =>
      let (key, rest) := j.aes 32 inp
      let n := j.entry.p 4 1
      let check := j.entry.flag 2
      let m := if check then rest.take (rest.length - n) else rest
      let tag := (aesCmac key m).take n
      let cycles := gcmCycles (max 1 (blocks16 m.length))
      if check then s.verdict j (tag = rest.drop (rest.length - n)) st.tagFail cycles else s.done j 0 tag cycles)

end Sys2Proof.Machine
end

