-- ==== Sys2Proof/Machine/Codes.lean ====
section
/-!
DEFINITION. Machine/Codes.lean: Classic McEliece as the specification of round 4 has it (R357), with PSET 1 to 10 for its ten
sets (R358). The spec names the specification and does not restate it (log row 4). A field element is the number of its bits, a
polynomial the list of its coefficients, a row of a binary matrix the number whose bit `j` is column `j`.
-/
namespace Sys2Proof.Machine
open Sys2Proof

/-- The numbers of a set: the field GF(2^m) by its polynomial `f`, n, t, the low coefficients of F(y), and the f variant. -/
structure MceSet where
  m    : Nat
  f    : Nat
  n    : Nat
  t    : Nat
  low  : Nat → Nat
  semi : Bool

/-- The set of a PSET; the f variants have the even numbers. -/
def mceSet (p : Nat) : MceSet :=
  let semi : Bool := p % 2 = 0
  let ones (l : List Nat) (i : Nat) : Nat := if l.contains i then 1 else 0
  match (p + 1) / 2 with
  | 1 => { m := 12, f := 0x1009, n := 3488, t := 64, low := fun i => if i = 0 then 2 else ones [3, 1] i, semi }
  | 2 => { m := 13, f := 0x201B, n := 4608, t := 96, low := ones [10, 9, 6, 0], semi }
  | 3 => { m := 13, f := 0x201B, n := 6688, t := 128, low := ones [7, 2, 1, 0], semi }
  | 4 => { m := 13, f := 0x201B, n := 6960, t := 119, low := ones [8, 0], semi }
  | _ => { m := 13, f := 0x201B, n := 8192, t := 128, low := ones [7, 2, 1, 0], semi }

/-- q, and the rows m·t of the parity-check matrix. -/
def MceSet.q (c : MceSet) : Nat := 2 ^ c.m
def MceSet.rows (c : MceSet) : Nat := c.m * c.t

/-! ### The field -/

def MceSet.mulFrom (c : MceSet) (a b : Nat) : (i : Nat) → Nat → Nat
  | 0, acc => acc
  | i + 1, acc =>
    let d := 2 * acc
    let r := if d.testBit c.m then d ^^^ c.f else d
    c.mulFrom a b i (if b.testBit i then r ^^^ a else r)

def MceSet.mul (c : MceSet) (a b : Nat) : Nat := c.mulFrom a b c.m 0

/-- The inverse: the power q − 2; 0 for 0. -/
def MceSet.invFrom (c : MceSet) : (k : Nat) → Nat → Nat → Nat
  | 0, _, acc => acc
  | k + 1, x, acc => let y := c.mul x x; c.invFrom k y (c.mul acc y)

def MceSet.inv (c : MceSet) (a : Nat) : Nat := c.invFrom (c.m - 1) a 1

/-- The value of a polynomial. -/
def MceSet.eval (c : MceSet) (g : List Nat) (x : Nat) : Nat := g.foldr (fun a acc => c.mul acc x ^^^ a) 0

/-! ### Key generation -/

def MceSet.lowRow (c : MceSet) : List Nat := (List.range c.t).map c.low

/-- y times an element of GF(q)[y]/F, and the product of two. -/
def MceSet.timesY (c : MceSet) (p : List Nat) : List Nat :=
  let h := p.getLastD 0
  List.zipWith (· ^^^ ·) (0 :: p.dropLast) (c.lowRow.map (c.mul h))

def MceSet.mulF (c : MceSet) (a b : List Nat) : List Nat :=
  a.foldr (fun x acc => List.zipWith (· ^^^ ·) (b.map (c.mul x)) (c.timesY acc)) (List.replicate c.t 0)

/-- Powers of β from 1 on. -/
def MceSet.powers (c : MceSet) (beta : List Nat) : (k : Nat) → List Nat → List (List Nat)
  | 0, _ => []
  | k + 1, x => x :: c.powers beta k (c.mulF x beta)

/-- Elimination over GF(q), a column a step; none where a column has no pivot. -/
def MceSet.solve (c : MceSet) : (k : Nat) → (done rest : List (List Nat)) → Option (List (List Nat))
  | 0, done, _ => some done
  | k + 1, done, rest =>
    match rest.span fun r => decide (r.headD 0 = 0) with
    | (_, []) => none
    | (a, p :: b) =>
      let i := c.inv (p.headD 0)
      let pt := (p.drop 1).map (c.mul i)
      let clear (r : List Nat) : List Nat :=
        let h := r.headD 0
        List.zipWith (fun x y => x ^^^ c.mul h y) (r.drop 1) pt
      c.solve k (done.map clear ++ [pt]) ((a ++ b).map clear)

/-- The coefficients of the minimal polynomial of β but for its leading 1; none where its degree is below t. -/
def MceSet.irreducible (c : MceSet) (d : Bytes) : Option (List Nat) :=
  let beta := (chunks 2 c.t d).map fun b => leNat b % c.q
  let ps := c.powers beta (c.t + 1) (1 :: List.replicate (c.t - 1) 0)
  (c.solve c.t [] ((List.range c.t).map fun i => ps.map fun p => p.getD i 0)).map fun rows => rows.map fun r => r.headD 0

/-- The permutation of a field ordering: the positions sorted by their 32-bit values; none where two values agree. -/
def MceSet.ordering (c : MceSet) (d : Bytes) : Option (List Nat) :=
  let l := ((chunks 4 c.q d).map leNat).zip (List.range c.q)
  let r := l.mergeSort fun a b => decide (a.1 ≤ b.1)
  if (r.zip (r.drop 1)).any fun x => x.1.1 = x.2.1 then none else some (r.map Prod.snd)

/-- The bits of a number in reverse order: the field element at a position. -/
def MceSet.element (c : MceSet) (v : Nat) : Nat := ((List.range c.m).map fun i => if v.testBit i then 2 ^ (c.m - 1 - i) else 0).sum

/-- A binary number from its bits, the lowest first. -/
def bitsNat (l : List Bool) : Nat := l.foldr (fun b acc => 2 * acc + b.toNat) 0

/-- The rows of the parity-check matrix: m bits of α^i / g(α) for each i below t. -/
def MceSet.parity (c : MceSet) (g support : List Nat) : List Nat :=
  let step (v : List Nat) : List Nat := List.zipWith c.mul v support
  let rec go : Nat → List Nat → List Nat
    | 0, _ => []
    | k + 1, v => ((List.range c.m).map fun b => bitsNat (v.map fun x => x.testBit b)) ++ go k (step v)
  go c.t (support.map fun x => c.inv (c.eval (g ++ [1]) x))

/-- Elimination over GF(2) along columns; one below `must` without a pivot ends it. The rows and their pivots. -/
def eliminate (must : Nat) : (cols done rest piv : List Nat) → Option (List Nat × List Nat)
  | [], done, rest, piv => if rest = [] then some (done, piv) else none
  | col :: cs, done, rest, piv =>
    match rest.span fun r => !r.testBit col with
    | (_, []) => if rest = [] then some (done, piv) else if col < must then none else eliminate must cs done rest piv
    | (a, p :: b) =>
      let clear (r : Nat) : Nat := if r.testBit col then r ^^^ p else r
      eliminate must cs (done.map clear ++ [p]) ((a ++ b).map clear) (piv ++ [col])

/-- Two bits of a number, and two entries of a list, change places. -/
def swapBits (i j r : Nat) : Nat := if r.testBit i = r.testBit j then r else r ^^^ 2 ^ i ^^^ 2 ^ j
def swapAt (i j : Nat) (l : List Nat) : List Nat := (l.set i (l.getD j 0)).set j (l.getD i 0)

/-- The systematic form, or the semi-systematic form with (μ, ν) = (32, 64): the rows of (I | T), the permutation with the
columns moved, and the 64 bits that name the pivots. -/
def MceSet.systematic (c : MceSet) (g perm : List Nat) : Option (List Nat × List Nat × Nat) :=
  let support := (perm.take c.n).map c.element
  let r := c.rows
  let (must, cols) := if c.semi then (r - 32, r + 32) else (r, r)
  match eliminate must (List.range cols) [] (c.parity g support) [] with
  | none => none
  | some (rows, piv) =>
    let moves := (List.range r).zip piv
    some (rows.map fun x => moves.foldl (fun x m => swapBits m.1 m.2 x) x, moves.foldl (fun l m => swapAt m.1 m.2 l) perm,
      ((piv.drop (r - 32)).map fun i => 2 ^ (i - (r - 32))).sum)

/-- y ↦ c(π⁻¹(y)), as lists. -/
def composeInv (c p : List Nat) : List Nat :=
  ((p.zip c).foldl (fun a x => a.setIfInBounds x.1 x.2) (Array.replicate p.length 0)).toList

/-- The control bits of the Beneš network of a permutation of 2^m positions. -/
def controlBits : (m : Nat) → List Nat → List Nat
  | 0, _ => []
  | 1, pi => [pi.getD 0 0]
  | m + 2, pi =>
    let a := pi.toArray
    let n := pi.length
    let all := List.range n
    let inv := composeInv all pi
    let p0 := all.map fun x => a.getD (x ^^^ 1) 0
    let q0 := all.map fun x => a.getD x 0 ^^^ 1
    let p1 := composeInv p0 q0
    let q1 := composeInv q0 p0
    let c1 := List.zipWith min all p1
    let rec cycle : Nat → List Nat → List Nat → List Nat → List Nat
      | 0, c, _, _ => c
      | k + 1, c, p, q => cycle k (List.zipWith min c (composeInv c q)) (composeInv p q) (composeInv q p)
    let c := (cycle m c1 (composeInv p1 q1) (composeInv q1 p1)).toArray
    let half := List.range (n / 2)
    let f := half.map fun j => c.getD (2 * j) 0 % 2
    let fa := f.toArray
    let fpi := (composeInv (all.map fun x => x ^^^ fa.getD (x / 2) 0) inv).toArray
    let l := half.map fun k => fpi.getD (2 * k) 0 % 2
    let la := l.toArray
    let mm := (all.map fun y => fpi.getD (y ^^^ la.getD (y / 2) 0) 0).toArray
    let sub (e : Nat) : List Nat := controlBits (m + 1) (half.map fun j => mm.getD (2 * j + e) 0 / 2)
    f ++ (List.zipWith (fun x y => [x, y]) (sub 0) (sub 1)).flatten ++ l

/-- One layer of a Beneš network: pairs at a distance of `gap` change places where their control bit is set. -/
def benesLayer (gap : Nat) : (k : Nat) → List Bool → List Nat → List Nat
  | 0, _, l => l
  | k + 1, bits, l =>
    let a := l.take gap
    let b := (l.drop gap).take gap
    let w := bits.take gap
    let pick' (x y : List Nat) : List Nat := List.zipWith (fun s z => if s then z.2 else z.1) w (x.zip y)
    pick' a b ++ pick' b a ++ benesLayer gap k (bits.drop gap) (l.drop (2 * gap))

/-- The permutation that control bits give. -/
def MceSet.network (c : MceSet) (bits : List Bool) : List Nat :=
  (List.range (2 * c.m - 1)).foldl (fun l i =>
    let gap := 2 ^ min i (2 * c.m - 2 - i)
    benesLayer gap (c.q / (2 * gap)) (bits.drop (i * (c.q / 2))) l) (List.range c.q)

/-- The bits of bytes, the lowest of each byte first; and back. -/
def codeBits (b : Bytes) : List Bool := b.flatMap fun x => (List.range 8).map x.getLsbD
def bytesOfBits (l : List Bool) : (n : Nat) → Bytes
  | 0 => []
  | n + 1 => BitVec.ofNat 8 (bitsNat (l.take 8)) :: bytesOfBits (l.drop 8) n

/-- The bytes of the control bits. -/
def MceSet.netBytes (c : MceSet) : Nat := (2 * c.m - 1) * c.q / 16

/-- One attempt of SeededKeyGen: pk and sk where it succeeds, and the seed of the next. -/
def MceSet.attempt (c : MceSet) (seed : Bytes) : Option (Bytes × Bytes) × Bytes :=
  let e := Config.shake256 ([64] ++ seed) (c.n / 8 + 4 * c.q + 2 * c.t + 32)
  let key : Option (Bytes × Bytes) :=
    match c.ordering (slice e (c.n / 8) (4 * c.q)), c.irreducible (slice e (c.n / 8 + 4 * c.q) (2 * c.t)) with
    | some perm, some g =>
      (c.systematic g perm).map fun r =>
        let k := c.n - c.rows
        (r.1.flatMap fun row => leBytes ((k + 7) / 8) (row / 2 ^ c.rows),
          seed ++ leBytes 8 r.2.2 ++ g.flatMap (leBytes 2)
            ++ bytesOfBits ((controlBits c.m r.2.1).map fun b => decide (b = 1)) c.netBytes ++ e.take (c.n / 8))
    | _, _ => none
  (key, e.drop (c.n / 8 + 4 * c.q + 2 * c.t))

/-- The attempts within `left`: how many ran, and the key pair, or none at the bound (R365). -/
def MceSet.attempts (c : MceSet) : (left i : Nat) → Bytes → Nat × Option (Bytes × Bytes)
  | 0, i, _ => (i, none)
  | k + 1, i, seed =>
    match c.attempt seed with
    | (some key, _) => (i + 1, some key)
    | (none, next) => c.attempts k (i + 1) next

/-- The key generation of a set from a seed, bounded at 1,024 attempts (R365). -/
@[irreducible] def mceKeys (p : Nat) (seed : Bytes) : Nat × Option (Bytes × Bytes) := (mceSet p).attempts 1024 0 seed

/-! ### Encapsulation -/

/-- One attempt of FixedWeight over random bytes: t distinct positions below n. -/
def MceSet.positions (c : MceSet) (b : Bytes) : Option (List Nat) :=
  let tau := if c.n = c.q then c.t else 2 * c.t
  let l := (((chunks 2 tau b).map fun x => leNat x % c.q).filter fun v => decide (v < c.n)).take c.t
  if l.length = c.t ∧ l.Nodup then some l else none

/-- FixedWeight over a stream of random values: the positions, and how many values it took. After 1,024 values, which all
fail with a chance below 2^-600, there are none. -/
def MceSet.weightFrom (c : MceSet) (rnd : Nat → Bytes) : (left k : Nat) → List Nat × Nat
  | 0, k => ([], k)
  | n + 1, k => match c.positions (rnd k) with | some l => (l, k + 1) | none => c.weightFrom rnd n (k + 1)

/-- The parity of the bits of a number below 2^8192. -/
def parityOf (x : Nat) : Bool := ((List.range 13).reverse.foldl (fun x k => x ^^^ x >>> 2 ^ k) x).testBit 0

/-- (I | T) times the vector of a number of n bits, as the bytes of a ciphertext. -/
def MceSet.encode (c : MceSet) (pk : Bytes) (e : Nat) : Bytes :=
  let r := c.rows
  let rows := chunks ((c.n - r + 7) / 8) r pk
  let high := e / 2 ^ r
  bytesOfBits (List.zipWith (fun row i => (parityOf (Nat.land (leNat row % 2 ^ (c.n - r)) high)).xor (e.testBit i)) rows (List.range r))
    ((r + 7) / 8)

/-- The session key over a tag, a vector and a ciphertext. -/
def mceHash (b : Byte) (e ct : Bytes) : Bytes := Config.shake256 ([b] ++ e ++ ct) 32

/-- The ciphertext and session key of a weight-t vector given by its positions. An f variant has the function of its base
set (R358). -/
@[irreducible] def mceEncaps (p : Nat) (pk : Bytes) (pos : List Nat) : Bytes × Bytes :=
  let c := mceSet p
  let e := (pos.map fun i => 2 ^ i).sum
  let ct := c.encode pk e
  (ct, mceHash 1 (leBytes (c.n / 8) e) ct)

/-- The positions of an encapsulation, and how many random values they took. -/
@[irreducible] def mceWeight (p : Nat) (rnd : Nat → Bytes) : List Nat × Nat := (mceSet p).weightFrom rnd 1024 0

/-! ### Decapsulation -/

/-- The 2t syndromes of a vector over the square of the Goppa polynomial. -/
def MceSet.syndromes (c : MceSet) (g support : List Nat) (v : List Bool) : List Nat :=
  let start := (List.zipWith (fun x (b : Bool) => (x, if b then let i := c.inv (c.eval (g ++ [1]) x); c.mul i i else 0)) support v).filter
    fun x => decide (x.2 ≠ 0)
  let rec go : Nat → List (Nat × Nat) → List Nat
    | 0, _ => []
    | k + 1, l => l.foldl (fun s x => s ^^^ x.2) 0 :: go k (l.map fun x => (x.1, c.mul x.1 x.2))
  go (2 * c.t) start

/-- Berlekamp and Massey: the connection polynomial of t + 1 coefficients; `seen` holds the syndromes taken, the last first. -/
def MceSet.massey (c : MceSet) : (rest seen : List Nat) → (l b : Nat) → (cur old : List Nat) → List Nat
  | [], _, _, _, cur, _ => cur
  | s :: rest, seen, l, b, cur, old =>
    let seen := s :: seen
    let d := (List.zipWith c.mul cur seen).foldl (· ^^^ ·) 0
    let shifted := 0 :: old.take c.t
    let next := let k := c.mul d (c.inv b); List.zipWith (fun x y => x ^^^ c.mul k y) cur shifted
    if d = 0 then c.massey rest seen l b cur shifted
    else if 2 * l < seen.length then c.massey rest seen (seen.length - l) d next cur
    else c.massey rest seen l b next shifted

/-- Decapsulation (R370): the vector of weight t whose syndrome is the ciphertext gives the session key; where there is none,
the key's own string gives the rejection key. -/
@[irreducible] def mceDecaps (p : Nat) (sk ct : Bytes) : Bytes :=
  let c := mceSet p
  let g := (chunks 2 c.t (sk.drop 40)).map fun b => leNat b % c.q
  let at' := 40 + 2 * c.t
  let support := ((c.network (codeBits (slice sk at' c.netBytes))).take c.n).map c.element
  let v := (codeBits ct).take c.rows ++ List.replicate (c.n - c.rows) false
  let syn := c.syndromes g support v
  let loc := (c.massey syn [] 0 1 (1 :: List.replicate c.t 0) (1 :: List.replicate c.t 0)).reverse
  let e := support.map fun x => decide (c.eval loc x = 0)
  let good : Bool := (e.filter id).length = c.t && c.syndromes g support e = syn
  if good then mceHash 1 (bytesOfBits e (c.n / 8)) ct else mceHash 0 (slice sk (at' + c.netBytes) (c.n / 8)) ct

end Sys2Proof.Machine
end

