-- ==== Sys2Proof/Machine/CodeCmds.lean ====
section
/-!
DEFINITION. Machine/CodeCmds.lean: Classic McEliece and HQC on the code-based unit (chapter 10). SLOT_B is scratch, which
the release of the job spoils (R362).
-/
namespace Sys2Proof.Machine
open Sys2Proof

/-- Fixed counts of R372. -/
def mceRow (p : Nat) : Nat := (p + 1) / 2
def mceEncCycles (p : Nat) : Nat := pick [22000, 42000, 80000, 80000, 102000] (mceRow p)
def mceDecCycles (p : Nat) : Nat := pick [90000, 150000, 200000, 200000, 210000] (mceRow p)
def mceGenA (p : Nat) : Nat := pick [1500000, 4700000, 12000000, 12000000, 16000000] (mceRow p)
def mceGenC (p : Nat) : Nat := pick [9000000, 28000000, 72000000, 74000000, 98000000] (mceRow p)
def hqcEncCycles : Nat → Nat := pick [3200, 6400, 10640]
def hqcDecCycles : Nat → Nat := pick [6400, 12800, 20000]
def hqcGenCycles : Nat → Nat := pick [2400, 4800, 8000]


/-- PSET of an entry. -/
def Job.set (j : Job) : Nat := j.entry.p 0 1

/-- MCE_KEYGEN: a seed from the DRBG, the attempts it takes, pk and the wrapped sk (R365). -/
def execMceKeygen (j : Nat) (s : State) : Host.Outcome State Fault Refusal :=
  .next (s.runCmd j .mceKeygen fun s j =>
    s.gated j .mceKeygen (s.phaseCycles j) fun s j =>
      let p := j.set
      let seed := s.freeNow 32
      let key := mceKeys p seed
      let n := key.1
      match key.2 with
      | none => s.draw.endWith j st.engineFault 1024 (mceGenA p + mceGenC p * 1024)
      | some (pk, sk) =>
        let blob := makeBlob j.key (j.crec.blobHeader 1 (mceSkLen p)) sk
        let s1 := if j.entry.slotA = noSlot then s.draw
          else s.draw.mapStore fun o => o.write j.entry.slotA.toNat (.mce p) pk
        s1.done j (n + 65536 * p) (pk ++ blob) (mceGenA p + mceGenC p * n))

/-- MCE_ENCAPS: the public key of the slot or of the input (R363, R368). -/
def execMceEncaps (j : Nat) (inp : Bytes) (s : State) : Host.Outcome State Fault Refusal :=
  .next (s.runOp j .mceEncaps inp fun s j =>
    let p := j.set
    let slot := s.store.slot j.entry.slotA.toNat
    if j.entry.slotA ≠ noSlot ∧ slot.tag ≠ .mce p then s.fail j st.keyType (s.phaseCycles j)
    else s.gated j .mceEncaps (s.phaseCycles j) fun s j =>
      let pk := if j.entry.slotA = noSlot then inp else slot.content
      let w := mceWeight p fun k => Config.freeBytes (s.freeCtr + k) 512
      let x := mceEncaps p pk w.1
      (s.drawMany w.2).done j 0 (x.1 ++ x.2) (mceEncCycles p))

/-- MCE_DECAPS: blob ‖ ct; the header in the public-input phase, then the unwrapping, then the whole algorithm with implicit
rejection (R368 to R370). -/
def execMceDecaps (j : Nat) (inp : Bytes) (s : State) : Host.Outcome State Fault Refusal :=
  .next (s.runOp j .mceDecaps inp fun s j =>
    let p := j.set
    let blob := inp.take (blobLen (mceSkLen p))
    match blobFault j.crec (mceSkLen p) blob with
    | some c => s.fail j c (s.phaseCycles j)
    | none => s.gated j .mceDecaps (s.phaseCycles j) fun s j =>
        if blobOk j.key blob then
          s.done j 0 (mceDecaps p (blobSecret j.key blob) (inp.drop (blobLen (mceSkLen p)))) (mceDecCycles p)
        else s.fail j st.tagFail (Config.cycles j.entry.opcode [p, 1]))

/-- MCE_PK_LOAD: no value check (R364). -/
def execMcePkLoad (j : Nat) (inp : Bytes) (s : State) : Host.Outcome State Fault Refusal :=
  .next (s.runOp j .mcePkLoad inp fun s j =>
    (s.mapStore fun o => o.write j.entry.slotA.toNat (.mce j.set) inp).done j 0 [] 2000)

/-- The seed of an HQC key (R360). -/
def hqcSeed (key : Bytes) (p : Nat) : Bytes :=
  Config.kmac256 key (Config.ascii "HQC" ++ byte p) 32 (Config.ascii "PETHAL-SEED")

/-- The public key of a seed. -/
def hqcPk (p : Nat) (seed : Bytes) : Bytes := Config.prim (.hqcPk p) [seed] (hqcPkLen p)

/-- The ciphertext and the session key that the random values of an encapsulation give under a public key. -/
def hqcCt (p : Nat) (pk m : Bytes) : Bytes := Config.prim (.hqcCt p) [pk, m] (hqcCtLen p)
def hqcKey (p : Nat) (pk m : Bytes) : Bytes := Config.prim (.hqcSs p) [pk, m] 32

/-- Decapsulation (R370): what decrypting yields is encrypted again and compared; the session key where the two agree, else
the rejection key. -/
def hqcDecaps (p : Nat) (seed ct : Bytes) : Bytes :=
  let m := Config.prim (.hqcMsg p) [seed, ct] 64
  if hqcCt p (hqcPk p seed) m = ct then hqcKey p (hqcPk p seed) m else Config.prim (.hqcReject p) [seed, ct] 32

def execHqcKeygen (j : Nat) (s : State) : Host.Outcome State Fault Refusal :=
  .next (s.runCmd j .hqcKeygen fun s j =>
    s.gated j .hqcKeygen (s.phaseCycles j) fun s j =>
      s.done j 0 (hqcPk j.set (hqcSeed j.key j.set)) (hqcGenCycles j.set))

/-- n of a set: the coefficients of a ring element (the specification of HQC, log row 4). -/
def hqcN : Nat → Nat := pick [17669, 35851, 57637]

/-- Padding bits of an encoding (R368): those above n bits of the ring element that begins at byte `off`. When one is not zero,
the byte offset of its byte. -/
def hqcPadBad (p off : Nat) (b : Bytes) : Option Nat :=
  let i := off + hqcN p / 8
  if (b.getD i 0).toNat < 2 ^ (hqcN p % 8) then none else some i

def execHqcEncaps (j : Nat) (inp : Bytes) (s : State) : Host.Outcome State Fault Refusal :=
  .next (s.runOp j .hqcEncaps inp fun s j =>
    match hqcPadBad j.set 32 inp with
    | some i => s.endWith j st.decodeFail i (s.phaseCycles j)
    | none => s.gated j .hqcEncaps (s.phaseCycles j) fun s j =>
        let m := s.freeNow 64
        s.draw.done j 0 (hqcCt j.set inp m ++ hqcKey j.set inp m) (hqcEncCycles j.set))

def execHqcDecaps (j : Nat) (inp : Bytes) (s : State) : Host.Outcome State Fault Refusal :=
  .next (s.runOp j .hqcDecaps inp fun s j =>
    match hqcPadBad j.set 0 inp with
    | some i => s.endWith j st.decodeFail i (s.phaseCycles j)
    | none => s.gated j .hqcDecaps (s.phaseCycles j) fun s j =>
        s.done j 0 (hqcDecaps j.set (hqcSeed j.key j.set) inp) (hqcDecCycles j.set))

end Sys2Proof.Machine
end

