-- ==== Sys2Proof/Machine/GuardOps.lean ====
section
/-!
DEFINITION. Machine/GuardOps.lean: the platform guard's shared operations: the Sieve policy (R92 to R97), the guard
manifest (R98 to R101), holds and their dependencies (R87 to R90, R123), verification and recovery of a region
(R105 to R107, R128, R129), and the effective policy of a block (R108).
-/
namespace Sys2Proof.Machine
open Sys2Proof

/-! ### The Sieve policy -/

/-- Little-endian field of a byte string. -/
def fieldAt (b : Bytes) (off n : Nat) : Nat := leNat (slice b off n)

/-- A range of bytes is zero. -/
def zeroAt (b : Bytes) (off n : Nat) : Bool := fieldAt b off n = 0

/-- The first chip, which stands where a PORT_CS byte names none. -/
def chip0 : Chip := ⟨.a, false⟩

def parsePort (b : Bytes) (off : Nat) : PolicyPort :=
  { enable := fieldAt b off 1 = 1, dummy := fieldAt b (off + 1) 1, initMode := fieldAt b (off + 2) 1,
    cs0 := fieldAt b (off + 4) 4, cs1 := fieldAt b (off + 8) 4 }

def parseDomain (b : Bytes) (off : Nat) : PolicyDomain :=
  { enabled := fieldAt b off 1 % 2 = 1, hasMf := fieldAt b off 1 / 2 % 2 = 1, pgInput := fieldAt b (off + 1) 1,
    after := BitVec.ofNat 8 (fieldAt b (off + 2) 1), mfChip := (Chip.ofByte (fieldAt b (off + 3) 1)).getD chip0,
    mfBlock := fieldAt b (off + 4) 4, signer := slice b (off + 8) 48 }

def parseAllow (b : Bytes) (off : Nat) : AllowEntry :=
  { opcode := BitVec.ofNat 16 (fieldAt b off 2), modes := BitVec.ofNat 8 (fieldAt b (off + 2) 1),
    cls := fieldAt b (off + 3) 1, addrBytes := fieldAt b (off + 4) 1, param := fieldAt b (off + 5) 1 }

def parseRun (b : Bytes) (off : Nat) : PolicyRun :=
  { chip := (Chip.ofByte (fieldAt b off 1)).getD chip0, policy := fieldAt b (off + 1) 1, base := fieldAt b (off + 4) 4,
    count := fieldAt b (off + 8) 4 }

/-- The policy a body holds (R92). -/
def parsePolicy (b : Bytes) : Policy :=
  { fwrChip := (Chip.ofByte (fieldAt b 6 1)).getD chip0, fwrBase := fieldAt b 8 4, portA := parsePort b 0x10,
    portB := parsePort b 0x50, domains := (List.range 8).map fun d => parseDomain b (0x90 + 64 * d),
    allowA := (List.range 64).map fun i => parseAllow b (0x290 + 8 * i),
    allowB := (List.range 64).map fun i => parseAllow b (0x490 + 8 * i),
    runs := (List.range (fieldAt b 12 4)).map fun i => parseRun b (0x690 + 16 * i) }

/-- The port entry of a port. -/
def Policy.port (p : Policy) : Port → PolicyPort
  | .a => p.portA | .b => p.portB

/-- The allow table of a port. -/
def Policy.allow (p : Policy) : Port → List AllowEntry
  | .a => p.allowA | .b => p.allowB

/-- Blocks of a chip; the chips of a disabled port have none (R97). -/
def Policy.chipSize (p : Policy) (c : Chip) : Nat :=
  let e := p.port c.port
  if e.enable then (if c.cs then e.cs1 else e.cs0) else 0

/-- Length of the overlap of two block ranges. -/
def overlap (a n b m : Nat) : Nat := min (a + n) (b + m) - max a b

/-- Blocks of a range that runs of the given policies cover; runs do not overlap. -/
def Policy.covered (p : Policy) (c : Chip) (base n : Nat) (pols : List Nat) : Nat :=
  ((p.runs.filter fun r => r.chip = c && pols.contains r.policy).map fun r => overlap base n r.base r.count).sum

/-- Domains that remain when every domain without a remaining dependency is taken away, `k` times: none without a
cycle. -/
def depsLeft (after : List (BitVec 8)) : Nat → List Nat → List Nat
  | 0, l => l
  | k + 1, l => depsLeft after k (l.filter fun d => l.any fun n => (after.getD d 0).getLsbD n)

/-- Every reserved field of a policy body is zero (R92 to R96). -/
def policyRsvd (b : Bytes) : Bool :=
  zeroAt b 7 1
    && ([0x10, 0x50].all fun o => zeroAt b (o + 3) 1 && zeroAt b (o + 12) 52)
    && ((List.range 8).all fun d => zeroAt b (0x90 + 64 * d + 56) 8 && decide (fieldAt b (0x90 + 64 * d) 1 < 4))
    && ((List.range 128).all fun i => zeroAt b (0x290 + 8 * i + 6) 2)
    && ((List.range (fieldAt b 12 4)).all fun i => zeroAt b (0x690 + 16 * i + 2) 2 && zeroAt b (0x690 + 16 * i + 12) 4)

/-- A PORT_CS byte of a body names a chip. -/
def namesChip (b : Bytes) (off : Nat) : Bool := (Chip.ofByte (fieldAt b off 1)).isSome

/-- A port entry passes R97. -/
def portOk (b : Bytes) (off : Nat) : Bool :=
  let e := parsePort b off
  fieldAt b off 1 = 0 || (fieldAt b off 1 = 1 && decide (4 ≤ e.dummy ∧ e.dummy ≤ 17 ∧ e.initMode ≤ 3 ∧ e.cs0 ≤ 65536
    ∧ e.cs1 ≤ 65536))

/-- An allow table passes R97: classes 0 to 10, and no opcode twice in a common mode. -/
def allowOk (l : List AllowEntry) : Bool :=
  (l.all fun e => decide (e.cls ≤ 10))
    && (decide ((l.filter fun e => e.cls ≠ 0).Pairwise fun e f => ¬ (e.opcode = f.opcode ∧ e.modes &&& f.modes ≠ 0)))

/-- The content check of a Sieve policy body (R97). DESIGN CHOICE (log row 87): a run POLICY above 4, a RUN_COUNT outside
1 to 4,096, DOMAIN FLAGS bits above 1, a PORT_CS that names no chip and a body of another length refuse it too. -/
def State.policyOk (s : State) (b : Bytes) : Bool :=
  let p := parsePolicy b
  let n := fieldAt b 12 4
  fieldAt b 0 4 = 0x4C505653 && fieldAt b 4 2 = 1 && decide (1 ≤ n ∧ n ≤ 4096) && b.length = 0x690 + 16 * n
    && policyRsvd b
    && ((List.range n).all fun i => namesChip b (0x690 + 16 * i) && decide (fieldAt b (0x690 + 16 * i + 1) 1 ≤ 4))
    && (p.runs.all fun r => decide (1 ≤ r.count ∧ r.base + r.count ≤ p.chipSize r.chip))
    && decide (p.runs.Pairwise fun r q => ¬ (r.chip = q.chip ∧ 0 < overlap r.base r.count q.base q.count))
    && (s.sieveB || (!p.portB.enable && p.runs.all fun r => r.chip.port = .a))
    && portOk b 0x10 && portOk b 0x50 && allowOk p.allowA && allowOk p.allowB
    && namesChip b 6 && p.covered p.fwrChip p.fwrBase 3072 [2] = 3072
    && (((List.range 8).zip p.domains).all fun d => !d.2.hasMf ||
          (namesChip b (0x90 + 64 * d.1 + 3) && p.covered d.2.mfChip d.2.mfBlock 4 [3] = 4))
    && (depsLeft (p.domains.map PolicyDomain.after) 8 (List.range 8)).isEmpty

/-! ### Reading the guard's state -/


def State.setDom (s : State) (d : Nat) (f : Domain → Domain) : State :=
  s.mapGuard fun g => { g with domains := g.domains.modify d f }

/-- The policy entry of a domain; without a policy, one that is not enabled. -/
def State.pdom (s : State) (d : Nat) : PolicyDomain :=
  match s.guard.policy with
  | some p => p.domains.getD d (parseDomain [] 0)
  | none => parseDomain [] 0

def State.sport (s : State) : Port → SievePort
  | .a => s.guard.portA | .b => s.guard.portB

def State.mapSport (s : State) (p : Port) (f : SievePort → SievePort) : State :=
  match p with
  | .a => s.mapGuard fun g => { g with portA := f g.portA }
  | .b => s.mapGuard fun g => { g with portB := f g.portB }

/-- Every region of every domain, with its domain and number. -/
def State.allRegions (s : State) : List (Nat × Nat × Region) :=
  (s.guard.domains.zip (List.range 8)).flatMap fun p =>
    (p.1.regions.zip (List.range p.1.regions.length)).map fun q => (p.2, q.2, q.1)

/-- A region holds a block. -/
def Region.covers (r : Region) (c : Chip) (b : Nat) : Bool := r.chip = c && decide (r.base ≤ b ∧ b < r.base + r.count)

/-- The domain, region number and region that cover a block; the lowest-numbered domain first. -/
def State.coverOf (s : State) (c : Chip) (b : Nat) : Option (Nat × Nat × Region) :=
  s.allRegions.find? fun r => r.2.2.covers c b

/-- PLT_ALERT_N is low (R131). -/
def State.pltAlertLow (s : State) : Bool :=
  s.guard.evt.getLsbD 0 || s.guard.domains.any fun d => d.state = .failedHeld || d.recovered

/-- Run a change of the guard; a fall of PLT_ALERT_N sets MG_ALERT.PLT_ALERT (R131, R160). -/
def State.guardly (s : State) (f : State → State) : State :=
  let t := f s
  if t.pltAlertLow && !s.pltAlertLow then t.setAlert 2 else t

/-- Debug rights in force (R475, R480). -/
def State.rights (s : State) : BitVec 32 :=
  if s.fuses.lc = .testUnlocked then 0x3F#32
  else if s.boot.countersLost = false ∧ s.keeper.debugDigest ≠ [] ∧ s.keeper.bootCount ≤ s.keeper.debugExpiry then s.keeper.debugRights else 0

/-- Sieve bypass is in force (R135). -/
def State.bypass (s : State) : Bool := s.rights.getLsbD 5

/-! ### Holds -/

/-- Drive PLT_HOLD_N[d]; LOCKDOWN freezes every pin (R81). -/
def State.pin (s : State) (d : Nat) (released : Bool) : State :=
  if s.boot.lockdown then s
  else s.mapGuard fun g => { g with holdPins :=
    if released then g.holdPins ||| (1#8 <<< d) else g.holdPins &&& ~~~ (1#8 <<< d) }

/-- The bound power-good input of a domain is high, or it has none (R88). DESIGN CHOICE (log row 87): a PG_INPUT of 4 to
254 binds none. -/
def State.pgOk (s : State) (d : Nat) : Bool :=
  let p := s.pdom d
  decide (3 < p.pgInput) || s.guard.pgHigh.getD p.pgInput false

/-- Every domain in RELEASE_AFTER is RELEASED (R88). -/
def State.depsOk (s : State) (d : Nat) : Bool :=
  (List.range 8).all fun n => !(s.pdom d).after.getLsbD n || (s.dom n).state = .released

/-- What a domain that is not released and has not failed waits for, in the order of the codes of R87. -/
def State.waitState (s : State) (d : Nat) : DomState :=
  if !s.pgOk d then .waitPg else if !s.depsOk d then .waitDep else .verifying

/-- A domain is waiting. -/
def DomState.waits : DomState → Bool
  | .waitPg | .waitDep | .verifying => true
  | _ => false

/-- Bring the waiting domains' states up to date. -/
def State.settle (s : State) : State :=
  (List.range 8).foldl (fun s d =>
    if (s.dom d).state.waits then s.setDom d fun x => { x with state := s.waitState d } else s) s

/-- Assert the holds of RELEASED domains that wait for one that is not, through chains of dependencies (R90). -/
def State.dropDeps : Nat → State → State
  | 0, s => s
  | k + 1, s =>
    State.dropDeps k ((List.range 8).foldl (fun s d =>
      if (s.dom d).state = .released ∧ s.depsOk d = false
      then (s.setDom d fun x => { x with state := .waitDep }).pin d false else s) s)

/-- A domain takes a state other than RELEASED: its hold is asserted, and so are those that wait for it (R87, R90). -/
def State.hold (s : State) (d : Nat) (st : DomState) : State :=
  ((((s.setDom d fun x => { x with state := st }).pin d false).dropDeps 8)).settle

/-- Every hold is asserted: RELEASED domains wait for R88 again. -/
def State.holdAll (s : State) : State :=
  ((List.range 8).foldl (fun s d =>
    if (s.dom d).state = .released then (s.setDom d fun x => { x with state := .verifying }).pin d false else s) s).settle


/-- Complete the command that waits for a domain (R133). -/
def State.guardJobDone (s : State) (d : Nat) : State :=
  match (s.dom d).job with
  | some id =>
    match s.job? id with
    | some j => (s.setDom d fun x => { x with job := none }).finish id st.ok (s.guardResult d 0) [] j.scCycles
    | none => s.setDom d fun x => { x with job := none }
  | none => s

/-- A domain fails: FAILED_HELD with its code, a record, and BOOT_FAIL when it fails before its first release
(R107, R134; SIEVE_EVT). -/
def State.failDom (s : State) (d code region : Nat) : State :=
  let first : Bool := !(s.dom d).booted && (s.dom d).job.isNone
  let s1 := (s.setDom d fun x => { x with failCode := code, failRegion := region, useRecovery := false }).hold d .failedHeld
  let s2 := s1.logEvent 0x0202 (code * 2 ^ 16 + region * 2 ^ 8 + d)
  (if first then s2.setSieve 8 else s2).guardJobDone d

/-- The domains that R123 holds while the guard writes a chip. -/
def State.onChip (s : State) (c : Chip) (d : Nat) : Bool :=
  ((s.pdom d).enabled && (s.pdom d).hasMf && (s.pdom d).mfChip = c)
    || (s.dom d).regions.any fun r => r.chip = c && !r.mirror

/-- Hold every RELEASED domain that has a non-mirrored region or a manifest on a chip (R123). -/
def State.holdForWrite (s : State) (c : Chip) : State :=
  (List.range 8).foldl (fun s d =>
    if (s.dom d).state = .released ∧ s.onChip c d then s.hold d .verifying else s) s

/-! ### Blocks, leaves, mirror -/

/-- A block lies in a range of a chip. -/
def inRange (c : Chip) (base n : Nat) (chip : Chip) (b : Nat) : Bool := chip = c && decide (base ≤ b ∧ b < base + n)

/-- Forget what the node cache and the mirror hold of a range of blocks. -/
def State.forgetCache (s : State) (c : Chip) (base n : Nat) : State :=
  s.mapGuard fun g =>
    { g with leaves := g.leaves.filter (fun l => !inRange c base n l.chip l.block)
             mirror := g.mirror.filter (fun m => !inRange c base n m.chip m.block)
             lost := g.lost.filter (fun m => !inRange c base n m.1 m.2) }

/-- Forget what the caches and the verified-block buffers hold of a range of blocks: its region is recovered or committed
(R109). -/
def State.forgetBlocks (s : State) (c : Chip) (base n : Nat) : State :=
  let hit := inRange c base n
  (s.forgetCache c base n).mapGuard fun g =>
    { g with portA := { g.portA with buffer := g.portA.buffer.filter fun h => !hit h.chip h.block }
             portB := { g.portB with buffer := g.portB.buffer.filter fun h => !hit h.chip h.block } }

/-- Put leaves of a run of blocks into the node cache, replacing what stands there (R105). -/
def State.putLeaves (s : State) (c : Chip) (base : Nat) (digests : List Bytes) : State :=
  let new := (digests.zip (List.range digests.length)).map fun p => ({ chip := c, block := base + p.2, digest := p.1 } : Leaf)
  s.mapGuard fun g =>
    { g with leaves := new ++ g.leaves.filter fun l =>
        !(l.chip = c && decide (base ≤ l.block ∧ l.block < base + digests.length)) }

/-- Write the blocks of a MIRROR region into the mirror, under the region's own block numbers. -/
def State.putMirror (s : State) (r : Region) (blocks : List Bytes) : State :=
  if !r.mirror then s
  else
    let new := (blocks.zip (List.range blocks.length)).map fun p => ({ chip := r.chip, block := r.base + p.2, data := p.1 } : Held)
    s.mapGuard fun g => { g with mirror := new ++ g.mirror.filter (fun m => !r.covers m.chip m.block)
                                 lost := g.lost.filter fun m => !r.covers m.1 m.2 }

def State.setRegion (s : State) (d k : Nat) (f : Region → Region) : State :=
  s.setDom d fun x => { x with regions := x.regions.modify k f }

def State.region? (s : State) (d k : Nat) : Option Region := (s.dom d).regions[k]?

/-- The guard must run the remap where it would rewrite: in recovery mode (R129). -/
def State.remapOnly (s : State) : Bool := s.boot.recovery

/-- The writes a rewrite makes: each block erased, then programmed from the recovery image (R128). -/
def rewriteOut (c : Chip) (base : Nat) (blocks : List Bytes) : List Out :=
  ((List.range blocks.length).map fun i => Out.flashErase c (base + i))
    ++ (blocks.zip (List.range blocks.length)).map fun p => Out.flashWrite c (base + p.2) p.1

/-- Leaves the node cache must be able to hold: every accepted region's, and those of the recovery images in use by remap
(R106). -/
def leafLoad (regs : List Region) (inUse : Region → Bool) : Nat :=
  (regs.map Region.count).sum + ((regs.filter inUse).map Region.count).sum

/-- A recovery image comes into use for region `k` of domain `d`: the totals of R106 still hold. -/
def State.roomToRemap (s : State) (d k : Nat) : Bool :=
  decide (leafLoad ((s.allRegions.filter fun x => !(x.1 = d && x.2.1 = k)).map fun x => x.2.2) Region.remapped
    + 2 * ((s.region? d k).map Region.count).getD 0 ≤ 65536)

/-- The recovery image of a region is the one its RECOVERY_ROOT names (R128). -/
def Region.imageOk (r : Region) (image : List Bytes) : Bool :=
  decide (image.length = r.count) && decide (runRoot r.regionId image = r.recRoot)

/-- RECOVERED, RECOVERY_USED and their record (R128). -/
def State.noteRecovered (s : State) (d k : Nat) : State :=
  ((s.setDom d fun x => { x with recovered := true }).setSieve 7).logEvent 0x0203 (k * 2 ^ 8 + d)

/-- The remap (R128): the region's blocks become RECOVER, the node cache takes the recovery leaves, a MIRROR region is
refilled. DESIGN CHOICE (log row 88): one whose image the node cache has no room for fails with CAPACITY. -/
def State.remapRegion (s : State) (d k : Nat) (r : Region) (image : List Bytes) : State :=
  if !r.imageOk image then s.failDom d 7 k
  else if !s.roomToRemap d k then s.failDom d 9 k
  else
    ((((s.forgetBlocks r.chip r.base r.count).putLeaves r.chip r.recBase (runLeaves r.regionId image)).putMirror r
      image).setRegion d k fun x =>
        { x with matched := true, remapped := true, onRecovery := true, owes := false, rewritten := false }).noteRecovered d k

/-- The rewrite (R128): under R123 the region is erased and programmed from the checked image; it is then to be read and
verified against RECOVERY_ROOT. -/
def State.rewriteRegion (s : State) (d k : Nat) (r : Region) (image : List Bytes) : State :=
  if !r.imageOk image then s.failDom d 7 k
  else
    (((s.holdForWrite r.chip).forgetBlocks r.chip r.base r.count).emitAll (rewriteOut r.chip r.base image)).setRegion d k
      fun x => { x with matched := false, remapped := false, onRecovery := false, owes := false, rewritten := true }

/-- Run a region's recovery action with its recovery image (R128). `remap` forces the remap (R129, R130, R132). -/
def State.recoverRegion (s : State) (d k : Nat) (r : Region) (image : List Bytes) (remap : Bool) : State :=
  let s := s.hold d .recovering
  if remap || r.action = 1 || s.remapOnly then s.remapRegion d k r image else s.rewriteRegion d k r image

/-- Blocks of a region that a RECOVER run of the policy covers (R96, R108): they are served from the recovery image. -/
def Policy.recovers (p : Policy) (r : Region) (i : Nat) : Bool :=
  r.action ≠ 0 && p.runs.any fun x => x.chip = r.chip && x.policy = 4 && decide (x.base ≤ r.base + i ∧ r.base + i < x.base + x.count)

/-- Some block of a region lies in a RECOVER run. -/
def State.recoverRun (s : State) (r : Region) : Bool :=
  match s.guard.policy with
  | some p => r.action ≠ 0 && p.runs.any fun x => x.chip = r.chip && x.policy = 4 && decide (0 < overlap r.base r.count x.base x.count)
  | none => false

/-- The content the host is served of a region that passed: its own blocks, and those of the recovery image where a RECOVER
run covers them. -/
def State.servedOf (s : State) (r : Region) (blocks recovery : List Bytes) : List Bytes :=
  match s.guard.policy with
  | some p => (blocks.zip (List.range blocks.length)).map fun x => if p.recovers r x.2 then recovery.getD x.2 [] else x.1
  | none => blocks

/-- A region's root is confirmed: its leaves go to the node cache, those of the recovery image with them where a RECOVER run
covers blocks of it, and a MIRROR region goes to the mirror (R105, R108). -/
def State.takeRegion (s : State) (d k : Nat) (r : Region) (blocks recovery : List Bytes) (onRec : Bool) : State :=
  if s.recoverRun r && !r.imageOk recovery then s.failDom d 7 k
  else
    let s1 := (s.forgetCache r.chip r.base r.count).putLeaves r.chip r.base (runLeaves r.regionId blocks)
    let s2 := if s.recoverRun r then s1.putLeaves r.chip r.recBase (runLeaves r.regionId recovery) else s1
    (s2.putMirror r (s.servedOf r blocks recovery)).setRegion d k fun x =>
      { x with matched := true, onRecovery := onRec, rewritten := false }

/-- Compare a region's root with its own and its recovery root (R107); a region that matches neither runs its recovery
action, and a rewritten one is held against RECOVERY_ROOT alone (R128). -/
def State.checkRegion (s : State) (d k : Nat) (r : Region) (blocks recovery : List Bytes) : State :=
  let root := runRoot r.regionId blocks
  let own : Bool := decide (blocks.length = r.count) && decide (root = r.root)
  let rec' : Bool := decide (blocks.length = r.count) && r.action ≠ 0 && decide (root = r.recRoot)
  if r.rewritten then if rec' then (s.takeRegion d k r blocks recovery true).noteRecovered d k else s.failDom d 7 k
  else if own then s.takeRegion d k r blocks recovery false
  else if rec' then (s.takeRegion d k r blocks recovery true).setDom d fun x => { x with recovered := true }
  else if r.action = 0 then s.failDom d 6 k
  else s.recoverRegion d k r recovery false

/-- The manifest and every region that must match before release have been verified (R88). -/
def State.verified (s : State) (d : Nat) : Bool :=
  !(s.pdom d).hasMf || ((s.dom d).mfDigest ≠ [] && (s.dom d).regions.all fun r => (!r.vbr || r.matched) && !r.owes && !r.rewritten)

/-- R88: every condition of release. -/
def State.releasable (s : State) (d : Nat) : Bool :=
  s.guard.running && (s.pdom d).enabled && s.pgOk d && s.depsOk d && s.verified d && !s.flt.active && !s.boot.lockdown

/-! ### Manifests -/

def parseRegion (b : Bytes) (off : Nat) : Region :=
  { chip := (Chip.ofByte (fieldAt b off 1)).getD chip0, vbr := fieldAt b (off + 1) 1 % 2 = 1,
    mirror := fieldAt b (off + 1) 1 / 2 % 2 = 1, action := fieldAt b (off + 2) 1, base := fieldAt b (off + 4) 4,
    count := fieldAt b (off + 8) 4, recBase := fieldAt b (off + 12) 4, regionId := fieldAt b (off + 16) 4,
    root := slice b (off + 32) 32, recRoot := slice b (off + 64) 32, matched := false, remapped := false,
    onRecovery := false, owes := false, rewritten := false }

/-- The regions of a manifest. -/
def manifestRegions (b : Bytes) : List Region := (List.range (fieldAt b 7 1)).map fun i => parseRegion b (32 + 96 * i)

/-- Bytes of a manifest with N regions (R98). -/
def manifestLen (n : Nat) : Nat := 7251 + 96 * n

/-- Check 1 of R101: MAGIC, FORMAT, DOMAIN and the reserved fields. DESIGN CHOICE (log row 87): a REGION_COUNT, BLOCK_COUNT,
ATTR, RECOVERY_ACTION or PORT_CS out of its range fails here too. -/
def manifestForm (d : Nat) (b : Bytes) : Bool :=
  let n := fieldAt b 7 1
  fieldAt b 0 4 = 0x464D4750 && fieldAt b 4 2 = 1 && fieldAt b 6 1 = d && decide (1 ≤ n ∧ n ≤ 32)
    && decide (manifestLen n ≤ b.length) && zeroAt b 12 20
    && (List.range n).all fun i =>
        namesChip b (32 + 96 * i) && decide (fieldAt b (32 + 96 * i + 1) 1 < 4 ∧ fieldAt b (32 + 96 * i + 2) 1 ≤ 2)
          && zeroAt b (32 + 96 * i + 3) 1 && zeroAt b (32 + 96 * i + 20) 12
          && decide (1 ≤ fieldAt b (32 + 96 * i + 8) 4 ∧ fieldAt b (32 + 96 * i + 8) 4 ≤ 65536)

/-- Two block ranges on chips meet. -/
def meets (c : Chip) (a n : Nat) (e : Chip) (b m : Nat) : Bool := c = e && decide (0 < overlap a n b m)

/-- Check 5 of R101 against the regions of the other domains. -/
def geometryOk (p : Policy) (others regs : List Region) : Bool :=
  (regs.all fun r => p.covered r.chip r.base r.count [1, 4] = r.count)
    && decide (regs.Pairwise fun r q => meets r.chip r.base r.count q.chip q.base q.count = false)
    && (regs.all fun r => others.all fun q => !meets r.chip r.base r.count q.chip q.base q.count)
    && ((regs ++ others).all fun r => r.action = 0 ||
          (regs ++ others).all fun q => !meets r.chip r.recBase r.count q.chip q.base q.count)

/-- Check 6 of R101: the totals of R106. A region of the manifest whose recovery image will be served from the start, in
recovery mode (R129) or under a RECOVER run, counts with its image. -/
def State.capacityOk (s : State) (others regs : List Region) : Bool :=
  let all := others ++ regs
  decide (leafLoad all (fun r => r.remapped || s.recoverRun r || (s.remapOnly && r.action ≠ 0)) ≤ 65536)
    && decide (((all.filter Region.mirror).map Region.count).sum ≤ s.mirrorCap)

/-- The accepted regions of the domains other than `d`. -/
def State.otherRegions (s : State) (d : Nat) : List Region :=
  (s.allRegions.filter fun r => r.1 ≠ d).map fun r => r.2.2

/-- The signed part of a manifest with N regions, its key and its signature. -/
def manifestPk (b : Bytes) : Bytes := slice b (32 + 96 * fieldAt b 7 1) 2592
def manifestMsg (b : Bytes) : Bytes := b.take (2624 + 96 * fieldAt b 7 1)
def manifestSig (b : Bytes) : Bytes := slice b (2624 + 96 * fieldAt b 7 1) 4627

/-- The checks of R101 in their order: the FAIL_CODE of the first that fails, or 0. -/
def State.manifestFail (s : State) (d : Nat) (b : Bytes) : Nat :=
  match s.guard.policy with
  | none => 1
  | some p =>
    let regs := manifestRegions b
    if !manifestForm d b then 1
    else if Config.sha384 (manifestPk b) ≠ (s.pdom d).signer then 2
    else if !mldsa87Ok (manifestPk b) "PETHAL-GUARD-MF1" (manifestMsg b) (manifestSig b) then 3
    else if !s.boot.countersLost ∧ fieldAt b 8 4 < s.keeper.domainSvn.get 0 d then 4
    else if !geometryOk p (s.otherRegions d) regs then 5
    else if !s.capacityOk (s.otherRegions d) regs then 9
    else 0

/-- The exact bytes of the manifest that R101 checked (R139). -/
def manifestBytes (b : Bytes) : Bytes := b.take (manifestLen (fieldAt b 7 1))

/-- FAIL_REGION of a domain that fails for its region on a chip: the first such region, or none (R104). -/
def regionOn (regs : List Region) (dead : Chip → Bool) : Nat := (regs.findIdx? fun r => dead r.chip).getD 0xFF

/-- Accept a manifest: the domain takes its regions, none of them checked yet; a region on a chip that failed port
start-up fails the domain (R104). -/
def State.acceptManifest (s : State) (d : Nat) (b : Bytes) : State :=
  let old := (s.dom d).regions
  let s1 := old.foldl (fun s r => s.forgetBlocks r.chip r.base r.count) s
  let regs := manifestRegions b
  let s2 := s1.setDom d fun x =>
    { x with mfSvn := fieldAt b 8 4, svnUnchecked := s.boot.countersLost, mfDigest := Config.sha384 (manifestBytes b),
             regions := regs }
  if regs.any fun r => s.guard.dead.contains r.chip then s2.failDom d 8 (regionOn regs s.guard.dead.contains) else s2

/-! ### Start and stop -/

/-- The state of a domain when the guard starts under a policy. -/
def Domain.fresh (enabled : Bool) : Domain :=
  { Domain.atReset with state := if enabled then .verifying else .disabled }

/-- A port's side effects at start-up: FLx_RESET_N is released and the 1 ms wait begins (section Boot verification). -/
def State.startPort (s : State) (p : Policy) (port : Port) : State :=
  if (p.port port).enable then
    (s.mapSport port fun _ => { SievePort.atReset with starting := true, mode := (p.port port).initMode }).emit
      (.plxReset port true)
  else (s.mapSport port fun _ => SievePort.atReset).emit (.plxReset port false)

/-- The GUARD_COMMIT record of the update journal, where the journal can be read (R61, R124). -/
def State.commitRec (s : State) : Option CommitJournal := if s.upd.jnlReadable then s.keeper.commitJnl else none

/-- The guard starts under the installed policy, all holds asserted (R104, R105); with none every domain is
DISABLED (R87). The staging blocks of a commit that lost power are WRITE_GUARD again (R126). -/
def State.guardStart (s : State) : State :=
  let s0 := (List.range 8).foldl (fun s d => s.pin d false) s
  match s.guard.policy with
  | none => s0.mapGuard fun g => { g with running := true, domains := List.replicate 8 Domain.atReset }
  | some p =>
    let s1 := s0.mapGuard fun g =>
      { g with running := true, domains := p.domains.map fun e => Domain.fresh e.enabled
               leaves := [], mirror := [], dead := [], lost := [],
               staging := s.commitRec.map fun j => (j.chip, j.base, j.blocks) }
    ((s1.startPort p .a).startPort p .b).settle

/-- A port stops with the compute die: the keeper drives FLx_RESET_N low (R42). -/
def State.stopPort (s : State) (p : Port) : State :=
  if (s.sport p).running ∨ (s.sport p).starting then s.emit (.plxReset p false) else s

/-- The guard and the Sieve as a compute-die restart or reset leaves them: every hold asserted, ports stopped (R42), caches
empty, policy gone until the firmware loads it; the power-good inputs are balls and keep their levels (R80). -/
def State.guardReset (s : State) : State :=
  let s1 := (List.range 8).foldl (fun s d => s.pin d false) ((s.stopPort .a).stopPort .b)
  s1.mapGuard fun g => { Guard.atReset with pgHigh := g.pgHigh, holdPins := g.holdPins }

/-! ### Policy of a block (R103, R108, R124, R135) -/

/-- Block policies of R96. -/
inductive BlockPolicy where
  | pass | verify | deny | writeGuard | recover
  deriving DecidableEq, Repr

/-- The policy the runs give a block; DENY where none covers it (R97). -/
def Policy.runOf (p : Policy) (c : Chip) (b : Nat) : BlockPolicy :=
  match p.runs.find? fun r => r.chip = c && decide (r.base ≤ b ∧ b < r.base + r.count) with
  | some r => match r.policy with
    | 0 => .pass | 1 => .verify | 2 => .deny | 3 => .writeGuard | _ => .recover
  | none => .deny

/-- The effective policy of a block. In recovery mode a region with a recovery action is served by remap from the start
(R129). DESIGN CHOICE (log row 87): a RECOVER run over a region without recovery action acts as VERIFY. -/
def State.blockPolicy (s : State) (c : Chip) (b : Nat) : BlockPolicy :=
  match s.guard.policy with
  | none => .deny
  | some p =>
    let staged : Bool := match s.guard.staging with
      | some (ch, base, n) => ch = c && decide (base ≤ b ∧ b < base + n)
      | none => false
    let base := p.runOf c b
    if s.bypass && (match s.coverOf c b with | some (d, _, _) => (s.dom d).state = .released | none => false) then .pass
    else if staged then .writeGuard
    else match base with
      | .verify | .recover =>
        match s.coverOf c b with
        | none => .deny
        | some (_, _, r) =>
          if r.remapped || (r.action ≠ 0 && (base = .recover || s.remapOnly)) then .recover else .verify
      | other => other

end Sys2Proof.Machine
end

