-- ==== Sys2Proof/Machine/KeyCmds.lean ====
section
/-!
DEFINITION. Machine/KeyCmds.lean: the commands of group 0x0A: contexts and scopes (R263, R267 to R273), the context image
(R274 to R276), key blobs (R277, R278), STATEFUL_QUERY (R279) and migration (R287 to R295).
-/
namespace Sys2Proof.Machine
open Sys2Proof

/-- A command that changes a keeper store waits while non-volatile changes may not begin (R35). -/
def State.nvOp (s : State) (id : Nat) (op : Op) (inp : Bytes) (run : State → Job → State) : State :=
  if s.nvFree then s.runOp id op inp run else s

/-- STATE_REFUSED of a running command with the state byte of the object it names (R223). -/
def State.refuse (s : State) (j : Job) (obj : Nat) : State :=
  s.finish j.id st.stateRefused (s.refusedWord j.fn obj) [] j.scCycles

/-! ### Contexts (R263, R268) -/

/-- The lowest FREE index: one of the first indices after as many as are listed. -/
def State.lowestFree (s : State) : Option Nat :=
  ((List.range (s.keys.ctx.length + 1)).map (16 + ·)).find? fun i =>
    decide (i < s.ctxCount) && (s.keys.record i).state = .free

/-- The record CTX_CREATE writes at an index: GEN is the index's own, PGEN the parent's as it was resolved (R268). -/
def State.newRecord (s : State) (j : Job) (i : Nat) : Ctx :=
  let p := handleIndex j.entry.ctx
  { parent := p, gen := (s.keys.record i).gen, pgen := if p ≤ 4 then s.aliasGen p else j.crec.gen, type := j.entry.p 4 1,
    policy := BitVec.ofNat 24 (j.entry.p 5 3), label := BitVec.ofNat 48 (j.entry.p 8 6), state := .live }

/-- A child that R263 refuses with KEY_POLICY: below an imported secret, or deeper than 8. -/
def Job.childRefused (j : Job) : Bool := (decide (15 < handleIndex j.entry.ctx) && j.crec.type = 2) || decide (8 < j.chain.length)

/-- A MIGRATABLE child whose parent is an alias or not MIGRATABLE (R253, R263). -/
def Job.childStray (j : Job) : Bool :=
  (BitVec.ofNat 24 (j.entry.p 5 3)).getLsbD 16 && (decide (handleIndex j.entry.ctx ≤ 4) || !j.crec.allows 16)

def execCtxCreate (j : Nat) (s : State) : Host.Outcome State Fault Refusal :=
  .next (s.runCmd j .ctxCreate fun s j =>
    if j.childRefused then s.fail j st.keyPolicy j.scCycles
    else if j.childStray then s.endWith j st.badField 5 j.scCycles
    else
      match if j.entry.p 0 4 = 0 then s.lowestFree else some (j.entry.p 0 4) with
      | none => s.fail j st.contextFull j.scCycles
      | some i =>
        if (s.keys.record i).state ≠ .free then s.refuse j (s.keys.record i).state.num
        else
          let c := s.newRecord j i
          (s.mapKeys fun k => k.setRec i c).done j (mkHandle i c.gen).toNat [] j.scCycles)

/-- CTX_QUERY: record, DEPTH, in-flight count with the job's own, and the status the chain check gives now (R253, R268). -/
def State.queryOut (s : State) (j : Job) : Bytes :=
  let i := handleIndex j.entry.ctx
  (if i ≤ 4 then zeros 16 else leBytes 16 (s.keys.record i).bits) ++ leBytes 1 (chainDepth j.chain) ++ zeros 3
    ++ leBytes 4 (s.keys.flights i) ++ leBytes 2 (s.chainCheck j.entry.ctx j.fn).1.toNat ++ zeros 6

def execCtxQuery (j : Nat) (s : State) : Host.Outcome State Fault Refusal :=
  .next (s.runCmd j .ctxQuery fun s j => s.done j 0 (s.queryOut j) j.scCycles)

/-! ### Invalidation and the barrier (R270, R271) -/

/-- Step 1 and 2 of R270 on an index: GEN up, DEAD or EXHAUSTED, journalled, its cached keys gone. -/
def State.revoke (s : State) (i : Nat) : State :=
  let c := s.keys.record i
  let g := c.gen + 1
  (s.mapKeys fun k => (k.setRec i { c with gen := g, state := if 4095 ≤ g then .exhausted else .dead }).uncache i).mapKeeper
    fun k => { k with revJournal := k.revJournal ++ [(i, g)] }

/-- The imported-key entry of a record is spoiled. -/
def Keys.dropEntry (k : Keys) (n : Nat) : Keys := { k with imported := k.imported.erase n }

/-- The job waits, with its ending ready, until the in-flight count of its context is 0 (step 3 of R270). -/
def State.awaitBarrier (s : State) (j : Job) (e : Ending) : State :=
  if s.keys.flights (handleIndex j.entry.ctx) = 0 then s.finish j.id e.status e.result e.out e.cycles
  else s.mapJob j.id fun x => { x with phase := .barrier, unit := none, ending := some e }

/-- INVALIDATE and ROOT_SPOIL (R256, R270, R271). Their resolution is part of step 1, so it is made again here. -/
def State.invalidateRun (s : State) (j : Job) (spoil : Bool) : State :=
  let i := handleIndex j.entry.ctx
  let c := s.keys.record i
  let check := (s.chainCheck j.entry.ctx j.fn).1
  if check ≠ st.ok then s.fail j check j.scCycles
  else if 4096 ≤ s.keeper.revJournal.length then s.endWith j st.contextFull 4096 j.scCycles
  else
    let n := s.keys.flights i
    let s1 := s.revoke i
    let s2 := if spoil then s1.mapKeys fun k => k.dropEntry c.entry else s1
    s2.awaitBarrier j
      { status := st.ok, out := [], cycles := j.scCycles,
        result := BitVec.ofNat 64 ((c.gen + 1) % 4096 + (if 4095 ≤ c.gen + 1 then 4096 else 0) + 2 ^ 32 * n) }

def execInvalidate (j : Nat) (s : State) : Host.Outcome State Fault Refusal :=
  .next (s.nvOp j .invalidate [] fun s j => s.invalidateRun j false)

/-- The target's in-flight count has reached 0: the command that waits for it completes (step 4 of R270). -/
def execInvalidateBarrier (j : Nat) (s : State) : Host.Outcome State Fault Refusal :=
  .next (match s.job? j with
    | some x =>
      match x.phase, x.ending with
      | .barrier, some e =>
        if s.keys.flights (handleIndex x.entry.ctx) = 0 then s.finish j e.status e.result e.out e.cycles else s
      | _, _ => s
    | none => s)

/-! ### SWEEP (R273, R284) -/

/-- A record that SWEEP frees: orphaned (R261), no job in flight, not EXHAUSTED. -/
def State.sweepable (s : State) (i : Nat) : Bool :=
  let c := s.keys.record i
  c.state ≠ .free && c.state ≠ .exhausted && !s.resolves i && s.keys.flights i = 0

/-- Free one record. -/
def State.freeCtx (s : State) (i : Nat) : State :=
  let c := s.keys.record i
  let s1 := s.mapKeys fun k =>
    let k1 := (k.setRec i { c with state := .free, type := 0 }).uncache i
    if c.type = 1 ∨ c.type = 2 then k1.dropEntry c.entry else k1
  if isStateful c.type then
    s1.mapKeeper fun k => { k with slog := k.slog.map fun r =>
      if r.index = i ∧ r.status = .active then { r with status := .releasePending } else r }
  else s1

def execSweep (j : Nat) (s : State) : Host.Outcome State Fault Refusal :=
  .next (s.nvOp j .sweep [] fun s j =>
    let a := j.entry.p 0 4
    let n := j.entry.p 4 4
    let named := (s.keys.ctx.map Prod.fst).filter fun i => decide (a ≤ i ∧ i < a + n)
    let hit := named.filter s.sweepable
    (hit.foldl State.freeCtx s).done j (hit.length + 2 ^ 32 * (named.filter s.resolves).length) [] j.scCycles)

/-! ### Scopes (R269) -/

def execScopeSet (j : Nat) (s : State) : Host.Outcome State Fault Refusal :=
  .next (s.runCmd j .scopeSet fun s j =>
    let f := j.entry.p 0 1
    let i := handleIndex j.entry.ctx
    let g := if i ≤ 4 then s.aliasGen i else j.crec.gen
    (s.mapKeys fun k =>
      { k with scopes := if j.entry.ctx = 0 then Sparse.erase k.scopes f else Sparse.insert k.scopes f (i, g) }).done j 0 [] j.scCycles)

/-! ### The context image (R274 to R276) -/

/-- The 64-byte header of an image stamped `c`. -/
def State.imageHeader (s : State) (c : Nat) (iv : Bytes) : Bytes :=
  leBytes 4 0x58544350 ++ leBytes 2 1 ++ leBytes 1 s.fuses.lc.num ++ leBytes 1 s.fuses.epoch ++ leBytes 8 s.deviceId
    ++ leBytes 8 c ++ leBytes 4 s.ctxCount ++ leBytes 4 s.bodyLen ++ iv ++ zeros 20

/-- The handle a scope was set by; none is 0. -/
def scopeHandle (l : Sparse (Nat × Nat)) (f : Nat) : Bytes :=
  match l.lookup f with
  | some (i, g) => leBytes 4 (mkHandle i g).toNat
  | none => zeros 4

/-- The body: records, imported keys, scopes. -/
def State.imageBody (s : State) : Bytes :=
  ((List.range s.ctxCount).flatMap fun i => if i < 16 then zeros 16 else leBytes 16 (s.keys.record i).bits)
    ++ ((List.range 65536).flatMap fun n =>
          let b := s.keys.imported.get [] n
          b ++ zeros (32 - b.length))
    ++ (List.range 64).flatMap fun f => scopeHandle s.keys.scopes (f + 1)

/-- Step 0: the image of the table as it stands, stamped c + 1, which is now pending at the journal's end (R275). -/
def execContextImageSave (j : Nat) (s : State) : Host.Outcome State Fault Refusal :=
  .next (s.nvOp j .imageSave [] fun s j =>
    if j.entry.p 0 1 ≠ 0 then s
    else if !s.imageRootOk then s.fail j st.rootDisabled j.scCycles
    else s.gated j .imageSave (s.phaseCycles j) fun s j =>
      let c := s.keeper.imageCtr + 1
      let iv := s.freeNow 12
      let h := s.imageHeader c iv
      let body := s.imageBody
      let ct := gcmCrypt s.imgKey iv body
      let out := h ++ ct ++ gcmTag s.imgKey iv h ct
      (s.scDraw.mapKeeper fun k => { k with imgPending := some (c, k.revJournal.length) }).done j c out j.scCycles)

/-- An image commit (R275, R284, R285, R289): the counter steps, journal entries up to the snapshot point go, records
marked for release are freed and the stateful epoch steps, and the statement nonce of a successful import ends. -/
def Keeper.commitImage (k : Keeper) : Keeper :=
  match k.imgPending with
  | none => k
  | some (c, n) =>
    let frees : Bool := decide (k.sepoch ≠ 65535) && k.slog.any fun r => r.status = .releasePending
    { k with
      imageCtr := c, imgPending := none, revJournal := k.revJournal.drop n,
      slog := if frees then k.slog.filter fun r => r.status ≠ .releasePending else k.slog,
      sepoch := if frees then k.sepoch + 1 else k.sepoch,
      stmtNonce := if k.importDone then none else k.stmtNonce, importDone := false }

/-- Step 1 commits the pending image; it needs no image key and outputs nothing. -/
def execContextImageCommit (j : Nat) (s : State) : Host.Outcome State Fault Refusal :=
  .next (s.nvOp j .imageSave [] fun s j =>
    if j.entry.p 0 1 ≠ 1 then s
    else if s.keeper.imgPending.isNone then s.refuse j 0
    else (s.mapKeeper Keeper.commitImage).done j 0 [] j.scCycles)

/-- The table is wholly FREE, with no carried roots and no scopes (step 4 of R276). -/
def Keys.vacant (k : Keys) : Bool := k.ctx.all (fun p => p.2.state = .free) && k.imported.isEmpty && k.scopes.isEmpty

/-- The records of a body. -/
def bodyRecords (n : Nat) (body : Bytes) : Sparse Ctx :=
  (List.range n).foldl (fun m i => if i < 16 then m else m.set Ctx.blank i (Ctx.ofBits (leNat (slice body (16 * i) 16)))) []

/-- The imported keys of a body that some carried root or imported secret among its records names; an entry spoiled with
its record is zero there. -/
def bodyImported (recs : Sparse Ctx) (area : Bytes) : Sparse Bytes :=
  (recs.filter fun p => p.2.state ≠ .free && (p.2.type = 1 || p.2.type = 2)).foldl
    (fun m p =>
      let b := slice area (32 * p.2.entry) 32
      if b = zeros 32 ∧ p.2.state ≠ .live then m else m.set [] p.2.entry b) []

/-- The scopes of a body: the index and generation that each handle named when it was set. -/
def bodyScopes (genOf : Nat → Nat) (b : Bytes) : Sparse (Nat × Nat) :=
  (List.range 64).foldl (fun m f =>
    let h := BitVec.ofNat 32 (leNat (slice b (4 * f) 4))
    if h = 0 then m
    else
      let g := genOf (handleIndex h)
      Sparse.insert m (f + 1) (handleIndex h, if g % 2048 = handleTag h then g else handleTag h)) []

/-- A journal entry applied to the table: GEN takes its value, and the record is DEAD or EXHAUSTED. -/
def Keys.applyRevocation (k : Keys) (p : Nat × Nat) : Keys :=
  k.setRec p.1 { k.record p.1 with gen := p.2, state := if 4095 ≤ p.2 then .exhausted else .dead }

/-- What an image's body installs (R276): the whole table, then the revocations it does not carry. In-flight counts
stay (R227). -/
def State.installImage (s : State) (body : Bytes) (revs : List (Nat × Nat)) : State :=
  let n := s.ctxCount
  let recs := bodyRecords n body
  let genOf (i : Nat) : Nat := if i ≤ 15 then s.aliasGen i else (recs.get Ctx.blank i).gen
  s.mapKeys fun k =>
    revs.foldl Keys.applyRevocation
      { k with ctx := recs, imported := bodyImported recs (slice body (16 * n) 2097152), badEntry := [], cache := [],
               scopes := bodyScopes genOf (body.drop (16 * n + 2097152)) }

def execContextImageLoad (j : Nat) (inp : Bytes) (s : State) : Host.Outcome State Fault Refusal :=
  .next (s.nvOp j .imageLoad inp fun s j =>
    let h := inp.take 64
    let c := fieldAt h 16 8
    let pend : Bool := s.keeper.imgPending.any fun p => p.1 = c
    if !s.imageRootOk then s.fail j st.rootDisabled j.scCycles
    else if fieldAt h 0 4 ≠ 0x58544350 ∨ fieldAt h 4 2 ≠ 1 ∨ zeroAt h 44 20 = false then s.fail j st.decodeFail (s.phaseCycles j)
    else if fieldAt h 8 8 ≠ s.deviceId ∨ fieldAt h 6 1 ≠ s.fuses.lc.num ∨ fieldAt h 7 1 ≠ s.fuses.epoch
      ∨ fieldAt h 24 4 ≠ s.ctxCount then s.fail j st.paramRejected j.scCycles
    else if c ≠ s.keeper.imageCtr ∧ pend = false then s.endWith j st.paramRejected s.keeper.imageCtr j.scCycles
    else if !s.keys.vacant then s.refuse j 0
    else s.gated j .imageLoad (s.phaseCycles j) fun s j =>
      let iv := slice h 32 12
      let n := inp.length - 80
      let ct := slice inp 64 n
      if gcmOk s.imgKey iv h ct (inp.drop (64 + n)) then
        let body := gcmCrypt s.imgKey iv ct
        let k := match s.keeper.imgPending with | some p => if pend then p.2 else 0 | none => 0
        let s1 := s.installImage body (s.keeper.revJournal.drop k)
        (if pend then s1.mapKeeper Keeper.commitImage else s1).done j 0 [] j.scCycles
      else s.fail j st.tagFail j.scCycles)

/-! ### Key blobs (R277, R278) -/

def execExternalWrap (j : Nat) (inp : Bytes) (s : State) : Host.Outcome State Fault Refusal :=
  .next (s.runOp j .externalWrap inp fun s j =>
    s.gated j .externalWrap (s.phaseCycles j) fun s j =>
      s.done j 0 (makeBlob j.key (j.crec.blobHeader 1 (j.entry.p 0 4)) inp) j.scCycles)

/-- KEY_EXPORT: the derived key of CTX under the key of WRAP_CTX. -/
def execKeyExport (j : Nat) (s : State) : Host.Outcome State Fault Refusal :=
  .next (s.runCmd j .keyExport fun s j =>
    s.gated j .keyExport (s.phaseCycles j) fun s j =>
      s.done j 0 (makeBlob j.key2 (j.crec.blobHeader 2 32) j.key) j.scCycles)

/-! ### STATEFUL_QUERY (R279) -/

def SlogStatus.num : SlogStatus → Nat
  | .active => 0 | .retired => 1 | .releasePending => 2

/-- The 32 bytes of STATEFUL_QUERY. -/
def State.statefulOut (s : State) (j : Job) : Bytes :=
  match s.jobRec j with
  | some r =>
    leBytes 8 r.next ++ leBytes 8 r.reservedEnd ++ leBytes 8 r.indexLimit ++ leBytes 1 r.status.num ++ leBytes 2 r.sepoch
      ++ zeros 5
  | none => zeros 24 ++ leBytes 1 0xFF ++ leBytes 2 s.keeper.sepoch ++ zeros 5

def execStatefulQuery (j : Nat) (s : State) : Host.Outcome State Fault Refusal :=
  .next (s.runCmd j .statefulQuery fun s j => s.done j 0 (s.statefulOut j) j.scCycles)

/-! ### Migration (R287 to R295) -/

/-- The identity key signs a message under a context string; the signature's random value is the DRBG's. That the loop
reaches its bound has a probability below 2^−256 (R312); there is no signature then. -/
def State.idkSign (s : State) (ctx : String) (msg rnd : Bytes) : Bytes :=
  (mldsaSign 3 s.idkSeed rnd 0 0 (Config.ascii ctx) msg).2.getD []

/-- The ML-KEM-1024 migration keys (R254). -/
def State.migEk (s : State) : Bytes := mlkemEk 3 (slice s.migkSeed 0 32) (slice s.migkSeed 32 32)
def State.migDk (s : State) : Bytes := mlkemDk 3 (slice s.migkSeed 0 32) (slice s.migkSeed 32 32)

/-- The signed part of the MKS (R288). -/
def State.mksBody (s : State) (nonce : Bytes) : Bytes :=
  leBytes 4 0x534B4D50 ++ leBytes 2 1 ++ zeros 2 ++ leBytes 8 s.deviceId ++ nonce ++ leBytes 8 s.keeper.bootCount
    ++ leBytes 1 s.fuses.lc.num ++ zeros 7 ++ s.migEk

/-- The signed part of the unit's own IDC (R287); the spec gives no maker key. -/
def State.idcBody (s : State) : Bytes :=
  leBytes 4 0x43444950 ++ leBytes 2 1 ++ zeros 2 ++ leBytes 8 s.deviceId ++ leBytes 2 s.part ++ leBytes 2 devCompat.toNat
    ++ zeros 12 ++ mldsaPk 3 s.idkSeed ++ Config.prim .makerKey [] 2592

/-- The IDC the keeper holds (R287): the one written at manufacture, which is what the unit's own fields and the maker's
signature give (log row 2). -/
def State.idc (s : State) : Bytes :=
  if s.keeper.idc = [] then s.idcBody ++ Config.prim .makerSig [Config.ascii "PETHAL-IDC1", s.idcBody] 4627 else s.keeper.idc

def execMigrateStatement (j : Nat) (inp : Bytes) (s : State) : Host.Outcome State Fault Refusal :=
  .next (s.nvOp j .migrateStatement inp fun s j =>
    s.gated j .migrateStatement (s.phaseCycles j) fun s j =>
      let m := s.mksBody inp
      let out := s.idc ++ m ++ s.idkSign "PETHAL-MKS1" m (s.freeNow 32)
      (s.scDraw.mapKeeper fun k => { k with stmtNonce := some inp, importDone := false }).done j 0 out j.scCycles)

/-- Step 0 of MIGRATE_EXPORT: a fresh nonce; DISCARD drops the export record (R293). -/
def execMigrateExportNonce (j : Nat) (s : State) : Host.Outcome State Fault Refusal :=
  .next (s.nvOp j .migrateExport [] fun s j =>
    if j.entry.p 0 1 ≠ 0 then s
    else if s.keeper.exportRec.isSome ∧ j.entry.p 1 1 / 2 % 2 ≠ 1 then s.refuse j 0
    else s.gated j .migrateExport (s.phaseCycles j) fun s j =>
      let n := s.freeNow 32
      (s.scDraw.mapKeeper fun k => { k with exportNonce := some n, exportRec := none }).done j 0 n j.scCycles)

/-- LIVE contexts directly below those of a level, reachable and MIGRATABLE (R292). -/
def State.migrants (s : State) (level : List Nat) : List Nat :=
  (s.keys.ctx.filter fun p => p.2.isLive && p.2.allows 16 && level.any fun q =>
    p.2.parent = q && p.2.pgen = (s.keys.record q).gen).map Prod.fst

/-- The descendants a blob holds, every parent before its children. -/
def State.migSubtree (s : State) : Nat → List Nat → List Nat
  | 0, _ => []
  | n + 1, level => let next := s.migrants level; next ++ s.migSubtree n next

/-- The log records a migration carries: those that still sign, one RELEASE_PENDING for a context that is live again
among them (R285), and those that the export record for this MKS already retired. -/
def State.migRecords (s : State) (mks : Bytes) (l : List Nat) : List SlogRec :=
  (l.filterMap fun i => if isStateful (s.keys.record i).type then s.slogOf i (s.keys.record i).gen else none).filter fun r =>
    r.status ≠ .retired || (s.keeper.exportRec.any fun e => e.mksDigest = Config.sha384 mks && e.keys.contains r.num)

/-- Offsets of IDC and MKS in MIGRATE_EXPORT's input. -/
def idcOf (inp : Bytes) : Bytes := inp.take 9843
def mksOf (inp : Bytes) : Bytes := inp.drop 9843

/-- MAGIC, FORMAT and reserved bytes of both (R287, R288). -/
def migForm (inp : Bytes) : Bool :=
  let c := idcOf inp
  let m := mksOf inp
  fieldAt c 0 4 = 0x43444950 && fieldAt c 4 2 = 1 && zeroAt c 6 2 && zeroAt c 20 12
    && fieldAt m 0 4 = 0x534B4D50 && fieldAt m 4 2 = 1 && zeroAt m 6 2 && zeroAt m 57 7

/-- Both signatures verify: the maker's over the IDC, the IDC's key over the MKS. -/
def migSigs (inp : Bytes) : Bool :=
  let c := idcOf inp
  let m := mksOf inp
  mldsa87Ok (slice c 2624 2592) "PETHAL-IDC1" (c.take 5216) (slice c 5216 4627)
    && mldsa87Ok (slice c 32 2592) "PETHAL-MKS1" (m.take 1632) (slice m 1632 4627)

/-- The conditions of step 1 of R294 that end with PARAM_REJECTED. -/
def State.migParams (s : State) (inp : Bytes) : Bool :=
  let c := idcOf inp
  let m := mksOf inp
  let nonce := slice m 16 32
  ((List.range 8).any fun k => s.keyFills false k (slice c 2624 2592)) && fieldAt c 8 8 = fieldAt m 8 8
    && (s.keeper.exportNonce = some nonce || s.keeper.exportRec.any fun e => e.nonce = nonce)
    && fieldAt m 56 1 = LcState.mission.num && decide (devCompat.toNat % 65536 ≤ fieldAt c 18 2)

/-- The payload of a blob (R291). -/
def State.migPayload (s : State) (j : Job) (l : List Nat) (keys : List SlogRec) : Bytes :=
  j.key ++ leBytes 4 (j.crec.label.toNat / 65536) ++ leBytes 4 (handleIndex j.entry.ctx) ++ leBytes 16 j.crec.bits
    ++ (l.flatMap fun i => leBytes 4 i ++ leBytes 16 (s.keys.record i).bits)
    ++ keys.flatMap fun r => r.keyId ++ leBytes 4 r.index ++ leBytes 2 r.sepoch ++ zeros 2 ++ leBytes 8 r.next
        ++ leBytes 8 r.indexLimit

/-- The blob for a target (R290), with the random value of the encapsulation. -/
def State.migBlob (s : State) (inp rnd payload : Bytes) (n k : Nat) : Bytes :=
  let m := mksOf inp
  let ek := slice m 64 1568
  let enc := mlkemEnc 3 ek rnd
  let h := leBytes 4 0x47494D50 ++ leBytes 2 1 ++ zeros 2 ++ leBytes 8 s.deviceId ++ slice m 8 8 ++ slice m 16 32
    ++ leBytes 4 n ++ leBytes 4 k ++ enc.take 1568
  let kek := Config.kmac256 (enc.drop 1568) h 32 (Config.ascii "PETHAL-MIG1")
  h ++ kwpWrap kek payload

/-- Step 5 of R294: the export record, then each stateful key RETIRED at its NEXT_INDEX. A record for the same MKS keeps its
keys; one for another MKS is replaced, and the keys it retired leave in no blob any more (log row 97). -/
def Keeper.retireKeys (k : Keeper) (mks : Bytes) (nums : List Nat) : Keeper :=
  let old := match k.exportRec with | some e => if e.mksDigest = Config.sha384 mks then e.keys else [] | none => []
  { k with
    exportRec := some { targetId := fieldAt mks 8 8, mksDigest := Config.sha384 mks, nonce := slice mks 16 32,
                        keys := old ++ nums.filter fun n => !old.contains n },
    exportNonce := none,
    slog := k.slog.map fun r => if nums.contains r.num then { r with status := .retired, exporting := false } else r }

/-- Steps 4 to 7 of R294. The step waits, the row coming again, until no job uses the subtree's stateful keys. -/
def State.migrate (s : State) (j : Job) (inp : Bytes) : State :=
  let i := handleIndex j.entry.ctx
  let l := s.migSubtree 8 [i]
  let keys := s.migRecords (mksOf inp) l
  let s1 := s.mapKeeper fun k =>
    { k with slog := k.slog.map fun r =>
               if (keys.map SlogRec.num).contains r.num ∧ r.status ≠ .retired then { r with exporting := true } else r }
  if keys.any (fun r => decide (s.keys.flights r.index ≠ 0)) then s1
  else
    let s2 := s1.mapKeeper fun k => k.retireKeys (mksOf inp) (keys.map SlogRec.num)
    let blob := s2.migBlob inp (s2.freeNow 32) (s2.migPayload j l keys) l.length keys.length
    let e : Ending := { status := st.ok, result := BitVec.ofNat 64 (l.length + 2 ^ 32 * keys.length), out := blob, cycles := j.scCycles }
    if j.entry.p 1 1 % 2 = 0 then s2.scDraw.finish j.id e.status e.result e.out e.cycles
    else if 4096 ≤ s2.keeper.revJournal.length then s2.endWith j st.contextFull 4096 j.scCycles
    else
      let s3 := ((s2.scDraw.revoke i).mapKeys fun k => (k.dropEntry j.crec.entry).lower j.chain).mapJob j.id fun x =>
        { x with chain := [] }
      s3.awaitBarrier j e

def execMigrateExport (j : Nat) (inp : Bytes) (s : State) : Host.Outcome State Fault Refusal :=
  .next (s.nvOp j .migrateExport inp fun s j =>
    if j.entry.p 0 1 ≠ 1 then s
    else if !migForm inp then s.fail j st.decodeFail (s.phaseCycles j)
    else if !migSigs inp then s.finish j.id st.verifyFalse pairFalse [] j.scCycles
    else if !s.migParams inp then s.fail j st.paramRejected j.scCycles
    else if !j.crec.allows 16 then s.fail j st.keyPolicy j.scCycles
    else s.gated j .migrateExport (s.phaseCycles j) fun s j => s.migrate j inp)

/-- A stateful key as the payload carries it. -/
structure MigKey where
  keyId : Bytes
  index : Nat
  sepoch : Nat
  next  : Nat
  limit : Nat
  deriving DecidableEq, Repr

/-- An unwrapped payload (R291). -/
structure MigPayload where
  secret : Bytes
  rootId : Nat
  root   : Nat × Ctx
  recs   : List (Nat × Ctx)
  keys   : List MigKey
  deriving DecidableEq, Repr

def MigPayload.parse (b : Bytes) (n k : Nat) : MigPayload :=
  { secret := b.take 32, rootId := fieldAt b 32 4, root := (fieldAt b 36 4, Ctx.ofBits (fieldAt b 40 16)),
    recs := (List.range n).map fun i => (fieldAt b (56 + 20 * i) 4, Ctx.ofBits (fieldAt b (60 + 20 * i) 16)),
    keys := (List.range k).map fun i =>
      let o := 56 + 20 * n + 56 * i
      { keyId := slice b o 32, index := fieldAt b (o + 32) 4, sepoch := fieldAt b (o + 36) 2, next := fieldAt b (o + 40) 8,
        limit := fieldAt b (o + 48) 8 } }

/-- Bytes of a blob of `n` records and `k` stateful keys. -/
def migLen (n k : Nat) : Nat := 1632 + 8 * ((56 + 20 * n + 56 * k + 7) / 8) + 8

/-- The first record that cannot be placed: no such index, not FREE, or a GEN already passed (step 3 of R295). -/
def State.misplaced (s : State) (p : MigPayload) : Option Nat :=
  ((p.root :: p.recs).find? fun x =>
    !s.indexOk x.1 || (s.keys.record x.1).state ≠ .free || decide (x.2.gen < (s.keys.record x.1).gen)).map Prod.fst

/-- The imported-key entry an import or ROOT_IMPORT takes: the one named, or the lowest free; none when there is none
(R255). -/
def State.entryFor (s : State) (n : Nat) : Option Nat :=
  let free (i : Nat) : Bool := s.keys.imported.get [] i = []
  if n = 0xFFFF then ((List.range (s.keys.imported.length + 1)).find? fun i => decide (i < 65536) && free i)
  else if free n then some n else none

/-- The record of a key registered under the nonce already, or one that clashes (step 4 of R295). -/
def Keeper.sameKey (k : Keeper) (id : Bytes) : Option SlogRec := k.slog.find? fun r => r.keyId = id

/-- Register one key (step 5 of R295). -/
def Keeper.importKey (k : Keeper) (gen : Nat) (nonce : Bytes) (m : MigKey) : Keeper :=
  match k.sameKey m.keyId, k.freeRec with
  | none, some n =>
    { k with slog := k.slog ++ [{ num := n, keyId := m.keyId, index := m.index, gen, sepoch := m.sepoch, reservedEnd := m.next,
                                  indexLimit := m.limit, status := .active, next := m.next, exporting := false, nonce }] }
  | _, _ => k

/-- Step 6 of R295: the records with the blob's GENs, and the root at its entry. -/
def State.installMigration (s : State) (p : MigPayload) (entry : Nat) : State :=
  let root := { p.root.2 with label := BitVec.ofNat 48 (p.rootId * 65536 + entry) }
  s.mapKeys fun k =>
    p.recs.foldl (fun k x => k.setRec x.1 x.2) { k.setRec p.root.1 root with imported := k.imported.set [] entry p.secret }

/-- Steps 3 to 6 of R295. -/
def State.placeImport (s : State) (j : Job) (p : MigPayload) (nonce : Bytes) : State :=
  let fresh := p.keys.filter fun m => (s.keeper.sameKey m.keyId).isNone
  let room := 8192 - (s.keeper.slog.length + s.keeper.badLogRecs.length)
  match s.misplaced p, s.entryFor (j.entry.p 0 2) with
  | some i, _ => s.endWith j st.contextFull i j.scCycles
  | none, none => s.endWith j st.contextFull 0 j.scCycles
  | none, some entry =>
    if room < fresh.length then s.endWith j st.contextFull 0 j.scCycles
    else if p.keys.any (fun m => (s.keeper.sameKey m.keyId).any fun r => r.nonce ≠ nonce) then s.fail j st.stateExhausted j.scCycles
    else
      let genOf (i : Nat) : Nat := ((p.recs.find? fun x => x.1 = i).map fun x => x.2.gen).getD 0
      let s1 := s.mapKeeper fun k =>
        { p.keys.foldl (fun k m => k.importKey (genOf m.index) nonce m) k with importDone := true }
      (s1.installMigration p entry).done j (mkHandle p.root.1 p.root.2.gen).toNat [] j.scCycles

def execMigrateImport (j : Nat) (inp : Bytes) (s : State) : Host.Outcome State Fault Refusal :=
  .next (s.nvOp j .migrateImport inp fun s j =>
    let h := inp.take 1632
    let n := fieldAt h 56 4
    let k := fieldAt h 60 4
    let nonce := slice h 24 32
    if fieldAt h 0 4 ≠ 0x47494D50 ∨ fieldAt h 4 2 ≠ 1 ∨ zeroAt h 6 2 = false ∨ inp.length ≠ migLen n k then
      s.fail j st.decodeFail (s.phaseCycles j)
    else if fieldAt h 16 8 ≠ s.deviceId ∨ s.keeper.stmtNonce ≠ some nonce then s.fail j st.paramRejected j.scCycles
    else s.gated j .migrateImport (s.phaseCycles j) fun s j =>
      let ss := kemDecaps 3 s.migDk (slice h 64 1568)
      let kek := Config.kmac256 ss h 32 (Config.ascii "PETHAL-MIG1")
      let w := inp.drop 1632
      match kwpUnwrap kek w with
      | some b => s.placeImport j (MigPayload.parse b n k) nonce
      | none => s.fail j st.tagFail j.scCycles)

end Sys2Proof.Machine
end

