-- ==== Sys2Proof/Machine/Resets.lean ====
section
/-!
DEFINITION. Machine/Resets.lean: what several events share: programming fuse words and decoding the life cycle (R457,
R466, R470), spoil of the key stores, LOCKDOWN (R81, R205), the DRU and DRBG rows of R432 and R448, the major
response (R488 to R491), counting of engine faults (R486), retirement of words (R493), and the clearing that each
row of R80 does.
-/
namespace Sys2Proof.Machine
open Sys2Proof

/-! ### Fuse words -/

/-- The 39 raw bits of a programmed word: check bits above the data (R457; log row 14). -/
def fuseRaw (data : BitVec 32) : BitVec 39 := Config.fuseCheckBits data ++ data

/-- Program a word: bits are only ever set, it senses correctly, and its shadow holds the data (R457, R467). -/
def State.burn (s : State) (w : Nat) (data : BitVec 32) : State :=
  s.mapFuses fun f => { f with raw := f.raw.set 0 w (f.word w ||| fuseRaw data), lastWord := w,
                               shadow := f.shadow.set Shadow.blank w { Shadow.blank with data := data } }

/-- Program a word that then senses wrongly: it is marked invalid and reads data 0 (R457, R458). Its raw bits are
those the programming reached, which the spec leaves open. -/
def State.burnBad (s : State) (w : Nat) : State :=
  (s.mapFuses fun f => { f with raw := f.raw.set 0 w (f.word w ||| BitVec.ofNat 39 (Config.freeNat s.freeCtr)),
                                lastWord := w, shadow := f.shadow.set Shadow.blank w { Shadow.blank with invalid := true } }).draw

/-- Program several words in order. -/
def State.burnAll (s : State) (l : List (Nat × BitVec 32)) : State := l.foldl (fun s p => s.burn p.1 p.2) s

/-- Distance between the copies of a triplicated word: 16 in regions 2 and 7, 32 in region 15 (R460, R469, R472). -/
def copyStep (w : Nat) : Nat := if 8096 ≤ w then 32 else 16

/-- The three words of a copy-0 word. -/
def copies (w : Nat) : List Nat := [w, w + copyStep w, w + 2 * copyStep w]

/-- A triplicated program of copy-0 words: copy 0, 1 and 2 of each in turn, in list order (R466). Its journal record is
written before the first bit and cleared after the last, all within the step (log row 13). -/
def State.burnTrip (s : State) (l : List (Nat × BitVec 32)) : State :=
  l.foldl (fun s p => s.burnAll ((copies p.1).map fun w => (w, p.2))) s

/-- The data of the state words (R469). -/
def lcWordData : List (BitVec 32) :=
  [0x1E2D3C4B#32, 0x5A697887#32, 0x96A5B4C3#32, 0xD2E1F00F#32, 0x4B3C2D1E#32, 0x87786996#32]

/-- The data of an epoch word (R469). -/
def epochData : BitVec 32 := 0x6996A55A#32

/-- The data of a root-disable word (R472). -/
def rootDisableData : BitVec 32 := 0xC35A3CA5#32

/-- The data of a lock word (R460). -/
def lockData : BitVec 32 := 0x3CA5C35A#32

/-- PATTERN of the state words; none when one holds another value than 0 and its data (R470). -/
def lcPattern (v : Nat → BitVec 32) : Option Nat :=
  (List.range 6).foldl (fun acc i =>
    match acc with
    | none => none
    | some p => if v i = lcWordData.getD i 0 then some (p + 2 ^ i) else if v i = 0 then some p else none) (some 0)

/-- The state of a PATTERN (R470). -/
def lcOfPattern : Nat → LcState
  | 0x00 => .raw | 0x01 => .testUnlocked | 0x03 => .testLocked | 0x07 => .mfg | 0x0F => .mission | 0x1F => .rma
  | 0x23 | 0x27 | 0x2F | 0x3F => .scrap
  | _ => .invalid

/-- Decode the life-cycle words (R470): state, epoch, PATTERN. `v` gives the value of copy word i. -/
def lcDecode (v : Nat → BitVec 32) : LcState × Nat × Nat :=
  let set := (List.range 7).filter fun i => v (8 + i) = epochData
  let other := (List.range 7).any fun i => v (8 + i) ≠ epochData && v (8 + i) ≠ 0
  let e := set.length
  match lcPattern v with
  | none => (.invalid, 0, 0)
  | some p =>
    let st := lcOfPattern p
    if other || set ≠ List.range e || (decide (e ≠ 0) && st ≠ .mission && st ≠ .rma) then (.invalid, 0, p) else (st, e, p)

/-- Take the life cycle from the shadows. -/
def State.redecode (s : State) : State :=
  let d := lcDecode fun i => s.fz (160 + i)
  s.mapFuses fun f => { f with lc := d.1, epoch := d.2.1, pattern := BitVec.ofNat 6 d.2.2 }

/-- Program the root-disable word of ROOT_OWNER[e] (R472, R490) and record it. -/
def State.disableRoot (s : State) (e : Nat) : State :=
  ((s.burnTrip [(336 + 2 + e, rootDisableData)]).mapFlt fun f => { f with rootPending := none }).log 0x0690 2 255 0 e

/-- A root disable ordered now: it runs, or stays pending while NV_OK is 0 (R490). -/
def State.orderDisable (s : State) : State :=
  let e := s.fuses.epoch
  if s.power.nvOk ∧ s.nvFree then s.disableRoot e else s.mapFlt fun f => { f with rootPending := some e }

/-! ### Spoil -/

/-- Spoil the key stores (R80, R82): context store, imported keys, derived-key cache, scopes, operand store and
streams. In-flight counts stay (R227). `keepHigh` keeps the HIGH half (R518 step 4). -/
def State.spoilKeyStores (s : State) (keepHigh : Bool) : State :=
  let hit := (s.store.slots.map Prod.fst).filter fun n => !(keepHigh && s.store.isHigh n)
  ((s.mapKeys fun k => { Keys.empty with inflight := k.inflight }).mapStore fun o => o.spoilAll hit).mapTables fun t =>
    t.freeStreams fun _ => true

/-- Replace the DRU save key (R430, R432): a new one is drawn when the DRBGs are seeded, else when they are. -/
def State.newSaveKey (s : State) : State :=
  if s.ent.state = .ready then
    (s.mapDru fun d => { d with saveKey := some s.freeCtr }).draw
  else s.mapDru fun d => { d with saveKey := none }

/-- Clear the DRU with DRU_ERR and its save key (R432). -/
def State.clearDru (s : State) (owner : DruOwner) : State := (s.mapDru fun _ => Dru.cleared owner).newSaveKey

/-- The owner the DRU has after a reset: the security controller until it releases the unit before SERVICE_READY
(R421, R432); after that, none. -/
def State.resetOwner (s : State) : DruOwner := if s.boot.serviceReady then .none else .sc

/-- Retired pairs (R439, R447). -/
def Entropy.retired (e : Entropy) : Nat := (e.pairs.filter fun p => p = .retired).length

/-- The spoil takes every DRBG instance; they start afresh from output released after it (R447, R448). -/
def State.respoilDrbg (s : State) : State :=
  s.mapEnt fun e => if e.state = .ready then { e with state := .starting, live := false, pool := 0 } else { e with pool := 0 }

/-! ### Update lock -/

/-- Discard staging, return the HIGH half, release the lock: stage 0 (R507, R526). -/
def State.dropUpdate (s : State) : State :=
  (s.mapUpd fun u => { u with stage := .idle, holder := .none, holderId := 0, component := 0, header := [], image := [],
                              activeAt := 0, atPps := false, waitFrom := none, areaOk := false, actJob := none }).mapStore fun o =>
    { (if o.lent then o.spoilAll ((o.slots.map Prod.fst).filter o.isHigh) else o) with lent := false, taking := .nobody }

/-- Stages 1 to 4. -/
def State.updateOpen (s : State) : Bool := decide (1 ≤ s.upd.stage.num ∧ s.upd.stage.num ≤ 4)

/-- PERST_N and a function-level reset of the PF release a host-held lock in stages 1 to 4 (R82, R157, R507). A lock
taken by an UPDATE_BEGIN still waiting for the HIGH half goes with it. -/
def State.dropHostUpdate (s : State) : State :=
  if s.upd.holder = .host ∧ s.upd.stage.num ≤ 4 then s.dropUpdate else s

/-! ### Jobs and queues -/

/-- Forget references to jobs that end without a completion. -/
def State.forgetWaits (s : State) : State :=
  let live (i : Option Nat) : Option Nat := i.filter fun n => (s.job? n).isSome
  ((s.mapUpd fun u => { u with actJob := live u.actJob, confJob := live u.confJob }).mapStore fun o =>
    { o with taking := match o.taking with
        | .job n => if (s.job? n).isSome then .job n else .nobody
        | t => t }).mapGuard fun g =>
    { g with domains := g.domains.map fun d => { d with job := live d.job } }

/-- Jobs end without completions, which INDEX_UNDELIVERED records for those that hold an index (R281, R534). -/
def State.endJobs (s : State) (l : List Job) : State := (l.foldl State.undelivered (s.loseJobs l)).forgetWaits

/-- A session closes by a reset: its count and nonce go (R171, R174). -/
def State.closeAllSessions (s : State) : State :=
  { s with fns := s.fns.map fun f => { f with session := Session.closed },
           mgmt := { s.mgmt with session := Session.closed } }

/-! ### LOCKDOWN -/

/-- Enter LOCKDOWN with the number of the control queue (R81, R205). -/
def State.enterLockdown (s : State) (n : Nat) : State :=
  if s.boot.lockdown then s
  else
    let s1 := (s.mapBoot fun b => { b with lockdown := true }).setCode 0x8008 (BitVec.ofNat 16 n)
    ((((s1.orderStop (fun _ => true) st.abortedQueueStop).spoilKeyStores false).respoilDrbg).clearDru .none)

/-! ### Clearing by R80 -/

/-- Fault state that belongs to the running compute die; the counts of classes 0 and 1 are the island's (R482, R494). -/
def Faults.restart (f : Faults) : Faults :=
  { f with evt := 0, lasting := List.replicate 14 0, spares := [], retired := 0, lanes := [], cores := [], macs := [],
           aes := [], cbu := false, access := 0, counts := [], active := false,
           history := f.history.filter (fun e => e.cls ≤ 1), mfgReply := [] }

/-- What an update is after the compute die restarted: the journal's stage, or none (R523). -/
def Update.restart (u : Update) : Update :=
  let v := { u with header := [], image := [], activeAt := 0, atPps := false, waitFrom := none, selftestOk := false, blobNewer := false,
                    drained := false, actJob := none, confJob := none }
  match u.journal with
  | none => { v with stage := .idle, holder := .none, holderId := 0, component := 0, areaOk := false }
  | some j => { v with stage := j.stage, holder := j.holder, component := j.component, areaOk := j.hasArea }

/-- Everything a compute-die restart clears, but the guard, PWR_LIMIT and the PCIe functions (R80). -/
def State.clearDie (s : State) : State :=
  let s1 := { s with jobs := [], queues := [], sched := Sched.atReset, keys := Keys.empty,
                     store := { (s.store.spoilEvery) with lent := false, taking := .nobody }, tables := Tables.empty,
                     ent := Entropy.atReset, dru := Dru.cleared .sc, flt := s.flt.restart, upd := s.upd.restart }
  (s1.closeAllSessions).mapBoot fun b =>
    { b with lockdown := false, mode := .normal, recovery := false, entropyReady := false, serviceReady := false,
             loaderServes := false }

/-- The compute die restarts from fuse sensing (R80): a life-cycle transition, PERST_N in LOCKDOWN and an activation.
Jobs in flight end without completions. -/
def State.restartDie (s : State) : State :=
  ((s.endJobs s.jobs).clearDie).mapBoot fun b => { b with stage := .released, marginalCnt := 0 }

/-- A PCIe function as a fundamental reset leaves it. -/
def State.resetFns (s : State) : State :=
  { s with fns := FnState.atReset true :: List.replicate 64 (FnState.atReset false) }

/-! ### Major response (R488 to R491) -/

/-- The response once SERVICE_READY has occurred (R488, R489). -/
def State.majorRun (s : State) (code : BitVec 16) (cls detail : Nat) : State :=
  let pol := s.tamperPolicy
  let cut := pol.getLsbD 0
  let jobs := s.jobs
  let s1 := if cut then s.mapBoot fun b => { b with cut := true, link := .down } else s
  let s2 := s1.mapFlt fun f => { f with active := true, majorCount := satInc f.majorCount }
  let s3 := if cut then s2.loseJobs jobs else s2.stopNow (fun _ => true) st.abortedTamper
  let s4 := ((s3.spoilKeyStores false).respoilDrbg).clearDru .none
  let s5 := if pol.getLsbD 2 then s4.guardly State.holdAll else s4
  let s6 := if s5.updateOpen || s5.store.taking ≠ .nobody then s5.dropUpdate else s5
  let s7 := s6.log code 2 cls 0 detail
  let s8 := if cut ∧ jobs ≠ [] then (jobs.foldl State.undelivered (s7.logBroken 1 4 jobs.length)).forgetWaits else s7
  let s9 := if pol.getLsbD 1 then s8.orderDisable else s8
  s9.setFlt 3

/-- A tamper before SERVICE_READY: the keeper holds the compute die (R491). A die held for a code that does not end
with a tamper stays so, and so does a device in LOCKDOWN, which has no such exit (R81). -/
def State.majorEarly (s : State) (code : BitVec 16) (cls detail : Nat) : State :=
  let s1 := (s.mapFlt fun f => { f with majorCount := satInc f.majorCount }).log code 2 cls 0 detail
  let s2 := if s.tamperPolicy.getLsbD 1 then s1.mapFlt fun f => { f with rootPending := some s.fuses.epoch } else s1
  if (s.boot.stage = .held ∧ s.boot.code ≠ 0x8002) ∨ s.boot.lockdown then s2
  else
    (((s2.clearDie).guardReset).mapBoot fun b => { b with stage := .held }).setCode 0x8002 (code &&& 0xFF)

/-- A major tamper event with its record code, class and DETAIL. -/
def State.majorTamper (s : State) (code : BitVec 16) (cls detail : Nat) : State :=
  if !s.power.vinValid then s.latchIsland code cls detail
  else if !s.boot.serviceReady then s.majorEarly code cls detail
  else s.majorRun code cls detail

/-! ### Engine faults (R486, R494) -/

/-- Count an engine fault against the unit that ran the faulty part; a lasting one drops the unit, or on the security
controller is a major tamper. -/
def State.unitFaultEvent (s : State) (c : Nat × Nat × Nat) (result : Nat) : State :=
  let (cls, obj, unit) := c
  let s1 := (s.log 0x0703 1 cls unit (result % 65536)).setFlt 8
  match s1.faultEvent cls obj with
  | (s2, false) => s2
  | (s2, true) => if cls = 13 then s2.majorTamper 0x0624 13 0 else s2.dropUnit cls obj unit

/-! ### Retired words (R493) -/

/-- What the loss of an uncorrectable word's content does to its store. -/
def State.loseWord (s : State) (w : SramWord) : State :=
  match w.store with
  | .context n =>
    s.mapKeys fun k =>
      let ex (k : Keys) (i : Nat) : Keys := k.setRec i { k.record i with state := .exhausted }
      ex (ex k (2 * n)) (2 * n + 1)
  | .imported n => s.mapKeys fun k => { k with badEntry := if k.badEntry.contains n then k.badEntry else n :: k.badEntry }
  | .keyCache i => s.mapKeys fun k => k.uncache i
  | .hashState _ => s
  | .operand n => s.mapStore fun o => o.spoil n
  | .mirror n =>
    match s.guard.mirror[n]? with
    | some h =>
      (s.setSieve 6).mapGuard fun g => { g with mirror := g.mirror.filter (fun m => m ≠ h), lost := (h.chip, h.block) :: g.lost }
    | none => s
  | .other _ => s

/-- The job that read an uncorrectable word of another store ends with INTERNAL_ECC. -/
def State.eccJob (s : State) (w : SramWord) : State :=
  match w.store with
  | .other (some id) =>
    match s.job? id with
    | some j => if j.ended then s else (s.dropStream j).fail j st.internalEcc (Config.freeNat s.freeCtr) |>.draw
    | none => s
  | _ => s

/-- A lasting SRAM fault retires the word, unless its bank has no spare left (R493). -/
def State.retire (s : State) (w : SramWord) (cls : Nat) : State :=
  let uncorrectable := decide (cls = 5)
  if 64 ≤ s.flt.spares.get 0 w.bank then s.log 0x0705 1 cls (unitWord 6 w.bank) w.offset
  else
    let s1 := s.mapFlt fun f => { f with spares := f.spares.set 0 w.bank (f.spares.get 0 w.bank + 1), retired := f.retired + 1 }
    let s2 := (s1.log 0x0701 1 cls (unitWord 6 w.bank) (w.offset + (if uncorrectable then 2 ^ 63 else 0))).setFlt 6
    if uncorrectable then s2.loseWord w else s2

/-- An uncorrectable word (class 5): always lasting. -/
def State.sramUe (s : State) (w : SramWord) : State := ((s.faultEvent 5 0).1.retire w 5).eccJob w

end Sys2Proof.Machine
end

