-- ==== Sys2Proof/Machine/ImageOps.lean ====
section
/-!
DEFINITION. Machine/ImageOps.lean: firmware images: the header of R503, the checks of R503, R504 and R508, the bundle
verification of the ROM (R70), and the stateful resume of a start-up (R283).
-/
namespace Sys2Proof.Machine
open Sys2Proof

/-! ### Header fields (R503) -/

def imgComponent (h : Bytes) : Nat := fieldAt h 6 1
def imgVariant (h : Bytes) : Nat := fieldAt h 7 1
def imgSvn (h : Bytes) : Nat := fieldAt h 8 2
def imgSigner (h : Bytes) : Nat := fieldAt h 10 1
def imgMldsaSlot (h : Bytes) : Nat := fieldAt h 11 1
def imgSlhSlot (h : Bytes) : Nat := fieldAt h 12 1
def imgBodyLen (h : Bytes) : Nat := fieldAt h 16 4
def imgLen (h : Bytes) : Nat := fieldAt h 20 4

/-- The body of an image. -/
def imgBody (b : Bytes) : Bytes := slice b 4096 (imgBodyLen b)

/-- Largest image of a component (R501). -/
def imgMax : Nat → Nat
  | 1 => 6291456 | 2 => 262144 | _ => 131072

/-- The image is signed by the owner (R501). -/
def ownerSigned (component : Nat) : Bool := component = 3

/-- MAGIC, HDR_VERSION and RSVD (step 1 of R508). -/
def imgForm (h : Bytes) : Bool :=
  fieldAt h 0 4 = 0x4D495850 && fieldAt h 4 2 = 1 && zeroAt h 13 3 && zeroAt h 2720 1376

/-- COMPONENT, SIGNER_KIND and IMAGE_LEN (step 2 of R508). -/
def imgShape (h : Bytes) : Bool :=
  let c := imgComponent h
  decide (1 ≤ c ∧ c ≤ 3) && imgSigner h = (if ownerSigned c then 2 else 1) && decide (1 ≤ imgBodyLen h)
    && imgLen h = 4096 + imgBodyLen h + 20851 && decide (imgLen h ≤ imgMax c)

/-- The image matches the part: the unit disables of FZ_CONFIG (R504). -/
def State.imgVariantOk (s : State) (h : Bytes) : Bool :=
  decide (imgVariant h < 4) &&
    ((imgVariant h % 2 = 1 && s.shadowDis = 0) || (imgVariant h / 2 = 1 && s.shadowDis = 0x3F#6))

/-- SVN is at least the band value and at most the band size (R503, R508). -/
def State.imgSvnOk (s : State) (h : Bytes) : Bool :=
  decide (s.svnBand (imgComponent h) ≤ imgSvn h ∧ imgSvn h ≤ (bandWords (imgComponent h)).2)

def imgMldsaPk (h : Bytes) : Bytes := slice h 80 2592
def imgSlhPk (h : Bytes) : Bytes := slice h 2672 48

/-- Both keys fill two different unrevoked slots of the signer's region (R503). -/
def State.imgSignersOk (s : State) (h : Bytes) : Bool :=
  let own := ownerSigned (imgComponent h)
  imgMldsaSlot h ≠ imgSlhSlot h && s.keyFills own (imgMldsaSlot h) (imgMldsaPk h)
    && s.keyFills own (imgSlhSlot h) (imgSlhPk h)

/-- Both signatures over the header verify (R503); SLH-DSA-SHA2-192s is parameter set 5 (R333). -/
def imgSigsOk (b : Bytes) : Bool :=
  let h := b.take 4096
  let o := 4096 + imgBodyLen b
  mldsa87Ok (imgMldsaPk b) "PETHAL-IMG1" h (slice b o 4627)
    && slhOk 5 0 0 (imgSlhPk b) (Config.ascii "PETHAL-IMG1") h (slice b (o + 4627) 16224)

/-- BODY_DIGEST binds the body (R503). -/
def imgDigestOk (b : Bytes) : Bool := Config.sha384 (imgBody b) = slice b 32 48

/-- An installed component's image is accepted as R503 and R502 state. -/
def State.imgAccepted (s : State) (b : Bytes) : Bool :=
  s.imgSignersOk b && imgDigestOk b && imgSigsOk b

/-! ### The bundle in the MRAM slot (R70) -/

/-- The first check that fails, as REC_BUNDLE numbers it, or 0: header, SVN, variant, signature, blank (R79). -/
def State.bundleFail (s : State) : Nat :=
  let b := s.upd.slot
  if b = [] then 5
  else if !imgForm b || !imgShape b || imgComponent b ≠ 1 || b.length ≠ imgLen b then 1
  else if !s.imgSvnOk b then 2
  else if !s.imgVariantOk b then 3
  else if !s.imgAccepted b then 4
  else 0

/-- Patch slots that are ignored, each with the DETAIL of its record (R69). -/
def State.badPatches (s : State) : List Nat :=
  (List.range 128).filterMap fun i =>
    let a := s.fuses.shadowOf (880 + 2 * i)
    let r := s.fuses.shadowOf (881 + 2 * i)
    if a.invalid || r.invalid then some (i + 2 * 65536)
    else if 65536 ≤ a.data.toNat then some (i + 65536)
    else none

/-- The replacements of the patch slots: a slot whose address word is zero is empty, and of two slots with one address the
higher-numbered wins (R69). -/
def State.patchMap (s : State) : Sparse (Option (BitVec 32)) :=
  (List.range 128).foldl (fun m i =>
    let a := s.fuses.shadowOf (880 + 2 * i)
    let r := s.fuses.shadowOf (881 + 2 * i)
    if a.invalid || r.invalid || a.data = 0 || decide (65536 ≤ a.data.toNat) then m else m.set none a.data.toNat (some r.data)) []

/-- The ROM applies its patch slots (R69). -/
def State.applyPatches (s : State) : State := s.mapFuses fun f => { f with romPatch := s.patchMap }

/-- The word the ROM executes at an address: its replacement, or the mask ROM's. -/
def State.romWord (s : State) (addr : Nat) : BitVec 32 := (s.fuses.romPatch.get none addr).getD (Config.maskRom addr)

/-! ### Start of the firmware -/

/-- The ACTIVE records with unused reserved indices. -/
def Keeper.skipping (k : Keeper) : List SlogRec := k.slog.filter fun r => r.status = .active && decide (r.next ≠ r.reservedEnd)

/-- NEXT_INDEX of each ACTIVE record is set to its RESERVED_END; the skips are recorded (R283, R534). -/
def State.resumeStateful (s : State) : State :=
  let skips := s.keeper.skipping
  let s1 := s.mapKeeper fun k =>
    { k with slog := k.slog.map fun r => if r.status = .active then { r with next := r.reservedEnd, exporting := false } else r }
  if skips = [] then s1
  else skips.foldl (fun s r => s.logEvent 0x0411 (r.num * 2 ^ 48 + r.reservedEnd % 2 ^ 48)) (s1.logBroken 2 4 skips.length)

/-- The component records are checked (R502): microcode by its signatures, the policy by its stored digest. -/
def State.loadComponents (s : State) : State :=
  let micro : Bool := s.upd.microCur ≠ [] && s.imgAccepted s.upd.microCur
  let pol : Option Policy :=
    if s.upd.polCur ≠ [] ∧ Config.sha384 s.upd.polCur = s.upd.polHash then some (parsePolicy (imgBody s.upd.polCur)) else none
  (s.mapTables fun t => { t with microOk := micro }).mapGuard fun g =>
    { g with policy := pol, policySvn := if pol.isSome then imgSvn s.upd.polCur else 0 }

/-- A debug certificate's rights hold at this start-up: its application counts as an acceptance (R480). -/
def State.applyDebug (s : State) : State :=
  let held : Bool := s.keeper.debugDigest ≠ [] && decide (s.keeper.bootCount ≤ s.keeper.debugExpiry) && s.fuses.lc ≠ .rma
    && s.fuses.lc ≠ .testUnlocked && !s.boot.countersLost
  s.mapKeeper fun k => { k with debugSpoiled := held }

end Sys2Proof.Machine
end

