-- ==== Sys2Proof/Machine/PowerCmds.lean ====
section
/-!
DEFINITION. Machine/PowerCmds.lean: supplies, tiers, power-fail hold and thermal events (R26 to R57).
-/
namespace Sys2Proof.Machine
open Sys2Proof

/-! ### Shared -/

/-- Run a change that may move the effective tier: the dividers then switch (R30, R31). -/
def State.retier (s : State) (f : State → State) : State :=
  let t := f s
  if t.effTier = s.effTier then t else t.emit (.clockSwitch t.effTier)

/-- The starting tier for a first average (R29). -/
def startTier (mv : Nat) : Nat := if 4500 ≤ mv then 1 else if 3300 ≤ mv then 2 else 3

/-- The tier an average forces: past a threshold the tier is higher-numbered at once (R29). -/
def forcedTier (mv : Nat) : Nat := if mv < 3250 then 3 else if mv < 4450 then 2 else 1

/-- The lowest-numbered tier whose entry threshold VIN has stayed at or above (R29). -/
def entryTier (mv : Nat) : Nat := if 4550 ≤ mv then 1 else if 3350 ≤ mv then 2 else 3

/-- A paused job may go on: no power-fail hold, no thermal stop, its function in D0 (R37, R56, R144). -/
def State.mayResume (s : State) (j : Job) : Bool :=
  !s.power.pfHold && !s.thermal.thermStop && !(s.fn j.fn).d3hot

/-- Paused jobs that nothing stops any longer wait for a unit again. -/
def State.resumePaused (s : State) : State :=
  s.mapJobs (fun j => j.phase = .paused && s.mayResume j) fun j => { j with phase := .yielded }

/-- A function's BAR0 decodes (R145): link up, present, D0, Memory Space Enable. -/
def State.barOpen (s : State) (fn : Nat) : Bool :=
  s.boot.link = .up && !s.boot.cut && (s.fn fn).present && (s.fn fn).mse && !(s.fn fn).d3hot && !(s.fn fn).inFlr

/-- A memory request to a function's BAR0: Unsupported Request in D3hot (R144), unclaimed without Memory Space Enable or
while a function-level reset drains (R145). -/
def State.onBar (s : State) (fn : Nat) (act : State → State) : State :=
  let f := s.fn fn
  if s.boot.link ≠ .up ∨ s.boot.cut ∨ f.present = false then s
  else if f.d3hot then s.emit (.unsupported fn)
  else if f.mse = false ∨ f.inFlr then s
  else act s

/-- The firmware answers a function's BAR0; PF DEV registers also through the loader (R77). -/
def State.barUp (s : State) (fn : Nat) : Bool := s.barOpen fn && s.fwRunning
def State.devUp (s : State) : Bool := s.barOpen 0 && (s.fwRunning || s.boot.loaderServes)

/-- The number REC_COUNTERS shows (R79): the lowest counter that fails. The spec numbers no RESERVED_END (R279), so it is free
where those alone fail. -/
def State.firstBad (s : State) (chk : KeeperCheck) : Nat :=
  if s.boot.countersLost then s.boot.firstBadCounter
  else chk.badCounters.min?.getD (if chk.badLogRecs = [] then 0 else Config.freeNat s.freeCtr)

/-- The VIN restoration of R58 and R80: keeper stage, straps (R48), everything the removal reset. -/
def State.keeperStart (s : State) (mv : Nat) (straps : Straps) (chk : KeeperCheck) : State :=
  let lost := s.boot.islandLost
  let s1 := { s with
    power := { s.power with vinValid := true, vinMv := mv, averaged := true, vinTier := startTier mv, nvOk := false,
                            pfHold := !s.power.pwrfailHigh, tierFloor := 0 }
    thermal := { tjPeak := 0, tjNow := 0, thermStop := false, throttleEvt := false, thermTier := 1, mgPeak := 0 }
    boot := { s.boot with stage := .keeper, straps, recovery := false, mode := .normal, marginalCnt := 0, cut := false,
                          keeperRomOnly := !chk.fwOk, link := .down,
                          countersLost := s.boot.countersLost || !chk.badCounters.isEmpty || !chk.badLogRecs.isEmpty,
                          firstBadCounter := s.firstBad chk,
                          timeValid := s.boot.timeValid && !lost }
    keeper := { s.keeper with slog := s.keeper.slog.filter fun r => !chk.badLogRecs.contains r.num,
                              ticks := if lost then 0 else s.keeper.ticks,
                              badLogRecs := s.keeper.badLogRecs ++ chk.badLogRecs.filter fun n => !s.keeper.badLogRecs.contains n,
                              badCounters := s.keeper.badCounters ++ chk.badCounters.filter fun n => !s.keeper.badCounters.contains n,
                              blobTarget := 0, lcClearing := false, lcReadable := !chk.lcJournalBad, revReadable := !chk.revJournalBad }
    logs := { s.logs with buffered := [], dropped := 0 }
    upd := { s.upd with jnlReadable := !chk.updJournalBad }
    mgmt := { Mgmt.atReset with alert := s.mgmt.alert }
    guard := { s.guard with pgHigh := [false, false, false, false] } }
  s1.draw.setCode 0x0001 0

/-- Records latched in the island are written, then the count of those it could not hold (R491). -/
def State.writeLatched (s : State) : State :=
  let s1 := s.logs.latched.foldl State.addRec s
  let s2 := if s.logs.overLatch = 0 then s1 else s1.logEvent 0x0704 (s.logs.overLatch + 2 ^ 63)
  s2.mapLogs fun l => { l with latched := [], overLatch := 0 }

/-- A latched tamper record keeps the compute die in reset (R63, R491). -/
def State.holdLatched (s : State) : State :=
  match s.logs.latched with
  | [] => s
  | r :: _ => ((s.writeLatched).mapBoot fun b => { b with stage := .held }).setCode 0x8002 (r.code &&& 0xFF)

/-- A recorded island loss: an event, or a major tamper when the owner says so (R62, R484). -/
def State.noteIsland (s : State) : State :=
  if !s.boot.islandLost then s
  else if s.tamperPolicy.getLsbD 3 then s.majorTamper 0x0630 255 0 else s.logEvent 0x0106 0

/-! ### Commands -/

def execVinRestored (mv : Nat) (straps : Straps) (chk : KeeperCheck) (s : State) : Host.Outcome State Fault Refusal :=
  if s.power.vinValid then .next s
  else
    let s1 := s.keeperStart mv straps chk
    let s2 := if straps.bootMode = 3 then s1.logEvent 0x0105 3 else s1
    let s3 := if s2.power.pfHold then s2.setCode 0x8001 0 else s2
    .next (s3.holdLatched.noteIsland)

/-- VIN falls below 2.65 V (R29, R80): holds asserted, compute die in reset; what it held is lost. -/
def execUndervoltage (s : State) : Host.Outcome State Fault Refusal :=
  if !s.power.vinValid then .next s
  else
    let s1 := ((s.clearDie).guardReset).resetFns
    let s2 : State := { s1 with
      power := { s1.power with vinValid := false, averaged := false, nvOk := false, pfHold := false, tierFloor := 0 }
      boot := { s1.boot with stage := .off, link := .down, cut := false, islandLost := !s1.power.vbatOk }
      logs := if s1.power.vbatOk then s1.logs else { s1.logs with latched := [], overLatch := 0 } }
    .next (if s.cdRunning then s2.setCode 0x8009 0 else s2)

def execVinAverage (mv : Nat) (s : State) : Host.Outcome State Fault Refusal :=
  if !s.power.vinValid then .next s
  else
    .next (s.retier fun s => s.mapPower fun p =>
      let tier := if p.averaged then max p.vinTier (forcedTier mv) else startTier mv
      { p with vinMv := mv, averaged := true, vinTier := tier, nvOk := p.nvOk && decide (tier ≤ 2) })

def execVinTierDwellExpired (minMv : Nat) (s : State) : Host.Outcome State Fault Refusal :=
  if !s.power.vinValid then .next s
  else .next (s.retier fun s => s.mapPower fun p => { p with vinTier := min p.vinTier (entryTier minMv) })

/-- A host write of PWR_LIMIT: bits [1:0]; the others are reserved (R14, R30). -/
def State.writePwrLimit (s : State) (value : BitVec 64) : State :=
  s.retier fun s => s.mapPower fun p => { p with tierFloor := value.truncate 2 }

def execPwrLimitWrite (value : BitVec 64) (s : State) : Host.Outcome State Fault Refusal :=
  .next (if s.devUp then s.writePwrLimit value else s)

/-- The filtered PWRFAIL_N falls: power-fail hold (R34, R35); before the rails it shows as WAIT_PWRFAIL (R63). -/
def execPwrfailAssert (s : State) : Host.Outcome State Fault Refusal :=
  let was := s.power.pfHold
  let s1 := s.mapPower fun p => { p with pwrfailHigh := false, pfHold := p.vinValid, nvOk := false }
  let s2 := if s1.power.pfHold && !was then s1.deviceEvent else s1
  .next (if s2.boot.stage = .keeper ∧ s2.power.pfHold then s2.setCode 0x8001 0 else s2)

/-- The settings blob as it stands. -/
def State.blob (s : State) : Blob :=
  { version := s.keeper.blobVersion, creds := s.keeper.creds, bands := s.store.bands,
    grants := (s.store.slots.filter fun p => p.2.owner ≠ 0).map fun p => (p.1, p.2.owner) }

/-- Firmware of blob version `v` writes a migrated blob beside an older one; in power-fail hold the write waits for its end
(R35, R524). -/
def State.migrateBlob (s : State) (v : Nat) : State :=
  s.mapKeeper fun k =>
    if v ≤ k.blobVersion then { k with blobTarget := 0 }
    else if s.power.pfHold then { k with blobTarget := v }
    else { k with blobVersion := v, blobTarget := 0, oldBlob := some (k.oldBlob.getD s.blob) }

/-- Clear the transition journal; in power-fail hold the clearing waits for its end (R35, R467). -/
def State.clearLcJournal (s : State) : State :=
  s.mapKeeper fun k => if s.power.pfHold then { k with lcClearing := true } else { k with lcJournal := none, lcClearing := false }

/-- The non-volatile changes that waited for the end of the hold begin: the journal's clearing and the settings blob. -/
def State.writeWaiting (s : State) : State :=
  let s1 := if s.keeper.lcClearing then s.clearLcJournal else s
  if s1.keeper.blobTarget ≠ 0 ∧ s1.fwRunning then s1.migrateBlob s1.keeper.blobTarget else s1

/-- The filtered PWRFAIL_N is high. The row marks the rise, from which the 10 ms of R37 run, and with `passed` their end:
the hold ends, paused jobs resume and what waited is written; WAIT_PWRFAIL clears (R79). -/
def execPfHoldEnd (s : State) (passed : Bool := true) : Host.Outcome State Fault Refusal :=
  if passed = false then .next (s.mapPower fun p => { p with pwrfailHigh := true })
  else
    let s1 := ((s.mapPower fun p => { p with pwrfailHigh := true, pfHold := false }).writeWaiting).resumePaused
    .next (if s1.boot.code = 0x8001 then s1.setCode 0x0001 0 else s1)

/-- 100 ms at tier 1 or 2 with PWRFAIL_N high (R37). -/
def execNvOkSet (s : State) : Host.Outcome State Fault Refusal :=
  .next (s.mapPower fun p =>
    { p with nvOk := p.nvOk || (p.vinValid && p.pwrfailHigh && !p.pfHold && decide (p.vinTier ≤ 2)) })

/-- THERM_TIER moves one tier toward 3 (R55). -/
def State.throttleUp (s : State) : State :=
  if s.thermal.thermTier < 3 then
    (s.retier fun s => s.mapThermal fun t => { t with thermTier := t.thermTier + 1 }).setThrottle
  else s

/-- The hotter of two samples. -/
def maxCode (a b : BitVec 8) : BitVec 8 := if a < b then b else a

/-- A 100 µs junction sample, in degrees plus 64 (R54 to R56): 100 °C is 164, 112 °C is 176. -/
def execTjSample (code : BitVec 8) (s : State) : Host.Outcome State Fault Refusal :=
  if !s.cdRunning then .next s
  else
    let was := s.thermal.tjNow
    let s1 := s.mapThermal fun t =>
      { t with tjNow := code, tjPeak := maxCode t.tjPeak code, mgPeak := maxCode t.mgPeak code,
               thermStop := if 176 ≤ code.toNat then true else if code.toNat ≤ 164 then false else t.thermStop }
    let s2 := if was.toNat < 164 ∧ 164 ≤ code.toNat then s1.throttleUp else s1
    .next (if s2.thermal.thermStop then s2 else s2.resumePaused)

/-- 10 ms at or above 100 °C (R55). -/
def execThrottleStep (s : State) : Host.Outcome State Fault Refusal :=
  .next (if 164 ≤ s.thermal.tjNow.toNat ∧ s.cdRunning then s.throttleUp else s)

/-- 100 ms at or below 95 °C (R55). -/
def execThrottleRelease (s : State) : Host.Outcome State Fault Refusal :=
  .next (if s.thermal.tjNow.toNat ≤ 159 ∧ s.cdRunning ∧ 1 < s.thermal.thermTier then
    s.retier fun s => s.mapThermal fun t => { t with thermTier := t.thermTier - 1 } else s)

/-- DEV_THERM as it reads. -/
def Thermal.word (t : Thermal) (peak : BitVec 8) : BitVec 64 :=
  BitVec.ofNat 64 (peak.toNat * 2 ^ 16 + t.tjNow.toNat * 2 ^ 8 + (if t.thermStop then 8 else 0)
    + (if t.throttleEvt then 4 else 0) + t.thermTier)

/-- A read of DEV_THERM returns TJ_PEAK and clears it (R15, R54). -/
def State.readTherm (s : State) : State :=
  (s.emit (.regData (s.thermal.word s.thermal.tjPeak))).mapThermal fun t => { t with tjPeak := 0 }

/-- A host read of DEV_THERM returns it and clears TJ_PEAK (R15). -/
def execDevThermRead (s : State) : Host.Outcome State Fault Refusal :=
  .next (s.onBar 0 fun s => if s.devUp then s.readTherm else s)

/-- The keeper rewrites all MRAM contents: nothing a rule names changes (R41). -/
def execMramRefresh (s : State) : Host.Outcome State Fault Refusal := .next s

/-- VBAT below 2.0 V: with VIN absent the island loses power, and with it what it latched (R28). -/
def execVbatRemoved (s : State) : Host.Outcome State Fault Refusal :=
  let s1 := s.mapPower fun p => { p with vbatOk := false }
  .next (if s.power.vinValid then s1
         else (s1.mapBoot fun b => { b with islandLost := true }).mapLogs fun l => { l with latched := [], overLatch := 0 })

def execVbatApplied (s : State) : Host.Outcome State Fault Refusal :=
  .next (s.mapPower fun p => { p with vbatOk := true })

end Sys2Proof.Machine
end

