-- ==== Sys2Proof/Machine/QueueOps.lean ====
section
/-!
DEFINITION. Machine/QueueOps.lean: the rings: start and end of a queue (R207 to R210), doorbells and consumption
reports (R179, R189), the taking of entries (R180 to R186), malformed entries (R203 to R205) and the errors of ring
reads (R154).
-/
namespace Sys2Proof.Machine
open Sys2Proof

/-! ### Register reach -/

/-- A queue's doorbell and register set answer: the firmware runs, or the ROM loader serves that queue (R77, R250,
R481). -/
def State.regsUp (s : State) (r : QRef) : Bool :=
  r.hasRing && s.barOpen r.fn && (s.fwRunning || (s.boot.stage = .loader && romQueue r))

/-- A host access to a queue's doorbell or register set: nothing where the queue's block does not answer (R77, R250). -/
def State.onQueue (s : State) (r : QRef) (act : State → State) : State :=
  if r.hasRing then s.onBar r.fn fun s => if s.regsUp r then act s else s else s

/-- The same for a read: zero where the block does not answer. -/
def State.onQueueRead (s : State) (r : QRef) (act : State → State) : State :=
  if r.hasRing then s.onBar r.fn fun s => if s.regsUp r then act s else s.emit (.regData 0) else s

/-- A read of Q_SUBMITTED latches the four counters and returns the latched one (R194). -/
def State.latchCounters (s : State) (r : QRef) : State :=
  let x := s.queue r
  if x.state = .absent then s.emit (.regData 0)
  else (s.setQueue { x with latched := x.cnt }).emit (.regData x.cnt.submitted)

/-- The device can read and write host memory for a function: D0, Bus Master Enable 1, link up (R144, R155). -/
def State.dmaUp (s : State) (fn : Nat) : Bool :=
  let f := s.fn fn
  s.boot.link = .up && !s.boot.cut && f.present && f.bme && !f.d3hot && !f.inFlr

/-- The device takes entries from a queue (R182, R205, R518). -/
def State.fetches (s : State) (r : QRef) : Bool :=
  r.hasRing && (s.queue r).state = .running && s.dmaUp r.fn && !s.boot.lockdown
    && !(s.upd.stage = .activating && s.upd.component = 1)

/-! ### Start and end of a queue -/

/-- Start a queue whose sizes and addresses are set (R180, R192, R207). -/
def Queue.start (q : Queue) : Queue :=
  { q with state := .running, head := 0, expPhase := !q.index, errKind := 0, errIndex := 0, cnt := .zero, latched := .zero,
           intake := [], cqWrite := 0, cqReport := 0, unsignalled := 0, ringPend := false, repoll := false, tail := 0,
           drainJob := none, retCount := 0, retIndex := 0 }

/-- Forget the arbitration state a queue leaves. -/
def Arb.forget (a : Arb) (r : QRef) : Arb := { a with credit := a.credit.filter fun p => p.1 ≠ r }

/-- A queue ends: its register set is ABSENT again, and a later queue of its number starts without credit. -/
def State.endQueue (s : State) (r : QRef) : State :=
  allClasses.foldl (fun s c => s.mapArb c fun a => a.forget r) (s.dropQueue r)

/-- Every queue that satisfies `p` ends. -/
def State.endQueues (s : State) (p : QRef → Bool) : State :=
  ((s.queues.map Queue.ref).filter p).foldl State.endQueue s

/-- Steps 1 and 2 of R208: DRAINING, the intake returned, the head back at the first returned entry. -/
def Queue.drain (q : Queue) (job : Option Nat) : Queue :=
  let first := (q.intake.head?.map Intake.index).getD q.head
  { q with state := .draining, retCount := q.intake.length, retIndex := first, head := first,
           expPhase := if q.index then false else if q.head < first then !q.expPhase else q.expPhase,
           intake := [], drainJob := job, ringPend := false }

/-- The head moves on by one; in phase mode the expected phase inverts at the wrap (R180). -/
def Queue.advance (q : Queue) : Queue :=
  let h := (q.head + 1) % q.n
  { q with head := h, expPhase := if h = 0 && !q.index then !q.expPhase else q.expPhase }

/-- The sizes an admin or control queue may have (R175). -/
def maxLog : QRef → Nat
  | .ctl _ => 10
  | .job _ _ => 16
  | _ => 12

/-- R210: ring sizes within their class. -/
def Queue.configOk (q : Queue) : Bool :=
  let m := maxLog q.ref
  decide (4 ≤ q.sqLog ∧ q.sqLog ≤ m ∧ 4 ≤ q.cqLog ∧ q.cqLog ≤ m)

/-- A restart (R209): errors cleared, RUNNING; `skip` moves past the malformed entry; fetching resumes at once, an index
queue reading SQ_TAIL anew. -/
def Queue.restart (q : Queue) (skip : Bool) : Queue :=
  let q1 := if skip then q.advance else q
  { q1 with state := .running, errKind := 0, errIndex := 0, repoll := false, ringPend := q1.index, tail := q1.head }

/-! ### Malformed entries (R203 to R205) -/

/-- An admin or job queue enters QUEUE_ERROR; one that is not RUNNING keeps what it latched. -/
def State.queueError (s : State) (r : QRef) (kind index : Nat) : State :=
  if (s.queue r).state ≠ .running then s
  else ((s.mapQueue r fun q => { q with state := .error, errKind := kind, errIndex := index, ringPend := false }).setQEvt
    r 0).signal r

/-- The number LOCKDOWN shows for a queue. -/
def ctlNum : QRef → Nat
  | .ctl n => n
  | _ => 0xFF

/-- A malformed entry or report: LOCKDOWN on a control queue, QUEUE_ERROR on any other. -/
def State.malformed (s : State) (r : QRef) (kind index : Nat) : State :=
  if r.isCtl then s.enterLockdown (ctlNum r) else s.queueError r kind index

/-- The class of a queue admits an opcode group (R175). -/
def groupAdmitted (r : QRef) (group : Nat) : Bool :=
  if r.isCtl then group = 0xC0 else if r.isAdmin then group = 0xA0 else decide (1 ≤ group ∧ group ≤ 0x0D)

/-- A CMD_ID is that of an entry taken and not completed. -/
def State.idTaken (s : State) (r : QRef) (id : BitVec 16) : Bool :=
  (s.queue r).intake.any (fun i => i.entry.cmdId = id) || s.jobs.any fun j => j.q = r && j.entry.cmdId = id

/-- What is malformed in an entry itself: kinds 4 and 5. -/
def State.malformedKind (s : State) (r : QRef) (e : Entry) : Option Nat :=
  if s.idTaken r e.cmdId then some 4 else if !groupAdmitted r e.group then some 5 else none

/-! ### Taking entries (R180, R182, R184, R186) -/

/-- Take an entry into the intake buffer. -/
def State.takeEntry (s : State) (r : QRef) (e : Entry) : State :=
  let s1 := s.mapQueue r fun q =>
    { q.advance with intake := q.intake ++ [{ entry := e, index := q.head, aborted := false, stamp := s.sched.arrivals, input := [], viaVdm := false }],
                     cnt := { q.cnt with submitted := q.cnt.submitted + 1 } }
  { s1 with sched := { s1.sched with arrivals := s1.sched.arrivals + 1 } }

/-- Take the run of fetched entries from the head: up to the first mismatch, to SQ_TAIL, to a malformed entry, or until
the buffer of eight is full. -/
def State.takeRun (s : State) (r : QRef) : List Bytes → State
  | [] => s
  | b :: l =>
    let q := s.queue r
    let e := Entry.ofBytes b
    if q.state ≠ .running ∨ 8 ≤ q.intake.length ∨ (q.index ∧ q.head = q.tail) then s
    else if q.index = false ∧ e.phase.getLsbD 0 ≠ q.expPhase then s.mapQueue r fun q => { q with repoll := true }
    else match s.malformedKind r e with
      | some k => s.malformed r k q.head
      | none => (s.takeEntry r e).takeRun r l

/-- The write of an index-mode queue's head (R186). -/
def State.writeHead (s : State) (r : QRef) : State :=
  let q := s.queue r
  if q.index then s.tlp (.hostWrite r.fn (q.idxAddr + 8) (leBytes 4 q.head)) else s

/-- AER calls an error advisory where the PCIe base specification permits, and non-fatal otherwise (R154). That
specification permits it for a completion timeout and a poisoned TLP (PRESUMED, log row 93). -/
def DmaErr.advisory : DmaErr → Bool
  | .timeout | .poisoned => true
  | _ => false

/-- The status of a job whose input or fragment table could not be read (R154). -/
def DmaErr.status : DmaErr → Status
  | .internal _ => st.internalEcc
  | _ => st.dmaFault

/-- An error of a device read or write is recorded in FN_DMA; a PCIe-side one goes to AER, an uncorrectable word to
class 5 (R154, R535). -/
def State.dmaError (s : State) (fn : Nat) (e : DmaErr) (addr : BitVec 64) : State :=
  let s1 := s.setFnDma fn (DmaErr.num e) addr
  match e with
  | .internal w => s1.sramUe w
  | _ => s1.tlp (.aer fn e (DmaErr.advisory e))

/-- A failed read of ring entries or of the index block (R154, R203). -/
def State.ringError (s : State) (r : QRef) (e : DmaErr) (addr : BitVec 64) : State :=
  let kind := match e with | .internal _ => 2 | _ => 1
  (s.dmaError r.fn e addr).malformed r kind (s.queue r).head

/-- The address of the entry at a queue's head. -/
def Queue.headAddr (q : Queue) : BitVec 64 := q.sqBase + BitVec.ofNat 64 (64 * q.head)

/-! ### Doorbells (R178, R179, R189) -/

/-- SQ_RING. -/
def State.ringSq (s : State) (r : QRef) : State :=
  match (s.queue r).state with
  | .absent => s.setAccess 1
  | .running => s.mapQueue r fun q => if q.index then { q with ringPend := true } else { q with repoll := false }
  | _ => s

/-- The position a report maps to (R189). -/
def Queue.reportPos (q : Queue) (head : Nat) (phase : Bool) : Nat := (head + q.m * (if phase then 0 else 1)) % (2 * q.m)

/-- CQ_REPORT. -/
def State.reportCq (s : State) (r : QRef) (head : Nat) (phase : Bool) : State :=
  let q := s.queue r
  let p := q.reportPos head phase
  let dist := (p + 2 * q.m - q.cqReport) % (2 * q.m)
  let unread := (q.cnt.completed - q.cnt.consumed).toNat
  if q.state = .absent then s.setAccess 1
  else if q.m ≤ head ∨ unread < dist then s.malformed r 6 q.head
  else s.mapQueue r fun q =>
    { q with cqReport := p, cnt := { q.cnt with consumed := q.cnt.consumed + BitVec.ofNat 64 dist } }

/-! ### Q_CFG and Q_CTRL (R210) -/

/-- ENABLE set to 1 on a queue that is absent: it starts, or shows ERR_KIND 7. -/
def State.enableQueue (s : State) (r : QRef) : State :=
  s.mapQueue r fun q => if q.state ≠ .absent then q else if q.configOk then q.start else { q with errKind := 7 }

/-- The fields of a Q_CFG value taken into an absent queue. -/
def Queue.setCfg (q : Queue) (v : BitVec 64) : Queue :=
  { q with index := v.getLsbD 8, sqLog := v.toNat / 2 ^ 16 % 32, cqLog := v.toNat / 2 ^ 24 % 32 }

/-- ENABLE set to 0: steps 1, 2 and 4 of R208. -/
def State.disableQueue (s : State) (r : QRef) : State :=
  let q := s.queue r
  if q.state = .running ∨ q.state = .error then s.setQueue (q.drain none) else s

/-- A write of Q_CFG of an admin or control queue. -/
def State.writeCfg (s : State) (r : QRef) (v : BitVec 64) : State :=
  if (s.queue r).state ≠ .absent then (if v.getLsbD 0 then s else s.disableQueue r)
  else
    let s1 := s.mapQueue r fun q => q.setCfg v
    if v.getLsbD 0 then s1.enableQueue r else s1

/-- RESTART of an admin queue in QUEUE_ERROR; SKIP with any kind but 4 or 5 does nothing. -/
def State.restartAdmin (s : State) (fn : Nat) (skip : Bool) : State :=
  let q := s.queue (.admin fn)
  if q.state ≠ .error ∨ (skip ∧ q.errKind ≠ 4 ∧ q.errKind ≠ 5) then s else s.setQueue (q.restart skip)

/-- Write the completions a function's jobs still hold, in the order in which the jobs ended (R144, R155, R190). -/
def State.writeHeld (s : State) (fn : Nat) : State :=
  let mine (id : Nat) : Bool := (s.job? id).any fun j => j.heldCpl && j.q.hasRing && j.fn = fn
  ((s.sched.held.filter mine).foldl (fun s id =>
    match s.job? id with
    | some k => (match k.ending with | some e => s.complete k e | none => s)
    | none => s) s).mapSched fun d => { d with held := d.held.filter fun id => !mine id }

end Sys2Proof.Machine
end

