-- ==== Sys2Proof/Machine/StartCmds.lean ====
section
/-!
DEFINITION. Machine/StartCmds.lean: start-up from the rails to DRBG seeding (R58 to R77, R440): rails, fuse sensing and
its integrity rules (R65, R66, R459), roll-forwards (R467, R523), the ROM's bundle verification and start modes
(R69 to R72), the start of the firmware, and PCIe readiness.
-/
namespace Sys2Proof.Machine
open Sys2Proof

/-! ### Fuse sensing (R65, R66) -/

/-- ECC decode of one raw read: data, and whether a bit was corrected; none when uncorrectable. -/
def fuseDecode (r : BitVec 39) : Option (BitVec 32 × Bool) :=
  let d : BitVec 32 := r.truncate 32
  if r = 0 ∨ r = fuseRaw d then some (d, false) else (Config.fuseCorrect r).map fun x => (x, true)

/-- Classification of a word from its three raw reads (R65). -/
def classify (low nom high : BitVec 39) : Shadow :=
  if low = nom ∧ nom = high then
    match fuseDecode nom with
    | some (d, c) => { data := d, invalid := false, marginal := false, corrected := c }
    | none => { data := 0, invalid := true, marginal := false, corrected := false }
  else
    match fuseDecode low, fuseDecode nom, fuseDecode high with
    | some (a, _), some (b, _), some (c, _) =>
      if a = b ∧ b = c then { data := a, invalid := false, marginal := true, corrected := false }
      else { data := 0, invalid := true, marginal := false, corrected := false }
    | _, _, _ => { data := 0, invalid := true, marginal := false, corrected := false }

/-- The shadow of a word after sensing; a word without a margin read reads its raw bits at every margin. -/
def State.sense (s : State) (m : List MarginRead) (w : Nat) : Shadow :=
  match m.find? fun x => x.word = w with
  | some x => classify x.low x.nom x.high
  | none => classify (s.fuses.word w) (s.fuses.word w) (s.fuses.word w)

/-- Take every word into its shadow. -/
def State.senseAll (s : State) (m : List MarginRead) : State :=
  s.mapFuses fun f =>
    { f with shadow := (List.range 8192).foldl (fun l w => l.set Shadow.blank w (s.sense m w)) f.shadow, lastWord := 0,
             rolledFwd := false, busy := false, romPatch := [] }

/-- A word of FZ_LIFECYCLE, FZ_ROOT_DISABLE or FZ_LOCKS. -/
def isTriplicated (w : Nat) : Bool := regionOf w = 2 || regionOf w = 7 || regionOf w = 15

/-- Copy-0 words of the triplicated regions. -/
def tripLc : List Nat := (List.range 16).map (160 + ·)
def tripRoot : List Nat := (List.range 16).map (336 + ·)
def tripLock : List Nat := (List.range 32).map (8096 + ·)

/-- The majority of a triplicated word's consistent copies (R65). -/
def State.majority (s : State) (w : Nat) : Option (BitVec 32) :=
  let vals := ((copies w).map s.fuses.shadowOf).filterMap fun x => if x.invalid then none else some x.data
  vals.find? fun v => decide (2 ≤ (vals.filter (· = v)).length)

/-- The words whose copies have no majority. -/
def State.noMajority (s : State) (l : List Nat) : List Nat := l.filter fun w => (s.majority w).isNone

/-- The shadows of the triplicated regions take the majority values (FUSE_WORD). -/
def State.takeMajorities (s : State) : State :=
  s.mapFuses fun f =>
    { f with shadow := (tripLc ++ tripRoot ++ tripLock).foldl (fun l w =>
        (copies w).foldl (fun l c => l.set Shadow.blank c
          { (l.get Shadow.blank c) with data := (s.majority w).getD 0, invalid := (l.get Shadow.blank c).invalid }) l) f.shadow }

/-! ### Region digests (R459) -/

/-- The digest word of a region without epoch blocks. -/
def digestWord : Nat → Option Nat
  | 0 => some 31 | 1 => some 159 | 3 => some 223 | 4 => some 239 | 5 => some 319 | 6 => some 335 | 9 => some 879
  | 11 => some 1167 | 14 => some 8095 | _ => none

/-- First word and size of an epoch block of region 8 or 13. -/
def blockOf (r e : Nat) : Nat × Nat := if r = 8 then (384 + 48 * e, 48) else (2192 + 16 * e, 16)

/-- Digest word of an epoch block. -/
def blockDigestWord (r e : Nat) : Nat := (blockOf r e).1 + (blockOf r e).2 - 1

/-- The low 32 bits of a SHA-256 digest, its last four bytes as a big-endian number. -/
def low32 (d : Bytes) : BitVec 32 := BitVec.ofNat 32 (leNat (d.drop 28).reverse)

/-- The region digest over words in ascending order, without the digest word and the revocation words. -/
def State.digestOver (s : State) (head : Bytes) (first n dig : Nat) : BitVec 32 :=
  let words := ((List.range n).map (first + ·)).filter fun w => w ≠ dig && !isRevocation w
  low32 (Config.sha256 (head ++ words.flatMap fun w => leBytes 4 (s.fz w).toNat))

def State.regionDigest (s : State) (r dig : Nat) : BitVec 32 := s.digestOver (leBytes 4 r) (regionFirst r) (regionSize r) dig

def State.blockDigest (s : State) (r e : Nat) : BitVec 32 :=
  s.digestOver (leBytes 4 r ++ leBytes 4 e) (blockOf r e).1 (blockOf r e).2 (blockDigestWord r e)

/-- An epoch block is sealed: its digest word is programmed (R461). -/
def State.sealed (s : State) (r e : Nat) : Bool := s.fuses.word (blockDigestWord r e) ≠ 0

/-- A word lies in a write-locked region or a sealed block. -/
def State.inLocked (s : State) (w : Nat) : Bool :=
  let r := regionOf w
  if r = 8 then s.sealed 8 ((w - 384) / 48) else if r = 13 then s.sealed 13 ((w - 2192) / 16)
  else !isTriplicated w && s.writeLocked r

/-- The first failing word of a start-up integrity failure (R66). -/
def State.integrityFail (s : State) (nomaj : List Nat) : Option Nat :=
  let words := (List.range 8192).filter fun w => (s.fuses.shadowOf w).invalid && s.inLocked w
  let digests := ((List.range 15).filterMap fun r =>
      match digestWord r with
      | some d => if s.writeLocked r && s.fz d ≠ s.regionDigest r d then some d else none
      | none => none)
    ++ ((List.range 8).flatMap fun e => [8, 13].filterMap fun r =>
      if s.sealed r e && s.fz (blockDigestWord r e) ≠ s.blockDigest r e then some (blockDigestWord r e) else none)
  (words ++ nomaj ++ digests).min?

/-- The compute die is kept in reset with a code (R66, R67): the guard stops, every hold is asserted, and FLx_RESET_N is
driven low (R42). -/
def State.holdDie (s : State) (code detail : BitVec 16) : State :=
  (s.guardReset.mapBoot fun b => { b with stage := .held }).setCode code detail

/-- An uncorrectable word in an unlocked region is named by a record (R66). -/
def State.logUnread (s : State) (w : Nat) : State :=
  if (s.fuses.shadowOf w).invalid && !isTriplicated w && !s.inLocked w then s.logEvent 0x0103 w else s

/-- The journal holds nothing the ROM must act on before bundle verification: none, unreadable, or the stage-6 record
of the activation that restarted the die (R70, R518, R523). -/
def State.journalDone (s : State) : Bool :=
  match s.upd.journal with
  | none => true
  | some j => !s.upd.jnlReadable || (s.upd.drained && j.stage = .unconfirmed)

/-- Once a pending root disable has run, an activation to roll forward shows as the stage in progress, also while it waits
for NV_OK (R58, R59, R68, R79). -/
def State.enterRollForward (s : State) : State :=
  if s.boot.stage = .sensed ∧ s.flt.rootPending = none ∧ s.journalDone = false then s.setCode 0x0005 2 else s

/-- The life-cycle state of the sensed fuses decides whether the start-up goes on (R67): INVALID and SCRAP hold the die. -/
def State.byLifeCycle (s : State) : State :=
  match s.fuses.lc with
  | .invalid => s.holdDie 0x8005 0
  | .scrap => s.holdDie 0x8006 0
  | _ => (s.mapBoot fun b => { b with stage := .sensed }).enterRollForward

/-- The sensed words judged: integrity first (R66), then the life-cycle decode, INVALID where its copies hold no majority
(R67, R470). -/
def State.judgeFuses (s : State) (nomaj : List Nat) (lcReads : Bool) : State :=
  match s.integrityFail nomaj with
  | some w => s.holdDie 0x8004 (BitVec.ofNat 16 w)
  | none =>
    (if lcReads then s.redecode else s.mapFuses fun f => { f with lc := .invalid, epoch := 0, pattern := 0 }).byLifeCycle

/-- Sensing ends: majorities, integrity and the records of unread words (R66), the Fuse fields (R5), the life-cycle decode
(R67, R470). -/
def State.finishSense (s : State) : State :=
  (((List.range 8192).foldl State.logUnread s.takeMajorities)).latchFuseFields.judgeFuses
    (s.noMajority (tripRoot ++ tripLock)) (s.noMajority tripLc = [])

/-! ### The transition journal (R467) -/

/-- What R467 finds of the journal record. -/
inductive RollCheck where
  | none | clear | forward | leave
  deriving DecidableEq, Repr

/-- Every word a record lists, in three copies, with its target codeword. -/
def FuseJournal.targets (j : FuseJournal) : List (Nat × BitVec 32) :=
  j.words.flatMap fun p => (copies p.1).map fun w => (w, p.2)

/-- A raw pattern has no bit outside its target. -/
def rawSubset (a b : BitVec 39) : Bool := a &&& ~~~ b = 0

/-- The comparison of R467. -/
def State.rollCheck (s : State) : RollCheck :=
  match s.keeper.lcJournal with
  | none => .none
  | some j =>
    if !s.keeper.lcReadable then .none
    else
      let t := j.targets
      let intact := j.source.all fun p => t.any (fun q => q.1 = p.1) || s.fuses.word p.1 = p.2
      if !intact then .leave
      else if t.all fun p => s.fuses.word p.1 = fuseRaw p.2 then .clear
      else if t.all fun p => s.fuses.word p.1 = 0 then .clear
      else if t.all fun p => rawSubset (s.fuses.word p.1) (fuseRaw p.2) then .forward
      else .leave

/-! ### Commands -/

/-- The rails come up unless PWRFAIL_N is low (R63). The row carries the filtered level of the ball, since the table has no
row for its rise: once high, the hold of R37 goes on until PF_HOLD_END. -/
def execRailsStart (pwrfailHigh : Bool) (s : State) : Host.Outcome State Fault Refusal :=
  .next (if s.boot.stage = .keeper ∧ s.power.vinValid ∧ pwrfailHigh = true then
    ((s.mapPower fun p => { p with pwrfailHigh := true }).mapBoot fun b => { b with stage := .rails }).setCode 0x0002 0 else s)

/-- The boot count steps unless the counters are lost, and the compute die is released (R64). -/
def State.releaseDie (s : State) : State :=
  let s1 := if s.boot.countersLost then s else s.mapKeeper fun k => { k with bootCount := k.bootCount + 1 }
  ((s1.mapBoot fun b => { b with stage := .released }).mapDru fun d => { d with owner := .sc }).setCode 0x0003
    (BitVec.ofNat 16 s1.keeper.bootCount)

/-- The release steps a keeper counter first, so in power-fail hold it waits (R35, R64). -/
def State.mayRelease (s : State) : Bool := s.nvFree || s.boot.countersLost

def execRailsUp (s : State) : Host.Outcome State Fault Refusal :=
  .next (if s.boot.stage = .rails ∧ s.mayRelease then s.releaseDie else s)

def execRailFault (rail : BitVec 16) (s : State) : Host.Outcome State Fault Refusal :=
  .next (if s.boot.stage = .rails then s.holdDie 0x8003 rail else s)

/-- Records of sensing: corrected and marginal words (R65). -/
def State.logSense (s : State) (w : Nat) : State :=
  let x := s.fuses.shadowOf w
  if x.corrected then s.logEvent 0x0101 w
  else if x.marginal then
    (s.logEvent 0x0102 w).mapBoot fun b => { b with marginalCnt := min 255 (b.marginalCnt + 1) }
  else s

def execFusesSensed (margins : List MarginRead) (s : State) : Host.Outcome State Fault Refusal :=
  if s.boot.stage ≠ .released then .next s
  else
    let s1 := (s.senseAll margins).setCode 0x0004 0
    let s2 := (List.range 8192).foldl State.logSense s1
    .next (match s2.rollCheck with
      | .forward =>
        ((s2.mapFuses fun f => { f with busy := true }).mapBoot fun b => { b with stage := .rolling }).setCode 0x0005 1
      | .clear => s2.clearLcJournal.finishSense
      | _ => s2.finishSense)

/-- The missing bits are programmed once NV_OK is 1; re-sensing then goes on (R68, R467). -/
def execLcRollForward (s : State) : Host.Outcome State Fault Refusal :=
  .next (if s.boot.stage ≠ .rolling ∨ s.power.nvOk = false then s
    else match s.keeper.lcJournal with
      | some j =>
        let s1 := ((s.burnAll j.targets).mapKeeper fun k => { k with lcJournal := none }).mapFuses fun f =>
          { f with rolledFwd := true, busy := false }
        (s1.logEvent 0x0107 1).finishSense
      | none => s)

/-- The ROM runs a pending root disable after fuse sensing (R68, R490). -/
def execRootDisableAtStart (s : State) : Host.Outcome State Fault Refusal :=
  .next (match s.flt.rootPending with
    | some e => if s.boot.stage = .sensed ∧ s.power.nvOk ∧ s.nvFree then (s.disableRoot e).enterRollForward else s
    | none => s)

/-- The start mode of R72 with its code, DETAIL and RECOVERY. -/
def State.startMode (s : State) (recoverLow : Bool) : StartMode × BitVec 16 × BitVec 16 × Bool :=
  let b := s.boot
  let bad := s.bundleFail
  if b.straps.bootMode = 2 ∧ (s.fuses.lc = .raw ∨ s.fuses.lc = .testUnlocked) then (.mfgPort, 0x0021, 0, false)
  else if bad ≠ 0 then (.loaderOnly, 0x0013, BitVec.ofNat 16 bad, true)
  else if b.countersLost then (.recovery, 0x0014, BitVec.ofNat 16 b.firstBadCounter, true)
  else if recoverLow then (.recovery, 0x0012, 0, true)
  else if b.straps.bootMode = 1 then (.recovery, 0x0011, 0, true)
  else (.normal, 0x0006, BitVec.ofNat 16 (imgSvn s.upd.slot), false)

/-- The compute die is held with ROM_FAULT; the number of the ROM stage in DETAIL is free (R79, log row 86). -/
def State.romFault (s : State) : State := (s.holdDie 0x8007 (BitVec.ofNat 16 (Config.freeNat s.freeCtr))).draw

/-- ROM patches, bundle verification, start mode (R69 to R72), unless a ROM self-test fails (R79). A good bundle's firmware
rewrites a keeper that runs from its ROM alone (R60). Where no firmware will run the guard does not run either, also one
that an activation without HOLD_HOST had kept running: every hold is asserted (R91). -/
def execBundleVerify (recoverLow : Bool) (s : State) (romOk : Bool := true) : Host.Outcome State Fault Refusal :=
  if s.boot.stage ≠ .sensed ∨ s.flt.rootPending ≠ none ∨ s.journalDone = false then .next s
  else if romOk = false then .next s.romFault
  else
    let s1 := (s.badPatches.foldl (fun s d => s.logEvent 0x0104 d) s).applyPatches
    let m := s1.startMode recoverLow
    let runs : Bool := m.1 = .normal || m.1 = .recovery
    let s2 := if runs then s1 else s1.guardReset
    .next ((s2.mapBoot fun b => { b with
      mode := m.1, recovery := m.2.2.2, stage := if runs then .bundleOk else .loader,
      keeperRomOnly := b.keeperRomOnly && !runs }).setCode m.2.1 m.2.2.1)

/-- Put the PREVIOUS half back into the slot where it still matches its digest (R522). -/
def Update.restoreSlot (u : Update) : Update :=
  if u.prevHalf ≠ [] ∧ Config.sha384 u.prevImg = u.prevHalf then
    { u with slot := u.prevImg, slotHash := u.prevHalf } else { u with slot := [], slotHash := [] }

/-- Exchange the current and previous component records (R519, R522). -/
def Update.swap (u : Update) (component : Nat) : Update :=
  if component = 2 then { u with microCur := u.microPrev, microPrev := u.microCur }
  else { u with polCur := u.polPrev, polPrev := u.polCur, polHash := Config.sha384 u.polPrev }

/-- The end of an update: journal cleared, stage 0, lock released. -/
def Update.close (u : Update) : Update :=
  { u with journal := none, stage := .idle, holder := .none, holderId := 0, component := 0, areaOk := false,
           drained := false, activeAt := 0, atPps := false, waitFrom := none }

/-- A restore returns to the old blob (R524): its credentials, geometry and grants apply, every slot EMPTY. -/
def State.returnBlob (s : State) : State :=
  match s.keeper.oldBlob with
  | none => s
  | some b =>
    (s.mapKeeper fun k => { k with blobVersion := b.version, creds := b.creds, oldBlob := none }).mapStore fun o =>
      b.grants.foldl (fun o p => o.setSlot p.1 { Slot.blank with owner := p.2 }) { o with bands := b.bands, slots := [] }

/-- The restore of R522 without a restart: the component put back, RESTORED set, a record written. -/
def State.restoreUpdate (s : State) (stage : UpdStage) (component : Nat) : State :=
  ((s.mapUpd fun u =>
    let v := if component = 1 then u.restoreSlot
             else if (u.journal.map UpdJournal.swapped).getD false then u.swap component else u
    { v.close with restored := true }).returnBlob).logEvent 0x0904 (stage.num * 256 + component)

/-- R521 steps 1 to 4: FZ_SVN steps up to the SVN, exchange or drop of records, the old blob, the journal. A word that is not
blank counts as programmed; when the ROM rolls forward it gets the bits that are missing (R523). -/
def State.finishConfirm (s : State) (component svn : Nat) (roll : Bool) : State :=
  let b := bandWords component
  let short (w : Nat) : Bool := s.fuses.word w ≠ fuseRaw 0xFFFFFFFF && rawSubset (s.fuses.word w) (fuseRaw 0xFFFFFFFF)
  let need := ((List.range svn).map (b.1 + ·)).filter fun w => s.fuses.word w = 0 || (roll && short w)
  let s1 := s.burnAll (need.map fun w => (w, 0xFFFFFFFF#32))
  let s2 := s1.mapUpd fun u =>
    let v := if component = 1 then
        (if u.areaOk then { u with stagedHalf := u.prevHalf, prevHalf := u.stagedHalf, stagedImg := u.prevImg,
                                   prevImg := u.stagedImg, stagedIs1 := !u.stagedIs1 } else u)
      else if component = 2 then { u with microPrev := [] } else { u with polPrev := [] }
    v.close
  s2.mapKeeper fun k => { k with oldBlob := none }

/-- The ROM acts on the update journal (R523); each step waits for NV_OK (R68). -/
def execActivationRollForward (s : State) : Host.Outcome State Fault Refusal :=
  .next (match s.upd.journal with
    | none => s
    | some j =>
      if s.boot.stage ≠ .sensed ∨ s.journalDone ∨ s.power.nvOk = false then s
      else
        let s0 := s.setCode 0x0005 2
        if j.stage = .activating ∧ j.component = 1 then
          if s.upd.stagedHalf = j.digest ∧ Config.sha384 s.upd.stagedImg = j.digest then
            ((s0.mapUpd fun u => { u with slot := u.stagedImg, slotHash := j.digest, stage := .unconfirmed, drained := true,
                                          journal := some { j with stage := .unconfirmed } }).logEvent 0x0107 2)
          else s0.restoreUpdate .activating 1
        else if j.stage = .activating ∧ j.swapped = false then s0.mapUpd Update.close
        else if j.stage = .confirming then (s0.finishConfirm j.component j.svn true).logEvent 0x0107 2
        else s0.restoreUpdate j.stage j.component)

/-- A held debug certificate is applied before the firmware starts, which counts as an acceptance: outside RMA the key stores
are spoiled (R480). -/
def State.holdCert (s : State) : State :=
  let s1 := s.applyDebug
  if s1.keeper.debugSpoiled then s1.spoilKeyStores true else s1

/-- The firmware starts: known-answer tests, component checks, stateful resume, settings migration, debug rights,
entropy start-up and platform verification (R58, R283, R440, R480, R502, R524). After an activation restart without
HOLD_HOST the guard has kept running (R518). -/
def execFwStart (katOk : Bool) (blobVersion : Nat) (s : State) : Host.Outcome State Fault Refusal :=
  if s.boot.stage ≠ .bundleOk then .next s
  else
    let s1 := (s.mapBoot fun b => { b with stage := .firmware }).setProgress 0x0007 0
    let s2 := (s1.holdCert).resumeStateful
    let s3 := s2.migrateBlob blobVersion
    let s4 := s3.mapEnt fun e =>
      { e with running := true, state := if katOk then .starting else .halted, lastTest := if katOk then e.lastTest else 5,
               pairs := List.replicate 16 .healthy }
    let s5 := if katOk then s4 else s4.setEnt 7
    let s6 := s5.mapUpd fun u => { u with blobNewer := decide (blobVersion < s.keeper.blobVersion),
                                          timerFrom := if u.stage = .unconfirmed then s.now else u.timerFrom }
    .next (if s6.guard.running then s6.mapTables fun t => { t with microOk := (s6.loadComponents).tables.microOk }
           else (s6.loadComponents).guardly State.guardStart)

/-- PCIe configuration is served by the firmware (R58, R77); the security controller has given up the DRU (R421). -/
def execServiceReady (s : State) : Host.Outcome State Fault Refusal :=
  .next (if s.fwRunning ∧ s.boot.serviceReady = false then
    ((s.mapBoot fun b => { b with serviceReady := true, loaderServes := false }).mapDru fun d =>
      { d with owner := if d.owner = .sc then .none else d.owner }).setProgress 0x0009 0 else s)

/-- The DRBGs stop for good or until retests (R446, R447): used by start-up and by pair failures. -/
def State.stopDrbgs (s : State) : State :=
  let waiting (j : Job) : Bool := j.phase = .waitEntropy || (j.group = 0x0B && j.phase ≠ .ended)
  let s1 := (s.mapEnt fun e => { e with state := .failed, live := false }).setEnt 6
  let hit := s1.jobs.filter waiting
  (hit.foldl (fun s j => (s.dropStream j).fail j st.entropyFail (if j.op = 0x0B01 then randomCycles j.written.length (j.entry.flag 2) else s.phaseCycles j)) s1).logEvent 0x0502
    s.ent.healthy

/-- Fewer than 8 healthy pairs stop the DRBGs once start-up sampling has ended; with 9 retired they halt (R440, R446, R447). -/
def State.afterPairs (s : State) : State :=
  let s1 := if s.ent.sampled ∧ s.ent.healthy < 8 ∧ (s.ent.state = .ready ∨ s.ent.state = .starting) then s.stopDrbgs else s
  if 9 ≤ s1.ent.retired ∧ s1.ent.sampled ∧ s1.ent.state ≠ .halted then
    ((s1.mapEnt fun e => { e with state := .halted, live := false }).setEnt 7).logEvent 0x0503 s1.ent.retired
  else s1

/-- Eight milliseconds of sampling end (R440 step 3). -/
def execEntropySamplingEnd (katOk : Bool) (s : State) : Host.Outcome State Fault Refusal :=
  if s.ent.running = false ∨ s.ent.sampled ∨ s.ent.state = .halted then .next s
  else
    let s1 := s.mapEnt fun e => { e with sampled := true }
    .next (if !katOk then (s1.mapEnt fun e => { e with state := .halted, lastTest := 5 }).setEnt 7
      else s1.afterPairs)

/-- 64 µs of conditioned output has been released: the sixteen instances are instantiated with 384 bits each, which is 24 blocks
of the pool (R440, R442, R447). -/
def execDrbgInstantiate (katOk : Bool) (s : State) : Host.Outcome State Fault Refusal :=
  let e := s.ent
  if e.sampled = false ∨ e.state ≠ .starting ∨ e.healthy < 8 ∨ e.pool < 24 then .next s
  else if !katOk then .next ((s.mapEnt fun e => { e with state := .halted, lastTest := 5 }).setEnt 7)
  else
    let s1 := s.mapEnt fun e => { e with state := .ready, live := true, pool := e.pool - 24,
                                         reseeds := e.reseeds + 16, requests := List.replicate 16 0 }
    let s2 := if s1.dru.saveKey.isNone then s1.newSaveKey else s1
    .next (if s2.boot.entropyReady || s2.boot.lockdown then s2
           else (s2.mapBoot fun b => { b with entropyReady := true }).setProgress 0x0008 (BitVec.ofNat 16 e.healthy))

/-- Training begins once PERST_N is high and the compute die is released with its PLL locked (R76); a cut link stays
down (R489). -/
def execLinkTraining (s : State) : Host.Outcome State Fault Refusal :=
  .next (if s.boot.perstHigh ∧ s.cdRunning ∧ s.boot.cut = false ∧ s.boot.link = .down then
    s.mapBoot fun b => { b with link := .training } else s)

def execLinkTrainingComplete (s : State) : Host.Outcome State Fault Refusal :=
  .next (if s.boot.link = .training then s.mapBoot fun b => { b with link := .up } else s)

/-- 900 ms after PERST_N rose without the firmware the loader completes configuration requests (R77). -/
def execLoaderConfigTakeover (s : State) : Host.Outcome State Fault Refusal :=
  .next (if s.boot.perstHigh ∧ s.cdRunning ∧ s.fwRunning = false then
    s.mapBoot fun b => { b with loaderServes := true } else s)

/-- VFs the PF reports: none in recovery and manufacturing port modes (R77, R142). -/
def State.totalVfs (s : State) : Nat := if s.boot.mode = .normal then 64 else 0

end Sys2Proof.Machine
end

