-- ==== Sys2Proof/Machine/FuseCmds.lean ====
section
/-!
DEFINITION. Machine/FuseCmds.lean: the fuse commands (R457 to R465), life-cycle and owner transitions (R466, R471 to
R474) and debug certificates (R476 to R480).
-/
namespace Sys2Proof.Machine
open Sys2Proof

/-! ### Programming (R457, R458, R463 to R465) -/

/-- A fuse command fails with a reason and the word at fault (R465). -/
def State.fuseFail (s : State) (j : Job) (reason word : Nat) : State :=
  s.endWith j st.paramRejected (reason + 65536 * word) j.scCycles

/-- Program words in order; a word that senses wrongly is marked invalid and ends the sequence (R457). -/
def State.burnSeq (bad : Option Nat) : List (Nat × BitVec 32) → State → State × Option Nat
  | [], s => (s, none)
  | (w, d) :: l, s => if bad = some w then (s.burnBad w, some w) else State.burnSeq bad l (s.burn w d)

/-- The digest word that a word's region or epoch block has. -/
def digestWordOf (w : Nat) : Option Nat :=
  let r := regionOf w
  if r = 8 then some (blockDigestWord 8 ((w - 384) / 48)) else if r = 13 then some (blockDigestWord 13 ((w - 2192) / 16))
  else digestWord r

/-- REGION_LOCKED (R459, R460, R465): revocation words lie outside every lock, and FZ_ROM_PATCH is open in RMA. -/
def State.wordLocked (s : State) (w : Nat) : Bool :=
  !isRevocation w && !(regionOf w = 10 && s.fuses.lc = .rma)
    && (s.inLocked w || (digestWordOf w).any fun d => s.fuses.word d ≠ 0)

/-- Why a word cannot be programmed: locked, invalid, or not blank. -/
def State.wordFault (s : State) (w : Nat) : Option Nat :=
  if s.wordLocked w then some 3 else if (s.fuses.shadowOf w).invalid then some 4
  else if s.fuses.word w ≠ 0 then some 1 else none

/-- Why GENERATE cannot program a word: a region that lost power before its locks were set is not locked, and its words
are programmed (R464). -/
def State.generateFault (s : State) (r w : Nat) : Option Nat :=
  if s.writeLocked r then some 3 else if (s.fuses.shadowOf w).invalid then some 4
  else if s.fuses.word w ≠ 0 then some 1 else none

/-- The first word of a list that is marked invalid: no command programs it, nor locks its region (R458). -/
def State.invalidIn (s : State) (l : List Nat) : Option Nat := l.find? fun w => (s.fuses.shadowOf w).invalid

/-- The first word of a list that cannot be programmed, with its reason. -/
def State.firstFault (s : State) (l : List Nat) : Option (Nat × Nat) := l.findSome? fun w => (s.wordFault w).map fun r => (r, w)

/-- The lock words of a region, in three copies: bit 0 of `locks` the write lock, bit 1 the read lock. -/
def lockWords (r locks : Nat) : List (Nat × BitVec 32) :=
  ((if locks % 2 = 1 then [8096 + r] else []) ++ (if locks / 2 = 1 then [8096 + 16 + r] else [])).flatMap fun w =>
    (copies w).map fun c => (c, lockData)

/-- The root words of a Bedrock region (R453). -/
def rootWords (r : Nat) : Nat := if r = 5 then 64 else 8

/-- GENERATE (R464): roots from a DRBG, the digest, both locks. -/
def State.generateRoots (s : State) (j : Job) (bad : Option Nat) : State :=
  let a := j.entry.p 0 2
  let r := regionOf a
  let n := rootWords r
  match (((List.range (regionSize r)).map (a + ·)).findSome? fun w => (s.generateFault r w).map fun c => (c, w)).or
      ((s.invalidIn ((lockWords r 3).map Prod.fst)).map fun w => (4, w)) with
  | some (c, w) => s.fuseFail j c w
  | none =>
    let b := s.freeNow (4 * n)
    let roots := (List.range n).map fun i => (a + i, BitVec.ofNat 32 (leNat (slice b (4 * i) 4)))
    match State.burnSeq bad roots s.scDraw with
    | (s1, some w) => s1.fuseFail j 5 w
    | (s1, none) =>
      let d := regionFirst (r + 1) - 1
      match State.burnSeq bad ((d, s1.regionDigest r d) :: lockWords r 3) s1 with
      | (s2, some w) => s2.fuseFail j 5 w
      | (s2, none) => s2.done j (n + 1) [] j.scCycles

/-- FUSE_PROGRAM: every check on every word before any is programmed, then ascending (R463). `badWord` is the word that
senses wrongly, if any. -/
def execFuseProgram (j : Nat) (inp : Bytes) (badWord : Option Nat) (s : State) : Host.Outcome State Fault Refusal :=
  .next (s.nvOp j .fuseProgram inp fun s j =>
    if j.entry.flag 2 then s.gated j .fuseProgram (s.phaseCycles j) fun s j => s.generateRoots j badWord
    else
      let a := j.entry.p 0 2
      let n := j.entry.p 2 2
      let words := (List.range n).map fun i => (a + i, BitVec.ofNat 32 (leNat (slice inp (4 * i) 4)))
      if words.any (fun p => p.2 = 0) then s.draw.endWith j st.badField (Config.freeNat s.freeCtr) j.scCycles
      else match s.firstFault (words.map Prod.fst) with
        | some (c, w) => s.fuseFail j c w
        | none =>
          match State.burnSeq badWord words s with
          | (s1, some w) => s1.fuseFail j 5 w
          | (s1, none) => s1.done j n [] j.scCycles)

/-! ### FUSE_LOCK (R461) -/

/-- The words FUSE_LOCK checks: the region, or its current epoch block, but for the digest word it programs itself and the
revocation words, which lie outside every lock. -/
def State.lockScope (s : State) (r : Nat) : List Nat :=
  let (a, n) := if r = 8 ∨ r = 13 then blockOf r s.fuses.epoch else (regionFirst r, regionSize r)
  ((List.range n).map (a + ·)).filter fun w => digestWordOf w ≠ some w && !isRevocation w

/-- The digest word of a region, or of its current epoch block (R459). -/
def State.lockDigest (s : State) (r : Nat) : Option Nat :=
  if r = 8 ∨ r = 13 then some (blockDigestWord r s.fuses.epoch) else digestWord r

/-- The digest word a region or block still lacks, with its value (R459). -/
def State.missingDigest (s : State) (r : Nat) : List (Nat × BitVec 32) :=
  let e := s.fuses.epoch
  let one : Option (Nat × BitVec 32) :=
    if r = 8 ∨ r = 13 then some (blockDigestWord r e, s.blockDigest r e)
    else (digestWord r).map fun d => (d, s.regionDigest r d)
  (one.filter fun p => s.fuses.word p.1 = 0).toList

/-- Steps 3 and 4: the digest word, then the lock words not yet set. -/
def State.lockWrites (s : State) (r locks : Nat) : List (Nat × BitVec 32) :=
  let lk := (if locks % 2 = 1 ∧ !s.writeLocked r then 1 else 0) + (if locks / 2 = 1 ∧ !s.readLocked r then 2 else 0)
  s.missingDigest r ++ (if r = 8 ∨ r = 13 then [] else lockWords r lk)

/-- Every word whose mark as invalid keeps a region from being locked: its own, its digest word, and the lock words to be
programmed (R458, R461). -/
def State.lockTouches (s : State) (r locks : Nat) : List Nat :=
  s.lockScope r ++ (s.lockDigest r).toList ++ (s.lockWrites r locks).map Prod.fst

def execFuseLock (j : Nat) (badWord : Option Nat) (s : State) : Host.Outcome State Fault Refusal :=
  .next (s.nvOp j .fuseLock [] fun s j =>
    let r := j.entry.p 0 1
    let scope := s.lockScope r
    match s.invalidIn (s.lockTouches r (j.entry.p 1 1)) with
    | some w => s.fuseFail j 4 w
    | none =>
      match if j.entry.flag 2 then none else scope.find? fun w => s.fuses.word w = 0 with
      | some w => s.fuseFail j 2 w
      | none =>
        let l := s.lockWrites r (j.entry.p 1 1)
        match State.burnSeq badWord l s with
        | (s1, some w) => s1.fuseFail j 5 w
        | (s1, none) => s1.done j (if l = [] then 0 else 1) [] j.scCycles)

/-! ### Debug certificates (R476 to R480) -/

def certEcdsa (b : Bytes) : Bool := (BitVec.ofNat 8 (fieldAt b 7 1)).getLsbD 0
def certRights (b : Bytes) : BitVec 32 := BitVec.ofNat 32 (fieldAt b 24 4)

/-- The form of a certificate (R477). -/
def certForm (b : Bytes) : Bool :=
  b.length = (if certEcdsa b then 7479 else 7383) && fieldAt b 0 4 = 0x54434450 && fieldAt b 4 2 = 1 && decide (fieldAt b 7 1 ≤ 1)
    && zeroAt b 28 4 && zeroAt b 42 22 && zeroAt b 2753 3 && (certEcdsa b || zeroAt b 2656 97)

/-- DEBUG_POLICY (R479). -/
def State.debugPolicy (s : State) : BitVec 32 := s.ownerCfg 0

/-- Step 5: the signer is allowed in this state. -/
def State.certSigner (s : State) (b : Bytes) : Bool :=
  let maker : Bool := fieldAt b 6 1 = 1
  let owner : Bool := fieldAt b 6 1 = 2
  match s.fuses.lc with
  | .testLocked | .mfg | .rma => maker
  | .mission => (maker && s.debugPolicy.getLsbD 0) || (owner && s.debugPolicy.getLsbD 1)
  | _ => false

/-- Step 6: the rights are allowed. -/
def State.certRightsOk (s : State) (b : Bytes) : Bool :=
  let allowed : BitVec 32 := if s.fuses.lc = .mission then (s.debugPolicy >>> 16) &&& 0x3F else 0x3F
  certRights b &&& ~~~ allowed = 0

/-- Step 7: the key slots. -/
def State.certKeys (s : State) (b : Bytes) : Bool :=
  let own : Bool := fieldAt b 6 1 = 2
  let k := fieldAt b 40 1
  s.keyFills own k (slice b 64 2592)
    && (!certEcdsa b || (List.range 8).any fun i => i ≠ k && s.keyFills own i (slice b 2656 97))

/-- Step 8: the signatures. -/
def certSigs (b : Bytes) : Bool :=
  let m := b.take 2756
  mldsa87Ok (slice b 64 2592) "PETHAL-DBG1" m (slice b 2756 4627)
    && (!certEcdsa b || ecdsa384Ok (slice b 2656 97) m (slice b 7383 96))

/-- The first check of R478 that fails, with its RESULT; an RMA authorisation replaces R479 by R473. -/
def State.certFault (s : State) (rma : Bool) (b : Bytes) : Option (Status × Nat) :=
  let no (r : Nat) : Option (Status × Nat) := some (st.paramRejected, r)
  if !certForm b then some (st.decodeFail, 0)
  else if fieldAt b 8 8 ≠ s.deviceId then no 16
  else if fieldAt b 16 8 ≠ s.keeper.debugNonce then no 17
  else if fieldAt b 41 1 ≠ s.fuses.lc.num then no 18
  else if fieldAt b 32 8 < s.keeper.bootCount then no 19
  else if !(if rma then fieldAt b 6 1 = 2 else s.certSigner b) then no 20
  else if !(if rma then certRights b = 0x80000000#32 else s.certRightsOk b) then no 21
  else if !s.certKeys b then no 22
  else if !certSigs b then some (st.verifyFalse, pairFalse.toNat)
  else none

/-- Step 2 passes: the nonce is consumed whatever follows. -/
def State.useNonce (s : State) (b : Bytes) : State :=
  if certForm b ∧ fieldAt b 8 8 = s.deviceId ∧ fieldAt b 16 8 = s.keeper.debugNonce then
    s.mapKeeper fun k => { k with debugNonce := k.debugNonce + 1 }
  else s

/-- DEBUG_NONCE (R476). -/
def execDebugNonce (j : Nat) (s : State) : Host.Outcome State Fault Refusal :=
  .next (s.nvOp j .debugNonce [] fun s j =>
    let n := s.keeper.debugNonce + 1
    (s.mapKeeper fun k => { k with debugNonce := n }).done j 0
      (leBytes 8 n ++ leBytes 8 s.deviceId ++ leBytes 8 s.keeper.bootCount) j.scCycles)

/-- A certificate is accepted (R480): outside RMA the key stores are spoiled first, and alias 3, "IMG" and "PASS" are
refused until the next start-up. -/
def State.acceptCert (s : State) (b : Bytes) : State :=
  let s1 := if s.fuses.lc = .rma then s
            else (s.spoilKeyStores false).mapKeeper fun k => { k with debugSpoiled := true }
  s1.mapKeeper fun k =>
    { k with debugRights := certRights b, debugExpiry := fieldAt b 32 8, debugDigest := Config.sha384 b }

def execDebugCert (j : Nat) (inp : Bytes) (s : State) : Host.Outcome State Fault Refusal :=
  .next (s.nvOp j .debugCert inp fun s j =>
    match s.certFault false inp with
    | some (c, r) => (s.useNonce inp).endWith j c r j.scCycles
    | none => ((s.useNonce inp).acceptCert inp).finish j.id st.ok pairTrue [] j.scCycles)

/-! ### Life cycle and epochs (R471 to R474) -/

/-- The state word a transition programs (R469). -/
def lcWord : LcState → Nat
  | .testUnlocked => 0 | .testLocked => 1 | .mfg => 2 | .mission => 3 | .rma => 4 | _ => 5

/-- Words of a transition, copy 0 of each (R471). -/
def State.lcWrites (s : State) (tgt : LcState) : List (Nat × BitVec 32) :=
  (160 + lcWord tgt, lcWordData.getD (lcWord tgt) 0)
    :: (if tgt = .rma then
          (((List.range 8).map (2 + ·)).filter fun w => !s.rootDisabled w).map fun w => (336 + w, rootDisableData)
        else [])

/-- Write a job's completion now, where its function's memory can be reached. -/
def State.completeNow (s : State) (id : Nat) : State :=
  match s.job? id with
  | some j =>
    match j.ending with
    | some e => if j.q.hasRing && !s.dmaUp j.fn then s else s.complete j e
    | none => s
  | none => s

/-- The compute die restarts from fuse sensing with every hold asserted; the manufacturing port keeps what it still has
to shift out (R471, R481). -/
def State.restartHeld (s : State) : State :=
  let reply := s.flt.mfgReply
  (((s.guardReset).restartDie).mapFlt fun f => { f with mfgReply := reply }).setCode 0x0003 (BitVec.ofNat 16 s.keeper.bootCount)

/-- The words of a triplicated program: copies 0, 1 and 2 of each copy-0 word, in list order (R466). -/
def tripWords (l : List (Nat × BitVec 32)) : List (Nat × BitVec 32) := l.flatMap fun p => (copies p.1).map fun w => (w, p.2)

/-- A command's triplicated program (R466), each word under R457: a word marked invalid ends it before the first bit (R458), one
that senses wrongly where it stands, with the words before it programmed (R465); the record is cleared either way. -/
def State.tripProgram (s : State) (j : Job) (l : List (Nat × BitVec 32)) (bad : Option Nat) (go : State → State) : State :=
  match s.invalidIn ((tripWords l).map Prod.fst) with
  | some w => s.fuseFail j 4 w
  | none =>
    match State.burnSeq bad (tripWords l) s with
    | (s1, some w) => s1.fuseFail j 5 w
    | (s1, none) => go s1

/-- A transition: the triplicated program, the completion, the restart. -/
def State.transition (s : State) (j : Job) (tgt : LcState) (bad : Option Nat) : State :=
  s.tripProgram j (s.lcWrites tgt) bad fun s =>
    let s1 := s.redecode
    ((s1.done j s1.fuses.lc.num [] j.scCycles).completeNow j.id).restartHeld

/-- LC_TRANSITION. `badWord` is the word that senses wrongly after programming, if any. -/
def execLcTransition (j : Nat) (inp : Bytes) (s : State) (badWord : Option Nat := none) : Host.Outcome State Fault Refusal :=
  .next (s.nvOp j .lcTransition inp fun s j =>
    let tgt := lcOfNum (j.entry.p 0 1)
    if tgt = .rma then
      match s.certFault true inp with
      | some (c, r) => (s.useNonce inp).endWith j c r j.scCycles
      | none => (s.useNonce inp).transition j tgt badWord
    else s.transition j tgt badWord)

/-- A session closes without a reset of its failure count. -/
def Session.shut (x : Session) : Session := { x with isOpen := false, nonce := none }

/-- Close every session, the management link's too. -/
def State.shutSessions (s : State) : State :=
  { s with fns := s.fns.map (fun f => { f with session := f.session.shut }),
           mgmt := { s.mgmt with session := s.mgmt.session.shut } }

/-- OWNER_TRANSFER (R474). `badWord` is the word that senses wrongly after programming, if any. -/
def execOwnerTransfer (j : Nat) (s : State) (badWord : Option Nat := none) : Host.Outcome State Fault Refusal :=
  .next (s.nvOp j .ownerTransfer [] fun s j =>
    let e := s.fuses.epoch
    s.tripProgram j [(168 + e, epochData), (338 + e, rootDisableData)] badWord fun s =>
    let s1 := (s.redecode).spoilKeyStores false
    (s1.shutSessions.mapKeeper fun k => { k with creds := [], debugRights := 0, debugExpiry := 0, debugDigest := [] }).done j (e + 1) []
      j.scCycles)

end Sys2Proof.Machine
end

