-- ==== Sys2Proof/Machine/UpdateOps.lean ====
section
/-!
DEFINITION. Machine/UpdateOps.lean: what the host commands and PLDM share of an update (chapter 16): the checks of R508,
blocks (R509), verification and the recovery area (R510 to R513), the beginning of an activation (R515 to R518),
restores (R522) and cancelling (R526).
-/
namespace Sys2Proof.Machine
open Sys2Proof

/-! ### Begin (R508) -/

/-- The component may be updated in this start mode and life-cycle state. -/
def State.componentOk (s : State) (c : Nat) : Bool :=
  (s.boot.mode ≠ .loaderOnly || c = 1) && (c ≠ 3 || s.fuses.lc = .mission)

/-- The first check of R508 that fails, with its RESULT; `fn` is the function whose session R223 shows. The offset of a
header field that BAD_FIELD would name is free. -/
def State.beginFault (s : State) (fn : Nat) (h : Bytes) : Option (Status × BitVec 64) :=
  if !imgForm h then some (st.decodeFail, 0)
  else if !imgShape h then some (st.badField, BitVec.ofNat 64 (Config.freeNat s.freeCtr))
  else if !s.componentOk (imgComponent h) then some (st.stateRefused, s.refusedWord fn s.upd.stage.num)
  else if !s.imgVariantOk h then some (st.paramRejected, 1)
  else if !s.imgSvnOk h then some (st.paramRejected, 2)
  else if !s.imgSignersOk h then some (st.paramRejected, 3)
  else none

/-- The header is accepted; the HIGH half is taken now or when its last hold goes. -/
def State.beginUpdate (s : State) (h : Bytes) (t : Taker) : State :=
  ((s.mapUpd fun u => { u with component := imgComponent h, header := h, timerFrom := s.now, areaOk := false }).mapStore
    fun o => { o with taking := t }).takeHigh

/-! ### Blocks (R509) -/

/-- Stage a block, unless it repeats a byte with another value. -/
def State.stageBlock (s : State) (off : Nat) (data : Bytes) : Option State :=
  let l := pieces off data
  if s.upd.conflicts l then none
  else some (s.mapUpd fun u => { u.stagePieces l with timerFrom := s.now })

/-- The offset and length of a block suit the image. -/
def Update.blockFits (u : Update) (off n : Nat) : Bool :=
  decide (off % 4096 = 0 ∧ off < u.len ∧ 1 ≤ n ∧ off + n ≤ u.len) && (n % 4096 = 0 || off + n = u.len)

/-! ### Verification (R510 to R513) -/

/-- Step 4 of R510: a policy passes R97; microcode, whose body the maker lays out, asks for no higher DX level. -/
def State.contentOk (s : State) (img : Bytes) : Bool :=
  match imgComponent img with
  | 2 => decide (Config.primCount .microcode [imgBody img] ≤ devCompat.toNat / 65536 % 256)
  | 3 => s.policyOk (imgBody img)
  | _ => true

/-- First block of a half of the recovery area (R512). -/
def halfBase (fwr half : Nat) : Nat := fwr + 1536 * half

/-- An image cut into 4 KiB blocks. -/
def imageBlocks (b : Bytes) : List Bytes := (pieces 0 b).map Prod.snd

/-- Step 5 of R510 with a policy installed: the running bundle into the PREVIOUS half where it is not there, then the
image into the STAGED half, both under R123. -/
def State.writeArea (s : State) (p : Policy) (img : Bytes) : State :=
  let staged := if s.upd.stagedIs1 then 1 else 0
  let prev := 1 - staged
  let s1 := s.guardly fun s => s.holdForWrite p.fwrChip
  let s2 :=
    if s1.upd.prevHalf = s1.upd.slotHash then s1
    else (s1.emitAll (rewriteOut p.fwrChip (halfBase p.fwrBase prev) (imageBlocks s1.upd.slot))).mapUpd fun u =>
      { u with prevHalf := u.slotHash, prevImg := u.slot }
  (s2.emitAll (rewriteOut p.fwrChip (halfBase p.fwrBase staged) (imageBlocks img))).mapUpd fun u =>
    { u with stagedHalf := Config.sha384 img, stagedImg := img, areaOk := true }

/-- The image is copied to the recovery area: a bundle, with a policy installed, not in loader-only recovery (R513). -/
def State.areaPolicy (s : State) : Option Policy :=
  if s.upd.component = 1 ∧ s.boot.mode ≠ .loaderOnly then s.guard.policy else none

/-- The checks of R510 in order, with status and RESULT; the stage is 3 on success and 1 otherwise. `readBackOk` says
whether the copy in the recovery area reads back right. -/
def State.verifyImage (s : State) (readBackOk : Bool) : Status × BitVec 64 × State :=
  let img := s.upd.staged
  let back := s.mapUpd fun u => { u with stage := .downloading, timerFrom := s.now }
  let good (s : State) : State := s.mapUpd fun u => { u with stage := .verified, timerFrom := s.now }
  match s.upd.firstGap with
  | some k => (st.paramRejected, BitVec.ofNat 64 (6 + 2 ^ 32 * (4096 * k)), back)
  | none =>
    if !imgDigestOk img then (st.paramRejected, 5, back)
    else if !imgSigsOk img then (st.verifyFalse, pairFalse, back)
    else if !s.contentOk img then (st.paramRejected, 8, back)
    else match s.areaPolicy with
      | none => (st.ok, pairTrue, good s)
      | some p =>
        let t := s.writeArea p img
        if readBackOk then (st.ok, pairTrue, good t)
        else (st.dmaFault, 0, t.mapUpd fun u =>
          { u with stage := .downloading, timerFrom := s.now, stagedHalf := [], stagedImg := [], areaOk := false })

/-! ### Activation (R515 to R519) -/

/-- A scheduled activation is due: it begins with ACTIVATION_START once the conditions of R516 hold. -/
def State.markDue (s : State) : State := s.mapUpd fun u => { u with waitFrom := some (u.waitFrom.getD s.now) }

/-- Activation policy (R517): word 2 of the epoch block. -/
def State.autoConfirm (s : State) : Bool := (s.ownerCfg 2).getLsbD 0
def State.holdHost (s : State) : Bool := (s.ownerCfg 2).getLsbD 1

/-- The job an activation or a confirmation waits for ends. -/
def State.endUpdJob (s : State) (id : Option Nat) (status : Status) (stage : Nat) : State :=
  match id.bind s.job? with
  | some j => if status = st.ok then s.done j 0 [] j.scCycles else s.refuse j stage
  | none => s

/-- Stage 5 begins: the journal record, and with HOLD_HOST for a bundle every hold asserted (R518 steps 1 and 2). -/
def State.beginStage5 (s : State) : State :=
  let u := s.upd
  let hold := s.holdHost
  let jn : UpdJournal :=
    { stage := .activating, component := u.component, digest := Config.sha384 u.staged, svn := imgSvn u.header,
      holdHost := hold, holder := u.holder, swapped := false, hasArea := u.areaOk }
  let s1 := s.mapUpd fun u =>
    { u with stage := .activating, waitFrom := none, activeAt := 0, atPps := false, journal := some jn, jnlReadable := true,
             drained := false }
  if u.component = 1 ∧ hold then s1.guardly State.holdAll else s1

/-- The compute die restarts from fuse sensing in an update; with HOLD_HOST the guard is reset too, and the loader serves
configuration space until the firmware runs (R518, R522). -/
def State.restartUpdate (s : State) (hold : Bool) : State :=
  (((if hold then s.guardReset else s).restartDie).mapBoot fun b => { b with loaderServes := true }).setCode 0x0003
    (BitVec.ofNat 16 s.keeper.bootCount)

/-- The HIGH half goes back once staging has served. -/
def State.returnHigh (s : State) : State :=
  (s.mapStore fun o => { (o.spoilAll ((o.slots.map Prod.fst).filter o.isHigh)) with lent := false }).mapUpd fun u =>
    { u with header := [], image := [] }

/-- The new component stands in the record that was previous, and the records have exchanged roles in the same record
write; the journal stands at stage 6 (R519). -/
def Update.install (u : Update) : Update :=
  let img := u.staged
  let v := if u.component = 2 then { u with microPrev := u.microCur, microCur := img }
           else { u with polPrev := u.polCur, polCur := img, polHash := Config.sha384 img }
  { v with stage := .unconfirmed, selftestOk := false,
           journal := u.journal.map fun j => { j with stage := .unconfirmed, swapped := true } }

/-- Guard commands that wait for a domain complete with the state it has (R133). -/
def State.endGuardJobs (s : State) : State := (List.range 8).foldl State.guardJobDone s

/-- The guard starts again under the policy record that is current now, every hold asserted. -/
def State.restartGuard (s : State) : State :=
  ((s.endGuardJobs.guardReset).loadComponents).guardly State.guardStart

/-! ### Restore and cancel (R522, R526) -/

/-- A restore begins: stage 8 in the journal too. -/
def State.beginRestore (s : State) : State :=
  s.mapUpd fun u => { u with stage := .restoring, journal := u.journal.map fun j => { j with stage := .restoring } }

/-- Confirmation begins: stage 7. -/
def State.beginConfirm (s : State) : State :=
  s.mapUpd fun u => { u with stage := .confirming, journal := u.journal.map fun j => { j with stage := .confirming } }

/-- UPDATE_CANCEL; an UPDATE_ACTIVATE that had not yet reached stage 5 ends as the stage no longer is its own. -/
def State.cancelUpdate (s : State) : State :=
  let id := s.upd.actJob
  (s.dropUpdate).endUpdJob id st.stateRefused 0

end Sys2Proof.Machine
end

