-- ==== Sys2Proof/Machine/ControlCmds.lean ====
section
/-!
DEFINITION. Machine/ControlCmds.lean: control commands of the key tree and the operand store (R255, R256, R286, R379,
R380), platform time (R514), the event log (R498), SPOIL_NOW (R499), and the TAP with the manufacturing port (R475,
R477, R481).
-/
namespace Sys2Proof.Machine
open Sys2Proof

/-! ### Roots (R255, R256) -/

/-- Place a carried root or imported secret with its 32 bytes. -/
def State.placeRoot (s : State) (j : Job) (secret : Bytes) : State :=
  let i := j.entry.p 0 4
  let n := j.entry.p 4 2
  let c := s.keys.record i
  if c.state ≠ .free then s.refuse j c.state.num
  else match s.entryFor n with
    | none => s.endWith j st.contextFull n j.scCycles
    | some k =>
      let r : Ctx := { parent := 0, gen := c.gen, pgen := 0, type := j.entry.p 6 1, policy := BitVec.ofNat 24 (j.entry.p 8 3),
                       label := BitVec.ofNat 48 (j.entry.p 12 4 * 65536 + k), state := .live }
      (s.mapKeys fun x => { x.setRec i r with imported := x.imported.set [] k secret
                                              badEntry := x.badEntry.filter (· ≠ k) }).done j
        ((mkHandle i c.gen).toNat + 2 ^ 32 * k) [] j.scCycles

def execRootImport (j : Nat) (inp : Bytes) (s : State) : Host.Outcome State Fault Refusal :=
  .next (s.runOp j .rootImport inp fun s j =>
    s.gated j .rootImport (s.phaseCycles j) fun s j => s.placeRoot j inp)

def execRootGenerate (j : Nat) (s : State) : Host.Outcome State Fault Refusal :=
  .next (s.runCmd j .rootGenerate fun s j =>
    s.gated j .rootGenerate (s.phaseCycles j) fun s j => s.scDraw.placeRoot j (s.freeNow 32))

def execRootSpoil (j : Nat) (s : State) : Host.Outcome State Fault Refusal :=
  .next (s.nvOp j .rootSpoil [] fun s j => s.invalidateRun j true)

/-! ### Operand-store geometry (R378 to R380) -/

/-- Band `i` of OPSTORE_CONFIG's input: COUNT, SIZE_LOG2, HALF. -/
def cfgBand (inp : Bytes) (i : Nat) : Nat × Nat × Nat :=
  (fieldAt inp (4 * i) 2, fieldAt inp (4 * i + 2) 1, fieldAt inp (4 * i + 3) 1)

/-- Bytes of a half that the first bands take. -/
def halfBytes (l : List (Nat × Nat × Nat)) (half : Nat) : Nat := ((l.filter fun b => b.2.2 = half).map fun b => b.1 * 2 ^ b.2.1).sum

/-- What is wrong with band `i`, given the bands up to and with it. -/
def bandFault (l : List (Nat × Nat × Nat)) (b : Nat × Nat × Nat) : Option Nat :=
  if b.1 = 0 ∨ 4096 < b.1 then some 1
  else if b.2.1 < 12 ∨ 21 < b.2.1 then some 2
  else if 1 < b.2.2 then some 3
  else if 4096 < (l.map Prod.fst).sum then some 4
  else if 2 ^ 23 < halfBytes l b.2.2 then some 5
  else none

/-- The first band at fault with its reason. -/
def geometryFault (bands : List (Nat × Nat × Nat)) : Option (Nat × Nat) :=
  (List.range bands.length).findSome? fun i =>
    (bandFault (bands.take (i + 1)) (bands.getD i (0, 0, 0))).map fun r => (i, r)

/-- OPSTORE_CONFIG: what step 4 tested is tested again when the geometry is written, so that no slot with a hold is spoiled. -/
def execOpstoreConfig (j : Nat) (inp : Bytes) (s : State) : Host.Outcome State Fault Refusal :=
  .next (s.nvOp j .opstoreConfig inp fun s j =>
    let bands := (List.range (j.entry.p 0 1)).map (cfgBand inp)
    if s.anyHold ∨ s.store.lent ∨ s.power.nvOk = false then s.refuse j 0
    else match geometryFault bands with
    | some (i, r) => s.endWith j st.paramRejected (i + 256 * r) j.scCycles
    | none =>
      (s.mapStore fun o =>
        { o with bands := bands.map fun b => { count := b.1, sizeLog := b.2.1, high := b.2.2 = 1 }, slots := [] }).done j 0 []
          j.scCycles)

def execSlotGrant (j : Nat) (s : State) : Host.Outcome State Fault Refusal :=
  .next (s.nvOp j .slotGrant [] fun s j =>
    let a := j.entry.p 0 2
    let n := j.entry.p 2 2
    let l := (List.range n).map (a + ·)
    if s.store.count < a + n then s.fail j st.slotRange j.scCycles
    else match l.find? fun i => !(s.slotHolds i).isEmpty with
      | some i => s.endWith j st.slotBusy i j.scCycles
      | none =>
        (s.mapStore fun o => l.foldl (fun o i => o.setSlot i { Slot.blank with owner := j.entry.p 4 1 }) o).done j 0 []
          j.scCycles)

/-! ### COUNTER_REESTABLISH (R74, R286) -/

/-- A key of the command's input. -/
structure LostKey where
  keyId  : Bytes
  index  : Nat
  gen    : Nat
  sepoch : Nat
  next   : Nat
  deriving DecidableEq, Repr

def lostKey (inp : Bytes) (i : Nat) : LostKey :=
  let o := 48 * i
  { keyId := slice inp o 32, index := fieldAt inp (o + 32) 4, gen := fieldAt inp (o + 36) 2, sepoch := fieldAt inp (o + 38) 2,
    next := fieldAt inp (o + 40) 8 }

/-- A multiple of 4,096, rounded up. -/
def roundBlock (n : Nat) : Nat := 4096 * ((n + 4095) / 4096)

/-- A listed key gets an ACTIVE record; a readable record's higher RESERVED_END is kept. `limit` is the INDEX_LIMIT of a
record that had none, which the spec does not state. -/
def Keeper.relistKey (k : Keeper) (m : LostKey) (limit : Nat) : Keeper :=
  match k.sameKey m.keyId with
  | some r =>
    let e := max r.reservedEnd (roundBlock m.next)
    { k with slog := k.slog.map fun x => if x.num = r.num then
        { x with index := m.index, gen := m.gen, sepoch := m.sepoch, reservedEnd := e, next := e, status := .active } else x }
  | none =>
    match k.freeRec with
    | some n =>
      { k with slog := k.slog ++ [{ num := n, keyId := m.keyId, index := m.index, gen := m.gen, sepoch := m.sepoch,
                                    reservedEnd := roundBlock m.next, indexLimit := limit, status := .active,
                                    next := roundBlock m.next, exporting := false, nonce := [] }] }
    | none => k

/-- Counters that failed restart at zero: the boot count, the debug nonce and the SVN counters of the domains. -/
def Keeper.zeroCounter (k : Keeper) (n : Nat) : Keeper :=
  if n = 0 then { k with bootCount := 0 } else if n = 3 then { k with debugNonce := 0 }
  else if 8 ≤ n ∧ n ≤ 15 then { k with domainSvn := k.domainSvn.set 0 (n - 8) 0 } else k

/-- Steps 1 to 6 of R286. -/
def Keeper.reestablish (k : Keeper) (counter sepoch : Nat) (keys : List LostKey) (limit : Nat → Nat) : Keeper :=
  let k1 := { k with imageCtr := counter, imgPending := none, sepoch, badLogRecs := [] }
  let k2 := (keys.zip (List.range keys.length)).foldl (fun k p => k.relistKey p.1 (limit p.2)) k1
  let k3 := { k2 with revJournal := if k.revReadable then k.revJournal else [], revReadable := true }
  { (k.badCounters.foldl Keeper.zeroCounter k3) with badCounters := [] }

/-- The compute die, and with it start-up, begins again at the keeper stage, with the counters good. -/
def State.restartKeeper (s : State) : State :=
  (((((s.endJobs s.jobs).clearDie).guardReset).resetFns).mapBoot fun b =>
    { b with stage := .keeper, link := .down, cut := false, countersLost := false, marginalCnt := 0 }).mapPower fun p =>
    { p with tierFloor := 0 }

def execCounterReestablish (j : Nat) (inp : Bytes) (s : State) : Host.Outcome State Fault Refusal :=
  .next (s.nvOp j .counterReestablish inp fun s j =>
    let keys := (List.range (j.entry.p 10 2)).map (lostKey inp)
    let e := j.entry.p 8 2
    let fresh := keys.filter fun m => (s.keeper.sameKey m.keyId).isNone
    if s.keeper.slog.any fun r => decide (e ≤ r.sepoch) then s.fail j st.paramRejected j.scCycles
    else if 8192 < s.keeper.slog.length + fresh.length then s.fail j st.contextFull j.scCycles
    else
      let s1 := (s.mapKeeper fun k => k.reestablish (j.entry.p 0 8) e keys fun i => Config.freeNat (s.freeCtr + i)).draw
      (((s1.done j 0 [] j.scCycles).completeNow j.id).restartKeeper).setCode 0x0001 0)

/-! ### Platform time (R514) -/

/-- Set platform time in ticks; it is valid from now on. -/
def State.setTime (s : State) (ticks : Nat) : State :=
  (s.mapUpd fun u => { u with timeOff := Int.ofNat ticks - Int.ofNat s.now }).mapBoot fun b => { b with timeValid := true }

def execTimeSet (j : Nat) (s : State) : Host.Outcome State Fault Refusal :=
  .next (s.runCmd j .timeSet fun s j =>
    if j.entry.flag 2 then s.mapJob j.id fun x => { x with phase := .barrier, unit := none, waitFrom := s.now }
    else (s.setTime (secs (j.entry.p 0 8))).done j 0 [] j.scCycles)

/-- A TIME_SET that waits for an edge of PPS_IN. -/
def Job.awaitsPps (j : Job) : Bool := j.op = 0xC021 && j.phase = .barrier

def execTimeSetTimeout (j : Nat) (s : State) : Host.Outcome State Fault Refusal :=
  .next (match s.job? j with
    | some x => if x.awaitsPps then s.fail x st.timeout x.scCycles else s
    | none => s)

/-- The nearest whole second, in ticks. -/
def roundSecond (t : Nat) : Nat := 32768 * ((t + 16384) / 32768)

/-- The keeper's rounding at an edge, while platform time is valid. -/
def State.roundTime (s : State) : State := if s.boot.timeValid then s.setTime (roundSecond s.platformTime) else s


/-- An edge of PPS_IN: TIME_SETs that wait for it take effect, else the keeper rounds; an aligned activation whose second
this is becomes due (R515). -/
def execPpsEdge (s : State) : Host.Outcome State Fault Refusal :=
  if s.power.vinValid = false then .next s
  else
    let l := s.jobs.filter Job.awaitsPps
    let s1 := if l = [] then s.roundTime
              else l.foldl (fun s j => (s.setTime (secs (j.entry.p 0 8))).done j 0 [] j.scCycles) s
    .next (if s1.upd.stage = .scheduled ∧ s1.upd.atPps ∧ s1.boot.timeValid ∧ s1.platformTime = secs s1.upd.activeAt then s1.markDue
           else s1)

/-! ### The event log (R498) and SPOIL_NOW (R499) -/

/-- The 32 bytes of a record (R496). -/
def LogRec.bytes (r : LogRec) : Bytes :=
  leBytes 4 r.seq ++ leBytes 2 r.code.toNat ++ leBytes 1 r.kind ++ leBytes 1 r.cls ++ leBytes 8 r.ticks ++ leBytes 4 r.boot
    ++ leBytes 1 r.kept ++ leBytes 1 r.broken ++ leBytes 2 r.unit ++ leBytes 8 r.detail.toNat

def execEventLogRead (j : Nat) (s : State) : Host.Outcome State Fault Refusal :=
  .next (s.runCmd j .eventLogRead fun s j =>
    let log := if j.entry.p 6 1 = 1 then s.logs.tamper else s.logs.event
    let l := (log.reverse.filter fun r => decide (j.entry.p 0 4 ≤ r.seq)).take (j.entry.p 4 2)
    s.done j (l.length + 2 ^ 32 * s.logs.nextSeq) (l.flatMap LogRec.bytes) j.scCycles)

/-- Steps 2, 3 and 5 of R488, its record, and step 6 with DISABLE_ROOT, whose program writes record 0x0690 once it has run. -/
def execSpoilNow (j : Nat) (s : State) : Host.Outcome State Fault Refusal :=
  .next (s.runCmd j .spoilNow fun s j =>
    let s1 := s.stopNow (fun x => x.id ≠ j.id) st.abortedTamper
    let s2 := ((s1.spoilKeyStores false).respoilDrbg).clearDru .none
    let s3 := if s2.updateOpen || s2.store.taking ≠ .nobody then s2.dropUpdate else s2
    let s4 := s3.logEvent 0x0640 (if j.entry.flag 2 then 1 else 0)
    (if j.entry.flag 2 then s4.orderDisable else s4).done j 0 [] j.scCycles)

/-! ### Entries that come over a link (R165, R481) -/

/-- Put an entry that came with its input into the buffer of the management link or the manufacturing port. -/
def State.linkEntry (s : State) (r : QRef) (e : Entry) (input : Bytes) (viaVdm : Bool) : State :=
  let i : Intake := { entry := e, index := 0, aborted := false, stamp := s.sched.arrivals, input := input, viaVdm := viaVdm }
  let s1 := s.mapQueue r fun q =>
    { q with state := .running, intake := q.intake ++ [i], cnt := { q.cnt with submitted := q.cnt.submitted + 1 } }
  { s1 with sched := { s1.sched with arrivals := s1.sched.arrivals + 1 } }

/-! ### The TAP (R475, R477) -/

/-- Select an instruction. -/
def State.tapTo (s : State) (t : TapSel) : State := s.mapFlt fun f => { f with tapSelect := t }

/-- An instruction that needs a right (R477). -/
def State.tapWith (s : State) (right : Nat) (t : TapSel) (run : State → State) : State :=
  if s.rights.getLsbD right then run (s.tapTo t) else s.emit .tapRefused

def execTapBypass (s : State) : Host.Outcome State Fault Refusal := .next (s.tapTo .bypass)

/-- IDCODE: the spec gives no value of the 32 bits. -/
def execTapIdcode (s : State) : Host.Outcome State Fault Refusal :=
  .next ((s.tapTo .idcode).emit (.tdo ((List.range 4).map (Config.i3cByte 0))))

def execTapSamplePreload (s : State) : Host.Outcome State Fault Refusal := .next (s.tapWith 0 .samplePreload id)

def execTapExtest (s : State) : Host.Outcome State Fault Refusal := .next (s.tapWith 0 .extest id)

/-- The right of a debug function. -/
def tapRight : TapFunction → Nat
  | .scHalt => 1 | .leDebug => 2 | .trace => 3 | .fuseRead => 4

def execTapDebugInstruction (f : TapFunction) (s : State) : Host.Outcome State Fault Refusal :=
  .next (s.tapWith (tapRight f) (.debug f) fun s => s.emit (.debugServed f))

/-! ### The manufacturing port (R481) -/

/-- The ROM serves the manufacturing port. -/
def State.mfgServes (s : State) : Bool := s.boot.mode = .mfgPort && s.boot.stage = .loader

/-- A command of either path is under way. -/
def State.mfgBusy (s : State) : Bool :=
  !(s.queue .tap).intake.isEmpty || s.jobs.any fun j => j.q = .tap || j.q = .ctl 3

/-- MFG_CMD: a 64-byte entry and up to 256 input bytes, of which the entry takes IN_LEN. In TEST_UNLOCKED the TAP serves
the instruction in any mode, but only the ROM of this mode has a command to run. -/
def execMfgCmd (entry input : Bytes) (s : State) : Host.Outcome State Fault Refusal :=
  let e := Entry.ofBytes entry
  .next (if s.mfgServes = false then (if s.fuses.lc = .testUnlocked then s.tapTo .mfgCmd else s.emit .tapRefused)
    else if s.mfgBusy ∨ entry.length ≠ 64 ∨ 256 < input.length then s.tapTo .mfgCmd
    else ((s.tapTo .mfgCmd).mapFlt fun f => { f with mfgReply := [] }).linkEntry .tap e (input.take e.inLen.toNat) false)

/-- MFG_RSP shifts out 256 bits: the completion, or zeros while the command runs. -/
def execMfgRsp (s : State) : Host.Outcome State Fault Refusal :=
  .next (if s.mfgServes = false ∧ s.fuses.lc ≠ .testUnlocked ∧ s.flt.mfgReply = [] then s.emit .tapRefused
    else (s.tapTo .mfgRsp).emit (.tdo (if s.flt.mfgReply = [] then zeros 32 else s.flt.mfgReply)))

/-! ### The HIGH half (R508) -/

/-- A HIGH slot is still held after 10 s: UPDATE_BEGIN ends with SLOT_BUSY and the lock is released. -/
def execHighHalfWaitTimeout (j : Nat) (s : State) : Host.Outcome State Fault Refusal :=
  .next (if s.store.taking = .job j then
    match s.job? j with
    | some x =>
      let n := ((s.jobs.flatMap Job.holds).find? fun h => s.store.isHigh h.slot).map Hold.slot
      s.dropUpdate.endWith x st.slotBusy (n.getD 0) x.scCycles
    | none => s
    else s)

end Sys2Proof.Machine
end

