-- ==== Sys2Proof/Machine/DruCmds.lean ====
section
/-!
DEFINITION. Machine/DruCmds.lean: the digest register unit (R415 to R432) as the host drives it through PF BAR0.
-/
namespace Sys2Proof.Machine
open Sys2Proof

/-! ### Shared -/

/-- DRU_ERR bits. -/
def druErr.early : Nat := 0
def druErr.badCmd : Nat := 1
def druErr.width : Nat := 2
def druErr.badCount : Nat := 3
def druErr.noLastcnt : Nat := 4
def druErr.badRestore : Nat := 5
def druErr.lateExpect : Nat := 6
def druErr.notOwner : Nat := 7
def druErr.length : Nat := 8
def druErr.claimDenied : Nat := 9

/-- The DRU without digest, results, EXPECT and window; flags, save key and page stay (R418, R428, R429). -/
def Dru.wipe (d : Dru) (owner : DruOwner) : Dru :=
  { Dru.cleared owner with err := d.err, saveKey := d.saveKey, page := d.page }

/-- Block length of an algorithm (R425). -/
def druBlock : Nat → Nat
  | 1 => 64 | 2 => 128 | 3 => 128 | 4 => 136 | 5 => 104 | 6 => 72 | _ => 1

/-- The longest message is 2^61 - 1 bytes (R415). -/
def druLimit : Nat := 2 ^ 61 - 1

/-- Who owns the unit when this side does. -/
def DruSide.owner : DruSide → DruOwner
  | .host => .host
  | .sc => .sc

/-- An error of a request: DRU_ERR records those of the host alone (R416). -/
def State.druFault (s : State) (who : DruSide) (b : Nat) : State :=
  match who with
  | .host => s.setDruErr b
  | .sc => s

/-- A side reaches the unit: the host through PF BAR0 while the firmware runs (R77, R416), the security controller while the
compute die runs. -/
def State.druReach (s : State) (who : DruSide) (act : State → State) : State :=
  match who with
  | .host => s.onBar 0 fun s => if s.fwRunning then act s else s
  | .sc => if s.cdRunning then act s else s

/-- A write that needs ownership: dropped, with NOT_OWNER, when the side does not own the unit (R420). -/
def State.druOwned (s : State) (who : DruSide) (act : State → State) : State :=
  s.druReach who fun s => if s.dru.owner = DruSide.owner who then act s else s.druFault who druErr.notOwner

/-- A write of DRU_CTRL by the owner: PAGE first, then the command (R417). -/
def State.druCtrl (s : State) (who : DruSide) (page : Bool) (act : State → State) : State :=
  s.druOwned who fun s => act (s.mapDru fun d => { d with page := page })

/-- An 8-byte word for DRU_DATA or DRU_LAST: a 4-byte write is dropped and sets WIDTH, whoever owns the unit (R416); a write
of a side that does not own it sets NOT_OWNER (R420). -/
def State.druWord (s : State) (who : DruSide) (size : Nat) (act : State → State) : State :=
  s.druReach who fun s =>
    let s1 := if size ≠ 8 then s.druFault who druErr.width else s
    if s.dru.owner ≠ DruSide.owner who then s1.druFault who druErr.notOwner
    else if size ≠ 8 then s1
    else act s1

/-- Begin a digest (R422): everything earlier goes. -/
def Dru.start (d : Dru) (alg : Nat) (sealedMode : Bool) : Dru :=
  { d with alg := BitVec.ofNat 4 alg, sealedMode, active := true, done := false, lastCnt := 0xF, bytes := 0, base := [],
           msg := [], final := [], result := [], expect := zeros 64, cmp := 0, saving := false }

/-- A CLAIM by the security controller at run time, for one short digest (R421): it takes the unit only when nobody owns
it, and finds another way otherwise, without a flag (R418). -/
def State.druScClaim (s : State) : State :=
  if s.fwRunning ∧ s.dru.owner = .none then s.mapDru fun d => d.wipe .sc else s

/-- A CLAIM by the host (R418). -/
def State.druClaimOp (s : State) (tag : BitVec 8) (page : Bool) : State :=
  let s1 := if s.dru.owner = .host then s.mapDru fun d => { d with page := page } else s
  if tag = 0 then s1.setDruErr druErr.badCmd
  else if s1.dru.owner = .none then s1.mapDru fun d => { d.wipe .host with tag := tag }
  else s1.setDruErr druErr.claimDenied

/-- A RELEASE by the owner; during a finish it waits for the end (R432). -/
def State.druReleaseOp (s : State) : State :=
  s.mapDru fun d => if d.finishing then { d with relPend := true } else d.wipe .none

def State.druStartOp (s : State) (who : DruSide) (alg : BitVec 4) (sealedMode : Bool) : State :=
  if s.dru.finishing ∨ alg = 0 ∨ 6 < alg.toNat then s.druFault who druErr.badCmd
  else s.mapDru fun d => { d.start alg.toNat sealedMode with window := zeros 256, saved := false }

/-- Fields of a save image (R429). -/
def druImgAlg (w : Bytes) : Nat := fieldAt w 6 1
def druImgSealed (w : Bytes) : Bool := fieldAt w 7 1 % 2 = 1
def druImgBytes (w : Bytes) : Nat := fieldAt w 8 8

/-- The additional data of a sealed image: bytes 0 to 15 and 216 to 239 (R430). -/
def druImgAd (w : Bytes) : Bytes := slice w 0 16 ++ slice w 216 24

/-- The DRU save key. -/
def Dru.key (d : Dru) : Bytes := (d.saveKey.map fun k => Config.freeBytes k 32).getD []

/-- The checks of a restore (R431). -/
def Dru.imageOk (d : Dru) (sealedMode : Bool) : Bool :=
  let w := d.window
  let a := druImgAlg w
  fieldAt w 0 4 = 0x53524450 && fieldAt w 4 2 = 1 && decide (1 ≤ a ∧ a ≤ 6)
    && (!druImgSealed w || sealedMode) && zeroAt w 228 12 && druImgBytes w % druBlock a = 0
    && decide (druImgBytes w < 2 ^ 61)
    && (if druImgSealed w then
          d.saveKey.isSome && gcmOk d.key (slice w 216 12) (druImgAd w) (slice w 16 200) (slice w 240 16)
        else slice w 240 16 = (Config.sha256 (w.take 240)).take 16)

/-- START with RESTORE (R431): the earlier digest goes, whether or not the image passes. -/
def State.druRestoreOp (s : State) (sealedMode : Bool) : State :=
  if s.dru.finishing then s.setDruErr druErr.badCmd
  else
    let w := s.dru.window
    if s.dru.imageOk sealedMode then
      s.mapDru fun d =>
        { d.start (druImgAlg w) sealedMode with
          bytes := druImgBytes w
          base := if druImgSealed w then gcmCrypt d.key (slice w 216 12) (slice w 16 200)
                  else slice w 16 200 }
    else (s.mapDru fun d => { d.start 0 sealedMode with active := false }).setDruErr druErr.badRestore

/-- SAVE is legal at a block boundary of an active digest; a sealed one needs the save key (R429, R430). -/
def State.druSaveOp (s : State) : State :=
  let d := s.dru
  if d.active ∧ d.finishing = false ∧ d.msg.length % druBlock d.alg.toNat = 0 ∧ (d.sealedMode = false ∨ d.saveKey.isSome)
  then s.mapDru fun d => { d with saving := true } else s.setDruErr druErr.badCmd

/-- A message word: eight bytes, or dropped (R416, R422, R423). -/
def State.druDataOp (s : State) (who : DruSide) (size : Nat) (word : BitVec 64) : State :=
  s.druWord who size fun s =>
    if s.dru.active = false ∨ s.dru.finishing then s.druFault who druErr.badCmd
    else if druLimit < s.dru.bytes + 8 then (s.mapDru fun d => { d with active := false, saving := false }).druFault who druErr.length
    else s.mapDru fun d => { d with bytes := d.bytes + 8, msg := d.msg ++ leBytes 8 word.toNat }

def State.druLastcntOp (s : State) (who : DruSide) (count : BitVec 4) : State :=
  s.druOwned who fun s =>
    if 9 ≤ count.toNat then s.druFault who druErr.badCount else s.mapDru fun d => { d with lastCnt := count }

/-- The final word (R424). -/
def State.druLastOp (s : State) (who : DruSide) (size : Nat) (word : BitVec 64) : State :=
  s.druWord who size fun s =>
    let n := s.dru.lastCnt.toNat
    if s.dru.active = false ∨ s.dru.finishing then s.druFault who druErr.badCmd
    else if s.dru.lastCnt = 0xF then s.druFault who druErr.noLastcnt
    else if druLimit < s.dru.bytes + n then (s.mapDru fun d => { d with active := false, saving := false }).druFault who druErr.length
    else s.mapDru fun d => { d with finishing := true, saving := false, bytes := d.bytes + n,
                                    final := (leBytes 8 word.toNat).take n }

/-- Replace `b.length` bytes of a byte string from an offset. -/
def patch (w : Bytes) (off : Nat) (b : Bytes) : Bytes := w.take off ++ b ++ w.drop (off + b.length)

/-- EXPECT bytes, accepted from START until DRU_LAST (R427). -/
def State.druExpectOp (s : State) (off : Nat) (b : Bytes) : State :=
  s.druOwned .host fun s =>
    if s.dru.finishing ∨ s.dru.done then s.setDruErr druErr.lateExpect
    else if s.dru.active then s.mapDru fun d => { d with expect := patch d.expect off b } else s

/-- Save-window bytes of the current page (DRU_SAVE). -/
def State.druWindowOp (s : State) (off : Nat) (b : Bytes) : State :=
  s.druOwned .host fun s => s.mapDru fun d => { d with window := patch d.window (off + if d.page then 128 else 0) b }

/-- The digest of the message a unit has absorbed (R415, R431). -/
def Dru.digest (d : Dru) : Bytes :=
  let a := d.alg.toNat
  let n := Config.digestLen a
  let rest := d.msg ++ d.final
  Config.hashResume a d.base (d.bytes - rest.length) rest n

/-- The save image of the whole blocks absorbed (R429, R430); `iv` is a DRBG draw. -/
def Dru.image (d : Dru) (iv : Bytes) : Bytes :=
  let a := d.alg.toNat
  let whole := d.msg.length / druBlock a * druBlock a
  let n := d.bytes - (d.msg.length - whole)
  let cv := Config.hashState a d.base (d.msg.take whole)
  let st := cv ++ zeros (200 - cv.length)
  let head := leBytes 4 0x53524450 ++ leBytes 2 1 ++ leBytes 1 a ++ leBytes 1 (if d.sealedMode then 1 else 0) ++ leBytes 8 n
  if d.sealedMode then
    let tail := iv ++ zeros 12
    let ct := gcmCrypt d.key iv st
    head ++ ct ++ tail ++ gcmTag d.key iv (head ++ tail) ct
  else
    let b := head ++ st ++ zeros 24
    b ++ (Config.sha256 b).take 16

/-! ### Commands -/

/-- A CLAIM of the host, of the security controller, or of both in one cycle, in which the host wins (R418). -/
def execDruClaim (tag : BitVec 8) (page : Bool) (s : State) (who : DruClaimant := .host) : Host.Outcome State Fault Refusal :=
  let host (s : State) : State := s.druReach .host fun s => s.druClaimOp tag page
  let sc (s : State) : State := s.druReach .sc State.druScClaim
  .next (match who with
    | .host => host s
    | .sc => sc s
    | .both => sc (host s))

def execDruRelease (page : Bool) (s : State) (who : DruSide := .host) : Host.Outcome State Fault Refusal :=
  .next (s.druCtrl who page State.druReleaseOp)

def execDruStart (alg : BitVec 4) (sealed page : Bool) (s : State) (who : DruSide := .host) : Host.Outcome State Fault Refusal :=
  .next (s.druCtrl who page fun s => s.druStartOp who alg sealed)

def execDruRestore (sealed page : Bool) (s : State) : Host.Outcome State Fault Refusal :=
  .next (s.druCtrl .host page fun s => s.druRestoreOp sealed)

def execDruSave (page : Bool) (s : State) : Host.Outcome State Fault Refusal :=
  .next (s.druCtrl .host page State.druSaveOp)

def execDruPageSelect (page : Bool) (s : State) : Host.Outcome State Fault Refusal :=
  .next (s.druCtrl .host page id)

/-- The image is in the window (R429). -/
def execDruSaveDone (s : State) : Host.Outcome State Fault Refusal :=
  .next (if s.dru.saving then
    (s.mapDru fun d => { d with saving := false, saved := true, window := d.image (s.freeNow 12) }).draw else s)

def execDruDataWrite (size : Nat) (word : BitVec 64) (s : State) (who : DruSide := .host) : Host.Outcome State Fault Refusal :=
  .next (s.druDataOp who size word)

def execDruLastcntWrite (count : BitVec 4) (s : State) (who : DruSide := .host) : Host.Outcome State Fault Refusal :=
  .next (s.druLastcntOp who count)

def execDruLastWrite (size : Nat) (word : BitVec 64) (s : State) (who : DruSide := .host) : Host.Outcome State Fault Refusal :=
  .next (s.druLastOp who size word)

/-- The finish ends (R424, R427, R428): in SEALED mode only the verdict leaves the comparator; a waiting RELEASE
discards it all (R432). -/
def execDruFinishDone (s : State) : Host.Outcome State Fault Refusal :=
  .next (if s.dru.finishing = false then s
    else s.mapDru fun d =>
      if d.relPend then d.wipe .none
      else
        let g := d.digest
        { d with active := false, finishing := false, done := true, lastCnt := 0xF,
                 result := if d.sealedMode then [] else g,
                 cmp := if g = d.expect.take g.length then 0x95A66A59 else 0xC3F03C0F })

def execDruExpectWrite (index : Nat) (value : BitVec 64) (s : State) : Host.Outcome State Fault Refusal :=
  .next (if index < 8 then s.druExpectOp (8 * index) (leBytes 8 value.toNat) else s)

/-- The part of a register a read takes: all of it, or a 4-byte half (R148). -/
def ReadPart.of (p : ReadPart) (v : BitVec 64) : BitVec 64 :=
  match p with
  | .whole => v
  | .low => v &&& 0xFFFFFFFF
  | .high => v >>> 32

/-- A host read of DRU_RESULT or, without an index, of DRU_CMP: zeros with EARLY_READ unless DONE was set before this
cycle, whoever owns the unit (R426); zeros for a reader that does not own it (R420). -/
def State.druReadOp (s : State) (index : Option Nat) (part : ReadPart) (doneThisCycle : Bool) : State :=
  if s.dru.done = false ∨ doneThisCycle then (s.setDruErr druErr.early).emit (.regData 0)
  else if s.dru.owner ≠ .host then s.emit (.regData 0)
  else s.emit (.regData (ReadPart.of part (match index with
    | some i => BitVec.ofNat 64 (leNat (slice s.dru.result (8 * i) 8))
    | none => s.dru.cmp.zeroExtend 64)))

/-- The read as a command; before the firmware runs the block reads zero (R77). -/
def execDruResultRead (index : Option Nat) (doneThisCycle : Bool) (s : State) (part : ReadPart := .whole) :
    Host.Outcome State Fault Refusal :=
  .next (s.onBar 0 fun s => if s.fwRunning then s.druReadOp index part doneThisCycle else s.emit (.regData 0))

end Sys2Proof.Machine
end

