-- ==== Sys2Proof/Machine/EntropyCmds.lean ====
section
/-!
DEFINITION. Machine/EntropyCmds.lean: the entropy source and the random-number jobs (chapter 13): released blocks (R436),
pair failures, retests and retirement (R438, R439, R446, R447), RANDOM under its cap (R443, R450) and NOISE_READ
(R451).
-/
namespace Sys2Proof.Machine
open Sys2Proof

/-! ### The source -/

/-- A conditioned block of the healthy pairs is 64 µs old: the pool takes it; a full pool discards its oldest (R436). -/
def execBlockRelease (s : State) : Host.Outcome State Fault Refusal :=
  .next (if s.ent.running ∧ 0 < s.ent.healthy then s.mapEnt fun e => { e with pool := min 1024 (e.pool + 1) } else s)

def Entropy.setPair (e : Entropy) (p : Nat) (x : PairState) : Entropy := { e with pairs := e.pairs.set p x }

/-- ENT_LAST[23:0]. -/
def Entropy.last (e : Entropy) : Nat := e.partner * 2 ^ 16 + e.lastOsc * 2 ^ 8 + e.lastTest

/-- One pair fails: dropped into retest, or retired by its third failure in the window (R438, R439). NOISE_READ jobs on it
end with ENTROPY_FAIL (R451). -/
def State.failPair (s : State) (p : Nat) : State :=
  let noise := s.jobs.filter fun j => j.op = 0x0B02 && !j.ended && j.entry.p 0 1 = p
  let s1 := noise.foldl (fun s j => s.draw.fail j st.entropyFail (Config.freeNat s.freeCtr)) s
  let s2 := s1.log 0x0501 1 11 (unitWord 7 p) s1.ent.last
  match s2.faultEvent 11 p with
  | (s3, false) => s3.mapEnt fun e => e.setPair p .retest
  | (s3, true) => ((s3.mapEnt fun e => e.setPair p .retired).log 0x0702 1 11 (unitWord 7 p) 0).setEnt 5

/-- A pair under test: healthy or under retest. -/
def Entropy.tested (e : Entropy) (p : Nat) : Bool :=
  e.pairs.getD p .retired = .healthy || e.pairs.getD p .retired = .retest

/-- A health test fails (R437, R438): unreleased blocks are discarded; before the first instantiation so are the released
ones, since it uses only output sampled after the failure (R440). A lock failure fails the pairs of both oscillators. -/
def execPairFailure (osc : Nat) (test : HealthTest) (partner : Option Nat) (s : State) : Host.Outcome State Fault Refusal :=
  let pairs := (osc / 2 :: (match test, partner with | .lock, some o => [o / 2] | _, _ => [])).dedup.filter s.ent.tested
  .next (if s.ent.running = false ∨ test = .kat ∨ pairs = [] then s
    else
      let s1 := (s.mapEnt fun e =>
        { e with lastTest := (HealthTest.num test), lastOsc := osc, pool := if e.sampled then e.pool else 0,
                 partner := match test, partner with | .lock, some o => o | _, _ => 0xFF }).setEnt (HealthTest.num test)
      (pairs.foldl State.failPair s1).afterPairs)

/-- A retest of 1,000 windows passes: the pair is healthy (R438); with 8 healthy again a failed source starts afresh
(R447). -/
def execRetestPass (pair : Nat) (s : State) : Host.Outcome State Fault Refusal :=
  .next (if s.ent.pairs.getD pair .retired = .retest then
    let s1 := s.mapEnt fun e => e.setPair pair .healthy
    if s1.ent.state = .failed ∧ 8 ≤ s1.ent.healthy then s1.mapEnt fun e => { e with state := .starting, pool := 0 } else s1
  else s)

/-! ### Random-number jobs -/

/-- Bytes that host random-number jobs may draw in a step of 10 µs: 8 Gbit/s (R443). -/
def randomCap : Nat := 10000

/-- Serve requests of 4 KiB, the last one shorter, while the cap of this step lets them pass; `n` bounds their number. -/
def State.serveRandom : Nat → State → Job → State × Job
  | 0, s, j => (s, j)
  | n + 1, s, j =>
    let k := min 4096 (j.entry.outLen.toNat - j.written.length)
    if k = 0 ∨ randomCap < s.tables.capUsed + k then (s, j)
    else
      let j1 := { j with written := j.written ++ s.freeNow k }
      let s1 := ((s.request j.inst (j.entry.flag 2)).draw.mapTables fun t => { t with capUsed := t.capUsed + k }).putJob j1
      State.serveRandom n s1 j1

/-- RANDOM (R450): each request draws from the instance of its engine; a request beyond the cap waits at its boundary. -/
def execRandom (j : Nat) (inp : Bytes) (s : State) : Host.Outcome State Fault Refusal :=
  .next (s.runOp j .random inp fun s j0 =>
    s.gated { j0 with seeded := false } .random 100 fun s _ =>
      match s.job? j0.id with
      | none => s
      | some j =>
        let r := State.serveRandom 3 s j
        if r.2.written.length = j.entry.outLen.toNat then
          r.1.done r.2 j.inst r.2.written (randomCycles r.2.written.length (j.entry.flag 2))
        else r.1)

/-- A new measuring step of 10 µs begins (R443). -/
def execRandomCapStep (s : State) : Host.Outcome State Fault Refusal := .next (s.mapTables fun t => { t with capUsed := 0 })

/-- NOISE_READ: raw samples of the pair (R451). -/
def execNoiseRead (j : Nat) (s : State) : Host.Outcome State Fault Refusal :=
  .next (s.runCmd j .noiseRead fun s j =>
    let n := j.entry.outLen.toNat
    s.draw.done j 0 (s.freeNow n) (100 + 8 * n))

end Sys2Proof.Machine
end

