-- ==== Sys2Proof/Machine/GuardCmds.lean ====
section
/-!
DEFINITION. Machine/GuardCmds.lean: the platform guard: port start-up (R104), manifests and regions (R101 to R107,
R114), release and power-good (R88 to R90), recovery (R128 to R130) and the guard commands (R124 to R127, R132, R133).
-/
namespace Sys2Proof.Machine
open Sys2Proof

/-! ### Port start-up -/

/-- The chips of a port that the policy gives a size. -/
def Policy.chips (p : Policy) (port : Port) : List Chip :=
  [⟨port, false⟩, ⟨port, true⟩].filter fun c => 0 < p.chipSize c

/-- A chip's answer at port start-up: its SFDP, or none when it failed. -/
def answerOf (l : List (Chip × Option Bytes)) (c : Chip) : Option Bytes := (l.lookup c).bind id

/-- Every domain with a manifest or a region on a failed chip fails with FLASH_FAIL (R104). -/
def State.failChip (s : State) (c : Chip) : State :=
  (List.range 8).foldl (fun s d =>
    let onMf : Bool := (s.pdom d).hasMf && (s.pdom d).mfChip = c
    let uses : Bool := onMf || (s.dom d).regions.any fun r => r.chip = c
    if (s.pdom d).enabled && uses && (s.dom d).state ≠ .failedHeld
    then s.failDom d 8 (if onMf then 0xFF else regionOn (s.dom d).regions fun k => k = c) else s) s

/-- The 1 ms after FLx_RESET_N has ended: SFDP is read and 8D-8D-8D entered, chip by chip (section Boot verification). -/
def execFlashResetWaitEnd (port : Port) (answers : List (Chip × Option Bytes)) (s : State) :
    Host.Outcome State Fault Refusal :=
  .next (match s.guard.policy with
    | none => s
    | some p =>
      if (s.sport port).starting = false then s
      else
        let good := (p.chips port).filterMap fun c => (answerOf answers c).map fun b => (c, b)
        let bad := (p.chips port).filter fun c => (answerOf answers c).isNone
        s.guardly fun s =>
          bad.foldl State.failChip
            ((((s.emitAll ((p.chips port).map fun c => .flashCmd c .readSfdp 0 [])).emitAll (good.map fun c =>
              .flashCmd c.1 .enter8d 0 [])).mapSport port fun x => { x with starting := false, running := true, sfdp := good }).mapGuard
                fun g => { g with dead := bad ++ g.dead }))

/-! ### Verification (R101, R105, R107) -/

/-- A domain whose manifest or regions are being checked. -/
def DomState.checking : DomState → Bool
  | .released | .disabled | .failedHeld => false
  | _ => true

/-- A domain has been handled on a port (R105): it has nothing there to verify before its first release, or that has been
done. DESIGN CHOICE (log row 88): a domain whose manifest another port holds counts as handled until it has been read. -/
def State.handledOn (s : State) (p : Port) (d : Nat) : Bool :=
  let x := s.dom d
  !(s.pdom d).enabled || !(s.pdom d).hasMf || x.booted || x.state = .failedHeld
    || (((s.pdom d).mfChip.port ≠ p || x.mfDigest ≠ []) && x.regions.all fun r => r.chip.port ≠ p || !r.vbr || r.matched)

/-- The domains of a port are verified in ascending order: it is the turn of domain `d` (R105). -/
def State.turnOf (s : State) (p : Port) (d : Nat) : Bool := (List.range d).all (s.handledOn p)

/-- Every domain of a port has been handled: the background pass may run there (R105). -/
def State.portHandled (s : State) (p : Port) : Bool := (List.range 8).all (s.handledOn p)

/-- Every region of a list before number `k` that lies on a port and is to be read has been read (R105). -/
def readUpTo (regs : List Region) (p : Port) (k : Nat) (due : Region → Bool) : Bool :=
  (regs.take k).all fun r => r.chip.port ≠ p || !due r || r.matched

/-- A GUARD_REVERIFY of the domain waits: it reads every region again (R132). -/
def State.reverifying (s : State) (d : Nat) : Bool := (((s.dom d).job.bind s.job?).map fun j => decide (j.op = 0xC003)).getD false

/-- A region of a domain that is not released is read now: its recovery is under way (R128), or it is next in manifest order
among those that are read before release (R105, R132). -/
def State.readsNow (s : State) (d k : Nat) (r : Region) : Bool :=
  let due (x : Region) : Bool := x.vbr || s.reverifying d
  r.owes || r.rewritten
    || (!r.matched && due r && s.turnOf r.chip.port d && readUpTo (s.dom d).regions r.chip.port k due)

/-- The record of the commit under way for a domain, and its staging blocks, are done with (R124 step 8). -/
def State.clearCommit (s : State) : State :=
  (s.mapKeeper fun k => { k with commitJnl := none }).mapGuard fun g => { g with staging := none }

/-- A commit of this domain that lost power is still to be run again, before the domain is verified (R126). -/
def State.resumeDue (s : State) (d : Nat) : Bool :=
  (s.commitRec.map CommitJournal.domain) = some d && (s.dom d).state ≠ .committing

/-- The four manifest blocks have been read, in the port's order (R105). A committed domain's journal record is cleared first
(R124 step 8), which in power-fail hold has to wait (R35). -/
def execManifestReadDone (d : Nat) (bytes : Bytes) (s : State) : Host.Outcome State Fault Refusal :=
  let p := s.pdom d
  let x := s.dom d
  .next (if s.guard.running = false ∨ p.enabled = false ∨ p.hasMf = false ∨ x.state.checking = false ∨ x.mfDigest ≠ []
      ∨ (s.sport p.mfChip.port).running = false ∨ s.guard.dead.contains p.mfChip ∨ bytes.length ≠ 16384
      ∨ s.turnOf p.mfChip.port d = false ∨ s.resumeDue d ∨ (x.state = .committing ∧ s.nvFree = false) then s
    else s.guardly fun s =>
      let mine : Bool := (s.commitRec.map CommitJournal.domain) = some d
      let s1 := if mine then s.clearCommit else s
      match s1.manifestFail d bytes with
      | 0 => ((s1.acceptManifest d bytes).setDom d fun x => if x.state = .committing then { x with state := .verifying } else x).settle
      | code => s1.failDom d code 0xFF)

/-- A region's blocks have been read: its root is compared, or its recovery action runs (R105, R107, R128, R129). -/
def execRegionReadDone (d region : Nat) (blocks recovery : List Bytes) (s : State) : Host.Outcome State Fault Refusal :=
  let x := s.dom d
  .next (match s.region? d region with
    | none => s
    | some r =>
      if s.guard.running = false ∨ x.state.checking = false ∨ x.mfDigest = [] ∨ s.readsNow d region r = false
        ∨ (s.sport r.chip.port).running = false then s
      else s.guardly fun s =>
        if r.owes then s.recoverRegion d region r recovery false
        else if r.action ≠ 0 ∧ s.remapOnly then s.remapRegion d region r recovery
        else if r.action ≠ 0 ∧ x.useRecovery then s.recoverRegion d region r recovery true
        else s.checkRegion d region r blocks recovery)

/-- Background reading of a region that need not match before release, once every domain of the port has been handled (R105,
R114). A burst carries the whole blocks that the pass has read so far: up to the last of them their leaves stand in the node
cache, not yet confirmed; with the last the root is compared. -/
def execBackgroundBurst (d region : Nat) (blocks recovery : List Bytes) (s : State) : Host.Outcome State Fault Refusal :=
  let x := s.dom d
  .next (match s.region? d region with
    | none => s
    | some r =>
      if s.guard.running = false ∨ x.state ≠ .released ∨ r.matched ∨ r.vbr ∨ blocks = [] ∨ r.count < blocks.length
        ∨ (s.sport r.chip.port).running = false ∨ s.portHandled r.chip.port = false then s
      else s.guardly fun s =>
        if blocks.length < r.count then s.putLeaves r.chip r.base (runLeaves r.regionId blocks)
        else if r.action ≠ 0 ∧ s.remapOnly then s.remapRegion d region r recovery
        else s.checkRegion d region r blocks recovery)

/-! ### Release and power-good (R88 to R90) -/

/-- A GUARD_REVERIFY releases its domain only when every region has been read again (R132). -/
def State.reverified (s : State) (d : Nat) : Bool :=
  match (s.dom d).job.bind s.job? with
  | some j => j.op ≠ 0xC003 || (s.dom d).regions.all fun r => r.matched
  | none => true

/-- Every condition of R88 holds: the hold is released, and a command waiting for the domain completes (R133). -/
def execDomainRelease (d : Nat) (s : State) : Host.Outcome State Fault Refusal :=
  .next (if 8 ≤ d ∨ (s.dom d).state.checking = false ∨ s.releasable d = false ∨ s.reverified d = false then s
    else s.guardly fun s =>
      (((s.setDom d fun x => { x with state := .released, booted := true, failCode := 0, failRegion := 0xFF,
                                      useRecovery := false }).pin d true).settle).guardJobDone d)

def execPltPgHigh (n : Nat) (s : State) : Host.Outcome State Fault Refusal :=
  .next ((s.mapGuard fun g => { g with pgHigh := g.pgHigh.set n true }).settle)

/-- A released domain's bound input fell: held in WAIT_PG with PG_LOST; its regions that are not mirrored will be read
again (R89, R134). -/
def State.losePg (s : State) (d : Nat) : State :=
  (s.setDom d fun x => { x with failCode := 10, regions := x.regions.map fun r => if r.mirror then r else { r with matched := false } }).hold d
    .waitPg

def execPltPgFall (n : Nat) (s : State) : Host.Outcome State Fault Refusal :=
  let s1 := s.mapGuard fun g => { g with pgHigh := g.pgHigh.set n false }
  let lost := (List.range 8).filter fun d => (s1.dom d).state = .released && (s1.pdom d).pgInput = n
  .next ((lost.foldl State.losePg s1).settle)

/-! ### PLT_RECOVER_N after start-up (R130) -/

/-- A domain passes through R88 again after a failure: it is verified anew. -/
def State.retryDom (s : State) (d : Nat) : State :=
  s.setDom d fun x => if x.state = .failedHeld then { x with state := .verifying, failCode := 0, failRegion := 0xFF } else x

/-- Every region of a domain with a recovery action is remapped, and the domain goes to R88; an image that is not given fails
its check, and with it the domain. -/
def State.remapDomain (s : State) (images : List (Nat × Nat × List Bytes)) (d : Nat) : State :=
  (List.range (s.dom d).regions.length).foldl (fun s k =>
    match s.region? d k with
    | some r =>
      let image := ((images.find? fun i => i.1 = d && i.2.1 = k).map fun i => i.2.2).getD []
      if r.action = 0 ∨ (s.dom d).state = .failedHeld then s else s.recoverRegion d k r image true
    | none => s) (s.retryDom d)

/-- A domain under GUARD_HOLD stays held until GUARD_REVERIFY (R132), one whose flash failed while the flash has (R104). -/
def Domain.staysHeld (x : Domain) : Bool := x.state = .failedHeld && (x.failCode = 14 || x.failCode = 8)

def execPltRecoverEdge (images : List (Nat × Nat × List Bytes)) (s : State) : Host.Outcome State Fault Refusal :=
  .next (if s.guard.running = false then s
    else s.guardly fun s =>
      ((List.range 8).foldl (fun s d =>
        if (s.dom d).state = .disabled || (s.dom d).staysHeld then s else s.remapDomain images d) s.holdAll).settle)

/-! ### GUARD_COMMIT (R124 to R126) -/

/-- Blocks of a staging copy: the manifest, the region images, the recovery images. -/
def stagingBlocks (regs : List Region) (withRec : Bool) : Nat :=
  4 + (regs.map Region.count).sum + (if withRec then ((regs.filter fun r => r.action ≠ 0).map Region.count).sum else 0)

/-- The recovery images that follow the region images. -/
def recImages (regs : List Region) : List Region := regs.filter fun r => r.action ≠ 0

/-- The first region whose staged image does not match its new root (R124 step 3). -/
def badImage (regs : List Region) (images : List (List Bytes)) (withRec : Bool) : Option Nat :=
  let one (k : Nat) (r : Region) (root : Bytes) (b : List Bytes) : Option Nat :=
    if b.length = r.count ∧ runRoot r.regionId b = root then none else some k
  let own := (List.range regs.length).findSome? fun k => (regs[k]?).bind fun r => one k r r.root (images.getD k [])
  let recs := recImages regs
  let rec' := (List.range recs.length).findSome? fun k => (recs[k]?).bind fun r =>
    one k r r.recRoot (images.getD (regs.length + k) [])
  match own with
  | some k => some k
  | none => if withRec then rec' else none

/-- Steps 6 and 7: regions, recovery images and manifest blocks are erased and programmed (R123, R124). -/
def State.writeCommit (s : State) (d : Nat) (regs : List Region) (manifest : Bytes) (images : List (List Bytes))
    (withRec : Bool) : State :=
  let p := s.pdom d
  let chips := p.mfChip :: regs.map Region.chip
  let s1 := chips.foldl State.holdForWrite s
  let put (s : State) (r : Region) (base : Nat) (b : List Bytes) : State :=
    (s.forgetBlocks r.chip base r.count).emitAll (rewriteOut r.chip base b)
  let s2 := (List.range regs.length).foldl (fun s k => match regs[k]? with
    | some r => put s r r.base (images.getD k []) | none => s) s1
  let recs := recImages regs
  let s3 := if withRec then (List.range recs.length).foldl (fun s k => match recs[k]? with
    | some r => put s r r.recBase (images.getD (regs.length + k) []) | none => s) s2 else s2
  s3.emitAll (rewriteOut p.mfChip p.mfBlock (chunks 4096 4 manifest))

/-- The domain waits for its new manifest (R124 step 9). -/
def State.awaitManifest (s : State) (d : Nat) (st : DomState) : State :=
  (s.setDom d fun x => { x with mfDigest := [], regions := [], recovered := false, failCode := 0, failRegion := 0xFF }).hold d st

/-- A GUARD_COMMIT ends before any flash change: the staging blocks return to PASS, and the domain shows the FAIL_CODE of
the check that failed (R101, R133). DESIGN CHOICE (log row 89): R132 gives no status for MF_FORMAT, whose status is free
(any non-zero 16-bit value), and none for MF_SIGNER, which answers as a false signature does. -/
def State.commitFails (s : State) (j : Job) (d code region : Nat) : State :=
  let s1 := (s.mapGuard fun g => { g with staging := none }).setDom d fun x => { x with failCode := code, failRegion := region }
  let r (p : BitVec 64) : BitVec 64 := s1.guardResult d p
  let st' : Status :=
    if code = 4 then st.paramRejected else if code = 5 ∨ code = 9 then st.badField
    else if code = 1 then BitVec.ofNat 16 (1 + Config.freeNat s.freeCtr % 65535) else st.verifyFalse
  let res : BitVec 64 :=
    if code = 5 ∨ code = 9 then BitVec.ofNat 64 (Config.freeNat s.freeCtr % 2 ^ 32)
    else if code = 2 ∨ code = 3 then r pairFalse else r 0
  (s1.draw).finish j.id st' res [] j.scCycles

/-- A command of the guard is refused in a state its intake would refuse (R132). -/
def State.guardCmd (s : State) (id : Nat) (op : Op) (run : State → Job → State) : State :=
  s.runCmd id op fun s j =>
    match s.stateFault j.q j.entry op with
    | some (c, r) => s.finish j.id c r [] j.scCycles
    | none => s.guardly fun s => run s j

/-- Steps 1 to 7 of R124; the domain's next manifest read clears the journal, and its release or failure completes the
command. `manifest` is the staging copy's first four blocks. DESIGN CHOICE (log row 89): while
another commit's staging copy or record stands, the command waits. -/
def execGuardCommit (j : Nat) (manifest : Bytes) (images : List (List Bytes)) (s : State) : Host.Outcome State Fault Refusal :=
  .next (if s.nvFree = false ∨ s.guard.staging ≠ none ∨ s.commitRec ≠ none ∨ manifest.length ≠ 16384 then s
    else s.guardCmd j .guardCommit fun s j =>
      let d := j.entry.p 0 1
      let chip := (Chip.ofByte (j.entry.p 1 1)).getD chip0
      let withRec : Bool := j.entry.p 2 1 = 1
      let base := j.entry.p 4 4
      let regs := manifestRegions manifest
      let s1 := s.mapGuard fun g => { g with staging := some (chip, base, stagingBlocks regs withRec) }
      match s1.manifestFail d manifest with
      | 0 =>
        match badImage regs images withRec with
        | some k => s1.commitFails j d 6 k
        | none =>
          let jnl : CommitJournal := { domain := d, chip, base, withRecovery := withRec,
                                       blocks := stagingBlocks regs withRec, digest := Config.sha384 (manifestBytes manifest) }
          let s2 := ((s1.hold d .committing).mapKeeper fun k => { k with commitJnl := some jnl }).mapUpd fun u =>
            { u with jnlReadable := true }
          let s3 := (s2.writeCommit d regs manifest images withRec).awaitManifest d .committing
          (s3.setDom d fun x => { x with job := some j.id }).mapJob j.id fun x => { x with phase := .barrier, unit := none }
      | code => s1.commitFails j d code 0xFF)

/-- The journal of a commit that lost power is found before its domain is verified (R126). DESIGN CHOICE (log row 89): it is
run again in recovery mode too, where the guard rewrites no region for its recovery (R129). -/
def execGuardCommitResume (manifest : Bytes) (images : List (List Bytes)) (s : State) : Host.Outcome State Fault Refusal :=
  .next (match s.commitRec with
    | none => s
    | some jnl =>
      let d := jnl.domain
      let regs := manifestRegions manifest
      if s.guard.running = false ∨ s.nvFree = false ∨ (s.pdom d).enabled = false ∨ (s.dom d).state.checking = false
        ∨ (s.dom d).mfDigest ≠ [] ∨ (s.dom d).state = .committing ∨ (s.sport jnl.chip.port).running = false then s
      else s.guardly fun s =>
        if Config.sha384 (manifestBytes manifest) = jnl.digest ∧ badImage regs images jnl.withRecovery = none then
          let s1 := s.hold d .committing
          ((s1.writeCommit d regs manifest images jnl.withRecovery).awaitManifest d .committing).logEvent 0x0107 3
        else s.clearCommit.setDom d fun x => { x with failCode := 13 })

/-! ### The other guard commands (R132) -/

/-- GUARD_HOLD: FAILED_HELD with HOST_HOLD; a command that waited for the domain completes with it. A commit of the domain has
made its writes: its record is cleared (R124 step 8). -/
def execGuardHold (j : Nat) (s : State) : Host.Outcome State Fault Refusal :=
  .next (s.guardCmd j .guardHold fun s j =>
    let d := j.entry.p 0 1
    let s0 := if (s.dom d).state = .committing ∧ s.nvFree then s.clearCommit else s
    let s1 := ((s0.setDom d fun x => { x with failCode := 14, failRegion := 0xFF }).hold d .failedHeld).logEvent 0x0202
      (14 * 2 ^ 16 + 0xFF * 2 ^ 8 + d)
    let s2 := s1.guardJobDone d
    s2.finish j.id st.ok (s2.guardResult d 0) [] j.scCycles)

/-- A region to be read again from the beginning. -/
def Region.unread (r : Region) : Region :=
  { r with matched := false, remapped := false, onRecovery := false, owes := false, rewritten := false }

/-- GUARD_REVERIFY: the hold is asserted, every region is read again and the mirror refilled. Buffered blocks stay (R109) but
for those of a recovery image no longer served (log row 88). -/
def execGuardReverify (j : Nat) (s : State) : Host.Outcome State Fault Refusal :=
  .next (s.guardCmd j .guardReverify fun s j =>
    let d := j.entry.p 0 1
    let s1 := (s.dom d).regions.foldl (fun s r =>
      if r.remapped then s.forgetBlocks r.chip r.base r.count else s.forgetCache r.chip r.base r.count) s
    let s2 := s1.setDom d fun x =>
      { x with failCode := 0, failRegion := 0xFF, recovered := false, useRecovery := j.entry.p 2 1 = 1, job := some j.id,
               regions := x.regions.map Region.unread }
    (s2.hold d .verifying).mapJob j.id fun x => { x with phase := .barrier, unit := none })

/-- GUARD_SVN_ADVANCE: keeper counter 8 + d takes MF_SVN; it waits during power-fail hold (R133). -/
def execGuardSvnAdvance (j : Nat) (s : State) : Host.Outcome State Fault Refusal :=
  .next (if s.nvFree = false then s
    else s.guardCmd j .guardSvnAdvance fun s j =>
      let d := j.entry.p 0 1
      let s1 := s.mapKeeper fun k => { k with domainSvn := k.domainSvn.set 0 d (max (k.domainSvn.get 0 d) (s.dom d).mfSvn) }
      s1.finish j.id st.ok (s1.guardResult d 0) [] j.scCycles)

end Sys2Proof.Machine
end

