-- ==== Sys2Proof/Machine/HopperOps.lean ====
section
/-!
DEFINITION. Machine/HopperOps.lean: arbitration (R197 to R202): engine time, eligibility and the choice of R201; units
given up and taken again (R231 to R233, R494).
-/
namespace Sys2Proof.Machine
open Sys2Proof

/-! ### Engine time (R198, R199) -/

/-- Steps of the sliding window of 10 ms. -/
def windowSteps : Nat := 100

/-- Microseconds of a step. -/
def stepMicros : Nat := 100

/-- Capacity of a class in the window that ends now, in microseconds of its units: a unit in service at the end of a step
was in service in that step (log row 11). Steps before the compute die's release count as steps of the units that serve
now. -/
def State.capacity (s : State) (c : UnitClass) : Nat :=
  let l := (s.sched.arb c).served
  stepMicros * (l.sum + (windowSteps - l.length) * (s.unitsUp c).length)

/-- Engine time in the window of the queues that satisfy `p`, in microseconds. -/
def State.usedBy (s : State) (c : UnitClass) (p : QRef → Bool) : Nat :=
  (((s.sched.arb c).uses.filter fun u => p u.q).map Use.micros).sum

/-- Queues under the control cap (R199): control queues but CTLQ0, the management link, the manufacturing port, admin. -/
def capped : QRef → Bool
  | .ctl 0 => false
  | .ctl _ => true
  | .mgmt => true
  | .tap => true
  | .admin _ => true
  | .job _ _ => false

/-- Control traffic is below a quarter of a class's capacity. -/
def State.underCap (s : State) (c : UnitClass) : Bool := decide (4 * s.usedBy c capped < s.capacity c)

/-- A queue has received less than its minimum share. -/
def State.belowShare (s : State) (c : UnitClass) (q : Queue) : Bool :=
  decide (256 * s.usedBy c (fun r => r = q.ref) < q.minShare * s.capacity c)

/-- A queue's job takes a unit of a class: CTLQ0's use of the aligned window is noted (R202). -/
def State.useUnit (s : State) (c : UnitClass) (r : QRef) (code : Nat) : State :=
  s.mapArb c fun a => { a with ctl0Used := a.ctl0Used || r = .ctl 0, ctl0Guard := a.ctl0Guard && (r ≠ .ctl 0 || isGuardOp code) }

/-- A job occupies a unit of a class from now on: engine time of this step, of an amount that the model leaves free, since
it has no clock inside a step (R198, log row 11). -/
def State.countUse (s : State) (c : UnitClass) (r : QRef) (job code : Nat) : State :=
  ((s.useUnit c r code).mapArb c fun a =>
    { a with uses := { step := s.sched.step, q := r, job, micros := Config.freeNat s.freeCtr % (stepMicros + 1) } :: a.uses }).draw

/-- The units of its class that a job occupies: its own, and those of its subtree tasks (R344). -/
def Job.unitCount (j : Job) : Nat := (if j.unit.isSome then 1 else 0) + j.taskUnits.length

/-- Number of a class in R534. -/
def classNum : UnitClass → Nat
  | .bench => 0 | .hash => 1 | .cbu => 2 | .aes => 3 | .sc => 4

/-! ### Eligibility (R193, R197) -/

/-- A completion slot can be reserved (R193); the management link and the manufacturing port have no ring. -/
def Queue.reservable (q : Queue) : Bool := !q.ref.hasRing || decide ((q.cnt.dispatched - q.cnt.consumed).toNat < q.m)

/-- The queue may be served: enabled and not draining, its function in D0 with Bus Master Enable 1. -/
def State.served (s : State) (q : Queue) : Bool :=
  (q.state = .running || q.state = .error) && (!q.ref.hasRing || s.dmaUp q.ref.fn)
    && (s.fwRunning || (s.boot.stage = .loader && romQueue q.ref))

/-- The entry that a queue would dispatch next. -/
def Queue.next (q : Queue) : Option Intake := q.intake.head?

/-- A key generation of a queue that has a subtree task to dispatch (R344). -/
def State.taskJob (s : State) (r : QRef) : Option Job :=
  s.jobs.find? fun j => j.q = r && j.phase = .running && j.stop = none && j.tasks.any fun n => decide (0 < n)

/-- A subtree task of a queue wants a hash group: it is dispatched as if it were a job of the queue, without a completion
slot (R344). -/
def State.taskReady (s : State) (c : UnitClass) (q : Queue) : Bool :=
  c = .hash && q.ref.hasRing && s.dmaUp q.ref.fn && (s.taskJob q.ref).isSome

/-- R197: the queue is served, its next entry needs the class, and a reservation is allowed; or a subtree task of the queue
waits (R344). -/
def State.eligible (s : State) (c : UnitClass) (q : Queue) : Bool :=
  (s.served q && q.next.any (fun i => groupClass i.entry.group = c) && q.reservable) || s.taskReady c q

/-- An entry can leave its intake buffer: a unit can take it, or it ends at intake. -/
def State.takeable (s : State) (i : Intake) : Bool :=
  i.aborted || (s.pickUnit i.entry.group).isSome || (s.noUnitKind i.entry.group).isSome

/-- An idle unit of the class can take what an eligible queue has next: a choice is made when a unit can take a job (R201),
and a job with a MAC needs an idle one (R231; log row 92). -/
def State.ready (s : State) (c : UnitClass) (q : Queue) : Bool :=
  s.eligible c q && (if s.taskReady c q then ((s.unitsUp c).any fun u => !s.unitBusy c u) else q.next.any s.takeable)

/-! ### The choice (R201) -/

/-- The place of a queue in its round: function number, then queue number. -/
def qOrder : QRef → Nat
  | .job f q => f * 4096 + q
  | .admin f => f
  | _ => 0

/-- The first of a list, in the order of `qOrder`, after a position, going round. -/
def nextAfter (pos : Nat) (l : List Queue) : Option Queue :=
  let best (l : List Queue) : Option Queue := l.foldl (fun b q =>
    match b with
    | none => some q
    | some x => if qOrder q.ref < qOrder x.ref then some q else some x) none
  match best (l.filter fun q => pos < qOrder q.ref) with
  | some q => some q
  | none => best l

/-- The control queues in the order of R201: CTLQ0, CTLQ1, then CTLQ2 and the management link by arrival, CTLQ3, the
manufacturing port. -/
def State.ctlOrder (s : State) : List QRef :=
  let stamp (r : QRef) : Nat := ((s.queue r).next.map Intake.stamp).getD s.sched.arrivals
  let mid : List QRef := if stamp .mgmt < stamp (.ctl 2) then [.mgmt, .ctl 2] else [.ctl 2, .mgmt]
  [.ctl 0, .ctl 1] ++ mid ++ [.ctl 3, .tap]

/-- Credit of a job queue for a class. -/
def Arb.creditOf (a : Arb) (r : QRef) : Nat := (a.credit.lookup r).getD 0

def Arb.setCredit (a : Arb) (r : QRef) (n : Nat) : Arb := { a with credit := (r, n) :: a.credit.filter fun p => p.1 ≠ r }

/-- Weighted round robin among eligible job queues: credit is refilled by eligibility alone (R201). -/
def State.wrr (s : State) (c : UnitClass) (el : List Queue) : Option QRef × State :=
  if el = [] then (none, s)
  else
    let a := s.sched.arb c
    let a1 := if el.all fun q => a.creditOf q.ref = 0
              then { a with credit := s.jobQueues.map fun q => (q.ref, q.weight) } else a
    match nextAfter a1.wrrPos (el.filter fun q => 0 < a1.creditOf q.ref && s.ready c q) with
    | some q => (some q.ref, s.mapArb c fun _ => { a1.setCredit q.ref (a1.creditOf q.ref - 1) with wrrPos := qOrder q.ref })
    | none => (none, s.mapArb c fun _ => a1)

/-- choose(c) of R201, with the positions it moves. -/
def State.choose (s : State) (c : UnitClass) : Option QRef × State :=
  let cap := s.underCap c
  match s.ctlOrder.find? fun r => s.ready c (s.queue r) && (r = .ctl 0 || cap) with
  | some r => (some r, s)
  | none =>
    match if cap then nextAfter (s.sched.arb c).adminPos (s.queues.filter fun q => q.ref.isAdmin && s.ready c q) else none with
    | some q => (some q.ref, s.mapArb c fun a => { a with adminPos := qOrder q.ref })
    | none =>
      let el := s.jobQueues.filter (s.eligible c)
      match nextAfter (s.sched.arb c).sharePos (el.filter fun q => s.belowShare c q && s.ready c q) with
      | some q => (some q.ref, s.mapArb c fun a => { a with sharePos := qOrder q.ref })
      | none => s.wrr c el

/-- A unit of a class is idle, so that it can take a job: the moment at which R201 chooses. -/
def State.canTake (s : State) (c : UnitClass) : Bool := (s.unitsUp c).any fun u => !s.unitBusy c u

/-- The job queues eligible at this choice are the only ones still eligible throughout the aligned window (R202); with no
idle unit of the class there is no choice. -/
def State.noteChoice (s : State) (c : UnitClass) : State :=
  let el := (s.jobQueues.filter (s.eligible c)).map Queue.ref
  s.mapArb c fun a =>
    { a with always := if s.canTake c then some (match a.always with | none => el | some l => l.filter fun r => el.contains r)
                       else a.always }

/-- CQ_STALL is set when the inequality of R193 ceases to hold, which a dispatch alone can do: each stall is one setting
(R500). -/
def State.noteStall (s : State) (r : QRef) : State := if (s.queue r).reservable then s else s.setQEvt r 1

/-! ### Units given up and taken again (R233) -/

/-- The waits of R233. -/
def JobPhase.isWait : JobPhase → Bool
  | .waitEntropy | .waitStream | .waitReserve | .waitIndex | .waitLeaf => true
  | _ => false

/-- A job without a unit that would take one: it has given its own up, or was paused in a wait. -/
def Job.unitless (j : Job) : Bool := j.phase = .yielded || (j.phase.isWait && j.unit.isNone)

/-- A job that has given up its unit can be resumed. -/
def State.resumable (s : State) (j : Job) : Bool := j.unitless && s.mayResume j && (s.pickUnit j.group).isSome

/-- Jobs of a class that can be resumed, oldest first, without those a freed unit must not return to. -/
def State.resumers (s : State) (c : UnitClass) : List Job :=
  s.jobs.filter fun j => j.cls = c && s.resumable j && !(s.sched.arb c).gave.contains j.id

/-- Another job waits for a class with no idle unit that could take it. -/
def State.contended (s : State) (c : UnitClass) : Bool :=
  (s.jobs.any fun j => j.cls = c && j.unitless && s.mayResume j && (s.pickUnit j.group).isNone)
    || (s.dispatching && s.queues.any fun q => s.eligible c q && !s.ready c q)

/-- A unit of a class is taken: the oldest job that gave one up has seen its unit pass to another. -/
def State.unitTaken (s : State) (c : UnitClass) : State := s.mapArb c fun a => { a with gave := a.gave.drop 1 }

/-- A job takes a unit; one paused in a wait goes on waiting. -/
def State.takeUnit (s : State) (j : Job) (u : Nat) : State :=
  ((s.countUse j.cls j.q j.id j.op).unitTaken j.cls).mapJob j.id fun x =>
    { x with phase := if x.phase.isWait then x.phase else .running, unit := some u, since := s.sched.step,
             lane := s.laneBeside j u }

end Sys2Proof.Machine
end

