-- ==== Sys2Proof/Machine/HopperCmds.lean ====
section
/-!
DEFINITION. Machine/HopperCmds.lean: dispatch and intake (R193, R197 to R219), engine-time windows (R198, R202), yield
points (R232, R233), the entropy wait (R225, R445) and completion (R151, R234 to R241).
-/
namespace Sys2Proof.Machine
open Sys2Proof

/-! ### Dispatch -/

/-- The stream a part belongs to (R242). -/
def Entry.streamSlot (e : Entry) : Option Nat :=
  if e.opcode = 0x0806 ∨ e.opcode = 0x0807 then some (e.p 12 4 % 65536) else none

/-- A job as it leaves the intake buffer. -/
def newJob (id : Nat) (r : QRef) (i : Intake) : Job :=
  { id, q := r, entry := i.entry, phase := .running, cls := groupClass i.entry.group, unit := none, holds := [], chain := [],
    chain2 := [], outFrags := [], written := [], seeded := false, waitFrom := 0, taken := none, stream := none,
    stop := none, started := 0, aborts := none, key := [], key2 := [], crec := Ctx.blank, crec2 := Ctx.blank,
    linkIn := i.input, viaVdm := i.viaVdm, ending := none, heldCpl := false, since := 0, lane := none, tasks := none,
    taskUnits := [] }

/-- The entry leaves the intake buffer holding its slot: DISPATCHED counts it, and it is a job from now on. -/
def State.leaveIntake (s : State) (r : QRef) (i : Intake) : State :=
  let s1 := (s.mapQueue r fun q =>
    { q with intake := q.intake.drop 1, cnt := { q.cnt with dispatched := q.cnt.dispatched + 1 } }).noteStall r
  { s1 with jobs := s1.jobs ++ [newJob s.nextJob r i], nextJob := s1.nextJob + 1 }

/-- An entry accepted at step 1 restarts the idle time of its function's session (R174); one that ABORT has marked meets no
check (R236). -/
def State.noteAccept (s : State) (r : QRef) (e : Entry) (aborted : Bool) : State :=
  if s.sessionOk r e ∧ r ≠ .tap ∧ aborted = false then s.mapSession r.fn fun x => { x with lastAccept := s.now } else s

/-- Commands that resolve a context without using its key: CTX_CREATE, CTX_QUERY, INVALIDATE, SCOPE_SET, STATEFUL_QUERY,
ROOT_SPOIL. -/
def keyless (code : Nat) : Bool := [0x0A01, 0x0A02, 0x0A03, 0x0A07, 0x0A0D, 0xC013].contains code

/-- INVALIDATE and ROOT_SPOIL count themselves in no in-flight count (R270). -/
def uncounted (code : Nat) : Bool := code = 0x0A03 || code = 0xC013

/-- An intake passed: holds, in-flight counts, keys and the unit (R222, R227, R229, R231). A part of a stream with an
earlier part in flight waits on its hash group (R242). A key enters the derived-key cache when it is computed, which a key
lost to an uncorrectable word never is (R265, R493). `started` keeps the SEPOCH its key was derived with (R262). A job
whose key comes from an imported-key entry lost to an uncorrectable word ends with INTERNAL_ECC (R493). -/
def State.startJob (s : State) (j : Job) (u : Option Nat) (holds : List Hold) (chain chain2 : List Nat)
    (outs : List (BitVec 64 × Nat)) : State :=
  let slot := j.entry.streamSlot
  let waits := slot.isSome && s.jobs.any fun k => k.id ≠ j.id && k.stream = slot
  let kc := if keyless j.op then [] else chain
  let key (c : List Nat) : Bytes := if c = [] then [] else s.keyOf c
  let record (c : List Nat) : Ctx := match c with | i :: _ => s.keys.record i | [] => Ctx.blank
  let counted := if uncounted j.op then [] else chain
  let lost : Bool := s.lostRoot kc || s.lostRoot chain2
  let s1 := (if lost then s else (s.touchCache kc).touchCache chain2).mapKeys fun k => (k.raise counted).raise chain2
  let s2 := s1.mapJob j.id fun x =>
    { x with unit := u, holds, chain := counted, chain2, outFrags := outs, stream := slot, key := key kc, key2 := key chain2,
             crec := record chain, crec2 := record chain2, phase := if waits then .waitStream else .running,
             waitFrom := s.now, started := match chain with | i :: _ => s.sepochOf i | [] => 0,
             since := s.sched.step, lane := u.bind (s.laneBeside j) }
  let s3 := (s2.countUse j.cls j.q j.id j.op).unitTaken j.cls
  if lost then
    match s3.job? j.id with
    | some x => (s3.dropStream x).draw.fail x st.internalEcc (Config.freeNat s3.freeCtr)
    | none => s3
  else s3

/-- Run the intake of the job that has just left its buffer (R219). A fragment table whose read fails, as `fragErr` says, ends
it as R154 states; the input of a job that passes is asked for. -/
def State.runIntake (s : State) (j : Job) (i : Intake) (inF outF : List FragEntry) (fragErr : DmaErr) : State :=
  if i.aborted then (s.dropStream j).fail j st.abortedHost 0
  else match s.intake j.q j.entry inF outF with
    | .ended c r => (s.dropStream j).finish j.id c (signerResult j.op c r) [] 0
    | .unread a => ((s.dropStream j).dmaError j.fn fragErr a).fail j (DmaErr.status fragErr) 0
    | .accepted holds chain chain2 ins outs =>
      (if j.q.hasRing then s.readIn j.fn ins else s).startJob j (s.pickUnit j.group) holds chain chain2 outs

/-- A subtree task takes a hash group (R344). -/
def State.startTask (s : State) (j : Job) : State :=
  match (s.unitsUp .hash).find? fun u => !s.unitBusy .hash u with
  | some u =>
    ((s.countUse .hash j.q j.id j.op).unitTaken .hash).mapJob j.id fun x =>
      { x with tasks := x.tasks.map (· - 1), taskUnits := x.taskUnits ++ [u], since := s.sched.step }
  | none => s

/-- A unit of a class takes the queue R201 chooses; nothing while a job that gave up its unit can be resumed (R233). -/
def execHopperDispatch (cls : UnitClass) (inFrags outFrags : List FragEntry) (s : State) (fragErr : DmaErr := .ur) :
    Host.Outcome State Fault Refusal :=
  .next (if s.dispatching = false ∨ s.resumers cls ≠ [] then s
    else
      let s1 := s.noteChoice cls
      match s1.choose cls with
      | (none, s2) => s2
      | (some r, s3) =>
        match (if s3.taskReady cls (s3.queue r) then s3.taskJob r else none), (s3.queue r).next with
        | some j, _ => s3.startTask j
        | none, none => s3
        | none, some i =>
          let s4 := (s3.leaveIntake r i).noteAccept r i.entry i.aborted
          match s4.job? s3.nextJob with
          | some j => s4.runIntake j i inFrags outFrags fragErr
          | none => s4)

/-! ### Windows -/

/-- A job has held its unit through the whole of the step that ends. -/
def State.heldThrough (s : State) (id : Nat) : Bool :=
  match s.job? id with
  | some j => !j.ended && j.unit.isSome && decide (j.since < s.sched.step)
  | none => false

/-- The test of R202 as an aligned window ends: the queues it finds affected, by function and queue number. -/
def State.shareTest (s : State) (c : UnitClass) : ShareTest :=
  let a := s.sched.arb c
  { hit := if a.ctl0Used then
      ((s.jobQueues.filter fun q => (match a.always with | some l => l.contains q.ref | none => false) && s.belowShare c q).map
        Queue.ref).mergeSort fun x y => qOrder x ≤ qOrder y
      else [],
    guardOnly := a.ctl0Guard }

/-- What the device does with the result of a test: SHARE_OVERRIDDEN of each affected queue, and one record (R18, R202,
R534). -/
def State.shareAct (s : State) (c : UnitClass) : State :=
  match (s.sched.arb c).due with
  | none => s
  | some t =>
    let s1 := (t.hit.foldl (fun s r => s.setQEvt r 2) s).mapArb c fun a => { a with due := none }
    match t.hit with
    | [] => s1
    | r :: _ =>
      let qid := match r with | .job _ n => n | _ => 0
      s1.logBroken (if t.guardOnly then 3 else 1) 5 (t.hit.length * 2 ^ 32 + classNum c * 2 ^ 24 + qid * 2 ^ 8 + r.fn)

/-- An aligned window of 10 ms ends with this step (R198): it is tested, and what R202 gathers begins anew. A test that no
SHARE_WINDOW_END has acted on yet is acted on first. -/
def State.endWindow (s : State) (c : UnitClass) : State :=
  if s.sched.step % windowSteps ≠ 0 then s
  else
    let s1 := s.shareAct c
    s1.mapArb c fun a => { a with due := some (s1.shareTest c), always := none, ctl0Used := false, ctl0Guard := true }

/-- 100 µs pass (R198): a unit held throughout counts with the whole step, steps older than 10 ms leave the window, and
the units that jobs hold count in the new step. -/
def State.advanceClass (s : State) (c : UnitClass) : State :=
  let old := s.sched.step - 1
  let occ := s.jobs.filter fun j => j.cls = c && !j.ended
  let s1 := (s.mapArb c fun a =>
    { a with served := ((s.unitsUp c).length :: a.served).take windowSteps,
             uses := (a.uses.map fun u =>
               if u.step = old ∧ s.heldThrough u.job then { u with micros := stepMicros } else u).filter fun u =>
                 s.sched.step < u.step + windowSteps }).endWindow c
  occ.foldl (fun s j => (List.range j.unitCount).foldl (fun s _ => s.countUse c j.q j.id j.op) s) s1

def execEngineWindowAdvance (s : State) : Host.Outcome State Fault Refusal :=
  .next (if s.cdRunning then
    allClasses.foldl State.advanceClass { s with sched := { s.sched with step := s.sched.step + 1 } } else s)

/-- The test of R202, once for each class and aligned window: it acts on what the window that has ended shows. -/
def execShareWindowEnd (cls : UnitClass) (s : State) : Host.Outcome State Fault Refusal :=
  .next (if s.cdRunning then s.shareAct cls else s)

/-! ### Yield points -/

/-- A job gives up its units: one that waits keeps its wait, and the subtree tasks it had running are to be dispatched
again. -/
def State.giveUp (s : State) (j : Job) (phase : JobPhase) : State :=
  s.mapJob j.id fun x =>
    { x with phase := if x.phase.isWait then x.phase else phase, unit := none, lane := none,
             tasks := x.tasks.map (· + x.taskUnits.length), taskUnits := [] }

/-- A subtree task gives up its hash group to another job that waits (R233, R344). -/
def State.giveTask (s : State) (j : Job) : State :=
  s.mapJob j.id fun x => { x with tasks := x.tasks.map (· + 1), taskUnits := x.taskUnits.drop 1 }

/-- A job reaches a yield point (R232, R233): an ordered stop takes effect; a hold, a thermal stop or D3hot pauses it; a
dropped unit or a job waiting for its class takes its unit. A job that waits is at a yield point throughout, for aborts
and stops alone. -/
def execYieldPoint (j : Nat) (s : State) : Host.Outcome State Fault Refusal :=
  .next (match s.job? j with
    | none => s
    | some j =>
      if j.phase ≠ .running ∧ ¬ (j.phase.isWait ∧ j.unit.isSome) then s
      else match j.stop with
        | some status => s.stopJob j status
        | none =>
          if s.power.pfHold ∨ s.thermal.thermStop ∨ (j.q.hasRing ∧ (s.fn j.fn).d3hot) then s.giveUp j .paused
          else if j.unit.any (s.unitDown j.cls) then s.giveUp j .yielded
          else if j.phase.isWait then s
          else if s.contended j.cls then
            if j.taskUnits ≠ [] then s.giveTask j
            else (s.giveUp j .yielded).mapArb j.cls fun a => { a with gave := a.gave ++ [j.id] }
          else s)

/-- Whether a class has someone else to give a freed unit to. -/
def State.othersWait (s : State) (c : UnitClass) : Bool :=
  s.resumers c ≠ [] || (s.dispatching && (s.choose c).1.isSome)

/-- A job that gave up its unit is resumed, oldest first, on a unit that can take it (R233). -/
def execJobResume (j : Nat) (s : State) : Host.Outcome State Fault Refusal :=
  .next (match s.job? j with
    | none => s
    | some j =>
      if s.resumable j = false then s
      else
        let own : Bool := (s.sched.arb j.cls).gave.contains j.id
        let first : Bool := if own then !s.othersWait j.cls else (s.resumers j.cls).head?.any fun k => k.id = j.id
        match s.pickUnit j.group with
        | some u => if first then s.takeUnit j u else s
        | none => s)

/-! ### The entropy wait -/

/-- The DRBGs are ready: the job's stream is seeded, and it goes on (R444, R445). A job that finds them ready has a wait of
no length, whose end this is too. -/
def execEntropyWaitEnd (j : Nat) (s : State) : Host.Outcome State Fault Refusal :=
  .next (match s.job? j with
    | some j =>
      if s.ent.state = .ready ∧ (j.phase = .waitEntropy
          ∨ (j.phase = .running ∧ j.seeded = false ∧ (opOf j.op).any (s.needsEntropy j.q.fn j.entry) = true)) then s.seedJob j
      else s
    | none => s)

/-- 100 ms of waiting: ENTROPY_NOT_READY (R445). -/
def execEntropyWaitTimeout (j : Nat) (s : State) : Host.Outcome State Fault Refusal :=
  .next (match s.job? j with
    | some j =>
      if j.phase = .waitEntropy ∧ s.ent.state ≠ .ready then
        ((s.dropStream j).fail j st.entropyNotReady (s.phaseCycles j)).setEnt 0
      else s
    | none => s)

/-! ### Completion -/

/-- A unit's wrong verdict pair or wrong result turns the ending into ENGINE_FAULT (R241, R398); a stateful index stays
in RESULT (R281). The plaintext an AES-GCM decryption had written before the check is zero-filled (R238, R239). -/
def Job.withFault (j : Job) (f : UnitFault) : Job :=
  match j.ending with
  | none => j
  | some e =>
    let isPair : Bool := e.result &&& 0xFFFFFFFF = pairTrue || e.result &&& 0xFFFFFFFF = pairFalse
    let hit : Bool := match f with
      | .none => false
      | .badPair => isPair && (e.status = st.ok || e.status = st.verifyFalse || e.status = st.tagFail)
      | .wrongResult => j.op = 0x0703 && e.status = st.ok
    if hit then { j with written := if j.op = 0x0902 then e.out else j.written, ending := some { status := st.engineFault, result := j.plainResult st.engineFault, out := [], cycles := e.cycles } }
    else j

/-- The class, object and UNIT word an ENGINE_FAULT counts against (R486): in a batch seal the fault of R312 arose in the
lane engine beside the group. -/
def State.faultOf (s : State) (j : Job) : Nat × Nat × Nat :=
  if j.group = 0x0C ∧ j.entry.p 5 1 ≠ 2 then
    let lane := j.lane.getD (8 * (j.unit.getD 0 / 2) + Config.freeNat s.freeCtr % 8)
    (7, lane, unitWord 1 lane)
  else j.faultClass

/-- A completion that must wait, with the status the job ended with: in D3hot (R144), or with Bus Master Enable 0, where a
job that still ran was stopped with DMA_FAULT at its yield point (R155). -/
def State.holdCompletion (s : State) (j : Job) : State :=
  (s.mapJob j.id fun x => { x with heldCpl := true }).mapSched fun d => { d with held := d.held ++ [j.id] }

/-- The address of byte `n` of a list of ranges. -/
def fragAt : List (BitVec 64 × Nat) → Nat → Option (BitVec 64)
  | [], _ => none
  | (a, len) :: rs, n => if n < len then some (a + BitVec.ofNat 64 n) else fragAt rs (n - len)

/-- Output bytes a job has to write. -/
def Job.outLen (j : Job) : Nat := (j.ending.map fun e => e.out.length).getD 0

/-- The host address at which byte `n` of a job's output goes, or that of its completion entry where no output is left to
write (R154). -/
def State.writeAddr (s : State) (j : Job) (n : Nat) : BitVec 64 :=
  (if n < j.outLen then fragAt j.outFrags n else none).getD ((s.queue j.q).cqBase + BitVec.ofNat 64 (32 * ((s.queue j.q).cqWrite % (s.queue j.q).m)))

/-- How many output bytes were in host memory when the uncorrectable word was met: a free value; all of them when it was met
in the completion entry (R154, R535). -/
def Job.eccBytes (j : Job) (n : Nat) : Nat := n % (j.outLen + 1)

/-- An uncorrectable word on the way to host memory: INTERNAL_ECC, with the first `k` output bytes already in host memory
(R154, R535). Met in the completion entry, the entry is formed again with RESULT and CYCLES 0. -/
def Job.withEcc (j : Job) (k : Nat) : Job :=
  match j.ending with
  | some e =>
    let inEntry : Bool := k = e.out.length
    { j with written := j.written ++ e.out.take k,
             ending := some { status := st.internalEcc, result := if inEntry then 0 else j.plainResult st.internalEcc,
                              out := [], cycles := if inEntry then 0 else e.cycles } }
  | none => j

/-- A job that has its status is completed: unit faults are counted (R486, R494), output and completion are written
(R151), or held. -/
def execJobComplete (j : Nat) (fault : UnitFault) (ecc : Option SramWord) (s : State) : Host.Outcome State Fault Refusal :=
  .next (match s.job? j with
    | none => s
    | some j0 =>
      if !j0.ended || j0.heldCpl then s
      else
        let j1 := j0.withFault fault
        let engine : Bool := match j1.ending with
          | some e => e.status = st.engineFault && j1.unit.isSome
          | none => false
        let res := (j1.ending.map fun e => e.result.toNat).getD 0
        let s1 := s.putJob j1
        let s2 := if engine then (s1.unitFaultEvent (s1.faultOf j1) res).draw else s1
        let s3 := match ecc with
          | some w =>
            ((s2.setFnDma j1.fn 5 (s2.writeAddr j1 (j1.eccBytes (Config.freeNat s2.freeCtr)))).sramUe w).dropStream j1
          | none => s2
        match s3.job? j1.id with
        | none => s3
        | some j3 =>
          let j4 := if ecc.isSome then j3.withEcc (j1.eccBytes (Config.freeNat s2.freeCtr)) else j3
          match j4.ending with
          | none => s3
          | some e =>
            let s4 := (s3.putJob j4).draw
            if j4.q.hasRing && !s4.dmaUp j4.fn && !s4.boot.cut then s4.holdCompletion j4
            else s4.complete j4 e)

end Sys2Proof.Machine
end

