-- ==== Sys2Proof/Machine/SessionCmds.lean ====
section
/-!
DEFINITION. Machine/SessionCmds.lean: credentials and sessions (R167 to R174): SESSION_ASSIGN, SESSION_OPEN in its two
steps, closing, and the proof that the management link shares (R164).
-/
namespace Sys2Proof.Machine
open Sys2Proof

/-! ### Credentials (R168, R169) -/

/-- The chain of a credential's context, or the status that refuses it: the chain check as for the PF, SESSION_PROOF, and a
carried root at the end. -/
def State.credChain (s : State) (h : BitVec 32) : Status × List Nat :=
  let r := s.chainCheck h 0
  let i := handleIndex h
  let ends : Bool := match r.2.getLast? with
    | some k => decide (15 < k) && (s.keys.record k).parent = 0 && (s.keys.record k).type = 1
    | none => false
  if r.1 ≠ st.ok then (r.1, [])
  else if decide (15 < i) && (s.keys.record i).allows 13 && ends then (st.ok, r.2)
  else (st.keyPolicy, [])

/-- The verifier tag of a passphrase (R170). -/
def State.passTag (s : State) (phrase : Bytes) (fn : Nat) : Bytes :=
  Config.kmac256 s.passKey (phrase ++ leBytes 1 fn) 32 (Config.ascii "PETHAL-PASSPHRASE")

/-- The proof of KEY mode (R170). -/
def State.keyProof (s : State) (key nonce : Bytes) (fn : Nat) : Bytes :=
  Config.kmac256 key (nonce ++ leBytes 1 fn ++ leBytes 8 s.keeper.bootCount) 32 (Config.ascii "PETHAL-SESSION")

/-- The credential SESSION_ASSIGN writes. -/
def State.newCred (s : State) (j : Job) (inp : Bytes) : Cred :=
  let m := j.entry.p 1 1
  { mode := BitVec.ofNat 2 m, ctx := BitVec.ofNat 32 (j.entry.p 4 4), idleS := j.entry.p 2 2,
    tag := if 2 ≤ m then s.passTag inp (j.entry.p 0 1) else [] }

def execSessionAssign (j : Nat) (inp : Bytes) (s : State) : Host.Outcome State Fault Refusal :=
  .next (s.nvOp j .sessionAssign inp fun s j =>
    let m := j.entry.p 1 1
    let c := if m = 1 ∨ m = 3 then (s.credChain (BitVec.ofNat 32 (j.entry.p 4 4))).1 else st.ok
    if c ≠ st.ok then s.fail j c j.scCycles
    else if 2 ≤ m ∧ s.imageRootOk = false then s.fail j st.rootDisabled j.scCycles
    else (s.mapKeeper fun k => { k with creds := k.creds.set Cred.none (j.entry.p 0 1) (s.newCred j inp) }).done j 0 [] j.scCycles)

/-! ### The two steps (R170 to R172) -/

/-- Step 0: a fresh nonce replaces any earlier one. -/
def State.issueNonce (s : State) (fn : Nat) : State :=
  let n := s.freeNow 32
  (s.scDraw).mapSession fn fun x => { x with nonce := some (n, s.now) }

def execSessionOpenNonce (j : Nat) (s : State) : Host.Outcome State Fault Refusal :=
  .next (s.runCmd j .sessionOpen fun s j =>
    if j.entry.p 0 1 ≠ 0 then s
    else s.gated j .sessionOpen (s.phaseCycles j) fun s j => (s.issueNonce j.fn).done j 0 (s.freeNow 32) j.scCycles)

/-- Seconds of refusal that remain (R171). -/
def State.lockLeft (s : State) (fn : Nat) : Nat :=
  match (s.session fn).lockUntil with
  | some t => (t - s.now + 32767) / 32768
  | none => 0

/-- Seconds of refusal after the `n`-th consecutive failure (R171). -/
def lockSecs (n : Nat) : Nat := if n < 5 then 0 else min 3600 (60 * 2 ^ (n - 5))

/-- A failed attempt: counted, and from the fifth on a refusal time begins. -/
def Session.failed (x : Session) (now : Nat) : Session :=
  let n := min 255 (x.failCount + 1)
  { x with nonce := none, failCount := n, lockUntil := if 5 ≤ n then some (now + secs (lockSecs n)) else x.lockUntil }

/-- A match opens the session with the credential's idle time and clears the count. -/
def Session.opened (x : Session) (idleS now : Nat) : Session :=
  { x with isOpen := true, nonce := none, failCount := 0, lockUntil := none, lastAccept := now, idleS }

/-- Whether what is presented proves the credential: the status, and the state after using the credential's key. -/
def State.judge (s : State) (fn method : Nat) (nonce proof : Bytes) : Status × State :=
  let c := s.keeper.cred fn
  let verdict (b : Bool) : Status := if b then st.ok else st.verifyFalse
  if method = 0 then (st.ok, s)
  else if method = 1 then
    match s.credChain c.ctx with
    | (e, chain) =>
      if e ≠ st.ok then (e, s)
      else if s.lostRoot chain then (st.internalEcc, s)
      else (verdict (s.keyProof (s.keyOf chain) nonce fn = proof), s.touchCache chain)
  else if s.imageRootOk = false then (st.rootDisabled, s)
  else (verdict (s.passTag proof fn = c.tag), s)

/-- Step 1, for a function or the management link: status, RESULT and the state after it. -/
def State.prove (s : State) (fn method : Nat) (proof : Bytes) : Status × BitVec 64 × State :=
  if 0 < s.lockLeft fn then (st.notAuthorised, BitVec.ofNat 64 (s.lockLeft fn), s)
  else match s.nonceOf fn with
    | none => (st.stateRefused, s.refusedWord fn 0, s)
    | some nonce =>
      match s.judge fn method nonce proof with
      | (e, t) =>
        if e = st.ok then (e, pairTrue, t.mapSession fn fun x => x.opened (s.keeper.cred fn).idleS s.now)
        else (e, if e = st.verifyFalse then pairFalse else 0, t.mapSession fn fun x => x.failed s.now)

def execSessionOpenProof (j : Nat) (inp : Bytes) (s : State) : Host.Outcome State Fault Refusal :=
  .next (s.runOp j .sessionOpen inp fun s j =>
    if j.entry.p 0 1 ≠ 1 then s
    else match s.prove j.fn (j.entry.p 1 1) inp with
      | (e, r, t) => t.finish j.id e r [] j.scCycles)

/-! ### Closing (R174) and the times that end -/

/-- Close a session; its failure count stays. -/
def State.closeSession (s : State) (fn : Nat) : State := s.mapSession fn fun x => { x with isOpen := false }

def execSessionClose (j : Nat) (s : State) : Host.Outcome State Fault Refusal :=
  .next (s.runCmd j .sessionClose fun s j => (s.closeSession j.fn).done j 0 [] j.scCycles)

/-- The idle time of an open session passes. -/
def execSessionIdleClose (fn : Nat) (s : State) : Host.Outcome State Fault Refusal :=
  .next (if (s.session fn).isOpen ∧ (s.session fn).idleS ≠ 0 then (s.closeSession fn).setIdleClosed fn else s)

/-- A nonce passes 10 s. -/
def execNonceExpired (fn : Nat) (s : State) : Host.Outcome State Fault Refusal :=
  .next (s.mapSession fn fun x => { x with nonce := none })

/-- A refusal time ends; the count of failures stays. -/
def execLockoutExpired (fn : Nat) (s : State) : Host.Outcome State Fault Refusal :=
  .next (s.mapSession fn fun x => { x with lockUntil := none })

end Sys2Proof.Machine
end

