-- ==== Sys2Proof/Machine/MgmtCmds.lean ====
section
/-!
DEFINITION. Machine/MgmtCmds.lean: the management port (R159 to R166): the I3C target and its register window, MCTP control
messages, vendor control requests and MG_AUTH, and PLDM firmware update with its mapping onto the update (R527).
-/
namespace Sys2Proof.Machine
open Sys2Proof

/-! ### The register window (R160) -/

def bit (b : Bool) (k : Nat) : Nat := if b then 2 ^ k else 0

/-- DEV_POWER. -/
def State.powerWord (s : State) : BitVec 64 :=
  let p := s.power
  BitVec.ofNat 64 (p.vinMv % 65536 * 2 ^ 16 + bit p.vbatOk 11 + bit p.pfHold 10 + bit p.nvOk 9 + bit p.pwrfailHigh 8
    + p.vinTier % 4 * 4 + s.effTier % 4)

/-- DEV_BOOT. -/
def State.bootWord (s : State) : BitVec 64 :=
  let b := s.boot
  BitVec.ofNat 64 (b.marginalCnt % 256 * 2 ^ 40 + bit b.timeValid 35 + bit b.islandLost 34 + bit b.countersLost 33
    + bit b.recovery 32 + b.detail.toNat * 2 ^ 16 + b.code.toNat)

/-- The bytes of the window. -/
def State.mgWindow (s : State) : Bytes :=
  leBytes 8 s.devId.toNat ++ leBytes 8 s.bootWord.toNat ++ leBytes 8 s.powerWord.toNat
    ++ leBytes 8 (s.thermal.word s.thermal.mgPeak).toNat ++ leBytes 8 s.mgmt.alert.toNat

/-- The keeper answers on the management port. -/
def State.i3cUp (s : State) : Bool := s.power.vinValid

/-- A first byte from 0x80 to 0xBF sets the pointer; any other begins an MCTP packet. -/
def execMgPointerWrite (byte : BitVec 8) (s : State) : Host.Outcome State Fault Refusal :=
  .next (if s.i3cUp ∧ 0x80#8 ≤ byte ∧ byte ≤ 0xBF#8 then s.mapMgmt fun m => { m with ptr := byte.toNat % 64 * 8 } else s)

/-- A private read of up to the maximum read length; it clears the port's own TJ_PEAK where it returns it. -/
def execMgRegisterRead (len : Nat) (s : State) : Host.Outcome State Fault Refusal :=
  .next (if s.i3cUp = false then s
    else
      let n := min len s.mgmt.mrl
      let p := s.mgmt.ptr
      let data := slice (s.mgWindow ++ zeros (p + n)) p n
      let s1 := s.emit (.i3c data)
      if p ≤ 0x1A ∧ 0x1A < p + n then s1.mapThermal fun t => { t with mgPeak := 0 } else s1)

/-- A write to MG_ALERT with its pointer byte: bits written 1 clear. -/
def execMgAlertWrite (value : BitVec 64) (s : State) : Host.Outcome State Fault Refusal :=
  .next (if s.i3cUp then s.mapMgmt fun m => { m with ptr := 0x20, alert := m.alert &&& ~~~ (value.truncate 4) } else s)

/-! ### Common command codes (R159) -/

/-- ENTDAA gives an address to a target that has none. -/
def execEntdaa (addr : BitVec 7) (s : State) : Host.Outcome State Fault Refusal :=
  .next (if s.i3cUp ∧ s.mgmt.dynAddr = none then s.mapMgmt fun m => { m with dynAddr := some addr } else s)

/-- SETDASA names the static address 0x3A. -/
def execSetdasa (static addr : BitVec 7) (s : State) : Host.Outcome State Fault Refusal :=
  .next (if s.i3cUp ∧ static = 0x3A#7 ∧ s.mgmt.dynAddr = none then s.mapMgmt fun m => { m with dynAddr := some addr } else s)

def execRstdaa (s : State) : Host.Outcome State Fault Refusal :=
  .next (if s.i3cUp then s.mapMgmt fun m => { m with dynAddr := none } else s)

def execEnec (s : State) : Host.Outcome State Fault Refusal :=
  .next (if s.i3cUp then s.mapMgmt fun m => { m with ibiOn := true } else s)

def execDisec (s : State) : Host.Outcome State Fault Refusal :=
  .next (if s.i3cUp then s.mapMgmt fun m => { m with ibiOn := false } else s)

/-- At most 1,024 bytes. -/
def execSetmwl (len : Nat) (s : State) : Host.Outcome State Fault Refusal :=
  .next (if s.i3cUp then s.mapMgmt fun m => { m with mwl := min len 1024 } else s)

def execSetmrl (len : Nat) (s : State) : Host.Outcome State Fault Refusal :=
  .next (if s.i3cUp then s.mapMgmt fun m => { m with mrl := min len 1024 } else s)

/-- Answer a GET code: they are directed at a dynamic address. -/
def State.i3cAnswer (s : State) (data : Bytes) : State := if s.i3cUp && s.i3cMode then s.emit (.i3c data) else s

/-- The 48-bit provisional ID, most significant byte first: bits [31:16] are the part number; the other bits the spec does
not give. -/
def execGetpid (s : State) : Host.Outcome State Fault Refusal :=
  .next (s.i3cAnswer ([Config.i3cByte 1 0, Config.i3cByte 1 1] ++ (leBytes 2 s.part).reverse ++ [Config.i3cByte 1 2, Config.i3cByte 1 3]))

def execGetbcr (s : State) : Host.Outcome State Fault Refusal := .next (s.i3cAnswer [0x06])

def execGetdcr (s : State) : Host.Outcome State Fault Refusal := .next (s.i3cAnswer [0x00])

/-- GETSTATUS: two bytes the spec does not give. -/
def execGetstatus (s : State) : Host.Outcome State Fault Refusal := .next (s.i3cAnswer [Config.i3cByte 2 0, Config.i3cByte 2 1])

/-- Most significant byte first. -/
def execGetmwl (s : State) : Host.Outcome State Fault Refusal := .next (s.i3cAnswer (leBytes 2 s.mgmt.mwl).reverse)

/-- The length, then the in-band interrupt payload size, which the spec does not give. -/
def execGetmrl (s : State) : Host.Outcome State Fault Refusal :=
  .next (s.i3cAnswer ((leBytes 2 s.mgmt.mrl).reverse ++ [Config.i3cByte 3 0]))

/-- GETMXDS: two bytes the spec does not give. -/
def execGetmxds (s : State) : Host.Outcome State Fault Refusal := .next (s.i3cAnswer [Config.i3cByte 4 0, Config.i3cByte 4 1])

/-! ### MCTP (R162, R163) -/

/-- The PCIe VDM binding carries messages: link up, PF in D0. -/
def State.vdmUp (s : State) : Bool := s.boot.link = .up && !s.boot.cut && !(s.fn 0).d3hot

/-- The keeper serves MCTP on the I3C binding: not from its boot ROM alone, and not in I2C mode, where only register access
is served (R159, R160, R163). -/
def State.i3cMctp (s : State) : Bool := s.i3cUp && s.i3cMode && !s.boot.keeperRomOnly

/-- MCTP control messages are answered on a binding. -/
def State.mctpUp (s : State) : Binding → Bool
  | .i3c => s.i3cMctp
  | .vdm => s.vdmUp && s.fwRunning

/-- SPDM and vendor messages reach the firmware. -/
def State.msgUp (s : State) : Binding → Bool
  | .i3c => s.i3cMctp && s.fwRunning
  | .vdm => s.vdmUp && s.fwRunning

/-- PLDM reaches the firmware, or in loader-only recovery the loader. -/
def State.pldmUp (s : State) (b : Binding) : Bool :=
  (match b with | .i3c => s.i3cMctp | .vdm => s.vdmUp) && (s.fwRunning || (s.boot.mode = .loaderOnly && s.boot.stage = .loader))

/-- The message types supported. -/
def mctpTypes : Bytes := [0x00, 0x01, 0x05, 0x06, 0x7E]

/-- Answer a control message with a completion code and data. -/
def State.mctpAnswer (s : State) (b : Binding) (data : Bytes) : State := if s.mctpUp b then s.mctpSend b 0x00 data else s

/-- Set Endpoint ID; 0x00 and 0xFF are no EIDs and change nothing. -/
def execSetEndpointId (b : Binding) (eid : BitVec 8) (s : State) : Host.Outcome State Fault Refusal :=
  .next (if s.mctpUp b = false then s
    else if eid = 0 ∨ eid = 0xFF then s.mctpAnswer b [0x02]
    else (s.mctpAnswer b [0x00, 0x00, eid, 0x00]).mapMgmt fun m =>
      match b with
      | .i3c => { m with eidI3c := eid }
      | .vdm => { m with eidVdm := eid })

/-- The EID of a binding. -/
def Mgmt.eid (m : Mgmt) : Binding → BitVec 8
  | .i3c => m.eidI3c
  | .vdm => m.eidVdm

def execGetEndpointId (b : Binding) (s : State) : Host.Outcome State Fault Refusal :=
  .next (s.mctpAnswer b [0x00, s.mgmt.eid b, 0x00, 0x00])

/-- The versions of a supported type are those of its standard. -/
def execGetMctpVersionSupport (b : Binding) (msgType : BitVec 8) (s : State) : Host.Outcome State Fault Refusal :=
  .next (s.mctpAnswer b (if mctpTypes.contains msgType then 0x00 :: (List.range 4).map (Config.i3cByte (16 + msgType.toNat))
    else [0x80]))

def execGetMessageTypeSupport (b : Binding) (s : State) : Host.Outcome State Fault Refusal :=
  .next (s.mctpAnswer b ([0x00, 0x05] ++ mctpTypes))

/-- One vendor, PCI ID 0x1F6E; the command-set version the spec does not give. -/
def execGetVendorMsgSupport (b : Binding) (s : State) : Host.Outcome State Fault Refusal :=
  .next (s.mctpAnswer b [0x00, 0xFF, 0x00, 0x1F, 0x6E, Config.i3cByte 5 0, Config.i3cByte 5 1])

/-! ### Vendor messages (R164, R165) -/

/-- A message on this channel is readable: in the clear, or secured for the session on the binding it was set up on; any
other is dropped (R162, R164). -/
def State.hears (s : State) (ch : Channel) : Bool := !ch.secured || (s.mgmt.spdm ≠ .none && ch.binding = s.mgmt.secOn)

/-- A message on this channel belongs to the management session: its proof has passed, and the message came secured in that
session (R164). -/
def State.inSession (s : State) (ch : Channel) : Bool := s.mgmt.session.isOpen && ch.secured

/-- A vendor message of the device: PCI vendor ID, kind, content. -/
def State.vendor (s : State) (b : Binding) (kind : BitVec 8) (data : Bytes) : State :=
  s.mctpSend b 0x7E ([0x1F, 0x6E, kind] ++ data)

/-- A control request: refused with NOT_AUTHORISED outside a management session, an attack where malformed (R205), else taken
as an entry of its own queue. A message whose input is not the entry's is no request (log row 7). -/
def execMgControlRequest (ch : Channel) (entry input : Bytes) (s : State) : Host.Outcome State Fault Refusal :=
  let e := Entry.ofBytes entry
  .next (if s.msgUp ch.binding = false ∨ s.hears ch = false ∨ s.boot.lockdown ∨ entry.length ≠ 64 ∨ input.length ≠ e.inLen.toNat ∨ 4096 < input.length then s
    else if s.inSession ch = false then
      s.vendor ch.binding 0x02 (completionBytes e.cmdId st.notAuthorised 0 0 0 0 0)
    else match s.malformedKind .mgmt e with
      | some k => s.malformed .mgmt k 0
      | none => s.linkEntry .mgmt e input (ch.binding = .vdm))

/-- A nonce for the proof, within a secured session and once the DRBGs are ready. -/
def execMgAuthNonceRequest (ch : Channel) (s : State) : Host.Outcome State Fault Refusal :=
  .next (if s.msgUp ch.binding = false ∨ s.hears ch = false ∨ ch.secured = false ∨ s.mgmt.spdm ≠ .established ∨ s.ent.state ≠ .ready then s
    else (s.issueNonce 255).vendor ch.binding 0x03 (s.freeNow 32))

/-- The proof, under the rules of SESSION_OPEN step 1 with function number 0xFF; a failed attempt sets SESSION_FAIL. A
method the credential does not take is no attempt. -/
def execMgAuthProof (ch : Channel) (method : Nat) (proof : Bytes) (s : State) : Host.Outcome State Fault Refusal :=
  let answer (s : State) (e : Status) (r : BitVec 64) : State := s.vendor ch.binding 0x04 (leBytes 2 e.toNat ++ leBytes 8 r.toNat)
  .next (if s.msgUp ch.binding = false ∨ s.hears ch = false ∨ ch.secured = false ∨ s.mgmt.spdm ≠ .established then s
    else if s.methodOk 255 method = false then answer s st.badField 1
    else match s.prove 255 method proof with
      | (e, r, t) =>
        answer (if e = st.ok ∨ e = st.notAuthorised ∨ e = st.stateRefused then t else t.setAlert 3) e r)

/-! ### PLDM firmware update (R166, R527) -/

/-- A PLDM command is served: dropped where no one listens, refused with ERROR outside a management session except in
recovery mode (R163, R164). -/
def State.pldm (s : State) (ch : Channel) (cmd : Nat) (run : State → State) : State :=
  if s.pldmUp ch.binding = false ∨ s.hears ch = false then s
  else if s.inSession ch || s.boot.recovery then run s
  else s.pldmSend ch.binding cmd 1 []

/-- Management holds the lock below stage 5. -/
def State.mgmtHolds (s : State) : Bool := s.upd.holder = .mgmt && decide (s.upd.stage.num < 5)

/-- A PLDM command set as a bit map of `n` bytes. -/
def bitMask (n : Nat) (set : List Nat) : Bytes := leBytes n ((set.map (2 ^ ·)).sum)

/-- The commands of a PLDM type the device serves: the DSP0240 base, and firmware update (R166). -/
def pldmCommands : Nat → List Nat
  | 0 => [1, 2, 3, 4, 5]
  | 5 => [0x01, 0x02, 0x10, 0x13, 0x14, 0x15, 0x16, 0x17, 0x18, 0x1A, 0x1B, 0x1C, 0x1D]
  | _ => []

/-- A response of the DSP0240 base: type 0, command, completion code, data. -/
def State.pldmBase (s : State) (ch : Channel) (cmd : BitVec 8) (data : Bytes) : State :=
  if s.pldmUp ch.binding = false ∨ s.hears ch = false then s else s.mctpSend ch.binding 0x01 ([0x00, cmd] ++ data)

/-- A PLDM inquiry (R166): QueryDeviceIdentifiers of the firmware-update type, or a command of the DSP0240 base, which is
no firmware-update command and so needs no session. The opcode table has no row for the base's commands; they stand under
this one, in the standard's bytes (log row 94). -/
def execQueryDeviceIdentifiers (ch : Channel) (s : State) (what : PldmInquiry := .identifiers) : Host.Outcome State Fault Refusal :=
  .next (match what with
    | .identifiers => s.pldm ch 0x01 fun s => s.pldmSend ch.binding 0x01 0 (leBytes 2 0x1F6E ++ leBytes 2 s.part)
    | .setTid tid =>
      if s.pldmUp ch.binding = false ∨ s.hears ch = false then s
      else if tid = 0 ∨ tid = 0xFF then s.pldmBase ch 1 [0x02]
      else (s.mapMgmt fun m => { m with tid }).pldmBase ch 1 [0x00]
    | .getTid => s.pldmBase ch 2 [0x00, s.mgmt.tid]
    | .getVersion ty =>
      s.pldmBase ch 3 (if pldmCommands ty.toNat = [] then [0x83]
        else [0x00] ++ zeros 4 ++ [0x05] ++ (List.range 8).map (Config.i3cByte (512 + ty.toNat)))
    | .getTypes => s.pldmBase ch 4 ([0x00] ++ bitMask 8 [0, 5])
    | .getCommands ty =>
      s.pldmBase ch 5 (if pldmCommands ty.toNat = [] then [0x83] else [0x00] ++ bitMask 32 (pldmCommands ty.toNat)))

/-- The installed components, as DSP0267 frames them. -/
def execGetFirmwareParameters (ch : Channel) (s : State) : Host.Outcome State Fault Refusal :=
  let ins := [s.upd.slot.take 4096, s.upd.microCur.take 4096, s.upd.polCur.take 4096]
  .next (s.pldm ch 0x02 fun s => s.pldmSend ch.binding 0x02 0 (Config.prim (.pldm 2) ins (Config.primCount (.pldm 2) ins)))

/-- RequestUpdate takes the lock in stage 0. The block size is the lesser of the offer and 64 KiB, in whole 4 KiB pieces
since each response is an UPDATE_BLOCK; an offer below 4 KiB serves none. -/
def execRequestUpdate (ch : Channel) (eid : BitVec 8) (maxTransfer : Nat) (s : State) : Host.Outcome State Fault Refusal :=
  .next (s.pldm ch 0x10 fun s =>
    if s.lockHeld then s.pldmSend ch.binding 0x10 0x81 []
    else if maxTransfer < 4096 then s.pldmSend ch.binding 0x10 0x8A []
    else
      ((s.mapUpd fun u => { u with holder := .mgmt, holderId := eid.toNat }).mapMgmt fun m =>
        { m with block := min maxTransfer 65536 / 4096 * 4096, comp := 0 }).pldmSend ch.binding 0x10 0 [])

/-- PassComponentTable checks COMPONENT: answer 0 where it may be updated, 1 where not. -/
def execPassComponentTable (ch : Channel) (component : Nat) (s : State) : Host.Outcome State Fault Refusal :=
  .next (s.pldm ch 0x13 fun s =>
    if s.mgmtHolds = false ∨ s.upd.stage ≠ .idle then s.pldmSend ch.binding 0x13 0x80 []
    else if 1 ≤ component ∧ component ≤ 3 ∧ s.componentOk component then
      (s.mapMgmt fun m => { m with comp := component }).pldmSend ch.binding 0x13 0 [0]
    else s.pldmSend ch.binding 0x13 0 [1])

/-- UpdateComponent acts as UPDATE_BEGIN with the header requested first; its checks' status and reason go with answer 1. -/
def execUpdateComponent (ch : Channel) (header : Bytes) (s : State) : Host.Outcome State Fault Refusal :=
  .next (s.pldm ch 0x14 fun s =>
    if s.mgmtHolds = false ∨ s.upd.stage ≠ .idle ∨ s.store.taking ≠ .nobody then s.pldmSend ch.binding 0x14 0x80 []
    else if header.length ≠ 4096 then s.pldmSend ch.binding 0x14 0x83 []
    else match s.beginFault 255 header with
      | some (c, r) => s.draw.pldmSend ch.binding 0x14 0 ([1] ++ leBytes 2 c.toNat ++ leBytes 1 r.toNat)
      | none =>
        if imgComponent header ≠ s.mgmt.comp then s.pldmSend ch.binding 0x14 0 [1] else s.beginUpdate header (.pldm ch.binding))

/-- A response to RequestFirmwareData is an UPDATE_BLOCK; with the last byte the transfer is complete, and the device
verifies and applies. -/
def execFirmwareDataResponse (ch : Channel) (offset : Nat) (data : Bytes) (readBackOk : Bool) (s : State) :
    Host.Outcome State Fault Refusal :=
  .next (s.pldm ch 0x15 fun s =>
    if s.mgmtHolds = false ∨ s.upd.stage ≠ .downloading then s.pldmSend ch.binding 0x15 0x80 []
    else if s.upd.blockFits offset data.length = false then s.pldmSend ch.binding 0x16 1 (leBytes 2 st.badField.toNat)
    else match s.stageBlock offset data with
      | none => s.pldmSend ch.binding 0x16 1 (leBytes 2 st.paramRejected.toNat ++ [7])
      | some t =>
        if t.upd.firstGap.isSome then t.requestData ch.binding
        else
          match (t.pldmSend ch.binding 0x16 0 []).verifyImage readBackOk with
          | (c, r, v) =>
            if c = st.ok then (v.pldmSend ch.binding 0x17 0 []).pldmSend ch.binding 0x18 0 []
            else v.pldmSend ch.binding 0x17 1 (leBytes 2 c.toNat ++ leBytes 8 r.toNat))

/-- ActivateFirmware acts as UPDATE_ACTIVATE with TIME 0. -/
def execActivateFirmware (ch : Channel) (s : State) : Host.Outcome State Fault Refusal :=
  .next (s.pldm ch 0x1A fun s =>
    if s.mgmtHolds = false then s.pldmSend ch.binding 0x1A 0x80 []
    else if s.upd.stage ≠ .verified then s.pldmSend ch.binding 0x1A 0x85 []
    else if s.canActivate then s.markDue.pldmSend ch.binding 0x1A 0 []
    else s.pldmSend ch.binding 0x1A 1 [])

/-- Stage, holder and component, which DSP0267 frames. -/
def execGetStatus (ch : Channel) (s : State) : Host.Outcome State Fault Refusal :=
  .next (s.pldm ch 0x1B fun s =>
    s.pldmSend ch.binding 0x1B 0 (leBytes 1 s.upd.stage.num ++ leBytes 1 s.upd.holder.num ++ leBytes 1 s.upd.component))

/-- UPDATE_CANCEL for PLDM (R526). -/
def State.pldmCancel (s : State) (ch : Channel) (cmd : Nat) : State :=
  if s.mgmtHolds = false then s.pldmSend ch.binding cmd 0x80 []
  else if s.updateOpen then s.cancelUpdate.pldmSend ch.binding cmd 0 []
  else s.pldmSend ch.binding cmd 0x84 []

def execCancelUpdateComponent (ch : Channel) (s : State) : Host.Outcome State Fault Refusal :=
  .next (s.pldm ch 0x1C fun s => s.pldmCancel ch 0x1C)

/-- CancelUpdate also leaves an update mode in which no component was begun. -/
def execCancelUpdate (ch : Channel) (s : State) : Host.Outcome State Fault Refusal :=
  .next (s.pldm ch 0x1D fun s =>
    if s.mgmtHolds ∧ s.upd.stage = .idle then s.dropUpdate.pldmSend ch.binding 0x1D 0 [] else s.pldmCancel ch 0x1D)

end Sys2Proof.Machine
end

