-- ==== Sys2Proof/Machine/PcieCmds.lean ====
section
/-!
DEFINITION. Machine/PcieCmds.lean: fundamental and function-level reset (R80 to R82, R156 to R158), the PCIe states of
a function (R143, R144, R155), MSI-X (R151), DMA errors (R154, R535) and the register map (R146 to R148).
-/
namespace Sys2Proof.Machine
open Sys2Proof

/-! ### PERST_N -/

/-- Jobs of PERST_N end without completions, and a record counts them (R82, R281). -/
def State.perstJobs (s : State) : State := (s.logEvent 0x0302 s.jobs.length).endJobs s.jobs

/-- What PERST_N resets whether or not LOCKDOWN is in force: functions, PWR_LIMIT, the link. A cut ends once ACTIVE is 0
again (R489). -/
def State.perstLink (s : State) : State :=
  let s1 := (s.resetFns).retier fun s => s.mapPower fun p => { p with tierFloor := 0 }
  s1.mapBoot fun b => { b with perstHigh := false, link := .down, cut := b.cut && s.flt.active }

/-- PERST_N falls outside LOCKDOWN (R80, R82, R432, R448). -/
def State.perstWarm (s : State) : State :=
  let s1 := ((s.perstJobs).spoilKeyStores false).endQueues fun _ => true
  let s2 := (s1.closeAllSessions).mapTables fun t => { t with curves := [], dxProgs := [], idxQueue := [] }
  (((s2.clearDru s.resetOwner).dropHostUpdate).perstLink)

/-- PERST_N falls in LOCKDOWN: the compute die restarts from fuse sensing with every hold asserted (R80, R81). -/
def State.perstLocked (s : State) : State :=
  let s1 := (s.mapBoot fun b => { b with lockdown := false }).guardReset
  ((s1.restartDie).perstLink).setCode 0x0003 (BitVec.ofNat 16 s.keeper.bootCount)

def execPerstAssert (s : State) : Host.Outcome State Fault Refusal :=
  .next (if s.boot.perstHigh = false then s
    else if !s.cdRunning then s.perstLink
    else if s.boot.lockdown then s.perstLocked else s.perstWarm)

/-- PERST_N rises: link training may begin (R76, R84). -/
def execPerstDeassert (s : State) : Host.Outcome State Fault Refusal :=
  .next (s.mapBoot fun b => { b with perstHigh := true })

/-! ### Function-level reset -/

/-- A function-level reset keeps Max_Payload_Size, as the PCIe base specification has it (PRESUMED, log row 93). -/
def CfgRegs.afterFlr (c : CfgRegs) : CfgRegs := { CfgRegs.atReset with maxPayload := c.maxPayload }

/-- The reset of one function (R156): a record, its jobs, its slots and streams, its session and its queues; the control
queues with the PF (R157). -/
def State.flrOne (s : State) (fn : Nat) : State :=
  let mine := s.jobs.filter fun j => j.q.hasRing && j.fn = fn
  let s1 := (s.logEvent 0x0301 (mine.length * 256 + fn)).endJobs mine
  let owned := (s1.store.slots.filter fun p => p.2.owner = fn).map Prod.fst
  let s2 := ((s1.mapStore fun o => o.spoilAll owned).mapTables fun t => t.freeStreams fun x => x.fn = fn).endQueues fun r =>
    r.hasRing && r.fn = fn
  s2.mapFn fn fun f => { FnState.atReset f.present with inFlr := true, cfg := f.cfg.afterFlr }

/-- The VFs that exist. -/
def State.vfs (s : State) : List Nat := ((List.range 65).drop 1).filter fun i => (s.fn i).present

/-- Clearing VF Enable (R143). -/
def State.clearVfs (s : State) : State :=
  s.vfs.foldl (fun s i => (s.flrOne i).mapFn i fun _ => FnState.atReset false) s

/-- A function-level reset of the PF also clears VF Enable, releases the DRU and a host-held update lock (R157, R432). -/
def State.flrPf (s : State) : State :=
  (((s.flrOne 0).clearVfs).mapDru fun d => { d.wipe .none with page := false }).dropHostUpdate

def execFlr (fn : Nat) (s : State) : Host.Outcome State Fault Refusal :=
  .next (if s.boot.link ≠ .up ∨ s.boot.cut ∨ (s.fn fn).present = false then s
    else if fn = 0 then s.flrPf else s.flrOne fn)

def execFlrComplete (fn : Nat) (s : State) : Host.Outcome State Fault Refusal :=
  .next (s.mapFn fn fun f => { f with inFlr := false })

/-- Setting VF Enable creates NumVFs VFs (R143), where the PF reports any (R77). -/
def execVfEnableSet (numVfs : Nat) (s : State) : Host.Outcome State Fault Refusal :=
  .next (if s.boot.link ≠ .up ∨ s.boot.cut ∨ s.boot.serviceReady = false ∨ s.totalVfs < numVfs ∨ s.vfs ≠ [] then s
    else ((List.range numVfs).map (· + 1)).foldl (fun s i => s.setFn i (FnState.atReset true)) s)

def execVfEnableClear (s : State) : Host.Outcome State Fault Refusal :=
  .next (if s.boot.link ≠ .up ∨ s.boot.cut then s else s.clearVfs)

/-- TRST_N low: the TAP alone is reset (R80); it then selects IDCODE, as the TAP's standard has it. -/
def execTapReset (s : State) : Host.Outcome State Fault Refusal :=
  .next (s.mapFlt fun f => { f with tapSelect := .idcode })

/-! ### D3hot and Bus Master Enable -/

def execD3hotEntry (fn : Nat) (s : State) : Host.Outcome State Fault Refusal :=
  .next (if (s.fn fn).present then s.mapFn fn fun f => { f with d3hot := true } else s)

/-- Back to D0: paused jobs go on, held completions are written (R144). -/
def execD0Return (fn : Nat) (s : State) : Host.Outcome State Fault Refusal :=
  let s1 := (s.mapFn fn fun f => { f with d3hot := false }).resumePaused
  .next (if (s.fn fn).d3hot = false then s else if s1.dmaUp fn then s1.writeHeld fn else s1)

/-- Bus Master Enable 0: the function's jobs end with DMA_FAULT at their next yield point, those that wait at once
(R155, R233). -/
def execBusMasterDisable (fn : Nat) (s : State) : Host.Outcome State Fault Refusal :=
  .next (if (s.fn fn).bme = false then s
    else (s.mapFn fn fun f => { f with bme := false }).orderStop (fun j => j.q.hasRing && j.fn = fn) st.dmaFault)

def execBusMasterEnable (fn : Nat) (s : State) : Host.Outcome State Fault Refusal :=
  let s1 := s.mapFn fn fun f => { f with bme := true }
  .next (if (s.fn fn).present = false then s else if s1.dmaUp fn then s1.writeHeld fn else s1)

/-! ### MSI-X (R151) -/

/-- Vectors in ascending order that may send their pending messages now. -/
def FnState.ready (f : FnState) : List Nat :=
  if f.msixEn && !f.fnMask then (f.pendVec.filter fun v => f.unmasked.contains v).mergeSort (· ≤ ·) else []

/-- Send the pending messages that nothing masks any longer, one for each vector. -/
def State.releaseVecs (s : State) (fn : Nat) : State :=
  (s.fn fn).ready.foldl (fun s v =>
    (s.mapFn fn fun f => { f with pendVec := f.pendVec.filter (· ≠ v) }).sendMsg fn v) s

/-- Vectors of a function (R149). -/
def vecCount (fn : Nat) : Nat := if fn = 0 then 2048 else 65

/-- Set or clear a vector's mask bit. -/
def State.maskVec (s : State) (fn v : Nat) (masked : Bool) : State :=
  if masked then s.mapFn fn fun f => { f with unmasked := f.unmasked.filter (· ≠ v) }
  else (s.mapFn fn fun f => { f with unmasked := if f.unmasked.contains v then f.unmasked else v :: f.unmasked }).releaseVecs fn

def execMsixUnmask (fn : Nat) (change : MsixChange) (s : State) : Host.Outcome State Fault Refusal :=
  .next (if (s.fn fn).present = false then s
    else match change with
      | .unmask v => if v < vecCount fn then s.maskVec fn v false else s
      | .enable => (s.mapFn fn fun f => { f with msixEn := true }).releaseVecs fn
      | .clearFnMask => (s.mapFn fn fun f => { f with fnMask := false }).releaseVecs fn)

/-! ### Configuration space (R77, R140 to R142, R144) -/

/-- System Page Size in bytes. -/
def State.pageBytes (s : State) : Nat := 4096 * (s.fn 0).cfg.pageSize.toNat

/-- Size of a function's BAR0 (R141, R142): 64 MiB, or 1 MiB scaled to the System Page Size when that is larger. -/
def State.barSize (s : State) (fn : Nat) : Nat := if fn = 0 then 0x4000000 else max 0x100000 s.pageBytes

/-- A 64-bit non-prefetchable BAR of `size` bytes as its two dwords read, from what was written to them. -/
def barWord (written : BitVec 64) (size : Nat) : BitVec 64 := (written &&& ~~~ (BitVec.ofNat 64 (size - 1))) ||| 4

/-- The low or the high dword of a 64-bit value. -/
def dword (v : BitVec 64) (high : Bool) : BitVec 32 := if high then (v >>> 32).truncate 32 else v.truncate 32

/-- Supported Page Sizes (R142). -/
def supportedPages : BitVec 32 := 0x553

/-- A capability field as it reads (R140 to R142, R144): the VFs have no SR-IOV capability and no Device Serial Number, and
an absent field reads zero. -/
def State.cfgField (s : State) (fn : Nat) (f : CfgField) : BitVec 32 :=
  let c := (s.fn fn).cfg
  let pf (v : BitVec 32) : BitVec 32 := if fn = 0 then v else 0
  match f with
  | .maxPayloadSupported => 2
  | .maxPayload => pf (c.maxPayload.zeroExtend 32)
  | .maxReadRequest => pf (c.maxRead.zeroExtend 32)
  | .timeoutRanges => 7
  | .completionTimeout => c.timeout.zeroExtend 32
  | .barLow => pf (dword (barWord c.bar (s.barSize 0)) false)
  | .barHigh => pf (dword (barWord c.bar (s.barSize 0)) true)
  | .vfBarLow => pf (dword (barWord c.vfBar (s.barSize 1)) false)
  | .vfBarHigh => pf (dword (barWord c.vfBar (s.barSize 1)) true)
  | .totalVfs => pf (BitVec.ofNat 32 s.totalVfs)
  | .initialVfs => pf (BitVec.ofNat 32 s.totalVfs)
  | .vfOffset => pf 1
  | .vfStride => pf 1
  | .supportedPageSizes => pf supportedPages
  | .systemPageSize => pf c.pageSize
  | .serialLow => pf (s.fz 0)
  | .serialHigh => pf (s.fz 1)
  | .noSoftReset => 1

/-- Replace a half of a 64-bit value. -/
def setHalf (old : BitVec 64) (v : BitVec 32) (high : Bool) : BitVec 64 :=
  if high then (old &&& 0xFFFFFFFF) ||| (v.zeroExtend 64 <<< 32) else (old &&& 0xFFFFFFFF00000000) ||| v.zeroExtend 64

/-- A write of a capability field: payload sizes to 512 bytes, read requests to 4,096, the timeout values of ranges A to C,
a page size among the supported ones while no VF exists (R140, R142); anything else is not taken. -/
def CfgRegs.put (c : CfgRegs) (f : CfgField) (v : BitVec 32) (vfs : Bool) : CfgRegs :=
  match f with
  | .maxPayload => if v.toNat ≤ 2 then { c with maxPayload := v.truncate 3 } else c
  | .maxReadRequest => if v.toNat ≤ 5 then { c with maxRead := v.truncate 3 } else c
  | .completionTimeout => if [0, 1, 2, 5, 6, 9, 10].contains v.toNat then { c with timeout := v.truncate 4 } else c
  | .barLow => { c with bar := setHalf c.bar v false }
  | .barHigh => { c with bar := setHalf c.bar v true }
  | .vfBarLow => { c with vfBar := setHalf c.vfBar v false }
  | .vfBarHigh => { c with vfBar := setHalf c.vfBar v true }
  | .systemPageSize =>
    if !vfs && (List.range 32).any (fun i => v = 1#32 <<< i) && v &&& supportedPages ≠ 0 then { c with pageSize := v } else c
  | _ => c

/-- Dwords of the configuration header (R141): identity, command, BARs, subsystem, no interrupt pin; the others are the PCIe
standard's. -/
def State.cfgWord (s : State) (fn off : Nat) : BitVec 32 :=
  if off = 0 then BitVec.ofNat 32 ((s.part + (if fn = 0 then 0 else 1)) * 65536 + 0x1F6E)
  else if off = 8 then 0x10800001
  else if off = 0x10 then s.cfgField fn .barLow
  else if off = 0x14 then s.cfgField fn .barHigh
  else if 0x18 ≤ off ∧ off ≤ 0x24 then 0
  else if off = 0x2C then s.fz 2
  else if off = 0x3C then 0
  else BitVec.ofNat 32 (Config.primCount .cfgSpace [leBytes 4 fn, leBytes 4 off, leBytes 4 s.totalVfs])

/-- A configuration request: retry status until it is served (R77); reads, and the writes that reach state of the function
(R140 to R145). Setting MSI-X Enable or clearing Function Mask sends what was pending (R151). A VF's Max_Payload_Size,
Max_Read_Request_Size and SR-IOV fields are the PF's. -/
def execConfigRequest (fn : Nat) (op : CfgOp) (s : State) : Host.Outcome State Fault Refusal :=
  if s.boot.link ≠ .up ∨ s.boot.cut ∨ (s.fn fn).present = false then .next s
  else if s.boot.serviceReady = false ∧ s.boot.loaderServes = false then .next (s.emit (.cfgRetry fn))
  else match op with
    | .read off => .next (s.emit (.cfgData fn (s.cfgWord fn off)))
    | .readField f => .next (s.emit (.cfgData fn (s.cfgField fn f)))
    | .setMemSpace on => .next (s.mapFn fn fun f => { f with mse := on })
    | .setMsix en mask => .next ((s.mapFn fn fun f => { f with msixEn := en, fnMask := mask }).releaseVecs fn)
    | .setField f v =>
      .next (if fn = 0 ∨ f = .completionTimeout then s.mapFn fn fun x => { x with cfg := x.cfg.put f v (s.vfs ≠ []) } else s)

/-! ### DMA (R154, R535) -/

/-- A completion entry that met an uncorrectable word is formed again: INTERNAL_ECC, RESULT 0, CYCLES 0. -/
def Job.reform (j : Job) : Job :=
  match j.ending with
  | some e => { j with written := if e.status = st.ok then e.out else j.written,
                       ending := some { status := st.internalEcc, result := 0, out := [], cycles := 0 } }
  | none => j

/-- A DMA request ends. Without an error its data arrives with the step that asked for it. -/
def execDmaCompletion (target : DmaTarget) (err : Option DmaErr) (addr : BitVec 64) (s : State) :
    Host.Outcome State Fault Refusal :=
  .next (match err with
    | none => s
    | some e =>
      let ecc : Bool := match e with | .internal _ => true | _ => false
      match target with
      | .ring r => if s.fetches r then s.ringError r e addr else s
      | .jobRead id =>
        match s.job? id with
        | some j =>
          if j.ended || !j.q.hasRing then s
          else ((((s.dmaError j.fn e addr).dropStream j).draw).fail j (DmaErr.status e)
            (Config.freeNat s.freeCtr))
        | none => s
      | .jobWrite id =>
        match s.job? id with
        | some j =>
          if j.ended || !j.q.hasRing || !ecc then s
          else ((((s.dmaError j.fn e addr).dropStream j).draw).fail j st.internalEcc (Config.freeNat s.freeCtr))
        | none => s
      | .completion id =>
        match s.job? id with
        | some j =>
          if !j.ended || !j.q.hasRing || !ecc then s
          else (s.dmaError j.fn e addr).mapJob id Job.reform
        | none => s
      | .headWriteBack r =>
        if ecc ∧ r.hasRing ∧ (s.queue r).state ≠ .absent ∧ (s.queue r).index then (s.dmaError r.fn e addr).writeHead r
        else s)

/-! ### The register map (R146 to R148) -/

/-- A write of `value` at an 8-byte register as the two halves see it: the bits written, and which bits those are. -/
structure RegWrite where
  bits : BitVec 64
  mask : BitVec 64
  deriving DecidableEq, Repr

/-- The write a naturally aligned 4-byte or 8-byte access makes (R148). -/
def regWrite (offset size : Nat) (value : BitVec 64) : Option RegWrite :=
  if size = 8 ∧ offset % 8 = 0 then some { bits := value, mask := BitVec.allOnes 64 }
  else if size = 4 ∧ offset % 8 = 0 then some { bits := value &&& 0xFFFFFFFF, mask := 0xFFFFFFFF }
  else if size = 4 ∧ offset % 8 = 4 then some { bits := value <<< 32, mask := 0xFFFFFFFF00000000 }
  else none

/-- A register value after a write of its bits. -/
def RegWrite.into (w : RegWrite) (old : BitVec 64) : BitVec 64 := (old &&& ~~~ w.mask) ||| w.bits

/-- A doorbell write (R178). -/
def State.writeDoorbell (s : State) (r : QRef) (v : BitVec 64) : State :=
  if (s.queue r).state = .absent then s.setAccess 1
  else
    let s1 := if v.getLsbD 48 then s.reportCq r (v.toNat / 2 ^ 32 % 65536) (v.getLsbD 49) else s
    if v.getLsbD 0 then s1.ringSq r else s1

/-- Q_MOD as a word. -/
def Queue.modWord (q : Queue) : BitVec 64 :=
  BitVec.ofNat 64 (q.modTime.toNat * 65536 + q.modCount.toNat * 256 + (if q.errNow then 1 else 0))

/-- Q_CFG as a word. -/
def Queue.cfgBits (q : Queue) : BitVec 64 :=
  BitVec.ofNat 64 (q.minShare * 2 ^ 40 + q.weight * 2 ^ 32 + q.cqLog * 2 ^ 24 + q.sqLog * 2 ^ 16
    + (if q.index then 256 else 0) + (if q.state = .absent then 0 else 1))

/-- A write into a queue's register set; the sets of job queues that do not exist take nothing (section Registers). -/
def State.writeQReg (s : State) (r : QRef) (off : Nat) (w : RegWrite) : State :=
  let q := s.queue r
  let there : Bool := q.state ≠ .absent
  if r.isJob && !there then s
  else if off = 0x00 then (if r.isJob then s else s.writeCfg r (w.into q.cfgBits))
  else if off = 0x30 then (if r.isJob || there then s else s.setQueue { q with sqBase := w.into q.sqBase &&& ~~~ 0xFFF })
  else if off = 0x38 then (if r.isJob || there then s else s.setQueue { q with cqBase := w.into q.cqBase &&& ~~~ 0xFFF })
  else if off = 0x40 then (if r.isJob || there then s else s.setQueue { q with idxAddr := w.into q.idxAddr &&& ~~~ 0x3F })
  else if off = 0x48 then
    (match r with
      | .admin fn => if w.bits.getLsbD 0 then s.restartAdmin fn (w.bits.getLsbD 1) else s
      | _ => s)
  else if off = 0x50 then
    let v := w.into q.modWord
    s.setQueue { q with modTime := (v >>> 16).truncate 16, modCount := (v >>> 8).truncate 8, errNow := v.getLsbD 0 }
  else if off = 0x58 then s.setQueue { q with evt := q.evt &&& ~~~ (w.bits.truncate 3) }
  else if off ≤ 0x28 then s
  else s.setAccess 0

/-- A DRU_CTRL write (R417). A 4-byte write of the upper half reaches no field (R148): it changes nothing, but needs ownership
like any other write (R420). -/
def State.writeDruCtrl (s : State) (w : RegWrite) : State :=
  let v := w.bits
  let claim := v.getLsbD 0
  let release := v.getLsbD 1
  let start := v.getLsbD 2
  let save := v.getLsbD 3
  let restore := v.getLsbD 4
  let sealedMode := v.getLsbD 5
  let alg : BitVec 4 := (v >>> 8).truncate 4
  let page := v.getLsbD 12
  let tag : BitVec 8 := (v >>> 16).truncate 8
  let count := ([claim, release, start, save].filter id).length
  let bad : Bool := decide (1 < count) || (!start && (alg ≠ 0 || sealedMode || restore)) || (!claim && tag ≠ 0)
  if w.mask.getLsbD 0 = false then s.druOwned .host id
  else if bad then
    if s.dru.owner = .host then (s.mapDru fun d => { d with page := page }).setDruErr druErr.badCmd
    else if claim then s.setDruErr druErr.badCmd else s.setDruErr druErr.notOwner
  else if claim then s.druClaimOp tag page
  else s.druCtrl .host page fun s =>
    if release then s.druReleaseOp else if start then (if restore then s.druRestoreOp sealedMode else s.druStartOp .host alg sealedMode)
    else if save then s.druSaveOp else s

/-- The bytes a write carries. -/
def RegWrite.bytes (w : RegWrite) : Bytes :=
  if w.mask = 0xFFFFFFFF then leBytes 4 w.bits.toNat
  else if w.mask = 0xFFFFFFFF00000000 then leBytes 4 (w.bits >>> 32).toNat
  else leBytes 8 w.bits.toNat

/-- A write into the DRU block; `off` is the byte offset in the block. -/
def State.writeDru (s : State) (off size : Nat) (w : RegWrite) : State :=
  let reg := off / 8 * 8
  if reg = 0x000 then s.writeDruCtrl w
  else if reg = 0x010 then s.druDataOp .host size w.bits
  else if reg = 0x018 then s.druLastOp .host size w.bits
  else if reg = 0x020 then (if off = 0x024 then s.druOwned .host id else s.druLastcntOp .host (w.bits.truncate 4))
  else if 0x200 ≤ reg ∧ reg ≤ 0x238 then s.druExpectOp (off - 0x200) w.bytes
  else if 0x400 ≤ reg ∧ reg ≤ 0x478 then s.druWindowOp (off - 0x400) w.bytes
  else if reg = 0x500 then s.mapDru fun d => { d with err := d.err &&& ~~~ (w.bits.truncate 10) }
  else if reg = 0x008 ∨ (0x100 ≤ reg ∧ reg ≤ 0x138) ∨ reg = 0x300 then s
  else s.setAccess 0

/-- A write into the MSI-X table of a function: address, data and mask bit of an entry. -/
def State.writeMsix (s : State) (fn off : Nat) (w : RegWrite) : State :=
  let v := off / 16
  let e := (s.fn fn).msixTab.get (0, 0) v
  if off % 16 < 8 then
    s.mapFn fn fun f => { f with msixTab := f.msixTab.set (0, 0) v (w.into e.1, e.2) }
  else
    let old : BitVec 64 := e.2.zeroExtend 64 ||| (if (s.fn fn).unmasked.contains v then 0 else 0x100000000)
    let new := w.into old
    (s.mapFn fn fun f => { f with msixTab := f.msixTab.set (0, 0) v (e.1, new.truncate 32) }).maskVec fn v (new.getLsbD 32)

/-- FN_SESSION: IDLE_CLOSED is W1C. -/
def State.clearIdle (s : State) (fn : Nat) (w : RegWrite) : State :=
  if w.bits.getLsbD 4 then s.mapSession fn fun x => { x with idleClosed := false } else s

/-- FN_DMA: FAULT is W1C. -/
def State.clearDmaFault (s : State) (fn : Nat) (w : RegWrite) : State :=
  if w.bits.getLsbD 0 then s.mapFn fn fun f => { f with dmaFault := false } else s

/-- The PF's DEV block. -/
def State.writeDev (s : State) (reg : Nat) (w : RegWrite) : State :=
  if reg = 0x20 then (if w.mask.getLsbD 0 then s.writePwrLimit w.bits else s)
  else if reg = 0x28 then
    (if w.bits.getLsbD 2 then s.mapThermal fun t => { t with throttleEvt := false } else s)
  else if reg = 0x40 then s.clearIdle 0 w
  else if reg = 0x48 then s.clearDmaFault 0 w
  else if reg ≤ 0x38 ∨ reg = 0x100 ∨ reg = 0x108 ∨ reg = 0x118 ∨ reg = 0x120 then s
  else s.setAccess 0

/-- Banks that R500 lists. -/
def bankListed (b : Nat) : Bool := b ≤ 6 || (8 ≤ b && b ≤ 72) || (256 ≤ b && b < 2304 + 65 * 64)

/-- The ENT, FLT, EVT, SIEVE and FUSE blocks: their flags are W1C, everything else is read only. -/
def State.writeFlags (s : State) (reg : Nat) (w : RegWrite) : State :=
  if reg = 0x300010 then s.mapEnt fun e => { e with evt := e.evt &&& ~~~ (w.bits.truncate 8) }
  else if reg = 0x400008 then s.mapFlt fun f => { f with evt := f.evt &&& ~~~ (w.bits.truncate 10) }
  else if reg = 0x400800 then s.mapFlt fun f => { f with access := f.access &&& ~~~ (w.bits.truncate 2) }
  else if reg = 0x500008 then
    s.guardly fun s => s.mapGuard fun g => { g with evt := g.evt &&& ~~~ (w.bits.truncate 9) }
  else if (0x300000 ≤ reg ∧ reg ≤ 0x300020) ∨ (0x400000 ≤ reg ∧ reg ≤ 0x400020) ∨ (0x400040 ≤ reg ∧ reg ≤ 0x400088)
      ∨ (0x400100 ≤ reg ∧ reg ≤ 0x400168) ∨ (0x410000 ≤ reg ∧ bankListed ((reg - 0x410000) / 32)) ∨ (0x500000 ≤ reg ∧ reg ≤ 0x500018)
      ∨ (0x500100 ≤ reg ∧ reg ≤ 0x500138) ∨ (0x600000 ≤ reg ∧ reg ≤ 0x600018) ∨ (0x610000 ≤ reg ∧ reg < 0x620000)
      ∨ (0x710000 ≤ reg ∧ reg ≤ 0x7100FF) then s
  else s.setAccess 0

/-- The PF doorbell register `v` (R176). -/
def pfDoorbell (v : Nat) : Option QRef :=
  if v = 0 then some (.admin 0) else if v ≤ 4 then some (.ctl (v - 1)) else if 6 ≤ v ∧ v ≤ 2047 then some (.job 0 (v - 5))
  else none

/-- A queue register or doorbell answers only where the queue's block does (R77, R250). -/
def State.whenUp (s : State) (r : QRef) (act : State → State) : State := if s.regsUp r then act s else s

/-- A write to PF BAR0 beyond the DEV block. -/
def State.writePf (s : State) (off size : Nat) (w : RegWrite) : State :=
  let reg := off / 8 * 8
  let fw (t : State) : State := if s.fwRunning then t else s
  if off < 0x100000 then
    match pfDoorbell ((reg - 0x10000) / 8) with
    | some r => s.whenUp r fun s => s.writeDoorbell r w.bits
    | none => fw (s.setAccess 0)
  else if off < 0x110000 then
    let n := (reg - 0x100000) / 0x100
    if n ≤ 3 then s.whenUp (.ctl n) fun s => s.writeQReg (.ctl n) (reg % 0x100) w else fw (s.setAccess 0)
  else if off < 0x200000 then
    let n := (reg - 0x110000) / 0x100
    let r : QRef := if n = 0 then .admin 0 else .job 0 n
    if n ≤ 2042 then s.whenUp r fun s => s.writeQReg r (reg % 0x100) w else fw (s.setAccess 0)
  else if off < 0x300000 then fw (s.writeDru (off - 0x200000) size w)
  else if 0x700000 ≤ off ∧ off < 0x708000 then fw (s.writeMsix 0 (reg - 0x700000) w)
  else fw (s.writeFlags reg w)

/-- A write to VF BAR0 (R147). -/
def State.writeVf (s : State) (fn off : Nat) (w : RegWrite) : State :=
  let reg := off / 8 * 8
  if s.fwRunning = false then s
  else if off < 0x208 then
    let r : QRef := if reg = 0 then .admin fn else .job fn (reg / 8)
    s.writeDoorbell r w.bits
  else if reg = 0x10000 then s.clearIdle fn w
  else if reg = 0x10008 then s.clearDmaFault fn w
  else if 0x20000 ≤ off ∧ off < 0x20000 + 0x100 * 65 then
    let n := (reg - 0x20000) / 0x100
    let r : QRef := if n = 0 then .admin fn else .job fn n
    s.writeQReg r (reg % 0x100) w
  else if 0x80000 ≤ off ∧ off < 0x80410 then s.writeMsix fn (reg - 0x80000) w
  else if 0x90000 ≤ off ∧ off < 0x90010 then s
  else s.setAccess 0

/-- The counters of a bank register that a read returns: all four, or the two of the 4-byte half it reads (R148). -/
def partCounters : ReadPart → List Nat
  | .whole => [0, 1, 2, 3]
  | .low => [0, 1]
  | .high => [2, 3]

/-- The read of an event-counter bank register: it returns its counters and clears those it returns (R15, R500). -/
def State.readCounters (s : State) (bank reg : Nat) (part : ReadPart) : State :=
  if !bankListed bank then (s.setAccess 0).emit (.regData 0)
  else
    let at' (k : Nat) : Nat := 16 * bank + 4 * reg + k
    let v := (partCounters part).zipIdx.foldl (fun n (k, i) => n + s.flt.counts.get 0 (at' k) * 2 ^ (16 * i)) 0
    (s.mapFlt fun f => { f with counts := (partCounters part).foldl (fun m k => m.set 0 (at' k) 0) f.counts }).emit
      (.regData (BitVec.ofNat 64 v))

/-- The same as a command; before the firmware runs the block reads zero (R77). -/
def execEvtCounterRead (bank reg : Nat) (part : ReadPart) (s : State) : Host.Outcome State Fault Refusal :=
  .next (s.onBar 0 fun s =>
    if 3 < reg then s else if s.fwRunning then s.readCounters bank reg part else s.emit (.regData 0))

end Sys2Proof.Machine
end

