-- ==== Sys2Proof/Machine/QueueCmds.lean ====
section
/-!
DEFINITION. Machine/QueueCmds.lean: doorbells, fetching and the queue commands (R178 to R211), IDENTIFY and ABORT
(R236, R245, R246).
-/
namespace Sys2Proof.Machine
open Sys2Proof

/-! ### Doorbells and fetching -/

def execDoorbellSqRing (q : QRef) (s : State) : Host.Outcome State Fault Refusal :=
  .next (s.onQueue q fun s => s.ringSq q)

def execDoorbellCqReport (q : QRef) (cqHead : BitVec 16) (cqPhase : Bool) (s : State) : Host.Outcome State Fault Refusal :=
  .next (s.onQueue q fun s => s.reportCq q cqHead.toNat cqPhase)

/-- 100 µs after a phase mismatch the head is read again (R182). -/
def execSqRepoll (q : QRef) (s : State) : Host.Outcome State Fault Refusal :=
  .next (if (s.queue q).state = .running then s.mapQueue q fun x => { x with repoll := false } else s)

/-- SQ_TAIL is read once after a doorbell (R184); errors and bad contents are malformed (R203). -/
def execIndexBlockRead (q : QRef) (sqTail : BitVec 32) (rsvdZero : Bool) (err : Option DmaErr) (s : State) :
    Host.Outcome State Fault Refusal :=
  let x := s.queue q
  .next (if s.fetches q = false ∨ x.index = false ∨ x.ringPend = false then s
    else
      let s1 := (s.setQueue { x with ringPend := false }).readIn q.fn [(x.idxAddr, 64)]
      match err with
      | some e => s1.ringError q e x.idxAddr
      | none =>
        if x.n ≤ sqTail.toNat ∨ rsvdZero = false then s1.malformed q 3 x.head
        else s1.mapQueue q fun y => { y with tail := sqTail.toNat })

/-- Something may be fetched: no mismatch pending in phase mode, entries up to SQ_TAIL in index mode, room in the
buffer. -/
def Queue.wants (q : Queue) : Bool := decide (q.intake.length < 8) && (if q.index then q.head ≠ q.tail else !q.repoll)

/-- Entries one request reads from the head: up to eight, within Max_Read_Request_Size (R182), and, since a request is one
range of addresses, up to the end of the ring. -/
def State.fetchLen (s : State) (q : Queue) : Nat := min (min 8 (s.maxRead / 64)) (q.n - q.head)

def execSqFetch (q : QRef) (entries : List Bytes) (err : Option DmaErr) (s : State) : Host.Outcome State Fault Refusal :=
  let x := s.queue q
  .next (if s.fetches q = false ∨ x.wants = false then s
    else match err with
      | some e => (s.readIn q.fn [(x.headAddr, 64 * s.fetchLen x)]).ringError q e x.headAddr
      | none =>
        if entries.any fun b => b.length ≠ 64 then s
        else
          let s1 := (s.readIn q.fn [(x.headAddr, 64 * s.fetchLen x)]).takeRun q (entries.take (s.fetchLen x))
          if (s1.queue q).head = x.head then s1 else s1.writeHead q)

/-- TIME_US after the oldest completion not yet signalled (R191). -/
def execModTimerExpired (q : QRef) (s : State) : Host.Outcome State Fault Refusal :=
  let x := s.queue q
  .next (if x.state ≠ .absent ∧ 0 < x.unsignalled ∧ x.modTime ≠ 0 then s.signal q else s)

/-- A read of Q_SUBMITTED latches the four counters (R194); before the firmware serves the queue it reads zero (R77). -/
def execQSubmittedRead (q : QRef) (s : State) : Host.Outcome State Fault Refusal :=
  .next (s.onQueueRead q fun s => s.latchCounters q)

/-! ### Queues of the register sets (R210) -/

def execQueueEnable (q : QRef) (cfg : BitVec 64) (s : State) : Host.Outcome State Fault Refusal :=
  .next (s.onQueue q fun s => if q.isJob then s else s.writeCfg q (cfg ||| 1))

def execQueueDisable (q : QRef) (s : State) : Host.Outcome State Fault Refusal :=
  .next (s.onQueue q fun s => if q.isJob then s else s.disableQueue q)

def execAdminQueueRestart (fn : Nat) (skip : Bool) (s : State) : Host.Outcome State Fault Refusal :=
  .next (s.onQueue (.admin fn) fun s => s.restartAdmin fn skip)

/-! ### Queue commands (R206 to R209) -/

/-- The queue a job names at offset 8. -/
def Job.named (j : Job) : QRef := .job j.fn (j.entry.p 8 2)

/-- MIN_SHARE still available (R200). -/
def State.shareFree (s : State) : Nat := 192 - s.shareSum

/-- The queue QUEUE_CREATE makes. -/
def newQueue (r : QRef) (e : Entry) : Queue :=
  ({ Queue.atReset r with
      index := e.p 12 1 = 1, sqLog := e.p 10 1, cqLog := e.p 11 1, weight := e.p 13 1, minShare := e.p 14 1,
      sqBase := e.inAddr, cqBase := e.outAddr, idxAddr := BitVec.ofNat 64 (e.p 0 8), modTime := BitVec.ofNat 16 (e.p 16 2),
      modCount := BitVec.ofNat 8 (e.p 18 1), errNow := e.p 19 1 = 1 } : Queue).start

def execQueueCreate (j : Nat) (s : State) : Host.Outcome State Fault Refusal :=
  .next (s.runCmd j .queueCreate fun s j =>
    let q := s.queue j.named
    if s.shareFree < j.entry.p 14 1 then s.endWith j st.badField (14 + 65536 * s.shareFree) j.scCycles
    else if q.state ≠ .absent then s.finish j.id st.stateRefused (s.refusedWord j.fn q.state.num) [] j.scCycles
    else if 4096 ≤ s.jobQueues.length then s.endWith j st.slotBusy 4096 j.scCycles
    else (s.setQueue (newQueue j.named j.entry)).done j (j.entry.p 8 2) [] j.scCycles)

/-- ABORT commands whose marked target was returned undispatched end with OK and 4 (R236). -/
def State.wakeReturned (s : State) (q : QRef) (l : List Intake) : State :=
  s.mapJobs (fun j => j.phase = .barrier && l.any fun i => i.aborted && j.aborts = some (q, i.entry.cmdId)) fun j =>
    j.finish st.ok 4 [] j.scCycles

/-- QUEUE_DESTROY: DRAINING, the intake returned, with ABORT the jobs in flight stopped; QUEUE_DRAINED completes it. -/
def execQueueDestroy (j : Nat) (s : State) : Host.Outcome State Fault Refusal :=
  .next (s.runCmd j .queueDestroy fun s j =>
    let q := s.queue j.named
    if q.state ≠ .running ∧ q.state ≠ .error then
      s.finish j.id st.stateRefused (s.refusedWord j.fn q.state.num) [] j.scCycles
    else
      let s1 := ((s.setQueue (q.drain (some j.id))).wakeReturned j.named q.intake).mapJob j.id fun x =>
        { x with phase := .barrier, unit := none }
      if j.entry.p 10 1 = 1 then s1.orderStop (fun x => x.q = j.named) st.abortedQueueStop else s1)

/-- in_flight of a draining queue has reached 0: the queue is gone and its QUEUE_DESTROY ends (R208, R210). -/
def execQueueDrained (q : QRef) (s : State) : Host.Outcome State Fault Refusal :=
  let x := s.queue q
  .next (if x.state ≠ .draining ∨ x.inFlight ≠ 0 then s
    else
      let s1 := s.endQueue q
      match x.drainJob.bind s.job? with
      | some j => if j.phase = .barrier then s1.done j (x.retCount + 65536 * x.retIndex) [] j.scCycles else s1
      | none => s1)

def execQueueRestart (j : Nat) (s : State) : Host.Outcome State Fault Refusal :=
  .next (s.runCmd j .queueRestart fun s j =>
    let q := s.queue j.named
    let skip : Bool := j.entry.p 10 1 = 1
    if q.state ≠ .error then s.finish j.id st.stateRefused (s.refusedWord j.fn q.state.num) [] j.scCycles
    else if skip ∧ q.errKind ≠ 4 ∧ q.errKind ≠ 5 then s.endWith j st.badField 10 j.scCycles
    else (s.setQueue (q.restart skip)).done j 0 [] j.scCycles)

/-! ### IDENTIFY and ABORT -/

/-- Job queues a function can still create (R246). -/
def State.queuesFree (s : State) (fn : Nat) : Nat :=
  min (maxQid fn - (s.jobQueues.filter fun q => q.ref.fn = fn).length) (4096 - s.jobQueues.length)

/-- The IDENTIFY output (R246). -/
def State.identity (s : State) (fn : Nat) : Bytes :=
  leBytes 8 s.devId.toNat ++ leBytes 8 s.features.toNat ++ leBytes 8 devCompat.toNat ++ leBytes 1 fn
    ++ leBytes 1 s.boot.mode.num ++ leBytes 2 (s.queuesFree fn) ++ leBytes 1 s.shareFree ++ zeros 3
    ++ leBytes 2 (s.slotsOwned fn)
    ++ leBytes 2 (min 65535 (s.tables.streams.filter fun t => t.fn = fn).length) ++ zeros 28

def execIdentify (j : Nat) (s : State) : Host.Outcome State Fault Refusal :=
  .next (s.runCmd j .identify fun s j => s.done j 0 (s.identity j.fn) j.scCycles)

/-- ABORT gives up its unit and waits for its target (R236); `n` is what RESULT[7:0] will say. -/
def State.awaitTarget (s : State) (j : Job) (q : QRef) (id : BitVec 16) (n : Nat) : State :=
  s.mapJob j.id fun x => { x with phase := .barrier, unit := none, aborts := some (q, id), started := n }

def execAbort (j : Nat) (s : State) : Host.Outcome State Fault Refusal :=
  .next (s.runCmd j .abort fun s j =>
    let q : QRef := .job j.fn (j.entry.p 0 2)
    let id := BitVec.ofNat 16 (j.entry.p 2 2)
    let x := s.queue q
    if j.entry.p 0 2 = 0 ∨ x.state = .absent then s.done j 0 [] j.scCycles
    else if x.intake.any fun i => i.entry.cmdId = id then
      (s.mapQueue q fun y => { y with intake := y.intake.map fun i => if i.entry.cmdId = id then { i with aborted := true } else i }).awaitTarget
        j q id 1
    else match s.jobs.find? fun k => k.q = q && k.entry.cmdId = id with
      | some k =>
        if k.ended then s.awaitTarget j q id 3
        else (s.awaitTarget j q id 2).orderStop (fun x => x.id = k.id) st.abortedHost
      | none => s.done j 0 [] j.scCycles)

end Sys2Proof.Machine
end

