-- ==== Sys2Proof/Machine/Registers.lean ====
section
/-!
DEFINITION. Machine/Registers.lean: what the host reads from each register, by block and offset, as the register tables of
the chapters lay their fields out. A read of these changes nothing, so the table of commands has a row only for the
registers whose read has an effect (DEV_THERM, the event counters, Q_SUBMITTED, DRU_RESULT); this file gives every one its
word. Registers that are write only, and reserved bits, read as zero (R13).
-/
namespace Sys2Proof.Machine
open Sys2Proof

/-- A word from its fields: (value, lowest bit, width). -/
def regWord (fields : List (Nat × Nat × Nat)) : BitVec 64 :=
  BitVec.ofNat 64 ((fields.map fun f => f.1 % 2 ^ f.2.2 * 2 ^ f.2.1).sum)

/-- A flag as a field value. -/
def flag (b : Bool) : Nat := if b then 1 else 0

/-- A map of the members of a list as bits: member `k` of 64 × `word` onward is bit `k`. -/
def bitMap (word : Nat) (l : List Nat) : Nat := ((List.range 64).map fun k => if l.contains (64 * word + k) then 2 ^ k else 0).sum

/-! ### DEV -/

/-- DEV_STRAPS (R48, R49). -/
def State.strapsWord (s : State) : BitVec 64 :=
  let p := s.boot.straps
  regWord [(flag p.clkSel, 4, 1), (flag p.flvSel, 3, 1), (p.bootMode.toNat, 0, 2)]

/-- FN_SESSION of a function (R167 to R174). -/
def State.sessionWord (s : State) (fn : Nat) : BitVec 64 :=
  let x := s.session fn
  let left := if x.isOpen ∧ x.idleS ≠ 0 then x.idleS - (s.now - x.lastAccept) / 32768 else 0xFFFFFFFF
  regWord [(left, 32, 32), (s.lockLeft fn, 16, 16), (x.failCount, 8, 8), (flag x.idleClosed, 4, 1),
    ((s.keeper.cred fn).mode.toNat, 2, 2), (flag (s.nonceOf fn).isSome, 1, 1), (flag x.isOpen, 0, 1)]

/-- FN_DMA of a function (R154). -/
def State.dmaWord (s : State) (fn : Nat) : BitVec 64 :=
  let f := s.fn fn
  regWord [(f.dmaAddr.toNat, 12, 52), (f.dmaKind, 8, 4), (flag f.dmaFault, 0, 1)]

/-- Usable context indices that are not FREE (R261). -/
def State.allocated (s : State) : Nat := (s.keys.ctx.filter fun p => decide (16 ≤ p.1) && decide (p.2.state ≠ .free)).length

/-- DEV_CTX (R261, R271). -/
def State.ctxWord (s : State) : BitVec 64 :=
  regWord [(s.keeper.revJournal.length, 51, 13), (s.allocated, 22, 22), (s.ctxCount - 16 - s.allocated, 0, 22)]

/-- DEV_KEYS (R255, R279). -/
def State.keysWord (s : State) : BitVec 64 :=
  regWord [(8192 - s.keeper.slog.length - s.keeper.badLogRecs.length, 32, 14),
    (65536 - s.keys.imported.length, 0, 17)]

/-- Seconds until the lock expires or the confirmation deadline passes: ten minutes from the timer's start (R507, R518). -/
def State.timerLeft (s : State) : Nat :=
  if s.upd.stage = .downloading ∨ s.upd.stage = .verified ∨ s.upd.stage = .unconfirmed
  then 600 - (s.now - s.upd.timerFrom) / 32768 else 0

/-- DEV_UPDATE (R505 to R507, R520, R522). -/
def State.updateWord (s : State) : BitVec 64 :=
  let u := s.upd
  regWord [(s.timerLeft, 32, 16), (u.holderId, 24, 8), (u.holder.num, 20, 2), (u.component, 16, 4), (flag u.selftestOk, 9, 1),
    (flag u.restored, 8, 1), (u.stage.num, 0, 4)]

/-- The DEV block of the PF; DEV_TIME is R514's. -/
def State.readDev (s : State) (reg : Nat) : BitVec 64 :=
  if reg = 0x00 then s.devId
  else if reg = 0x08 then s.features
  else if reg = 0x10 then devCompat
  else if reg = 0x18 then s.powerWord
  else if reg = 0x20 then s.power.tierFloor.zeroExtend 64
  else if reg = 0x28 then s.thermal.word s.thermal.tjPeak
  else if reg = 0x30 then s.strapsWord
  else if reg = 0x38 then s.bootWord
  else if reg = 0x40 then s.sessionWord 0
  else if reg = 0x48 then s.dmaWord 0
  else if reg = 0x100 then s.ctxWord
  else if reg = 0x108 then s.keysWord
  else if reg = 0x118 then s.updateWord
  else if reg = 0x120 then BitVec.ofNat 64 s.platformTime
  else 0

/-! ### Queues -/

/-- Q_STATE (R203, R204, R210). -/
def Queue.stateWord (q : Queue) : BitVec 64 :=
  regWord [(q.errIndex, 48, 16), (q.errKind, 32, 8), (q.head, 16, 16), (flag (!q.index && q.expPhase), 2, 1), (q.state.num, 0, 2)]

/-- A queue's register set; the other counters are those that the last read of Q_SUBMITTED latched (R194). The set of a job
queue that does not exist reads zero. -/
def State.readQueue (s : State) (r : QRef) (reg : Nat) : BitVec 64 :=
  let q := s.queue r
  if r.isJob && decide (q.state = .absent) then 0
  else if reg = 0x00 then q.cfgBits
  else if reg = 0x08 then q.stateWord
  else if reg = 0x10 then q.cnt.submitted
  else if reg = 0x18 then q.latched.dispatched
  else if reg = 0x20 then q.latched.completed
  else if reg = 0x28 then q.latched.consumed
  else if reg = 0x30 then q.sqBase
  else if reg = 0x38 then q.cqBase
  else if reg = 0x40 then q.idxAddr
  else if reg = 0x50 then q.modWord
  else if reg = 0x58 then q.evt.zeroExtend 64
  else 0

/-! ### DRU, ENT -/

/-- DRU_STATUS as the host reads it (R417 to R432). The input buffer always has room: the model absorbs a word in the step
that writes it (log row 45). -/
def State.druStatus (s : State) : BitVec 64 :=
  let d := s.dru
  let owner := match d.owner with | .none => 0 | .host => 1 | .sc => 2
  regWord [(if d.owner = .host then d.tag.toNat else 0, 48, 8), (d.alg.toNat, 32, 4), (owner, 8, 2), (flag d.sealedMode, 6, 1),
    (flag d.saved, 5, 1), (flag d.done, 4, 1), (flag d.finishing, 3, 1), (flag d.active, 2, 1),
    (flag (d.active && !d.finishing), 1, 1), (flag (decide (d.owner = .sc)), 0, 1)]

/-- The DRU block but for RESULT and CMP, whose reads are commands: DRU_CTRL shows PAGE; the window shows its page (R429), and
zeros to a host that does not own the unit (R420). -/
def State.readDru (s : State) (reg : Nat) : BitVec 64 :=
  let d := s.dru
  if reg = 0x000 then regWord [(flag d.page, 12, 1)]
  else if reg = 0x008 then s.druStatus
  else if reg = 0x020 then d.lastCnt.zeroExtend 64
  else if 0x400 ≤ reg ∧ reg ≤ 0x478 then
    if d.owner ≠ .host then 0 else BitVec.ofNat 64 (leNat (slice d.window ((if d.page then 128 else 0) + (reg - 0x400)) 8))
  else if reg = 0x500 then d.err.zeroExtend 64
  else 0

/-- Pairs in a state, as a map. -/
def Entropy.pairMap (e : Entropy) (x : PairState) : Nat := bitMap 0 ((List.range 16).filter fun p => e.pairs.getD p .dropped = x)

/-- The ENT block (R434 to R448). -/
def State.readEnt (s : State) (reg : Nat) : BitVec 64 :=
  let e := s.ent
  if reg = 0x000 then
    regWord [(e.healthy, 16, 5), ((e.pairs.filter (· = .retired)).length, 8, 5), (e.state.num, 0, 2)]
  else if reg = 0x008 then regWord [(e.pairMap .retired, 32, 16), (e.pairMap .retest, 16, 16), (e.pairMap .healthy, 0, 16)]
  else if reg = 0x010 then e.evt.zeroExtend 64
  else if reg = 0x018 then regWord [(e.partner, 16, 8), (e.lastOsc, 8, 5), (e.lastTest, 0, 3)]
  else if reg = 0x020 then e.reseeds
  else 0

/-! ### FLT and EVT -/

/-- Fewest spares left in any bank (R493). -/
def State.spareMin (s : State) : Nat := s.flt.spares.foldl (fun m p => min m (64 - p.2)) 64

/-- The FLT and EVT block but for the event counters, whose reads are commands (R482 to R500). -/
def State.readFlt (s : State) (reg : Nat) : BitVec 64 :=
  let f := s.flt
  if reg = 0x000 then
    regWord [(f.lastCode, 40, 8), (f.majorCount, 16, 16), (flag f.rootPending.isSome, 5, 1), (flag s.boot.cut, 4, 1),
      (flag f.active, 3, 1)]
  else if reg = 0x008 then f.evt.zeroExtend 64
  else if reg = 0x010 then regWord [(s.spareMin, 32, 16), (f.retired, 0, 32)]
  else if reg = 0x018 then
    regWord [(bitMap 0 f.aes, 48, 16), (bitMap 0 f.macs, 32, 16), (f.cores.length, 22, 10), (f.lanes.length, 14, 8), (flag f.cbu, 0, 1)]
  else if reg = 0x020 then regWord [(s.logs.nextSeq, 32, 32), (s.logs.tamper.length, 16, 16), (s.logs.buffered.length, 0, 16)]
  else if reg = 0x040 ∨ reg = 0x048 then BitVec.ofNat 64 (bitMap ((reg - 0x040) / 8) f.lanes)
  else if 0x050 ≤ reg ∧ reg ≤ 0x088 then BitVec.ofNat 64 (bitMap ((reg - 0x050) / 8) f.cores)
  else if 0x100 ≤ reg ∧ reg ≤ 0x168 then
    let c := (reg - 0x100) / 8
    regWord [(classWindowMs c, 32, 32), (classThreshold c, 16, 8), (f.lasting.getD c 0, 0, 16)]
  else if reg = 0x800 then f.access.zeroExtend 64
  else 0

/-! ### SIEVE -/

/-- SIEVE_DOMd (R87, R88, R134). -/
def State.domWord (s : State) (d : Nat) : BitVec 64 :=
  let x := s.dom d
  regWord [(x.mfSvn, 32, 32), (x.failCode, 16, 8), (x.failRegion, 8, 8), (flag x.recovered, 5, 1),
    (flag (!s.guard.holdPins.getLsbD d), 4, 1), (x.state.num, 0, 4)]

/-- The SIEVE block (R92 to R135). -/
def State.readSieve (s : State) (reg : Nat) : BitVec 64 :=
  let g := s.guard
  let on (p : Port) : Bool := (g.policy.map fun x => (x.port p).enable).getD false
  if reg = 0x000 then
    regWord [(g.policySvn, 16, 16), (flag s.bypass, 7, 1), (g.portB.mode, 5, 2), (g.portA.mode, 3, 2), (flag (on .b), 2, 1),
      (flag (on .a), 1, 1), (flag g.policy.isSome, 0, 1)]
  else if reg = 0x008 then g.evt.zeroExtend 64
  else if reg = 0x010 then regWord [(g.leaves.length, 32, 32), (g.mirror.length, 16, 16), (s.mirrorCap, 0, 16)]
  else if reg = 0x018 then
    regWord [(g.lastBlock, 32, 16), (g.lastFail, 16, 8), (g.lastChip.toNat, 8, 8), (g.lastDom, 0, 3)]
  else if 0x100 ≤ reg ∧ reg ≤ 0x138 then s.domWord ((reg - 0x100) / 8)
  else 0

/-! ### FUSE -/

/-- FUSE_WORDi: regions 3 to 6 and read-locked regions read zero (R453, R460). -/
def State.fuseWord (s : State) (i : Nat) : BitVec 64 :=
  let r := regionOf i
  let x := s.fuses.shadowOf i
  if (3 ≤ r ∧ r ≤ 6) ∨ s.readLocked r then 0
  else regWord [(flag x.invalid, 34, 1), (flag x.marginal, 33, 1), (flag x.corrected, 32, 1), (x.data.toNat, 0, 32)]

/-- The FUSE block (R453 to R480). -/
def State.readFuse (s : State) (reg : Nat) : BitVec 64 :=
  let f := s.fuses
  let locks (p : Nat → Bool) : Nat := bitMap 0 ((List.range 15).filter p)
  if reg = 0x000 then regWord [(f.pattern.toNat, 16, 6), (f.epoch, 8, 3), (f.lc.num, 0, 8)]
  else if reg = 0x008 then regWord [(locks s.readLocked, 32, 15), (locks s.writeLocked, 0, 15)]
  else if reg = 0x010 then
    regWord [((f.shadow.filter fun p => p.2.invalid).length, 32, 16), (f.lastWord, 16, 16), (flag f.rolledFwd, 2, 1),
      (flag (s.sealed 8 f.epoch && s.sealed 13 f.epoch), 1, 1), (flag s.fuseBusy, 0, 1)]
  else if reg = 0x018 then
    regWord [(if s.rights = 0 then 0 else s.keeper.debugExpiry, 32, 32), (s.rights.toNat, 0, 32)]
  else if 0x10000 ≤ reg ∧ reg < 0x20000 then s.fuseWord ((reg - 0x10000) / 8)
  else 0

/-! ### MSI-X -/

/-- A word of a function's MSI-X table (R146, R147, R151): address, then data with the mask bit of vector control. -/
def State.readMsix (s : State) (fn off : Nat) : BitVec 64 :=
  let v := off / 16
  let e := (s.fn fn).msixTab.get (0, 0) v
  if off % 16 < 8 then e.1 else regWord [(flag (!(s.fn fn).unmasked.contains v), 32, 1), (e.2.toNat, 0, 32)]

/-- A word of the pending-bit array. -/
def State.readPba (s : State) (fn word : Nat) : BitVec 64 := BitVec.ofNat 64 (bitMap word (s.fn fn).pendVec)

/-! ### BAR0 -/

/-- The word at an aligned offset of PF BAR0 (R146); doorbells read zero (R178). Before the firmware runs only the DEV block
and the queues the ROM serves answer (R77, R250). -/
def State.readPf (s : State) (reg : Nat) : BitVec 64 :=
  let fw (v : BitVec 64) : BitVec 64 := if s.fwRunning then v else 0
  let ring (r : QRef) : BitVec 64 := if s.regsUp r then s.readQueue r (reg % 0x100) else 0
  if reg < 0x10000 then (if s.devUp then s.readDev reg else 0)
  else if reg < 0x100000 then 0
  else if reg < 0x110000 then (if (reg - 0x100000) / 0x100 ≤ 3 then ring (.ctl ((reg - 0x100000) / 0x100)) else 0)
  else if reg < 0x200000 then
    let n := (reg - 0x110000) / 0x100
    if n = 0 then ring (.admin 0) else if n ≤ 2042 then ring (.job 0 n) else 0
  else if reg < 0x300000 then fw (s.readDru (reg - 0x200000))
  else if reg < 0x400000 then fw (s.readEnt (reg - 0x300000))
  else if reg < 0x500000 then fw (s.readFlt (reg - 0x400000))
  else if reg < 0x600000 then fw (s.readSieve (reg - 0x500000))
  else if reg < 0x700000 then fw (s.readFuse (reg - 0x600000))
  else if reg < 0x708000 then fw (s.readMsix 0 (reg - 0x700000))
  else if 0x710000 ≤ reg ∧ reg < 0x710100 then fw (s.readPba 0 ((reg - 0x710000) / 8))
  else 0

/-- The word at an aligned offset of VF BAR0 (R147). -/
def State.readVf (s : State) (fn reg : Nat) : BitVec 64 :=
  if s.fwRunning = false then 0
  else if reg = 0x10000 then s.sessionWord fn
  else if reg = 0x10008 then s.dmaWord fn
  else if 0x20000 ≤ reg ∧ reg < 0x20000 + 0x100 * 65 then
    let n := (reg - 0x20000) / 0x100
    s.readQueue (if n = 0 then .admin fn else .job fn n) (reg % 0x100)
  else if 0x80000 ≤ reg ∧ reg < 0x80410 then s.readMsix fn (reg - 0x80000)
  else if 0x90000 ≤ reg ∧ reg < 0x90010 then s.readPba fn ((reg - 0x90000) / 8)
  else 0

/-- The half or the whole of a register that an aligned 4-byte or 8-byte access names; none for any other (R148). -/
def partOf (off size : Nat) : Option ReadPart :=
  if size = 8 ∧ off % 8 = 0 then some .whole
  else if size = 4 ∧ off % 8 = 0 then some .low
  else if size = 4 ∧ off % 8 = 4 then some .high
  else none

/-- The offsets of a queue's register set that name a register. -/
def qRegListed (off : Nat) : Bool := off ≤ 0x58

/-- A register offset of PF BAR0 that the layouts list (R146, R148); the rest is reserved. -/
def pfListed (reg : Nat) : Bool :=
  if reg < 0x10000 then reg ≤ 0x48 || reg = 0x100 || reg = 0x108 || reg = 0x118 || reg = 0x120
  else if reg < 0x100000 then (pfDoorbell ((reg - 0x10000) / 8)).isSome
  else if reg < 0x110000 then (reg - 0x100000) / 0x100 ≤ 3 && qRegListed (reg % 0x100)
  else if reg < 0x200000 then (reg - 0x110000) / 0x100 ≤ 2042 && qRegListed (reg % 0x100)
  else if reg < 0x300000 then
    let o := reg - 0x200000
    o ≤ 0x020 || (0x100 ≤ o && o ≤ 0x138) || (0x200 ≤ o && o ≤ 0x238) || o = 0x300 || (0x400 ≤ o && o ≤ 0x478) || o = 0x500
  else if reg < 0x400000 then reg ≤ 0x300020
  else if reg < 0x500000 then
    let o := reg - 0x400000
    o ≤ 0x020 || (0x040 ≤ o && o ≤ 0x088) || (0x100 ≤ o && o ≤ 0x168) || o = 0x800
      || (0x10000 ≤ o && bankListed ((o - 0x10000) / 32))
  else if reg < 0x600000 then reg ≤ 0x500018 || (0x500100 ≤ reg && reg ≤ 0x500138)
  else if reg < 0x700000 then reg ≤ 0x600018 || (0x610000 ≤ reg && reg < 0x620000)
  else reg < 0x708000 || (0x710000 ≤ reg && reg < 0x710100)

/-- The same for VF BAR0 (R147). -/
def vfListed (reg : Nat) : Bool :=
  reg < 0x208 || reg = 0x10000 || reg = 0x10008 || (0x20000 ≤ reg && reg < 0x20000 + 0x100 * 65 && qRegListed (reg % 0x100))
    || (0x80000 ≤ reg && reg < 0x80410) || (0x90000 ≤ reg && reg < 0x90010)

/-- The value an aligned access reads of the registers whose read has no effect (R148); nothing while the function does not
decode its BAR (R144, R145). -/
def State.regRead (s : State) (fn off size : Nat) : Option (BitVec 64) :=
  let f := s.fn fn
  if s.boot.link ≠ .up ∨ s.boot.cut ∨ f.present = false ∨ s.barSize fn ≤ off ∨ f.d3hot ∨ f.mse = false ∨ f.inFlr then none
  else match partOf off size with
    | some p => some (ReadPart.of p (if fn = 0 then s.readPf (off / 8 * 8) else s.readVf fn (off / 8 * 8)))
    | none => some 0

/-- The queue whose Q_SUBMITTED stands at an offset of a BAR0. -/
def submittedAt (fn reg : Nat) : Option QRef :=
  if reg % 0x100 ≠ 0x10 then none
  else if fn ≠ 0 then
    (if 0x20000 ≤ reg ∧ reg < 0x20000 + 0x100 * 65 then
      some (if (reg - 0x20000) / 0x100 = 0 then .admin fn else .job fn ((reg - 0x20000) / 0x100)) else none)
  else if 0x100000 ≤ reg ∧ reg < 0x100400 then some (.ctl ((reg - 0x100000) / 0x100))
  else if 0x110000 ≤ reg ∧ (reg - 0x110000) / 0x100 ≤ 2042 ∧ reg < 0x200000 then
    some (if (reg - 0x110000) / 0x100 = 0 then .admin 0 else .job 0 ((reg - 0x110000) / 0x100))
  else none

/-- A read of BAR0 with its effect (R15, R148): a bad size or alignment and a reserved offset read zero and are counted;
before the firmware runs, offsets beyond the DEV block read zero (R77). -/
def State.barReadOp (s : State) (fn off size : Nat) : State :=
  let reg := off / 8 * 8
  let served : Bool := s.fwRunning || (fn = 0 && reg < 0x10000 && s.devUp)
  let bad : Bool := (partOf off size).isNone || !(if fn = 0 then pfListed reg else vfListed reg)
  if bad then (if served then s.setAccess 0 else s).emit (.regData 0)
  else match submittedAt fn reg with
    | some r => if (partOf off size) = some .whole then s.onQueueRead r fun s => s.latchCounters r
                else (if s.regsUp r then s.setQueue { s.queue r with latched := (s.queue r).cnt } else s).emit
                  (.regData ((s.regRead fn off size).getD 0))
    | none =>
      let part := (partOf off size).getD .whole
      if fn = 0 ∧ reg = 0x28 then (if served then s.readTherm else s.emit (.regData 0))
      else if fn = 0 ∧ s.fwRunning ∧ 0x200100 ≤ reg ∧ reg ≤ 0x200138 then s.druReadOp (some ((reg - 0x200100) / 8)) part false
      else if fn = 0 ∧ s.fwRunning ∧ reg = 0x200300 then s.druReadOp none part false
      else if fn = 0 ∧ s.fwRunning ∧ 0x410000 ≤ reg ∧ reg < 0x500000 then
        s.readCounters ((reg - 0x410000) / 32) ((reg - 0x410000) % 32 / 8) part
      else s.emit (.regData ((s.regRead fn off size).getD 0))

/-- A memory write to a function's BAR0: dropped and counted for a bad size or alignment (R148); before the firmware runs
only the DEV block answers (R77). -/
def State.barWriteOp (s : State) (fn off size : Nat) (value : BitVec 64) : State :=
  match regWrite off size value with
  | none => if s.fwRunning || (fn = 0 && off < 0x10000 && s.devUp) then s.setAccess 0 else s
  | some w =>
    if fn ≠ 0 then s.writeVf fn off w
    else if off < 0x10000 then (if s.devUp then s.writeDev (off / 8 * 8) w else s)
    else s.writePf off size w

/-- A host access to a register with no row of its own, or a bad access (R148): unclaimed without Memory Space Enable,
refused in D3hot (R144, R145). -/
def execRegisterWrite (fn : Nat) (offset size : Nat) (access : BarAccess) (s : State) : Host.Outcome State Fault Refusal :=
  .next (if s.barSize fn ≤ offset then s
    else s.onBar fn fun s =>
      match access with
      | .write v => s.barWriteOp fn offset size v
      | .read => s.barReadOp fn offset size)

end Sys2Proof.Machine
end

