-- ==== Sys2Proof/Machine/SpdmCmds.lean ====
section
/-!
DEFINITION. Machine/SpdmCmds.lean: the SPDM responder (R136 to R139): connection, certificate slots, challenges,
measurements, the secured session and chunked transfer. Messages are recorded as response code and content; how DSP0274
frames them is the standard's. Error codes are DSP0274's.
-/
namespace Sys2Proof.Machine
open Sys2Proof

/-! ### Transport -/

/-- The responder takes a message of this channel. -/
def State.spdmUp (s : State) (ch : Channel) : Bool := s.msgUp ch.binding && s.hears ch

/-- An SPDM error. -/
def State.spdmFail (s : State) (ch : Channel) (code : Nat) : State := (s.emit (.spdmError ch code)).pend ch.binding

/-- An SPDM message. -/
def State.spdmSend (s : State) (ch : Channel) (data : Bytes) : State := (s.emit (.spdm ch data)).pend ch.binding

/-- A response with its request joins the messages seen; one longer than the requester takes waits for CHUNK_GET. -/
def State.respond (s : State) (ch : Channel) (msg data : Bytes) : State :=
  let s1 := s.mapMgmt fun m => { m with seen := m.seen ++ msg ++ data }
  if s1.mgmt.xfer ≠ 0 ∧ s1.mgmt.xfer < data.length then (s1.mapMgmt fun m => { m with reply := data }).spdmFail ch 0x0F
  else s1.spdmSend ch data

/-- A request that needs a connection state: UnexpectedRequest otherwise. -/
def State.spdmAt (s : State) (ch : Channel) (ok : Mgmt → Bool) (run : State → State) : State :=
  if s.spdmUp ch = false then s else if ok s.mgmt then run s else s.spdmFail ch 0x04

/-- After NEGOTIATE_ALGORITHMS. -/
def Mgmt.talks (m : Mgmt) : Bool := m.conn = .negotiated

/-- A message of the secured session once its handshake is done. -/
def Mgmt.secured (ch : Channel) (m : Mgmt) : Bool := m.spdm = .established && ch.secured

/-- The secured session ends, and with it the management session (R164). -/
def State.endSecured (s : State) : State :=
  s.mapMgmt fun m => { m with spdm := .none, session := m.session.shut, reqKey := [], rspKey := [] }

/-! ### Certificates (R137) -/

/-- A slot is present. -/
def State.slotHere (s : State) (slot : Nat) : Bool :=
  s.keeper.cert0 ≠ [] && (slot = 0 || (slot = 1 && s.fuses.lc = .mission && s.aliasUsable 3))

/-- The private scalar of an internal P-384 key: d = (t mod (n − 1)) + 1 (R137). -/
def p384Scalar (t : Bytes) : Nat := weierScalar p384.n t

/-- The public key over a P-384 scalar. -/
def p384Pk (d : Nat) : Bytes := encodePoint 48 (p384.mul d p384.base)

/-- The epoch certificate the device issues, signed with ATK, for the ATKO public key. -/
def State.epochCert (s : State) : Bytes :=
  let ins := [beBytes 48 (p384Scalar s.atk), p384Pk (p384Scalar s.atko), leBytes 8 s.deviceId, leBytes 1 s.fuses.epoch, leBytes 1 s.fuses.lc.num,
              Config.ascii "99991231235959Z"]
  Config.prim .x509 ins (Config.primCount .x509 ins)

/-- The first DER object of a string: its tag, its length in short or long form, its content. -/
def firstDer (b : Bytes) : Bytes :=
  let n := fieldAt b 1 1
  if n < 128 then b.take (2 + n) else b.take (2 + (n - 128) + leNat (slice b 2 (n - 128)).reverse)

/-- A certificate chain as DSP0274 frames it: the length of the whole in two bytes, two reserved bytes, the digest of the
root certificate, and the certificates (R137; the frame is the standard's, log row 62). -/
def chainFrame (certs : Bytes) : Bytes := leBytes 2 (52 + certs.length) ++ zeros 2 ++ Config.sha384 (firstDer certs) ++ certs

/-- The chain of a slot. -/
def State.chainOf (s : State) (slot : Nat) : Bytes :=
  chainFrame (if slot = 0 then s.keeper.cert0 else s.keeper.cert0 ++ s.epochCert)

/-- A signature with the key of a slot, with its attempts: ECDSA P-384 over SHA-384 of the transcript, which DSP0274 makes of the messages
seen, the request and the response so far. -/
def State.spdmTry (s : State) (slot : Nat) (msg body : Bytes) : Nat × Nat × Nat :=
  let tr := Config.prim (.spdm 0x105) [s.mgmt.seen, msg, body] (Config.primCount (.spdm 0x105) [s.mgmt.seen, msg, body])
  s.ecdsaTry p384 (p384Scalar (if slot = 0 then s.atk else s.atko)) false 0 (Config.sha384 tr)

/-- Its r ‖ s. -/
def State.spdmSig (s : State) (slot : Nat) (msg body : Bytes) : Bytes :=
  let r := s.spdmTry slot msg body
  encodeSig 48 r.2.1 r.2.2

/-- A signed response: InvalidRequest for an absent slot, Busy until the DRBGs are ready. -/
def State.signed (s : State) (ch : Channel) (slot : Nat) (msg body : Bytes) (run : State → State) : State :=
  if s.slotHere slot = false then s.spdmFail ch 0x01
  else if s.ent.state ≠ .ready then s.spdmFail ch 0x03
  else run ((s.scDraw.drawMany (s.spdmTry slot msg body).1).respond ch msg (body ++ s.spdmSig slot msg body))

/-! ### Connection (R136) -/

/-- GET_VERSION begins a connection anew: versions 1.2 and 1.3. -/
def execGetVersion (msg : Bytes) (s : State) (ch : Channel := default) : Host.Outcome State Fault Refusal :=
  .next (if s.spdmUp ch = false then s
    else
      ((s.endSecured).mapMgmt fun m => { m with conn := .version, chunk := [], reply := [], seen := [], xfer := 0 }).respond ch msg
        [0x04, 0x12, 0x13])

/-- CAPABILITIES after its version and code: CTExponent, the flags of what R136 supports (certificates, challenge, signed
measurements taken afresh, encryption and MAC of sessions, key exchange, heartbeat, key update, chunks), the device's own
transfer size and the 68 KiB of R162. The places are DSP0274's (log row 62); the exponent and the transfer size are open. -/
def capabilities : Bytes :=
  zeros 3 ++ [Config.i3cByte 6 0] ++ zeros 2 ++ leBytes 4 ([1, 2, 4, 5, 6, 7, 9, 13, 14, 17].map (2 ^ ·)).sum
    ++ leBytes 4 (Config.primCount (.spdm 0x61) []) ++ leBytes 4 69632

/-- GET_CAPABILITIES carries the requester's DataTransferSize at offset 12. -/
def execGetCapabilities (msg : Bytes) (s : State) (ch : Channel := default) : Host.Outcome State Fault Refusal :=
  .next (s.spdmAt ch (fun m => m.conn = .version) fun s =>
    (s.mapMgmt fun m => { m with conn := .capabilities, xfer := fieldAt msg 12 4 }).respond ch msg (0x61 :: capabilities))

/-- Bits DSP0274 gives the options of R136: ECDSA P-384, SHA-384, secp384r1, AES-256-GCM, the SPDM key schedule. -/
def algEcdsaP384 : Nat := 0x80
def algSha384 : Nat := 0x02
def dheSecp384r1 : Nat := 0x10
def aeadAes256Gcm : Nat := 0x02
def spdmKeySchedule : Nat := 0x01

/-- A structure table of NEGOTIATE_ALGORITHMS offers a bit under a type: four bytes each, the type first, the bits in the
last two. -/
def offersIn (tables : Bytes) : Nat → Nat → Nat → Bool
  | 0, _, _ => false
  | n + 1, ty, bits =>
    (fieldAt tables 0 1 = ty && decide (Nat.land (fieldAt tables 2 2) bits = bits)) || offersIn (tables.drop 4) n ty bits

/-- NEGOTIATE_ALGORITHMS offers every option the device takes (R136). The places are DSP0274's: base algorithms at 8 and
hashes at 12, the counts of extended ones at 28 and 29, then the structure tables. -/
def offersOptions (msg : Bytes) : Bool :=
  let tables := msg.drop (32 + 4 * (fieldAt msg 28 1 + fieldAt msg 29 1))
  let has := offersIn tables (fieldAt msg 2 1)
  decide (Nat.land (fieldAt msg 8 4) algEcdsaP384 ≠ 0) && decide (Nat.land (fieldAt msg 12 4) algSha384 ≠ 0)
    && has 2 dheSecp384r1 && has 3 aeadAes256Gcm && has 5 spdmKeySchedule

/-- ALGORITHMS after its version and code: the options of R136, in DSP0274's places. -/
def algorithms : Bytes :=
  let table (ty bits : Nat) : Bytes := byte ty ++ byte 0x20 ++ leBytes 2 bits
  byte 4 ++ zeros 1 ++ leBytes 2 52 ++ byte 1 ++ byte 2 ++ leBytes 4 4 ++ leBytes 4 algEcdsaP384 ++ leBytes 4 algSha384 ++ zeros 16
    ++ table 2 dheSecp384r1 ++ table 3 aeadAes256Gcm ++ table 4 0 ++ table 5 spdmKeySchedule

/-- NEGOTIATE_ALGORITHMS succeeds where the requester offers what the device takes; InvalidRequest otherwise. -/
def execNegotiateAlgorithms (msg : Bytes) (s : State) (ch : Channel := default) : Host.Outcome State Fault Refusal :=
  .next (s.spdmAt ch (fun m => m.conn = .capabilities) fun s =>
    if offersOptions msg then (s.mapMgmt fun m => { m with conn := .negotiated }).respond ch msg (0x63 :: algorithms)
    else s.spdmFail ch 0x01)

/-- GET_DIGESTS: the slots present and the digests of their chains. -/
def execGetDigests (msg : Bytes) (s : State) (ch : Channel := default) : Host.Outcome State Fault Refusal :=
  .next (s.spdmAt ch Mgmt.talks fun s =>
    let here := [0, 1].filter s.slotHere
    s.respond ch msg ([0x01, BitVec.ofNat 8 ((here.map (2 ^ ·)).sum)] ++ here.flatMap fun k => Config.sha384 (s.chainOf k)))

/-- GET_CERTIFICATE: part of a slot's chain and what remains of it. -/
def execGetCertificate (slot off len : Nat) (msg : Bytes) (s : State) (ch : Channel := default) : Host.Outcome State Fault Refusal :=
  .next (s.spdmAt ch Mgmt.talks fun s =>
    if s.slotHere slot = false ∨ (s.chainOf slot).length < off then s.spdmFail ch 0x01
    else
      let part := slice (s.chainOf slot) off len
      s.respond ch msg ([0x02, BitVec.ofNat 8 slot] ++ leBytes 2 part.length ++ leBytes 2 ((s.chainOf slot).length - off - part.length)
        ++ part))

/-! ### Measurements (R138, R139) -/

/-- A raw record of 16 bytes. -/
def raw16 (b : Bytes) : Bytes := b ++ zeros (16 - b.length)

/-- SHA-384 of the shadows of several regions. -/
def State.regionsDigest (s : State) (rs : List Nat) : Bytes :=
  Config.sha384 (rs.flatMap fun r => s.fuseBytes (regionFirst r) (regionSize r))

/-- The record of a domain: STATE, RECOVERED, FAIL_CODE, MF_SVN, SVN_UNCHECKED, regions matched. -/
def Domain.record (d : Domain) : Bytes :=
  raw16 (leBytes 1 d.state.num ++ leBytes 1 (bit d.recovered 0) ++ leBytes 1 d.failCode ++ leBytes 4 d.mfSvn
    ++ leBytes 1 (bit d.svnUnchecked 0) ++ leBytes 1 (d.regions.filter Region.matched).length)

/-- A digest, or 48 zero bytes where there is none. -/
def orZeros (b : Bytes) : Bytes := if b = [] then zeros 48 else b

/-- The value of a measurement index; none where the list has none. `free` is the value of an absent component. -/
def State.measurement (s : State) (i : Nat) (free : Bytes) : Option Bytes :=
  let held : Bool := s.keeper.debugDigest ≠ [] && decide (s.keeper.bootCount ≤ s.keeper.debugExpiry)
  if i = 1 then some (Config.prim .romDigest [] 48)
  else if i = 2 then some (s.regionsDigest [10])
  else if i = 3 ∨ i = 4 ∨ i = 5 then some (Config.prim (.fwDigest (i - 3)) [imgBody s.upd.slot] 48)
  else if i = 6 then some (if s.tables.microOk then Config.sha384 s.upd.microCur else free)
  else if i = 7 then some (if s.guard.policy.isSome then Config.sha384 (imgBody s.upd.polCur) else free)
  else if i = 8 then some (s.regionsDigest [11, 12, 13])
  else if i = 9 then
    some (raw16 (leBytes 1 s.fuses.lc.num ++ leBytes 1 s.fuses.epoch ++ leBytes 4 s.rights.toNat ++ leBytes 1 (bit s.boot.countersLost 0)
      ++ leBytes 1 (bit s.boot.recovery 0) ++ leBytes 1 (bit s.bypass 0)))
  else if i = 10 then some (if held then s.keeper.debugDigest else zeros 48)
  else if 16 ≤ i ∧ i ≤ 23 then some (orZeros (s.dom (i - 16)).mfDigest)
  else if 24 ≤ i ∧ i ≤ 31 then some (s.dom (i - 24)).record
  else if i = 32 then some (Config.sha384 s.migEk)
  else none

/-- DMTF value types: 0 to 3, with the raw bit 0x80. -/
def measType (i : Nat) : Nat :=
  if i = 1 then 0 else if 3 ≤ i ∧ i ≤ 6 then 1 else if i = 8 then 2 else if i = 9 then 0x82 else if 24 ≤ i ∧ i ≤ 31 then 0x83 else 3

/-- One measurement as the response lists it: index, type, length, value. -/
def State.measBlock (s : State) (i : Nat) : Bytes :=
  match s.measurement i (s.freeNow 48) with
  | some v => leBytes 1 i ++ leBytes 1 (measType i) ++ leBytes 2 v.length ++ v
  | none => []

/-- The indices of the list. -/
def measIndices : List Nat := (List.range 33).filter fun i => (1 ≤ i && i ≤ 10) || 16 ≤ i

/-- GET_MEASUREMENTS: index 0 asks for their number, 0xFF for every one at one moment, any other for itself; signed on
request with the slot's key. -/
def execGetMeasurements (slot index : Nat) (sign : Bool) (msg : Bytes) (s : State) (ch : Channel := default) : Host.Outcome State Fault Refusal :=
  .next (s.spdmAt ch Mgmt.talks fun s =>
    let body : Bytes :=
      [0x60] ++ (if index = 0 then leBytes 1 measIndices.length
                 else if index = 0xFF then measIndices.flatMap s.measBlock else s.measBlock index)
    if sign then s.signed ch slot msg body id else (s.draw).respond ch msg body)

/-! ### Challenge and session -/

/-- CHALLENGE: the chain's digest, a fresh nonce, and the slot's signature. -/
def execChallenge (slot : Nat) (msg : Bytes) (s : State) (ch : Channel := default) : Host.Outcome State Fault Refusal :=
  .next (s.spdmAt ch Mgmt.talks fun s =>
    s.draw.signed ch slot msg ([0x03, BitVec.ofNat 8 slot] ++ Config.sha384 (s.chainOf slot) ++ s.freeNow 32) id)

/-- A session secret: the `k`-th of DSP0274's key schedule over the secret before it and the messages seen. -/
def sessionSecret (k : Nat) (secret seen : Bytes) : Bytes := Config.prim (.spdm k) [secret, seen] 48

/-- KEY_EXCHANGE: a fresh secp384r1 share, signed with the slot's key; one secured session at a time, on the binding the
request came on. The handshake secrets of the two directions follow from the exchange; the requester's share stands at offset 40 of its request (DSP0274, log row 62). -/
def execKeyExchange (slot : Nat) (msg : Bytes) (s : State) (ch : Channel := default) : Host.Outcome State Fault Refusal :=
  .next (s.spdmAt ch Mgmt.talks fun s =>
    if s.mgmt.spdm ≠ .none then s.spdmFail ch 0x0A
    else
      let d := weierScalar p384.n (s.freeNow 56)
      let dhe := match p384.mul d (decodePoint 48 ([0x04] ++ slice msg 40 96)) with
        | some (x, _) => beBytes 48 x
        | none => []
      s.draw.signed ch slot msg ([0x64] ++ (p384Pk d).drop 1) fun s => s.mapMgmt fun m =>
        { m with spdm := .handshaking, secOn := ch.binding, reqKey := sessionSecret 0x100 dhe m.seen,
                 rspKey := sessionSecret 0x101 dhe m.seen })

/-- FINISH ends the handshake and the two directions take their data secrets; verify data that fail end it with
DecryptError. -/
def execFinish (msg : Bytes) (verifyDataOk : Bool) (s : State) (ch : Channel := default) : Host.Outcome State Fault Refusal :=
  .next (s.spdmAt ch (fun m => m.spdm = .handshaking && ch.secured) fun s =>
    if verifyDataOk then
      (s.mapMgmt fun m =>
        { m with spdm := .established, reqKey := sessionSecret 0x102 m.reqKey m.seen,
                 rspKey := sessionSecret 0x103 m.rspKey m.seen }).respond ch msg [0x65]
    else s.endSecured.spdmFail ch 0x06)

/-- KEY_UPDATE changes the session keys: operation 1 the requester's, 2 both, 3 verifies the new key and changes none; the
operation is the request's third byte (DSP0274, log row 62). Any other is InvalidRequest. -/
def execKeyUpdate (msg : Bytes) (s : State) (ch : Channel := default) : Host.Outcome State Fault Refusal :=
  .next (s.spdmAt ch (Mgmt.secured ch) fun s =>
    let op := fieldAt msg 2 1
    if op = 0 ∨ 3 < op then s.spdmFail ch 0x01
    else (s.mapMgmt fun m =>
      { m with reqKey := if op ≤ 2 then sessionSecret 0x104 m.reqKey [] else m.reqKey,
               rspKey := if op = 2 then sessionSecret 0x104 m.rspKey [] else m.rspKey }).respond ch msg [0x69])

def execHeartbeat (msg : Bytes) (s : State) (ch : Channel := default) : Host.Outcome State Fault Refusal :=
  .next (s.spdmAt ch (Mgmt.secured ch) fun s => s.respond ch msg [0x68])

def execEndSession (msg : Bytes) (s : State) (ch : Channel := default) : Host.Outcome State Fault Refusal :=
  .next (s.spdmAt ch (Mgmt.secured ch) fun s => (s.respond ch msg [0x6C]).endSecured)

/-! ### Chunks -/

/-- CHUNK_SEND gathers a large request, at most 68 KiB; with the last chunk the request itself follows as its own command. -/
def execChunkSend (chunk : Bytes) (last : Bool) (s : State) (ch : Channel := default) : Host.Outcome State Fault Refusal :=
  .next (s.spdmAt ch Mgmt.talks fun s =>
    if 69632 < s.mgmt.chunk.length + chunk.length then (s.mapMgmt fun m => { m with chunk := [] }).spdmFail ch 0x01
    else (s.mapMgmt fun m => { m with chunk := if last then [] else m.chunk ++ chunk }).spdmSend ch [0x05])

/-- CHUNK_GET delivers the next part of a large response. -/
def execChunkGet (msg : Bytes) (s : State) (ch : Channel := default) : Host.Outcome State Fault Refusal :=
  .next (s.spdmAt ch (fun m => m.reply ≠ []) fun s =>
    let n := max 1 s.mgmt.xfer
    (s.spdmSend ch (0x06 :: s.mgmt.reply.take n)).mapMgmt fun m => { m with reply := m.reply.drop n, seen := m.seen ++ msg })

end Sys2Proof.Machine
end

