-- ==== Sys2Proof/Machine/SpiCmds.lean ====
section
/-!
DEFINITION. Machine/SpiCmds.lean: the Sieve on the host's SPI side (R85, R86, R95, R103, R108 to R122): reads served
block by block, stream checks, owed blocks and mirror refetches, programs and erases, and the other command classes.
-/
namespace Sys2Proof.Machine
open Sys2Proof

/-! ### Matching a command -/

/-- The allow entry that a command matches in the port's mode (R95). -/
def State.allowed (s : State) (c : SpiCmd) : Option AllowEntry :=
  s.guard.policy.bind fun p => (p.allow c.chip.port).find? fun e =>
    e.cls ≠ 0 && e.opcode = c.opcode && e.modes.getLsbD (s.sport c.chip.port).mode

/-- The port serves host commands: enabled by the policy and started. -/
def State.portUp (s : State) (p : Port) : Bool :=
  (match s.guard.policy with | some q => (q.port p).enable | none => false) && (s.sport p).running

/-- CS_N has risen: a buffered program is issued (R122). -/
def State.issueProgram (s : State) (p : Port) : State :=
  match (s.sport p).program with
  | some (chip, addr, data) =>
    (s.mapSport p fun x => { x with program := none }).emit (.flashCmd chip .program addr data)
  | none => s

/-- One step of the block's own clock: a tick, within which a buffered program has been issued (R122; log rows 1
and 65). -/
def State.idleStep (s : State) : State := ((s.idleTick).issueProgram .a).issueProgram .b

/-- A command of a class, on a port that serves: what the earlier program still owed the flash goes out first. -/
def State.spi (s : State) (c : SpiCmd) (cls : Nat) (act : State → AllowEntry → State) : State :=
  match s.allowed c with
  | some e => if s.portUp c.chip.port ∧ e.cls = cls then act (s.issueProgram c.chip.port) e else s
  | none => s

/-- The Sieve issues its own command of a class to the flash (R86). -/
def State.forward (s : State) (c : SpiCmd) (op : FlashOp) : State := s.emit (.flashCmd c.chip op c.addr [])

/-- Which command of the WRITE_ENABLE, STATUS_READ and SUSPEND classes the host means: its opcode as serial NOR flashes have
it, write disable 0x04, flag status 0x70, resume 0x7A or 0x30 (PRESUMED, log row 90). -/
def enableOp (opcode : BitVec 16) : FlashOp := if opcode.toNat % 256 = 0x04 then .writeDisable else .writeEnable
def statusOp (opcode : BitVec 16) : FlashOp := if opcode.toNat % 256 = 0x70 then .readFlagStatus else .readStatus
def suspendOp (opcode : BitVec 16) : FlashOp :=
  if opcode.toNat % 256 = 0x7A ∨ opcode.toNat % 256 = 0x30 then .resume else .suspend

/-! ### Stream checks (R110 to R113) -/

/-- The block a host block is read from: the recovery image's for RECOVER. -/
def Region.phys (r : Region) (remap : Bool) (b : Nat) : Nat := if remap then r.recBase + (b - r.base) else b

/-- The leaf of a block of a region. -/
def Region.leafOf (r : Region) (b : Nat) (data : Bytes) : Bytes := merkleLeaf r.regionId (b - r.base) data

/-- The node cache's leaf of a block. -/
def State.leafAt (s : State) (c : Chip) (b : Nat) : Option Bytes :=
  (s.guard.leaves.find? fun l => l.chip = c && l.block = b).map Leaf.digest

/-- A block's leaf agrees with the node cache. DESIGN CHOICE (log row 91): where the background pass has computed none yet,
there is nothing to compare with, and the block passes (R114). -/
def State.leafOk (s : State) (c : Chip) (phys : Nat) (leaf : Bytes) : Bool :=
  match s.leafAt c phys with
  | some l => l = leaf
  | none => true

/-- A block that passed enters the verified-block buffer as the most recently used of 256 (R109). -/
def State.buffer (s : State) (c : Chip) (b : Nat) (data : Bytes) : State :=
  s.mapSport c.port fun x =>
    { x with buffer := ({ chip := c, block := b, data } :: x.buffer.filter fun h => !(h.chip = c && h.block = b)).take 256 }

/-- A mismatch (R110): the hold, STREAM_MISMATCH, SIEVE_LAST, a record; then the region's recovery action, or FAILED_HELD
with `code` (R128, R134). DESIGN CHOICE (log row 91): SIEVE_LAST.FAIL_CODE shows `code` for a region with a recovery action
too, for which R134 names none. -/
def State.mismatch (s : State) (c : Chip) (b code : Nat) (d k : Nat) (r : Region) : State :=
  let s1 := (s.setSieve 0).mapGuard fun g => { g with lastBlock := b, lastFail := code, lastChip := c.byte, lastDom := d }
  let s2 := s1.logEvent 0x0201 (b * 2 ^ 32 + c.byte.toNat * 2 ^ 8 + d)
  if r.action = 0 then s2.failDom d code k
  else (s2.setRegion d k fun x => { x with owes := true, matched := false }).hold d .recovering

/-- Bits of a failing block that the host may have received at most (R111). -/
def deliverBound : Nat → Nat
  | 3 => 8 * 4076
  | 0 => 8 * 4095 + 3
  | _ => 8 * 4093 + 4

/-- Keep the first `n` bits of a string, the high bit of a byte first, and drive the rest to one. -/
def keepBits (n : Nat) (b : Bytes) : Bytes :=
  b.take (n / 8) ++ (match b.drop (n / 8) with
    | [] => []
    | x :: rest => (x ||| BitVec.ofNat 8 (2 ^ (8 - n % 8) - 1)) :: rest.map fun _ => 0xFF)

/-- `n` bytes of ones. -/
def ones (n : Nat) : Bytes := List.replicate n 0xFF

/-! ### Serving a read (R108) -/

/-- A read under way: the bytes driven so far, and whether the rest of the transfer is ones. -/
structure Serving where
  st   : State
  out  : Bytes
  dead : Bool

/-- The flash content of a block as the row gives it. -/
def contentOf (l : List FlashBlock) (b : Nat) : Bytes := ((l.find? fun x => x.block = b).map FlashBlock.data).getD []

/-- A stream-checked block, of which the transfer takes the bytes from `lo` up to `hi` (R110, R112, R113). DESIGN CHOICE (log
row 91): a read both unaligned and made while a block is owed sets OWED_READ alone. -/
def State.streamCheck (s : State) (c : Chip) (b lo hi : Nat) (d k : Nat) (r : Region) (phys : Nat) (data : Bytes) :
    State × Bytes × Bool :=
  if (s.sport c.port).owed.isSome then (s.setSieve 5, ones (hi - lo), false)
  else if lo ≠ 0 then (s.setSieve 4, ones (hi - lo), false)
  else if hi < 4096 then
    (s.mapSport c.port fun x => { x with owed := some { chip := c, block := b, seen := data.take hi } }, data.take hi, false)
  else
    let leaf := r.leafOf b data
    if s.leafOk c phys leaf then (s.buffer c b data, data, false)
    else
      let n := Config.freeNat s.freeCtr % (deliverBound (s.sport c.port).mode + 1)
      ((s.draw).mismatch c b 12 d k r, keepBits n data, true)

/-- A DENY block; while a block is owed the read sets OWED_READ as well (R108, R113). -/
def State.denyRead (s : State) (p : Port) : State :=
  (if (s.sport p).owed.isSome then s.setSieve 5 else s).setSieve 1

/-- One VERIFY or RECOVER block: from the mirror, whose word that fails lies at a free byte of the part read (log row 17),
from the buffer, or stream-checked (R108, R109, R115). -/
def State.serveChecked (s : State) (c : Chip) (b lo hi : Nat) (remap : Bool) (flash : List FlashBlock) (ecc : Option Nat) :
    State × Bytes × Bool :=
  match s.coverOf c b with
  | none => (s.denyRead c.port, ones (hi - lo), false)
  | some (d, k, r) =>
    match s.guard.mirror.find? fun h => h.chip = c && h.block = b with
    | some h =>
      if ecc = some b then
        let n := Config.freeNat s.freeCtr % (hi - lo)
        (((s.draw).setSieve 6).mapGuard fun g =>
          { g with mirror := g.mirror.filter (fun x => x ≠ h), lost := (c, b) :: g.lost },
          slice h.data lo n ++ ones (hi - lo - n), true)
      else (s, slice h.data lo (hi - lo), false)
    | none =>
      match (s.sport c.port).buffer.find? fun h => h.chip = c && h.block = b with
      | some h => (s.buffer c b h.data, slice h.data lo (hi - lo), false)
      | none => s.streamCheck c b lo hi d k r (r.phys remap b) (contentOf flash (r.phys remap b))

/-- One block under its effective policy. -/
def State.serveBlock (s : State) (c : Chip) (b lo hi : Nat) (flash : List FlashBlock) (ecc : Option Nat) :
    State × Bytes × Bool :=
  match s.blockPolicy c b with
  | .deny => (s.denyRead c.port, ones (hi - lo), false)
  | .verify => s.serveChecked c b lo hi false flash ecc
  | .recover => s.serveChecked c b lo hi true flash ecc
  | _ =>
    if (s.sport c.port).owed.isSome then (s.setSieve 5, ones (hi - lo), false)
    else (s, slice (contentOf flash b) lo (hi - lo), false)

/-- Serve `n` blocks from block `b`; the transfer ends at byte address `stop`. -/
def serveRun (c : Chip) (flash : List FlashBlock) (ecc : Option Nat) (start stop : Nat) : Nat → Nat → Serving → Serving
  | 0, _, v => v
  | n + 1, b, v =>
    let lo := max start (4096 * b) - 4096 * b
    let hi := min stop (4096 * b + 4096) - 4096 * b
    if v.dead then serveRun c flash ecc start stop n (b + 1) { v with out := v.out ++ ones (hi - lo) }
    else
      match v.st.serveBlock c b lo hi flash ecc with
      | (s, o, dead) => serveRun c flash ecc start stop n (b + 1) { st := s, out := v.out ++ o, dead }

/-- Every block that may be read from the flash is given whole. -/
def State.flashGiven (s : State) (c : Chip) (first n : Nat) (flash : List FlashBlock) : Bool :=
  (List.range n).all fun i =>
    let b := first + i
    let phys := match s.blockPolicy c b, s.coverOf c b with
      | .recover, some (_, _, r) => r.phys true b
      | _, _ => b
    s.blockPolicy c b = .deny || (contentOf flash phys).length = 4096

/-! ### Commands -/

def execHostRead (cmd : SpiCmd) (len : Nat) (flash : List FlashBlock) (eccBlock : Option Nat) (s : State) :
    Host.Outcome State Fault Refusal :=
  let first := cmd.addr / 4096
  let n := (cmd.addr + len + 4095) / 4096 - first
  .next (if len = 0 ∨ s.flashGiven cmd.chip first n flash = false then s
    else s.guardly fun s => s.spi cmd 1 fun s _ =>
      let v := serveRun cmd.chip flash eccBlock cmd.addr (cmd.addr + len) n first { st := s, out := [], dead := false }
      v.st.emit (.spiData cmd.chip.port v.out))

/-- The rest of an owed block has been read (R113). -/
def execOwedBlockCheck (port : Port) (data : Bytes) (s : State) : Host.Outcome State Fault Refusal :=
  .next (match (s.sport port).owed with
    | none => s
    | some o =>
      let whole := o.seen ++ data
      if whole.length ≠ 4096 then s
      else s.guardly fun s =>
        let s1 := s.mapSport port fun x => { x with owed := none }
        match s1.coverOf o.chip o.block with
        | none => s1
        | some (d, k, r) =>
          let phys := r.phys (decide (s1.blockPolicy o.chip o.block = .recover)) o.block
          if s1.leafOk o.chip phys (r.leafOf o.block whole) then s1.buffer o.chip o.block whole
          else s1.mismatch o.chip o.block 12 d k r)

/-- A block lost from the mirror has been read again from flash (R115). -/
def execMirrorRefetchDone (chip : Chip) (block : Nat) (data : Bytes) (s : State) : Host.Outcome State Fault Refusal :=
  .next (if s.guard.lost.contains (chip, block) = false ∨ data.length ≠ 4096 then s
    else s.guardly fun s =>
      let s1 := s.mapGuard fun g => { g with lost := g.lost.filter fun x => x ≠ (chip, block) }
      match s1.coverOf chip block with
      | none => s1
      | some (d, k, r) =>
        let phys := r.phys (decide (s1.blockPolicy chip block = .recover)) block
        let leaf := r.leafOf block data
        if s1.leafOk chip phys leaf then
          s1.mapGuard fun g => { g with mirror := { chip, block, data } :: g.mirror }
        else s1.mismatch chip block 11 d k r)

/-- Every block of a range is PASS (R121). -/
def State.allPass (s : State) (c : Chip) (first n : Nat) : Bool := (List.range n).all fun i => s.blockPolicy c (first + i) = .pass

/-- A refused program or erase: its data is dropped, a write disable goes to the flash (R121). -/
def State.refuseWrite (s : State) (c : SpiCmd) : State := (s.emit (.flashCmd c.chip .writeDisable 0 [])).setSieve 3

def execHostProgram (cmd : SpiCmd) (data : Bytes) (s : State) : Host.Outcome State Fault Refusal :=
  let first := cmd.addr / 4096
  .next (s.spi cmd 2 fun s _ =>
    if s.allPass cmd.chip first ((cmd.addr + data.length + 4095) / 4096 - first) then
      s.mapSport cmd.chip.port fun x => { x with program := some (cmd.chip, cmd.addr, data) }
    else s.refuseWrite cmd)

/-- Blocks of an erase of a PARAM (R95). DESIGN CHOICE (log row 87): a PARAM above 2, which the spec does not give, is
64 KiB. -/
def eraseBlocks (param : Nat) : Nat := if param = 0 then 1 else if param = 1 then 8 else 16

def execHostErase (cmd : SpiCmd) (s : State) : Host.Outcome State Fault Refusal :=
  .next (s.spi cmd 3 fun s e =>
    let n := eraseBlocks e.param
    if s.allPass cmd.chip (cmd.addr / 4096 / n * n) n then s.forward cmd (.erase (4 * n)) else s.refuseWrite cmd)

def execHostWriteEnable (cmd : SpiCmd) (s : State) : Host.Outcome State Fault Refusal :=
  .next (s.spi cmd 4 fun s _ => s.forward cmd (enableOp cmd.opcode))

/-- A status read; while a program waits to be issued WIP reads 1 (R122). -/
def execHostStatusRead (cmd : SpiCmd) (flashStatus : BitVec 8) (s : State) : Host.Outcome State Fault Refusal :=
  let waiting := (s.sport cmd.chip.port).program.isSome
  .next (s.spi cmd 5 fun s _ =>
    (s.forward cmd (statusOp cmd.opcode)).emit (.spiData cmd.chip.port [if waiting then flashStatus ||| 1 else flashStatus]))

def execHostIdRead (cmd : SpiCmd) (flashId : Bytes) (s : State) : Host.Outcome State Fault Refusal :=
  .next (s.spi cmd 6 fun s _ => (s.forward cmd .readId).emit (.spiData cmd.chip.port flashId))

/-- D of R116 in each host-side mode. -/
def hostDummy (flashDummy mode : Nat) : Nat := if mode = 3 then flashDummy + 23 else (flashDummy + 24) / 2

/-- An erase opcode has an ERASE entry in a port's allow table. -/
def Policy.erases (p : Policy) (port : Port) (opcode : Nat) : Bool :=
  (p.allow port).any fun e => e.cls = 3 && e.opcode.toNat % 256 = opcode

/-- One byte of the re-served SFDP (R119): a dummy-cycle field carries D of its mode, the size of an erase type without an
ERASE entry reads 0, as JESD216 marks a type that is not supported, and every other byte is as read. Where the tables have
those fields is JESD216's (log rows 4 and 90). -/
def Policy.sfdpByte (p : Policy) (port : Port) (role : Config.SfdpRole) (b : Byte) : Byte :=
  match role with
  | .same => b
  | .dummy m mask sh => (b &&& ~~~ mask) ||| ((BitVec.ofNat 8 (hostDummy (p.port port).dummy m) <<< sh) &&& mask)
  | .eraseSize opcode => if p.erases port opcode then b else 0

/-- The re-served SFDP (R119). -/
def Policy.sfdp (p : Policy) (port : Port) (copy : Bytes) : Bytes :=
  (copy.zip (List.range copy.length)).map fun x => p.sfdpByte port (Config.sfdpRole copy x.2) x.1

def execHostSfdpRead (cmd : SpiCmd) (len : Nat) (s : State) : Host.Outcome State Fault Refusal :=
  .next (s.spi cmd 7 fun s _ =>
    match s.guard.policy, (s.sport cmd.chip.port).sfdp.lookup cmd.chip with
    | some p, some copy => s.emit (.spiData cmd.chip.port (slice (p.sfdp cmd.chip.port copy) cmd.addr len))
    | _, _ => s)

def execHostSuspend (cmd : SpiCmd) (s : State) : Host.Outcome State Fault Refusal :=
  .next (s.spi cmd 8 fun s _ => s.forward cmd (suspendOp cmd.opcode))

/-- A host reset: the port's mode is HOST_INIT_MODE, an owed check is abandoned; nothing reaches the flash (R120). -/
def State.hostReset (s : State) (p : Port) : State :=
  match s.guard.policy with
  | some q => s.mapSport p fun x => { x with mode := (q.port p).initMode, owed := none }
  | none => s

def execHostResetCmd (cmd : SpiCmd) (s : State) : Host.Outcome State Fault Refusal :=
  .next (s.spi cmd 9 fun s _ => s.hostReset cmd.chip.port)

/-- DESIGN CHOICE (log row 87): a PARAM above 3, which no mode has, is set as it stands; no entry of a table of four modes
then matches but those whose HOST_MODES bit it names. -/
def execHostModeSwitch (cmd : SpiCmd) (s : State) : Host.Outcome State Fault Refusal :=
  .next (s.spi cmd 10 fun s e => s.mapSport cmd.chip.port fun x => { x with mode := e.param })

/-- No entry matches: high impedance, nothing forwarded (R118). -/
def execHostOpcodeDenied (cmd : SpiCmd) (s : State) : Host.Outcome State Fault Refusal :=
  .next (if s.portUp cmd.chip.port ∧ (s.allowed cmd).isNone then
    ((s.issueProgram cmd.chip.port).emit (.spiHighZ cmd.chip.port)).setSieve 2 else s)

def execHostResetPin (port : Port) (s : State) : Host.Outcome State Fault Refusal :=
  .next (if s.portUp port then s.hostReset port else s)

end Sys2Proof.Machine
end

