-- ==== Sys2Proof/Machine/TamperCmds.lean ====
section
/-!
DEFINITION. Machine/TamperCmds.lean: sensors, minor and major events, fault classes and the keeper's log buffer
(chapter 15: R482 to R495).
-/
namespace Sys2Proof.Machine
open Sys2Proof

/-! ### Sensors that are major -/

/-- A sensor reports: its condition is present until TAMPER_CLEAR, and each report is an event. -/
def State.begin (s : State) (code : Nat) (run : State → State) : State :=
  run (s.mapFlt fun f => { f with sensors := if f.sensors.contains code then f.sensors else code :: f.sensors })

/-- From TEST_LOCKED on (R482). -/
def LcState.meshed : LcState → Bool
  | .raw | .testUnlocked => false
  | _ => true

/-- A lid-mesh fault on two consecutive ticks; the failing nets go into DETAIL. -/
def execLidMesh (nets : BitVec 4) (s : State) : Host.Outcome State Fault Refusal :=
  .next (if s.islandOn ∧ s.fuses.lc.meshed then s.begin 0x01 fun s => s.majorTamper 0x0601 255 nets.toNat else s)

/-- A mismatch of an enabled loop input on two consecutive ticks. -/
def execLoopMismatch (n : Nat) (s : State) : Host.Outcome State Fault Refusal :=
  .next (if s.islandOn ∧ n < 4 ∧ s.tamperPolicy.getLsbD (4 + n) then
    s.begin (0x10 + n) fun s => s.majorTamper (BitVec.ofNat 16 (0x0610 + n)) 255 0 else s)

/-- A lockstep mismatch: at run time class 3, every event lasting; in the ROM a fault that holds the die (R79). -/
def execLockstep (s : State) : Host.Outcome State Fault Refusal :=
  .next (if s.fwRunning then ((s.setFlt 4).faultEvent 3 0).1.majorTamper 0x0623 3 0
    else if s.cdRunning then s.romFault else s)

/-! ### Minor events (R482, R485, R487) -/

/-- Jobs that hold a secret: those past their entropy wait, and every job of group 0x0A (R487). -/
def Job.secret (j : Job) : Bool := j.seeded || j.group = 0x0A

/-- A minor event of class 0, 1 or 2: it is logged and counted, a voltage or clock event abandons the jobs that hold a
secret, and at the threshold it is a major tamper. With VIN absent it is only counted. -/
def State.minor (s : State) (cls : Nat) : State :=
  let hit := s.jobs.filter fun j => j.secret && !j.ended
  let drop : Bool := decide (cls < 2)
  let s1 := if !s.power.vinValid then s
    else
      let t := if drop then s.stopNow Job.secret st.abortedTamper else s
      (t.log (BitVec.ofNat 16 (0x0681 + cls)) 2 cls 0 (if drop then hit.length % 65536 else 0)).setClassFlag cls
  match s1.faultEvent cls 0 with
  | (s2, false) => s2
  | (s2, true) => s2.majorTamper (BitVec.ofNat 16 (0x0620 + cls)) cls 0

/-- Where a class is watched: VIN, VBAT and the 32.768 kHz check always, temperature while the compute die runs. -/
def State.watched (s : State) (cls : Nat) : Bool := if cls = 2 then s.cdRunning else s.islandOn

/-- A minor condition begins. -/
def State.minorBegins (s : State) (cls : Nat) : State :=
  if s.watched cls then
    (s.mapFlt fun f => { f with sensors := if f.sensors.contains (0x81 + cls) then f.sensors else (0x81 + cls) :: f.sensors }).minor cls
  else s

def execVoltageMinor (s : State) : Host.Outcome State Fault Refusal := .next (s.minorBegins 0)

def execClockMinor (s : State) : Host.Outcome State Fault Refusal := .next (s.minorBegins 1)

/-- A junction temperature, in degrees plus 64, is an excursion: above 120 °C, or below the limit of the grade (R57). -/
def State.excursion (s : State) (code : Nat) : Bool :=
  decide (184 < code) || (decide (s.grade = 0x41) && decide (code < 34)) || (decide (s.grade = 0x45) && decide (code < 14))

/-- The keeper's temperature monitor reads a junction temperature, in degrees plus 64. -/
def execTempMinor (s : State) (code : BitVec 8 := 0xFF) : Host.Outcome State Fault Refusal :=
  .next (if s.excursion code.toNat then s.minorBegins 2 else s)

/-- A condition that persists gives a further event at each full second. -/
def execMinorPersist (cls : Nat) (s : State) : Host.Outcome State Fault Refusal :=
  .next (if cls < 3 ∧ s.flt.sensors.contains (0x81 + cls) ∧ s.watched cls then s.minor cls else s)

/-! ### Words and cores -/

/-- The object a word is counted under. -/
def SramWord.num (w : SramWord) : Nat := w.bank * 2 ^ 20 + w.offset % 2 ^ 20

/-- A corrected error (class 4). -/
def execSramCorrected (w : SramWord) (s : State) : Host.Outcome State Fault Refusal :=
  .next (if !s.cdRunning then s
    else
      let s1 := (s.log 0x0706 1 4 (unitWord 6 w.bank) w.offset).setFlt 5
      match s1.faultEvent 4 (SramWord.num w) with
      | (s2, false) => s2
      | (s2, true) => s2.retire w 4)

def execSramUncorrectable (w : SramWord) (s : State) : Host.Outcome State Fault Refusal :=
  .next (if s.cdRunning then s.sramUe w else s)

/-- A self-check mismatch of a hash core (class 6); the third in a second drops the core. -/
def State.coreBad (s : State) (core : Nat) : State :=
  if s.cdRunning = false ∨ 16 * s.groups ≤ core ∨ s.flt.cores.contains core then s
  else
    match (s.log 0x0707 1 6 (unitWord 2 core) 0).faultEvent 6 core with
    | (s1, false) => s1
    | (s1, true) => s1.dropUnit 6 core (unitWord 2 core)

def execCoreMismatch (core : Nat) (s : State) : Host.Outcome State Fault Refusal := .next (s.coreBad core)

/-- The known-answer step of the idle cores, with those that fail it: a core of a group that runs a job is not idle. -/
def execCoreKat (failed : List Nat) (s : State) : Host.Outcome State Fault Refusal :=
  .next ((failed.dedup.filter fun c => !s.unitBusy .hash (c / 16)).foldl State.coreBad s)

/-! ### The end of a response -/

/-- Every sensor has read normal for 1 s (R489). -/
def execTamperClear (s : State) : Host.Outcome State Fault Refusal :=
  .next (s.mapFlt fun f => { f with sensors := [], active := false })

/-- A pending root disable runs once NV_OK is 1 (R490); at a start-up the ROM runs it. -/
def execRootDisablePending (s : State) : Host.Outcome State Fault Refusal :=
  .next (match s.flt.rootPending with
    | some e => if s.fwRunning ∧ s.power.nvOk ∧ s.nvFree then s.disableRoot e else s
    | none => s)

/-- A held tamper record is handled once every sensor is normal: the keeper releases the compute die, whose ROM programs
any pending root disable before the firmware starts (R68, R492). -/
def execTamperRecordHandled (s : State) : Host.Outcome State Fault Refusal :=
  .next (if s.boot.stage = .held ∧ s.boot.code = 0x8002 ∧ s.flt.sensors = [] ∧ s.power.vinValid ∧ s.power.pwrfailHigh
    ∧ s.mayRelease then
    s.releaseDie else s)

/-- Writing resumes: the buffered records, then the count of those dropped (R495). -/
def execLogBufferFlush (s : State) : Host.Outcome State Fault Refusal := .next (if s.nvFree then s.flushLog else s)

end Sys2Proof.Machine
end

