-- ==== Sys2Proof/Machine/UpdateCmds.lean ====
section
/-!
DEFINITION. Machine/UpdateCmds.lean: the update commands and the events of an update (R505 to R526).
-/
namespace Sys2Proof.Machine
open Sys2Proof

/-! ### Commands -/

/-- The control queue a command came on, for HOLDER_ID (R506). -/
def Job.ctlNumber (j : Job) : Nat := match j.q with | .ctl n => n | _ => 0

def execUpdateBegin (j : Nat) (inp : Bytes) (s : State) : Host.Outcome State Fault Refusal :=
  .next (s.runOp j .updateBegin inp fun s j =>
    if s.lockHeld then
      (if s.upd.holder = .mgmt ∧ s.upd.stage.num < 5 then s.finish j.id st.busyUpdate s.busyWord [] j.scCycles
       else s.refuse j s.upd.stage.num)
    else match s.beginFault j.fn inp with
      | some (c, r) => s.draw.finish j.id c r [] j.scCycles
      | none =>
        let s1 := (s.mapUpd fun u => { u with holder := .host, holderId := j.ctlNumber }).mapJob j.id fun x =>
          { x with phase := .barrier, unit := none, waitFrom := s.now }
        s1.beginUpdate inp (.job j.id))

def execUpdateBlock (j : Nat) (inp : Bytes) (s : State) : Host.Outcome State Fault Refusal :=
  .next (s.runOp j .updateBlock inp fun s j =>
    if s.upd.stage ≠ .downloading then s.refuse j s.upd.stage.num
    else match s.stageBlock (j.entry.p 0 4) inp with
      | none => s.endWith j st.paramRejected 7 j.scCycles
      | some t => t.done j t.upd.received [] j.scCycles)

/-- UPDATE_VERIFY sets stage 2 and yields; resumed, it checks. -/
def execUpdateVerify (j : Nat) (readBackOk : Bool) (s : State) : Host.Outcome State Fault Refusal :=
  .next (s.runCmd j .updateVerify fun s j =>
    match s.upd.stage with
    | .downloading =>
      (s.mapUpd fun u => { u with stage := .verifying }).mapJob j.id fun x => { x with phase := .yielded, unit := none }
    | .verifying =>
      match s.verifyImage readBackOk with
      | (c, r, t) => t.finish j.id c r [] j.scCycles
    | st => s.refuse j st.num)

def execUpdateActivate (j : Nat) (s : State) : Host.Outcome State Fault Refusal :=
  .next (s.runCmd j .updateActivate fun s j =>
    let t := j.entry.p 0 8
    let legal : Bool := (s.upd.stage = .verified || (t = 0 && s.upd.stage = .scheduled)) && s.upd.actJob.isNone
    if !legal ∨ (t ≠ 0 ∧ s.boot.timeValid = false) ∨ (t = 0 ∧ s.canActivate = false) then s.refuse j s.upd.stage.num
    else if t = 0 then
      ((s.mapUpd fun u => { u with actJob := some j.id }).mapJob j.id fun x => { x with phase := .barrier, unit := none }).markDue
    else
      (s.mapUpd fun u => { u with stage := .scheduled, activeAt := t, atPps := j.entry.flag 2 }).done j 0 [] j.scCycles)

def execUpdateConfirm (j : Nat) (s : State) : Host.Outcome State Fault Refusal :=
  .next (s.runCmd j .updateConfirm fun s j =>
    if s.upd.stage ≠ .unconfirmed ∨ s.upd.selftestOk = false then s.refuse j s.upd.stage.num
    else
      ((s.beginConfirm).mapUpd fun u => { u with confJob := some j.id }).mapJob j.id fun x => { x with phase := .barrier, unit := none })

def execUpdateCancel (j : Nat) (s : State) : Host.Outcome State Fault Refusal :=
  .next (s.runCmd j .updateCancel fun s j =>
    if s.updateOpen then (s.cancelUpdate).done j 0 [] j.scCycles else s.refuse j s.upd.stage.num)

/-! ### Lock and schedule -/

/-- Ten minutes without a block in stage 1 or 3 (R507). -/
def execUpdateLockExpired (s : State) : Host.Outcome State Fault Refusal :=
  let u := s.upd
  .next (if (u.stage = .downloading ∨ u.stage = .verified) ∧ u.waitFrom = none then
    (s.logEvent 0x0901 (u.stage.num * 256 + u.holder.num)).cancelUpdate else s)

/-- Platform time reaches the schedule; an aligned activation waits for its edge (R515). -/
def execActivationTimeReached (s : State) : Host.Outcome State Fault Refusal :=
  .next (if s.upd.stage = .scheduled ∧ s.upd.atPps = false ∧ secs s.upd.activeAt ≤ s.platformTime then s.markDue else s)

/-- No edge by TIME + 1 s: activation begins without it. -/
def execAlignLost (s : State) : Host.Outcome State Fault Refusal :=
  .next (if s.upd.stage = .scheduled ∧ s.upd.atPps ∧ s.upd.waitFrom = none ∧ secs (s.upd.activeAt + 1) ≤ s.platformTime then
    (s.logEvent 0x0902 s.upd.activeAt).markDue else s)

/-- 60 s without the conditions of R516: back to stage 3. -/
def execActivationDeferred (s : State) : Host.Outcome State Fault Refusal :=
  .next (if s.upd.stage = .scheduled ∧ s.upd.waitFrom.isSome ∧ s.canActivate = false then
    (s.mapUpd fun u => { u with stage := .verified, waitFrom := none, activeAt := 0, atPps := false, timerFrom := s.now }).logEvent
      0x0903 s.upd.component
    else s)

/-! ### Activation -/

/-- A due activation begins when the conditions hold; with TIME 0 a missing condition ends the command (R516). The
command completes now: for a bundle it is the last completion before the restart. -/
def execActivationStart (s : State) : Host.Outcome State Fault Refusal :=
  let u := s.upd
  .next (if u.waitFrom.isNone ∨ ¬ (u.stage = .verified ∨ u.stage = .scheduled) then s
    else if s.canActivate then
      let s1 := ((s.beginStage5).endUpdJob u.actJob st.ok 0).mapUpd fun u => { u with actJob := none }
      match u.actJob with
      | some id => s1.completeNow id
      | none => s1
    else if u.stage = .scheduled ∧ u.actJob.isNone then s
    else (s.endUpdJob u.actJob st.stateRefused u.stage.num).mapUpd fun u => { u with waitFrom := none, actJob := none })

/-- 100 ms after stage 5: jobs that still run stop and complete with ABORTED_QUEUE_STOP, every queue ends, the key stores
but the HIGH half are spoiled (R518 steps 3 and 4). -/
def execActivationDrainExpired (s : State) : Host.Outcome State Fault Refusal :=
  .next (if s.upd.stage = .activating ∧ s.upd.component = 1 ∧ s.upd.drained = false then
    let s1 := s.stopNow (fun _ => true) st.abortedQueueStop
    let s2 := (s1.jobs.map Job.id).foldl State.completeNow s1
    let s3 := (s2.endJobs s2.jobs).endQueues fun _ => true
    ((s3.spoilKeyStores true).mapUpd fun u => { u with drained := true }).mapBoot fun b => { b with loaderServes := true }
    else s)

/-- The MRAM copy ends: slot, activation record, journal at stage 6; the compute die restarts (R518 steps 5 to 7). Only
PERST_N or the loss of VIN leave LOCKDOWN (R81), so no step that restarts the die or the guard runs there. -/
def execActivationCopyDone (s : State) : Host.Outcome State Fault Refusal :=
  .next (match s.upd.journal with
    | some jn =>
      if s.upd.stage = .activating ∧ s.upd.component = 1 ∧ s.upd.drained ∧ s.nvFree ∧ s.boot.lockdown = false then
        let img := s.upd.staged
        let s1 := s.mapUpd fun u =>
          { u with slot := img, slotHash := jn.digest, journal := some { jn with stage := .unconfirmed } }
        (s1.restartUpdate jn.holdHost).mapUpd fun u => { u with drained := true }
      else s
    | none => s)

/-- Group 0x0D has no job left: the microcode records exchange roles, and the DX program table is cleared (R519). -/
def execMicrocodeSwap (s : State) : Host.Outcome State Fault Refusal :=
  .next (if s.upd.stage = .activating ∧ s.upd.component = 2 ∧ s.nvFree ∧ (s.jobs.any fun j => j.group = 0x0D && !j.ended) = false then
    let s1 := (s.mapUpd fun u => { u.install with timerFrom := s.now }).returnHigh
    s1.mapTables fun t => { t with dxProgs := [], microOk := s1.imgAccepted s1.upd.microCur }
    else s)

/-- The policy records exchange roles, every hold is asserted, and the guard starts under the new policy (R519). -/
def execPolicySwap (s : State) : Host.Outcome State Fault Refusal :=
  .next (if s.upd.stage = .activating ∧ s.upd.component = 3 ∧ s.nvFree ∧ s.boot.lockdown = false then
    (((s.guardly State.holdAll).mapUpd fun u => { u.install with timerFrom := s.now }).returnHigh).restartGuard
    else s)

/-! ### Confirmation and restore -/

/-- The self-test passes: that of a policy update once the policy has loaded (R519), any other as the maker's tests say, and
never where the settings blob is newer than the firmware (R524). -/
def State.selftest (s : State) (passed : Bool) : Bool :=
  if s.upd.stage = .unconfirmed ∧ s.upd.component = 3 then s.guard.policy.isSome else passed && !s.upd.blobNewer

/-- The self-test of the running image ends: a failure starts a restore; a success confirms at once where AUTO_CONFIRM
is set or the update was made without a recovery area (R517, R520). -/
def execSelftestDone (passed : Bool) (s : State) : Host.Outcome State Fault Refusal :=
  let ok := s.selftest passed
  let s1 := s.mapUpd fun u => { u with selftestOk := ok }
  .next (if s.fwRunning = false then s
    else if s.upd.stage ≠ .unconfirmed then s1
    else if !ok then s1.beginRestore
    else if s.autoConfirm ∨ (s.upd.component = 1 ∧ s.upd.areaOk = false) then s1.beginConfirm
    else s1)

def execConfirmDeadlineExpired (s : State) : Host.Outcome State Fault Refusal :=
  .next (if s.upd.stage = .unconfirmed then s.beginRestore else s)

/-- With NV_OK, R521 runs; UPDATE_CONFIRM completes after its last step. -/
def execConfirmationRun (s : State) : Host.Outcome State Fault Refusal :=
  .next (match s.upd.journal with
    | some jn =>
      if s.upd.stage = .confirming ∧ s.power.nvOk ∧ s.nvFree then
        ((s.finishConfirm jn.component jn.svn false).endUpdJob s.upd.confJob st.ok 0).mapUpd fun u => { u with confJob := none }
      else s
    | none => s)

/-- The previous component goes back (R522): a bundle restarts the compute die as an activation does; a policy asserts
every hold and restarts the guard. -/
def execRestore (s : State) : Host.Outcome State Fault Refusal :=
  .next (if s.upd.stage ≠ .restoring ∨ s.fwRunning = false ∨ s.nvFree = false ∨ s.boot.lockdown then s
    else
      let hold : Bool := (s.upd.journal.map UpdJournal.holdHost).getD false
      match s.upd.component with
      | 1 => ((if hold then s.guardly State.holdAll else s).restoreUpdate .restoring 1).restartUpdate hold
      | 2 =>
        let s1 := s.restoreUpdate .restoring 2
        s1.mapTables fun t => { t with dxProgs := [], microOk := s1.upd.microCur ≠ [] && s1.imgAccepted s1.upd.microCur }
      | c => ((s.guardly State.holdAll).restoreUpdate .restoring c).restartGuard)

end Sys2Proof.Machine
end

