-- ==== Sys2Proof/Machine/Dispatch.lean ====
section
/-!
DEFINITION. Machine/Dispatch.lean: one arm for each command of the table: a direct call of its meaning.
-/
namespace Sys2Proof.Machine
open Sys2Proof

/-- The effect of a command on everything but the queue. -/
def exec (i : Instr) (s : State) : Host.Outcome State Fault Refusal :=
  match i with
  | .vinRestored mv straps chk => Sys2Proof.Machine.execVinRestored mv straps chk s
  | .undervoltage => Sys2Proof.Machine.execUndervoltage s
  | .vinAverage mv => Sys2Proof.Machine.execVinAverage mv s
  | .vinTierDwellExpired minMv => Sys2Proof.Machine.execVinTierDwellExpired minMv s
  | .pwrLimitWrite value => Sys2Proof.Machine.execPwrLimitWrite value s
  | .pwrfailAssert => Sys2Proof.Machine.execPwrfailAssert s
  | .pfHoldEnd passed => Sys2Proof.Machine.execPfHoldEnd s passed
  | .nvOkSet => Sys2Proof.Machine.execNvOkSet s
  | .tjSample code => Sys2Proof.Machine.execTjSample code s
  | .throttleStep => Sys2Proof.Machine.execThrottleStep s
  | .throttleRelease => Sys2Proof.Machine.execThrottleRelease s
  | .devThermRead => Sys2Proof.Machine.execDevThermRead s
  | .railsStart pwrfailHigh => Sys2Proof.Machine.execRailsStart pwrfailHigh s
  | .railsUp => Sys2Proof.Machine.execRailsUp s
  | .railFault rail => Sys2Proof.Machine.execRailFault rail s
  | .fusesSensed margins => Sys2Proof.Machine.execFusesSensed margins s
  | .lcRollForward => Sys2Proof.Machine.execLcRollForward s
  | .rootDisableAtStart => Sys2Proof.Machine.execRootDisableAtStart s
  | .bundleVerify recoverLow romOk => Sys2Proof.Machine.execBundleVerify recoverLow s romOk
  | .activationRollForward => Sys2Proof.Machine.execActivationRollForward s
  | .fwStart katOk blobVersion => Sys2Proof.Machine.execFwStart katOk blobVersion s
  | .serviceReady => Sys2Proof.Machine.execServiceReady s
  | .entropySamplingEnd katOk => Sys2Proof.Machine.execEntropySamplingEnd katOk s
  | .drbgInstantiate katOk => Sys2Proof.Machine.execDrbgInstantiate katOk s
  | .linkTraining => Sys2Proof.Machine.execLinkTraining s
  | .configRequest fn op => Sys2Proof.Machine.execConfigRequest fn op s
  | .loaderConfigTakeover => Sys2Proof.Machine.execLoaderConfigTakeover s
  | .perstAssert => Sys2Proof.Machine.execPerstAssert s
  | .perstDeassert => Sys2Proof.Machine.execPerstDeassert s
  | .flr fn => Sys2Proof.Machine.execFlr fn s
  | .flrComplete fn => Sys2Proof.Machine.execFlrComplete fn s
  | .vfEnableSet numVfs => Sys2Proof.Machine.execVfEnableSet numVfs s
  | .vfEnableClear => Sys2Proof.Machine.execVfEnableClear s
  | .tapReset => Sys2Proof.Machine.execTapReset s
  | .d3hotEntry fn => Sys2Proof.Machine.execD3hotEntry fn s
  | .d0Return fn => Sys2Proof.Machine.execD0Return fn s
  | .busMasterDisable fn => Sys2Proof.Machine.execBusMasterDisable fn s
  | .busMasterEnable fn => Sys2Proof.Machine.execBusMasterEnable fn s
  | .msixUnmask fn change => Sys2Proof.Machine.execMsixUnmask fn change s
  | .dmaCompletion target err addr => Sys2Proof.Machine.execDmaCompletion target err addr s
  | .registerWrite fn offset size access => Sys2Proof.Machine.execRegisterWrite fn offset size access s
  | .evtCounterRead bank reg part => Sys2Proof.Machine.execEvtCounterRead bank reg part s
  | .flashResetWaitEnd port answers => Sys2Proof.Machine.execFlashResetWaitEnd port answers s
  | .guardCommitResume manifest images => Sys2Proof.Machine.execGuardCommitResume manifest images s
  | .manifestReadDone d bytes => Sys2Proof.Machine.execManifestReadDone d bytes s
  | .regionReadDone d region blocks recovery => Sys2Proof.Machine.execRegionReadDone d region blocks recovery s
  | .domainRelease d => Sys2Proof.Machine.execDomainRelease d s
  | .pltPgHigh n => Sys2Proof.Machine.execPltPgHigh n s
  | .pltPgFall n => Sys2Proof.Machine.execPltPgFall n s
  | .backgroundBurst d region blocks recovery => Sys2Proof.Machine.execBackgroundBurst d region blocks recovery s
  | .pltRecoverEdge images => Sys2Proof.Machine.execPltRecoverEdge images s
  | .hostRead cmd len flash eccBlock => Sys2Proof.Machine.execHostRead cmd len flash eccBlock s
  | .owedBlockCheck port data => Sys2Proof.Machine.execOwedBlockCheck port data s
  | .mirrorRefetchDone chip block data => Sys2Proof.Machine.execMirrorRefetchDone chip block data s
  | .hostProgram cmd data => Sys2Proof.Machine.execHostProgram cmd data s
  | .hostErase cmd => Sys2Proof.Machine.execHostErase cmd s
  | .hostWriteEnable cmd => Sys2Proof.Machine.execHostWriteEnable cmd s
  | .hostStatusRead cmd flashStatus => Sys2Proof.Machine.execHostStatusRead cmd flashStatus s
  | .hostIdRead cmd flashId => Sys2Proof.Machine.execHostIdRead cmd flashId s
  | .hostSfdpRead cmd len => Sys2Proof.Machine.execHostSfdpRead cmd len s
  | .hostSuspend cmd => Sys2Proof.Machine.execHostSuspend cmd s
  | .hostResetCmd cmd => Sys2Proof.Machine.execHostResetCmd cmd s
  | .hostModeSwitch cmd => Sys2Proof.Machine.execHostModeSwitch cmd s
  | .hostOpcodeDenied cmd => Sys2Proof.Machine.execHostOpcodeDenied cmd s
  | .hostResetPin port => Sys2Proof.Machine.execHostResetPin port s
  | .guardCommit j manifest images => Sys2Proof.Machine.execGuardCommit j manifest images s
  | .guardHold j => Sys2Proof.Machine.execGuardHold j s
  | .guardReverify j => Sys2Proof.Machine.execGuardReverify j s
  | .guardSvnAdvance j => Sys2Proof.Machine.execGuardSvnAdvance j s
  | .getVersion msg ch => Sys2Proof.Machine.execGetVersion msg s ch
  | .getCapabilities msg ch => Sys2Proof.Machine.execGetCapabilities msg s ch
  | .negotiateAlgorithms msg ch => Sys2Proof.Machine.execNegotiateAlgorithms msg s ch
  | .getDigests msg ch => Sys2Proof.Machine.execGetDigests msg s ch
  | .getCertificate slot off len msg ch => Sys2Proof.Machine.execGetCertificate slot off len msg s ch
  | .challenge slot msg ch => Sys2Proof.Machine.execChallenge slot msg s ch
  | .getMeasurements slot index sign msg ch => Sys2Proof.Machine.execGetMeasurements slot index sign msg s ch
  | .keyExchange slot msg ch => Sys2Proof.Machine.execKeyExchange slot msg s ch
  | .finish msg verifyDataOk ch => Sys2Proof.Machine.execFinish msg verifyDataOk s ch
  | .keyUpdate msg ch => Sys2Proof.Machine.execKeyUpdate msg s ch
  | .heartbeat msg ch => Sys2Proof.Machine.execHeartbeat msg s ch
  | .endSession msg ch => Sys2Proof.Machine.execEndSession msg s ch
  | .chunkSend chunk last ch => Sys2Proof.Machine.execChunkSend chunk last s ch
  | .chunkGet msg ch => Sys2Proof.Machine.execChunkGet msg s ch
  | .mgPointerWrite byte => Sys2Proof.Machine.execMgPointerWrite byte s
  | .mgAlertWrite value => Sys2Proof.Machine.execMgAlertWrite value s
  | .entdaa addr => Sys2Proof.Machine.execEntdaa addr s
  | .setdasa static addr => Sys2Proof.Machine.execSetdasa static addr s
  | .rstdaa => Sys2Proof.Machine.execRstdaa s
  | .enec => Sys2Proof.Machine.execEnec s
  | .disec => Sys2Proof.Machine.execDisec s
  | .setmwl len => Sys2Proof.Machine.execSetmwl len s
  | .setmrl len => Sys2Proof.Machine.execSetmrl len s
  | .getpid => Sys2Proof.Machine.execGetpid s
  | .getbcr => Sys2Proof.Machine.execGetbcr s
  | .getdcr => Sys2Proof.Machine.execGetdcr s
  | .getstatus => Sys2Proof.Machine.execGetstatus s
  | .getmwl => Sys2Proof.Machine.execGetmwl s
  | .getmrl => Sys2Proof.Machine.execGetmrl s
  | .getmxds => Sys2Proof.Machine.execGetmxds s
  | .setEndpointId b eid => Sys2Proof.Machine.execSetEndpointId b eid s
  | .getEndpointId b => Sys2Proof.Machine.execGetEndpointId b s
  | .getMctpVersionSupport b msgType => Sys2Proof.Machine.execGetMctpVersionSupport b msgType s
  | .getMessageTypeSupport b => Sys2Proof.Machine.execGetMessageTypeSupport b s
  | .getVendorMsgSupport b => Sys2Proof.Machine.execGetVendorMsgSupport b s
  | .mgControlRequest ch entry input => Sys2Proof.Machine.execMgControlRequest ch entry input s
  | .mgAuthNonceRequest ch => Sys2Proof.Machine.execMgAuthNonceRequest ch s
  | .mgAuthProof ch method proof => Sys2Proof.Machine.execMgAuthProof ch method proof s
  | .queryDeviceIdentifiers ch what => Sys2Proof.Machine.execQueryDeviceIdentifiers ch s what
  | .getFirmwareParameters ch => Sys2Proof.Machine.execGetFirmwareParameters ch s
  | .requestUpdate ch eid maxTransfer => Sys2Proof.Machine.execRequestUpdate ch eid maxTransfer s
  | .passComponentTable ch component => Sys2Proof.Machine.execPassComponentTable ch component s
  | .updateComponent ch header => Sys2Proof.Machine.execUpdateComponent ch header s
  | .firmwareDataResponse ch offset data readBackOk => Sys2Proof.Machine.execFirmwareDataResponse ch offset data readBackOk s
  | .activateFirmware ch => Sys2Proof.Machine.execActivateFirmware ch s
  | .getStatus ch => Sys2Proof.Machine.execGetStatus ch s
  | .cancelUpdateComponent ch => Sys2Proof.Machine.execCancelUpdateComponent ch s
  | .cancelUpdate ch => Sys2Proof.Machine.execCancelUpdate ch s
  | .sessionAssign j inp => Sys2Proof.Machine.execSessionAssign j inp s
  | .sessionOpenNonce j => Sys2Proof.Machine.execSessionOpenNonce j s
  | .sessionOpenProof j inp => Sys2Proof.Machine.execSessionOpenProof j inp s
  | .sessionClose j => Sys2Proof.Machine.execSessionClose j s
  | .sessionIdleClose fn => Sys2Proof.Machine.execSessionIdleClose fn s
  | .nonceExpired fn => Sys2Proof.Machine.execNonceExpired fn s
  | .lockoutExpired fn => Sys2Proof.Machine.execLockoutExpired fn s
  | .doorbellSqRing q => Sys2Proof.Machine.execDoorbellSqRing q s
  | .doorbellCqReport q cqHead cqPhase => Sys2Proof.Machine.execDoorbellCqReport q cqHead cqPhase s
  | .sqRepoll q => Sys2Proof.Machine.execSqRepoll q s
  | .indexBlockRead q sqTail rsvdZero err => Sys2Proof.Machine.execIndexBlockRead q sqTail rsvdZero err s
  | .sqFetch q entries err => Sys2Proof.Machine.execSqFetch q entries err s
  | .hopperDispatch cls inFrags outFrags fragErr => Sys2Proof.Machine.execHopperDispatch cls inFrags outFrags s fragErr
  | .engineWindowAdvance => Sys2Proof.Machine.execEngineWindowAdvance s
  | .shareWindowEnd cls => Sys2Proof.Machine.execShareWindowEnd cls s
  | .modTimerExpired q => Sys2Proof.Machine.execModTimerExpired q s
  | .jobComplete j fault ecc => Sys2Proof.Machine.execJobComplete j fault ecc s
  | .yieldPoint j => Sys2Proof.Machine.execYieldPoint j s
  | .jobResume j => Sys2Proof.Machine.execJobResume j s
  | .entropyWaitEnd j => Sys2Proof.Machine.execEntropyWaitEnd j s
  | .entropyWaitTimeout j => Sys2Proof.Machine.execEntropyWaitTimeout j s
  | .queueCreate j => Sys2Proof.Machine.execQueueCreate j s
  | .queueDestroy j => Sys2Proof.Machine.execQueueDestroy j s
  | .queueDrained q => Sys2Proof.Machine.execQueueDrained q s
  | .queueRestart j => Sys2Proof.Machine.execQueueRestart j s
  | .queueEnable q cfg => Sys2Proof.Machine.execQueueEnable q cfg s
  | .queueDisable q => Sys2Proof.Machine.execQueueDisable q s
  | .adminQueueRestart fn skip => Sys2Proof.Machine.execAdminQueueRestart fn skip s
  | .qSubmittedRead q => Sys2Proof.Machine.execQSubmittedRead q s
  | .identify j => Sys2Proof.Machine.execIdentify j s
  | .abort j => Sys2Proof.Machine.execAbort j s
  | .rootImport j inp => Sys2Proof.Machine.execRootImport j inp s
  | .rootGenerate j => Sys2Proof.Machine.execRootGenerate j s
  | .rootSpoil j => Sys2Proof.Machine.execRootSpoil j s
  | .opstoreConfig j inp => Sys2Proof.Machine.execOpstoreConfig j inp s
  | .slotGrant j => Sys2Proof.Machine.execSlotGrant j s
  | .counterReestablish j inp => Sys2Proof.Machine.execCounterReestablish j inp s
  | .timeSet j => Sys2Proof.Machine.execTimeSet j s
  | .timeSetTimeout j => Sys2Proof.Machine.execTimeSetTimeout j s
  | .ppsEdge => Sys2Proof.Machine.execPpsEdge s
  | .eventLogRead j => Sys2Proof.Machine.execEventLogRead j s
  | .spoilNow j => Sys2Proof.Machine.execSpoilNow j s
  | .fuseProgram j inp badWord => Sys2Proof.Machine.execFuseProgram j inp badWord s
  | .fuseLock j badWord => Sys2Proof.Machine.execFuseLock j badWord s
  | .lcTransition j inp badWord => Sys2Proof.Machine.execLcTransition j inp s badWord
  | .ownerTransfer j badWord => Sys2Proof.Machine.execOwnerTransfer j s badWord
  | .debugNonce j => Sys2Proof.Machine.execDebugNonce j s
  | .debugCert j inp => Sys2Proof.Machine.execDebugCert j inp s
  | .mfgCmd entry input => Sys2Proof.Machine.execMfgCmd entry input s
  | .mfgRsp => Sys2Proof.Machine.execMfgRsp s
  | .tapBypass => Sys2Proof.Machine.execTapBypass s
  | .tapIdcode => Sys2Proof.Machine.execTapIdcode s
  | .tapSamplePreload => Sys2Proof.Machine.execTapSamplePreload s
  | .tapExtest => Sys2Proof.Machine.execTapExtest s
  | .updateBegin j inp => Sys2Proof.Machine.execUpdateBegin j inp s
  | .updateBlock j inp => Sys2Proof.Machine.execUpdateBlock j inp s
  | .updateVerify j readBackOk => Sys2Proof.Machine.execUpdateVerify j readBackOk s
  | .updateActivate j => Sys2Proof.Machine.execUpdateActivate j s
  | .updateConfirm j => Sys2Proof.Machine.execUpdateConfirm j s
  | .updateCancel j => Sys2Proof.Machine.execUpdateCancel j s
  | .updateLockExpired => Sys2Proof.Machine.execUpdateLockExpired s
  | .activationTimeReached => Sys2Proof.Machine.execActivationTimeReached s
  | .alignLost => Sys2Proof.Machine.execAlignLost s
  | .activationDeferred => Sys2Proof.Machine.execActivationDeferred s
  | .activationStart => Sys2Proof.Machine.execActivationStart s
  | .activationDrainExpired => Sys2Proof.Machine.execActivationDrainExpired s
  | .activationCopyDone => Sys2Proof.Machine.execActivationCopyDone s
  | .microcodeSwap => Sys2Proof.Machine.execMicrocodeSwap s
  | .policySwap => Sys2Proof.Machine.execPolicySwap s
  | .selftestDone passed => Sys2Proof.Machine.execSelftestDone passed s
  | .confirmDeadlineExpired => Sys2Proof.Machine.execConfirmDeadlineExpired s
  | .confirmationRun => Sys2Proof.Machine.execConfirmationRun s
  | .restore => Sys2Proof.Machine.execRestore s
  | .ctxCreate j => Sys2Proof.Machine.execCtxCreate j s
  | .ctxQuery j => Sys2Proof.Machine.execCtxQuery j s
  | .invalidate j => Sys2Proof.Machine.execInvalidate j s
  | .invalidateBarrier j => Sys2Proof.Machine.execInvalidateBarrier j s
  | .sweep j => Sys2Proof.Machine.execSweep j s
  | .contextImageSave j => Sys2Proof.Machine.execContextImageSave j s
  | .contextImageCommit j => Sys2Proof.Machine.execContextImageCommit j s
  | .contextImageLoad j inp => Sys2Proof.Machine.execContextImageLoad j inp s
  | .scopeSet j => Sys2Proof.Machine.execScopeSet j s
  | .externalWrap j inp => Sys2Proof.Machine.execExternalWrap j inp s
  | .keyExport j => Sys2Proof.Machine.execKeyExport j s
  | .migrateStatement j inp => Sys2Proof.Machine.execMigrateStatement j inp s
  | .migrateExportNonce j => Sys2Proof.Machine.execMigrateExportNonce j s
  | .migrateExport j inp => Sys2Proof.Machine.execMigrateExport j inp s
  | .migrateImport j inp => Sys2Proof.Machine.execMigrateImport j inp s
  | .statefulQuery j => Sys2Proof.Machine.execStatefulQuery j s
  | .reservationWrite rec => Sys2Proof.Machine.execReservationWrite rec s
  | .mlkemKeygen j => Sys2Proof.Machine.execMlkemKeygen j s
  | .mlkemEncaps j inp => Sys2Proof.Machine.execMlkemEncaps j inp s
  | .mlkemDecaps j inp => Sys2Proof.Machine.execMlkemDecaps j inp s
  | .mlkemEncapsInternal j inp => Sys2Proof.Machine.execMlkemEncapsInternal j inp s
  | .mlkemKeygenInternal j inp => Sys2Proof.Machine.execMlkemKeygenInternal j inp s
  | .mldsaKeygen j => Sys2Proof.Machine.execMldsaKeygen j s
  | .mldsaSign j inp => Sys2Proof.Machine.execMldsaSign j inp s
  | .mldsaVerify j inp => Sys2Proof.Machine.execMldsaVerify j inp s
  | .mldsaKeygenInternal j inp => Sys2Proof.Machine.execMldsaKeygenInternal j inp s
  | .hash j inp => Sys2Proof.Machine.execHash j inp s
  | .cshake j inp => Sys2Proof.Machine.execCshake j inp s
  | .kmac j inp => Sys2Proof.Machine.execKmac j inp s
  | .hmac j inp => Sys2Proof.Machine.execHmac j inp s
  | .streamOpen j inp => Sys2Proof.Machine.execStreamOpen j inp s
  | .streamPart j inp => Sys2Proof.Machine.execStreamPart j inp s
  | .streamFinal j inp => Sys2Proof.Machine.execStreamFinal j inp s
  | .slhdsaKeygen j => Sys2Proof.Machine.execSlhdsaKeygen j s
  | .slhdsaSign j inp => Sys2Proof.Machine.execSlhdsaSign j inp s
  | .slhdsaVerify j inp => Sys2Proof.Machine.execSlhdsaVerify j inp s
  | .slhdsaKeygenInternal j inp => Sys2Proof.Machine.execSlhdsaKeygenInternal j inp s
  | .lmsKeygen j => Sys2Proof.Machine.execLmsKeygen j s
  | .lmsSign j inp => Sys2Proof.Machine.execLmsSign j inp s
  | .lmsVerify j inp => Sys2Proof.Machine.execLmsVerify j inp s
  | .xmssKeygen j => Sys2Proof.Machine.execXmssKeygen j s
  | .xmssSign j inp => Sys2Proof.Machine.execXmssSign j inp s
  | .xmssVerify j inp => Sys2Proof.Machine.execXmssVerify j inp s
  | .cacheSave j => Sys2Proof.Machine.execCacheSave j s
  | .cacheLoad j inp => Sys2Proof.Machine.execCacheLoad j inp s
  | .seal j inp => Sys2Proof.Machine.execSeal j inp s
  | .mceKeygen j => Sys2Proof.Machine.execMceKeygen j s
  | .mceEncaps j inp => Sys2Proof.Machine.execMceEncaps j inp s
  | .mceDecaps j inp => Sys2Proof.Machine.execMceDecaps j inp s
  | .mcePkLoad j inp => Sys2Proof.Machine.execMcePkLoad j inp s
  | .hqcKeygen j => Sys2Proof.Machine.execHqcKeygen j s
  | .hqcEncaps j inp => Sys2Proof.Machine.execHqcEncaps j inp s
  | .hqcDecaps j inp => Sys2Proof.Machine.execHqcDecaps j inp s
  | .ecKeygen j => Sys2Proof.Machine.execEcKeygen j s
  | .ecdsaSign j inp => Sys2Proof.Machine.execEcdsaSign j inp s
  | .ecdsaVerify j inp => Sys2Proof.Machine.execEcdsaVerify j inp s
  | .ecdh j inp => Sys2Proof.Machine.execEcdh j inp s
  | .eddsaSign j inp => Sys2Proof.Machine.execEddsaSign j inp s
  | .eddsaVerify j inp => Sys2Proof.Machine.execEddsaVerify j inp s
  | .ecValidate j inp => Sys2Proof.Machine.execEcValidate j inp s
  | .curveLoad j inp => Sys2Proof.Machine.execCurveLoad j inp s
  | .rsaKeygen j => Sys2Proof.Machine.execRsaKeygen j s
  | .rsaKeyLoad j inp => Sys2Proof.Machine.execRsaKeyLoad j inp s
  | .rsaPrivate j inp => Sys2Proof.Machine.execRsaPrivate j inp s
  | .rsaPublic j inp => Sys2Proof.Machine.execRsaPublic j inp s
  | .modexp j inp => Sys2Proof.Machine.execModexp j inp s
  | .modmul j inp => Sys2Proof.Machine.execModmul j inp s
  | .modinv j inp => Sys2Proof.Machine.execModinv j inp s
  | .dxProgramLoad j inp => Sys2Proof.Machine.execDxProgramLoad j inp s
  | .dxRun j => Sys2Proof.Machine.execDxRun j s
  | .dxSlotWrite j inp => Sys2Proof.Machine.execDxSlotWrite j inp s
  | .dxSlotRead j => Sys2Proof.Machine.execDxSlotRead j s
  | .gcmEncrypt j inp => Sys2Proof.Machine.execGcmEncrypt j inp s
  | .gcmDecrypt j inp => Sys2Proof.Machine.execGcmDecrypt j inp s
  | .xtsEncrypt j inp => Sys2Proof.Machine.execXtsEncrypt j inp s
  | .xtsDecrypt j inp => Sys2Proof.Machine.execXtsDecrypt j inp s
  | .kwWrap j inp => Sys2Proof.Machine.execKwWrap j inp s
  | .kwUnwrap j inp => Sys2Proof.Machine.execKwUnwrap j inp s
  | .cmac j inp => Sys2Proof.Machine.execCmac j inp s
  | .random j inp => Sys2Proof.Machine.execRandom j inp s
  | .noiseRead j => Sys2Proof.Machine.execNoiseRead j s
  | .druClaim tag page who => Sys2Proof.Machine.execDruClaim tag page s who
  | .druRelease page who => Sys2Proof.Machine.execDruRelease page s who
  | .druStart alg sealed page who => Sys2Proof.Machine.execDruStart alg sealed page s who
  | .druRestore sealed page => Sys2Proof.Machine.execDruRestore sealed page s
  | .druSave page => Sys2Proof.Machine.execDruSave page s
  | .druPageSelect page => Sys2Proof.Machine.execDruPageSelect page s
  | .druSaveDone => Sys2Proof.Machine.execDruSaveDone s
  | .druDataWrite size word who => Sys2Proof.Machine.execDruDataWrite size word s who
  | .druLastcntWrite count who => Sys2Proof.Machine.execDruLastcntWrite count s who
  | .druLastWrite size word who => Sys2Proof.Machine.execDruLastWrite size word s who
  | .druFinishDone => Sys2Proof.Machine.execDruFinishDone s
  | .druExpectWrite index value => Sys2Proof.Machine.execDruExpectWrite index value s
  | .druResultRead index doneThisCycle part => Sys2Proof.Machine.execDruResultRead index doneThisCycle s part
  | .blockRelease => Sys2Proof.Machine.execBlockRelease s
  | .pairFailure osc test partner => Sys2Proof.Machine.execPairFailure osc test partner s
  | .retestPass pair => Sys2Proof.Machine.execRetestPass pair s
  | .lidMesh nets => Sys2Proof.Machine.execLidMesh nets s
  | .loopMismatch n => Sys2Proof.Machine.execLoopMismatch n s
  | .voltageMinor => Sys2Proof.Machine.execVoltageMinor s
  | .clockMinor => Sys2Proof.Machine.execClockMinor s
  | .tempMinor code => Sys2Proof.Machine.execTempMinor s code
  | .minorPersist cls => Sys2Proof.Machine.execMinorPersist cls s
  | .lockstep => Sys2Proof.Machine.execLockstep s
  | .sramCorrected w => Sys2Proof.Machine.execSramCorrected w s
  | .sramUncorrectable w => Sys2Proof.Machine.execSramUncorrectable w s
  | .coreMismatch core => Sys2Proof.Machine.execCoreMismatch core s
  | .coreKat failed => Sys2Proof.Machine.execCoreKat failed s
  | .tamperClear => Sys2Proof.Machine.execTamperClear s
  | .rootDisablePending => Sys2Proof.Machine.execRootDisablePending s
  | .tamperRecordHandled => Sys2Proof.Machine.execTamperRecordHandled s
  | .logBufferFlush => Sys2Proof.Machine.execLogBufferFlush s
  | .mramRefresh => Sys2Proof.Machine.execMramRefresh s
  | .vbatRemoved => Sys2Proof.Machine.execVbatRemoved s
  | .vbatApplied => Sys2Proof.Machine.execVbatApplied s
  | .linkTrainingComplete => Sys2Proof.Machine.execLinkTrainingComplete s
  | .mgRegisterRead len => Sys2Proof.Machine.execMgRegisterRead len s
  | .tapDebugInstruction f => Sys2Proof.Machine.execTapDebugInstruction f s
  | .highHalfWaitTimeout j => Sys2Proof.Machine.execHighHalfWaitTimeout j s
  | .randomCapStep => Sys2Proof.Machine.execRandomCapStep s
  | .indexPortServe => Sys2Proof.Machine.execIndexPortServe s

end Sys2Proof.Machine
end

