-- ==== Sys2Proof/Safety.lean ====
section
/-!
DEFINITION. Safety.lean: the terms in which the statements speak of a run: a step that answers a next state, a job that
runs a command's opcode with its input, the ending a job has got, and what of the machine two states share.
-/
namespace Sys2Proof.Machine
open Sys2Proof

/-- The step answers a next state. -/
def Runs (s : State) : Prop := ∃ t, step s = .next t

/-- Job `id` is `j`: it runs opcode `op`, nothing has stopped it, and `inp` is its input (R219, R225). -/
abbrev State.runsJob (s : State) (id : Nat) (j : Job) (op : Op) (inp : Bytes) : Prop :=
  s.job? id = some j ∧ j.op = opCode op ∧ j.phase = .running ∧ j.stop = none ∧ inp.length = j.entry.inLen.toNat
    ∧ (j.q.hasRing = true ∨ inp = j.linkIn)

/-- The DRBGs let the job go: it needs no entropy, has its own already, or they are ready (R444, R445). -/
abbrev State.passes (s : State) (j : Job) (op : Op) : Prop := s.gate j (s.needsEntropy j.q.fn j.entry op) = .go

/-- Job `id` has ended with this status, RESULT and output (R187). -/
def State.endedWith (t : State) (id : Nat) (status : Status) (result : BitVec 64) (out : Bytes) : Prop :=
  ∃ j e, t.job? id = some j ∧ j.phase = .ended ∧ j.ending = some e ∧ e.status = status ∧ e.result = result ∧ e.out = out

/-- The in-band interrupt that a response pending on a binding raises (R161). -/
def State.ibiOf (s : State) (b : Binding) : List Out := if b = .i3c ∧ s.mgmt.ibiOn = true ∧ s.i3cMode = true then [.ibi 0xAE] else []

/-- Of `s`, `t` has answered an SPDM request with `data`: sent, or kept for CHUNK_GET where the requester takes less at a
time (R136). -/
def State.answersSpdm (s t : State) (ch : Channel) (data : Bytes) : Prop :=
  if t.mgmt.xfer ≠ 0 ∧ t.mgmt.xfer < data.length then
    t.mgmt.reply = data ∧ t.out = s.ibiOf ch.binding ++ .spdmError ch 0x0F :: s.out
  else t.out = s.ibiOf ch.binding ++ .spdm ch data :: s.out

/-! ### Frames: what two states share -/

/-- The components of a state. -/
inductive Field where
  | power | thermal | boot | keeper | logs | fuses | guard | fns | mgmt | queues | jobs | sched
  | keys | store | tables | dru | ent | flt | upd | nextJob | freeCtr | out | pending
  deriving DecidableEq, Repr

/-- The type of a component. -/
def Field.Ty : Field → Type
  | .power => Power
  | .thermal => Thermal
  | .boot => Boot
  | .keeper => Keeper
  | .logs => Logs
  | .fuses => Fuses
  | .guard => Guard
  | .fns => List FnState
  | .mgmt => Mgmt
  | .queues => List Queue
  | .jobs => List Job
  | .sched => Sched
  | .keys => Keys
  | .store => OpStore
  | .tables => Tables
  | .dru => Dru
  | .ent => Entropy
  | .flt => Faults
  | .upd => Update
  | .nextJob => Nat
  | .freeCtr => Nat
  | .out => List Out
  | .pending => List Instr

/-- A component of a state. -/
def State.get (s : State) : (f : Field) → f.Ty
  | .power => s.power
  | .thermal => s.thermal
  | .boot => s.boot
  | .keeper => s.keeper
  | .logs => s.logs
  | .fuses => s.fuses
  | .guard => s.guard
  | .fns => s.fns
  | .mgmt => s.mgmt
  | .queues => s.queues
  | .jobs => s.jobs
  | .sched => s.sched
  | .keys => s.keys
  | .store => s.store
  | .tables => s.tables
  | .dru => s.dru
  | .ent => s.ent
  | .flt => s.flt
  | .upd => s.upd
  | .nextJob => s.nextJob
  | .freeCtr => s.freeCtr
  | .out => s.out
  | .pending => s.pending

/-- `t` differs from `s` in the listed components at most. -/
def State.changesOnly (s t : State) (l : List Field) : Prop := ∀ f, f ∉ l → t.get f = s.get f

/-- The components that a row may change, for the rows that run a command of a
queue or a link, with the job each acts on. -/
def jobTouches : Instr → Option (Nat × List Field)
  | .identify j | .eventLogRead j | .ctxQuery j | .statefulQuery j | .mlkemEncapsInternal j _ |
    .mlkemKeygenInternal j _ | .mldsaVerify j _ | .mldsaKeygenInternal j _ | .hash j _ | .cshake j _ |
    .slhdsaVerify j _ | .slhdsaKeygenInternal j _ | .lmsVerify j _ | .xmssVerify j _ | .cacheSave j |
    .ecdsaVerify j _ | .eddsaVerify j _ | .ecValidate j _ | .curveLoad j _ | .rsaPublic j _ | .dxProgramLoad j _ |
    .dxSlotRead j => some (j, [.jobs, .tables])
  | .ctxCreate j | .scopeSet j => some (j, [.jobs, .keys, .tables])
  | .opstoreConfig j _ | .slotGrant j | .cacheLoad j _ | .mcePkLoad j _ | .dxSlotWrite j _
    => some (j, [.jobs, .store, .tables])
  | .externalWrap j _ | .keyExport j | .mlkemDecaps j _ | .mldsaKeygen j | .kmac j _ | .hmac j _ | .streamOpen j _ |
    .streamPart j _ | .streamFinal j _ | .slhdsaKeygen j | .mceDecaps j _ | .hqcKeygen j | .hqcDecaps j _ |
    .ecKeygen j | .ecdh j _ | .eddsaSign j _ | .rsaPrivate j _ | .modexp j _ | .modmul j _ | .modinv j _ |
    .gcmDecrypt j _ | .xtsEncrypt j _ | .xtsDecrypt j _ | .kwWrap j _ | .kwUnwrap j _ | .cmac j _
    => some (j, [.jobs, .tables, .ent])
  | .noiseRead j => some (j, [.jobs, .tables, .freeCtr])
  | .updateBlock j _ | .updateActivate j | .updateConfirm j => some (j, [.jobs, .tables, .upd])
  | .sessionAssign j _ | .debugNonce j | .contextImageCommit j => some (j, [.keeper, .jobs, .tables])
  | .queueCreate j | .queueRestart j => some (j, [.queues, .jobs, .tables])
  | .timeSet j => some (j, [.boot, .jobs, .tables, .upd])
  | .sessionClose j => some (j, [.fns, .mgmt, .jobs, .tables])
  | .fuseLock j _ => some (j, [.fuses, .jobs, .tables, .freeCtr])
  | .rootImport j _ => some (j, [.jobs, .keys, .tables, .ent])
  | .rsaKeyLoad j _ => some (j, [.jobs, .store, .tables, .ent])
  | .updateCancel j => some (j, [.jobs, .store, .tables, .upd])
  | .mlkemEncaps j _ | .mldsaSign j _ | .slhdsaSign j _ | .seal j _ | .mceEncaps j _ | .hqcEncaps j _ |
    .ecdsaSign j _ | .rsaKeygen j | .gcmEncrypt j _ | .random j _ => some (j, [.jobs, .tables, .ent, .freeCtr])
  | .rootSpoil j | .invalidate j | .sweep j => some (j, [.keeper, .jobs, .keys, .tables])
  | .sessionOpenProof j _ => some (j, [.fns, .mgmt, .jobs, .keys, .tables])
  | .fuseProgram j _ _ => some (j, [.fuses, .jobs, .tables, .ent, .freeCtr])
  | .rootGenerate j => some (j, [.jobs, .keys, .tables, .ent, .freeCtr])
  | .mlkemKeygen j | .lmsSign j _ | .xmssSign j _ | .mceKeygen j | .dxRun j
    => some (j, [.jobs, .store, .tables, .ent, .freeCtr])
  | .debugCert j _ => some (j, [.keeper, .jobs, .keys, .store, .tables])
  | .contextImageLoad j _ | .migrateImport j _ => some (j, [.keeper, .jobs, .keys, .tables, .ent])
  | .contextImageSave j | .migrateStatement j _ | .migrateExportNonce j
    => some (j, [.keeper, .jobs, .tables, .ent, .freeCtr])
  | .sessionOpenNonce j => some (j, [.fns, .mgmt, .jobs, .tables, .ent, .freeCtr])
  | .guardReverify j => some (j, [.guard, .mgmt, .jobs, .tables, .flt, .out])
  | .updateBegin j _ => some (j, [.jobs, .store, .tables, .upd, .freeCtr, .out])
  | .migrateExport j _ => some (j, [.keeper, .jobs, .keys, .tables, .ent, .freeCtr])
  | .lmsKeygen j | .xmssKeygen j => some (j, [.keeper, .jobs, .store, .tables, .ent, .freeCtr])
  | .guardSvnAdvance j => some (j, [.keeper, .mgmt, .jobs, .tables, .flt, .out])
  | .queueDestroy j | .abort j => some (j, [.queues, .jobs, .keys, .store, .tables, .freeCtr])
  | .updateVerify j _ => some (j, [.guard, .mgmt, .jobs, .tables, .flt, .upd, .out])
  | .ownerTransfer j _ => some (j, [.keeper, .fuses, .fns, .mgmt, .jobs, .keys, .store, .tables, .freeCtr])
  | .guardCommit j _ _ => some (j, [.keeper, .guard, .mgmt, .jobs, .tables, .flt, .upd, .freeCtr, .out])
  | .guardHold j => some (j, [.keeper, .logs, .guard, .fns, .mgmt, .jobs, .tables, .flt, .out])
  | .spoilNow j
    => some (j, [.logs, .fuses, .fns, .mgmt, .jobs, .keys, .store, .tables, .dru, .ent, .flt, .upd, .freeCtr, .out])
  | .lcTransition j _ _
    => some (j, [.boot, .keeper, .logs, .fuses, .guard, .fns, .mgmt, .queues, .jobs, .sched, .keys, .store, .tables,
      .dru, .ent, .flt, .upd, .freeCtr, .out])
  | .counterReestablish j _
    => some (j, [.power, .boot, .keeper, .logs, .guard, .fns, .mgmt, .queues, .jobs, .sched, .keys, .store, .tables,
      .dru, .ent, .flt, .upd, .freeCtr, .out])
  | _ => none

/-- The components that a row may change, for the rows that the host, the
flash hosts, the management controller or the TAP send. -/
def busTouches : Instr → Option (List Field)
  | .perstDeassert => some [.boot]
  | .druFinishDone => some [.dru]
  | .tapReset | .tapBypass => some [.flt]
  | .flrComplete _ | .vfEnableSet _ | .d3hotEntry _ => some [.fns]
  | .hostResetPin _ => some [.guard]
  | .mgPointerWrite _ | .mgAlertWrite _ | .entdaa _ | .setdasa _ _ | .rstdaa | .enec | .disec | .setmwl _ | .setmrl _
    => some [.mgmt]
  | .getpid | .getbcr | .getdcr | .getstatus | .getmwl | .getmrl | .getmxds | .getEndpointId _ |
    .getMctpVersionSupport _ _ | .getMessageTypeSupport _ | .getVendorMsgSupport _ | .getFirmwareParameters _ |
    .getStatus _ => some [.out]
  | .sqRepoll _ => some [.queues]
  | .druSaveDone => some [.dru, .freeCtr]
  | .mfgRsp | .tapIdcode | .tapSamplePreload | .tapExtest | .tapDebugInstruction _ => some [.flt, .out]
  | .configRequest _ _ | .msixUnmask _ _ => some [.fns, .out]
  | .hostWriteEnable _ | .hostStatusRead _ _ | .hostIdRead _ _ | .hostSfdpRead _ _ | .hostSuspend _ |
    .hostResetCmd _ | .hostModeSwitch _ => some [.guard, .out]
  | .getVersion _ _ | .getCapabilities _ _ | .negotiateAlgorithms _ _ | .getDigests _ _ | .getCertificate _ _ _ _ _ |
    .finish _ _ _ | .keyUpdate _ _ | .heartbeat _ _ | .endSession _ _ | .chunkSend _ _ _ | .chunkGet _ _ |
    .setEndpointId _ _ | .queryDeviceIdentifiers _ _ | .passComponentTable _ _ => some [.mgmt, .out]
  | .pwrLimitWrite _ => some [.power, .out]
  | .queueEnable _ _ | .queueDisable _ | .adminQueueRestart _ _ | .qSubmittedRead _ => some [.queues, .out]
  | .devThermRead | .mgRegisterRead _ => some [.thermal, .out]
  | .activateFirmware _ => some [.upd, .out]
  | .druClaim _ _ _ | .druRelease _ _ | .druStart _ _ _ _ | .druRestore _ _ | .druSave _ | .druPageSelect _ |
    .druDataWrite _ _ _ | .druLastcntWrite _ _ | .druLastWrite _ _ _ => some [.dru, .flt, .out]
  | .evtCounterRead _ _ _ => some [.fns, .flt, .out]
  | .modTimerExpired _ => some [.fns, .queues, .out]
  | .requestUpdate _ _ _ => some [.mgmt, .upd, .out]
  | .doorbellSqRing _ => some [.fns, .queues, .flt, .out]
  | .hostProgram _ _ | .hostErase _ | .hostOpcodeDenied _ => some [.guard, .fns, .flt, .out]
  | .challenge _ _ _ | .getMeasurements _ _ _ _ _ | .keyExchange _ _ _ => some [.mgmt, .ent, .freeCtr, .out]
  | .queueDrained _ => some [.queues, .jobs, .sched, .tables]
  | .mfgCmd _ _ => some [.queues, .sched, .flt, .out]
  | .mgAuthNonceRequest _ => some [.fns, .mgmt, .ent, .freeCtr, .out]
  | .mgAuthProof _ _ _ => some [.fns, .mgmt, .keys, .flt, .out]
  | .firmwareDataResponse _ _ _ _ => some [.guard, .mgmt, .flt, .upd, .out]
  | .cancelUpdateComponent _ | .cancelUpdate _ => some [.jobs, .store, .tables, .upd, .out]
  | .druExpectWrite _ _ | .druResultRead _ _ _ => some [.jobs, .tables, .dru, .flt, .out]
  | .busMasterDisable _ => some [.fns, .jobs, .keys, .store, .tables, .freeCtr]
  | .updateComponent _ _ => some [.jobs, .store, .tables, .upd, .freeCtr, .out]
  | .hostRead _ _ _ _ => some [.logs, .guard, .fns, .mgmt, .jobs, .tables, .flt, .freeCtr, .out]
  | .owedBlockCheck _ _ | .mirrorRefetchDone _ _ _ => some [.logs, .guard, .fns, .mgmt, .jobs, .tables, .flt, .out]
  | .d0Return _ | .busMasterEnable _ => some [.fns, .queues, .jobs, .sched, .keys, .store, .tables, .flt, .upd, .out]
  | .doorbellCqReport _ _ _
    => some [.boot, .fns, .mgmt, .queues, .jobs, .keys, .store, .tables, .dru, .ent, .flt, .freeCtr, .out]
  | .vfEnableClear
    => some [.logs, .guard, .fns, .mgmt, .queues, .jobs, .sched, .keys, .store, .tables, .flt, .upd, .out]
  | .mgControlRequest _ _ _
    => some [.boot, .fns, .mgmt, .queues, .jobs, .sched, .keys, .store, .tables, .dru, .ent, .flt, .freeCtr, .out]
  | .flr _ => some [.logs, .guard, .fns, .mgmt, .queues, .jobs, .sched, .keys, .store, .tables, .dru, .flt, .upd, .out]
  | .dmaCompletion _ _ _ | .indexBlockRead _ _ _ _
    => some [.boot, .logs, .guard, .fns, .mgmt, .queues, .jobs, .keys, .store, .tables, .dru, .ent, .flt, .freeCtr, .out]
  | .sqFetch _ _ _
    => some [.boot, .logs, .guard, .fns, .mgmt, .queues, .jobs, .sched, .keys, .store, .tables, .dru, .ent, .flt,
      .freeCtr, .out]
  | .perstAssert
    => some [.power, .boot, .logs, .guard, .fns, .mgmt, .queues, .jobs, .sched, .keys, .store, .tables, .dru, .ent,
      .flt, .upd, .freeCtr, .out]
  | _ => none

/-- The components that a row may change, for the events: of pins, clocks,
supplies and sensors, of the engines and queues, of an update. -/
def eventTouches : Instr → Option (List Field)
  | .mramRefresh => some []
  | .linkTraining | .loaderConfigTakeover | .linkTrainingComplete => some [.boot]
  | .blockRelease | .retestPass _ => some [.ent]
  | .tamperClear => some [.flt]
  | .pltPgHigh _ | .pltPgFall _ => some [.guard]
  | .nvOkSet | .vbatApplied => some [.power]
  | .randomCapStep => some [.tables]
  | .activationTimeReached | .selftestDone _ | .confirmDeadlineExpired => some [.upd]
  | .nonceExpired _ | .lockoutExpired _ => some [.fns, .mgmt]
  | .entropyWaitEnd _ => some [.jobs, .ent]
  | .timeSetTimeout _ | .invalidateBarrier _ => some [.jobs, .tables]
  | .vinAverage _ | .vinTierDwellExpired _ => some [.power, .out]
  | .throttleRelease => some [.thermal, .out]
  | .jobResume _ => some [.jobs, .sched, .freeCtr]
  | .reservationWrite _ | .indexPortServe => some [.keeper, .jobs, .tables]
  | .vbatRemoved => some [.power, .boot, .logs]
  | .microcodeSwap => some [.store, .tables, .upd]
  | .ppsEdge => some [.boot, .jobs, .tables, .upd]
  | .sessionIdleClose _ => some [.fns, .mgmt, .flt, .out]
  | .highHalfWaitTimeout _ => some [.jobs, .store, .tables, .upd]
  | .entropyWaitTimeout _ => some [.jobs, .tables, .ent, .flt]
  | .throttleStep => some [.thermal, .fns, .flt, .out]
  | .railFault _ => some [.boot, .guard, .mgmt, .flt, .out]
  | .serviceReady => some [.boot, .mgmt, .dru, .flt, .out]
  | .confirmationRun => some [.keeper, .fuses, .jobs, .tables, .upd]
  | .coreMismatch _ | .coreKat _ | .logBufferFlush => some [.logs, .fns, .mgmt, .flt, .out]
  | .railsStart _ => some [.power, .boot, .mgmt, .flt, .out]
  | .tjSample _ => some [.thermal, .fns, .jobs, .flt, .out]
  | .railsUp | .tamperRecordHandled => some [.boot, .keeper, .mgmt, .dru, .flt, .out]
  | .domainRelease _ => some [.guard, .mgmt, .jobs, .tables, .flt, .out]
  | .yieldPoint _ => some [.jobs, .sched, .keys, .store, .tables, .freeCtr]
  | .alignLost | .activationDeferred => some [.logs, .fns, .mgmt, .flt, .upd, .out]
  | .rootDisablePending => some [.logs, .fuses, .fns, .mgmt, .flt, .out]
  | .pwrfailAssert => some [.power, .boot, .fns, .mgmt, .flt, .out]
  | .rootDisableAtStart => some [.boot, .logs, .fuses, .fns, .mgmt, .flt, .out]
  | .drbgInstantiate _ => some [.boot, .mgmt, .dru, .ent, .flt, .freeCtr, .out]
  | .guardCommitResume _ _ => some [.keeper, .logs, .guard, .fns, .mgmt, .flt, .out]
  | .shareWindowEnd _ => some [.logs, .fns, .mgmt, .queues, .sched, .flt, .out]
  | .pfHoldEnd _ => some [.power, .boot, .keeper, .mgmt, .jobs, .flt, .out]
  | .policySwap => some [.guard, .mgmt, .jobs, .store, .tables, .flt, .upd, .out]
  | .entropySamplingEnd _ => some [.logs, .fns, .mgmt, .jobs, .tables, .ent, .flt, .out]
  | .engineWindowAdvance => some [.logs, .fns, .mgmt, .queues, .sched, .flt, .freeCtr, .out]
  | .flashResetWaitEnd _ _ | .regionReadDone _ _ _ _ | .backgroundBurst _ _ _ _ | .pltRecoverEdge _
    => some [.logs, .guard, .fns, .mgmt, .jobs, .tables, .flt, .out]
  | .sramCorrected _ => some [.logs, .guard, .fns, .mgmt, .keys, .store, .flt, .out]
  | .fusesSensed _ | .lcRollForward => some [.boot, .keeper, .logs, .fuses, .guard, .fns, .mgmt, .flt, .out]
  | .bundleVerify _ _ => some [.boot, .logs, .fuses, .guard, .fns, .mgmt, .flt, .freeCtr, .out]
  | .manifestReadDone _ _ => some [.keeper, .logs, .guard, .fns, .mgmt, .jobs, .tables, .flt, .out]
  | .updateLockExpired => some [.logs, .fns, .mgmt, .jobs, .store, .tables, .flt, .upd, .out]
  | .pairFailure _ _ _ => some [.logs, .fns, .mgmt, .jobs, .tables, .ent, .flt, .freeCtr, .out]
  | .activationRollForward => some [.boot, .keeper, .logs, .fuses, .fns, .mgmt, .store, .flt, .upd, .out]
  | .fwStart _ _ => some [.boot, .keeper, .logs, .guard, .fns, .mgmt, .keys, .store, .tables, .ent, .flt, .upd, .out]
  | .activationStart => some [.guard, .fns, .mgmt, .queues, .jobs, .keys, .store, .tables, .flt, .upd, .out]
  | .sramUncorrectable _ => some [.logs, .guard, .fns, .mgmt, .jobs, .keys, .store, .tables, .flt, .freeCtr, .out]
  | .hopperDispatch _ _ _ _
    => some [.logs, .guard, .fns, .mgmt, .queues, .jobs, .sched, .keys, .store, .tables, .flt, .nextJob, .freeCtr, .out]
  | .activationDrainExpired
    => some [.boot, .logs, .guard, .fns, .mgmt, .queues, .jobs, .sched, .keys, .store, .tables, .flt, .upd, .freeCtr,
      .out]
  | .activationCopyDone
    => some [.boot, .logs, .guard, .fns, .mgmt, .queues, .jobs, .sched, .keys, .store, .tables, .dru, .ent, .flt,
      .upd, .out]
  | .registerWrite _ _ _ _
    => some [.power, .thermal, .boot, .guard, .fns, .mgmt, .queues, .jobs, .keys, .store, .tables, .dru, .ent, .flt,
      .freeCtr, .out]
  | .restore
    => some [.boot, .keeper, .logs, .guard, .fns, .mgmt, .queues, .jobs, .sched, .keys, .store, .tables, .dru, .ent,
      .flt, .upd, .out]
  | .undervoltage
    => some [.power, .boot, .logs, .guard, .fns, .mgmt, .queues, .jobs, .sched, .keys, .store, .tables, .dru, .ent,
      .flt, .upd, .out]
  | .jobComplete _ _ _ | .lidMesh _ | .loopMismatch _ | .voltageMinor | .clockMinor | .tempMinor _ |
    .minorPersist _ | .lockstep
    => some [.boot, .logs, .fuses, .guard, .fns, .mgmt, .queues, .jobs, .sched, .keys, .store, .tables, .dru, .ent,
      .flt, .upd, .freeCtr, .out]
  | .vinRestored _ _ _
    => some [.power, .thermal, .boot, .keeper, .logs, .fuses, .guard, .fns, .mgmt, .queues, .jobs, .sched, .keys,
      .store, .tables, .dru, .ent, .flt, .upd, .freeCtr, .out]
  | _ => none

/-- The sparse stores are in their one canonical form, so that equal stores are equal lists (`Sparse.wf`): the fuse array and
its shadows, context records, imported keys and operand slots. -/
def State.canonical (s : State) : Bool :=
  Sparse.wf 0 s.fuses.raw && Sparse.wf Shadow.blank s.fuses.shadow && Sparse.wf Ctx.blank s.keys.ctx
    && Sparse.wf [] s.keys.imported && Sparse.wf Slot.blank s.store.slots

end Sys2Proof.Machine
end

