-- ==== Sys2Proof/WellFormed.lean ====
section
/-!
DEFINITION. WellFormed.lean: which commands can occur at all: their operands name things the block has.
-/
namespace Sys2Proof

/-- A function number: the PF or VF 1 to 64 (R143). -/
def fnOk (f : Nat) : Bool := f ≤ 64

/-- A queue that the address map gives a register set (R176). -/
def QRef.ok : QRef → Bool
  | .admin f => fnOk f
  | .ctl n => n < 4
  | .job f q => fnOk f && 1 ≤ q && q ≤ (if f = 0 then 2042 else 64)
  | _ => true

/-- An access to a BAR: at least one byte, inside the largest BAR; its size and alignment may be any (R148). -/
def barOffsetOk (offset size : Nat) : Bool := 1 ≤ size && offset + size ≤ 0x4000000

/-- A command whose operands are in range. -/
def Instr.wf : Instr → Bool
  | .configRequest f _ | .flr f | .flrComplete f | .d3hotEntry f | .d0Return f | .busMasterDisable f
  | .busMasterEnable f | .msixUnmask f _ | .adminQueueRestart f _ => fnOk f
  | .sessionIdleClose f | .nonceExpired f | .lockoutExpired f => fnOk f || f = 255
  | .vfEnableSet n => n ≤ 64
  | .registerWrite f off size _ => fnOk f && barOffsetOk off size
  | .manifestReadDone d _ | .domainRelease d | .regionReadDone d .. | .backgroundBurst d .. => d < 8
  | .pltPgHigh n | .pltPgFall n | .loopMismatch n => n < 4
  | .doorbellSqRing q | .doorbellCqReport q .. | .sqRepoll q | .indexBlockRead q .. | .modTimerExpired q
  | .queueDrained q | .queueEnable q _ | .queueDisable q | .qSubmittedRead q => q.ok && QRef.rank q
  | .sqFetch q es _ => q.ok && es.length ≤ 8 && es.all fun e => e.length = 64
  | .mgControlRequest _ e _ | .mfgCmd e _ => e.length = 64
  | .druDataWrite n _ _ | .druLastWrite n _ _ => n = 4 || n = 8
  | .druExpectWrite i _ => i < 8
  | .pairFailure o _ p => o < 32 && p.all fun x => x < 32
  | .retestPass p => p < 16
  | .coreMismatch c => c < 512
  | .minorPersist c => c < 3
  | _ => true
where
  /-- A queue with rings: the management link and the manufacturing port have none. -/
  QRef.rank : QRef → Bool
    | .mgmt => false
    | .tap => false
    | _ => true

end Sys2Proof
end

