-- ==== Sys2Proof/Certificates/Slice0/Obligations.lean ====
section
/-!
DEFINITION. Obligations.lean: the statements for the provers. A command "completes" when exec answers a next state
with the command's own effect; hypotheses speak of the state and the operands alone.
-/
open Sys2Proof Sys2Proof.Machine

/-- A step takes the command at the front of the queue and runs it on the state with the queue's rest. -/
def Obligations.StepRunsFront : Prop :=
  ∀ (s : State) (c : Instr) (rest : List Instr), s.pending = c :: rest →
    step s = exec c { s with pending := rest }

/-- ML-KEM commands end with OK, RESULT and the output their rules name: the seed of a context key or 64 DRBG bytes (R299), m
of 32 DRBG bytes (R302), the modulus check passed (R304), and for an ephemeral key the slot that keeps dk (R300). The choices
in it: log rows 4, 5 and 39. -/
def Obligations.MlKemCompletes : Prop :=
  ∀ (s : State) (id : Nat) (j : Job) (inp : Bytes),
    (s.runsJob id j .mlkemKeygen [] → s.passes j .mlkemKeygen →
      let seed := if j.entry.ctx = 0 then s.freeNow 64 else mlkemSeed j.key (j.entry.p 0 1)
      ∃ t, exec (.mlkemKeygen id) s = .next t
        ∧ t.endedWith id st.ok (BitVec.ofNat 64 (j.entry.p 0 1)) (mlkemEk (j.entry.p 0 1) (slice seed 0 32) (slice seed 32 32))
        ∧ (j.entry.ctx = 0 → t.store = s.store.write j.entry.slotA.toNat (.mlkem (j.entry.p 0 1))
            (mlkemDk (j.entry.p 0 1) (slice seed 0 32) (slice seed 32 32)))
        ∧ (j.entry.ctx ≠ 0 → t.store = s.store))
    ∧ (s.runsJob id j .mlkemEncaps inp → s.passes j .mlkemEncaps → badCoeff (j.entry.p 0 1) inp = none →
      ∃ t, exec (.mlkemEncaps id inp) s = .next t
        ∧ t.endedWith id st.ok (BitVec.ofNat 64 (j.entry.p 0 1)) (mlkemEnc (j.entry.p 0 1) inp (s.freeNow 32)))
    ∧ (s.runsJob id j .mlkemDecaps inp → s.passes j .mlkemDecaps →
      (j.entry.ctx = 0 → (s.store.slot j.entry.slotA.toNat).tag = .mlkem (j.entry.p 0 1)) →
      let seed := mlkemSeed j.key (j.entry.p 0 1)
      let dk := if j.entry.ctx = 0 then (s.store.slot j.entry.slotA.toNat).content
                else mlkemDk (j.entry.p 0 1) (slice seed 0 32) (slice seed 32 32)
      ∃ t, exec (.mlkemDecaps id inp) s = .next t
        ∧ t.endedWith id st.ok (BitVec.ofNat 64 (j.entry.p 0 1)) (kemDecaps (j.entry.p 0 1) dk inp)
        ∧ t.store = s.store)
    ∧ (s.runsJob id j .mlkemEncapsInternal inp → badCoeff (j.entry.p 0 1) (inp.take (mlkemEkLen (j.entry.p 0 1))) = none →
      let n := mlkemEkLen (j.entry.p 0 1)
      ∃ t, exec (.mlkemEncapsInternal id inp) s = .next t
        ∧ t.endedWith id st.ok (BitVec.ofNat 64 (j.entry.p 0 1)) (mlkemEnc (j.entry.p 0 1) (inp.take n) (inp.drop n)))
    ∧ (s.runsJob id j .mlkemKeygenInternal inp →
      ∃ t, exec (.mlkemKeygenInternal id inp) s = .next t
        ∧ t.endedWith id st.ok (BitVec.ofNat 64 (j.entry.p 0 1))
            (mlkemEk (j.entry.p 0 1) (slice inp 0 32) (slice inp 32 32) ++ mlkemDk (j.entry.p 0 1) (slice inp 0 32) (slice inp 32 32)))

/-- ML-DSA commands complete: the context's seed (R299, R307), the message form and the random value of R309 and R312, RESULT
with the count of iterations, the hint check and the verdict of R311; the loop that outruns its bound of 1,000 ends with
ENGINE_FAULT (R312). The choices in it: log rows 4, 5, 39 and 40. -/
def Obligations.MlDsaCompletes : Prop :=
  ∀ (s : State) (id : Nat) (j : Job) (inp : Bytes),
    (s.runsJob id j .mldsaKeygen [] →
      s.passes j .mldsaKeygen →
      ∃ t, exec (.mldsaKeygen id) s = .next t
        ∧ t.endedWith id st.ok (BitVec.ofNat 64 (j.entry.p 0 1)) (mldsaPk (j.entry.p 0 1) (mldsaSeed j.key (j.entry.p 0 1))))
    ∧ (s.runsJob id j .mldsaSign inp → s.passes j .mldsaSign →
      let p := j.entry.p 0 1
      let rnd := if j.entry.flag 2 then zeros 32 else s.freeNow 32
      let mu := dsaMu (j.entry.p 1 1) (j.entry.p 3 1) (mldsaPk p (mldsaSeed j.key p))
        (inp.take (j.entry.p 2 1)) (inp.drop (j.entry.p 2 1))
      let sig := dsaSign p (mldsaSk p (mldsaSeed j.key p)) rnd mu
      ∃ t, exec (.mldsaSign id inp) s = .next t
        ∧ (∀ x, sig.2 = some x → t.endedWith id st.ok (BitVec.ofNat 64 (sig.1 + 65536 * p)) x)
        ∧ (sig.2 = none → t.endedWith id st.engineFault 1000 [])
        ∧ t.freeCtr = s.freeCtr + (if j.entry.flag 2 then 0 else 1))
    ∧ (s.runsJob id j .mldsaVerify inp →
      let p := j.entry.p 0 1
      let n := if j.entry.ctx = 0 then mldsaPkLen p else 0
      let pk := if j.entry.ctx = 0 then inp.take n else mldsaPk p (mldsaSeed j.key p)
      let sig := slice inp n (mldsaSigLen p)
      let form := inp.drop (n + mldsaSigLen p)
      hintOk p sig = true →
      let good := mldsaOk p (j.entry.p 1 1) (j.entry.p 3 1) pk (form.take (j.entry.p 2 1)) (form.drop (j.entry.p 2 1)) sig
      ∃ t, exec (.mldsaVerify id inp) s = .next t
        ∧ t.endedWith id (if good then st.ok else st.verifyFalse) (if good then pairTrue else pairFalse) [])
    ∧ (s.runsJob id j .mldsaKeygenInternal inp →
      ∃ t, exec (.mldsaKeygenInternal id inp) s = .next t
        ∧ t.endedWith id st.ok (BitVec.ofNat 64 (j.entry.p 0 1)) (mldsaPk (j.entry.p 0 1) inp ++ mldsaSk (j.entry.p 0 1) inp))

/-- Classic McEliece and HQC commands complete (R359 to R371): the DRBG seed and the attempts it takes, the blob of the
secret key, the public key kept in or taken from a slot, the header and tag of a key blob, HQC's padding check. The choices
in it: log rows 4, 5, 23, 40 and 97. -/
def Obligations.CodeBasedCompletes : Prop :=
  ∀ (s : State) (id : Nat) (j : Job) (inp : Bytes),
    let p := j.entry.p 0 1
    (s.runsJob id j .mceKeygen [] → s.passes j .mceKeygen →
      let key := mceKeys p (s.freeNow 32)
      ∃ t, exec (.mceKeygen id) s = .next t
        ∧ (∀ pk sk, key.2 = some (pk, sk) → t.endedWith id st.ok (BitVec.ofNat 64 (key.1 + 65536 * p))
              (pk ++ makeBlob j.key (j.crec.blobHeader 1 (mceSkLen p)) sk)
            ∧ t.store = (if j.entry.slotA = noSlot then s.store else s.store.write j.entry.slotA.toNat (.mce p) pk))
        ∧ (key.2 = none → t.endedWith id st.engineFault 1024 [] ∧ t.store = s.store))
    ∧ (s.runsJob id j .mceEncaps inp → s.passes j .mceEncaps →
      (j.entry.slotA ≠ noSlot → (s.store.slot j.entry.slotA.toNat).tag = .mce p) →
      let pk := if j.entry.slotA = noSlot then inp else (s.store.slot j.entry.slotA.toNat).content
      let w := mceWeight p fun k => Config.freeBytes (s.freeCtr + k) 512
      ∃ t, exec (.mceEncaps id inp) s = .next t
        ∧ t.endedWith id st.ok 0 ((mceEncaps p pk w.1).1 ++ (mceEncaps p pk w.1).2) ∧ t.freeCtr = s.freeCtr + w.2)
    ∧ (s.runsJob id j .mceDecaps inp → s.passes j .mceDecaps →
      let blob := inp.take (blobLen (mceSkLen p))
      blobFault j.crec (mceSkLen p) blob = none →
      let good := blobOk j.key blob
      ∃ t, exec (.mceDecaps id inp) s = .next t
        ∧ (good = true → t.endedWith id st.ok 0
            (mceDecaps p (blobSecret j.key blob) (inp.drop (blobLen (mceSkLen p)))))
        ∧ (good = false → t.endedWith id st.tagFail (j.plainResult st.tagFail) []))
    ∧ (s.runsJob id j .mcePkLoad inp →
      ∃ t, exec (.mcePkLoad id inp) s = .next t ∧ t.endedWith id st.ok 0 []
        ∧ t.store = s.store.write j.entry.slotA.toNat (.mce p) inp)
    ∧ (s.runsJob id j .hqcKeygen [] → s.passes j .hqcKeygen →
      ∃ t, exec (.hqcKeygen id) s = .next t
        ∧ t.endedWith id st.ok 0 (hqcPk p (hqcSeed j.key p)))
    ∧ (s.runsJob id j .hqcEncaps inp → s.passes j .hqcEncaps →
      ∃ t, exec (.hqcEncaps id inp) s = .next t
        ∧ (hqcPadBad p 32 inp = none →
            t.endedWith id st.ok 0 (hqcCt p inp (s.freeNow 64) ++ hqcKey p inp (s.freeNow 64)))
        ∧ (∀ k, hqcPadBad p 32 inp = some k → t.endedWith id st.decodeFail (BitVec.ofNat 64 k) []))
    ∧ (s.runsJob id j .hqcDecaps inp → s.passes j .hqcDecaps →
      ∃ t, exec (.hqcDecaps id inp) s = .next t
        ∧ (hqcPadBad p 0 inp = none → t.endedWith id st.ok 0 (hqcDecaps p (hqcSeed j.key p) inp))
        ∧ (∀ k, hqcPadBad p 0 inp = some k → t.endedWith id st.decodeFail (BitVec.ofNat 64 k) []))

/-- One-shot hash and MAC jobs complete: the input's parts in the order of R327 and R328, key bytes or the context's key
(R330), OUT_LEN or the digest length, and with CHECK the verdict on the expected tag (R329). The choices in it: log rows 4
and 96. -/
def Obligations.HashJobsComplete : Prop :=
  ∀ (s : State) (id : Nat) (j : Job) (inp : Bytes),
    let e := j.entry
    let alg := e.p 0 1
    let m := if e.flag 2 then inp.take (inp.length - e.p 8 2) else inp
    let tag := if e.flag 2 then inp.drop (inp.length - e.p 8 2) else []
    let key := if e.ctx = 0 then m.take (e.p 6 2) else j.key
    let rest := if e.ctx = 0 then m.drop (e.p 6 2) else m
    (s.runsJob id j .hash inp →
      ∃ t, exec (.hash id inp) s = .next t
        ∧ t.endedWith id st.ok (BitVec.ofNat 64 alg)
            (hashOut alg (if alg ≤ 6 then Config.digestLen alg else e.outLen.toNat) inp))
    ∧ (s.runsJob id j .cshake inp →
      ∃ t, exec (.cshake id inp) s = .next t
        ∧ t.endedWith id st.ok (BitVec.ofNat 64 alg)
            (cshakeOut alg e.outLen.toNat (inp.take (e.p 2 2)) (slice inp (e.p 2 2) (e.p 4 2)) (inp.drop (e.p 2 2 + e.p 4 2))))
    ∧ (s.runsJob id j .kmac inp → s.passes j .kmac →
      let out (n : Nat) : Bytes := kmacOut alg n (e.flag 3) key (rest.take (e.p 4 2)) (rest.drop (e.p 4 2))
      ∃ t, exec (.kmac id inp) s = .next t
        ∧ (e.flag 2 = false → t.endedWith id st.ok (BitVec.ofNat 64 alg) (out e.outLen.toNat))
        ∧ (e.flag 2 = true → t.endedWith id (if out (e.p 8 2) = tag then st.ok else st.verifyFalse)
            (if out (e.p 8 2) = tag then pairTrue else pairFalse) []))
    ∧ (s.runsJob id j .hmac inp → s.passes j .hmac →
      let n := if e.flag 2 then e.p 8 2 else if e.p 8 2 = 0 then Config.digestLen alg else e.p 8 2
      ∃ t, exec (.hmac id inp) s = .next t
        ∧ (e.flag 2 = false → t.endedWith id st.ok (BitVec.ofNat 64 alg) (hmacOut alg n key rest))
        ∧ (e.flag 2 = true → t.endedWith id (if hmacOut alg n key rest = tag then st.ok else st.verifyFalse)
            (if hmacOut alg n key rest = tag then pairTrue else pairFalse) []))

/-- Stream parts complete: an opening takes the lowest slot and answers its handle (R244, R331), a part adds its bytes at the
offset the stream has reached (R243), a final part ends with the value of the whole message or is discarded, and frees the
slot (R331). The choices in it: log rows 4, 23 and 38. -/
def Obligations.StreamsComplete : Prop :=
  ∀ (s : State) (id : Nat) (j : Job) (inp : Bytes),
    let e := j.entry
    (s.runsJob id j .streamOpen inp → s.passes j .streamOpen → ∀ n, s.tables.freeSlot = some n →
      let kp := if 2 ≤ e.p 1 1 then j.keyed inp else ([], inp)
      ∃ t, exec (.streamOpen id inp) s = .next t
        ∧ t.endedWith id st.ok (BitVec.ofNat 64 (n + 65536 * s.tables.streamGen.get 0 n)) []
        ∧ t.tables.streams = {
            slot := n, fn := j.fn, kind := e.p 1 1, alg := e.p 0 1, ctx := e.ctx,
            keyed := decide (2 ≤ e.p 1 1), key := kp.1, name := kp.2.take (e.p 2 2), custom := kp.2.drop (e.p 2 2),
            total := e.p 16 8, absorbed := 0, data := [] } :: s.tables.streams)
    ∧ (∀ x, s.streamOf j.fn (e.p 12 4) = some x →
      (s.runsJob id j .streamPart inp → s.passes j .streamPart → e.p 16 8 = x.absorbed →
        ∃ t, exec (.streamPart id inp) s = .next t
          ∧ t.endedWith id st.ok 0 []
          ∧ t.tables.streams = s.tables.streams.map fun y =>
              if y.slot = x.slot then { x with absorbed := x.absorbed + inp.length, data := x.data ++ inp } else y)
      ∧ (s.runsJob id j .streamFinal inp → s.passes j .streamFinal →
        let m := if e.flag 2 then inp.take (inp.length - e.p 8 2) else inp
        let tag := if e.flag 2 then inp.drop (inp.length - e.p 8 2) else []
        let out := kindOut x.kind x.alg (outBytes x.kind x.alg e) (e.flag 3) x.key x.name x.custom (x.data ++ m)
        ∃ t, exec (.streamFinal id inp) s = .next t
          ∧ (e.flag 4 = true → t.endedWith id st.ok (BitVec.ofNat 64 x.alg) []
              ∧ t.tables.streams = s.tables.streams.filter fun y => y.slot ≠ x.slot)
          ∧ (e.flag 4 = false → e.p 16 8 = x.absorbed → x.absorbed + m.length = x.total →
              (e.flag 2 = false → t.endedWith id st.ok (BitVec.ofNat 64 x.alg) out)
              ∧ (e.flag 2 = true → t.endedWith id (if out = tag then st.ok else st.verifyFalse)
                  (if out = tag then pairTrue else pairFalse) [])
              ∧ t.tables.streams = s.tables.streams.filter fun y => y.slot ≠ x.slot)))

/-- SLH-DSA commands complete: seeds of R334, opt_rand of R336, and the verdict of R337. The choices in it: log rows 4 and 5.
-/
def Obligations.SlhDsaCompletes : Prop :=
  ∀ (s : State) (id : Nat) (j : Job) (inp : Bytes),
    let p := j.entry.p 0 1
    let seed := slhSeed j.key p
    (s.runsJob id j .slhKeygen [] → s.passes j .slhKeygen →
      ∃ t, exec (.slhdsaKeygen id) s = .next t ∧ t.endedWith id st.ok (BitVec.ofNat 64 p) (slhPk p seed))
    ∧ (s.runsJob id j .slhSign inp → s.passes j .slhSign →
      let rand := if j.entry.flag 2 then seed.drop (2 * slhN p) else s.freeNow (slhN p)
      ∃ t, exec (.slhdsaSign id inp) s = .next t
        ∧ t.endedWith id st.ok (BitVec.ofNat 64 p) (slhSig p seed rand (dsaMessage (j.entry.p 1 1) (j.entry.p 3 1)
            (inp.take (j.entry.p 2 1)) (inp.drop (j.entry.p 2 1)))))
    ∧ (s.runsJob id j .slhVerify inp →
      let n := if j.entry.ctx = 0 then 2 * slhN p else 0
      let pk := if j.entry.ctx = 0 then inp.take n else slhPk p seed
      let form := inp.drop (n + slhSigLen p)
      let good := slhOk p (j.entry.p 1 1) (j.entry.p 3 1) pk (form.take (j.entry.p 2 1)) (form.drop (j.entry.p 2 1))
        (slice inp n (slhSigLen p))
      ∃ t, exec (.slhdsaVerify id inp) s = .next t
        ∧ t.endedWith id (if good then st.ok else st.verifyFalse) (if good then pairTrue else pairFalse) [])
    ∧ (s.runsJob id j .slhKeygenInternal inp →
      ∃ t, exec (.slhdsaKeygenInternal id inp) s = .next t
        ∧ t.endedWith id st.ok (BitVec.ofNat 64 p) (slhPk p inp ++ slhSk p inp))

/-- Key generation of a stateful key completes (R343): a new key gets a log record with nothing reserved and the current
SEPOCH (R280), an existing one keeps its record and, when it was RELEASE_PENDING, becomes ACTIVE; the slot takes the cache
and the public key goes out. A tree of height 10 or more first issues its subtree tasks (R344). The choices in it: log rows
4, 23, 35 and 96. -/
def Obligations.TreeKeygenCompletes : Prop :=
  ∀ (s : State) (id : Nat) (j : Job) (xmss : Bool),
    let k := j.tree xmss
    let seed := k.seed (s.regKey j)
    let pk := k.pk seed ((k.top seed).head?.getD [])
    let kid := Config.sha256 pk
    let limit := j.entry.p 8 8
    let op : Op := if xmss then .xmssKeygen else .lmsKeygen
    let c : Instr := if xmss then .xmssKeygen id else .lmsKeygen id
    s.runsJob id j op [] → s.passes j op →
    (j.tasks = none → k.taskCount ≠ 0 →
      ∃ t x, exec c s = .next t ∧ t.job? id = some x ∧ x.phase = .running ∧ x.tasks = some k.taskCount ∧ t.keeper = s.keeper)
    ∧ (j.tasks = some 0 ∨ (j.tasks = none ∧ k.taskCount = 0) → s.nvFree = true →
    (s.keeper.slog.any fun r => r.keyId = kid && (r.index ≠ handleIndex j.entry.ctx || r.status = .retired)) = false →
    (∀ n, s.jobRec j = none → limit ≤ 2 ^ k.h → s.keeper.freeRec = some n →
      ∃ t, exec c s = .next t ∧ t.endedWith id st.ok 0 pk
        ∧ t.keeper.slog = s.keeper.slog ++
            [{ num := n, keyId := kid, index := handleIndex j.entry.ctx, gen := j.crec.gen, sepoch := s.keeper.sepoch,
               reservedEnd := 0, indexLimit := if limit = 0 then 2 ^ k.h else limit, status := .active, next := 0, exporting := false, nonce := [] }]
        ∧ (t.store.slot j.entry.slotA.toNat).tag = .tree {
            xmss, type := k.type, ots := k.ots, curArea := false, curSub := 0, nextFill := 2 ^ k.b, ahead := [], keyId := kid })
    ∧ (∀ r, s.jobRec j = some r → r.keyId = kid →
      ∃ t, exec c s = .next t ∧ t.endedWith id st.ok 0 pk
        ∧ t.keeper.slog = s.keeper.slog.map fun x => if x.num = r.num then
            { x with status := if x.status = .releasePending then .active else x.status } else x))

/-- A stateful signing job completes (R281, R282, R347): with a cache that is the key's it goes to the index port; the port
gives the job that has waited longest the key's NEXT_INDEX, and once it is given it counts as used; the job then signs under
exactly that index and RESULT carries it with the leaves computed; a reservation moves RESERVED_END by 4,096, never past
INDEX_LIMIT. The choices in it: log rows 4, 5, 21, 35 and 96. -/
def Obligations.TreeSignCompletes : Prop :=
  ∀ (s : State) (id : Nat) (j : Job) (inp : Bytes) (xmss : Bool) (r : SlogRec) (h : TreeCache),
    let k := j.tree xmss
    let op : Op := if xmss then .xmssSign else .lmsSign
    let c : Instr := if xmss then .xmssSign id inp else .lmsSign id inp
    let a := j.entry.slotA.toNat
    (s.runsJob id j op inp → s.jobRec j = some r → (s.store.slot a).tag = .tree h →
      (j.taken = none → k.matches h r = true → s.passes j op →
        ∃ t, exec c s = .next t ∧ t.tables.idxQueue = s.tables.idxQueue ++ [id]
          ∧ ∃ x, t.job? id = some x ∧ x.phase = .waitIndex ∧ x.taken = none)
      ∧ (∀ q, j.taken = some q → k.mustWait h (s.otherIndices j) q = false →
        let seed := k.seed j.key
        let p := k.prepare seed h (s.store.slot a).content (q / 2 ^ k.b)
        let f := k.advance seed p.1 p.2.1 (s.otherIndices j) q
        ∃ t, exec c s = .next t
          ∧ t.endedWith id st.ok (BitVec.ofNat 64 (q + 2 ^ 48 * (p.2.2 + f.2.2)))
              (k.sign seed p.1 p.2.1 q (s.freeNow k.n) inp)
          ∧ t.store = s.store.write a (.tree f.1) f.2.1 ∧ t.keeper = s.keeper))
    ∧ (s.tables.idxQueue.head? = some id → s.job? id = some j → j.phase = .waitIndex → s.jobRec j = some r →
      r.status ≠ .retired → r.exporting = false → r.next < r.indexLimit → r.next < r.reservedEnd →
      ∃ t, exec .indexPortServe s = .next t
        ∧ t.keeper.slog = (s.keeper.slog.map fun x => if x.num = r.num then { x with next := x.next + 1 } else x)
        ∧ t.tables.idxQueue = (s.tables.idxQueue.filter fun i => i ≠ id)
        ∧ ∃ x, t.job? id = some x ∧ x.phase = j.awake ∧ x.taken = some r.next)
    ∧ (s.keeper.slog.find? (fun x => x.num = r.num) = some r → s.nvFree = true → r.status = .active →
      r.reservedEnd < r.next + 4096 → r.reservedEnd < r.indexLimit →
      ∃ t, exec (.reservationWrite r.num) s = .next t
        ∧ t.keeper.slog = s.keeper.slog.map fun x => if x.num = r.num then
            { x with reservedEnd := min (x.reservedEnd + 4096) x.indexLimit } else x)

/-- Verification of LMS and XMSS signatures and the commands over cache images complete (R349, R350). The choices in it: log
rows 4, 23 and 36. -/
def Obligations.TreeVerifyAndCacheComplete : Prop :=
  ∀ (s : State) (id : Nat) (j : Job) (inp : Bytes),
    let ty := j.entry.p 0 1
    let ots := j.entry.p 1 1
    let a := j.entry.slotA.toNat
    let k := j.tree (decide (j.entry.p 1 1 = 0))
    (s.runsJob id j .lmsVerify inp →
      let pk := inp.take (lmsPkLen ty)
      let sig := slice inp (lmsPkLen ty) (lmsSigLen ty ots)
      be32At pk 0 = ty → be32At pk 4 = ots → be32At sig 4 = ots → be32At sig (8 + lmsN ty * (otsP ots + 1)) = ty →
      be32At sig 0 < 2 ^ lmsH ty →
      let n := lmsN ty
      let good := (otsSet ots).verify (lmsH ty) (slice pk 8 16) (pk.drop 24) (slice sig 8 n)
        (inp.drop (lmsPkLen ty + lmsSigLen ty ots)) (slice sig (8 + n) (n * otsP ots))
        (sig.drop (12 + n * (otsP ots + 1))) (be32At sig 0)
      ∃ t, exec (.lmsVerify id inp) s = .next t
        ∧ t.endedWith id (if good then st.ok else st.verifyFalse) (if good then pairTrue else pairFalse) [])
    ∧ (s.runsJob id j .xmssVerify inp →
      let pk := inp.take (xmssPkLen ty)
      let sig := slice inp (xmssPkLen ty) (xmssSigLen ty)
      be32At pk 0 = ty → be32At sig 0 < 2 ^ xmssH ty →
      let n := xmssN ty
      let good := (xmssSet ty).verify (slice pk 4 n) (slice pk (4 + n) n) (slice sig 4 n)
        (inp.drop (xmssPkLen ty + xmssSigLen ty)) (slice sig (4 + n) (n * xmssLen ty))
        (sig.drop (4 + n + n * xmssLen ty)) (be32At sig 0)
      ∃ t, exec (.xmssVerify id inp) s = .next t
        ∧ t.endedWith id (if good then st.ok else st.verifyFalse) (if good then pairTrue else pairFalse) [])
    ∧ (∀ r h, s.runsJob id j .cacheSave [] → s.jobRec j = some r → (s.store.slot a).tag = .tree h → k.matches h r = true →
      ∃ t, exec (.cacheSave id) s = .next t
        ∧ t.endedWith id st.ok 0 (k.header h ++ (s.store.slot a).content) ∧ t.store = s.store)
    ∧ (∀ r h, s.runsJob id j .cacheLoad inp → s.jobRec j = some r → cacheHeader k inp = some h → k.matches h r = true →
      let good := k.sound (k.seed j.key) h (inp.drop 64)
      ∃ t, exec (.cacheLoad id inp) s = .next t
        ∧ (good = true → t.endedWith id st.ok 0 [] ∧ t.store = s.store.write a (.tree h) (inp.drop 64))
        ∧ (good = false → t.endedWith id st.paramRejected (j.plainResult st.paramRejected) [] ∧ t.store = s.store.spoil a))

/-- SEAL completes (R351 to R354): RESULT carries the iterations, the depth and the mode; the output begins with the
statement over the root; the job waits while its bench has no lane engine idle (R230). The choices in it: log rows 4, 5 and
96. -/
def Obligations.SealCompletes : Prop :=
  ∀ (s : State) (id : Nat) (j : Job) (inp : Bytes), s.runsJob id j .seal inp → s.passes j .seal → s.laneWait j = false →
    let c := j.entry.p 0 4
    let d := j.entry.p 4 1
    let mode := j.entry.p 5 1
    let h := sealDepth c
    let leaves := (List.range c).map fun i => sealLeaf d i (slice inp (32 + i * d) d)
    let levels := sealLevels d h (leaves ++ List.replicate (2 ^ h - c) (zeros d))
    let root := ((levels.getD h []).head?).getD []
    let stmt := sealStatement mode d c h (if s.boot.timeValid then s.platformTime else 0) (inp.take 32) root
    let name := Config.ascii "PETHAL-SEAL1"
    let p := j.crec.param
    let ml := if mode = 2 then (0, some []) else
      dsaSign p (mldsaSk p (mldsaSeed j.key p)) (s.freeNow 32) (dsaMu 0 0 (mldsaPk p (mldsaSeed j.key p)) name stmt)
    let q := if mode = 2 then p else j.crec2.param
    ∃ t, exec (.seal id inp) s = .next t
      ∧ (∀ x, ml.2 = some x → t.endedWith id st.ok (BitVec.ofNat 64 (ml.1 + 2 ^ 16 * h + 2 ^ 24 * mode))
          (stmt ++ x
            ++ (if mode = 1 then [] else slhSig q (slhSeed (if mode = 2 then j.key else j.key2) q)
                 (Config.freeBytes (s.freeCtr + 1) (slhN q)) (dsaMessage 0 0 name stmt))
            ++ (List.range c).flatMap fun i => sealPath levels h i))
      ∧ (ml.2 = none → t.endedWith id st.engineFault 1000 [])

/-- Curve commands complete (R384 to R393): the context's key or the peer's, checked in the order of R392, the signature and
its attempts in RESULT, the shared value and the zero check, the verdicts, and the set CURVE_LOAD installs when its nine
checks pass and its entry may still take it. The choices in it: log rows 4, 5, 23, 41 and 95. -/
def Obligations.CurveCommandsComplete : Prop :=
  ∀ (s : State) (id : Nat) (j : Job) (inp : Bytes),
    let e := j.entry
    let c := e.p 0 1
    let d := s.ecSecret j.key c
    let w := s.weier c
    let n := if e.ctx ≠ 0 then 0 else s.ecPkLen c
    let pk := if e.ctx ≠ 0 then s.ecPk j.key c else inp.take n
    (s.runsJob id j .ecKeygen [] → s.passes j .ecKeygen →
      ∃ t, exec (.ecKeygen id) s = .next t ∧ t.endedWith id st.ok 0 (s.ecPk j.key c))
    ∧ (s.runsJob id j .ecdsaSign inp → s.passes j .ecdsaSign →
      let r := s.ecdsaTry w (weierScalar w.n d) (decide (e.p 1 1 = 1)) (e.p 3 1) inp
      ∃ t, exec (.ecdsaSign id inp) s = .next t
        ∧ t.endedWith id st.ok (BitVec.ofNat 64 (r.1 % 65536 + 65536 * c)) (encodeSig (s.curveLn c) r.2.1 r.2.2))
    ∧ (s.runsJob id j .ecdsaVerify inp →
      let r := slice inp n (s.curveLn c)
      let v := slice inp (n + s.curveLn c) (s.curveLn c)
      (e.ctx = 0 → s.pointFault c pk = none) →
      1 ≤ beNat r → beNat r < w.n → 1 ≤ beNat v → beNat v < w.n →
      let good := w.verify (decodePoint (s.curveL c) pk) (leftBits w.n (inp.drop (n + 2 * s.curveLn c))) (beNat r) (beNat v)
      ∃ t, exec (.ecdsaVerify id inp) s = .next t
        ∧ t.endedWith id (if good then st.ok else st.verifyFalse) (if good then pairTrue else pairFalse) [])
    ∧ (s.runsJob id j .ecdh inp → s.passes j .ecdh → (isWeier c = true → s.pointFault c inp = none) →
      let z := s.ecShared j.key c inp
      let zero := isXdh c && e.flag 2 && decide (z = zeros (s.curveL c))
      ∃ t, exec (.ecdh id inp) s = .next t
        ∧ (zero = false → t.endedWith id st.ok 0 z)
        ∧ (zero = true → t.endedWith id st.invalidPoint (j.plainResult st.invalidPoint) []))
    ∧ (s.runsJob id j .eddsaSign inp → s.passes j .eddsaSign →
      ∃ t, exec (.eddsaSign id inp) s = .next t
        ∧ t.endedWith id st.ok 0 ((edwards c).sign d (e.p 1 1) (inp.take (e.p 2 1)) (inp.drop (e.p 2 1))))
    ∧ (s.runsJob id j .eddsaVerify inp →
      let sig := slice inp n (s.ecSigLen c)
      let form := inp.drop (n + s.ecSigLen c)
      let decodes := (edwards c).decodes pk sig
      let good := (edwards c).verify pk sig (e.p 1 1) (form.take (e.p 2 1)) (form.drop (e.p 2 1))
      ∃ t, exec (.eddsaVerify id inp) s = .next t
        ∧ (decodes = true → t.endedWith id (if good then st.ok else st.verifyFalse) (if good then pairTrue else pairFalse) [])
        ∧ (decodes = false → t.endedWith id st.decodeFail 0 []))
    ∧ (s.runsJob id j .ecValidate inp →
      ∃ t, exec (.ecValidate id inp) s = .next t
        ∧ (s.pointFault c inp = none → t.endedWith id st.ok pairTrue [])
        ∧ ∀ f, s.pointFault c inp = some f → t.endedWith id st.verifyFalse (pairFalse ||| (f.zeroExtend 64 <<< 32)) [])
    ∧ (let l := leNat (slice inp 6 2)
       let ln := leNat (slice inp 8 2)
       s.runsJob id j .curveLoad inp → slice inp 0 6 = leBytes 4 0x56524350 ++ leBytes 2 1 → slice inp 11 5 = zeros 5 →
       20 ≤ l → l ≤ 128 → 20 ≤ ln → ln ≤ l + 1 → inp.length = 16 + 5 * l + ln →
       ∃ t, exec (.curveLoad id inp) s = .next t
         ∧ (curveFault inp = none →
             s.tables.curves.get [] (e.p 1 1) = [] ∨ (e.flag 2 = true ∧ s.curveInUse (e.p 1 1) = false) →
             t.endedWith id st.ok 0 [] ∧ t.tables.curves = s.tables.curves.set [] (e.p 1 1) inp)
         ∧ (curveFault inp = none → s.tables.curves.get [] (e.p 1 1) ≠ [] → e.flag 2 = false ∨ s.curveInUse (e.p 1 1) = true →
             t.endedWith id st.stateRefused (s.refusedWord j.fn 0) [] ∧ t.tables.curves = s.tables.curves)
         ∧ (∀ n, curveFault inp = some n → t.endedWith id st.paramRejected (BitVec.ofNat 64 n) []
             ∧ t.tables.curves = s.tables.curves))

/-- RSA and modular commands complete (R394 to R399): the key pair with its candidate count, the slot a loaded key fills, the
private operation checked by the public exponent, and the modular values over big-endian integers. The choices in it: log
rows 4, 5, 23, 42 and 95. -/
def Obligations.RsaAndModularComplete : Prop :=
  ∀ (s : State) (id : Nat) (j : Job) (inp : Bytes),
    let e := j.entry
    let k := e.p 0 2
    let a := e.slotA.toNat
    (s.runsJob id j .rsaKeygen [] → s.passes j .rsaKeygen →
      let limit := 20 * k
      let p := rsaPrime (4 * k) (e.p 4 4) 0 limit s.freeCtr 0
      ∃ t, exec (.rsaKeygen id) s = .next t
        ∧ (p.2 = none → t.endedWith id st.engineFault (BitVec.ofNat 64 (p.1 + 65536 * rsaParam k)) [])
        ∧ (∀ x, p.2 = some x →
          let q := rsaPrime (4 * k) (e.p 4 4) x limit (s.freeCtr + p.1) 0
          let n := p.1 + q.1
          (q.2 = none → t.endedWith id st.engineFault (BitVec.ofNat 64 (n + 65536 * rsaParam k)) [])
          ∧ (∀ y, q.2 = some y →
            let key := rsaKeyOf k (e.p 4 4) x y
            t.endedWith id st.ok (BitVec.ofNat 64 (n + 65536 * rsaParam k))
              (slice key 4 k ++ makeBlob j.key (j.crec.blobHeader 1 (rsaKeyLen k)) key))))
    ∧ (s.runsJob id j .rsaKeyLoad inp → s.passes j .rsaKeyLoad → blobFault j.crec (rsaKeyLen k) inp = none →
      let good := blobOk j.key inp
      ∃ t, exec (.rsaKeyLoad id inp) s = .next t
        ∧ (good = true → t.endedWith id st.ok (BitVec.ofNat 64 (rsaParam k)) []
            ∧ t.store = s.store.write a (.rsa (handleIndex e.ctx) j.crec.gen) (blobSecret j.key inp))
        ∧ (good = false → t.endedWith id st.tagFail (j.plainResult st.tagFail) [] ∧ t.store = s.store))
    ∧ (s.runsJob id j .rsaPrivate inp → s.passes j .rsaPrivate → e.slotA ≠ noSlot →
      (s.store.slot a).tag = .rsa (handleIndex e.ctx) j.crec.gen →
      let key := (s.store.slot a).content
      beNat inp < beNat (slice key 4 k) → powMod (beNat (slice key 4 k)) (rsaCrt k key (beNat inp)) (key.take 4) = beNat inp →
      ∃ t, exec (.rsaPrivate id inp) s = .next t
        ∧ t.endedWith id st.ok (BitVec.ofNat 64 (rsaParam k)) (beBytes k (rsaCrt k key (beNat inp))))
    ∧ (s.runsJob id j .rsaPrivate inp → s.passes j .rsaPrivate → e.slotA = noSlot →
      let n := blobLen (rsaKeyLen k)
      let key := blobSecret j.key (inp.take n)
      let x := beNat (inp.drop n)
      blobFault j.crec (rsaKeyLen k) (inp.take n) = none →
      ∃ t, exec (.rsaPrivate id inp) s = .next t
        ∧ (blobOk j.key (inp.take n) = false → t.endedWith id st.tagFail (j.plainResult st.tagFail) [])
        ∧ (blobOk j.key (inp.take n) = true → x < beNat (slice key 4 k) →
            powMod (beNat (slice key 4 k)) (rsaCrt k key x) (key.take 4) = x →
            t.endedWith id st.ok (BitVec.ofNat 64 (rsaParam k)) (beBytes k (rsaCrt k key x))))
    ∧ (s.runsJob id j .rsaPublic inp →
      let x := beNat (inp.drop (4 + k))
      let n := beNat (slice inp 4 k)
      n % 2 = 1 → slice inp 4 1 ≠ [0] → x < n → beNat (inp.take 4) % 2 = 1 → 3 ≤ beNat (inp.take 4) →
      ∃ t, exec (.rsaPublic id inp) s = .next t ∧ t.endedWith id st.ok 0 (beBytes k (powMod n x (inp.take 4))))
    ∧ (s.runsJob id j .modexp inp → s.passes j .modexp →
      let m := beNat (inp.take k)
      let b := beNat (slice inp k k)
      m % 2 = 1 → 1 < m → b < m →
      ∃ t, exec (.modexp id inp) s = .next t ∧ t.endedWith id st.ok 0 (beBytes k (powMod m b (inp.drop (2 * k)))))
    ∧ (s.runsJob id j .modmul inp → s.passes j .modmul →
      let m := beNat (inp.take k)
      let x := beNat (slice inp k k)
      let y := beNat (inp.drop (2 * k))
      m % 2 = 1 → 1 < m → x < m → y < m →
      ∃ t, exec (.modmul id inp) s = .next t ∧ t.endedWith id st.ok 0 (beBytes k (x * y % m)))
    ∧ (s.runsJob id j .modinv inp → s.passes j .modinv →
      let m := beNat (inp.take k)
      let x := beNat (inp.drop k)
      m % 2 = 1 → 1 < m → x < m →
      ∃ t, exec (.modinv id inp) s = .next t
        ∧ (Nat.gcd x m = 1 → ∀ y, y < m → x * y % m = 1 % m → t.endedWith id st.ok 0 (beBytes k y))
        ∧ (Nat.gcd x m ≠ 1 → t.endedWith id st.operandRange 0x80 []))

/-- The compatibility sequencer's commands complete (R405 to R408): a signed program enters the table, a run replaces the
registers of its slot, register writes clear seals, and a read that covers no sealed register delivers the bytes. The choices
in it: log rows 4, 5 and 43. -/
def Obligations.SequencerCompletes : Prop :=
  ∀ (s : State) (id : Nat) (j : Job) (inp : Bytes),
    let e := j.entry
    let a := e.slotA.toNat
    (s.runsJob id j .dxProgramLoad inp → dxFormOk inp = true →
      let n := leNat (slice inp 12 4)
      let pk := slice inp (64 + n) 2592
      let known := (List.range 8).any fun i => s.keyFills false i pk
      let good := mldsa87Ok pk "PETHAL-DX500" (inp.take (64 + n)) (slice inp (2656 + n) 4627)
      ∃ t, exec (.dxProgramLoad id inp) s = .next t
        ∧ (known = false → t.endedWith id st.paramRejected (j.plainResult st.paramRejected) [])
        ∧ (known = true → good = false → t.endedWith id st.verifyFalse pairFalse [])
        ∧ (known = true → good = true → t.endedWith id st.ok pairTrue []
            ∧ (t.tables.dxProgs.lookup (e.p 0 1)).map DxProg.code = some (slice inp 64 n)))
    ∧ (∀ pr seals, s.runsJob id j .dxRun [] → s.passes j .dxRun → s.tables.dxProgs.lookup (e.p 0 1) = some pr →
      (s.store.slot a).tag = .dx seals →
      let ins := [pr.code, (s.store.slot a).content, leBytes 4 seals.toNat, if pr.needsEntropy then s.freeNow 32 else []]
      let status := Config.primCount .dxStatus ins % 65536
      ∃ t, exec (.dxRun id) s = .next t
        ∧ t.store = s.store.write a (.dx (seals ||| BitVec.ofNat 32 (Config.primCount .dxSeal ins))) (Config.prim .dxRun ins 16384)
        ∧ (status = 0 → t.endedWith id st.ok 0 []) ∧ (status ≠ 0 → t.endedWith id st.paramRejected (BitVec.ofNat 64 status) []))
    ∧ (s.runsJob id j .dxSlotWrite inp →
      let off := 512 * e.p 1 1
      let put (old : Bytes) : Bytes := old.take off ++ inp ++ old.drop (off + inp.length)
      ((s.store.slot a).tag = .empty →
        ∃ t, exec (.dxSlotWrite id inp) s = .next t ∧ t.endedWith id st.ok 0 []
          ∧ t.store = s.store.write a (.dx 0) (put (zeros 16384)))
      ∧ (∀ seals, (s.store.slot a).tag = .dx seals →
        ∃ t, exec (.dxSlotWrite id inp) s = .next t ∧ t.endedWith id st.ok 0 []
          ∧ t.store = s.store.write a (.dx (seals &&& ~~~ regMask e)) (put (s.store.slot a).content)))
    ∧ (∀ seals, s.runsJob id j .dxSlotRead [] → (s.store.slot a).tag = .dx seals →
      ∃ t, exec (.dxSlotRead id) s = .next t
        ∧ (seals &&& regMask e = 0 →
            t.endedWith id st.ok 0 (slice (s.store.slot a).content (512 * e.p 1 1) (512 * e.p 2 1)))
        ∧ (seals &&& regMask e ≠ 0 → t.endedWith id st.keyPolicy (j.plainResult st.keyPolicy) []))

/-- AES commands complete (R410 to R412): the key leads the input when CTX is zero, else the context gives it; tags, verdicts
and integrity failures as their rules say. The choices in it: log rows 4, 5 and 44. -/
def Obligations.AesCommandsComplete : Prop :=
  ∀ (s : State) (id : Nat) (j : Job) (inp : Bytes),
    let e := j.entry
    let own : Bool := decide (e.ctx ≠ 0)
    let key := if own then j.key else inp.take 32
    let rest := if own then inp else inp.drop 32
    (s.runsJob id j .gcmEncrypt inp → s.passes j .gcmEncrypt →
      let gen := e.flag 2
      let iv := if gen then s.freeNow 12 else rest.take 12
      let body := if gen then rest else rest.drop 12
      let aad := body.take (e.p 0 4)
      let p := body.drop (e.p 0 4)
      ∃ t, exec (.gcmEncrypt id inp) s = .next t
        ∧ t.endedWith id st.ok 0 ((if gen then iv else []) ++ gcmCrypt key iv p
            ++ (gcmTag key iv aad (gcmCrypt key iv p)).take (e.p 4 1)))
    ∧ (s.runsJob id j .gcmDecrypt inp → s.passes j .gcmDecrypt →
      let body := rest.drop 12
      let n := body.length - e.p 0 4 - e.p 4 1
      let ct := slice body (e.p 0 4) n
      let good := gcmOk key (rest.take 12) (body.take (e.p 0 4)) ct (body.drop (e.p 0 4 + n))
      ∃ t, exec (.gcmDecrypt id inp) s = .next t
        ∧ (good = true → t.endedWith id st.ok pairTrue (gcmCrypt key (rest.take 12) ct))
        ∧ (good = false → t.endedWith id st.tagFail pairFalse []
            ∧ ∃ x, t.job? id = some x ∧ x.written = zeros n))
    ∧ (∀ enc : Bool,
      let op : Op := if enc then .xtsEncrypt else .xtsDecrypt
      let c : Instr := if enc then .xtsEncrypt id inp else .xtsDecrypt id inp
      let k2 := if own then Config.kmac256 j.key (Config.ascii "AES-XTS") 64 (Config.ascii "PETHAL-SEED") else inp.take 64
      let m := if own then inp else inp.drop 64
      s.runsJob id j op inp → s.passes j op →
      ∃ t, exec c s = .next t
        ∧ (k2.take 32 ≠ k2.drop 32 → t.endedWith id st.ok 0
            (xtsCrypt (!enc) k2 (leBytes 16 (e.p 8 16)) m))
        ∧ (k2.take 32 = k2.drop 32 → t.endedWith id st.paramRejected (j.plainResult st.paramRejected) []))
    ∧ (s.runsJob id j .kwWrap inp → s.passes j .kwWrap →
      ∃ t, exec (.kwWrap id inp) s = .next t
        ∧ t.endedWith id st.ok 0 (if e.p 5 1 = 0 then kwWrap key rest else kwpWrap key rest))
    ∧ (s.runsJob id j .kwUnwrap inp → s.passes j .kwUnwrap →
      let out := if e.p 5 1 = 1 then kwpUnwrap key rest else kwUnwrap key rest
      ∃ t, exec (.kwUnwrap id inp) s = .next t
        ∧ (∀ m, out = some m → t.endedWith id st.ok 0 m)
        ∧ (out = none → t.endedWith id st.tagFail (j.plainResult st.tagFail) []))
    ∧ (s.runsJob id j .cmac inp → s.passes j .cmac →
      let n := e.p 4 1
      let m := if e.flag 2 then rest.take (rest.length - n) else rest
      let tag := (aesCmac key m).take n
      let good := decide (tag = rest.drop (rest.length - n))
      ∃ t, exec (.cmac id inp) s = .next t
        ∧ (e.flag 2 = false → t.endedWith id st.ok 0 tag)
        ∧ (e.flag 2 = true → t.endedWith id (if good then st.ok else st.tagFail) (if good then pairTrue else pairFalse) []))

/-- Control of the digest register unit completes for a side whose accesses reach it (R417 to R422, R429, R431, R432): a
CLAIM of a free unit, in one cycle with the other side's too, and for the owner RELEASE, START, RESTORE of a good image, SAVE
and the page. The choices in it: log row 45. -/
def Obligations.DruControlCompletes : Prop :=
  ∀ (s : State) (tag : BitVec 8) (alg : BitVec 4) (sealedMode page : Bool) (who : DruSide),
    s.barUp 0 = true → s.fwRunning = true → s.cdRunning = true →
    (∀ side, side = .host ∨ side = .both → s.dru.owner = .none → tag ≠ 0 →
      ∃ t, exec (.druClaim tag page side) s = .next t ∧ t.dru.owner = .host ∧ t.dru.tag = tag ∧ t.dru.page = s.dru.page
        ∧ t.dru.active = false ∧ t.dru.done = false ∧ t.dru.err = s.dru.err)
    ∧ (s.dru.owner = .none → ∃ t, exec (.druClaim tag page .sc) s = .next t ∧ t.dru.owner = .sc ∧ t.dru.active = false
        ∧ t.dru.done = false ∧ t.dru.err = s.dru.err)
    ∧ (s.dru.owner = DruSide.owner who →
      (s.dru.finishing = false →
        ∃ t, exec (.druRelease page who) s = .next t ∧ t.dru.owner = .none ∧ t.dru.active = false ∧ t.dru.done = false
          ∧ t.dru.result = [] ∧ t.dru.expect = zeros 64 ∧ t.dru.window = zeros 256)
      ∧ (s.dru.finishing = true →
        ∃ t, exec (.druRelease page who) s = .next t ∧ t.dru.relPend = true ∧ t.dru.owner = s.dru.owner)
      ∧ (s.dru.finishing = false → 1 ≤ alg.toNat → alg.toNat ≤ 6 →
        ∃ t, exec (.druStart alg sealedMode page who) s = .next t ∧ t.dru.active = true ∧ t.dru.done = false ∧ t.dru.alg = alg
          ∧ t.dru.sealedMode = sealedMode ∧ t.dru.bytes = 0 ∧ t.dru.msg = [] ∧ t.dru.expect = zeros 64 ∧ t.dru.result = []))
    ∧ (s.dru.owner = .host →
      (s.dru.finishing = false → s.dru.imageOk sealedMode = true →
        ∃ t, exec (.druRestore sealedMode page) s = .next t ∧ t.dru.active = true ∧ t.dru.sealedMode = sealedMode
          ∧ t.dru.alg = BitVec.ofNat 4 (druImgAlg s.dru.window) ∧ t.dru.bytes = druImgBytes s.dru.window ∧ t.dru.msg = [])
      ∧ (s.dru.active = true → s.dru.finishing = false → s.dru.msg.length % druBlock s.dru.alg.toNat = 0 →
        (s.dru.sealedMode = true → s.dru.saveKey.isSome = true) →
        ∃ t, exec (.druSave page) s = .next t ∧ t.dru.saving = true ∧ t.dru.page = page)
      ∧ ∃ t, exec (.druPageSelect page) s = .next t ∧ t.dru = { s.dru with page := page })

/-- The data registers of the digest register unit complete for its owner (R423 to R430): message words, LASTCNT, the final
word, EXPECT, the end of a save and of a finish, and the reads once DONE is set. The choices in it: log rows 4, 5 and 45. -/
def Obligations.DruDataCompletes : Prop :=
  ∀ (s : State) (word : BitVec 64) (who : DruSide), s.barUp 0 = true → s.fwRunning = true → s.cdRunning = true →
    (s.dru.owner = DruSide.owner who → s.dru.active = true → s.dru.finishing = false → s.dru.bytes + 8 ≤ 2 ^ 61 - 1 →
      ∃ t, exec (.druDataWrite 8 word who) s = .next t
        ∧ t.dru = { s.dru with bytes := s.dru.bytes + 8, msg := s.dru.msg ++ leBytes 8 word.toNat })
    ∧ (∀ n : BitVec 4, s.dru.owner = DruSide.owner who → n.toNat ≤ 8 →
      ∃ t, exec (.druLastcntWrite n who) s = .next t ∧ t.dru = { s.dru with lastCnt := n })
    ∧ (s.dru.owner = DruSide.owner who → s.dru.active = true → s.dru.finishing = false → s.dru.lastCnt.toNat ≤ 8 →
      s.dru.bytes + s.dru.lastCnt.toNat ≤ 2 ^ 61 - 1 →
      ∃ t, exec (.druLastWrite 8 word who) s = .next t ∧ t.dru.finishing = true
        ∧ t.dru.bytes = s.dru.bytes + s.dru.lastCnt.toNat ∧ t.dru.final = (leBytes 8 word.toNat).take s.dru.lastCnt.toNat
        ∧ t.dru.msg = s.dru.msg)
    ∧ (∀ i, s.dru.owner = .host → i < 8 → s.dru.active = true → s.dru.finishing = false → s.dru.done = false →
      ∃ t, exec (.druExpectWrite i word) s = .next t
        ∧ t.dru = { s.dru with expect := s.dru.expect.take (8 * i) ++ leBytes 8 word.toNat ++ s.dru.expect.drop (8 * i + 8) })
    ∧ (s.dru.saving = true →
      ∃ t, exec .druSaveDone s = .next t ∧ t.dru.saved = true ∧ t.dru.saving = false
        ∧ t.dru.window = s.dru.image (s.freeNow 12) ∧ t.dru.msg = s.dru.msg)
    ∧ (s.dru.finishing = true → s.dru.relPend = false →
      ∃ t, exec .druFinishDone s = .next t ∧ t.dru.done = true ∧ t.dru.finishing = false ∧ t.dru.active = false
        ∧ t.dru.lastCnt = 0xF ∧ t.dru.result = (if s.dru.sealedMode then [] else s.dru.digest)
        ∧ t.dru.cmp = (if s.dru.digest = s.dru.expect.take s.dru.digest.length then 0x95A66A59 else 0xC3F03C0F))
    ∧ (s.dru.finishing = true → s.dru.relPend = true →
      ∃ t, exec .druFinishDone s = .next t ∧ t.dru.owner = .none ∧ t.dru.done = false ∧ t.dru.result = [])
    ∧ (s.dru.owner = .host → s.dru.done = true → ∀ (i : Option Nat) (part : ReadPart),
      ∃ t, exec (.druResultRead i false part) s = .next t ∧ t.dru = s.dru
        ∧ t.out = .regData (ReadPart.of part (match i with
            | some n => BitVec.ofNat 64 (leNat (slice s.dru.result (8 * n) 8))
            | none => s.dru.cmp.zeroExtend 64)) :: s.out)

/-- Sessions complete (R168 to R174): a credential is assigned, step 0 answers a fresh nonce and remembers it, step 1 with
the credential's proof opens the session and clears the failures, and the closings and times end as stated. The choices in
it: log rows 4, 5 and 58. -/
def Obligations.SessionsComplete : Prop :=
  ∀ (s : State) (id : Nat) (j : Job) (inp : Bytes) (fn : Nat),
    let e := j.entry
    (s.runsJob id j .sessionAssign inp → s.nvFree = true →
      ((e.p 1 1 = 1 ∨ e.p 1 1 = 3) → (s.credChain (BitVec.ofNat 32 (e.p 4 4))).1 = st.ok) →
      (2 ≤ e.p 1 1 → s.imageRootOk = true) →
      ∃ t, exec (.sessionAssign id inp) s = .next t ∧ t.endedWith id st.ok 0 []
        ∧ t.keeper.cred (e.p 0 1) = {
            mode := BitVec.ofNat 2 (e.p 1 1), ctx := BitVec.ofNat 32 (e.p 4 4), idleS := e.p 2 2,
            tag := if 2 ≤ e.p 1 1 then s.passTag inp (e.p 0 1) else [] })
    ∧ ((j.fn < s.fns.length ∨ j.fn = 255) →
      (s.runsJob id j .sessionOpen [] → s.passes j .sessionOpen → e.p 0 1 = 0 →
        ∃ t, exec (.sessionOpenNonce id) s = .next t ∧ t.endedWith id st.ok 0 (s.freeNow 32)
          ∧ t.session j.fn = { s.session j.fn with nonce := some (s.freeNow 32, s.now) })
      ∧ (∀ nonce, s.runsJob id j .sessionOpen inp → e.p 0 1 = 1 → s.lockLeft j.fn = 0 → s.nonceOf j.fn = some nonce →
        (s.judge j.fn (e.p 1 1) nonce inp).1 = st.ok →
        ∃ t, exec (.sessionOpenProof id inp) s = .next t ∧ t.endedWith id st.ok pairTrue []
          ∧ (t.session j.fn).isOpen = true ∧ (t.session j.fn).failCount = 0 ∧ (t.session j.fn).nonce = none)
      ∧ (s.runsJob id j .sessionClose [] →
        ∃ t, exec (.sessionClose id) s = .next t ∧ t.endedWith id st.ok 0 []
          ∧ t.session j.fn = { s.session j.fn with isOpen := false }))
    ∧ ((fn < s.fns.length ∨ fn = 255) →
      ((s.session fn).isOpen = true → (s.session fn).idleS ≠ 0 →
        ∃ t, exec (.sessionIdleClose fn) s = .next t ∧ (t.session fn).isOpen = false ∧ (t.session fn).idleClosed = true
          ∧ (t.session fn).failCount = (s.session fn).failCount)
      ∧ (∃ t, exec (.nonceExpired fn) s = .next t ∧ t.session fn = { s.session fn with nonce := none })
      ∧ ∃ t, exec (.lockoutExpired fn) s = .next t ∧ t.session fn = { s.session fn with lockUntil := none })

/-- The supply and thermal events complete (R15, R26 to R37, R54 to R56, R58, R62, R63, R79, R80, R491): VIN restored, with
and without records latched in the island, and after an island loss that the owner does not make a tamper; undervoltage; the
averages, the dwell, the tier floor; the power-fail hold, its end and NV_OK; the MRAM refresh and VBAT; the junction samples,
the throttle steps and the read of DEV_THERM. The choices in it: log rows 22, 68, 69, 75 and 83. -/
def Obligations.SupplyAndThermalEventsComplete : Prop :=
  ∀ (s : State) (mv : Nat) (straps : Straps) (chk : KeeperCheck) (value : BitVec 64),
    (s.power.vinValid = false → s.logs.latched = [] → (s.boot.islandLost = true → s.tamperPolicy.getLsbD 3 = false) →
      ∃ t, exec (.vinRestored mv straps chk) s = .next t ∧ t.boot.stage = .keeper ∧ t.boot.straps = straps
        ∧ t.power.vinValid = true ∧ t.power.vinMv = mv ∧ t.power.vinTier = startTier mv ∧ t.power.nvOk = false
        ∧ t.boot.code = (if s.power.pwrfailHigh then 0x0001 else 0x8001)
        ∧ t.keeper.ticks = (if s.boot.islandLost then 0 else s.keeper.ticks)
        ∧ t.boot.timeValid = (s.boot.timeValid && !s.boot.islandLost))
    ∧ (∀ r rest, s.power.vinValid = false → s.logs.latched = r :: rest → s.boot.islandLost = false →
      ∃ t, exec (.vinRestored mv straps chk) s = .next t ∧ t.boot.stage = .held ∧ t.boot.code = 0x8002
        ∧ t.boot.detail = r.code &&& 0xFF ∧ t.logs.latched = [] ∧ t.logs.overLatch = 0)
    ∧ (s.power.vinValid = true →
      (∃ t, exec .undervoltage s = .next t ∧ t.power.vinValid = false ∧ t.power.nvOk = false ∧ t.power.tierFloor = 0
        ∧ t.boot.stage = .off ∧ t.boot.link = .down ∧ t.jobs = [] ∧ t.queues = [] ∧ t.keys = Keys.empty
        ∧ t.guard.holdPins = 0 ∧ t.boot.code = (if s.cdRunning then 0x8009 else s.boot.code))
      ∧ (∃ t, exec (.vinAverage mv) s = .next t ∧ t.power.vinMv = mv
        ∧ t.power.vinTier = (if s.power.averaged then max s.power.vinTier (forcedTier mv) else startTier mv))
      ∧ (∃ t, exec (.vinTierDwellExpired mv) s = .next t
        ∧ t.power = { s.power with vinTier := min s.power.vinTier (entryTier mv) })
      ∧ (∃ t, exec .pwrfailAssert s = .next t
        ∧ t.power = { s.power with pwrfailHigh := false, pfHold := true, nvOk := false }
        ∧ t.boot.code = (if s.boot.stage = .keeper then 0x8001 else s.boot.code))
      ∧ (s.power.pwrfailHigh = true → s.power.pfHold = false → s.power.vinTier ≤ 2 →
        ∃ t, exec .nvOkSet s = .next t ∧ t.power = { s.power with nvOk := true })
      ∧ (∃ t, exec .vbatRemoved s = .next t ∧ t = s.mapPower fun p => { p with vbatOk := false }))
    ∧ (s.power.vinValid = false →
      ∃ t, exec .vbatRemoved s = .next t ∧ t.power.vbatOk = false ∧ t.boot.islandLost = true ∧ t.logs.latched = [])
    ∧ (s.devUp = true → ∃ t, exec (.pwrLimitWrite value) s = .next t
        ∧ t.power = { s.power with tierFloor := value.truncate 2 })
    ∧ (∃ t, exec (.pfHoldEnd false) s = .next t ∧ t = s.mapPower fun p => { p with pwrfailHigh := true })
    ∧ (∃ t, exec (.pfHoldEnd true) s = .next t ∧ t.power = { s.power with pwrfailHigh := true, pfHold := false }
        ∧ t.boot.code = (if s.boot.code = 0x8001 then 0x0001 else s.boot.code)
        ∧ (s.keeper.lcClearing = true → t.keeper.lcJournal = none ∧ t.keeper.lcClearing = false)
        ∧ (s.keeper.blobTarget ≠ 0 → s.fwRunning = true → t.keeper.blobTarget = 0)
        ∧ t.jobs = s.jobs.map fun j =>
            if j.phase = .paused ∧ s.thermal.thermStop = false ∧ (s.fn j.fn).d3hot = false then { j with phase := .yielded } else j)
    ∧ (∃ t, exec .mramRefresh s = .next t ∧ t = s)
    ∧ (∃ t, exec .vbatApplied s = .next t ∧ t = s.mapPower fun p => { p with vbatOk := true })
    ∧ (∀ code : BitVec 8, s.cdRunning = true →
      (∃ t, exec (.tjSample code) s = .next t ∧ t.thermal.tjNow = code
        ∧ t.thermal.tjPeak.toNat = max s.thermal.tjPeak.toNat code.toNat
        ∧ t.thermal.mgPeak.toNat = max s.thermal.mgPeak.toNat code.toNat
        ∧ t.thermal.thermStop = (if 176 ≤ code.toNat then true else if code.toNat ≤ 164 then false else s.thermal.thermStop)
        ∧ t.thermal.thermTier = (if s.thermal.tjNow.toNat < 164 ∧ 164 ≤ code.toNat ∧ s.thermal.thermTier < 3
            then s.thermal.thermTier + 1 else s.thermal.thermTier))
      ∧ (164 ≤ s.thermal.tjNow.toNat → s.thermal.thermTier < 3 →
        ∃ t, exec .throttleStep s = .next t
          ∧ t.thermal = { s.thermal with thermTier := s.thermal.thermTier + 1, throttleEvt := true })
      ∧ (s.thermal.tjNow.toNat ≤ 159 → 1 < s.thermal.thermTier →
        ∃ t, exec .throttleRelease s = .next t
          ∧ t.thermal = { s.thermal with thermTier := s.thermal.thermTier - 1 })
      ∧ (s.devUp = true →
        ∃ t, exec .devThermRead s = .next t ∧ t.thermal = { s.thermal with tjPeak := 0 }
          ∧ t.out = .regData (s.thermal.word s.thermal.tjPeak) :: s.out))

/-- Start-up completes from the rails to the bundle (R58 to R72, R457 to R470, R490): rails, release of the compute die, fuse
sensing without a journal record, the life-cycle roll-forward, a pending root disable, and the ROM's choice of the start
mode, or its own failure (R79). The choices in it: log rows 4, 13, 66, 68, 69, 85, 86 and 98. -/
def Obligations.StartUpCompletes : Prop :=
  ∀ (s : State),
    (s.boot.stage = .keeper → s.power.vinValid = true →
      (∃ t, exec (.railsStart true) s = .next t ∧ t.boot.stage = .rails ∧ t.boot.code = 0x0002 ∧ t.power.pwrfailHigh = true)
      ∧ exec (.railsStart false) s = .next s)
    ∧ (s.boot.stage = .rails →
      (s.nvFree = true ∨ s.boot.countersLost = true →
        ∃ t, exec .railsUp s = .next t ∧ t.boot.stage = .released ∧ t.boot.code = 0x0003 ∧ t.dru.owner = .sc
        ∧ t.keeper.bootCount = (if s.boot.countersLost then s.keeper.bootCount else s.keeper.bootCount + 1)
        ∧ t.boot.detail = BitVec.ofNat 16 t.keeper.bootCount)
      ∧ ∀ rail : BitVec 16,
        ∃ t, exec (.railFault rail) s = .next t ∧ t.boot.stage = .held ∧ t.boot.code = 0x8003 ∧ t.boot.detail = rail)
    ∧ (∀ margins, s.boot.stage = .released → s.keeper.lcJournal = none →
      let u := s.senseAll margins
      let v := u.takeMajorities
      let d := lcDecode fun i => v.fz (160 + i)
      v.integrityFail (u.noMajority (tripRoot ++ tripLock)) = none → u.noMajority tripLc = [] → d.1 ≠ .invalid → d.1 ≠ .scrap →
      ∃ t, exec (.fusesSensed margins) s = .next t ∧ t.boot.stage = .sensed
        ∧ t.boot.code = (if s.flt.rootPending = none ∧ s.journalDone = false then 0x0005 else 0x0004)
        ∧ t.fuses.lc = d.1 ∧ t.fuses.epoch = d.2.1 ∧ t.fuses.raw = s.fuses.raw ∧ t.fuses.shadow = v.fuses.shadow)
    ∧ (∀ j, s.boot.stage = .rolling → s.power.nvOk = true → s.keeper.lcJournal = some j →
      ∃ t, exec .lcRollForward s = .next t ∧ t.keeper.lcJournal = none ∧ t.fuses.rolledFwd = true
        ∧ (t.boot.stage = .sensed ∨ t.boot.stage = .held) ∧ t.fuses.raw = (s.burnAll j.targets).fuses.raw)
    ∧ (∀ e, s.flt.rootPending = some e → s.boot.stage = .sensed → s.power.nvOk = true → s.power.pfHold = false →
      ∃ t, exec .rootDisableAtStart s = .next t ∧ t.flt.rootPending = none
        ∧ ∀ w, w ∈ copies (338 + e) → (t.fuses.shadowOf w).data = rootDisableData)
    ∧ (∀ low : Bool, s.boot.stage = .sensed → s.flt.rootPending = none → s.journalDone = true →
      let m := s.startMode low
      (∃ t, exec (.bundleVerify low false) s = .next t ∧ t.boot.stage = .held ∧ t.boot.code = 0x8007 ∧ t.guard.running = false
          ∧ (s.boot.lockdown = false → t.guard.holdPins = 0))
      ∧ ∃ t, exec (.bundleVerify low true) s = .next t ∧ t.boot.mode = m.1 ∧ t.boot.code = m.2.1 ∧ t.boot.detail = m.2.2.1
        ∧ t.boot.recovery = m.2.2.2
        ∧ t.boot.stage = (if m.1 = .normal ∨ m.1 = .recovery then .bundleOk else .loader)
        ∧ (m.1 ≠ .normal → m.1 ≠ .recovery → t.guard.running = false ∧ (s.boot.lockdown = false → t.guard.holdPins = 0)))
    ∧ (∀ j, s.upd.journal = some j → s.boot.stage = .sensed → s.journalDone = false → s.power.nvOk = true →
      ∃ t, exec .activationRollForward s = .next t
        ∧ (j.stage = .activating → j.component = 1 →
            s.upd.stagedHalf = j.digest ∧ Config.sha384 s.upd.stagedImg = j.digest →
            t.upd.stage = .unconfirmed ∧ t.upd.slot = s.upd.stagedImg ∧ t.upd.slotHash = j.digest
              ∧ t.upd.journal = some { j with stage := .unconfirmed })
        ∧ (¬ (j.stage = .activating ∧ j.component = 1 ∧ s.upd.stagedHalf = j.digest ∧ Config.sha384 s.upd.stagedImg = j.digest) →
            t.upd.stage = .idle ∧ t.upd.journal = none ∧ t.upd.holder = .none)
        ∧ (j.stage = .unconfirmed ∨ j.stage = .restoring → t.upd.restored = true))

/-- The firmware's start completes (R58, R59, R77, R421, R440, R447): the firmware itself, SERVICE_READY, the end of sampling
and the instantiation of the DRBGs, link training, configuration requests and the loader's takeover. The choices in it: log
rows 46, 47, 69 and 93. -/
def Obligations.FirmwareStartCompletes : Prop :=
  ∀ (s : State) (kat : Bool),
    (∀ v, s.boot.stage = .bundleOk →
      ∃ t, exec (.fwStart kat v) s = .next t ∧ t.boot.stage = .firmware ∧ t.ent.running = true
        ∧ t.ent.state = (if kat then .starting else .halted) ∧ t.ent.pairs = List.replicate 16 .healthy
        ∧ t.keeper.blobVersion = (if s.power.pfHold then s.keeper.blobVersion else max s.keeper.blobVersion v)
        ∧ t.boot.code = (if s.boot.mode = .normal ∧ s.boot.lockdown = false then 0x0007 else s.boot.code))
    ∧ (s.boot.stage = .firmware → s.boot.serviceReady = false →
      ∃ t, exec .serviceReady s = .next t ∧ t.boot.serviceReady = true ∧ t.boot.loaderServes = false
        ∧ t.dru.owner = (if s.dru.owner = .sc then .none else s.dru.owner)
        ∧ t.boot.code = (if s.boot.mode = .normal ∧ s.boot.lockdown = false then 0x0009 else s.boot.code))
    ∧ (s.ent.running = true → s.ent.sampled = false → s.ent.state ≠ .halted →
      ∃ t, exec (.entropySamplingEnd kat) s = .next t ∧ t.ent.sampled = true
        ∧ t.ent.state = (if kat = false ∨ 9 ≤ s.ent.retired then .halted else if s.ent.healthy < 8 then .failed else s.ent.state))
    ∧ (s.ent.sampled = true → s.ent.state = .starting → 8 ≤ s.ent.healthy → 24 ≤ s.ent.pool →
      ∃ t, exec (.drbgInstantiate kat) s = .next t ∧ t.ent.state = (if kat then .ready else .halted)
        ∧ (kat = true → t.ent.live = true ∧ t.ent.reseeds = s.ent.reseeds + 16 ∧ t.ent.requests = List.replicate 16 0
          ∧ t.boot.entropyReady = (s.boot.entropyReady || !s.boot.lockdown)
          ∧ t.dru.saveKey.isSome = true))
    ∧ (s.boot.perstHigh = true → s.cdRunning = true → s.boot.cut = false → s.boot.link = .down →
      ∃ t, exec .linkTraining s = .next t ∧ t.boot = { s.boot with link := .training })
    ∧ (s.boot.link = .training →
      ∃ t, exec .linkTrainingComplete s = .next t ∧ t.boot = { s.boot with link := .up })
    ∧ (s.boot.perstHigh = true → s.cdRunning = true → s.fwRunning = false →
      ∃ t, exec .loaderConfigTakeover s = .next t ∧ t.boot = { s.boot with loaderServes := true })
    ∧ ∀ fn, s.boot.link = .up → s.boot.cut = false → (s.fn fn).present = true →
      (s.boot.serviceReady = false → s.boot.loaderServes = false → ∀ op,
        ∃ t, exec (.configRequest fn op) s = .next t ∧ t.out = .cfgRetry fn :: s.out ∧ t.fns = s.fns)
      ∧ (s.boot.serviceReady = true ∨ s.boot.loaderServes = true →
        (∀ off, ∃ t, exec (.configRequest fn (.read off)) s = .next t ∧ t.out = .cfgData fn (s.cfgWord fn off) :: s.out)
        ∧ (∀ on, ∃ t, exec (.configRequest fn (.setMemSpace on)) s = .next t ∧ t.fn fn = { s.fn fn with mse := on })
        ∧ (∀ f, ∃ t, exec (.configRequest fn (.readField f)) s = .next t ∧ t.out = .cfgData fn (s.cfgField fn f) :: s.out)
        ∧ (∀ f v, fn = 0 ∨ f = .completionTimeout →
          ∃ t, exec (.configRequest fn (.setField f v)) s = .next t
            ∧ t.fn fn = { s.fn fn with cfg := (s.fn fn).cfg.put f v (s.vfs ≠ []) })
        ∧ ∀ en mask, ∃ t, exec (.configRequest fn (.setMsix en mask)) s = .next t
            ∧ (t.fn fn).msixEn = en ∧ (t.fn fn).fnMask = mask
            ∧ (en = true → mask = false → ∀ v, v ∈ (t.fn fn).pendVec → v ∉ (t.fn fn).unmasked))

/-- The fundamental reset and the function-level reset complete (R80 to R84, R143, R156, R157, R281): PERST_N before the
compute die runs, in LOCKDOWN and otherwise, its rise, the reset of a VF and of the PF, VF Enable, and TRST_N. The choices in
it: log rows 54, 67 and 84. -/
def Obligations.ResetsComplete : Prop :=
  ∀ (s : State) (fn n : Nat),
    (s.boot.perstHigh = true →
      ∃ t, exec .perstAssert s = .next t ∧ t.boot.perstHigh = false ∧ t.boot.link = .down ∧ t.power.tierFloor = 0
        ∧ t.fns.length = 65 ∧ t.fuses.raw = s.fuses.raw ∧ t.logs.tamper = s.logs.tamper
        ∧ (s.cdRunning = true → t.jobs = [] ∧ t.queues = [] ∧ t.keys.ctx = [] ∧ t.keys.imported = [])
        ∧ (s.cdRunning = true → s.boot.lockdown = true →
            t.boot.stage = .released ∧ t.boot.lockdown = false ∧ t.boot.code = 0x0003 ∧ t.guard.holdPins = 0)
        ∧ (s.cdRunning = true → s.boot.lockdown = false →
            t.boot.stage = s.boot.stage ∧ t.guard.holdPins = s.guard.holdPins ∧ t.dru.owner = s.resetOwner)
        ∧ (s.cdRunning = false → t.boot.stage = s.boot.stage))
    ∧ (∃ t, exec .perstDeassert s = .next t ∧ t.boot = { s.boot with perstHigh := true })
    ∧ (s.boot.link = .up → s.boot.cut = false →
      ((s.fn fn).present = true →
        ∃ t, exec (.flr fn) s = .next t ∧ t.fn fn = { FnState.atReset true with inFlr := true, cfg := (s.fn fn).cfg.afterFlr }
          ∧ (∀ j, j ∈ t.jobs → ¬ (j.q.hasRing = true ∧ j.fn = fn))
          ∧ (∀ q, q ∈ t.queues → ¬ (q.ref.hasRing = true ∧ q.ref.fn = fn))
          ∧ (fn = 0 → t.dru.owner = .none ∧ t.vfs = []))
      ∧ (s.boot.serviceReady = true → n ≤ s.totalVfs → s.vfs = [] → s.fns.length = 65 →
        ∃ t, exec (.vfEnableSet n) s = .next t ∧ t.vfs = (List.range n).map (· + 1))
      ∧ ∃ t, exec .vfEnableClear s = .next t ∧ t.vfs = [])
    ∧ (fn < s.fns.length → ∃ t, exec (.flrComplete fn) s = .next t ∧ t.fn fn = { s.fn fn with inFlr := false })
    ∧ ∃ t, exec .tapReset s = .next t ∧ t.flt = { s.flt with tapSelect := .idcode }

/-- D3hot, Bus Master Enable, the unmasking of vectors and failed DMA requests complete (R144, R151, R154, R155, R203). The
choices in it: log rows 71, 78 and 93. -/
def Obligations.FunctionEventsComplete : Prop :=
  ∀ (s : State) (fn : Nat) (e : DmaErr) (addr : BitVec 64),
    ((s.fn fn).present = true →
      (∃ t, exec (.d3hotEntry fn) s = .next t ∧ t.fn fn = { s.fn fn with d3hot := true })
      ∧ ((s.fn fn).d3hot = true → ∃ t, exec (.d0Return fn) s = .next t ∧ (t.fn fn).d3hot = false)
      ∧ ((s.fn fn).bme = true →
        ∃ t, exec (.busMasterDisable fn) s = .next t ∧ (t.fn fn).bme = false
          ∧ ∀ j, j ∈ t.jobs → j.q.hasRing = true → j.fn = fn → j.phase = .running → j.stop = some st.dmaFault)
      ∧ (∃ t, exec (.busMasterEnable fn) s = .next t ∧ (t.fn fn).bme = true)
      ∧ (∀ v, v < vecCount fn →
        ∃ t, exec (.msixUnmask fn (.unmask v)) s = .next t ∧ v ∈ (t.fn fn).unmasked
          ∧ ((s.fn fn).msixEn = true → (s.fn fn).fnMask = false → v ∉ (t.fn fn).pendVec))
      ∧ (∃ t, exec (.msixUnmask fn .enable) s = .next t ∧ (t.fn fn).msixEn = true)
      ∧ ∃ t, exec (.msixUnmask fn .clearFnMask) s = .next t ∧ (t.fn fn).fnMask = false)
    ∧ (∀ target, ∃ t, exec (.dmaCompletion target none addr) s = .next t ∧ t = s)
    ∧ ((∀ w, e ≠ .internal w) →
      (∀ r : QRef, s.fetches r = true → r.isCtl = false →
        ∃ t, exec (.dmaCompletion (.ring r) (some e) addr) s = .next t ∧ (t.queue r).state = .error
          ∧ (t.queue r).errKind = 1 ∧ (t.queue r).errIndex = (s.queue r).head)
      ∧ ∀ id j, s.job? id = some j → j.ended = false → j.q.hasRing = true → j.fn < s.fns.length → j.fn ≠ 255 →
        ∃ t k, exec (.dmaCompletion (.jobRead id) (some e) addr) s = .next t ∧ (t.fn j.fn).dmaFault = true
          ∧ (t.fn j.fn).dmaKind = DmaErr.num e ∧ (t.fn j.fn).dmaAddr = (addr >>> 12).truncate 52
          ∧ t.job? id = some k ∧ k.phase = .ended ∧ k.ending.map Ending.status = some st.dmaFault)

/-- Register accesses complete (R14, R15, R144, R148, R500): PWR_LIMIT, the write-1-to-clear flags of DEV_THERM, FLT_EVT,
ENT_EVT and EVT_ACCESS, a refused size or alignment of a write or a read, an access in D3hot, and the read of an event-
counter register. The choices in it: log rows 45, 73 and 93. -/
def Obligations.RegisterAccessesComplete : Prop :=
  ∀ (s : State) (fn off : Nat) (v : BitVec 64), s.boot.link = .up → s.boot.cut = false →
    (s.barUp 0 = true →
      (∃ t, exec (.registerWrite 0 0x20 8 (.write v)) s = .next t ∧ t.power = { s.power with tierFloor := v.truncate 2 })
      ∧ (∃ t, exec (.registerWrite 0 0x28 8 (.write v)) s = .next t
        ∧ t.thermal = { s.thermal with throttleEvt := s.thermal.throttleEvt && !v.getLsbD 2 })
      ∧ (∃ t, exec (.registerWrite 0 0x400008 8 (.write v)) s = .next t
        ∧ t = s.mapFlt fun f => { f with evt := f.evt &&& ~~~ (v.truncate 10) })
      ∧ (∃ t, exec (.registerWrite 0 0x300010 8 (.write v)) s = .next t
        ∧ t = s.mapEnt fun e => { e with evt := e.evt &&& ~~~ (v.truncate 8) })
      ∧ (∃ t, exec (.registerWrite 0 0x400800 8 (.write v)) s = .next t
        ∧ t = s.mapFlt fun f => { f with access := f.access &&& ~~~ (v.truncate 2) })
      ∧ (∀ size, off < 0x4000000 → regWrite off size v = none →
        ∃ t, exec (.registerWrite 0 off size (.write v)) s = .next t ∧ t.flt.access.getLsbD 0 = true)
      ∧ (∀ size, off < 0x4000000 → partOf off size = none ∨ pfListed (off / 8 * 8) = false →
        ∃ t, exec (.registerWrite 0 off size .read) s = .next t ∧ t.flt.access.getLsbD 0 = true
          ∧ t.out.head? = some (.regData 0))
      ∧ ∀ bank reg part, reg ≤ 3 → bankListed bank = true →
        let c (k : Nat) := s.flt.counts.get 0 (16 * bank + 4 * reg + k)
        ∃ t, exec (.evtCounterRead bank reg part) s = .next t
          ∧ (∀ k, k ∈ partCounters part → t.flt.counts.get 0 (16 * bank + 4 * reg + k) = 0)
          ∧ (∀ k, k < 4 → k ∉ partCounters part → t.flt.counts.get 0 (16 * bank + 4 * reg + k) = c k)
          ∧ t.out = .regData (BitVec.ofNat 64 (match part with
              | .whole => c 0 + c 1 * 2 ^ 16 + c 2 * 2 ^ 32 + c 3 * 2 ^ 48
              | .low => c 0 + c 1 * 2 ^ 16
              | .high => c 2 + c 3 * 2 ^ 16)) :: s.out)
    ∧ ((s.fn fn).present = true → (s.fn fn).d3hot = true → off < s.barSize fn → ∀ size access,
      ∃ t, exec (.registerWrite fn off size access) s = .next t ∧ t = s.emit (.unsupported fn))

/-- What the platform guard reads from flash completes (R87, R101, R104, R105, R107, R114, R126, R128): the end of a port's
reset wait, a manifest, a region before release and in the background, the rewriting of a region for its recovery, and the
resumption of a commit. The choices in it: log rows 4, 63, 64, 66, 87, 88 and 89. -/
def Obligations.GuardReadingCompletes : Prop :=
  ∀ (s : State) (d k : Nat) (bytes : Bytes) (blocks recovery : List Bytes),
    (∀ port answers p, s.guard.policy = some p → (s.sport port).starting = true →
      ∃ t, exec (.flashResetWaitEnd port answers) s = .next t ∧ (t.sport port).starting = false
        ∧ (t.sport port).running = true
        ∧ (t.sport port).sfdp = (p.chips port).filterMap fun c => (answerOf answers c).map fun b => (c, b))
    ∧ (s.guard.running = true → (s.dom d).state.checking = true →
      ((s.pdom d).enabled = true → (s.pdom d).hasMf = true → (s.dom d).mfDigest = [] →
        (s.sport (s.pdom d).mfChip.port).running = true → s.guard.dead.contains (s.pdom d).mfChip = false → bytes.length = 16384 →
        s.turnOf (s.pdom d).mfChip.port d = true → s.resumeDue d = false → ((s.dom d).state = .committing → s.nvFree = true) →
        ∃ t, exec (.manifestReadDone d bytes) s = .next t
          ∧ (s.manifestFail d bytes = 0 →
              (t.dom d).mfDigest = Config.sha384 (manifestBytes bytes) ∧ (t.dom d).regions = manifestRegions bytes
                ∧ (t.dom d).mfSvn = fieldAt bytes 8 4)
          ∧ (s.manifestFail d bytes ≠ 0 →
              (t.dom d).state = .failedHeld ∧ (t.dom d).failCode = s.manifestFail d bytes))
      ∧ (∀ r, s.region? d k = some r → (s.dom d).mfDigest ≠ [] → s.readsNow d k r = true →
        (s.sport r.chip.port).running = true →
        ∃ t, exec (.regionReadDone d k blocks recovery) s = .next t
          ∧ (r.owes = false → r.rewritten = false → (s.recoverRun r = true → r.imageOk recovery = true) →
              (r.action ≠ 0 → s.boot.recovery = false ∧ (s.dom d).useRecovery = false) →
              (blocks.length = r.count ∧ runRoot r.regionId blocks = r.root →
                t.region? d k = some { r with matched := true, onRecovery := false } ∧ (t.dom d).state = (s.dom d).state)
              ∧ (¬ (blocks.length = r.count ∧ runRoot r.regionId blocks = r.root) → r.action = 0 →
                (t.dom d).state = .failedHeld ∧ (t.dom d).failCode = 6 ∧ (t.dom d).failRegion = k))
          ∧ (r.owes = true →
              (recovery.length = r.count ∧ runRoot r.regionId recovery = r.recRoot →
                (r.action = 1 ∨ s.boot.recovery = true → s.roomToRemap d k = true →
                  (t.dom d).recovered = true ∧ (t.region? d k).map Region.matched = some true)
                ∧ (r.action ≠ 1 → s.boot.recovery = false →
                  t.region? d k = some { r with matched := false, remapped := false, onRecovery := false, owes := false,
                                                rewritten := true }))
              ∧ (¬ (recovery.length = r.count ∧ runRoot r.regionId recovery = r.recRoot) →
                (t.dom d).state = .failedHeld ∧ (t.dom d).failCode = 7 ∧ (t.dom d).failRegion = k))
          ∧ (r.owes = false → r.rewritten = true → s.boot.recovery = false → (s.dom d).useRecovery = false →
              s.recoverRun r = false → r.action ≠ 0 → blocks.length = r.count → runRoot r.regionId blocks = r.recRoot →
              (t.dom d).recovered = true ∧ (t.region? d k).map Region.matched = some true))
      ∧ (∀ jnl images, s.commitRec = some jnl → jnl.domain = d → s.nvFree = true → (s.pdom d).enabled = true →
        (s.dom d).mfDigest = [] → (s.dom d).state ≠ .committing → (s.sport jnl.chip.port).running = true →
        ∃ t, exec (.guardCommitResume bytes images) s = .next t
          ∧ (Config.sha384 (manifestBytes bytes) = jnl.digest ∧ badImage (manifestRegions bytes) images jnl.withRecovery = none →
              (t.dom d).state = .committing ∧ (t.dom d).regions = [])
          ∧ (¬ (Config.sha384 (manifestBytes bytes) = jnl.digest
                ∧ badImage (manifestRegions bytes) images jnl.withRecovery = none) →
              t.keeper.commitJnl = none ∧ t.guard.staging = none ∧ (t.dom d).failCode = 13)))
    ∧ (∀ r, s.guard.running = true → (s.dom d).state = .released → s.region? d k = some r → r.matched = false →
      r.vbr = false → r.rewritten = false → blocks ≠ [] → blocks.length ≤ r.count → (s.sport r.chip.port).running = true →
      s.portHandled r.chip.port = true → (r.action ≠ 0 → s.boot.recovery = false ∧ s.recoverRun r = false) →
      ∃ t, exec (.backgroundBurst d k blocks recovery) s = .next t
        ∧ (blocks.length < r.count → t.guard.domains = s.guard.domains
            ∧ ∀ i, i < blocks.length → t.leafAt r.chip (r.base + i) = some (merkleLeaf r.regionId i (blocks.getD i [])))
        ∧ (blocks.length = r.count ∧ runRoot r.regionId blocks = r.root →
            t.region? d k = some { r with matched := true, onRecovery := false } ∧ (t.dom d).state = .released)
        ∧ (blocks.length = r.count → runRoot r.regionId blocks ≠ r.root → r.action = 0 →
            (t.dom d).state = .failedHeld ∧ (t.dom d).failCode = 6))

/-- Holds and the guard's commands complete (R88 to R90, R124, R130, R132, R133): release, the power-good inputs,
PLT_RECOVER_N, and the four commands on a state their intake would accept. The choices in it: log rows 63, 64, 87, 88 and 89.
-/
def Obligations.HoldsAndGuardCommandsComplete : Prop :=
  ∀ (s : State) (d n id : Nat) (j : Job),
    (d < 8 → (s.dom d).state.checking = true → s.releasable d = true → s.reverified d = true →
      ∃ t, exec (.domainRelease d) s = .next t ∧ (t.dom d).state = .released ∧ (t.dom d).booted = true
        ∧ t.guard.holdPins = s.guard.holdPins ||| (1#8 <<< d) ∧ (t.dom d).job = none)
    ∧ (∃ t, exec (.pltPgHigh n) s = .next t ∧ t.guard.pgHigh = s.guard.pgHigh.set n true
        ∧ t.guard.holdPins = s.guard.holdPins)
    ∧ (∃ t, exec (.pltPgFall n) s = .next t ∧ t.guard.pgHigh = s.guard.pgHigh.set n false
        ∧ ∀ d, d < 8 → (s.pdom d).pgInput = n →
            (t.dom d).state ≠ .released
            ∧ ((s.dom d).state = .released → s.boot.lockdown = false → t.guard.holdPins.getLsbD d = false))
    ∧ (∀ images, s.guard.running = true →
      ∃ t, exec (.pltRecoverEdge images) s = .next t ∧ ∀ d, d < 8 → (t.dom d).state ≠ .released)
    ∧ (let d := j.entry.p 0 1
       d < s.guard.domains.length →
      (∀ manifest images, s.runsJob id j .guardCommit [] → s.stateFault j.q j.entry .guardCommit = none → s.nvFree = true →
        s.guard.staging = none → s.commitRec = none → manifest.length = 16384 →
        let good : Prop := s.manifestFail d manifest = 0
          ∧ badImage (manifestRegions manifest) images (j.entry.p 2 1 = 1) = none
        ∃ t, exec (.guardCommit id manifest images) s = .next t
          ∧ (good → (t.dom d).state = .committing ∧ (t.dom d).job = some id
              ∧ (s.boot.lockdown = false → t.guard.holdPins.getLsbD d = false)
              ∧ t.keeper.commitJnl.map CommitJournal.digest = some (Config.sha384 (manifestBytes manifest))
              ∧ (t.job? id).map Job.phase = some .barrier)
          ∧ (¬ good → t.keeper.commitJnl = s.keeper.commitJnl ∧ t.guard.staging = none ∧ (t.job? id).map Job.phase = some .ended))
      ∧ (s.runsJob id j .guardHold [] → s.stateFault j.q j.entry .guardHold = none →
        ∃ t, exec (.guardHold id) s = .next t ∧ (t.dom d).state = .failedHeld ∧ (t.dom d).failCode = 14
          ∧ t.endedWith id st.ok (BitVec.ofNat 64 (5 * 2 ^ 32 + 14 * 2 ^ 40)) [])
      ∧ (s.runsJob id j .guardReverify [] → s.stateFault j.q j.entry .guardReverify = none →
        ∃ t, exec (.guardReverify id) s = .next t ∧ (t.dom d).state ≠ .released ∧ (t.dom d).job = some id
          ∧ (t.dom d).regions.all (fun r => !r.matched) = true ∧ (t.job? id).map Job.phase = some .barrier)
      ∧ (s.runsJob id j .guardSvnAdvance [] → s.stateFault j.q j.entry .guardSvnAdvance = none → s.nvFree = true →
        ∃ t, exec (.guardSvnAdvance id) s = .next t ∧ t.endedWith id st.ok (s.guardResult d 0) []
          ∧ t.keeper.domainSvn.get 0 d = max (s.keeper.domainSvn.get 0 d) (s.dom d).mfSvn))

/-- The Sieve serves host commands (R85, R86, R95, R108, R113, R115, R118 to R122): reads of PASS and DENY blocks and of a
mirrored block, programs and erases, the forwarded classes, mode switches and resets, a denied opcode, and the end of an owed
block and of a mirror refetch. The choices in it: log rows 17, 65, 87, 90 and 91. -/
def Obligations.SieveCompletes : Prop :=
  ∀ (s : State) (cmd : SpiCmd) (e : AllowEntry) (data : Bytes) (len : Nat) (flash : List FlashBlock),
    let port := cmd.chip.port
    let b := cmd.addr / 4096
    let u := s.issueProgram port
    (s.portUp port = true → s.allowed cmd = some e →
      (e.cls = 1 → len ≠ 0 → cmd.addr % 4096 + len ≤ 4096 → s.flashGiven cmd.chip b 1 flash = true →
        (s.blockPolicy cmd.chip b = .pass → (s.sport port).owed = none →
          ∃ t, exec (.hostRead cmd len flash none) s = .next t
            ∧ t = u.emit (.spiData port (slice (contentOf flash b) (cmd.addr % 4096) len)))
        ∧ (s.blockPolicy cmd.chip b = .deny →
          ∃ t, exec (.hostRead cmd len flash none) s = .next t ∧ .spiData port (ones len) ∈ t.out
            ∧ t.guard.evt.getLsbD 1 = true)
        ∧ (∀ c h, s.blockPolicy cmd.chip b = .verify → s.coverOf cmd.chip b = some c →
          s.guard.mirror.find? (fun h => h.chip = cmd.chip && h.block = b) = some h →
          ∃ t, exec (.hostRead cmd len flash none) s = .next t
            ∧ t = u.emit (.spiData port (slice h.data (cmd.addr % 4096) len))))
      ∧ (e.cls = 2 →
        ∃ t, exec (.hostProgram cmd data) s = .next t
          ∧ (s.allPass cmd.chip b ((cmd.addr + data.length + 4095) / 4096 - b) = true →
              (t.sport port).program = some (cmd.chip, cmd.addr, data))
          ∧ (s.allPass cmd.chip b ((cmd.addr + data.length + 4095) / 4096 - b) = false →
              (t.sport port).program = none ∧ t.guard.evt.getLsbD 3 = true))
      ∧ (e.cls = 3 →
        ∃ t, exec (.hostErase cmd) s = .next t
          ∧ (s.allPass cmd.chip (b / eraseBlocks e.param * eraseBlocks e.param) (eraseBlocks e.param) = true →
              t = u.forward cmd (.erase (4 * eraseBlocks e.param)))
          ∧ (s.allPass cmd.chip (b / eraseBlocks e.param * eraseBlocks e.param) (eraseBlocks e.param) = false →
              t.guard.evt.getLsbD 3 = true))
      ∧ (e.cls = 4 → ∃ t, exec (.hostWriteEnable cmd) s = .next t ∧ t = u.forward cmd (enableOp cmd.opcode))
      ∧ (e.cls = 5 → ∀ w : BitVec 8,
        ∃ t, exec (.hostStatusRead cmd w) s = .next t
          ∧ t = (u.forward cmd (statusOp cmd.opcode)).emit (.spiData port [if (s.sport port).program.isSome then w ||| 1 else w]))
      ∧ (e.cls = 6 → ∃ t, exec (.hostIdRead cmd data) s = .next t ∧ t = (u.forward cmd .readId).emit (.spiData port data))
      ∧ (e.cls = 7 → ∀ p copy, s.guard.policy = some p → (s.sport port).sfdp.lookup cmd.chip = some copy →
        ∃ t, exec (.hostSfdpRead cmd len) s = .next t ∧ t = u.emit (.spiData port (slice (p.sfdp port copy) cmd.addr len)))
      ∧ (e.cls = 8 → ∃ t, exec (.hostSuspend cmd) s = .next t ∧ t = u.forward cmd (suspendOp cmd.opcode))
      ∧ (e.cls = 9 → ∀ p, s.guard.policy = some p →
        ∃ t, exec (.hostResetCmd cmd) s = .next t ∧ (t.sport port).owed = none ∧ (t.sport port).mode = (p.port port).initMode)
      ∧ (e.cls = 10 → ∃ t, exec (.hostModeSwitch cmd) s = .next t ∧ (t.sport port).mode = e.param))
    ∧ (s.portUp port = true → s.allowed cmd = none →
      ∃ t, exec (.hostOpcodeDenied cmd) s = .next t ∧ t.guard.evt.getLsbD 2 = true ∧ .spiHighZ port ∈ t.out)
    ∧ (∀ p, s.portUp port = true → s.guard.policy = some p →
      ∃ t, exec (.hostResetPin port) s = .next t ∧ (t.sport port).owed = none ∧ (t.sport port).mode = (p.port port).initMode)
    ∧ (∀ o, (s.sport port).owed = some o → o.seen.length + data.length = 4096 →
      ∃ t, exec (.owedBlockCheck port data) s = .next t ∧ (t.sport port).owed = none)
    ∧ ∀ chip n, s.guard.lost.contains (chip, n) = true → data.length = 4096 →
      ∃ t, exec (.mirrorRefetchDone chip n data) s = .next t ∧ t.guard.lost.contains (chip, n) = false

/-- The SPDM responder completes (R136 to R139): the connection, certificates, measurements, the challenge, the secured
session and its end, and chunked transfer. The choices in it: log rows 4, 62 and 94. -/
def Obligations.SpdmCompletes : Prop :=
  ∀ (s : State) (ch : Channel) (msg : Bytes) (slot : Nat), s.spdmUp ch = true →
    (∃ t, exec (.getVersion msg ch) s = .next t ∧ t.mgmt.conn = .version ∧ t.mgmt.spdm = .none ∧ t.mgmt.session.isOpen = false
      ∧ s.answersSpdm t ch [0x04, 0x12, 0x13])
    ∧ (s.mgmt.conn = .version →
      ∃ t, exec (.getCapabilities msg ch) s = .next t ∧ t.mgmt.conn = .capabilities ∧ t.mgmt.xfer = fieldAt msg 12 4
        ∧ s.answersSpdm t ch (0x61 :: capabilities))
    ∧ (s.mgmt.conn = .capabilities →
      ∃ t, exec (.negotiateAlgorithms msg ch) s = .next t
        ∧ (offersOptions msg = true → t.mgmt.conn = .negotiated
            ∧ s.answersSpdm t ch (0x63 :: algorithms))
        ∧ (offersOptions msg = false → t = s.spdmFail ch 0x01))
    ∧ (s.mgmt.conn = .negotiated →
      (∃ t, exec (.getDigests msg ch) s = .next t
        ∧ s.answersSpdm t ch ([0x01, BitVec.ofNat 8 ((([0, 1].filter s.slotHere).map (2 ^ ·)).sum)]
            ++ ([0, 1].filter s.slotHere).flatMap fun k => Config.sha384 (s.chainOf k)))
      ∧ (∀ off len, s.slotHere slot = true → off ≤ (s.chainOf slot).length →
        ∃ t, exec (.getCertificate slot off len msg ch) s = .next t
          ∧ s.answersSpdm t ch ([0x02, BitVec.ofNat 8 slot] ++ leBytes 2 (slice (s.chainOf slot) off len).length
              ++ leBytes 2 ((s.chainOf slot).length - off - (slice (s.chainOf slot) off len).length)
              ++ slice (s.chainOf slot) off len))
      ∧ (s.slotHere slot = true → s.ent.state = .ready →
        ∃ t, let body := [0x03, BitVec.ofNat 8 slot] ++ Config.sha384 (s.chainOf slot) ++ s.freeNow 32
          exec (.challenge slot msg ch) s = .next t ∧ s.answersSpdm t ch (body ++ s.draw.spdmSig slot msg body))
      ∧ (∀ index (sign : Bool), (sign = true → s.slotHere slot = true ∧ s.ent.state = .ready) →
        ∃ t, let body := [0x60] ++ (if index = 0 then leBytes 1 measIndices.length
              else if index = 0xFF then measIndices.flatMap s.measBlock else s.measBlock index)
          exec (.getMeasurements slot index sign msg ch) s = .next t
            ∧ s.answersSpdm t ch (if sign then body ++ s.spdmSig slot msg body else body))
      ∧ (s.mgmt.spdm = .none → s.slotHere slot = true → s.ent.state = .ready →
        ∃ t, exec (.keyExchange slot msg ch) s = .next t ∧ t.mgmt.spdm = .handshaking ∧ t.mgmt.secOn = ch.binding)
      ∧ (∀ chunk last, s.mgmt.chunk.length + chunk.length ≤ 69632 →
        ∃ t, exec (.chunkSend chunk last ch) s = .next t ∧ t.out = s.ibiOf ch.binding ++ .spdm ch [0x05] :: s.out
          ∧ t.mgmt = { s.mgmt with chunk := if last then [] else s.mgmt.chunk ++ chunk }))
    ∧ (s.mgmt.spdm = .handshaking → ch.secured = true →
      (∃ t, exec (.finish msg true ch) s = .next t ∧ t.mgmt.spdm = .established ∧ s.answersSpdm t ch [0x65])
      ∧ ∃ t, exec (.finish msg false ch) s = .next t ∧ t.mgmt.spdm = .none ∧ t.mgmt.session.isOpen = false
          ∧ t.out = s.ibiOf ch.binding ++ .spdmError ch 0x06 :: s.out)
    ∧ (s.mgmt.spdm = .established → ch.secured = true →
      (1 ≤ fieldAt msg 2 1 → fieldAt msg 2 1 ≤ 3 →
        ∃ t, exec (.keyUpdate msg ch) s = .next t ∧ t.mgmt.spdm = .established ∧ s.answersSpdm t ch [0x69]
          ∧ t.mgmt.reqKey = (if fieldAt msg 2 1 ≤ 2 then sessionSecret 0x104 s.mgmt.reqKey [] else s.mgmt.reqKey)
          ∧ t.mgmt.rspKey = (if fieldAt msg 2 1 = 2 then sessionSecret 0x104 s.mgmt.rspKey [] else s.mgmt.rspKey))
      ∧ (∃ t, exec (.heartbeat msg ch) s = .next t ∧ t.mgmt.spdm = .established ∧ s.answersSpdm t ch [0x68])
      ∧ ∃ t, exec (.endSession msg ch) s = .next t ∧ t.mgmt.spdm = .none ∧ t.mgmt.session.isOpen = false
          ∧ s.answersSpdm t ch [0x6C])
    ∧ (s.mgmt.reply ≠ [] →
      ∃ t, exec (.chunkGet msg ch) s = .next t ∧ t.out = s.ibiOf ch.binding ++ .spdm ch (0x06 :: s.mgmt.reply.take (max 1 s.mgmt.xfer)) :: s.out
        ∧ t.mgmt = { s.mgmt with reply := s.mgmt.reply.drop (max 1 s.mgmt.xfer), seen := s.mgmt.seen ++ msg })

/-- The I3C target completes while the keeper has VIN (R159, R160, R161): the register pointer, the register window,
MG_ALERT, and the common command codes. Bytes the spec does not give are opaque. The choices in it: log rows 59 and 94. -/
def Obligations.I3cCompletes : Prop :=
  ∀ (s : State), s.power.vinValid = true →
    (∀ byte : BitVec 8, 0x80#8 ≤ byte → byte ≤ 0xBF#8 →
      ∃ t, exec (.mgPointerWrite byte) s = .next t ∧ t = s.mapMgmt fun m => { m with ptr := byte.toNat % 64 * 8 })
    ∧ (∀ len, ∃ t, let n := min len s.mgmt.mrl
        exec (.mgRegisterRead len) s = .next t
        ∧ t.out = .i3c (slice (s.mgWindow ++ zeros (s.mgmt.ptr + n)) s.mgmt.ptr n) :: s.out
        ∧ t.thermal = { s.thermal with mgPeak := if s.mgmt.ptr ≤ 0x1A ∧ 0x1A < s.mgmt.ptr + n then 0 else s.thermal.mgPeak })
    ∧ (∀ v : BitVec 64, ∃ t, exec (.mgAlertWrite v) s = .next t
        ∧ t = s.mapMgmt fun m => { m with ptr := 0x20, alert := m.alert &&& ~~~ (v.truncate 4) })
    ∧ (∀ addr : BitVec 7, s.mgmt.dynAddr = none →
      (∃ t, exec (.entdaa addr) s = .next t ∧ t = s.mapMgmt fun m => { m with dynAddr := some addr })
      ∧ ∃ t, exec (.setdasa 0x3A addr) s = .next t ∧ t = s.mapMgmt fun m => { m with dynAddr := some addr })
    ∧ (∃ t, exec .rstdaa s = .next t ∧ t = s.mapMgmt fun m => { m with dynAddr := none })
    ∧ (∃ t, exec .enec s = .next t ∧ t = s.mapMgmt fun m => { m with ibiOn := true })
    ∧ (∃ t, exec .disec s = .next t ∧ t = s.mapMgmt fun m => { m with ibiOn := false })
    ∧ (∀ len, (∃ t, exec (.setmwl len) s = .next t ∧ t = s.mapMgmt fun m => { m with mwl := min len 1024 })
        ∧ ∃ t, exec (.setmrl len) s = .next t ∧ t = s.mapMgmt fun m => { m with mrl := min len 1024 })
    ∧ (s.i3cMode = true →
    (∃ t, exec .getpid s = .next t ∧ t = s.emit (.i3c ([Config.i3cByte 1 0, Config.i3cByte 1 1] ++ (leBytes 2 s.part).reverse
        ++ [Config.i3cByte 1 2, Config.i3cByte 1 3])))
    ∧ (∃ t, exec .getbcr s = .next t ∧ t = s.emit (.i3c [0x06]))
    ∧ (∃ t, exec .getdcr s = .next t ∧ t = s.emit (.i3c [0x00]))
    ∧ (∃ t, exec .getstatus s = .next t ∧ t = s.emit (.i3c [Config.i3cByte 2 0, Config.i3cByte 2 1]))
    ∧ (∃ t, exec .getmwl s = .next t ∧ t = s.emit (.i3c (leBytes 2 s.mgmt.mwl).reverse))
    ∧ (∃ t, exec .getmrl s = .next t ∧ t = s.emit (.i3c ((leBytes 2 s.mgmt.mrl).reverse ++ [Config.i3cByte 3 0])))
    ∧ ∃ t, exec .getmxds s = .next t ∧ t = s.emit (.i3c [Config.i3cByte 4 0, Config.i3cByte 4 1]))

/-- MCTP control messages, vendor control requests and the management proof complete (R162 to R165, R170, R171, R205). The
choices in it: log rows 5, 60 and 94. -/
def Obligations.MctpAndVendorComplete : Prop :=
  ∀ (s : State) (b : Binding) (ch : Channel),
    (s.mctpUp b = true →
      (∀ eid : BitVec 8, eid ≠ 0 → eid ≠ 0xFF →
        ∃ t, exec (.setEndpointId b eid) s = .next t ∧ t.mgmt.eid b = eid ∧ t.out = (s.mctpSend b 0 [0x00, 0x00, eid, 0x00]).out)
      ∧ (∃ t, exec (.getEndpointId b) s = .next t ∧ t = s.mctpSend b 0 [0x00, s.mgmt.eid b, 0x00, 0x00])
      ∧ (∀ ty : BitVec 8, mctpTypes.contains ty = false →
        ∃ t, exec (.getMctpVersionSupport b ty) s = .next t ∧ t = s.mctpSend b 0 [0x80])
      ∧ (∀ ty : BitVec 8, mctpTypes.contains ty = true →
        ∃ t, exec (.getMctpVersionSupport b ty) s = .next t
          ∧ t = s.mctpSend b 0 (0x00 :: (List.range 4).map (Config.i3cByte (16 + ty.toNat))))
      ∧ (∃ t, exec (.getMessageTypeSupport b) s = .next t ∧ t = s.mctpSend b 0 ([0x00, 0x05] ++ mctpTypes))
      ∧ ∃ t, exec (.getVendorMsgSupport b) s = .next t
          ∧ t = s.mctpSend b 0 [0x00, 0xFF, 0x00, 0x1F, 0x6E, Config.i3cByte 5 0, Config.i3cByte 5 1])
    ∧ (∀ entry input : Bytes, s.msgUp ch.binding = true → s.hears ch = true → s.boot.lockdown = false → entry.length = 64 → input.length ≤ 4096 →
      input.length = (Entry.ofBytes entry).inLen.toNat →
      (s.inSession ch = false →
        ∃ t, exec (.mgControlRequest ch entry input) s = .next t
          ∧ t = s.vendor ch.binding 0x02 (completionBytes (Entry.ofBytes entry).cmdId st.notAuthorised 0 0 0 0 0))
      ∧ (s.inSession ch = true → s.malformedKind .mgmt (Entry.ofBytes entry) = none →
        ∃ t, exec (.mgControlRequest ch entry input) s = .next t
          ∧ (t.queue .mgmt).intake = (s.queue .mgmt).intake ++ [{
              entry := Entry.ofBytes entry, index := 0, aborted := false, stamp := s.sched.arrivals, input := input,
              viaVdm := decide (ch.binding = .vdm) }]))
    ∧ (s.msgUp ch.binding = true → s.hears ch = true → ch.secured = true → s.mgmt.spdm = .established →
      (s.ent.state = .ready →
        ∃ t, exec (.mgAuthNonceRequest ch) s = .next t ∧ t.mgmt.session.nonce = some (s.freeNow 32, s.now)
          ∧ .mctp ch.binding 0x7E ([0x1F, 0x6E, 0x03] ++ s.freeNow 32) ∈ t.out)
      ∧ ∀ method proof nonce, s.methodOk 255 method = true → s.lockLeft 255 = 0 → s.nonceOf 255 = some nonce →
        ((s.judge 255 method nonce proof).1 = st.ok →
          ∃ t, exec (.mgAuthProof ch method proof) s = .next t ∧ t.mgmt.session.isOpen = true ∧ t.mgmt.session.failCount = 0)
        ∧ ((s.judge 255 method nonce proof).1 ≠ st.ok → (s.judge 255 method nonce proof).1 ≠ st.notAuthorised →
          (s.judge 255 method nonce proof).1 ≠ st.stateRefused →
          ∃ t, exec (.mgAuthProof ch method proof) s = .next t ∧ t.mgmt.alert.getLsbD 3 = true
            ∧ t.mgmt.session.failCount = min 255 (s.mgmt.session.failCount + 1) ∧ t.mgmt.session.nonce = none))

/-- PLDM firmware update completes in a management session or recovery mode (R166, R527): inventory, the update mode, the
component table, the component, its data, activation, status and cancelling. The choices in it: log rows 61 and 94. -/
def Obligations.PldmCompletes : Prop :=
  ∀ (s : State) (ch : Channel), s.pldmUp ch.binding = true → s.hears ch = true →
    ((∀ tid : BitVec 8, tid ≠ 0 → tid ≠ 0xFF →
        ∃ t, exec (.queryDeviceIdentifiers ch (.setTid tid)) s = .next t ∧ t.mgmt = { s.mgmt with tid }
          ∧ t.out = s.ibiOf ch.binding ++ .mctp ch.binding 0x01 [0x00, 0x01, 0x00] :: s.out)
      ∧ (∃ t, exec (.queryDeviceIdentifiers ch .getTid) s = .next t
        ∧ t = s.mctpSend ch.binding 0x01 [0x00, 0x02, 0x00, s.mgmt.tid])
      ∧ (∃ t, exec (.queryDeviceIdentifiers ch .getTypes) s = .next t
        ∧ t = s.mctpSend ch.binding 0x01 ([0x00, 0x04, 0x00] ++ leBytes 8 0x21)))
    ∧ (s.inSession ch = true ∨ s.boot.recovery = true →
    (∃ t, exec (.queryDeviceIdentifiers ch .identifiers) s = .next t ∧ t = s.pldmSend ch.binding 0x01 0 (leBytes 2 0x1F6E ++ leBytes 2 s.part))
    ∧ (∃ t, let ins := [s.upd.slot.take 4096, s.upd.microCur.take 4096, s.upd.polCur.take 4096]
        exec (.getFirmwareParameters ch) s = .next t
        ∧ t = s.pldmSend ch.binding 0x02 0 (Config.prim (.pldm 2) ins (Config.primCount (.pldm 2) ins)))
    ∧ (∀ (eid : BitVec 8) maxTransfer, s.lockHeld = false → 4096 ≤ maxTransfer →
      ∃ t, exec (.requestUpdate ch eid maxTransfer) s = .next t ∧ t.upd = { s.upd with holder := .mgmt, holderId := eid.toNat }
        ∧ t.mgmt.block = min maxTransfer 65536 / 4096 * 4096 ∧ t.out = s.ibiOf ch.binding ++ .pldm ch.binding 0x10 0 [] :: s.out)
    ∧ (∃ t, exec (.getStatus ch) s = .next t ∧ t = s.pldmSend ch.binding 0x1B 0 (leBytes 1 s.upd.stage.num ++ leBytes 1 s.upd.holder.num ++ leBytes 1 s.upd.component))
    ∧ (s.mgmtHolds = true →
      (∀ c, s.upd.stage = .idle → 1 ≤ c → c ≤ 3 → s.componentOk c = true →
        ∃ t, exec (.passComponentTable ch c) s = .next t ∧ t.mgmt = { s.mgmt with comp := c }
          ∧ t.out = s.ibiOf ch.binding ++ .pldm ch.binding 0x13 0 [0] :: s.out)
      ∧ (∀ header : Bytes, s.upd.stage = .idle → s.store.taking = .nobody → header.length = 4096 →
        ∃ t, exec (.updateComponent ch header) s = .next t
          ∧ (s.beginFault 255 header = none → imgComponent header = s.mgmt.comp → s.highHeld = false →
              t.upd.stage = .downloading ∧ t.upd.component = imgComponent header ∧ t.upd.header = header ∧ t.store.lent = true)
          ∧ (∀ c r, s.beginFault 255 header = some (c, r) →
              t.out = s.ibiOf ch.binding ++ .pldm ch.binding 0x14 0 ([1] ++ leBytes 2 c.toNat ++ leBytes 1 r.toNat) :: s.out ∧ t.upd = s.upd))
      ∧ (∀ off data rb u, s.upd.stage = .downloading → s.upd.blockFits off data.length = true →
        s.stageBlock off data = some u → u.upd.firstGap.isSome = true →
        ∃ t, exec (.firmwareDataResponse ch off data rb) s = .next t ∧ t = u.requestData ch.binding)
      ∧ (∀ off data u, s.upd.stage = .downloading → s.upd.blockFits off data.length = true →
        s.stageBlock off data = some u → u.upd.firstGap = none →
        ∃ t, exec (.firmwareDataResponse ch off data true) s = .next t ∧ .pldm ch.binding 0x16 0 [] ∈ t.out
          ∧ t.upd.stage = (if imgDigestOk u.upd.staged = true ∧ imgSigsOk u.upd.staged = true ∧ s.contentOk u.upd.staged = true
              then .verified else .downloading))
      ∧ (s.upd.stage = .verified → s.canActivate = true →
        ∃ t, exec (.activateFirmware ch) s = .next t ∧ t.upd = { s.upd with waitFrom := some (s.upd.waitFrom.getD s.now) }
          ∧ t.out = s.ibiOf ch.binding ++ .pldm ch.binding 0x1A 0 [] :: s.out)
      ∧ (s.updateOpen = true →
        (∃ t, exec (.cancelUpdateComponent ch) s = .next t ∧ t.upd.stage = .idle ∧ t.upd.holder = .none ∧ t.store.lent = false)
        ∧ ∃ t, exec (.cancelUpdate ch) s = .next t ∧ t.upd.stage = .idle ∧ t.upd.holder = .none ∧ t.store.lent = false)))

/-- The rings complete (R178 to R194, R203, R204, R208 to R210): doorbells and reports, the repoll, the index block, the
fetch of an entry within Max_Read_Request_Size, interrupt moderation, the latch of the counters, Q_CFG and Q_CTRL, and the
end of a drain. The choices in it: log rows 22, 70 and 93. -/
def Obligations.RingsComplete : Prop :=
  ∀ (s : State) (r : QRef),
    let q := s.queue r
    (s.regsUp r = true →
      (q.state = .running →
        ∃ t, exec (.doorbellSqRing r) s = .next t
          ∧ t.queue r = (if q.index then { q with ringPend := true } else { q with repoll := false }))
      ∧ (q.state = .absent → ∃ t, exec (.doorbellSqRing r) s = .next t ∧ t.flt.access.getLsbD 1 = true)
      ∧ (∀ (head : BitVec 16) (phase : Bool), q.state ≠ .absent →
        let dist := (q.reportPos head.toNat phase + 2 * q.m - q.cqReport) % (2 * q.m)
        (head.toNat < q.m → dist ≤ (q.cnt.completed - q.cnt.consumed).toNat →
          ∃ t, exec (.doorbellCqReport r head phase) s = .next t ∧ (t.queue r).cqReport = q.reportPos head.toNat phase
            ∧ (t.queue r).cnt = { q.cnt with consumed := q.cnt.consumed + BitVec.ofNat 64 dist })
        ∧ (q.m ≤ head.toNat ∨ (q.cnt.completed - q.cnt.consumed).toNat < dist → r.isCtl = false → q.state = .running →
          ∃ t, exec (.doorbellCqReport r head phase) s = .next t ∧ (t.queue r).state = .error ∧ (t.queue r).errKind = 6))
      ∧ (q.state ≠ .absent →
        ∃ t, exec (.qSubmittedRead r) s = .next t ∧ (t.queue r).latched = q.cnt
          ∧ t.out = .regData q.cnt.submitted :: s.out)
      ∧ (∀ cfg : BitVec 64, r.isJob = false → q.state = .absent →
        ∃ t, exec (.queueEnable r cfg) s = .next t
          ∧ t.queue r = (if (q.setCfg (cfg ||| 1)).configOk then (q.setCfg (cfg ||| 1)).start
              else { q.setCfg (cfg ||| 1) with errKind := 7 }))
      ∧ (r.isJob = false → q.state = .running ∨ q.state = .error →
        ∃ t, exec (.queueDisable r) s = .next t ∧ t.queue r = q.drain none)
      ∧ (∀ fn (skip : Bool), r = .admin fn → q.state = .error → (skip = true → q.errKind = 4 ∨ q.errKind = 5) →
        ∃ t, exec (.adminQueueRestart fn skip) s = .next t ∧ t.queue r = q.restart skip))
    ∧ (q.state = .running → ∃ t, exec (.sqRepoll r) s = .next t ∧ t.queue r = { q with repoll := false })
    ∧ (s.fetches r = true →
      (∀ tail : BitVec 32, q.index = true → q.ringPend = true → tail.toNat < q.n →
        ∃ t, exec (.indexBlockRead r tail true none) s = .next t
          ∧ t.queue r = { q with ringPend := false, tail := tail.toNat })
      ∧ (∀ b : Bytes, q.index = false → q.wants = true → b.length = 64 →
        1 ≤ s.fetchLen q → (Entry.ofBytes b).phase.getLsbD 0 = q.expPhase → s.malformedKind r (Entry.ofBytes b) = none →
        ∃ t, exec (.sqFetch r [b] none) s = .next t
          ∧ (t.queue r).intake = q.intake ++ [{
              entry := Entry.ofBytes b, index := q.head, aborted := false, stamp := s.sched.arrivals, input := [], viaVdm := false }]
          ∧ (t.queue r).head = (q.head + 1) % q.n ∧ (t.queue r).cnt.submitted = q.cnt.submitted + 1))
    ∧ (q.state ≠ .absent → 0 < q.unsignalled → q.modTime ≠ 0 →
      ∃ t, exec (.modTimerExpired r) s = .next t ∧ t.queue r = { q with unsignalled := 0 })
    ∧ (q.state = .draining → q.inFlight = 0 →
      ∃ t, exec (.queueDrained r) s = .next t ∧ t.queue r = Queue.atReset r
        ∧ ∀ id j, q.drainJob = some id → s.job? id = some j → j.phase = .barrier →
            t.endedWith id st.ok (BitVec.ofNat 64 (q.retCount + 65536 * q.retIndex)) [])

/-- The queue commands, IDENTIFY and ABORT complete (R206 to R209, R236, R245, R246). The choices in it: log rows 70 and 72.
-/
def Obligations.QueueCommandsComplete : Prop :=
  ∀ (s : State) (id : Nat) (j : Job),
    let q := s.queue j.named
    (s.runsJob id j .queueCreate [] → j.entry.p 14 1 ≤ s.shareFree → q.state = .absent → s.jobQueues.length < 4096 →
      ∃ t, exec (.queueCreate id) s = .next t ∧ t.endedWith id st.ok (BitVec.ofNat 64 (j.entry.p 8 2)) []
        ∧ t.queue j.named = newQueue j.named j.entry)
    ∧ (s.runsJob id j .queueDestroy [] → j.q.isAdmin = true → q.state = .running ∨ q.state = .error →
      (∀ x, x ∈ s.jobs → x.q = j.named → x.id ≠ id) →
      ∃ t, exec (.queueDestroy id) s = .next t ∧ t.queue j.named = q.drain (some id)
        ∧ (t.job? id).map Job.phase = some .barrier
        ∧ (j.entry.p 10 1 = 1 → ∀ x, x ∈ t.jobs → x.q = j.named → x.ended = true ∨ x.stop = some st.abortedQueueStop))
    ∧ (s.runsJob id j .queueRestart [] → q.state = .error → (j.entry.p 10 1 = 1 → q.errKind = 4 ∨ q.errKind = 5) →
      ∃ t, exec (.queueRestart id) s = .next t ∧ t.endedWith id st.ok 0 [] ∧ t.queue j.named = q.restart (j.entry.p 10 1 = 1))
    ∧ (s.runsJob id j .identify [] → ∃ t, exec (.identify id) s = .next t ∧ t.endedWith id st.ok 0 (s.identity j.fn))
    ∧ (s.runsJob id j .abort [] →
      let target : QRef := .job j.fn (j.entry.p 0 2)
      let cmd := BitVec.ofNat 16 (j.entry.p 2 2)
      (j.entry.p 0 2 = 0 ∨ (s.queue target).state = .absent →
        ∃ t, exec (.abort id) s = .next t ∧ t.endedWith id st.ok 0 [])
      ∧ (j.entry.p 0 2 ≠ 0 → (s.queue target).state ≠ .absent →
        ((s.queue target).intake.any (fun i => i.entry.cmdId = cmd) = true →
          ∃ t, exec (.abort id) s = .next t ∧ (t.job? id).map Job.phase = some .barrier
            ∧ ∀ i, i ∈ (t.queue target).intake → i.entry.cmdId = cmd → i.aborted = true)
        ∧ (∀ k, (s.queue target).intake.any (fun i => i.entry.cmdId = cmd) = false →
          s.jobs.find? (fun k => k.q = target && k.entry.cmdId = cmd) = some k → k.phase = .running → k.id ≠ id →
          ∃ t, exec (.abort id) s = .next t ∧ (t.job? id).map Job.phase = some .barrier
            ∧ ∀ x, x ∈ t.jobs → x.id = k.id → x.phase = .running → x.stop = some st.abortedHost)))

/-- The Hopper completes (R193, R197 to R202, R219, R225, R227, R231 to R233, R344, R445): a dispatch with its intake, a
subtree task, the engine-time windows, yield points, the resumption of a job, and the two ends of the entropy wait. The
choices in it: log rows 9, 11, 12, 25, 84, 92 and 96. -/
def Obligations.HopperCompletes : Prop :=
  ∀ (s : State) (cls : UnitClass) (id : Nat) (j : Job),
    (∀ inF outF fragErr r s3 i, s.dispatching = true → s.resumers cls = [] →
      (s.noteChoice cls).choose cls = (some r, s3) → s3.taskReady cls (s3.queue r) = false → (s3.queue r).next = some i →
      s.job? s.nextJob = none →
      let s4 := (s3.leaveIntake r i).noteAccept r i.entry i.aborted
      ∃ t, exec (.hopperDispatch cls inF outF fragErr) s = .next t ∧ t.nextJob = s.nextJob + 1
        ∧ (t.queue r).intake = (s3.queue r).intake.drop 1
        ∧ (t.queue r).cnt.dispatched = (s3.queue r).cnt.dispatched + 1
        ∧ (i.aborted = true → t.endedWith s.nextJob st.abortedHost (signerResult i.entry.opcode.toNat st.abortedHost 0) [])
        ∧ (∀ c res, i.aborted = false → s4.intake r i.entry inF outF = .ended c res →
            t.endedWith s.nextJob c (signerResult i.entry.opcode.toNat c res) [])
        ∧ (∀ a, i.aborted = false → s4.intake r i.entry inF outF = .unread a →
            t.endedWith s.nextJob (DmaErr.status fragErr) (signerResult i.entry.opcode.toNat (DmaErr.status fragErr) 0) [])
        ∧ (∀ holds c1 c2 ins outs, i.aborted = false → s4.intake r i.entry inF outF = .accepted holds c1 c2 ins outs →
            s4.lostRoot c1 = false → s4.lostRoot c2 = false →
            ∃ x, t.job? s.nextJob = some x ∧ x.entry = i.entry ∧ x.q = r ∧ x.holds = holds ∧ x.outFrags = outs
              ∧ x.unit = s4.pickUnit i.entry.group))
    ∧ (∀ inF outF fragErr r s3 k n u, s.dispatching = true → s.resumers .hash = [] →
      (s.noteChoice .hash).choose .hash = (some r, s3) → s3.taskReady .hash (s3.queue r) = true → s3.taskJob r = some k →
      s3.job? k.id = some k → k.tasks = some (n + 1) → (s3.unitsUp .hash).find? (fun u => !s3.unitBusy .hash u) = some u →
      ∃ t, exec (.hopperDispatch .hash inF outF fragErr) s = .next t ∧ t.nextJob = s.nextJob
        ∧ t.job? k.id = some { k with tasks := some n, taskUnits := k.taskUnits ++ [u], since := s.sched.step })
    ∧ (s.cdRunning = true →
      (∃ t, exec .engineWindowAdvance s = .next t ∧ t.sched.step = s.sched.step + 1)
      ∧ (∀ t, exec .engineWindowAdvance s = .next t → (s.sched.step + 1) % windowSteps = 0 →
          (t.sched.arb cls).always = none ∧ (t.sched.arb cls).due.isSome = true
            ∧ ((t.sched.arb cls).ctl0Used = true ↔
                ∃ x, x ∈ s.jobs ∧ x.cls = cls ∧ x.ended = false ∧ 0 < x.unitCount ∧ x.q = .ctl 0))
      ∧ ∃ t, exec (.shareWindowEnd cls) s = .next t ∧ (t.sched.arb cls).due = none
          ∧ ∀ w r, (s.sched.arb cls).due = some w → w.hit.contains r = true → (t.queue r).evt.getLsbD 2 = true)
    ∧ (s.job? id = some j →
      (∀ status, j.phase = .running ∨ (j.phase.isWait = true ∧ j.unit.isSome = true) → j.stop = some status →
        ∃ t, exec (.yieldPoint id) s = .next t ∧ t.endedWith id status (j.plainResult status) [])
      ∧ (j.phase = .running → j.stop = none → s.power.pfHold = true ∨ s.thermal.thermStop = true →
        ∃ t, exec (.yieldPoint id) s = .next t ∧ t.job? id = some { j with
          phase := .paused, unit := none, lane := none, tasks := j.tasks.map (· + j.taskUnits.length), taskUnits := [] })
      ∧ (s.resumable j = true → (s.sched.arb j.cls).gave.contains id = false →
        (s.resumers j.cls).head?.map Job.id = some id →
        ∃ t, exec (.jobResume id) s = .next t ∧ t.job? id = some { j with
          phase := if j.phase.isWait then j.phase else .running, unit := s.pickUnit j.group, since := s.sched.step,
          lane := (s.pickUnit j.group).bind (s.laneBeside j) })
      ∧ (j.phase = .waitEntropy →
        (s.ent.state = .ready →
          ∃ t, exec (.entropyWaitEnd id) s = .next t ∧ t.job? id = some { j with phase := j.awake, seeded := true })
        ∧ (s.ent.state ≠ .ready →
          ∃ t, exec (.entropyWaitTimeout id) s = .next t ∧ t.endedWith id st.entropyNotReady (j.plainResult st.entropyNotReady) []
            ∧ t.ent.evt.getLsbD 0 = true)))

/-- JOB_COMPLETE completes for a job of a ring queue whose function has its DMA (R151, R187, R188, R192, R226): the
completion entry goes out with the queue's head and phase, COMPLETED counts it, and the job is gone. The choices in it: log
rows 8, 9 and 71. -/
def Obligations.JobCompletionCompletes : Prop :=
  ∀ (s : State) (id : Nat) (j : Job) (e : Ending), s.job? id = some j → j.phase = .ended → j.heldCpl = false →
    j.ending = some e → j.q.hasRing = true → s.dmaUp j.fn = true →
    (e.status = st.engineFault → (s.faultOf j).1 ≠ 13) →
    let q := s.queue j.q
    ∃ t, exec (.jobComplete id .none none) s = .next t ∧ t.job? id = none
      ∧ (t.queue j.q).cnt.completed = q.cnt.completed + 1 ∧ (t.queue j.q).cqWrite = (q.cqWrite + 1) % (2 * q.m)
      ∧ .hostWrite j.fn (q.cqBase + BitVec.ofNat 64 (32 * (q.cqWrite % q.m)))
          (completionBytes j.entry.cmdId e.status q.head (if q.cqWrite < q.m then 1 else 0) e.out.length
            (s.finalEnding j e).result e.cycles) ∈ t.out

/-- Roots and the operand store complete (R255, R256, R270, R378 to R380): a root at a FREE index with its entry, the spoil
of one, a geometry without fault, and a grant of slots nothing holds. The choices in it: log rows 5, 23, 29 and 30. -/
def Obligations.RootsAndStoreComplete : Prop :=
  ∀ (s : State) (id : Nat) (j : Job) (inp : Bytes),
    let e := j.entry
    let i := e.p 0 4
    let x := handleIndex e.ctx
    let c := s.keys.record x
    (∀ k, (s.keys.record i).state = .free → s.entryFor (e.p 4 2) = some k →
      let result := BitVec.ofNat 64 ((mkHandle i (s.keys.record i).gen).toNat + 2 ^ 32 * k)
      let root : Ctx := { parent := 0, gen := (s.keys.record i).gen, pgen := 0, type := e.p 6 1,
                          policy := BitVec.ofNat 24 (e.p 8 3), label := BitVec.ofNat 48 (e.p 12 4 * 65536 + k), state := .live }
      (s.runsJob id j .rootImport inp → s.passes j .rootImport →
        ∃ t, exec (.rootImport id inp) s = .next t ∧ t.endedWith id st.ok result []
          ∧ t.keys.record i = root ∧ t.keys.imported.get [] k = inp)
      ∧ (s.runsJob id j .rootGenerate [] → s.passes j .rootGenerate →
        ∃ t, exec (.rootGenerate id) s = .next t ∧ t.endedWith id st.ok result []
          ∧ t.keys.record i = root ∧ t.keys.imported.get [] k = s.freeNow 32))
    ∧ (s.runsJob id j .rootSpoil [] → s.nvFree = true → (s.chainCheck e.ctx j.fn).1 = st.ok →
      s.keeper.revJournal.length < 4096 →
      ∃ t, exec (.rootSpoil id) s = .next t
        ∧ t.keys.record x = { c with gen := c.gen + 1, state := if 4095 ≤ c.gen + 1 then .exhausted else .dead }
        ∧ t.keys.imported.get [] c.entry = [] ∧ t.keeper.revJournal = s.keeper.revJournal ++ [(x, c.gen + 1)]
        ∧ (s.keys.flights x = 0 → (t.job? id).map Job.phase = some .ended)
        ∧ (s.keys.flights x ≠ 0 → (t.job? id).map Job.phase = some .barrier))
    ∧ (s.runsJob id j .opstoreConfig inp → s.nvFree = true → s.anyHold = false → s.store.lent = false →
      s.power.nvOk = true →
      let bands := (List.range (e.p 0 1)).map (cfgBand inp)
      ∃ t, exec (.opstoreConfig id inp) s = .next t
        ∧ (geometryFault bands = none → t.endedWith id st.ok 0 [] ∧ t.store.slots = []
            ∧ t.store.bands = bands.map fun b => { count := b.1, sizeLog := b.2.1, high := decide (b.2.2 = 1) })
        ∧ (∀ n r, geometryFault bands = some (n, r) → t.store = s.store
            ∧ t.endedWith id st.paramRejected (BitVec.ofNat 64 (n + 256 * r)) []))
    ∧ (s.runsJob id j .slotGrant [] → s.nvFree = true → e.p 0 2 + e.p 2 2 ≤ s.store.count →
      (∀ n, e.p 0 2 ≤ n → n < e.p 0 2 + e.p 2 2 → s.slotHolds n = []) →
      ∃ t, exec (.slotGrant id) s = .next t ∧ t.endedWith id st.ok 0 []
        ∧ ∀ n, t.store.slot n = if e.p 0 2 ≤ n ∧ n < e.p 0 2 + e.p 2 2 then { Slot.blank with owner := e.p 4 1 } else s.store.slot n)

/-- The control commands and the TAP complete (R286, R475, R477, R481, R498, R499, R514): counters set up again, platform
time set at once or at an edge of PPS_IN, the log's records, a spoil, and the TAP with the manufacturing port. The choices in
it: log rows 51, 52, 53 and 54. -/
def Obligations.ControlAndTapComplete : Prop :=
  ∀ (s : State) (id : Nat) (j : Job) (inp : Bytes),
    let e := j.entry
    (s.runsJob id j .counterReestablish inp → s.nvFree = true → (∀ r, r ∈ s.keeper.slog → r.sepoch < e.p 8 2) →
      s.keeper.slog.length + e.p 10 2 ≤ 8192 →
      ∃ t, exec (.counterReestablish id inp) s = .next t ∧ t.keeper.imageCtr = e.p 0 8 ∧ t.keeper.sepoch = e.p 8 2
        ∧ t.keeper.badCounters = [] ∧ t.keeper.badLogRecs = [] ∧ t.keeper.imgPending = none
        ∧ t.boot.stage = .keeper ∧ t.boot.code = 0x0001 ∧ t.boot.countersLost = false ∧ t.power.tierFloor = 0)
    ∧ (s.runsJob id j .timeSet [] →
      ∃ t, exec (.timeSet id) s = .next t
        ∧ (e.flag 2 = false → t.endedWith id st.ok 0 [] ∧ t.boot.timeValid = true ∧ t.platformTime = secs (e.p 0 8))
        ∧ (e.flag 2 = true → (t.job? id).map Job.phase = some .barrier ∧ t.platformTime = s.platformTime))
    ∧ (s.job? id = some j → j.awaitsPps = true →
      ∃ t, exec (.timeSetTimeout id) s = .next t ∧ t.endedWith id st.timeout (j.plainResult st.timeout) []
        ∧ t.platformTime = s.platformTime)
    ∧ (s.power.vinValid = true →
      ∃ t, exec .ppsEdge s = .next t
        ∧ (s.jobs.filter Job.awaitsPps = [j] →
            t.endedWith j.id st.ok 0 [] ∧ t.boot.timeValid = true ∧ t.platformTime = secs (e.p 0 8))
        ∧ (s.jobs.filter Job.awaitsPps = [] → s.boot.timeValid = true → t.platformTime = roundSecond s.platformTime))
    ∧ (s.runsJob id j .eventLogRead [] →
      let log := if e.p 6 1 = 1 then s.logs.tamper else s.logs.event
      let l := (log.reverse.filter fun r => decide (e.p 0 4 ≤ r.seq)).take (e.p 4 2)
      ∃ t, exec (.eventLogRead id) s = .next t
        ∧ t.endedWith id st.ok (BitVec.ofNat 64 (l.length + 2 ^ 32 * s.logs.nextSeq)) (l.flatMap LogRec.bytes)
        ∧ t.logs = s.logs)
    ∧ (s.runsJob id j .spoilNow [] →
      ∃ t, exec (.spoilNow id) s = .next t ∧ t.endedWith id st.ok 0 [] ∧ t.keys.ctx = [] ∧ t.keys.imported = []
        ∧ t.keys.cache = [] ∧ t.keys.scopes = [] ∧ t.dru.owner = .none
        ∧ (e.flag 2 = true → s.power.nvOk = true → s.nvFree = true →
            ∀ w, w ∈ copies (338 + s.fuses.epoch) → (t.fuses.shadowOf w).data = rootDisableData)
        ∧ (e.flag 2 = true → ¬ (s.power.nvOk = true ∧ s.nvFree = true) → t.flt.rootPending = some s.fuses.epoch
            ∧ t.fuses.raw = s.fuses.raw))
    ∧ (∃ t, exec .tapBypass s = .next t ∧ t = s.tapTo .bypass)
    ∧ (∃ t, exec .tapIdcode s = .next t ∧ t = (s.tapTo .idcode).emit (.tdo ((List.range 4).map (Config.i3cByte 0))))
    ∧ (s.rights.getLsbD 0 = true →
      (∃ t, exec .tapSamplePreload s = .next t ∧ t = s.tapTo .samplePreload)
      ∧ ∃ t, exec .tapExtest s = .next t ∧ t = s.tapTo .extest)
    ∧ (∀ f : TapFunction, s.rights.getLsbD (tapRight f) = true →
      ∃ t, exec (.tapDebugInstruction f) s = .next t ∧ t = (s.tapTo (.debug f)).emit (.debugServed f))
    ∧ (∀ entry input : Bytes, s.mfgServes = true → s.mfgBusy = false → entry.length = 64 → input.length ≤ 256 →
      let n := Entry.ofBytes entry
      ∃ t, exec (.mfgCmd entry input) s = .next t ∧ t.flt.tapSelect = .mfgCmd ∧ t.flt.mfgReply = []
        ∧ (t.queue .tap).intake = (s.queue .tap).intake ++ [{
            entry := n, index := 0, aborted := false, stamp := s.sched.arrivals, input := input.take n.inLen.toNat,
            viaVdm := false }])
    ∧ (s.mfgServes = true ∨ s.fuses.lc = .testUnlocked ∨ s.flt.mfgReply ≠ [] →
      ∃ t, exec .mfgRsp s = .next t
        ∧ t = (s.tapTo .mfgRsp).emit (.tdo (if s.flt.mfgReply = [] then zeros 32 else s.flt.mfgReply)))

/-- The fuse commands complete (R457, R459, R461, R463 to R465): words programmed in order, a word that senses wrongly, the
roots GENERATE fills, and a region locked or a block sealed. The choices in it: log rows 13, 14, 17 and 48. -/
def Obligations.FusesComplete : Prop :=
  ∀ (s : State) (id : Nat) (j : Job) (inp : Bytes) (bad : Option Nat),
    let e := j.entry
    let a := e.p 0 2
    let words := (List.range (e.p 2 2)).map fun i => (a + i, BitVec.ofNat 32 (leNat (slice inp (4 * i) 4)))
    let r := regionOf a
    let g := e.p 0 1
    s.nvFree = true →
    (s.runsJob id j .fuseProgram inp → e.flag 2 = false → (∀ p, p ∈ words → p.2 ≠ 0) →
      s.firstFault (words.map Prod.fst) = none →
      ∃ t, exec (.fuseProgram id inp bad) s = .next t
        ∧ ((∀ w, bad = some w → w ∉ words.map Prod.fst) →
            t.endedWith id st.ok (BitVec.ofNat 64 (e.p 2 2)) []
            ∧ ∀ p, p ∈ words → t.fuses.word p.1 = fuseRaw p.2 ∧ t.fuses.shadowOf p.1 = { Shadow.blank with data := p.2 })
        ∧ (∀ w, bad = some w → w ∈ words.map Prod.fst →
            t.endedWith id st.paramRejected (BitVec.ofNat 64 (5 + 65536 * w)) []
            ∧ (t.fuses.shadowOf w).invalid = true ∧ t.fz w = 0))
    ∧ (s.runsJob id j .fuseProgram [] → s.passes j .fuseProgram → e.flag 2 = true → 3 ≤ r → r ≤ 6 → a = regionFirst r →
      (∀ w, w ∈ (List.range (regionSize r)).map (a + ·) → s.generateFault r w = none) →
      s.invalidIn ((lockWords r 3).map Prod.fst) = none →
      ∃ t, exec (.fuseProgram id [] none) s = .next t ∧ t.endedWith id st.ok (BitVec.ofNat 64 (rootWords r + 1)) []
        ∧ t.writeLocked r = true ∧ t.readLocked r = true
        ∧ ∀ i, i < rootWords r → t.fz (a + i) = BitVec.ofNat 32 (leNat (slice (s.freeNow (4 * rootWords r)) (4 * i) 4)))
    ∧ (s.runsJob id j .fuseLock [] → s.invalidIn (s.lockTouches g (e.p 1 1)) = none →
      (e.flag 2 = true ∨ ∀ w, w ∈ s.lockScope g → s.fuses.word w ≠ 0) →
      ∃ t, exec (.fuseLock id none) s = .next t
        ∧ t.endedWith id st.ok (if s.lockWrites g (e.p 1 1) = [] then 0 else 1) []
        ∧ (g < 15 → g ≠ 8 → g ≠ 13 → (e.p 1 1 % 2 = 1 → t.writeLocked g = true) ∧ (e.p 1 1 / 2 = 1 → t.readLocked g = true))
        ∧ (g = 8 ∨ g = 13 → s.fuses.word (blockDigestWord g s.fuses.epoch) = 0 →
            t.fz (blockDigestWord g s.fuses.epoch) = s.blockDigest g s.fuses.epoch))

/-- Life cycle and debug complete (R458, R466, R471 to R480): a transition and the restart it ends in, or its end when a word
is marked invalid, the transfer to the next epoch, the nonce, and a certificate that passes its checks. The choices in it:
log rows 13, 48, 49, 50 and 51. -/
def Obligations.LifeCycleAndDebugComplete : Prop :=
  ∀ (s : State) (id : Nat) (j : Job) (inp : Bytes), s.nvFree = true →
    (let tgt := lcOfNum (j.entry.p 0 1)
     let words := (tripWords (s.lcWrites tgt)).map Prod.fst
     s.runsJob id j .lcTransition inp → (tgt = .rma → s.certFault true inp = none) →
      (∀ w bad, s.invalidIn words = some w →
        ∃ t, exec (.lcTransition id inp bad) s = .next t ∧ t.fuses = s.fuses
          ∧ t.endedWith id st.paramRejected (BitVec.ofNat 64 (4 + 65536 * w)) [])
      ∧ (s.invalidIn words = none →
      ∃ t, exec (.lcTransition id inp none) s = .next t ∧ t.boot.stage = .released ∧ t.boot.code = 0x0003 ∧ t.jobs = []
        ∧ (∀ w, w ∈ copies (160 + lcWord tgt) → (t.fuses.shadowOf w).data = lcWordData.getD (lcWord tgt) 0)
        ∧ (∀ w, t.fuses.word w &&& s.fuses.word w = s.fuses.word w)
        ∧ t.keeper.debugNonce = s.keeper.debugNonce + (if tgt = .rma then 1 else 0)))
    ∧ (let e := s.fuses.epoch
       s.runsJob id j .ownerTransfer [] →
       s.invalidIn ((tripWords [(168 + e, epochData), (338 + e, rootDisableData)]).map Prod.fst) = none →
      ∃ t, exec (.ownerTransfer id none) s = .next t ∧ t.endedWith id st.ok (BitVec.ofNat 64 (e + 1)) []
        ∧ (∀ w, w ∈ copies (168 + e) → (t.fuses.shadowOf w).data = epochData)
        ∧ (∀ w, w ∈ copies (338 + e) → (t.fuses.shadowOf w).data = rootDisableData)
        ∧ t.keys.ctx = [] ∧ t.keys.imported = [] ∧ t.keeper.creds = [] ∧ t.keeper.debugRights = 0
        ∧ (∀ fn, (t.session fn).isOpen = false))
    ∧ (s.runsJob id j .debugNonce [] →
      let n := s.keeper.debugNonce + 1
      ∃ t, exec (.debugNonce id) s = .next t ∧ t.keeper.debugNonce = n
        ∧ t.endedWith id st.ok 0 (leBytes 8 n ++ leBytes 8 s.deviceId ++ leBytes 8 s.keeper.bootCount))
    ∧ (s.runsJob id j .debugCert inp →
      ∃ t, exec (.debugCert id inp) s = .next t
        ∧ (s.certFault false inp = none →
            t.endedWith id st.ok pairTrue [] ∧ t.keeper.debugNonce = s.keeper.debugNonce + 1
            ∧ t.keeper.debugRights = certRights inp ∧ t.keeper.debugExpiry = fieldAt inp 32 8
            ∧ t.keeper.debugDigest = Config.sha384 inp
            ∧ (s.fuses.lc ≠ .rma → t.keys.ctx = [] ∧ t.keeper.debugSpoiled = true))
        ∧ (∀ c r, s.certFault false inp = some (c, r) →
            t.endedWith id c (BitVec.ofNat 64 r) [] ∧ t.keeper.debugRights = s.keeper.debugRights ∧ t.keys = s.keys))

/-- The update commands complete (R506 to R516, R521, R526): the lock and the HIGH half, a block, verification, an activation
now or at a time, confirmation, cancelling and the wait that ends with SLOT_BUSY. The choices in it: log rows 48, 55 and 56.
-/
def Obligations.UpdateCommandsComplete : Prop :=
  ∀ (s : State) (id : Nat) (j : Job) (inp : Bytes),
    let e := j.entry
    let u := s.upd
    (s.runsJob id j .updateBegin inp → s.lockHeld = false →
      ∃ t, exec (.updateBegin id inp) s = .next t
        ∧ (s.beginFault j.fn inp = none →
            t.upd.holder = .host ∧ t.upd.holderId = j.ctlNumber ∧ t.upd.component = imgComponent inp ∧ t.upd.header = inp
            ∧ (s.highHeld = false → t.upd.stage = .downloading ∧ t.store.lent = true ∧ t.endedWith id st.ok 0 [])
            ∧ (s.highHeld = true → t.upd.stage = u.stage ∧ t.store.taking = .job id
                ∧ (t.job? id).map Job.phase = some .barrier))
        ∧ (∀ c r, s.beginFault j.fn inp = some (c, r) → t.upd = u ∧ t.endedWith id c r []))
    ∧ (s.runsJob id j .updateBlock inp → u.stage = .downloading →
      ∃ t, exec (.updateBlock id inp) s = .next t
        ∧ (∀ v, s.stageBlock (e.p 0 4) inp = some v →
            t.upd = v.upd ∧ t.endedWith id st.ok (BitVec.ofNat 64 v.upd.received) [])
        ∧ (s.stageBlock (e.p 0 4) inp = none → t.upd = u ∧ t.endedWith id st.paramRejected 7 []))
    ∧ (∀ back : Bool, s.runsJob id j .updateVerify [] →
      ∃ t, exec (.updateVerify id back) s = .next t
        ∧ (u.stage = .downloading → t.upd = { u with stage := .verifying } ∧ (t.job? id).map Job.phase = some .yielded)
        ∧ (u.stage = .verifying →
            let v := s.verifyImage back
            t.endedWith id v.1 v.2.1 [] ∧ t.upd.stage = if v.1 = st.ok then .verified else .downloading))
    ∧ (s.runsJob id j .updateActivate [] → u.actJob = none →
      ∃ t, exec (.updateActivate id) s = .next t
        ∧ (e.p 0 8 = 0 → u.stage = .verified ∨ u.stage = .scheduled → s.canActivate = true →
            t.upd = { u with actJob := some id, waitFrom := some (u.waitFrom.getD s.now) }
            ∧ (t.job? id).map Job.phase = some .barrier)
        ∧ (e.p 0 8 ≠ 0 → u.stage = .verified → s.boot.timeValid = true →
            t.upd = { u with stage := .scheduled, activeAt := e.p 0 8, atPps := e.flag 2 } ∧ t.endedWith id st.ok 0 []))
    ∧ (s.runsJob id j .updateConfirm [] → u.stage = .unconfirmed → u.selftestOk = true →
      ∃ t, exec (.updateConfirm id) s = .next t ∧ t.upd.stage = .confirming ∧ t.upd.confJob = some id
        ∧ (t.job? id).map Job.phase = some .barrier)
    ∧ (s.runsJob id j .updateCancel [] → s.updateOpen = true →
      ∃ t, exec (.updateCancel id) s = .next t ∧ t.endedWith id st.ok 0 [] ∧ t.upd.stage = .idle ∧ t.upd.holder = .none
        ∧ t.upd.image = [] ∧ t.store.lent = false)
    ∧ (s.job? id = some j → s.store.taking = .job id →
      ∃ t, exec (.highHalfWaitTimeout id) s = .next t ∧ t.upd.stage = .idle ∧ t.upd.holder = .none
        ∧ t.store.taking = .nobody ∧ ∃ n, t.endedWith id st.slotBusy n [])

/-- The events of an update complete (R507, R515 to R522): the lock's ten minutes, the time and the edge of a schedule, the
start of an activation, its drain and its copy, the swaps, the self-test, the deadline, the confirmation, a restore. The
choices in it: log rows 22, 57 and 76. -/
def Obligations.ActivationCompletes : Prop :=
  ∀ (s : State),
    let u := s.upd
    (u.stage = .downloading ∨ u.stage = .verified → u.waitFrom = none →
      ∃ t, exec .updateLockExpired s = .next t ∧ t.upd.stage = .idle ∧ t.upd.holder = .none ∧ t.store.lent = false)
    ∧ (u.stage = .scheduled →
      (u.atPps = false → secs u.activeAt ≤ s.platformTime →
        ∃ t, exec .activationTimeReached s = .next t ∧ t.upd = { u with waitFrom := some (u.waitFrom.getD s.now) })
      ∧ (u.atPps = true → u.waitFrom = none → secs (u.activeAt + 1) ≤ s.platformTime →
        ∃ t, exec .alignLost s = .next t ∧ t.upd = { u with waitFrom := some s.now })
      ∧ (u.waitFrom.isSome = true → s.canActivate = false →
        ∃ t, exec .activationDeferred s = .next t
          ∧ t.upd = { u with stage := .verified, waitFrom := none, activeAt := 0, atPps := false, timerFrom := s.now }))
    ∧ (u.waitFrom.isSome = true → u.stage = .verified ∨ u.stage = .scheduled → s.canActivate = true →
      s.store.taking = .nobody →
      ∃ t, exec .activationStart s = .next t ∧ t.upd.stage = .activating ∧ t.upd.actJob = none
        ∧ t.upd.journal = some {
            stage := .activating, component := u.component, digest := Config.sha384 u.staged, svn := imgSvn u.header,
            holdHost := s.holdHost, holder := u.holder, swapped := false, hasArea := u.areaOk })
    ∧ (u.stage = .activating →
      (u.component = 1 → u.drained = false →
        ∃ t, exec .activationDrainExpired s = .next t ∧ t.upd.drained = true ∧ t.boot.loaderServes = true ∧ t.jobs = []
          ∧ t.keys.ctx = [] ∧ t.keys.imported = [])
      ∧ (∀ jn, u.journal = some jn → u.component = 1 → u.drained = true → s.nvFree = true → s.boot.lockdown = false →
        ∃ t, exec .activationCopyDone s = .next t ∧ t.upd.slot = u.staged ∧ t.upd.slotHash = jn.digest
          ∧ t.upd.stage = .unconfirmed ∧ t.boot.stage = .released ∧ t.boot.code = 0x0003)
      ∧ (u.component = 2 → s.nvFree = true → (∀ j, j ∈ s.jobs → j.group = 0x0D → j.ended = true) →
        ∃ t, exec .microcodeSwap s = .next t ∧ t.upd.stage = .unconfirmed ∧ t.upd.microCur = u.staged
          ∧ t.upd.microPrev = u.microCur ∧ t.tables.dxProgs = [] ∧ t.store.lent = false)
      ∧ (u.component = 3 → s.nvFree = true → s.boot.lockdown = false →
        ∃ t, exec .policySwap s = .next t ∧ t.upd.stage = .unconfirmed ∧ t.upd.polCur = u.staged
          ∧ t.upd.polPrev = u.polCur ∧ t.guard.running = true ∧ t.guard.holdPins = 0))
    ∧ (s.fwRunning = true → ∀ passed ok : Bool,
      ok = (if u.stage = .unconfirmed ∧ u.component = 3 then s.guard.policy.isSome else passed && !u.blobNewer) →
      ∃ t, exec (.selftestDone passed) s = .next t ∧ t.upd.selftestOk = ok
        ∧ (u.stage ≠ .unconfirmed → t.upd.stage = u.stage)
        ∧ (u.stage = .unconfirmed → t.upd.stage = if ok = false then .restoring
            else if s.autoConfirm = true ∨ (u.component = 1 ∧ u.areaOk = false) then .confirming else .unconfirmed))
    ∧ (u.stage = .unconfirmed →
      ∃ t, exec .confirmDeadlineExpired s = .next t ∧ t.upd.stage = .restoring ∧ t.upd.slot = u.slot)
    ∧ (∀ jn, u.journal = some jn → u.stage = .confirming → s.power.nvOk = true → s.nvFree = true →
      ∃ t, exec .confirmationRun s = .next t ∧ t.upd.stage = .idle ∧ t.upd.journal = none ∧ t.upd.holder = .none
        ∧ (∀ i, i < jn.svn → t.fuses.word ((bandWords jn.component).1 + i) ≠ 0)
        ∧ ∀ k n, u.confJob = some k → s.job? k = some n → t.endedWith k st.ok 0 [])
    ∧ (u.stage = .restoring → s.fwRunning = true → s.nvFree = true → s.boot.lockdown = false →
      s.store.taking = .nobody →
      ∃ t, exec .restore s = .next t ∧ t.upd.stage = .idle ∧ t.upd.holder = .none ∧ t.upd.journal = none
        ∧ t.upd.restored = true
        ∧ (u.component = 1 → t.boot.stage = .released)
        ∧ (u.component = 2 → t.tables.dxProgs = [] ∧
            t.upd.microCur = if (u.journal.map UpdJournal.swapped).getD false then u.microPrev else u.microCur))

/-- Commands on contexts complete (R263, R268 to R273, R279, R284): a record at a FREE index, the query, revocation and its
barrier, the sweep, a scope, and the state of a stateful key. The choices in it: log rows 28, 29 and 30. -/
def Obligations.ContextsComplete : Prop :=
  ∀ (s : State) (id : Nat) (j : Job),
    let e := j.entry
    let x := handleIndex e.ctx
    let c := s.keys.record x
    (∀ i, s.runsJob id j .ctxCreate [] → j.childRefused = false → j.childStray = false →
      (if e.p 0 4 = 0 then s.lowestFree else some (e.p 0 4)) = some i → (s.keys.record i).state = .free →
      ∃ t, exec (.ctxCreate id) s = .next t ∧ t.keys.record i = s.newRecord j i
        ∧ t.endedWith id st.ok (BitVec.ofNat 64 (mkHandle i (s.keys.record i).gen).toNat) []
        ∧ ∀ k, k ≠ i → t.keys.record k = s.keys.record k)
    ∧ (s.runsJob id j .ctxQuery [] →
      ∃ t, exec (.ctxQuery id) s = .next t ∧ t.keys = s.keys
        ∧ t.endedWith id st.ok 0 ((if x ≤ 4 then zeros 16 else leBytes 16 c.bits) ++ leBytes 1 (chainDepth j.chain) ++ zeros 3
            ++ leBytes 4 (s.keys.flights x) ++ leBytes 2 (s.chainCheck e.ctx j.fn).1.toNat ++ zeros 6))
    ∧ (s.runsJob id j .invalidate [] → s.nvFree = true → (s.chainCheck e.ctx j.fn).1 = st.ok →
      s.keeper.revJournal.length < 4096 →
      ∃ t, exec (.invalidate id) s = .next t
        ∧ t.keys.record x = { c with gen := c.gen + 1, state := if 4095 ≤ c.gen + 1 then .exhausted else .dead }
        ∧ t.keeper.revJournal = s.keeper.revJournal ++ [(x, c.gen + 1)] ∧ (∀ g, g ∈ t.keys.cache → g.1 ≠ x)
        ∧ (s.keys.flights x = 0 → t.endedWith id st.ok
            (BitVec.ofNat 64 ((c.gen + 1) % 4096 + if 4095 ≤ c.gen + 1 then 4096 else 0)) [])
        ∧ (s.keys.flights x ≠ 0 → (t.job? id).map Job.phase = some .barrier))
    ∧ (∀ n, s.job? id = some j → j.phase = .barrier → j.ending = some n → s.keys.flights x = 0 →
      ∃ t, exec (.invalidateBarrier id) s = .next t
        ∧ t.endedWith id n.status n.result (if n.status = st.ok then n.out else []))
    ∧ (s.runsJob id j .sweep [] → s.nvFree = true →
      let named := (s.keys.ctx.map Prod.fst).filter fun i => decide (e.p 0 4 ≤ i ∧ i < e.p 0 4 + e.p 4 4)
      ∃ t, exec (.sweep id) s = .next t
        ∧ t.endedWith id st.ok
            (BitVec.ofNat 64 ((named.filter s.sweepable).length + 2 ^ 32 * (named.filter s.resolves).length)) []
        ∧ ∀ i, if e.p 0 4 ≤ i ∧ i < e.p 0 4 + e.p 4 4 ∧ s.sweepable i = true
            then (t.keys.record i).state = .free ∧ (t.keys.record i).gen = (s.keys.record i).gen
            else t.keys.record i = s.keys.record i)
    ∧ (s.runsJob id j .scopeSet [] →
      ∃ t, exec (.scopeSet id) s = .next t ∧ t.endedWith id st.ok 0 []
        ∧ (e.ctx ≠ 0 → t.keys.scopes.lookup (e.p 0 1) = some (x, if x ≤ 4 then s.aliasGen x else j.crec.gen))
        ∧ (e.ctx = 0 → t.keys.scopes.lookup (e.p 0 1) = none))
    ∧ (s.runsJob id j .statefulQuery [] →
      ∃ t, exec (.statefulQuery id) s = .next t ∧ t.keeper = s.keeper
        ∧ (∀ r, s.jobRec j = some r → t.endedWith id st.ok 0 (leBytes 8 r.next ++ leBytes 8 r.reservedEnd
            ++ leBytes 8 r.indexLimit ++ leBytes 1 r.status.num ++ leBytes 2 r.sepoch ++ zeros 5))
        ∧ (s.jobRec j = none →
            t.endedWith id st.ok 0 (zeros 24 ++ leBytes 1 0xFF ++ leBytes 2 s.keeper.sepoch ++ zeros 5)))

/-- The context image and key blobs complete (R274 to R278): an image stamped with the next counter, its commit, the load of
the committed or the pending image, a wrapped secret and an exported key. The choices in it: log rows 4, 5, 31 and 32. -/
def Obligations.ImagesAndBlobsComplete : Prop :=
  ∀ (s : State) (id : Nat) (j : Job) (inp : Bytes),
    let e := j.entry
    (s.runsJob id j .imageSave [] → s.nvFree = true → s.passes j .imageSave → e.p 0 1 = 0 → s.imageRootOk = true →
      let c := s.keeper.imageCtr + 1
      let iv := s.freeNow 12
      let h := s.imageHeader c iv
      let body := s.imageBody
      ∃ t, exec (.contextImageSave id) s = .next t
        ∧ t.endedWith id st.ok (BitVec.ofNat 64 c)
            (h ++ gcmCrypt s.imgKey iv body ++ gcmTag s.imgKey iv h (gcmCrypt s.imgKey iv body))
        ∧ t.keeper = { s.keeper with imgPending := some (c, s.keeper.revJournal.length) } ∧ t.keys = s.keys)
    ∧ (∀ c n, s.runsJob id j .imageSave [] → s.nvFree = true → e.p 0 1 = 1 → s.keeper.imgPending = some (c, n) →
      ∃ t, exec (.contextImageCommit id) s = .next t ∧ t.endedWith id st.ok 0 [] ∧ t.keeper.imageCtr = c
        ∧ t.keeper.imgPending = none ∧ t.keeper.revJournal = s.keeper.revJournal.drop n
        ∧ (∀ r, r ∈ s.keeper.slog → r.status ≠ .releasePending → r ∈ t.keeper.slog)
        ∧ (s.keeper.sepoch ≠ 65535 → ∀ r, r ∈ t.keeper.slog → r.status ≠ .releasePending))
    ∧ (let h := inp.take 64
       s.runsJob id j .imageLoad inp → s.nvFree = true → s.passes j .imageLoad → s.imageRootOk = true →
       s.keys.vacant = true → fieldAt h 0 4 = 0x58544350 → fieldAt h 4 2 = 1 → zeroAt h 44 20 = true →
       fieldAt h 8 8 = s.deviceId → fieldAt h 6 1 = s.fuses.lc.num → fieldAt h 7 1 = s.fuses.epoch →
       fieldAt h 24 4 = s.ctxCount →
      let c := fieldAt h 16 8
      let n := inp.length - 80
      let ct := slice inp 64 n
      let iv := slice h 32 12
      let good := gcmOk s.imgKey iv h ct (inp.drop (64 + n))
      (c = s.keeper.imageCtr → (∀ p, s.keeper.imgPending = some p → p.1 ≠ c) →
        ∃ t, exec (.contextImageLoad id inp) s = .next t
          ∧ (good = true → t.endedWith id st.ok 0 [] ∧ t.keeper = s.keeper
              ∧ t.keys = (s.installImage (gcmCrypt s.imgKey iv ct) s.keeper.revJournal).keys)
          ∧ (good = false → t.endedWith id st.tagFail (j.plainResult st.tagFail) [] ∧ t.keys = s.keys ∧ t.keeper = s.keeper))
      ∧ (∀ k, s.keeper.imgPending = some (c, k) →
        ∃ t, exec (.contextImageLoad id inp) s = .next t
          ∧ (good = true → t.endedWith id st.ok 0 [] ∧ t.keeper = s.keeper.commitImage
              ∧ t.keys = (s.installImage (gcmCrypt s.imgKey iv ct) (s.keeper.revJournal.drop k)).keys)
          ∧ (good = false → t.endedWith id st.tagFail (j.plainResult st.tagFail) [] ∧ t.keys = s.keys ∧ t.keeper = s.keeper)))
    ∧ (s.runsJob id j .externalWrap inp → s.passes j .externalWrap →
      ∃ t, exec (.externalWrap id inp) s = .next t
        ∧ t.endedWith id st.ok 0 (makeBlob j.key (j.crec.blobHeader 1 (e.p 0 4)) inp))
    ∧ (s.runsJob id j .keyExport [] → s.passes j .keyExport →
      ∃ t, exec (.keyExport id) s = .next t
        ∧ t.endedWith id st.ok 0 (makeBlob j.key2 (j.crec.blobHeader 2 32) j.key))

/-- Migration completes (R287 to R295): a statement over the caller's nonce, the export's nonce, a blob for the statement's
target with the subtree's stateful keys retired, and the import of a blob that verifies. The choices in it: log rows 2, 4, 5,
33, 34 and 97. -/
def Obligations.MigrationCompletes : Prop :=
  ∀ (s : State) (id : Nat) (j : Job) (inp : Bytes), s.nvFree = true →
    let e := j.entry
    let i := handleIndex e.ctx
    (s.runsJob id j .migrateStatement inp → s.passes j .migrateStatement →
      let m := s.mksBody inp
      ∃ t, exec (.migrateStatement id inp) s = .next t ∧ t.keeper = { s.keeper with stmtNonce := some inp, importDone := false }
        ∧ t.endedWith id st.ok 0 (s.idc ++ m ++ s.idkSign "PETHAL-MKS1" m (s.freeNow 32)))
    ∧ (s.runsJob id j .migrateExport [] → s.passes j .migrateExport → e.p 0 1 = 0 →
      (s.keeper.exportRec = none ∨ e.p 1 1 / 2 % 2 = 1) →
      ∃ t, exec (.migrateExportNonce id) s = .next t ∧ t.endedWith id st.ok 0 (s.freeNow 32)
        ∧ t.keeper = { s.keeper with exportNonce := some (s.freeNow 32), exportRec := none })
    ∧ (s.runsJob id j .migrateExport inp → s.passes j .migrateExport → e.p 0 1 = 1 → migForm inp = true →
      migSigs inp = true → s.migParams inp = true → j.crec.allows 16 = true →
      let l := s.migSubtree 8 [i]
      let keys := s.migRecords (mksOf inp) l
      (∀ r, r ∈ keys → s.keys.flights r.index = 0) →
      ∃ t, exec (.migrateExport id inp) s = .next t
        ∧ t.keeper.exportRec.map ExportRec.mksDigest = some (Config.sha384 (mksOf inp)) ∧ t.keeper.exportNonce = none
        ∧ (∀ r, r ∈ t.keeper.slog → r.num ∈ keys.map SlogRec.num → r.status = .retired)
        ∧ (e.p 1 1 % 2 = 0 → t.keys = s.keys ∧ t.endedWith id st.ok (BitVec.ofNat 64 (l.length + 2 ^ 32 * keys.length))
            (s.migBlob inp (s.freeNow 32) (s.migPayload j l keys) l.length keys.length))
        ∧ (e.p 1 1 % 2 = 1 → s.keeper.revJournal.length < 4096 →
            (t.keys.record i).gen = (s.keys.record i).gen + 1 ∧ (t.keys.record i).state ≠ .live
            ∧ t.keeper.revJournal = s.keeper.revJournal ++ [(i, (s.keys.record i).gen + 1)]))
    ∧ (let h := inp.take 1632
       let n := fieldAt h 56 4
       let k := fieldAt h 60 4
       let nonce := slice h 24 32
       s.runsJob id j .migrateImport inp → s.passes j .migrateImport → inp.length = migLen n k → fieldAt h 0 4 = 0x47494D50 →
       fieldAt h 4 2 = 1 → zeroAt h 6 2 = true → fieldAt h 16 8 = s.deviceId → s.keeper.stmtNonce = some nonce →
       let ss := kemDecaps 3 s.migDk (slice h 64 1568)
       let kek := Config.kmac256 ss h 32 (Config.ascii "PETHAL-MIG1")
       let w := inp.drop 1632
       ∃ t, exec (.migrateImport id inp) s = .next t
         ∧ (kwpUnwrap kek w = none →
             t.endedWith id st.tagFail (j.plainResult st.tagFail) [] ∧ t.keys = s.keys)
         ∧ (∀ b entry, kwpUnwrap kek w = some b →
             let p := MigPayload.parse b n k
             s.misplaced p = none → s.entryFor (e.p 0 2) = some entry →
             (p.keys.filter fun m => (s.keeper.sameKey m.keyId).isNone).length
               ≤ 8192 - (s.keeper.slog.length + s.keeper.badLogRecs.length) →
             (∀ m r, m ∈ p.keys → s.keeper.sameKey m.keyId = some r → r.nonce = nonce) →
             t.endedWith id st.ok (BitVec.ofNat 64 (mkHandle p.root.1 p.root.2.gen).toNat) [] ∧ t.keeper.importDone = true
             ∧ t.keys.imported.get [] entry = p.secret
             ∧ ((∀ x, x ∈ p.recs → x.1 ≠ p.root.1) → t.keys.record p.root.1 =
                 { p.root.2 with label := BitVec.ofNat 48 (p.rootId * 65536 + entry) })))

/-- The entropy unit completes (R436 to R440, R443, R446, R447, R450, R451): within the cap RANDOM delivers fresh bytes in
requests of at most 4,096, ending once OUT_LEN are there; NOISE_READ gives raw samples; a new measuring step gives the cap
back; a block is released to the pool, a test fails, a retest passes. The choices in it: log rows 5, 46, 47 and 84. -/
def Obligations.EntropyCompletes : Prop :=
  ∀ (s : State) (id : Nat) (j : Job) (inp : Bytes),
    (s.runsJob id j .random inp → s.gate { j with seeded := false } true = .go → j.written.length < j.entry.outLen.toNat →
      let n := min 4096 (j.entry.outLen.toNat - j.written.length)
      s.tables.capUsed + n ≤ randomCap →
      ∃ t, exec (.random id inp) s = .next t
        ∧ (j.written.length + n = j.entry.outLen.toNat → t.endedWith id st.ok (BitVec.ofNat 64 j.inst) (j.written ++ s.freeNow n)
            ∧ t.tables.capUsed = s.tables.capUsed + n ∧ t.freeCtr = s.freeCtr + 1)
        ∧ (j.written.length + n < j.entry.outLen.toNat → ∃ k, t.job? id = some k
            ∧ k.written.take (j.written.length + n) = j.written ++ s.freeNow n))
    ∧ (s.runsJob id j .noiseRead [] →
      ∃ t, exec (.noiseRead id) s = .next t ∧ t.endedWith id st.ok 0 (s.freeNow j.entry.outLen.toNat)
        ∧ t.freeCtr = s.freeCtr + 1 ∧ t.ent = s.ent)
    ∧ (∃ t, exec .randomCapStep s = .next t ∧ t.tables.capUsed = 0 ∧ t.jobs = s.jobs)
    ∧ (s.ent.running = true → 0 < s.ent.healthy →
      ∃ t, exec .blockRelease s = .next t ∧ t.ent = { s.ent with pool := min 1024 (s.ent.pool + 1) })
    ∧ (∀ osc test partner, s.ent.running = true → test ≠ .kat → s.ent.pairs.getD (osc / 2) .retired = .healthy →
      ∃ t, exec (.pairFailure osc test partner) s = .next t ∧ t.ent.lastTest = HealthTest.num test ∧ t.ent.lastOsc = osc
        ∧ t.ent.evt.getLsbD (HealthTest.num test) = true
        ∧ (t.ent.pairs.getD (osc / 2) .dropped = .retest ∨ t.ent.pairs.getD (osc / 2) .dropped = .retired)
        ∧ (s.ent.sampled = true → t.ent.healthy < 8 → t.ent.state ≠ .ready))
    ∧ ∀ p, s.ent.pairs.getD p .retired = .retest →
      ∃ t, exec (.retestPass p) s = .next t ∧ t.ent.pairs = s.ent.pairs.set p .healthy
        ∧ (s.ent.state = .failed → 8 ≤ t.ent.healthy → t.ent.state = .starting ∧ t.ent.pool = 0)
        ∧ (s.ent.state ≠ .failed → t.ent.state = s.ent.state)

/-- Sensors and fault events complete (R57, R79, R482 to R495): the major conditions, minor ones and their repetition, words
and hash cores, the end of a response, a pending root disable, a handled tamper record and the log buffer. The choices in it:
log rows 75, 76 and 86. -/
def Obligations.TamperAndFaultsComplete : Prop :=
  ∀ (s : State),
    (∀ (nets : BitVec 4) n, s.power.vinValid = true → s.boot.serviceReady = true →
      (s.fuses.lc.meshed = true →
        ∃ t, exec (.lidMesh nets) s = .next t ∧ t.flt.active = true ∧ t.flt.majorCount = satInc s.flt.majorCount
          ∧ t.keys.ctx = [] ∧ t.keys.imported = [] ∧ t.dru.owner = .none ∧ t.flt.evt.getLsbD 3 = true)
      ∧ (n < 4 → s.tamperPolicy.getLsbD (4 + n) = true →
        ∃ t, exec (.loopMismatch n) s = .next t ∧ t.flt.active = true ∧ t.flt.majorCount = satInc s.flt.majorCount
          ∧ t.keys.ctx = [] ∧ t.keys.imported = [] ∧ t.dru.owner = .none)
      ∧ (s.fwRunning = true →
        ∃ t, exec .lockstep s = .next t ∧ t.flt.active = true ∧ t.flt.evt.getLsbD 4 = true ∧ t.keys.ctx = []))
    ∧ (s.fwRunning = false → s.cdRunning = true →
      ∃ t, exec .lockstep s = .next t ∧ t.boot.stage = .held ∧ t.boot.code = 0x8007)
    ∧ (s.power.vinValid = true →
      ((s.recent 0 0).length + 1 < classThreshold 0 →
        ∃ t, exec .voltageMinor s = .next t ∧ t.flt.sensors.contains 0x81 = true
          ∧ t.flt.history.head? = some { cls := 0, obj := 0, tick := s.now } ∧ t.keys = s.keys)
      ∧ ((s.recent 1 0).length + 1 < classThreshold 1 →
        ∃ t, exec .clockMinor s = .next t ∧ t.flt.sensors.contains 0x82 = true
          ∧ t.flt.history.head? = some { cls := 1, obj := 0, tick := s.now } ∧ t.keys = s.keys)
      ∧ (∀ code : BitVec 8, s.excursion code.toNat = true → s.cdRunning = true → (s.recent 2 0).length + 1 < classThreshold 2 →
        ∃ t, exec (.tempMinor code) s = .next t ∧ t.flt.sensors.contains 0x83 = true ∧ t.jobs = s.jobs
          ∧ t.flt.history.head? = some { cls := 2, obj := 0, tick := s.now } ∧ t.keys = s.keys)
      ∧ ∀ c, c < 3 → s.flt.sensors.contains (0x81 + c) = true → s.watched c = true →
        (s.recent c 0).length + 1 < classThreshold c →
        ∃ t, exec (.minorPersist c) s = .next t ∧ t.flt.sensors = s.flt.sensors
          ∧ t.flt.history.head? = some { cls := c, obj := 0, tick := s.now })
    ∧ (s.cdRunning = true →
      (∀ w : SramWord, (s.recent 4 (SramWord.num w)).length + 1 < classThreshold 4 →
        ∃ t, exec (.sramCorrected w) s = .next t ∧ t.flt.evt.getLsbD 5 = true ∧ t.flt.spares = s.flt.spares
          ∧ t.flt.history.head? = some { cls := 4, obj := (SramWord.num w), tick := s.now })
      ∧ (∀ w : SramWord, s.flt.spares.get 0 w.bank < 64 →
        ∃ t, exec (.sramUncorrectable w) s = .next t ∧ t.flt.retired = s.flt.retired + 1
          ∧ t.flt.spares.get 0 w.bank = s.flt.spares.get 0 w.bank + 1
          ∧ (∀ n, w.store = .context n →
              (t.keys.record (2 * n)).state = .exhausted ∧ (t.keys.record (2 * n + 1)).state = .exhausted)
          ∧ ∀ n, w.store = .operand n → (t.store.slot n).tag = .empty ∧ (t.store.slot n).content = [])
      ∧ ∀ core, core < 16 * s.groups → s.flt.cores.contains core = false →
        (∃ t, exec (.coreMismatch core) s = .next t
          ∧ ((s.recent 6 core).length + 1 < classThreshold 6 → t.flt.cores = s.flt.cores)
          ∧ (classThreshold 6 ≤ (s.recent 6 core).length + 1 → t.flt.cores = core :: s.flt.cores))
        ∧ (s.unitBusy .hash (core / 16) = false →
          ∃ t, exec (.coreKat [core]) s = .next t
            ∧ ((s.recent 6 core).length + 1 < classThreshold 6 → t.flt.cores = s.flt.cores)
            ∧ (classThreshold 6 ≤ (s.recent 6 core).length + 1 → t.flt.cores = core :: s.flt.cores)))
    ∧ (∃ t, exec .tamperClear s = .next t ∧ t.flt = { s.flt with sensors := [], active := false })
    ∧ (∀ e, s.flt.rootPending = some e → s.fwRunning = true → s.power.nvOk = true → s.nvFree = true →
      ∃ t, exec .rootDisablePending s = .next t ∧ t.flt.rootPending = none
        ∧ ∀ w, w ∈ copies (338 + e) → (t.fuses.shadowOf w).data = rootDisableData)
    ∧ (s.boot.stage = .held → s.boot.code = 0x8002 → s.flt.sensors = [] → s.power.vinValid = true →
      s.power.pwrfailHigh = true → s.mayRelease = true →
      ∃ t, exec .tamperRecordHandled s = .next t ∧ t.boot.stage = .released ∧ t.boot.code = 0x0003)
    ∧ (s.nvFree = true →
      ∃ t, exec .logBufferFlush s = .next t ∧ t.logs.buffered = [] ∧ t.logs.dropped = 0)

/-- The frame of the rows that run a command of a queue or a link: a component outside the row's list is as before. The
choices in it: log rows 7 and 8. -/
def Obligations.FrameOfJobRows : Prop :=
  ∀ (i : Instr) (j : Nat) (l : List Field) (s t : State), jobTouches i = some (j, l) → exec i s = .next t → s.changesOnly t l

/-- The frame of the rows that come over the PCIe link, the flash buses, the management links and the TAP. The choices in it:
log rows 7 and 8. -/
def Obligations.FrameOfBusRows : Prop :=
  ∀ (i : Instr) (l : List Field) (s t : State), busTouches i = some l → exec i s = .next t → s.changesOnly t l

/-- The frame of the events. The choices in it: log rows 7 and 8. -/
def Obligations.FrameOfEvents : Prop :=
  ∀ (i : Instr) (l : List Field) (s t : State), eventTouches i = some l → exec i s = .next t → s.changesOnly t l

/-- A finer frame: a job row that orders no other job to stop leaves every other job as it was, but for one that waited for a
leaf of the signer that ends (R348), and of the operand store only SLOT_A of its own job may change, unless the row is
OPSTORE_CONFIG or SLOT_GRANT or spoils the key stores. The choices in it: log rows 7 and 21. -/
def Obligations.OtherJobsAndSlotsKept : Prop :=
  ∀ (i : Instr) (j : Nat) (l : List Field) (s t : State), jobTouches i = some (j, l) → exec i s = .next t →
    .queues ∉ l → .upd ∉ l → .out ∉ l →
    (∀ k, k ≠ j → t.job? k = s.job? k
        ∨ ∃ x, s.job? k = some x ∧ x.phase = .waitLeaf ∧ t.job? k = some x.wake ∧ (t.job? j).map Job.ended = some true)
    ∧ ((∀ b, i ≠ .opstoreConfig j b) → i ≠ .slotGrant j → (∀ b, i ≠ .debugCert j b) → (∀ b, i ≠ .ownerTransfer j b) →
        ∀ x, s.job? j = some x → ∀ n, n ≠ x.entry.slotA.toNat → t.store.slot n = s.store.slot n)

/-- R306: RESULT of a group 0x01 job that ends with OK is the PSET byte, with nothing above it. -/
def Obligations.LatticeResultHoldsPset : Prop :=
  ∀ (s t : State) (id : Nat) (j : Job) (inp : Bytes) (i : Instr) (op : Op) (r : BitVec 64) (out : Bytes),
    (i, op) ∈ [(.mlkemKeygen id, .mlkemKeygen), (.mlkemEncaps id inp, .mlkemEncaps), (.mlkemDecaps id inp, .mlkemDecaps),
      (.mlkemEncapsInternal id inp, .mlkemEncapsInternal), (.mlkemKeygenInternal id inp, .mlkemKeygenInternal)] →
    s.runsJob id j op inp → exec i s = .next t → t.endedWith id st.ok r out → r.toNat = j.entry.p 0 1

/-- R423 and R426: DRU_DATA outside an active digest, a message past its limit, and reads before and after DONE; a read by a host that does not own the unit, which answers zeros (R420). -/
def Obligations.DigestUnitRefusals : Prop :=
  ∀ (s : State) (word : BitVec 64) (index : Option Nat) (part : ReadPart) (now : Bool), s.barUp 0 = true →
    s.fwRunning = true →
    (s.dru.owner = .host → s.dru.active = false ∨ s.dru.finishing = true →
      ∃ t, exec (.druDataWrite 8 word .host) s = .next t ∧ t.dru = { s.dru with err := s.dru.err ||| 2 })
    ∧ (s.dru.owner = .host → s.dru.active = true → s.dru.finishing = false →
      (2 ^ 61 - 1 < s.dru.bytes + 8 →
        ∃ t, exec (.druDataWrite 8 word .host) s = .next t ∧ t.dru.active = false ∧ t.dru.done = s.dru.done
          ∧ t.dru.err = s.dru.err ||| 0x100 ∧ t.dru.msg = s.dru.msg)
      ∧ (s.dru.lastCnt ≠ 0xF → 2 ^ 61 - 1 < s.dru.bytes + s.dru.lastCnt.toNat →
        ∃ t, exec (.druLastWrite 8 word .host) s = .next t ∧ t.dru.active = false ∧ t.dru.done = s.dru.done
          ∧ t.dru.finishing = false ∧ t.dru.err = s.dru.err ||| 0x100))
    ∧ (s.dru.done = false ∨ now = true →
      ∃ t, exec (.druResultRead index now part) s = .next t ∧ t.out = .regData 0 :: s.out ∧ t.dru = { s.dru with err := s.dru.err ||| 1 })
    ∧ (s.dru.done = true → now = false →
      ∃ t, exec (.druResultRead index now part) s = .next t ∧ t.dru = s.dru
        ∧ t.out = .regData (if s.dru.owner ≠ .host then 0 else ReadPart.of part (match index with
            | some n => BitVec.ofNat 64 (leNat (slice s.dru.result (8 * n) 8))
            | none => s.dru.cmp.zeroExtend 64)) :: s.out)

/-- R456: the value of an SVN band, and the data a step word is programmed with. -/
def Obligations.SvnBandValue : Prop :=
  ∀ (s : State) (c : Nat),
    let b := bandWords c
    (s.svnBand c ≤ b.2)
    ∧ (s.svnBand c = 0 ↔ ∀ i, i < b.2 → s.fuses.word (b.1 + i) = 0)
    ∧ (∀ n, s.svnBand c = n + 1 → s.fuses.word (b.1 + n) ≠ 0)
    ∧ (∀ i, s.svnBand c ≤ i → i < b.2 → s.fuses.word (b.1 + i) = 0)
    ∧ (∀ jn, s.upd.journal = some jn → jn.component = c → s.upd.stage = .confirming → s.power.nvOk = true → s.nvFree = true →
      ∃ t, exec .confirmationRun s = .next t
        ∧ ∀ i, i < jn.svn → s.fuses.word (b.1 + i) = 0 → (t.fuses.shadowOf (b.1 + i)).data = 0xFFFFFFFF)

/-- R131: PLT_ALERT_N. -/
def Obligations.PlatformAlertLevel : Prop :=
  ∀ (s : State), s.pltAlertLow = true ↔
    (∃ d, d ∈ s.guard.domains ∧ (d.state = .failedHeld ∨ d.recovered = true)) ∨ s.guard.evt.getLsbD 0 = true

/-- R293: step 0 of MIGRATE_EXPORT, and its refusal while an export record exists. -/
def Obligations.MigrateExportStepZero : Prop :=
  ∀ (s : State) (id : Nat) (j : Job), s.runsJob id j .migrateExport [] → s.passes j .migrateExport → s.nvFree = true →
    j.entry.p 0 1 = 0 →
    ∃ t, exec (.migrateExportNonce id) s = .next t
      ∧ (s.keeper.exportRec = none ∨ j.entry.p 1 1 / 2 % 2 = 1 → t.endedWith id st.ok 0 (s.freeNow 32) ∧ (s.freeNow 32).length = 32)
      ∧ (s.keeper.exportRec ≠ none → j.entry.p 1 1 / 2 % 2 = 0 →
          ∃ r, t.endedWith id st.stateRefused r [] ∧ t.keeper = s.keeper)

/-- No command stops the block, and none touches the queue of commands that wait. The choices in it: log rows 7 and 15. -/
def Obligations.CommandsRunAndKeepTheQueue : Prop :=
  ∀ (i : Instr) (s : State), ∃ t, exec i s = .next t ∧ t.pending = s.pending

/-- A fuse bit is only ever set (R453, R457): no step clears a raw bit of any fuse word. The choices in it: log row 14. -/
def Obligations.FusesAreOneTimeProgrammable : Prop :=
  ∀ (s t : State), step s = .next t → ∀ (w b : Nat), (s.fuses.word w).getLsbD b = true → (t.fuses.word w).getLsbD b = true

/-- Every step keeps the sparse stores in their one canonical form. The choices in it: log row 6. -/
def Obligations.StoresStayCanonical : Prop :=
  ∀ (s t : State), s.canonical = true → step s = .next t → t.canonical = true

/-- The machine after reset: its stores are canonical, and registers hold the reset values of their tables (PWR_LIMIT,
DEV_THERM, SIEVE_DOMd, SIEVE_EVT, DRU_LASTCNT, DRU_STATUS, ENT_EVT, FLT_EVT, Q_STATUS). The choices in it: log row 2. -/
def Obligations.ResetState : Prop :=
  let s := State.reset
  s.canonical = true ∧ s.pending = [] ∧ s.power.tierFloor = 0 ∧ s.power.pfHold = false ∧ s.power.nvOk = false
    ∧ s.thermal.tjPeak = 0 ∧ s.thermal.thermStop = false ∧ s.thermal.throttleEvt = false ∧ s.thermal.thermTier = 1
    ∧ s.guard.evt = 0 ∧ s.guard.holdPins = 0
    ∧ (∀ d, d < 8 → (s.dom d).failRegion = 0xFF ∧ (s.dom d).failCode = 0 ∧ (s.dom d).recovered = false ∧ (s.dom d).mfSvn = 0)
    ∧ s.dru.lastCnt = 0xF ∧ s.dru.owner = .none ∧ s.dru.active = false ∧ s.dru.err = 0 ∧ s.ent.evt = 0 ∧ s.flt.evt = 0
    ∧ ∀ r, (s.queue r).state = .absent

/-- A hold domain is released by DOMAIN_RELEASE alone, when every condition of R88 holds (R91): no other step takes a domain
to RELEASED or lets its PLT_HOLD_N ball rise. The choices in it: log row 63. -/
def Obligations.HoldsLiftOnlyByRelease : Prop :=
  ∀ (s t : State) (d : Nat), step s = .next t →
    ((t.dom d).state = .released → (s.dom d).state ≠ .released →
      ∃ l, s.pending = .domainRelease d :: l ∧ s.releasable d = true ∧ (s.dom d).state.checking = true)
    ∧ (t.guard.holdPins.getLsbD d = true → s.guard.holdPins.getLsbD d = false →
      (∃ l, s.pending = .domainRelease d :: l) ∧ s.releasable d = true ∧ (t.dom d).state = .released)
end

