-- ==== Sys2Proof/Laws/State.lean ====
section
/-!
SUPPORT. Laws/State.lean: what each small update of the state leaves of every field: one lemma for each field and
update, true by definition, so that no later proof unfolds a record update.
-/
namespace Sys2Proof.Machine
open Sys2Proof

@[simp] theorem State.mapPower_power (s : State) (f : Power → Power) : (s.mapPower f).power = f s.power := rfl
@[simp] theorem State.mapPower_thermal (s : State) (f : Power → Power) : (s.mapPower f).thermal = s.thermal := rfl
@[simp] theorem State.mapPower_boot (s : State) (f : Power → Power) : (s.mapPower f).boot = s.boot := rfl
@[simp] theorem State.mapPower_keeper (s : State) (f : Power → Power) : (s.mapPower f).keeper = s.keeper := rfl
@[simp] theorem State.mapPower_logs (s : State) (f : Power → Power) : (s.mapPower f).logs = s.logs := rfl
@[simp] theorem State.mapPower_fuses (s : State) (f : Power → Power) : (s.mapPower f).fuses = s.fuses := rfl
@[simp] theorem State.mapPower_guard (s : State) (f : Power → Power) : (s.mapPower f).guard = s.guard := rfl
@[simp] theorem State.mapPower_fns (s : State) (f : Power → Power) : (s.mapPower f).fns = s.fns := rfl
@[simp] theorem State.mapPower_mgmt (s : State) (f : Power → Power) : (s.mapPower f).mgmt = s.mgmt := rfl
@[simp] theorem State.mapPower_queues (s : State) (f : Power → Power) : (s.mapPower f).queues = s.queues := rfl
@[simp] theorem State.mapPower_jobs (s : State) (f : Power → Power) : (s.mapPower f).jobs = s.jobs := rfl
@[simp] theorem State.mapPower_sched (s : State) (f : Power → Power) : (s.mapPower f).sched = s.sched := rfl
@[simp] theorem State.mapPower_keys (s : State) (f : Power → Power) : (s.mapPower f).keys = s.keys := rfl
@[simp] theorem State.mapPower_store (s : State) (f : Power → Power) : (s.mapPower f).store = s.store := rfl
@[simp] theorem State.mapPower_tables (s : State) (f : Power → Power) : (s.mapPower f).tables = s.tables := rfl
@[simp] theorem State.mapPower_dru (s : State) (f : Power → Power) : (s.mapPower f).dru = s.dru := rfl
@[simp] theorem State.mapPower_ent (s : State) (f : Power → Power) : (s.mapPower f).ent = s.ent := rfl
@[simp] theorem State.mapPower_flt (s : State) (f : Power → Power) : (s.mapPower f).flt = s.flt := rfl
@[simp] theorem State.mapPower_upd (s : State) (f : Power → Power) : (s.mapPower f).upd = s.upd := rfl
@[simp] theorem State.mapPower_nextJob (s : State) (f : Power → Power) : (s.mapPower f).nextJob = s.nextJob := rfl
@[simp] theorem State.mapPower_freeCtr (s : State) (f : Power → Power) : (s.mapPower f).freeCtr = s.freeCtr := rfl
@[simp] theorem State.mapPower_out (s : State) (f : Power → Power) : (s.mapPower f).out = s.out := rfl
@[simp] theorem State.mapPower_pending (s : State) (f : Power → Power) : (s.mapPower f).pending = s.pending := rfl

@[simp] theorem State.mapThermal_power (s : State) (f : Thermal → Thermal) : (s.mapThermal f).power = s.power := rfl
@[simp] theorem State.mapThermal_thermal (s : State) (f : Thermal → Thermal) : (s.mapThermal f).thermal = f s.thermal := rfl
@[simp] theorem State.mapThermal_boot (s : State) (f : Thermal → Thermal) : (s.mapThermal f).boot = s.boot := rfl
@[simp] theorem State.mapThermal_keeper (s : State) (f : Thermal → Thermal) : (s.mapThermal f).keeper = s.keeper := rfl
@[simp] theorem State.mapThermal_logs (s : State) (f : Thermal → Thermal) : (s.mapThermal f).logs = s.logs := rfl
@[simp] theorem State.mapThermal_fuses (s : State) (f : Thermal → Thermal) : (s.mapThermal f).fuses = s.fuses := rfl
@[simp] theorem State.mapThermal_guard (s : State) (f : Thermal → Thermal) : (s.mapThermal f).guard = s.guard := rfl
@[simp] theorem State.mapThermal_fns (s : State) (f : Thermal → Thermal) : (s.mapThermal f).fns = s.fns := rfl
@[simp] theorem State.mapThermal_mgmt (s : State) (f : Thermal → Thermal) : (s.mapThermal f).mgmt = s.mgmt := rfl
@[simp] theorem State.mapThermal_queues (s : State) (f : Thermal → Thermal) : (s.mapThermal f).queues = s.queues := rfl
@[simp] theorem State.mapThermal_jobs (s : State) (f : Thermal → Thermal) : (s.mapThermal f).jobs = s.jobs := rfl
@[simp] theorem State.mapThermal_sched (s : State) (f : Thermal → Thermal) : (s.mapThermal f).sched = s.sched := rfl
@[simp] theorem State.mapThermal_keys (s : State) (f : Thermal → Thermal) : (s.mapThermal f).keys = s.keys := rfl
@[simp] theorem State.mapThermal_store (s : State) (f : Thermal → Thermal) : (s.mapThermal f).store = s.store := rfl
@[simp] theorem State.mapThermal_tables (s : State) (f : Thermal → Thermal) : (s.mapThermal f).tables = s.tables := rfl
@[simp] theorem State.mapThermal_dru (s : State) (f : Thermal → Thermal) : (s.mapThermal f).dru = s.dru := rfl
@[simp] theorem State.mapThermal_ent (s : State) (f : Thermal → Thermal) : (s.mapThermal f).ent = s.ent := rfl
@[simp] theorem State.mapThermal_flt (s : State) (f : Thermal → Thermal) : (s.mapThermal f).flt = s.flt := rfl
@[simp] theorem State.mapThermal_upd (s : State) (f : Thermal → Thermal) : (s.mapThermal f).upd = s.upd := rfl
@[simp] theorem State.mapThermal_nextJob (s : State) (f : Thermal → Thermal) : (s.mapThermal f).nextJob = s.nextJob := rfl
@[simp] theorem State.mapThermal_freeCtr (s : State) (f : Thermal → Thermal) : (s.mapThermal f).freeCtr = s.freeCtr := rfl
@[simp] theorem State.mapThermal_out (s : State) (f : Thermal → Thermal) : (s.mapThermal f).out = s.out := rfl
@[simp] theorem State.mapThermal_pending (s : State) (f : Thermal → Thermal) : (s.mapThermal f).pending = s.pending := rfl

@[simp] theorem State.mapBoot_power (s : State) (f : Boot → Boot) : (s.mapBoot f).power = s.power := rfl
@[simp] theorem State.mapBoot_thermal (s : State) (f : Boot → Boot) : (s.mapBoot f).thermal = s.thermal := rfl
@[simp] theorem State.mapBoot_boot (s : State) (f : Boot → Boot) : (s.mapBoot f).boot = f s.boot := rfl
@[simp] theorem State.mapBoot_keeper (s : State) (f : Boot → Boot) : (s.mapBoot f).keeper = s.keeper := rfl
@[simp] theorem State.mapBoot_logs (s : State) (f : Boot → Boot) : (s.mapBoot f).logs = s.logs := rfl
@[simp] theorem State.mapBoot_fuses (s : State) (f : Boot → Boot) : (s.mapBoot f).fuses = s.fuses := rfl
@[simp] theorem State.mapBoot_guard (s : State) (f : Boot → Boot) : (s.mapBoot f).guard = s.guard := rfl
@[simp] theorem State.mapBoot_fns (s : State) (f : Boot → Boot) : (s.mapBoot f).fns = s.fns := rfl
@[simp] theorem State.mapBoot_mgmt (s : State) (f : Boot → Boot) : (s.mapBoot f).mgmt = s.mgmt := rfl
@[simp] theorem State.mapBoot_queues (s : State) (f : Boot → Boot) : (s.mapBoot f).queues = s.queues := rfl
@[simp] theorem State.mapBoot_jobs (s : State) (f : Boot → Boot) : (s.mapBoot f).jobs = s.jobs := rfl
@[simp] theorem State.mapBoot_sched (s : State) (f : Boot → Boot) : (s.mapBoot f).sched = s.sched := rfl
@[simp] theorem State.mapBoot_keys (s : State) (f : Boot → Boot) : (s.mapBoot f).keys = s.keys := rfl
@[simp] theorem State.mapBoot_store (s : State) (f : Boot → Boot) : (s.mapBoot f).store = s.store := rfl
@[simp] theorem State.mapBoot_tables (s : State) (f : Boot → Boot) : (s.mapBoot f).tables = s.tables := rfl
@[simp] theorem State.mapBoot_dru (s : State) (f : Boot → Boot) : (s.mapBoot f).dru = s.dru := rfl
@[simp] theorem State.mapBoot_ent (s : State) (f : Boot → Boot) : (s.mapBoot f).ent = s.ent := rfl
@[simp] theorem State.mapBoot_flt (s : State) (f : Boot → Boot) : (s.mapBoot f).flt = s.flt := rfl
@[simp] theorem State.mapBoot_upd (s : State) (f : Boot → Boot) : (s.mapBoot f).upd = s.upd := rfl
@[simp] theorem State.mapBoot_nextJob (s : State) (f : Boot → Boot) : (s.mapBoot f).nextJob = s.nextJob := rfl
@[simp] theorem State.mapBoot_freeCtr (s : State) (f : Boot → Boot) : (s.mapBoot f).freeCtr = s.freeCtr := rfl
@[simp] theorem State.mapBoot_out (s : State) (f : Boot → Boot) : (s.mapBoot f).out = s.out := rfl
@[simp] theorem State.mapBoot_pending (s : State) (f : Boot → Boot) : (s.mapBoot f).pending = s.pending := rfl

@[simp] theorem State.mapKeeper_power (s : State) (f : Keeper → Keeper) : (s.mapKeeper f).power = s.power := rfl
@[simp] theorem State.mapKeeper_thermal (s : State) (f : Keeper → Keeper) : (s.mapKeeper f).thermal = s.thermal := rfl
@[simp] theorem State.mapKeeper_boot (s : State) (f : Keeper → Keeper) : (s.mapKeeper f).boot = s.boot := rfl
@[simp] theorem State.mapKeeper_keeper (s : State) (f : Keeper → Keeper) : (s.mapKeeper f).keeper = f s.keeper := rfl
@[simp] theorem State.mapKeeper_logs (s : State) (f : Keeper → Keeper) : (s.mapKeeper f).logs = s.logs := rfl
@[simp] theorem State.mapKeeper_fuses (s : State) (f : Keeper → Keeper) : (s.mapKeeper f).fuses = s.fuses := rfl
@[simp] theorem State.mapKeeper_guard (s : State) (f : Keeper → Keeper) : (s.mapKeeper f).guard = s.guard := rfl
@[simp] theorem State.mapKeeper_fns (s : State) (f : Keeper → Keeper) : (s.mapKeeper f).fns = s.fns := rfl
@[simp] theorem State.mapKeeper_mgmt (s : State) (f : Keeper → Keeper) : (s.mapKeeper f).mgmt = s.mgmt := rfl
@[simp] theorem State.mapKeeper_queues (s : State) (f : Keeper → Keeper) : (s.mapKeeper f).queues = s.queues := rfl
@[simp] theorem State.mapKeeper_jobs (s : State) (f : Keeper → Keeper) : (s.mapKeeper f).jobs = s.jobs := rfl
@[simp] theorem State.mapKeeper_sched (s : State) (f : Keeper → Keeper) : (s.mapKeeper f).sched = s.sched := rfl
@[simp] theorem State.mapKeeper_keys (s : State) (f : Keeper → Keeper) : (s.mapKeeper f).keys = s.keys := rfl
@[simp] theorem State.mapKeeper_store (s : State) (f : Keeper → Keeper) : (s.mapKeeper f).store = s.store := rfl
@[simp] theorem State.mapKeeper_tables (s : State) (f : Keeper → Keeper) : (s.mapKeeper f).tables = s.tables := rfl
@[simp] theorem State.mapKeeper_dru (s : State) (f : Keeper → Keeper) : (s.mapKeeper f).dru = s.dru := rfl
@[simp] theorem State.mapKeeper_ent (s : State) (f : Keeper → Keeper) : (s.mapKeeper f).ent = s.ent := rfl
@[simp] theorem State.mapKeeper_flt (s : State) (f : Keeper → Keeper) : (s.mapKeeper f).flt = s.flt := rfl
@[simp] theorem State.mapKeeper_upd (s : State) (f : Keeper → Keeper) : (s.mapKeeper f).upd = s.upd := rfl
@[simp] theorem State.mapKeeper_nextJob (s : State) (f : Keeper → Keeper) : (s.mapKeeper f).nextJob = s.nextJob := rfl
@[simp] theorem State.mapKeeper_freeCtr (s : State) (f : Keeper → Keeper) : (s.mapKeeper f).freeCtr = s.freeCtr := rfl
@[simp] theorem State.mapKeeper_out (s : State) (f : Keeper → Keeper) : (s.mapKeeper f).out = s.out := rfl
@[simp] theorem State.mapKeeper_pending (s : State) (f : Keeper → Keeper) : (s.mapKeeper f).pending = s.pending := rfl

@[simp] theorem State.mapLogs_power (s : State) (f : Logs → Logs) : (s.mapLogs f).power = s.power := rfl
@[simp] theorem State.mapLogs_thermal (s : State) (f : Logs → Logs) : (s.mapLogs f).thermal = s.thermal := rfl
@[simp] theorem State.mapLogs_boot (s : State) (f : Logs → Logs) : (s.mapLogs f).boot = s.boot := rfl
@[simp] theorem State.mapLogs_keeper (s : State) (f : Logs → Logs) : (s.mapLogs f).keeper = s.keeper := rfl
@[simp] theorem State.mapLogs_logs (s : State) (f : Logs → Logs) : (s.mapLogs f).logs = f s.logs := rfl
@[simp] theorem State.mapLogs_fuses (s : State) (f : Logs → Logs) : (s.mapLogs f).fuses = s.fuses := rfl
@[simp] theorem State.mapLogs_guard (s : State) (f : Logs → Logs) : (s.mapLogs f).guard = s.guard := rfl
@[simp] theorem State.mapLogs_fns (s : State) (f : Logs → Logs) : (s.mapLogs f).fns = s.fns := rfl
@[simp] theorem State.mapLogs_mgmt (s : State) (f : Logs → Logs) : (s.mapLogs f).mgmt = s.mgmt := rfl
@[simp] theorem State.mapLogs_queues (s : State) (f : Logs → Logs) : (s.mapLogs f).queues = s.queues := rfl
@[simp] theorem State.mapLogs_jobs (s : State) (f : Logs → Logs) : (s.mapLogs f).jobs = s.jobs := rfl
@[simp] theorem State.mapLogs_sched (s : State) (f : Logs → Logs) : (s.mapLogs f).sched = s.sched := rfl
@[simp] theorem State.mapLogs_keys (s : State) (f : Logs → Logs) : (s.mapLogs f).keys = s.keys := rfl
@[simp] theorem State.mapLogs_store (s : State) (f : Logs → Logs) : (s.mapLogs f).store = s.store := rfl
@[simp] theorem State.mapLogs_tables (s : State) (f : Logs → Logs) : (s.mapLogs f).tables = s.tables := rfl
@[simp] theorem State.mapLogs_dru (s : State) (f : Logs → Logs) : (s.mapLogs f).dru = s.dru := rfl
@[simp] theorem State.mapLogs_ent (s : State) (f : Logs → Logs) : (s.mapLogs f).ent = s.ent := rfl
@[simp] theorem State.mapLogs_flt (s : State) (f : Logs → Logs) : (s.mapLogs f).flt = s.flt := rfl
@[simp] theorem State.mapLogs_upd (s : State) (f : Logs → Logs) : (s.mapLogs f).upd = s.upd := rfl
@[simp] theorem State.mapLogs_nextJob (s : State) (f : Logs → Logs) : (s.mapLogs f).nextJob = s.nextJob := rfl
@[simp] theorem State.mapLogs_freeCtr (s : State) (f : Logs → Logs) : (s.mapLogs f).freeCtr = s.freeCtr := rfl
@[simp] theorem State.mapLogs_out (s : State) (f : Logs → Logs) : (s.mapLogs f).out = s.out := rfl
@[simp] theorem State.mapLogs_pending (s : State) (f : Logs → Logs) : (s.mapLogs f).pending = s.pending := rfl

@[simp] theorem State.mapFuses_power (s : State) (f : Fuses → Fuses) : (s.mapFuses f).power = s.power := rfl
@[simp] theorem State.mapFuses_thermal (s : State) (f : Fuses → Fuses) : (s.mapFuses f).thermal = s.thermal := rfl
@[simp] theorem State.mapFuses_boot (s : State) (f : Fuses → Fuses) : (s.mapFuses f).boot = s.boot := rfl
@[simp] theorem State.mapFuses_keeper (s : State) (f : Fuses → Fuses) : (s.mapFuses f).keeper = s.keeper := rfl
@[simp] theorem State.mapFuses_logs (s : State) (f : Fuses → Fuses) : (s.mapFuses f).logs = s.logs := rfl
@[simp] theorem State.mapFuses_fuses (s : State) (f : Fuses → Fuses) : (s.mapFuses f).fuses = f s.fuses := rfl
@[simp] theorem State.mapFuses_guard (s : State) (f : Fuses → Fuses) : (s.mapFuses f).guard = s.guard := rfl
@[simp] theorem State.mapFuses_fns (s : State) (f : Fuses → Fuses) : (s.mapFuses f).fns = s.fns := rfl
@[simp] theorem State.mapFuses_mgmt (s : State) (f : Fuses → Fuses) : (s.mapFuses f).mgmt = s.mgmt := rfl
@[simp] theorem State.mapFuses_queues (s : State) (f : Fuses → Fuses) : (s.mapFuses f).queues = s.queues := rfl
@[simp] theorem State.mapFuses_jobs (s : State) (f : Fuses → Fuses) : (s.mapFuses f).jobs = s.jobs := rfl
@[simp] theorem State.mapFuses_sched (s : State) (f : Fuses → Fuses) : (s.mapFuses f).sched = s.sched := rfl
@[simp] theorem State.mapFuses_keys (s : State) (f : Fuses → Fuses) : (s.mapFuses f).keys = s.keys := rfl
@[simp] theorem State.mapFuses_store (s : State) (f : Fuses → Fuses) : (s.mapFuses f).store = s.store := rfl
@[simp] theorem State.mapFuses_tables (s : State) (f : Fuses → Fuses) : (s.mapFuses f).tables = s.tables := rfl
@[simp] theorem State.mapFuses_dru (s : State) (f : Fuses → Fuses) : (s.mapFuses f).dru = s.dru := rfl
@[simp] theorem State.mapFuses_ent (s : State) (f : Fuses → Fuses) : (s.mapFuses f).ent = s.ent := rfl
@[simp] theorem State.mapFuses_flt (s : State) (f : Fuses → Fuses) : (s.mapFuses f).flt = s.flt := rfl
@[simp] theorem State.mapFuses_upd (s : State) (f : Fuses → Fuses) : (s.mapFuses f).upd = s.upd := rfl
@[simp] theorem State.mapFuses_nextJob (s : State) (f : Fuses → Fuses) : (s.mapFuses f).nextJob = s.nextJob := rfl
@[simp] theorem State.mapFuses_freeCtr (s : State) (f : Fuses → Fuses) : (s.mapFuses f).freeCtr = s.freeCtr := rfl
@[simp] theorem State.mapFuses_out (s : State) (f : Fuses → Fuses) : (s.mapFuses f).out = s.out := rfl
@[simp] theorem State.mapFuses_pending (s : State) (f : Fuses → Fuses) : (s.mapFuses f).pending = s.pending := rfl

@[simp] theorem State.mapGuard_power (s : State) (f : Guard → Guard) : (s.mapGuard f).power = s.power := rfl
@[simp] theorem State.mapGuard_thermal (s : State) (f : Guard → Guard) : (s.mapGuard f).thermal = s.thermal := rfl
@[simp] theorem State.mapGuard_boot (s : State) (f : Guard → Guard) : (s.mapGuard f).boot = s.boot := rfl
@[simp] theorem State.mapGuard_keeper (s : State) (f : Guard → Guard) : (s.mapGuard f).keeper = s.keeper := rfl
@[simp] theorem State.mapGuard_logs (s : State) (f : Guard → Guard) : (s.mapGuard f).logs = s.logs := rfl
@[simp] theorem State.mapGuard_fuses (s : State) (f : Guard → Guard) : (s.mapGuard f).fuses = s.fuses := rfl
@[simp] theorem State.mapGuard_guard (s : State) (f : Guard → Guard) : (s.mapGuard f).guard = f s.guard := rfl
@[simp] theorem State.mapGuard_fns (s : State) (f : Guard → Guard) : (s.mapGuard f).fns = s.fns := rfl
@[simp] theorem State.mapGuard_mgmt (s : State) (f : Guard → Guard) : (s.mapGuard f).mgmt = s.mgmt := rfl
@[simp] theorem State.mapGuard_queues (s : State) (f : Guard → Guard) : (s.mapGuard f).queues = s.queues := rfl
@[simp] theorem State.mapGuard_jobs (s : State) (f : Guard → Guard) : (s.mapGuard f).jobs = s.jobs := rfl
@[simp] theorem State.mapGuard_sched (s : State) (f : Guard → Guard) : (s.mapGuard f).sched = s.sched := rfl
@[simp] theorem State.mapGuard_keys (s : State) (f : Guard → Guard) : (s.mapGuard f).keys = s.keys := rfl
@[simp] theorem State.mapGuard_store (s : State) (f : Guard → Guard) : (s.mapGuard f).store = s.store := rfl
@[simp] theorem State.mapGuard_tables (s : State) (f : Guard → Guard) : (s.mapGuard f).tables = s.tables := rfl
@[simp] theorem State.mapGuard_dru (s : State) (f : Guard → Guard) : (s.mapGuard f).dru = s.dru := rfl
@[simp] theorem State.mapGuard_ent (s : State) (f : Guard → Guard) : (s.mapGuard f).ent = s.ent := rfl
@[simp] theorem State.mapGuard_flt (s : State) (f : Guard → Guard) : (s.mapGuard f).flt = s.flt := rfl
@[simp] theorem State.mapGuard_upd (s : State) (f : Guard → Guard) : (s.mapGuard f).upd = s.upd := rfl
@[simp] theorem State.mapGuard_nextJob (s : State) (f : Guard → Guard) : (s.mapGuard f).nextJob = s.nextJob := rfl
@[simp] theorem State.mapGuard_freeCtr (s : State) (f : Guard → Guard) : (s.mapGuard f).freeCtr = s.freeCtr := rfl
@[simp] theorem State.mapGuard_out (s : State) (f : Guard → Guard) : (s.mapGuard f).out = s.out := rfl
@[simp] theorem State.mapGuard_pending (s : State) (f : Guard → Guard) : (s.mapGuard f).pending = s.pending := rfl

@[simp] theorem State.mapMgmt_power (s : State) (f : Mgmt → Mgmt) : (s.mapMgmt f).power = s.power := rfl
@[simp] theorem State.mapMgmt_thermal (s : State) (f : Mgmt → Mgmt) : (s.mapMgmt f).thermal = s.thermal := rfl
@[simp] theorem State.mapMgmt_boot (s : State) (f : Mgmt → Mgmt) : (s.mapMgmt f).boot = s.boot := rfl
@[simp] theorem State.mapMgmt_keeper (s : State) (f : Mgmt → Mgmt) : (s.mapMgmt f).keeper = s.keeper := rfl
@[simp] theorem State.mapMgmt_logs (s : State) (f : Mgmt → Mgmt) : (s.mapMgmt f).logs = s.logs := rfl
@[simp] theorem State.mapMgmt_fuses (s : State) (f : Mgmt → Mgmt) : (s.mapMgmt f).fuses = s.fuses := rfl
@[simp] theorem State.mapMgmt_guard (s : State) (f : Mgmt → Mgmt) : (s.mapMgmt f).guard = s.guard := rfl
@[simp] theorem State.mapMgmt_fns (s : State) (f : Mgmt → Mgmt) : (s.mapMgmt f).fns = s.fns := rfl
@[simp] theorem State.mapMgmt_mgmt (s : State) (f : Mgmt → Mgmt) : (s.mapMgmt f).mgmt = f s.mgmt := rfl
@[simp] theorem State.mapMgmt_queues (s : State) (f : Mgmt → Mgmt) : (s.mapMgmt f).queues = s.queues := rfl
@[simp] theorem State.mapMgmt_jobs (s : State) (f : Mgmt → Mgmt) : (s.mapMgmt f).jobs = s.jobs := rfl
@[simp] theorem State.mapMgmt_sched (s : State) (f : Mgmt → Mgmt) : (s.mapMgmt f).sched = s.sched := rfl
@[simp] theorem State.mapMgmt_keys (s : State) (f : Mgmt → Mgmt) : (s.mapMgmt f).keys = s.keys := rfl
@[simp] theorem State.mapMgmt_store (s : State) (f : Mgmt → Mgmt) : (s.mapMgmt f).store = s.store := rfl
@[simp] theorem State.mapMgmt_tables (s : State) (f : Mgmt → Mgmt) : (s.mapMgmt f).tables = s.tables := rfl
@[simp] theorem State.mapMgmt_dru (s : State) (f : Mgmt → Mgmt) : (s.mapMgmt f).dru = s.dru := rfl
@[simp] theorem State.mapMgmt_ent (s : State) (f : Mgmt → Mgmt) : (s.mapMgmt f).ent = s.ent := rfl
@[simp] theorem State.mapMgmt_flt (s : State) (f : Mgmt → Mgmt) : (s.mapMgmt f).flt = s.flt := rfl
@[simp] theorem State.mapMgmt_upd (s : State) (f : Mgmt → Mgmt) : (s.mapMgmt f).upd = s.upd := rfl
@[simp] theorem State.mapMgmt_nextJob (s : State) (f : Mgmt → Mgmt) : (s.mapMgmt f).nextJob = s.nextJob := rfl
@[simp] theorem State.mapMgmt_freeCtr (s : State) (f : Mgmt → Mgmt) : (s.mapMgmt f).freeCtr = s.freeCtr := rfl
@[simp] theorem State.mapMgmt_out (s : State) (f : Mgmt → Mgmt) : (s.mapMgmt f).out = s.out := rfl
@[simp] theorem State.mapMgmt_pending (s : State) (f : Mgmt → Mgmt) : (s.mapMgmt f).pending = s.pending := rfl

@[simp] theorem State.mapKeys_power (s : State) (f : Keys → Keys) : (s.mapKeys f).power = s.power := rfl
@[simp] theorem State.mapKeys_thermal (s : State) (f : Keys → Keys) : (s.mapKeys f).thermal = s.thermal := rfl
@[simp] theorem State.mapKeys_boot (s : State) (f : Keys → Keys) : (s.mapKeys f).boot = s.boot := rfl
@[simp] theorem State.mapKeys_keeper (s : State) (f : Keys → Keys) : (s.mapKeys f).keeper = s.keeper := rfl
@[simp] theorem State.mapKeys_logs (s : State) (f : Keys → Keys) : (s.mapKeys f).logs = s.logs := rfl
@[simp] theorem State.mapKeys_fuses (s : State) (f : Keys → Keys) : (s.mapKeys f).fuses = s.fuses := rfl
@[simp] theorem State.mapKeys_guard (s : State) (f : Keys → Keys) : (s.mapKeys f).guard = s.guard := rfl
@[simp] theorem State.mapKeys_fns (s : State) (f : Keys → Keys) : (s.mapKeys f).fns = s.fns := rfl
@[simp] theorem State.mapKeys_mgmt (s : State) (f : Keys → Keys) : (s.mapKeys f).mgmt = s.mgmt := rfl
@[simp] theorem State.mapKeys_queues (s : State) (f : Keys → Keys) : (s.mapKeys f).queues = s.queues := rfl
@[simp] theorem State.mapKeys_jobs (s : State) (f : Keys → Keys) : (s.mapKeys f).jobs = s.jobs := rfl
@[simp] theorem State.mapKeys_sched (s : State) (f : Keys → Keys) : (s.mapKeys f).sched = s.sched := rfl
@[simp] theorem State.mapKeys_keys (s : State) (f : Keys → Keys) : (s.mapKeys f).keys = f s.keys := rfl
@[simp] theorem State.mapKeys_store (s : State) (f : Keys → Keys) : (s.mapKeys f).store = s.store := rfl
@[simp] theorem State.mapKeys_tables (s : State) (f : Keys → Keys) : (s.mapKeys f).tables = s.tables := rfl
@[simp] theorem State.mapKeys_dru (s : State) (f : Keys → Keys) : (s.mapKeys f).dru = s.dru := rfl
@[simp] theorem State.mapKeys_ent (s : State) (f : Keys → Keys) : (s.mapKeys f).ent = s.ent := rfl
@[simp] theorem State.mapKeys_flt (s : State) (f : Keys → Keys) : (s.mapKeys f).flt = s.flt := rfl
@[simp] theorem State.mapKeys_upd (s : State) (f : Keys → Keys) : (s.mapKeys f).upd = s.upd := rfl
@[simp] theorem State.mapKeys_nextJob (s : State) (f : Keys → Keys) : (s.mapKeys f).nextJob = s.nextJob := rfl
@[simp] theorem State.mapKeys_freeCtr (s : State) (f : Keys → Keys) : (s.mapKeys f).freeCtr = s.freeCtr := rfl
@[simp] theorem State.mapKeys_out (s : State) (f : Keys → Keys) : (s.mapKeys f).out = s.out := rfl
@[simp] theorem State.mapKeys_pending (s : State) (f : Keys → Keys) : (s.mapKeys f).pending = s.pending := rfl

@[simp] theorem State.mapStore_power (s : State) (f : OpStore → OpStore) : (s.mapStore f).power = s.power := rfl
@[simp] theorem State.mapStore_thermal (s : State) (f : OpStore → OpStore) : (s.mapStore f).thermal = s.thermal := rfl
@[simp] theorem State.mapStore_boot (s : State) (f : OpStore → OpStore) : (s.mapStore f).boot = s.boot := rfl
@[simp] theorem State.mapStore_keeper (s : State) (f : OpStore → OpStore) : (s.mapStore f).keeper = s.keeper := rfl
@[simp] theorem State.mapStore_logs (s : State) (f : OpStore → OpStore) : (s.mapStore f).logs = s.logs := rfl
@[simp] theorem State.mapStore_fuses (s : State) (f : OpStore → OpStore) : (s.mapStore f).fuses = s.fuses := rfl
@[simp] theorem State.mapStore_guard (s : State) (f : OpStore → OpStore) : (s.mapStore f).guard = s.guard := rfl
@[simp] theorem State.mapStore_fns (s : State) (f : OpStore → OpStore) : (s.mapStore f).fns = s.fns := rfl
@[simp] theorem State.mapStore_mgmt (s : State) (f : OpStore → OpStore) : (s.mapStore f).mgmt = s.mgmt := rfl
@[simp] theorem State.mapStore_queues (s : State) (f : OpStore → OpStore) : (s.mapStore f).queues = s.queues := rfl
@[simp] theorem State.mapStore_jobs (s : State) (f : OpStore → OpStore) : (s.mapStore f).jobs = s.jobs := rfl
@[simp] theorem State.mapStore_sched (s : State) (f : OpStore → OpStore) : (s.mapStore f).sched = s.sched := rfl
@[simp] theorem State.mapStore_keys (s : State) (f : OpStore → OpStore) : (s.mapStore f).keys = s.keys := rfl
@[simp] theorem State.mapStore_store (s : State) (f : OpStore → OpStore) : (s.mapStore f).store = f s.store := rfl
@[simp] theorem State.mapStore_tables (s : State) (f : OpStore → OpStore) : (s.mapStore f).tables = s.tables := rfl
@[simp] theorem State.mapStore_dru (s : State) (f : OpStore → OpStore) : (s.mapStore f).dru = s.dru := rfl
@[simp] theorem State.mapStore_ent (s : State) (f : OpStore → OpStore) : (s.mapStore f).ent = s.ent := rfl
@[simp] theorem State.mapStore_flt (s : State) (f : OpStore → OpStore) : (s.mapStore f).flt = s.flt := rfl
@[simp] theorem State.mapStore_upd (s : State) (f : OpStore → OpStore) : (s.mapStore f).upd = s.upd := rfl
@[simp] theorem State.mapStore_nextJob (s : State) (f : OpStore → OpStore) : (s.mapStore f).nextJob = s.nextJob := rfl
@[simp] theorem State.mapStore_freeCtr (s : State) (f : OpStore → OpStore) : (s.mapStore f).freeCtr = s.freeCtr := rfl
@[simp] theorem State.mapStore_out (s : State) (f : OpStore → OpStore) : (s.mapStore f).out = s.out := rfl
@[simp] theorem State.mapStore_pending (s : State) (f : OpStore → OpStore) : (s.mapStore f).pending = s.pending := rfl

@[simp] theorem State.mapTables_power (s : State) (f : Tables → Tables) : (s.mapTables f).power = s.power := rfl
@[simp] theorem State.mapTables_thermal (s : State) (f : Tables → Tables) : (s.mapTables f).thermal = s.thermal := rfl
@[simp] theorem State.mapTables_boot (s : State) (f : Tables → Tables) : (s.mapTables f).boot = s.boot := rfl
@[simp] theorem State.mapTables_keeper (s : State) (f : Tables → Tables) : (s.mapTables f).keeper = s.keeper := rfl
@[simp] theorem State.mapTables_logs (s : State) (f : Tables → Tables) : (s.mapTables f).logs = s.logs := rfl
@[simp] theorem State.mapTables_fuses (s : State) (f : Tables → Tables) : (s.mapTables f).fuses = s.fuses := rfl
@[simp] theorem State.mapTables_guard (s : State) (f : Tables → Tables) : (s.mapTables f).guard = s.guard := rfl
@[simp] theorem State.mapTables_fns (s : State) (f : Tables → Tables) : (s.mapTables f).fns = s.fns := rfl
@[simp] theorem State.mapTables_mgmt (s : State) (f : Tables → Tables) : (s.mapTables f).mgmt = s.mgmt := rfl
@[simp] theorem State.mapTables_queues (s : State) (f : Tables → Tables) : (s.mapTables f).queues = s.queues := rfl
@[simp] theorem State.mapTables_jobs (s : State) (f : Tables → Tables) : (s.mapTables f).jobs = s.jobs := rfl
@[simp] theorem State.mapTables_sched (s : State) (f : Tables → Tables) : (s.mapTables f).sched = s.sched := rfl
@[simp] theorem State.mapTables_keys (s : State) (f : Tables → Tables) : (s.mapTables f).keys = s.keys := rfl
@[simp] theorem State.mapTables_store (s : State) (f : Tables → Tables) : (s.mapTables f).store = s.store := rfl
@[simp] theorem State.mapTables_tables (s : State) (f : Tables → Tables) : (s.mapTables f).tables = f s.tables := rfl
@[simp] theorem State.mapTables_dru (s : State) (f : Tables → Tables) : (s.mapTables f).dru = s.dru := rfl
@[simp] theorem State.mapTables_ent (s : State) (f : Tables → Tables) : (s.mapTables f).ent = s.ent := rfl
@[simp] theorem State.mapTables_flt (s : State) (f : Tables → Tables) : (s.mapTables f).flt = s.flt := rfl
@[simp] theorem State.mapTables_upd (s : State) (f : Tables → Tables) : (s.mapTables f).upd = s.upd := rfl
@[simp] theorem State.mapTables_nextJob (s : State) (f : Tables → Tables) : (s.mapTables f).nextJob = s.nextJob := rfl
@[simp] theorem State.mapTables_freeCtr (s : State) (f : Tables → Tables) : (s.mapTables f).freeCtr = s.freeCtr := rfl
@[simp] theorem State.mapTables_out (s : State) (f : Tables → Tables) : (s.mapTables f).out = s.out := rfl
@[simp] theorem State.mapTables_pending (s : State) (f : Tables → Tables) : (s.mapTables f).pending = s.pending := rfl

@[simp] theorem State.mapDru_power (s : State) (f : Dru → Dru) : (s.mapDru f).power = s.power := rfl
@[simp] theorem State.mapDru_thermal (s : State) (f : Dru → Dru) : (s.mapDru f).thermal = s.thermal := rfl
@[simp] theorem State.mapDru_boot (s : State) (f : Dru → Dru) : (s.mapDru f).boot = s.boot := rfl
@[simp] theorem State.mapDru_keeper (s : State) (f : Dru → Dru) : (s.mapDru f).keeper = s.keeper := rfl
@[simp] theorem State.mapDru_logs (s : State) (f : Dru → Dru) : (s.mapDru f).logs = s.logs := rfl
@[simp] theorem State.mapDru_fuses (s : State) (f : Dru → Dru) : (s.mapDru f).fuses = s.fuses := rfl
@[simp] theorem State.mapDru_guard (s : State) (f : Dru → Dru) : (s.mapDru f).guard = s.guard := rfl
@[simp] theorem State.mapDru_fns (s : State) (f : Dru → Dru) : (s.mapDru f).fns = s.fns := rfl
@[simp] theorem State.mapDru_mgmt (s : State) (f : Dru → Dru) : (s.mapDru f).mgmt = s.mgmt := rfl
@[simp] theorem State.mapDru_queues (s : State) (f : Dru → Dru) : (s.mapDru f).queues = s.queues := rfl
@[simp] theorem State.mapDru_jobs (s : State) (f : Dru → Dru) : (s.mapDru f).jobs = s.jobs := rfl
@[simp] theorem State.mapDru_sched (s : State) (f : Dru → Dru) : (s.mapDru f).sched = s.sched := rfl
@[simp] theorem State.mapDru_keys (s : State) (f : Dru → Dru) : (s.mapDru f).keys = s.keys := rfl
@[simp] theorem State.mapDru_store (s : State) (f : Dru → Dru) : (s.mapDru f).store = s.store := rfl
@[simp] theorem State.mapDru_tables (s : State) (f : Dru → Dru) : (s.mapDru f).tables = s.tables := rfl
@[simp] theorem State.mapDru_dru (s : State) (f : Dru → Dru) : (s.mapDru f).dru = f s.dru := rfl
@[simp] theorem State.mapDru_ent (s : State) (f : Dru → Dru) : (s.mapDru f).ent = s.ent := rfl
@[simp] theorem State.mapDru_flt (s : State) (f : Dru → Dru) : (s.mapDru f).flt = s.flt := rfl
@[simp] theorem State.mapDru_upd (s : State) (f : Dru → Dru) : (s.mapDru f).upd = s.upd := rfl
@[simp] theorem State.mapDru_nextJob (s : State) (f : Dru → Dru) : (s.mapDru f).nextJob = s.nextJob := rfl
@[simp] theorem State.mapDru_freeCtr (s : State) (f : Dru → Dru) : (s.mapDru f).freeCtr = s.freeCtr := rfl
@[simp] theorem State.mapDru_out (s : State) (f : Dru → Dru) : (s.mapDru f).out = s.out := rfl
@[simp] theorem State.mapDru_pending (s : State) (f : Dru → Dru) : (s.mapDru f).pending = s.pending := rfl

@[simp] theorem State.mapEnt_power (s : State) (f : Entropy → Entropy) : (s.mapEnt f).power = s.power := rfl
@[simp] theorem State.mapEnt_thermal (s : State) (f : Entropy → Entropy) : (s.mapEnt f).thermal = s.thermal := rfl
@[simp] theorem State.mapEnt_boot (s : State) (f : Entropy → Entropy) : (s.mapEnt f).boot = s.boot := rfl
@[simp] theorem State.mapEnt_keeper (s : State) (f : Entropy → Entropy) : (s.mapEnt f).keeper = s.keeper := rfl
@[simp] theorem State.mapEnt_logs (s : State) (f : Entropy → Entropy) : (s.mapEnt f).logs = s.logs := rfl
@[simp] theorem State.mapEnt_fuses (s : State) (f : Entropy → Entropy) : (s.mapEnt f).fuses = s.fuses := rfl
@[simp] theorem State.mapEnt_guard (s : State) (f : Entropy → Entropy) : (s.mapEnt f).guard = s.guard := rfl
@[simp] theorem State.mapEnt_fns (s : State) (f : Entropy → Entropy) : (s.mapEnt f).fns = s.fns := rfl
@[simp] theorem State.mapEnt_mgmt (s : State) (f : Entropy → Entropy) : (s.mapEnt f).mgmt = s.mgmt := rfl
@[simp] theorem State.mapEnt_queues (s : State) (f : Entropy → Entropy) : (s.mapEnt f).queues = s.queues := rfl
@[simp] theorem State.mapEnt_jobs (s : State) (f : Entropy → Entropy) : (s.mapEnt f).jobs = s.jobs := rfl
@[simp] theorem State.mapEnt_sched (s : State) (f : Entropy → Entropy) : (s.mapEnt f).sched = s.sched := rfl
@[simp] theorem State.mapEnt_keys (s : State) (f : Entropy → Entropy) : (s.mapEnt f).keys = s.keys := rfl
@[simp] theorem State.mapEnt_store (s : State) (f : Entropy → Entropy) : (s.mapEnt f).store = s.store := rfl
@[simp] theorem State.mapEnt_tables (s : State) (f : Entropy → Entropy) : (s.mapEnt f).tables = s.tables := rfl
@[simp] theorem State.mapEnt_dru (s : State) (f : Entropy → Entropy) : (s.mapEnt f).dru = s.dru := rfl
@[simp] theorem State.mapEnt_ent (s : State) (f : Entropy → Entropy) : (s.mapEnt f).ent = f s.ent := rfl
@[simp] theorem State.mapEnt_flt (s : State) (f : Entropy → Entropy) : (s.mapEnt f).flt = s.flt := rfl
@[simp] theorem State.mapEnt_upd (s : State) (f : Entropy → Entropy) : (s.mapEnt f).upd = s.upd := rfl
@[simp] theorem State.mapEnt_nextJob (s : State) (f : Entropy → Entropy) : (s.mapEnt f).nextJob = s.nextJob := rfl
@[simp] theorem State.mapEnt_freeCtr (s : State) (f : Entropy → Entropy) : (s.mapEnt f).freeCtr = s.freeCtr := rfl
@[simp] theorem State.mapEnt_out (s : State) (f : Entropy → Entropy) : (s.mapEnt f).out = s.out := rfl
@[simp] theorem State.mapEnt_pending (s : State) (f : Entropy → Entropy) : (s.mapEnt f).pending = s.pending := rfl

@[simp] theorem State.mapFlt_power (s : State) (f : Faults → Faults) : (s.mapFlt f).power = s.power := rfl
@[simp] theorem State.mapFlt_thermal (s : State) (f : Faults → Faults) : (s.mapFlt f).thermal = s.thermal := rfl
@[simp] theorem State.mapFlt_boot (s : State) (f : Faults → Faults) : (s.mapFlt f).boot = s.boot := rfl
@[simp] theorem State.mapFlt_keeper (s : State) (f : Faults → Faults) : (s.mapFlt f).keeper = s.keeper := rfl
@[simp] theorem State.mapFlt_logs (s : State) (f : Faults → Faults) : (s.mapFlt f).logs = s.logs := rfl
@[simp] theorem State.mapFlt_fuses (s : State) (f : Faults → Faults) : (s.mapFlt f).fuses = s.fuses := rfl
@[simp] theorem State.mapFlt_guard (s : State) (f : Faults → Faults) : (s.mapFlt f).guard = s.guard := rfl
@[simp] theorem State.mapFlt_fns (s : State) (f : Faults → Faults) : (s.mapFlt f).fns = s.fns := rfl
@[simp] theorem State.mapFlt_mgmt (s : State) (f : Faults → Faults) : (s.mapFlt f).mgmt = s.mgmt := rfl
@[simp] theorem State.mapFlt_queues (s : State) (f : Faults → Faults) : (s.mapFlt f).queues = s.queues := rfl
@[simp] theorem State.mapFlt_jobs (s : State) (f : Faults → Faults) : (s.mapFlt f).jobs = s.jobs := rfl
@[simp] theorem State.mapFlt_sched (s : State) (f : Faults → Faults) : (s.mapFlt f).sched = s.sched := rfl
@[simp] theorem State.mapFlt_keys (s : State) (f : Faults → Faults) : (s.mapFlt f).keys = s.keys := rfl
@[simp] theorem State.mapFlt_store (s : State) (f : Faults → Faults) : (s.mapFlt f).store = s.store := rfl
@[simp] theorem State.mapFlt_tables (s : State) (f : Faults → Faults) : (s.mapFlt f).tables = s.tables := rfl
@[simp] theorem State.mapFlt_dru (s : State) (f : Faults → Faults) : (s.mapFlt f).dru = s.dru := rfl
@[simp] theorem State.mapFlt_ent (s : State) (f : Faults → Faults) : (s.mapFlt f).ent = s.ent := rfl
@[simp] theorem State.mapFlt_flt (s : State) (f : Faults → Faults) : (s.mapFlt f).flt = f s.flt := rfl
@[simp] theorem State.mapFlt_upd (s : State) (f : Faults → Faults) : (s.mapFlt f).upd = s.upd := rfl
@[simp] theorem State.mapFlt_nextJob (s : State) (f : Faults → Faults) : (s.mapFlt f).nextJob = s.nextJob := rfl
@[simp] theorem State.mapFlt_freeCtr (s : State) (f : Faults → Faults) : (s.mapFlt f).freeCtr = s.freeCtr := rfl
@[simp] theorem State.mapFlt_out (s : State) (f : Faults → Faults) : (s.mapFlt f).out = s.out := rfl
@[simp] theorem State.mapFlt_pending (s : State) (f : Faults → Faults) : (s.mapFlt f).pending = s.pending := rfl

@[simp] theorem State.mapUpd_power (s : State) (f : Update → Update) : (s.mapUpd f).power = s.power := rfl
@[simp] theorem State.mapUpd_thermal (s : State) (f : Update → Update) : (s.mapUpd f).thermal = s.thermal := rfl
@[simp] theorem State.mapUpd_boot (s : State) (f : Update → Update) : (s.mapUpd f).boot = s.boot := rfl
@[simp] theorem State.mapUpd_keeper (s : State) (f : Update → Update) : (s.mapUpd f).keeper = s.keeper := rfl
@[simp] theorem State.mapUpd_logs (s : State) (f : Update → Update) : (s.mapUpd f).logs = s.logs := rfl
@[simp] theorem State.mapUpd_fuses (s : State) (f : Update → Update) : (s.mapUpd f).fuses = s.fuses := rfl
@[simp] theorem State.mapUpd_guard (s : State) (f : Update → Update) : (s.mapUpd f).guard = s.guard := rfl
@[simp] theorem State.mapUpd_fns (s : State) (f : Update → Update) : (s.mapUpd f).fns = s.fns := rfl
@[simp] theorem State.mapUpd_mgmt (s : State) (f : Update → Update) : (s.mapUpd f).mgmt = s.mgmt := rfl
@[simp] theorem State.mapUpd_queues (s : State) (f : Update → Update) : (s.mapUpd f).queues = s.queues := rfl
@[simp] theorem State.mapUpd_jobs (s : State) (f : Update → Update) : (s.mapUpd f).jobs = s.jobs := rfl
@[simp] theorem State.mapUpd_sched (s : State) (f : Update → Update) : (s.mapUpd f).sched = s.sched := rfl
@[simp] theorem State.mapUpd_keys (s : State) (f : Update → Update) : (s.mapUpd f).keys = s.keys := rfl
@[simp] theorem State.mapUpd_store (s : State) (f : Update → Update) : (s.mapUpd f).store = s.store := rfl
@[simp] theorem State.mapUpd_tables (s : State) (f : Update → Update) : (s.mapUpd f).tables = s.tables := rfl
@[simp] theorem State.mapUpd_dru (s : State) (f : Update → Update) : (s.mapUpd f).dru = s.dru := rfl
@[simp] theorem State.mapUpd_ent (s : State) (f : Update → Update) : (s.mapUpd f).ent = s.ent := rfl
@[simp] theorem State.mapUpd_flt (s : State) (f : Update → Update) : (s.mapUpd f).flt = s.flt := rfl
@[simp] theorem State.mapUpd_upd (s : State) (f : Update → Update) : (s.mapUpd f).upd = f s.upd := rfl
@[simp] theorem State.mapUpd_nextJob (s : State) (f : Update → Update) : (s.mapUpd f).nextJob = s.nextJob := rfl
@[simp] theorem State.mapUpd_freeCtr (s : State) (f : Update → Update) : (s.mapUpd f).freeCtr = s.freeCtr := rfl
@[simp] theorem State.mapUpd_out (s : State) (f : Update → Update) : (s.mapUpd f).out = s.out := rfl
@[simp] theorem State.mapUpd_pending (s : State) (f : Update → Update) : (s.mapUpd f).pending = s.pending := rfl

@[simp] theorem State.emit_power (s : State) (o : Out) : (s.emit o).power = s.power := rfl
@[simp] theorem State.emit_thermal (s : State) (o : Out) : (s.emit o).thermal = s.thermal := rfl
@[simp] theorem State.emit_boot (s : State) (o : Out) : (s.emit o).boot = s.boot := rfl
@[simp] theorem State.emit_keeper (s : State) (o : Out) : (s.emit o).keeper = s.keeper := rfl
@[simp] theorem State.emit_logs (s : State) (o : Out) : (s.emit o).logs = s.logs := rfl
@[simp] theorem State.emit_fuses (s : State) (o : Out) : (s.emit o).fuses = s.fuses := rfl
@[simp] theorem State.emit_guard (s : State) (o : Out) : (s.emit o).guard = s.guard := rfl
@[simp] theorem State.emit_fns (s : State) (o : Out) : (s.emit o).fns = s.fns := rfl
@[simp] theorem State.emit_mgmt (s : State) (o : Out) : (s.emit o).mgmt = s.mgmt := rfl
@[simp] theorem State.emit_queues (s : State) (o : Out) : (s.emit o).queues = s.queues := rfl
@[simp] theorem State.emit_jobs (s : State) (o : Out) : (s.emit o).jobs = s.jobs := rfl
@[simp] theorem State.emit_sched (s : State) (o : Out) : (s.emit o).sched = s.sched := rfl
@[simp] theorem State.emit_keys (s : State) (o : Out) : (s.emit o).keys = s.keys := rfl
@[simp] theorem State.emit_store (s : State) (o : Out) : (s.emit o).store = s.store := rfl
@[simp] theorem State.emit_tables (s : State) (o : Out) : (s.emit o).tables = s.tables := rfl
@[simp] theorem State.emit_dru (s : State) (o : Out) : (s.emit o).dru = s.dru := rfl
@[simp] theorem State.emit_ent (s : State) (o : Out) : (s.emit o).ent = s.ent := rfl
@[simp] theorem State.emit_flt (s : State) (o : Out) : (s.emit o).flt = s.flt := rfl
@[simp] theorem State.emit_upd (s : State) (o : Out) : (s.emit o).upd = s.upd := rfl
@[simp] theorem State.emit_nextJob (s : State) (o : Out) : (s.emit o).nextJob = s.nextJob := rfl
@[simp] theorem State.emit_freeCtr (s : State) (o : Out) : (s.emit o).freeCtr = s.freeCtr := rfl
@[simp] theorem State.emit_out (s : State) (o : Out) : (s.emit o).out = o :: s.out := rfl
@[simp] theorem State.emit_pending (s : State) (o : Out) : (s.emit o).pending = s.pending := rfl

@[simp] theorem State.draw_power (s : State)  : (s.draw).power = s.power := rfl
@[simp] theorem State.draw_thermal (s : State)  : (s.draw).thermal = s.thermal := rfl
@[simp] theorem State.draw_boot (s : State)  : (s.draw).boot = s.boot := rfl
@[simp] theorem State.draw_keeper (s : State)  : (s.draw).keeper = s.keeper := rfl
@[simp] theorem State.draw_logs (s : State)  : (s.draw).logs = s.logs := rfl
@[simp] theorem State.draw_fuses (s : State)  : (s.draw).fuses = s.fuses := rfl
@[simp] theorem State.draw_guard (s : State)  : (s.draw).guard = s.guard := rfl
@[simp] theorem State.draw_fns (s : State)  : (s.draw).fns = s.fns := rfl
@[simp] theorem State.draw_mgmt (s : State)  : (s.draw).mgmt = s.mgmt := rfl
@[simp] theorem State.draw_queues (s : State)  : (s.draw).queues = s.queues := rfl
@[simp] theorem State.draw_jobs (s : State)  : (s.draw).jobs = s.jobs := rfl
@[simp] theorem State.draw_sched (s : State)  : (s.draw).sched = s.sched := rfl
@[simp] theorem State.draw_keys (s : State)  : (s.draw).keys = s.keys := rfl
@[simp] theorem State.draw_store (s : State)  : (s.draw).store = s.store := rfl
@[simp] theorem State.draw_tables (s : State)  : (s.draw).tables = s.tables := rfl
@[simp] theorem State.draw_dru (s : State)  : (s.draw).dru = s.dru := rfl
@[simp] theorem State.draw_ent (s : State)  : (s.draw).ent = s.ent := rfl
@[simp] theorem State.draw_flt (s : State)  : (s.draw).flt = s.flt := rfl
@[simp] theorem State.draw_upd (s : State)  : (s.draw).upd = s.upd := rfl
@[simp] theorem State.draw_nextJob (s : State)  : (s.draw).nextJob = s.nextJob := rfl
@[simp] theorem State.draw_freeCtr (s : State)  : (s.draw).freeCtr = s.freeCtr + 1 := rfl
@[simp] theorem State.draw_out (s : State)  : (s.draw).out = s.out := rfl
@[simp] theorem State.draw_pending (s : State)  : (s.draw).pending = s.pending := rfl

@[simp] theorem State.drawMany_power (s : State) (n : Nat) : (s.drawMany n).power = s.power := rfl
@[simp] theorem State.drawMany_thermal (s : State) (n : Nat) : (s.drawMany n).thermal = s.thermal := rfl
@[simp] theorem State.drawMany_boot (s : State) (n : Nat) : (s.drawMany n).boot = s.boot := rfl
@[simp] theorem State.drawMany_keeper (s : State) (n : Nat) : (s.drawMany n).keeper = s.keeper := rfl
@[simp] theorem State.drawMany_logs (s : State) (n : Nat) : (s.drawMany n).logs = s.logs := rfl
@[simp] theorem State.drawMany_fuses (s : State) (n : Nat) : (s.drawMany n).fuses = s.fuses := rfl
@[simp] theorem State.drawMany_guard (s : State) (n : Nat) : (s.drawMany n).guard = s.guard := rfl
@[simp] theorem State.drawMany_fns (s : State) (n : Nat) : (s.drawMany n).fns = s.fns := rfl
@[simp] theorem State.drawMany_mgmt (s : State) (n : Nat) : (s.drawMany n).mgmt = s.mgmt := rfl
@[simp] theorem State.drawMany_queues (s : State) (n : Nat) : (s.drawMany n).queues = s.queues := rfl
@[simp] theorem State.drawMany_jobs (s : State) (n : Nat) : (s.drawMany n).jobs = s.jobs := rfl
@[simp] theorem State.drawMany_sched (s : State) (n : Nat) : (s.drawMany n).sched = s.sched := rfl
@[simp] theorem State.drawMany_keys (s : State) (n : Nat) : (s.drawMany n).keys = s.keys := rfl
@[simp] theorem State.drawMany_store (s : State) (n : Nat) : (s.drawMany n).store = s.store := rfl
@[simp] theorem State.drawMany_tables (s : State) (n : Nat) : (s.drawMany n).tables = s.tables := rfl
@[simp] theorem State.drawMany_dru (s : State) (n : Nat) : (s.drawMany n).dru = s.dru := rfl
@[simp] theorem State.drawMany_ent (s : State) (n : Nat) : (s.drawMany n).ent = s.ent := rfl
@[simp] theorem State.drawMany_flt (s : State) (n : Nat) : (s.drawMany n).flt = s.flt := rfl
@[simp] theorem State.drawMany_upd (s : State) (n : Nat) : (s.drawMany n).upd = s.upd := rfl
@[simp] theorem State.drawMany_nextJob (s : State) (n : Nat) : (s.drawMany n).nextJob = s.nextJob := rfl
@[simp] theorem State.drawMany_freeCtr (s : State) (n : Nat) : (s.drawMany n).freeCtr = s.freeCtr + n := rfl
@[simp] theorem State.drawMany_out (s : State) (n : Nat) : (s.drawMany n).out = s.out := rfl
@[simp] theorem State.drawMany_pending (s : State) (n : Nat) : (s.drawMany n).pending = s.pending := rfl

@[simp] theorem State.setFn_power (s : State) (i : Nat) (f : FnState) : (s.setFn i f).power = s.power := rfl
@[simp] theorem State.setFn_thermal (s : State) (i : Nat) (f : FnState) : (s.setFn i f).thermal = s.thermal := rfl
@[simp] theorem State.setFn_boot (s : State) (i : Nat) (f : FnState) : (s.setFn i f).boot = s.boot := rfl
@[simp] theorem State.setFn_keeper (s : State) (i : Nat) (f : FnState) : (s.setFn i f).keeper = s.keeper := rfl
@[simp] theorem State.setFn_logs (s : State) (i : Nat) (f : FnState) : (s.setFn i f).logs = s.logs := rfl
@[simp] theorem State.setFn_fuses (s : State) (i : Nat) (f : FnState) : (s.setFn i f).fuses = s.fuses := rfl
@[simp] theorem State.setFn_guard (s : State) (i : Nat) (f : FnState) : (s.setFn i f).guard = s.guard := rfl
@[simp] theorem State.setFn_fns (s : State) (i : Nat) (f : FnState) : (s.setFn i f).fns = s.fns.set i f := rfl
@[simp] theorem State.setFn_mgmt (s : State) (i : Nat) (f : FnState) : (s.setFn i f).mgmt = s.mgmt := rfl
@[simp] theorem State.setFn_queues (s : State) (i : Nat) (f : FnState) : (s.setFn i f).queues = s.queues := rfl
@[simp] theorem State.setFn_jobs (s : State) (i : Nat) (f : FnState) : (s.setFn i f).jobs = s.jobs := rfl
@[simp] theorem State.setFn_sched (s : State) (i : Nat) (f : FnState) : (s.setFn i f).sched = s.sched := rfl
@[simp] theorem State.setFn_keys (s : State) (i : Nat) (f : FnState) : (s.setFn i f).keys = s.keys := rfl
@[simp] theorem State.setFn_store (s : State) (i : Nat) (f : FnState) : (s.setFn i f).store = s.store := rfl
@[simp] theorem State.setFn_tables (s : State) (i : Nat) (f : FnState) : (s.setFn i f).tables = s.tables := rfl
@[simp] theorem State.setFn_dru (s : State) (i : Nat) (f : FnState) : (s.setFn i f).dru = s.dru := rfl
@[simp] theorem State.setFn_ent (s : State) (i : Nat) (f : FnState) : (s.setFn i f).ent = s.ent := rfl
@[simp] theorem State.setFn_flt (s : State) (i : Nat) (f : FnState) : (s.setFn i f).flt = s.flt := rfl
@[simp] theorem State.setFn_upd (s : State) (i : Nat) (f : FnState) : (s.setFn i f).upd = s.upd := rfl
@[simp] theorem State.setFn_nextJob (s : State) (i : Nat) (f : FnState) : (s.setFn i f).nextJob = s.nextJob := rfl
@[simp] theorem State.setFn_freeCtr (s : State) (i : Nat) (f : FnState) : (s.setFn i f).freeCtr = s.freeCtr := rfl
@[simp] theorem State.setFn_out (s : State) (i : Nat) (f : FnState) : (s.setFn i f).out = s.out := rfl
@[simp] theorem State.setFn_pending (s : State) (i : Nat) (f : FnState) : (s.setFn i f).pending = s.pending := rfl

@[simp] theorem State.mapFn_power (s : State) (i : Nat) (f : FnState → FnState) : (s.mapFn i f).power = s.power := rfl
@[simp] theorem State.mapFn_thermal (s : State) (i : Nat) (f : FnState → FnState) : (s.mapFn i f).thermal = s.thermal := rfl
@[simp] theorem State.mapFn_boot (s : State) (i : Nat) (f : FnState → FnState) : (s.mapFn i f).boot = s.boot := rfl
@[simp] theorem State.mapFn_keeper (s : State) (i : Nat) (f : FnState → FnState) : (s.mapFn i f).keeper = s.keeper := rfl
@[simp] theorem State.mapFn_logs (s : State) (i : Nat) (f : FnState → FnState) : (s.mapFn i f).logs = s.logs := rfl
@[simp] theorem State.mapFn_fuses (s : State) (i : Nat) (f : FnState → FnState) : (s.mapFn i f).fuses = s.fuses := rfl
@[simp] theorem State.mapFn_guard (s : State) (i : Nat) (f : FnState → FnState) : (s.mapFn i f).guard = s.guard := rfl
@[simp] theorem State.mapFn_fns (s : State) (i : Nat) (f : FnState → FnState) : (s.mapFn i f).fns = s.fns.set i (f (s.fn i)) := rfl
@[simp] theorem State.mapFn_mgmt (s : State) (i : Nat) (f : FnState → FnState) : (s.mapFn i f).mgmt = s.mgmt := rfl
@[simp] theorem State.mapFn_queues (s : State) (i : Nat) (f : FnState → FnState) : (s.mapFn i f).queues = s.queues := rfl
@[simp] theorem State.mapFn_jobs (s : State) (i : Nat) (f : FnState → FnState) : (s.mapFn i f).jobs = s.jobs := rfl
@[simp] theorem State.mapFn_sched (s : State) (i : Nat) (f : FnState → FnState) : (s.mapFn i f).sched = s.sched := rfl
@[simp] theorem State.mapFn_keys (s : State) (i : Nat) (f : FnState → FnState) : (s.mapFn i f).keys = s.keys := rfl
@[simp] theorem State.mapFn_store (s : State) (i : Nat) (f : FnState → FnState) : (s.mapFn i f).store = s.store := rfl
@[simp] theorem State.mapFn_tables (s : State) (i : Nat) (f : FnState → FnState) : (s.mapFn i f).tables = s.tables := rfl
@[simp] theorem State.mapFn_dru (s : State) (i : Nat) (f : FnState → FnState) : (s.mapFn i f).dru = s.dru := rfl
@[simp] theorem State.mapFn_ent (s : State) (i : Nat) (f : FnState → FnState) : (s.mapFn i f).ent = s.ent := rfl
@[simp] theorem State.mapFn_flt (s : State) (i : Nat) (f : FnState → FnState) : (s.mapFn i f).flt = s.flt := rfl
@[simp] theorem State.mapFn_upd (s : State) (i : Nat) (f : FnState → FnState) : (s.mapFn i f).upd = s.upd := rfl
@[simp] theorem State.mapFn_nextJob (s : State) (i : Nat) (f : FnState → FnState) : (s.mapFn i f).nextJob = s.nextJob := rfl
@[simp] theorem State.mapFn_freeCtr (s : State) (i : Nat) (f : FnState → FnState) : (s.mapFn i f).freeCtr = s.freeCtr := rfl
@[simp] theorem State.mapFn_out (s : State) (i : Nat) (f : FnState → FnState) : (s.mapFn i f).out = s.out := rfl
@[simp] theorem State.mapFn_pending (s : State) (i : Nat) (f : FnState → FnState) : (s.mapFn i f).pending = s.pending := rfl

@[simp] theorem State.setQueue_power (s : State) (q : Queue) : (s.setQueue q).power = s.power := rfl
@[simp] theorem State.setQueue_thermal (s : State) (q : Queue) : (s.setQueue q).thermal = s.thermal := rfl
@[simp] theorem State.setQueue_boot (s : State) (q : Queue) : (s.setQueue q).boot = s.boot := rfl
@[simp] theorem State.setQueue_keeper (s : State) (q : Queue) : (s.setQueue q).keeper = s.keeper := rfl
@[simp] theorem State.setQueue_logs (s : State) (q : Queue) : (s.setQueue q).logs = s.logs := rfl
@[simp] theorem State.setQueue_fuses (s : State) (q : Queue) : (s.setQueue q).fuses = s.fuses := rfl
@[simp] theorem State.setQueue_guard (s : State) (q : Queue) : (s.setQueue q).guard = s.guard := rfl
@[simp] theorem State.setQueue_fns (s : State) (q : Queue) : (s.setQueue q).fns = s.fns := rfl
@[simp] theorem State.setQueue_mgmt (s : State) (q : Queue) : (s.setQueue q).mgmt = s.mgmt := rfl
@[simp] theorem State.setQueue_jobs (s : State) (q : Queue) : (s.setQueue q).jobs = s.jobs := rfl
@[simp] theorem State.setQueue_sched (s : State) (q : Queue) : (s.setQueue q).sched = s.sched := rfl
@[simp] theorem State.setQueue_keys (s : State) (q : Queue) : (s.setQueue q).keys = s.keys := rfl
@[simp] theorem State.setQueue_store (s : State) (q : Queue) : (s.setQueue q).store = s.store := rfl
@[simp] theorem State.setQueue_tables (s : State) (q : Queue) : (s.setQueue q).tables = s.tables := rfl
@[simp] theorem State.setQueue_dru (s : State) (q : Queue) : (s.setQueue q).dru = s.dru := rfl
@[simp] theorem State.setQueue_ent (s : State) (q : Queue) : (s.setQueue q).ent = s.ent := rfl
@[simp] theorem State.setQueue_flt (s : State) (q : Queue) : (s.setQueue q).flt = s.flt := rfl
@[simp] theorem State.setQueue_upd (s : State) (q : Queue) : (s.setQueue q).upd = s.upd := rfl
@[simp] theorem State.setQueue_nextJob (s : State) (q : Queue) : (s.setQueue q).nextJob = s.nextJob := rfl
@[simp] theorem State.setQueue_freeCtr (s : State) (q : Queue) : (s.setQueue q).freeCtr = s.freeCtr := rfl
@[simp] theorem State.setQueue_out (s : State) (q : Queue) : (s.setQueue q).out = s.out := rfl
@[simp] theorem State.setQueue_pending (s : State) (q : Queue) : (s.setQueue q).pending = s.pending := rfl

@[simp] theorem State.mapQueue_power (s : State) (r : QRef) (f : Queue → Queue) : (s.mapQueue r f).power = s.power := rfl
@[simp] theorem State.mapQueue_thermal (s : State) (r : QRef) (f : Queue → Queue) : (s.mapQueue r f).thermal = s.thermal := rfl
@[simp] theorem State.mapQueue_boot (s : State) (r : QRef) (f : Queue → Queue) : (s.mapQueue r f).boot = s.boot := rfl
@[simp] theorem State.mapQueue_keeper (s : State) (r : QRef) (f : Queue → Queue) : (s.mapQueue r f).keeper = s.keeper := rfl
@[simp] theorem State.mapQueue_logs (s : State) (r : QRef) (f : Queue → Queue) : (s.mapQueue r f).logs = s.logs := rfl
@[simp] theorem State.mapQueue_fuses (s : State) (r : QRef) (f : Queue → Queue) : (s.mapQueue r f).fuses = s.fuses := rfl
@[simp] theorem State.mapQueue_guard (s : State) (r : QRef) (f : Queue → Queue) : (s.mapQueue r f).guard = s.guard := rfl
@[simp] theorem State.mapQueue_fns (s : State) (r : QRef) (f : Queue → Queue) : (s.mapQueue r f).fns = s.fns := rfl
@[simp] theorem State.mapQueue_mgmt (s : State) (r : QRef) (f : Queue → Queue) : (s.mapQueue r f).mgmt = s.mgmt := rfl
@[simp] theorem State.mapQueue_jobs (s : State) (r : QRef) (f : Queue → Queue) : (s.mapQueue r f).jobs = s.jobs := rfl
@[simp] theorem State.mapQueue_sched (s : State) (r : QRef) (f : Queue → Queue) : (s.mapQueue r f).sched = s.sched := rfl
@[simp] theorem State.mapQueue_keys (s : State) (r : QRef) (f : Queue → Queue) : (s.mapQueue r f).keys = s.keys := rfl
@[simp] theorem State.mapQueue_store (s : State) (r : QRef) (f : Queue → Queue) : (s.mapQueue r f).store = s.store := rfl
@[simp] theorem State.mapQueue_tables (s : State) (r : QRef) (f : Queue → Queue) : (s.mapQueue r f).tables = s.tables := rfl
@[simp] theorem State.mapQueue_dru (s : State) (r : QRef) (f : Queue → Queue) : (s.mapQueue r f).dru = s.dru := rfl
@[simp] theorem State.mapQueue_ent (s : State) (r : QRef) (f : Queue → Queue) : (s.mapQueue r f).ent = s.ent := rfl
@[simp] theorem State.mapQueue_flt (s : State) (r : QRef) (f : Queue → Queue) : (s.mapQueue r f).flt = s.flt := rfl
@[simp] theorem State.mapQueue_upd (s : State) (r : QRef) (f : Queue → Queue) : (s.mapQueue r f).upd = s.upd := rfl
@[simp] theorem State.mapQueue_nextJob (s : State) (r : QRef) (f : Queue → Queue) : (s.mapQueue r f).nextJob = s.nextJob := rfl
@[simp] theorem State.mapQueue_freeCtr (s : State) (r : QRef) (f : Queue → Queue) : (s.mapQueue r f).freeCtr = s.freeCtr := rfl
@[simp] theorem State.mapQueue_out (s : State) (r : QRef) (f : Queue → Queue) : (s.mapQueue r f).out = s.out := rfl
@[simp] theorem State.mapQueue_pending (s : State) (r : QRef) (f : Queue → Queue) : (s.mapQueue r f).pending = s.pending := rfl

@[simp] theorem State.dropQueue_power (s : State) (r : QRef) : (s.dropQueue r).power = s.power := rfl
@[simp] theorem State.dropQueue_thermal (s : State) (r : QRef) : (s.dropQueue r).thermal = s.thermal := rfl
@[simp] theorem State.dropQueue_boot (s : State) (r : QRef) : (s.dropQueue r).boot = s.boot := rfl
@[simp] theorem State.dropQueue_keeper (s : State) (r : QRef) : (s.dropQueue r).keeper = s.keeper := rfl
@[simp] theorem State.dropQueue_logs (s : State) (r : QRef) : (s.dropQueue r).logs = s.logs := rfl
@[simp] theorem State.dropQueue_fuses (s : State) (r : QRef) : (s.dropQueue r).fuses = s.fuses := rfl
@[simp] theorem State.dropQueue_guard (s : State) (r : QRef) : (s.dropQueue r).guard = s.guard := rfl
@[simp] theorem State.dropQueue_fns (s : State) (r : QRef) : (s.dropQueue r).fns = s.fns := rfl
@[simp] theorem State.dropQueue_mgmt (s : State) (r : QRef) : (s.dropQueue r).mgmt = s.mgmt := rfl
@[simp] theorem State.dropQueue_jobs (s : State) (r : QRef) : (s.dropQueue r).jobs = s.jobs := rfl
@[simp] theorem State.dropQueue_sched (s : State) (r : QRef) : (s.dropQueue r).sched = s.sched := rfl
@[simp] theorem State.dropQueue_keys (s : State) (r : QRef) : (s.dropQueue r).keys = s.keys := rfl
@[simp] theorem State.dropQueue_store (s : State) (r : QRef) : (s.dropQueue r).store = s.store := rfl
@[simp] theorem State.dropQueue_tables (s : State) (r : QRef) : (s.dropQueue r).tables = s.tables := rfl
@[simp] theorem State.dropQueue_dru (s : State) (r : QRef) : (s.dropQueue r).dru = s.dru := rfl
@[simp] theorem State.dropQueue_ent (s : State) (r : QRef) : (s.dropQueue r).ent = s.ent := rfl
@[simp] theorem State.dropQueue_flt (s : State) (r : QRef) : (s.dropQueue r).flt = s.flt := rfl
@[simp] theorem State.dropQueue_upd (s : State) (r : QRef) : (s.dropQueue r).upd = s.upd := rfl
@[simp] theorem State.dropQueue_nextJob (s : State) (r : QRef) : (s.dropQueue r).nextJob = s.nextJob := rfl
@[simp] theorem State.dropQueue_freeCtr (s : State) (r : QRef) : (s.dropQueue r).freeCtr = s.freeCtr := rfl
@[simp] theorem State.dropQueue_out (s : State) (r : QRef) : (s.dropQueue r).out = s.out := rfl
@[simp] theorem State.dropQueue_pending (s : State) (r : QRef) : (s.dropQueue r).pending = s.pending := rfl

@[simp] theorem State.putJob_power (s : State) (j : Job) : (s.putJob j).power = s.power := rfl
@[simp] theorem State.putJob_thermal (s : State) (j : Job) : (s.putJob j).thermal = s.thermal := rfl
@[simp] theorem State.putJob_boot (s : State) (j : Job) : (s.putJob j).boot = s.boot := rfl
@[simp] theorem State.putJob_keeper (s : State) (j : Job) : (s.putJob j).keeper = s.keeper := rfl
@[simp] theorem State.putJob_logs (s : State) (j : Job) : (s.putJob j).logs = s.logs := rfl
@[simp] theorem State.putJob_fuses (s : State) (j : Job) : (s.putJob j).fuses = s.fuses := rfl
@[simp] theorem State.putJob_guard (s : State) (j : Job) : (s.putJob j).guard = s.guard := rfl
@[simp] theorem State.putJob_fns (s : State) (j : Job) : (s.putJob j).fns = s.fns := rfl
@[simp] theorem State.putJob_mgmt (s : State) (j : Job) : (s.putJob j).mgmt = s.mgmt := rfl
@[simp] theorem State.putJob_queues (s : State) (j : Job) : (s.putJob j).queues = s.queues := rfl
@[simp] theorem State.putJob_sched (s : State) (j : Job) : (s.putJob j).sched = s.sched := rfl
@[simp] theorem State.putJob_keys (s : State) (j : Job) : (s.putJob j).keys = s.keys := rfl
@[simp] theorem State.putJob_store (s : State) (j : Job) : (s.putJob j).store = s.store := rfl
@[simp] theorem State.putJob_tables (s : State) (j : Job) : (s.putJob j).tables = s.tables := rfl
@[simp] theorem State.putJob_dru (s : State) (j : Job) : (s.putJob j).dru = s.dru := rfl
@[simp] theorem State.putJob_ent (s : State) (j : Job) : (s.putJob j).ent = s.ent := rfl
@[simp] theorem State.putJob_flt (s : State) (j : Job) : (s.putJob j).flt = s.flt := rfl
@[simp] theorem State.putJob_upd (s : State) (j : Job) : (s.putJob j).upd = s.upd := rfl
@[simp] theorem State.putJob_nextJob (s : State) (j : Job) : (s.putJob j).nextJob = s.nextJob := rfl
@[simp] theorem State.putJob_freeCtr (s : State) (j : Job) : (s.putJob j).freeCtr = s.freeCtr := rfl
@[simp] theorem State.putJob_out (s : State) (j : Job) : (s.putJob j).out = s.out := rfl
@[simp] theorem State.putJob_pending (s : State) (j : Job) : (s.putJob j).pending = s.pending := rfl

@[simp] theorem State.dropJob_power (s : State) (id : Nat) : (s.dropJob id).power = s.power := rfl
@[simp] theorem State.dropJob_thermal (s : State) (id : Nat) : (s.dropJob id).thermal = s.thermal := rfl
@[simp] theorem State.dropJob_boot (s : State) (id : Nat) : (s.dropJob id).boot = s.boot := rfl
@[simp] theorem State.dropJob_keeper (s : State) (id : Nat) : (s.dropJob id).keeper = s.keeper := rfl
@[simp] theorem State.dropJob_logs (s : State) (id : Nat) : (s.dropJob id).logs = s.logs := rfl
@[simp] theorem State.dropJob_fuses (s : State) (id : Nat) : (s.dropJob id).fuses = s.fuses := rfl
@[simp] theorem State.dropJob_guard (s : State) (id : Nat) : (s.dropJob id).guard = s.guard := rfl
@[simp] theorem State.dropJob_fns (s : State) (id : Nat) : (s.dropJob id).fns = s.fns := rfl
@[simp] theorem State.dropJob_mgmt (s : State) (id : Nat) : (s.dropJob id).mgmt = s.mgmt := rfl
@[simp] theorem State.dropJob_queues (s : State) (id : Nat) : (s.dropJob id).queues = s.queues := rfl
@[simp] theorem State.dropJob_sched (s : State) (id : Nat) : (s.dropJob id).sched = s.sched := rfl
@[simp] theorem State.dropJob_keys (s : State) (id : Nat) : (s.dropJob id).keys = s.keys := rfl
@[simp] theorem State.dropJob_store (s : State) (id : Nat) : (s.dropJob id).store = s.store := rfl
@[simp] theorem State.dropJob_tables (s : State) (id : Nat) : (s.dropJob id).tables = s.tables := rfl
@[simp] theorem State.dropJob_dru (s : State) (id : Nat) : (s.dropJob id).dru = s.dru := rfl
@[simp] theorem State.dropJob_ent (s : State) (id : Nat) : (s.dropJob id).ent = s.ent := rfl
@[simp] theorem State.dropJob_flt (s : State) (id : Nat) : (s.dropJob id).flt = s.flt := rfl
@[simp] theorem State.dropJob_upd (s : State) (id : Nat) : (s.dropJob id).upd = s.upd := rfl
@[simp] theorem State.dropJob_nextJob (s : State) (id : Nat) : (s.dropJob id).nextJob = s.nextJob := rfl
@[simp] theorem State.dropJob_freeCtr (s : State) (id : Nat) : (s.dropJob id).freeCtr = s.freeCtr := rfl
@[simp] theorem State.dropJob_out (s : State) (id : Nat) : (s.dropJob id).out = s.out := rfl
@[simp] theorem State.dropJob_pending (s : State) (id : Nat) : (s.dropJob id).pending = s.pending := rfl

@[simp] theorem State.mapJob_power (s : State) (id : Nat) (f : Job → Job) : (s.mapJob id f).power = s.power := rfl
@[simp] theorem State.mapJob_thermal (s : State) (id : Nat) (f : Job → Job) : (s.mapJob id f).thermal = s.thermal := rfl
@[simp] theorem State.mapJob_boot (s : State) (id : Nat) (f : Job → Job) : (s.mapJob id f).boot = s.boot := rfl
@[simp] theorem State.mapJob_keeper (s : State) (id : Nat) (f : Job → Job) : (s.mapJob id f).keeper = s.keeper := rfl
@[simp] theorem State.mapJob_logs (s : State) (id : Nat) (f : Job → Job) : (s.mapJob id f).logs = s.logs := rfl
@[simp] theorem State.mapJob_fuses (s : State) (id : Nat) (f : Job → Job) : (s.mapJob id f).fuses = s.fuses := rfl
@[simp] theorem State.mapJob_guard (s : State) (id : Nat) (f : Job → Job) : (s.mapJob id f).guard = s.guard := rfl
@[simp] theorem State.mapJob_fns (s : State) (id : Nat) (f : Job → Job) : (s.mapJob id f).fns = s.fns := rfl
@[simp] theorem State.mapJob_mgmt (s : State) (id : Nat) (f : Job → Job) : (s.mapJob id f).mgmt = s.mgmt := rfl
@[simp] theorem State.mapJob_queues (s : State) (id : Nat) (f : Job → Job) : (s.mapJob id f).queues = s.queues := rfl
@[simp] theorem State.mapJob_jobs (s : State) (id : Nat) (f : Job → Job) : (s.mapJob id f).jobs = s.jobs.map fun x => if x.id = id then f x else x := rfl
@[simp] theorem State.mapJob_sched (s : State) (id : Nat) (f : Job → Job) : (s.mapJob id f).sched = s.sched := rfl
@[simp] theorem State.mapJob_keys (s : State) (id : Nat) (f : Job → Job) : (s.mapJob id f).keys = s.keys := rfl
@[simp] theorem State.mapJob_store (s : State) (id : Nat) (f : Job → Job) : (s.mapJob id f).store = s.store := rfl
@[simp] theorem State.mapJob_tables (s : State) (id : Nat) (f : Job → Job) : (s.mapJob id f).tables = s.tables := rfl
@[simp] theorem State.mapJob_dru (s : State) (id : Nat) (f : Job → Job) : (s.mapJob id f).dru = s.dru := rfl
@[simp] theorem State.mapJob_ent (s : State) (id : Nat) (f : Job → Job) : (s.mapJob id f).ent = s.ent := rfl
@[simp] theorem State.mapJob_flt (s : State) (id : Nat) (f : Job → Job) : (s.mapJob id f).flt = s.flt := rfl
@[simp] theorem State.mapJob_upd (s : State) (id : Nat) (f : Job → Job) : (s.mapJob id f).upd = s.upd := rfl
@[simp] theorem State.mapJob_nextJob (s : State) (id : Nat) (f : Job → Job) : (s.mapJob id f).nextJob = s.nextJob := rfl
@[simp] theorem State.mapJob_freeCtr (s : State) (id : Nat) (f : Job → Job) : (s.mapJob id f).freeCtr = s.freeCtr := rfl
@[simp] theorem State.mapJob_out (s : State) (id : Nat) (f : Job → Job) : (s.mapJob id f).out = s.out := rfl
@[simp] theorem State.mapJob_pending (s : State) (id : Nat) (f : Job → Job) : (s.mapJob id f).pending = s.pending := rfl

@[simp] theorem State.mapJobs_power (s : State) (p : Job → Bool) (f : Job → Job) : (s.mapJobs p f).power = s.power := rfl
@[simp] theorem State.mapJobs_thermal (s : State) (p : Job → Bool) (f : Job → Job) : (s.mapJobs p f).thermal = s.thermal := rfl
@[simp] theorem State.mapJobs_boot (s : State) (p : Job → Bool) (f : Job → Job) : (s.mapJobs p f).boot = s.boot := rfl
@[simp] theorem State.mapJobs_keeper (s : State) (p : Job → Bool) (f : Job → Job) : (s.mapJobs p f).keeper = s.keeper := rfl
@[simp] theorem State.mapJobs_logs (s : State) (p : Job → Bool) (f : Job → Job) : (s.mapJobs p f).logs = s.logs := rfl
@[simp] theorem State.mapJobs_fuses (s : State) (p : Job → Bool) (f : Job → Job) : (s.mapJobs p f).fuses = s.fuses := rfl
@[simp] theorem State.mapJobs_guard (s : State) (p : Job → Bool) (f : Job → Job) : (s.mapJobs p f).guard = s.guard := rfl
@[simp] theorem State.mapJobs_fns (s : State) (p : Job → Bool) (f : Job → Job) : (s.mapJobs p f).fns = s.fns := rfl
@[simp] theorem State.mapJobs_mgmt (s : State) (p : Job → Bool) (f : Job → Job) : (s.mapJobs p f).mgmt = s.mgmt := rfl
@[simp] theorem State.mapJobs_queues (s : State) (p : Job → Bool) (f : Job → Job) : (s.mapJobs p f).queues = s.queues := rfl
@[simp] theorem State.mapJobs_jobs (s : State) (p : Job → Bool) (f : Job → Job) : (s.mapJobs p f).jobs = s.jobs.map fun x => if p x then f x else x := rfl
@[simp] theorem State.mapJobs_sched (s : State) (p : Job → Bool) (f : Job → Job) : (s.mapJobs p f).sched = s.sched := rfl
@[simp] theorem State.mapJobs_keys (s : State) (p : Job → Bool) (f : Job → Job) : (s.mapJobs p f).keys = s.keys := rfl
@[simp] theorem State.mapJobs_store (s : State) (p : Job → Bool) (f : Job → Job) : (s.mapJobs p f).store = s.store := rfl
@[simp] theorem State.mapJobs_tables (s : State) (p : Job → Bool) (f : Job → Job) : (s.mapJobs p f).tables = s.tables := rfl
@[simp] theorem State.mapJobs_dru (s : State) (p : Job → Bool) (f : Job → Job) : (s.mapJobs p f).dru = s.dru := rfl
@[simp] theorem State.mapJobs_ent (s : State) (p : Job → Bool) (f : Job → Job) : (s.mapJobs p f).ent = s.ent := rfl
@[simp] theorem State.mapJobs_flt (s : State) (p : Job → Bool) (f : Job → Job) : (s.mapJobs p f).flt = s.flt := rfl
@[simp] theorem State.mapJobs_upd (s : State) (p : Job → Bool) (f : Job → Job) : (s.mapJobs p f).upd = s.upd := rfl
@[simp] theorem State.mapJobs_nextJob (s : State) (p : Job → Bool) (f : Job → Job) : (s.mapJobs p f).nextJob = s.nextJob := rfl
@[simp] theorem State.mapJobs_freeCtr (s : State) (p : Job → Bool) (f : Job → Job) : (s.mapJobs p f).freeCtr = s.freeCtr := rfl
@[simp] theorem State.mapJobs_out (s : State) (p : Job → Bool) (f : Job → Job) : (s.mapJobs p f).out = s.out := rfl
@[simp] theorem State.mapJobs_pending (s : State) (p : Job → Bool) (f : Job → Job) : (s.mapJobs p f).pending = s.pending := rfl

@[simp] theorem State.mapArb_power (s : State) (c : UnitClass) (f : Arb → Arb) : (s.mapArb c f).power = s.power := rfl
@[simp] theorem State.mapArb_thermal (s : State) (c : UnitClass) (f : Arb → Arb) : (s.mapArb c f).thermal = s.thermal := rfl
@[simp] theorem State.mapArb_boot (s : State) (c : UnitClass) (f : Arb → Arb) : (s.mapArb c f).boot = s.boot := rfl
@[simp] theorem State.mapArb_keeper (s : State) (c : UnitClass) (f : Arb → Arb) : (s.mapArb c f).keeper = s.keeper := rfl
@[simp] theorem State.mapArb_logs (s : State) (c : UnitClass) (f : Arb → Arb) : (s.mapArb c f).logs = s.logs := rfl
@[simp] theorem State.mapArb_fuses (s : State) (c : UnitClass) (f : Arb → Arb) : (s.mapArb c f).fuses = s.fuses := rfl
@[simp] theorem State.mapArb_guard (s : State) (c : UnitClass) (f : Arb → Arb) : (s.mapArb c f).guard = s.guard := rfl
@[simp] theorem State.mapArb_fns (s : State) (c : UnitClass) (f : Arb → Arb) : (s.mapArb c f).fns = s.fns := rfl
@[simp] theorem State.mapArb_mgmt (s : State) (c : UnitClass) (f : Arb → Arb) : (s.mapArb c f).mgmt = s.mgmt := rfl
@[simp] theorem State.mapArb_queues (s : State) (c : UnitClass) (f : Arb → Arb) : (s.mapArb c f).queues = s.queues := rfl
@[simp] theorem State.mapArb_jobs (s : State) (c : UnitClass) (f : Arb → Arb) : (s.mapArb c f).jobs = s.jobs := rfl
@[simp] theorem State.mapArb_keys (s : State) (c : UnitClass) (f : Arb → Arb) : (s.mapArb c f).keys = s.keys := rfl
@[simp] theorem State.mapArb_store (s : State) (c : UnitClass) (f : Arb → Arb) : (s.mapArb c f).store = s.store := rfl
@[simp] theorem State.mapArb_tables (s : State) (c : UnitClass) (f : Arb → Arb) : (s.mapArb c f).tables = s.tables := rfl
@[simp] theorem State.mapArb_dru (s : State) (c : UnitClass) (f : Arb → Arb) : (s.mapArb c f).dru = s.dru := rfl
@[simp] theorem State.mapArb_ent (s : State) (c : UnitClass) (f : Arb → Arb) : (s.mapArb c f).ent = s.ent := rfl
@[simp] theorem State.mapArb_flt (s : State) (c : UnitClass) (f : Arb → Arb) : (s.mapArb c f).flt = s.flt := rfl
@[simp] theorem State.mapArb_upd (s : State) (c : UnitClass) (f : Arb → Arb) : (s.mapArb c f).upd = s.upd := rfl
@[simp] theorem State.mapArb_nextJob (s : State) (c : UnitClass) (f : Arb → Arb) : (s.mapArb c f).nextJob = s.nextJob := rfl
@[simp] theorem State.mapArb_freeCtr (s : State) (c : UnitClass) (f : Arb → Arb) : (s.mapArb c f).freeCtr = s.freeCtr := rfl
@[simp] theorem State.mapArb_out (s : State) (c : UnitClass) (f : Arb → Arb) : (s.mapArb c f).out = s.out := rfl
@[simp] theorem State.mapArb_pending (s : State) (c : UnitClass) (f : Arb → Arb) : (s.mapArb c f).pending = s.pending := rfl

@[simp] theorem State.leavePort_power (s : State) (id : Nat) : (s.leavePort id).power = s.power := rfl
@[simp] theorem State.leavePort_thermal (s : State) (id : Nat) : (s.leavePort id).thermal = s.thermal := rfl
@[simp] theorem State.leavePort_boot (s : State) (id : Nat) : (s.leavePort id).boot = s.boot := rfl
@[simp] theorem State.leavePort_keeper (s : State) (id : Nat) : (s.leavePort id).keeper = s.keeper := rfl
@[simp] theorem State.leavePort_logs (s : State) (id : Nat) : (s.leavePort id).logs = s.logs := rfl
@[simp] theorem State.leavePort_fuses (s : State) (id : Nat) : (s.leavePort id).fuses = s.fuses := rfl
@[simp] theorem State.leavePort_guard (s : State) (id : Nat) : (s.leavePort id).guard = s.guard := rfl
@[simp] theorem State.leavePort_fns (s : State) (id : Nat) : (s.leavePort id).fns = s.fns := rfl
@[simp] theorem State.leavePort_mgmt (s : State) (id : Nat) : (s.leavePort id).mgmt = s.mgmt := rfl
@[simp] theorem State.leavePort_queues (s : State) (id : Nat) : (s.leavePort id).queues = s.queues := rfl
@[simp] theorem State.leavePort_jobs (s : State) (id : Nat) : (s.leavePort id).jobs = s.jobs := rfl
@[simp] theorem State.leavePort_sched (s : State) (id : Nat) : (s.leavePort id).sched = s.sched := rfl
@[simp] theorem State.leavePort_keys (s : State) (id : Nat) : (s.leavePort id).keys = s.keys := rfl
@[simp] theorem State.leavePort_store (s : State) (id : Nat) : (s.leavePort id).store = s.store := rfl
@[simp] theorem State.leavePort_dru (s : State) (id : Nat) : (s.leavePort id).dru = s.dru := rfl
@[simp] theorem State.leavePort_ent (s : State) (id : Nat) : (s.leavePort id).ent = s.ent := rfl
@[simp] theorem State.leavePort_flt (s : State) (id : Nat) : (s.leavePort id).flt = s.flt := rfl
@[simp] theorem State.leavePort_upd (s : State) (id : Nat) : (s.leavePort id).upd = s.upd := rfl
@[simp] theorem State.leavePort_nextJob (s : State) (id : Nat) : (s.leavePort id).nextJob = s.nextJob := rfl
@[simp] theorem State.leavePort_freeCtr (s : State) (id : Nat) : (s.leavePort id).freeCtr = s.freeCtr := rfl
@[simp] theorem State.leavePort_out (s : State) (id : Nat) : (s.leavePort id).out = s.out := rfl
@[simp] theorem State.leavePort_pending (s : State) (id : Nat) : (s.leavePort id).pending = s.pending := rfl

@[simp] theorem State.finish_power (s : State) (id : Nat) (st : Status) (r : BitVec 64) (b : Bytes) (n : Nat) : (s.finish id st r b n).power = s.power := rfl
@[simp] theorem State.finish_thermal (s : State) (id : Nat) (st : Status) (r : BitVec 64) (b : Bytes) (n : Nat) : (s.finish id st r b n).thermal = s.thermal := rfl
@[simp] theorem State.finish_boot (s : State) (id : Nat) (st : Status) (r : BitVec 64) (b : Bytes) (n : Nat) : (s.finish id st r b n).boot = s.boot := rfl
@[simp] theorem State.finish_keeper (s : State) (id : Nat) (st : Status) (r : BitVec 64) (b : Bytes) (n : Nat) : (s.finish id st r b n).keeper = s.keeper := rfl
@[simp] theorem State.finish_logs (s : State) (id : Nat) (st : Status) (r : BitVec 64) (b : Bytes) (n : Nat) : (s.finish id st r b n).logs = s.logs := rfl
@[simp] theorem State.finish_fuses (s : State) (id : Nat) (st : Status) (r : BitVec 64) (b : Bytes) (n : Nat) : (s.finish id st r b n).fuses = s.fuses := rfl
@[simp] theorem State.finish_guard (s : State) (id : Nat) (st : Status) (r : BitVec 64) (b : Bytes) (n : Nat) : (s.finish id st r b n).guard = s.guard := rfl
@[simp] theorem State.finish_fns (s : State) (id : Nat) (st : Status) (r : BitVec 64) (b : Bytes) (n : Nat) : (s.finish id st r b n).fns = s.fns := rfl
@[simp] theorem State.finish_mgmt (s : State) (id : Nat) (st : Status) (r : BitVec 64) (b : Bytes) (n : Nat) : (s.finish id st r b n).mgmt = s.mgmt := rfl
@[simp] theorem State.finish_queues (s : State) (id : Nat) (st : Status) (r : BitVec 64) (b : Bytes) (n : Nat) : (s.finish id st r b n).queues = s.queues := rfl
@[simp] theorem State.finish_sched (s : State) (id : Nat) (st : Status) (r : BitVec 64) (b : Bytes) (n : Nat) : (s.finish id st r b n).sched = s.sched := rfl
@[simp] theorem State.finish_keys (s : State) (id : Nat) (st : Status) (r : BitVec 64) (b : Bytes) (n : Nat) : (s.finish id st r b n).keys = s.keys := rfl
@[simp] theorem State.finish_store (s : State) (id : Nat) (st : Status) (r : BitVec 64) (b : Bytes) (n : Nat) : (s.finish id st r b n).store = s.store := rfl
@[simp] theorem State.finish_dru (s : State) (id : Nat) (st : Status) (r : BitVec 64) (b : Bytes) (n : Nat) : (s.finish id st r b n).dru = s.dru := rfl
@[simp] theorem State.finish_ent (s : State) (id : Nat) (st : Status) (r : BitVec 64) (b : Bytes) (n : Nat) : (s.finish id st r b n).ent = s.ent := rfl
@[simp] theorem State.finish_flt (s : State) (id : Nat) (st : Status) (r : BitVec 64) (b : Bytes) (n : Nat) : (s.finish id st r b n).flt = s.flt := rfl
@[simp] theorem State.finish_upd (s : State) (id : Nat) (st : Status) (r : BitVec 64) (b : Bytes) (n : Nat) : (s.finish id st r b n).upd = s.upd := rfl
@[simp] theorem State.finish_nextJob (s : State) (id : Nat) (st : Status) (r : BitVec 64) (b : Bytes) (n : Nat) : (s.finish id st r b n).nextJob = s.nextJob := rfl
@[simp] theorem State.finish_freeCtr (s : State) (id : Nat) (st : Status) (r : BitVec 64) (b : Bytes) (n : Nat) : (s.finish id st r b n).freeCtr = s.freeCtr := rfl
@[simp] theorem State.finish_out (s : State) (id : Nat) (st : Status) (r : BitVec 64) (b : Bytes) (n : Nat) : (s.finish id st r b n).out = s.out := rfl
@[simp] theorem State.finish_pending (s : State) (id : Nat) (st : Status) (r : BitVec 64) (b : Bytes) (n : Nat) : (s.finish id st r b n).pending = s.pending := rfl

@[simp] theorem State.fail_power (s : State) (j : Job) (st : Status) (n : Nat) : (s.fail j st n).power = s.power := rfl
@[simp] theorem State.fail_thermal (s : State) (j : Job) (st : Status) (n : Nat) : (s.fail j st n).thermal = s.thermal := rfl
@[simp] theorem State.fail_boot (s : State) (j : Job) (st : Status) (n : Nat) : (s.fail j st n).boot = s.boot := rfl
@[simp] theorem State.fail_keeper (s : State) (j : Job) (st : Status) (n : Nat) : (s.fail j st n).keeper = s.keeper := rfl
@[simp] theorem State.fail_logs (s : State) (j : Job) (st : Status) (n : Nat) : (s.fail j st n).logs = s.logs := rfl
@[simp] theorem State.fail_fuses (s : State) (j : Job) (st : Status) (n : Nat) : (s.fail j st n).fuses = s.fuses := rfl
@[simp] theorem State.fail_guard (s : State) (j : Job) (st : Status) (n : Nat) : (s.fail j st n).guard = s.guard := rfl
@[simp] theorem State.fail_fns (s : State) (j : Job) (st : Status) (n : Nat) : (s.fail j st n).fns = s.fns := rfl
@[simp] theorem State.fail_mgmt (s : State) (j : Job) (st : Status) (n : Nat) : (s.fail j st n).mgmt = s.mgmt := rfl
@[simp] theorem State.fail_queues (s : State) (j : Job) (st : Status) (n : Nat) : (s.fail j st n).queues = s.queues := rfl
@[simp] theorem State.fail_sched (s : State) (j : Job) (st : Status) (n : Nat) : (s.fail j st n).sched = s.sched := rfl
@[simp] theorem State.fail_keys (s : State) (j : Job) (st : Status) (n : Nat) : (s.fail j st n).keys = s.keys := rfl
@[simp] theorem State.fail_store (s : State) (j : Job) (st : Status) (n : Nat) : (s.fail j st n).store = s.store := rfl
@[simp] theorem State.fail_dru (s : State) (j : Job) (st : Status) (n : Nat) : (s.fail j st n).dru = s.dru := rfl
@[simp] theorem State.fail_ent (s : State) (j : Job) (st : Status) (n : Nat) : (s.fail j st n).ent = s.ent := rfl
@[simp] theorem State.fail_flt (s : State) (j : Job) (st : Status) (n : Nat) : (s.fail j st n).flt = s.flt := rfl
@[simp] theorem State.fail_upd (s : State) (j : Job) (st : Status) (n : Nat) : (s.fail j st n).upd = s.upd := rfl
@[simp] theorem State.fail_nextJob (s : State) (j : Job) (st : Status) (n : Nat) : (s.fail j st n).nextJob = s.nextJob := rfl
@[simp] theorem State.fail_freeCtr (s : State) (j : Job) (st : Status) (n : Nat) : (s.fail j st n).freeCtr = s.freeCtr := rfl
@[simp] theorem State.fail_out (s : State) (j : Job) (st : Status) (n : Nat) : (s.fail j st n).out = s.out := rfl
@[simp] theorem State.fail_pending (s : State) (j : Job) (st : Status) (n : Nat) : (s.fail j st n).pending = s.pending := rfl

@[simp] theorem State.done_power (s : State) (j : Job) (r : Nat) (b : Bytes) (n : Nat) : (s.done j r b n).power = s.power := rfl
@[simp] theorem State.done_thermal (s : State) (j : Job) (r : Nat) (b : Bytes) (n : Nat) : (s.done j r b n).thermal = s.thermal := rfl
@[simp] theorem State.done_boot (s : State) (j : Job) (r : Nat) (b : Bytes) (n : Nat) : (s.done j r b n).boot = s.boot := rfl
@[simp] theorem State.done_keeper (s : State) (j : Job) (r : Nat) (b : Bytes) (n : Nat) : (s.done j r b n).keeper = s.keeper := rfl
@[simp] theorem State.done_logs (s : State) (j : Job) (r : Nat) (b : Bytes) (n : Nat) : (s.done j r b n).logs = s.logs := rfl
@[simp] theorem State.done_fuses (s : State) (j : Job) (r : Nat) (b : Bytes) (n : Nat) : (s.done j r b n).fuses = s.fuses := rfl
@[simp] theorem State.done_guard (s : State) (j : Job) (r : Nat) (b : Bytes) (n : Nat) : (s.done j r b n).guard = s.guard := rfl
@[simp] theorem State.done_fns (s : State) (j : Job) (r : Nat) (b : Bytes) (n : Nat) : (s.done j r b n).fns = s.fns := rfl
@[simp] theorem State.done_mgmt (s : State) (j : Job) (r : Nat) (b : Bytes) (n : Nat) : (s.done j r b n).mgmt = s.mgmt := rfl
@[simp] theorem State.done_queues (s : State) (j : Job) (r : Nat) (b : Bytes) (n : Nat) : (s.done j r b n).queues = s.queues := rfl
@[simp] theorem State.done_sched (s : State) (j : Job) (r : Nat) (b : Bytes) (n : Nat) : (s.done j r b n).sched = s.sched := rfl
@[simp] theorem State.done_keys (s : State) (j : Job) (r : Nat) (b : Bytes) (n : Nat) : (s.done j r b n).keys = s.keys := rfl
@[simp] theorem State.done_store (s : State) (j : Job) (r : Nat) (b : Bytes) (n : Nat) : (s.done j r b n).store = s.store := rfl
@[simp] theorem State.done_dru (s : State) (j : Job) (r : Nat) (b : Bytes) (n : Nat) : (s.done j r b n).dru = s.dru := rfl
@[simp] theorem State.done_ent (s : State) (j : Job) (r : Nat) (b : Bytes) (n : Nat) : (s.done j r b n).ent = s.ent := rfl
@[simp] theorem State.done_flt (s : State) (j : Job) (r : Nat) (b : Bytes) (n : Nat) : (s.done j r b n).flt = s.flt := rfl
@[simp] theorem State.done_upd (s : State) (j : Job) (r : Nat) (b : Bytes) (n : Nat) : (s.done j r b n).upd = s.upd := rfl
@[simp] theorem State.done_nextJob (s : State) (j : Job) (r : Nat) (b : Bytes) (n : Nat) : (s.done j r b n).nextJob = s.nextJob := rfl
@[simp] theorem State.done_freeCtr (s : State) (j : Job) (r : Nat) (b : Bytes) (n : Nat) : (s.done j r b n).freeCtr = s.freeCtr := rfl
@[simp] theorem State.done_out (s : State) (j : Job) (r : Nat) (b : Bytes) (n : Nat) : (s.done j r b n).out = s.out := rfl
@[simp] theorem State.done_pending (s : State) (j : Job) (r : Nat) (b : Bytes) (n : Nat) : (s.done j r b n).pending = s.pending := rfl

@[simp] theorem State.endWith_power (s : State) (j : Job) (st : Status) (r n : Nat) : (s.endWith j st r n).power = s.power := rfl
@[simp] theorem State.endWith_thermal (s : State) (j : Job) (st : Status) (r n : Nat) : (s.endWith j st r n).thermal = s.thermal := rfl
@[simp] theorem State.endWith_boot (s : State) (j : Job) (st : Status) (r n : Nat) : (s.endWith j st r n).boot = s.boot := rfl
@[simp] theorem State.endWith_keeper (s : State) (j : Job) (st : Status) (r n : Nat) : (s.endWith j st r n).keeper = s.keeper := rfl
@[simp] theorem State.endWith_logs (s : State) (j : Job) (st : Status) (r n : Nat) : (s.endWith j st r n).logs = s.logs := rfl
@[simp] theorem State.endWith_fuses (s : State) (j : Job) (st : Status) (r n : Nat) : (s.endWith j st r n).fuses = s.fuses := rfl
@[simp] theorem State.endWith_guard (s : State) (j : Job) (st : Status) (r n : Nat) : (s.endWith j st r n).guard = s.guard := rfl
@[simp] theorem State.endWith_fns (s : State) (j : Job) (st : Status) (r n : Nat) : (s.endWith j st r n).fns = s.fns := rfl
@[simp] theorem State.endWith_mgmt (s : State) (j : Job) (st : Status) (r n : Nat) : (s.endWith j st r n).mgmt = s.mgmt := rfl
@[simp] theorem State.endWith_queues (s : State) (j : Job) (st : Status) (r n : Nat) : (s.endWith j st r n).queues = s.queues := rfl
@[simp] theorem State.endWith_sched (s : State) (j : Job) (st : Status) (r n : Nat) : (s.endWith j st r n).sched = s.sched := rfl
@[simp] theorem State.endWith_keys (s : State) (j : Job) (st : Status) (r n : Nat) : (s.endWith j st r n).keys = s.keys := rfl
@[simp] theorem State.endWith_store (s : State) (j : Job) (st : Status) (r n : Nat) : (s.endWith j st r n).store = s.store := rfl
@[simp] theorem State.endWith_dru (s : State) (j : Job) (st : Status) (r n : Nat) : (s.endWith j st r n).dru = s.dru := rfl
@[simp] theorem State.endWith_ent (s : State) (j : Job) (st : Status) (r n : Nat) : (s.endWith j st r n).ent = s.ent := rfl
@[simp] theorem State.endWith_flt (s : State) (j : Job) (st : Status) (r n : Nat) : (s.endWith j st r n).flt = s.flt := rfl
@[simp] theorem State.endWith_upd (s : State) (j : Job) (st : Status) (r n : Nat) : (s.endWith j st r n).upd = s.upd := rfl
@[simp] theorem State.endWith_nextJob (s : State) (j : Job) (st : Status) (r n : Nat) : (s.endWith j st r n).nextJob = s.nextJob := rfl
@[simp] theorem State.endWith_freeCtr (s : State) (j : Job) (st : Status) (r n : Nat) : (s.endWith j st r n).freeCtr = s.freeCtr := rfl
@[simp] theorem State.endWith_out (s : State) (j : Job) (st : Status) (r n : Nat) : (s.endWith j st r n).out = s.out := rfl
@[simp] theorem State.endWith_pending (s : State) (j : Job) (st : Status) (r n : Nat) : (s.endWith j st r n).pending = s.pending := rfl

@[simp] theorem State.countEvt_power (s : State) (b i : Nat) : (s.countEvt b i).power = s.power := rfl
@[simp] theorem State.countEvt_thermal (s : State) (b i : Nat) : (s.countEvt b i).thermal = s.thermal := rfl
@[simp] theorem State.countEvt_boot (s : State) (b i : Nat) : (s.countEvt b i).boot = s.boot := rfl
@[simp] theorem State.countEvt_keeper (s : State) (b i : Nat) : (s.countEvt b i).keeper = s.keeper := rfl
@[simp] theorem State.countEvt_logs (s : State) (b i : Nat) : (s.countEvt b i).logs = s.logs := rfl
@[simp] theorem State.countEvt_fuses (s : State) (b i : Nat) : (s.countEvt b i).fuses = s.fuses := rfl
@[simp] theorem State.countEvt_guard (s : State) (b i : Nat) : (s.countEvt b i).guard = s.guard := rfl
@[simp] theorem State.countEvt_fns (s : State) (b i : Nat) : (s.countEvt b i).fns = s.fns := rfl
@[simp] theorem State.countEvt_mgmt (s : State) (b i : Nat) : (s.countEvt b i).mgmt = s.mgmt := rfl
@[simp] theorem State.countEvt_queues (s : State) (b i : Nat) : (s.countEvt b i).queues = s.queues := rfl
@[simp] theorem State.countEvt_jobs (s : State) (b i : Nat) : (s.countEvt b i).jobs = s.jobs := rfl
@[simp] theorem State.countEvt_sched (s : State) (b i : Nat) : (s.countEvt b i).sched = s.sched := rfl
@[simp] theorem State.countEvt_keys (s : State) (b i : Nat) : (s.countEvt b i).keys = s.keys := rfl
@[simp] theorem State.countEvt_store (s : State) (b i : Nat) : (s.countEvt b i).store = s.store := rfl
@[simp] theorem State.countEvt_tables (s : State) (b i : Nat) : (s.countEvt b i).tables = s.tables := rfl
@[simp] theorem State.countEvt_dru (s : State) (b i : Nat) : (s.countEvt b i).dru = s.dru := rfl
@[simp] theorem State.countEvt_ent (s : State) (b i : Nat) : (s.countEvt b i).ent = s.ent := rfl
@[simp] theorem State.countEvt_upd (s : State) (b i : Nat) : (s.countEvt b i).upd = s.upd := rfl
@[simp] theorem State.countEvt_nextJob (s : State) (b i : Nat) : (s.countEvt b i).nextJob = s.nextJob := rfl
@[simp] theorem State.countEvt_freeCtr (s : State) (b i : Nat) : (s.countEvt b i).freeCtr = s.freeCtr := rfl
@[simp] theorem State.countEvt_out (s : State) (b i : Nat) : (s.countEvt b i).out = s.out := rfl
@[simp] theorem State.countEvt_pending (s : State) (b i : Nat) : (s.countEvt b i).pending = s.pending := rfl

@[simp] theorem State.request_power (s : State) (i : Nat) (b : Bool) : (s.request i b).power = s.power := rfl
@[simp] theorem State.request_thermal (s : State) (i : Nat) (b : Bool) : (s.request i b).thermal = s.thermal := rfl
@[simp] theorem State.request_boot (s : State) (i : Nat) (b : Bool) : (s.request i b).boot = s.boot := rfl
@[simp] theorem State.request_keeper (s : State) (i : Nat) (b : Bool) : (s.request i b).keeper = s.keeper := rfl
@[simp] theorem State.request_logs (s : State) (i : Nat) (b : Bool) : (s.request i b).logs = s.logs := rfl
@[simp] theorem State.request_fuses (s : State) (i : Nat) (b : Bool) : (s.request i b).fuses = s.fuses := rfl
@[simp] theorem State.request_guard (s : State) (i : Nat) (b : Bool) : (s.request i b).guard = s.guard := rfl
@[simp] theorem State.request_fns (s : State) (i : Nat) (b : Bool) : (s.request i b).fns = s.fns := rfl
@[simp] theorem State.request_mgmt (s : State) (i : Nat) (b : Bool) : (s.request i b).mgmt = s.mgmt := rfl
@[simp] theorem State.request_queues (s : State) (i : Nat) (b : Bool) : (s.request i b).queues = s.queues := rfl
@[simp] theorem State.request_jobs (s : State) (i : Nat) (b : Bool) : (s.request i b).jobs = s.jobs := rfl
@[simp] theorem State.request_sched (s : State) (i : Nat) (b : Bool) : (s.request i b).sched = s.sched := rfl
@[simp] theorem State.request_keys (s : State) (i : Nat) (b : Bool) : (s.request i b).keys = s.keys := rfl
@[simp] theorem State.request_store (s : State) (i : Nat) (b : Bool) : (s.request i b).store = s.store := rfl
@[simp] theorem State.request_tables (s : State) (i : Nat) (b : Bool) : (s.request i b).tables = s.tables := rfl
@[simp] theorem State.request_dru (s : State) (i : Nat) (b : Bool) : (s.request i b).dru = s.dru := rfl
@[simp] theorem State.request_flt (s : State) (i : Nat) (b : Bool) : (s.request i b).flt = s.flt := rfl
@[simp] theorem State.request_upd (s : State) (i : Nat) (b : Bool) : (s.request i b).upd = s.upd := rfl
@[simp] theorem State.request_nextJob (s : State) (i : Nat) (b : Bool) : (s.request i b).nextJob = s.nextJob := rfl
@[simp] theorem State.request_freeCtr (s : State) (i : Nat) (b : Bool) : (s.request i b).freeCtr = s.freeCtr := rfl
@[simp] theorem State.request_out (s : State) (i : Nat) (b : Bool) : (s.request i b).out = s.out := rfl
@[simp] theorem State.request_pending (s : State) (i : Nat) (b : Bool) : (s.request i b).pending = s.pending := rfl

@[simp] theorem State.scDraw_power (s : State)  : (s.scDraw).power = s.power := rfl
@[simp] theorem State.scDraw_thermal (s : State)  : (s.scDraw).thermal = s.thermal := rfl
@[simp] theorem State.scDraw_boot (s : State)  : (s.scDraw).boot = s.boot := rfl
@[simp] theorem State.scDraw_keeper (s : State)  : (s.scDraw).keeper = s.keeper := rfl
@[simp] theorem State.scDraw_logs (s : State)  : (s.scDraw).logs = s.logs := rfl
@[simp] theorem State.scDraw_fuses (s : State)  : (s.scDraw).fuses = s.fuses := rfl
@[simp] theorem State.scDraw_guard (s : State)  : (s.scDraw).guard = s.guard := rfl
@[simp] theorem State.scDraw_fns (s : State)  : (s.scDraw).fns = s.fns := rfl
@[simp] theorem State.scDraw_mgmt (s : State)  : (s.scDraw).mgmt = s.mgmt := rfl
@[simp] theorem State.scDraw_queues (s : State)  : (s.scDraw).queues = s.queues := rfl
@[simp] theorem State.scDraw_jobs (s : State)  : (s.scDraw).jobs = s.jobs := rfl
@[simp] theorem State.scDraw_sched (s : State)  : (s.scDraw).sched = s.sched := rfl
@[simp] theorem State.scDraw_keys (s : State)  : (s.scDraw).keys = s.keys := rfl
@[simp] theorem State.scDraw_store (s : State)  : (s.scDraw).store = s.store := rfl
@[simp] theorem State.scDraw_tables (s : State)  : (s.scDraw).tables = s.tables := rfl
@[simp] theorem State.scDraw_dru (s : State)  : (s.scDraw).dru = s.dru := rfl
@[simp] theorem State.scDraw_flt (s : State)  : (s.scDraw).flt = s.flt := rfl
@[simp] theorem State.scDraw_upd (s : State)  : (s.scDraw).upd = s.upd := rfl
@[simp] theorem State.scDraw_nextJob (s : State)  : (s.scDraw).nextJob = s.nextJob := rfl
@[simp] theorem State.scDraw_freeCtr (s : State)  : (s.scDraw).freeCtr = s.freeCtr + 1 := rfl
@[simp] theorem State.scDraw_out (s : State)  : (s.scDraw).out = s.out := rfl
@[simp] theorem State.scDraw_pending (s : State)  : (s.scDraw).pending = s.pending := rfl

end Sys2Proof.Machine
end

