-- ==== Sys2Proof/Laws/Jobs.lean ====
section
/-!
SUPPORT. Laws/Jobs.lean: what the shared operations of jobs do, once each: the rows that act on a running job, the
entropy gate, and how a job ends.
-/
namespace Sys2Proof.Machine
open Sys2Proof

/-! ### The rows that act on a job -/

/-- A row runs its body on the job its number names, when that job runs the row's opcode with this input. -/
theorem State.runOp_of {s : State} {id : Nat} {j : Job} {op : Op} {inp : Bytes} (h : s.runsJob id j op inp)
    (run : State → Job → State) : s.runOp id op inp run = run s j := by
  obtain ⟨h1, h2⟩ := h
  simp [State.runOp, h1, h2]

theorem State.runCmd_of {s : State} {id : Nat} {j : Job} {op : Op} (h : s.runsJob id j op [])
    (run : State → Job → State) : s.runCmd id op run = run s j := State.runOp_of h run

/-- Otherwise it changes nothing. -/
theorem State.runOp_cases (s : State) (id : Nat) (op : Op) (inp : Bytes) (run : State → Job → State) :
    s.runOp id op inp run = s ∨ ∃ j, s.runsJob id j op inp ∧ s.runOp id op inp run = run s j := by
  unfold State.runOp
  cases hj : s.job? id with
  | none => simp
  | some j =>
    by_cases hc : j.op = opCode op ∧ j.phase = .running ∧ j.stop = none ∧ inp.length = j.entry.inLen.toNat
        ∧ (j.q.hasRing = true ∨ inp = j.linkIn)
    · exact .inr ⟨j, ⟨hj, hc⟩, by simp [hc]⟩
    · exact .inl (by simp only [hc, if_false])

/-- Past the gate the body runs on the seeded state. -/
theorem State.gated_of {s : State} {j : Job} {op : Op} (h : s.passes j op) (pub : Nat) (body : State → Job → State) :
    s.gated j op pub body = body (s.seeding j op) { j with seeded := true } := by
  unfold State.passes at h
  simp [State.gated, h]

/-- What the gate can do: let the body run, make the job wait, or end it. -/
theorem State.gated_cases (s : State) (j : Job) (op : Op) (pub : Nat) (body : State → Job → State) :
    s.gated j op pub body = body (s.seeding j op) { j with seeded := true }
    ∨ s.gated j op pub body = s.mapJob j.id (fun x => { x with phase := .waitEntropy, waitFrom := s.now })
    ∨ s.gated j op pub body = (s.dropStream j).fail j st.entropyFail pub := by
  unfold State.gated
  split <;> simp

/-! ### Seeding -/

/-- Seeding is one request of the job's instance, or none, and the job marked. -/
theorem State.seedJob_eq (s : State) (j : Job) :
    s.seedJob j = { s with ent := (s.seedJob j).ent, jobs := (s.seedJob j).jobs } := by
  unfold State.seedJob
  split <;> rfl

theorem State.seeding_eq (s : State) (j : Job) (op : Op) :
    s.seeding j op = { s with ent := (s.seeding j op).ent, jobs := (s.seeding j op).jobs } := by
  unfold State.seeding
  split
  · exact State.seedJob_eq s j
  · rfl

@[simp] theorem State.seeding_power (s : State) (j : Job) (op : Op) : (s.seeding j op).power = s.power := by
  rw [State.seeding_eq]
@[simp] theorem State.seeding_thermal (s : State) (j : Job) (op : Op) : (s.seeding j op).thermal = s.thermal := by
  rw [State.seeding_eq]
@[simp] theorem State.seeding_boot (s : State) (j : Job) (op : Op) : (s.seeding j op).boot = s.boot := by
  rw [State.seeding_eq]
@[simp] theorem State.seeding_keeper (s : State) (j : Job) (op : Op) : (s.seeding j op).keeper = s.keeper := by
  rw [State.seeding_eq]
@[simp] theorem State.seeding_logs (s : State) (j : Job) (op : Op) : (s.seeding j op).logs = s.logs := by
  rw [State.seeding_eq]
@[simp] theorem State.seeding_fuses (s : State) (j : Job) (op : Op) : (s.seeding j op).fuses = s.fuses := by
  rw [State.seeding_eq]
@[simp] theorem State.seeding_guard (s : State) (j : Job) (op : Op) : (s.seeding j op).guard = s.guard := by
  rw [State.seeding_eq]
@[simp] theorem State.seeding_fns (s : State) (j : Job) (op : Op) : (s.seeding j op).fns = s.fns := by
  rw [State.seeding_eq]
@[simp] theorem State.seeding_mgmt (s : State) (j : Job) (op : Op) : (s.seeding j op).mgmt = s.mgmt := by
  rw [State.seeding_eq]
@[simp] theorem State.seeding_queues (s : State) (j : Job) (op : Op) : (s.seeding j op).queues = s.queues := by
  rw [State.seeding_eq]
@[simp] theorem State.seeding_sched (s : State) (j : Job) (op : Op) : (s.seeding j op).sched = s.sched := by
  rw [State.seeding_eq]
@[simp] theorem State.seeding_keys (s : State) (j : Job) (op : Op) : (s.seeding j op).keys = s.keys := by
  rw [State.seeding_eq]
@[simp] theorem State.seeding_store (s : State) (j : Job) (op : Op) : (s.seeding j op).store = s.store := by
  rw [State.seeding_eq]
@[simp] theorem State.seeding_tables (s : State) (j : Job) (op : Op) : (s.seeding j op).tables = s.tables := by
  rw [State.seeding_eq]
@[simp] theorem State.seeding_dru (s : State) (j : Job) (op : Op) : (s.seeding j op).dru = s.dru := by
  rw [State.seeding_eq]
@[simp] theorem State.seeding_flt (s : State) (j : Job) (op : Op) : (s.seeding j op).flt = s.flt := by
  rw [State.seeding_eq]
@[simp] theorem State.seeding_upd (s : State) (j : Job) (op : Op) : (s.seeding j op).upd = s.upd := by
  rw [State.seeding_eq]
@[simp] theorem State.seeding_nextJob (s : State) (j : Job) (op : Op) : (s.seeding j op).nextJob = s.nextJob := by
  rw [State.seeding_eq]
@[simp] theorem State.seeding_freeCtr (s : State) (j : Job) (op : Op) : (s.seeding j op).freeCtr = s.freeCtr := by
  rw [State.seeding_eq]
@[simp] theorem State.seeding_out (s : State) (j : Job) (op : Op) : (s.seeding j op).out = s.out := by
  rw [State.seeding_eq]
@[simp] theorem State.seeding_pending (s : State) (j : Job) (op : Op) : (s.seeding j op).pending = s.pending := by
  rw [State.seeding_eq]

theorem State.job?_map {s : State} {id : Nat} {j : Job} (h : s.job? id = some j) {i : Nat} {f : Job → Job}
    (hf : ∀ x, (f x).id = x.id) : (s.mapJob i f).job? id = some (if j.id = i then f j else j) := by
  unfold State.job? State.mapJob at *
  simp only
  rw [List.find?_map]
  have e : ((fun j : Job => decide (j.id = id)) ∘ fun x => if x.id = i then f x else x) = fun x => decide (x.id = id) := by
    funext x; simp only [Function.comp]; split <;> simp [hf]
  rw [e, h]; rfl

theorem State.job?_id {s : State} {id : Nat} {j : Job} (h : s.job? id = some j) : j.id = id := by
  have := List.find?_some h
  simpa using this

/-- Seeding loses no job. -/
theorem State.seeding_job? {s : State} {id : Nat} {x : Job} (j : Job) (op : Op) (h : s.job? id = some x) :
    ∃ y, (s.seeding j op).job? id = some y ∧ y.id = id := by
  unfold State.seeding State.seedJob
  split
  · refine ⟨_, State.job?_map (s := if _ then s else _) (j := x) ?_ ?_, ?_⟩
    · split <;> simpa [State.job?] using h
    · intro x; rfl
    · have := State.job?_id h
      split <;> exact this
  · exact ⟨x, h, State.job?_id h⟩

/-- Jobs are found by the list alone. -/
theorem State.job?_congr {s t : State} (h : t.jobs = s.jobs) (id : Nat) : t.job? id = s.job? id := by
  unfold State.job?; rw [h]

/-! ### Endings -/

@[simp] theorem Job.finish_id (j : Job) (st : Status) (r : BitVec 64) (b : Bytes) (n : Nat) : (j.finish st r b n).id = j.id := rfl

/-- A job is found as what a change of many jobs makes of it. -/
theorem State.job?_mapJobs {s : State} {id : Nat} {j : Job} (h : s.job? id = some j) {p : Job → Bool} {f : Job → Job}
    (hf : ∀ x, (f x).id = x.id) : (s.mapJobs p f).job? id = some (if p j then f j else j) := by
  unfold State.job? State.mapJobs at *
  simp only
  rw [List.find?_map]
  have e : ((fun j : Job => decide (j.id = id)) ∘ fun x => if p x = true then f x else x) = fun x => decide (x.id = id) := by
    funext x; simp only [Function.comp]; split <;> simp [hf]
  rw [e, h]; rfl

/-- The job that an end leaves. -/
theorem State.finish_job? {s : State} {id : Nat} {j : Job} (h : s.job? id = some j) (status : Status) (r : BitVec 64)
    (b : Bytes) (n : Nat) : ∃ x : Job, (s.finish id status r b n).job? id = some (x.finish status r b n) := by
  have h1 : (s.leavePort id).job? id = some j := by simpa [State.job?] using h
  have h2 := State.job?_mapJobs (p := fun j => j.waitsLeaf (s.job? id)) (f := Job.wake) h1 (fun x => rfl)
  have h3 := State.job?_map (i := id) (f := fun j => j.finish status r b n) h2 (fun x => rfl)
  rw [if_pos (State.job?_id h2)] at h3
  exact ⟨_, h3⟩

/-- A job that is finished has the ending it was given; its output counts only with OK. -/
theorem State.finish_ended {s : State} {id : Nat} {j : Job} (h : s.job? id = some j) (status : Status) (r : BitVec 64)
    (b : Bytes) (n : Nat) : (s.finish id status r b n).endedWith id status r (if status = st.ok then b else []) := by
  obtain ⟨x, hx⟩ := State.finish_job? h status r b n
  exact ⟨_, _, hx, rfl, rfl, rfl, rfl, rfl⟩

/-- Once ended, a job's ending outlives any change that leaves the jobs alone. -/
theorem State.endedWith_congr {s t : State} (h : t.jobs = s.jobs) {id : Nat} {c : Status} {r : BitVec 64} {b : Bytes} :
    t.endedWith id c r b ↔ s.endedWith id c r b := by
  unfold State.endedWith; simp only [State.job?_congr h]

theorem State.done_ended {s : State} {id : Nat} {x : Job} (h : s.job? id = some x) {j : Job} (hj : j.id = id) (r : Nat)
    (b : Bytes) (n : Nat) : (s.done j r b n).endedWith id st.ok (BitVec.ofNat 64 r) b := by
  have := State.finish_ended h st.ok (BitVec.ofNat 64 r) b n
  rw [if_pos rfl] at this
  unfold State.done; rw [hj]; exact this

theorem State.endWith_ended {s : State} {id : Nat} {x : Job} (h : s.job? id = some x) {j : Job} (hj : j.id = id)
    {c : Status} (hc : c ≠ st.ok) (r n : Nat) : (s.endWith j c r n).endedWith id c (BitVec.ofNat 64 r) [] := by
  have := State.finish_ended h c (BitVec.ofNat 64 r) [] n
  rw [if_neg hc] at this
  unfold State.endWith; rw [hj]; exact this

/-- A verdict ends the job with the true pair or the false one (R240). -/
theorem State.verdict_ended {s : State} {id : Nat} {x : Job} (h : s.job? id = some x) {j : Job} (hj : j.id = id)
    (good : Bool) {bad : Status} (hb : bad ≠ st.ok) (n : Nat) :
    (s.verdict j good bad n).endedWith id (if good then st.ok else bad) (if good then pairTrue else pairFalse) [] := by
  unfold State.verdict; rw [hj]
  cases good
  · have := State.finish_ended h bad pairFalse [] n
    simpa [hb] using this
  · have := State.finish_ended h st.ok pairTrue [] n
    simpa using this

/-! ### Endings as conditions -/

@[simp] theorem State.mapPower_job? (s : State) (f : Power → Power) (id : Nat) : (s.mapPower f).job? id = s.job? id := rfl
@[simp] theorem State.mapThermal_job? (s : State) (f : Thermal → Thermal) (id : Nat) : (s.mapThermal f).job? id = s.job? id := rfl
@[simp] theorem State.mapBoot_job? (s : State) (f : Boot → Boot) (id : Nat) : (s.mapBoot f).job? id = s.job? id := rfl
@[simp] theorem State.mapKeeper_job? (s : State) (f : Keeper → Keeper) (id : Nat) : (s.mapKeeper f).job? id = s.job? id := rfl
@[simp] theorem State.mapLogs_job? (s : State) (f : Logs → Logs) (id : Nat) : (s.mapLogs f).job? id = s.job? id := rfl
@[simp] theorem State.mapFuses_job? (s : State) (f : Fuses → Fuses) (id : Nat) : (s.mapFuses f).job? id = s.job? id := rfl
@[simp] theorem State.mapGuard_job? (s : State) (f : Guard → Guard) (id : Nat) : (s.mapGuard f).job? id = s.job? id := rfl
@[simp] theorem State.mapMgmt_job? (s : State) (f : Mgmt → Mgmt) (id : Nat) : (s.mapMgmt f).job? id = s.job? id := rfl
@[simp] theorem State.mapKeys_job? (s : State) (f : Keys → Keys) (id : Nat) : (s.mapKeys f).job? id = s.job? id := rfl
@[simp] theorem State.mapStore_job? (s : State) (f : OpStore → OpStore) (id : Nat) : (s.mapStore f).job? id = s.job? id := rfl
@[simp] theorem State.mapTables_job? (s : State) (f : Tables → Tables) (id : Nat) : (s.mapTables f).job? id = s.job? id := rfl
@[simp] theorem State.mapDru_job? (s : State) (f : Dru → Dru) (id : Nat) : (s.mapDru f).job? id = s.job? id := rfl
@[simp] theorem State.mapEnt_job? (s : State) (f : Entropy → Entropy) (id : Nat) : (s.mapEnt f).job? id = s.job? id := rfl
@[simp] theorem State.mapFlt_job? (s : State) (f : Faults → Faults) (id : Nat) : (s.mapFlt f).job? id = s.job? id := rfl
@[simp] theorem State.mapUpd_job? (s : State) (f : Update → Update) (id : Nat) : (s.mapUpd f).job? id = s.job? id := rfl
@[simp] theorem State.emit_job? (s : State) (o : Out) (id : Nat) : (s.emit o).job? id = s.job? id := rfl
@[simp] theorem State.draw_job? (s : State)  (id : Nat) : (s.draw).job? id = s.job? id := rfl
@[simp] theorem State.scDraw_job? (s : State)  (id : Nat) : (s.scDraw).job? id = s.job? id := rfl
@[simp] theorem State.request_job? (s : State) (i : Nat) (b : Bool) (id : Nat) : (s.request i b).job? id = s.job? id := rfl
@[simp] theorem State.countEvt_job? (s : State) (i b : Nat) (id : Nat) : (s.countEvt i b).job? id = s.job? id := rfl
@[simp] theorem State.mapFn_job? (s : State) (i : Nat) (f : FnState → FnState) (id : Nat) : (s.mapFn i f).job? id = s.job? id := rfl
@[simp] theorem State.mapQueue_job? (s : State) (r : QRef) (f : Queue → Queue) (id : Nat) : (s.mapQueue r f).job? id = s.job? id := rfl
@[simp] theorem State.leavePort_job? (s : State) (i : Nat) (id : Nat) : (s.leavePort i).job? id = s.job? id := rfl

/-- Nor does seeding make one appear. -/
@[simp] theorem State.seeding_isSome (s : State) (j : Job) (op : Op) (id : Nat) :
    ((s.seeding j op).job? id).isSome = (s.job? id).isSome := by
  cases h : s.job? id with
  | some x => obtain ⟨y, hy, -⟩ := State.seeding_job? j op h; simp [hy]
  | none =>
    have e : ∀ (u : State) (i : Nat) (f : Job → Job), (∀ x, (f x).id = x.id) → u.job? id = none → (u.mapJob i f).job? id = none := by
      intro u i f hf hu
      simp only [State.job?, State.mapJob, List.find?_eq_none, List.mem_map, forall_exists_index, and_imp] at hu ⊢
      rintro x y hy rfl
      have := hu y hy
      split <;> simpa [hf] using this
    unfold State.seeding State.seedJob
    split
    · rw [e _ _ _ (by intro x; rfl) (by split <;> simpa [State.job?] using h)]
    · rw [h]

/-- An ending is read through a choice. -/
@[simp] theorem State.endedWith_ite (c : Prop) [Decidable c] (a b : State) (id : Nat) (x : Status) (r : BitVec 64) (o : Bytes) :
    (if c then a else b).endedWith id x r o ↔ if c then a.endedWith id x r o else b.endedWith id x r o := by
  split <;> rfl

/-- A job is looked up through a choice. -/
@[simp] theorem State.job?_ite (c : Prop) [Decidable c] (a b : State) (id : Nat) :
    (if c then a else b).job? id = if c then a.job? id else b.job? id := by
  split <;> rfl

/-- Exactly which ending a finished job has. -/
theorem State.finish_iff {s : State} {id : Nat} (h : (s.job? id).isSome) (c c' : Status) (r r' : BitVec 64) (b b' : Bytes)
    (n : Nat) : (s.finish id c r b n).endedWith id c' r' b' ↔ c = c' ∧ r = r' ∧ (if c = st.ok then b else []) = b' := by
  obtain ⟨x, hx⟩ := Option.isSome_iff_exists.mp h
  constructor
  · rintro ⟨j, e, h1, -, h3, rfl, rfl, rfl⟩
    obtain ⟨y, h5⟩ := State.finish_job? hx c r b n
    rw [h1] at h5
    obtain rfl := Option.some.inj h5
    cases h3
    exact ⟨rfl, rfl, rfl⟩
  · rintro ⟨rfl, rfl, rfl⟩
    exact State.finish_ended hx _ _ _ _

end Sys2Proof.Machine
end

