-- ==== Sys2Proof/Laws/Frames.lean ====
section
/-!
SUPPORT. Laws/Frames.lean: which components each shared operation may change: one lemma for each, about every
component outside its list. The later ones rest on the earlier.
-/
namespace Sys2Proof.Machine
open Sys2Proof

theorem State.get_ext {s t : State} (h : ∀ f, t.get f = s.get f) : t = s := by
  cases s; cases t
  simp only [State.mk.injEq]
  exact ⟨h .power, h .thermal, h .boot, h .keeper, h .logs, h .fuses, h .guard, h .fns, h .mgmt, h .queues, h .jobs,
    h .sched, h .keys, h .store, h .tables, h .dru, h .ent, h .flt, h .upd, h .nextJob, h .freeCtr, h .out, h .pending⟩

@[simp] theorem State.get_foldl {α : Type} (l : List α) (g : State → α → State) {f : Field}
    (h : ∀ s a, (g s a).get f = s.get f) (s : State) : (l.foldl g s).get f = s.get f := by
  induction l generalizing s with
  | nil => rfl
  | cons a l ih => simp [ih, h]

@[simp] theorem State.get_foldr {α : Type} (l : List α) (g : α → State → State) {f : Field}
    (h : ∀ s a, (g a s).get f = s.get f) (s : State) : (l.foldr g s).get f = s.get f := by
  induction l with
  | nil => rfl
  | cons a l ih => simp [ih, h]

@[simp] theorem State.get_ite (c : Prop) {_ : Decidable c} (s t : State) (f : Field) :
    (if c then s else t).get f = if c then s.get f else t.get f := by
  split <;> rfl

@[simp] theorem State.mapPower_get (s : State) (f : Power → Power) {fld : Field} (hm : fld ∉ ([.power] : List Field)) :
    (State.mapPower s f).get fld = s.get fld := by
  simp only [List.mem_cons, List.not_mem_nil, or_false] at hm
  cases fld <;> first | rfl | simp at hm

@[simp] theorem State.mapThermal_get (s : State) (f : Thermal → Thermal) {fld : Field} (hm : fld ∉ ([.thermal] : List Field)) :
    (State.mapThermal s f).get fld = s.get fld := by
  simp only [List.mem_cons, List.not_mem_nil, or_false] at hm
  cases fld <;> first | rfl | simp at hm

@[simp] theorem State.mapBoot_get (s : State) (f : Boot → Boot) {fld : Field} (hm : fld ∉ ([.boot] : List Field)) :
    (State.mapBoot s f).get fld = s.get fld := by
  simp only [List.mem_cons, List.not_mem_nil, or_false] at hm
  cases fld <;> first | rfl | simp at hm

@[simp] theorem State.mapKeeper_get (s : State) (f : Keeper → Keeper) {fld : Field} (hm : fld ∉ ([.keeper] : List Field)) :
    (State.mapKeeper s f).get fld = s.get fld := by
  simp only [List.mem_cons, List.not_mem_nil, or_false] at hm
  cases fld <;> first | rfl | simp at hm

@[simp] theorem State.mapLogs_get (s : State) (f : Logs → Logs) {fld : Field} (hm : fld ∉ ([.logs] : List Field)) :
    (State.mapLogs s f).get fld = s.get fld := by
  simp only [List.mem_cons, List.not_mem_nil, or_false] at hm
  cases fld <;> first | rfl | simp at hm

@[simp] theorem State.mapFuses_get (s : State) (f : Fuses → Fuses) {fld : Field} (hm : fld ∉ ([.fuses] : List Field)) :
    (State.mapFuses s f).get fld = s.get fld := by
  simp only [List.mem_cons, List.not_mem_nil, or_false] at hm
  cases fld <;> first | rfl | simp at hm

@[simp] theorem State.mapGuard_get (s : State) (f : Guard → Guard) {fld : Field} (hm : fld ∉ ([.guard] : List Field)) :
    (State.mapGuard s f).get fld = s.get fld := by
  simp only [List.mem_cons, List.not_mem_nil, or_false] at hm
  cases fld <;> first | rfl | simp at hm

@[simp] theorem State.mapMgmt_get (s : State) (f : Mgmt → Mgmt) {fld : Field} (hm : fld ∉ ([.mgmt] : List Field)) :
    (State.mapMgmt s f).get fld = s.get fld := by
  simp only [List.mem_cons, List.not_mem_nil, or_false] at hm
  cases fld <;> first | rfl | simp at hm

@[simp] theorem State.mapKeys_get (s : State) (f : Keys → Keys) {fld : Field} (hm : fld ∉ ([.keys] : List Field)) :
    (State.mapKeys s f).get fld = s.get fld := by
  simp only [List.mem_cons, List.not_mem_nil, or_false] at hm
  cases fld <;> first | rfl | simp at hm

@[simp] theorem State.mapStore_get (s : State) (f : OpStore → OpStore) {fld : Field} (hm : fld ∉ ([.store] : List Field)) :
    (State.mapStore s f).get fld = s.get fld := by
  simp only [List.mem_cons, List.not_mem_nil, or_false] at hm
  cases fld <;> first | rfl | simp at hm

@[simp] theorem State.mapTables_get (s : State) (f : Tables → Tables) {fld : Field} (hm : fld ∉ ([.tables] : List Field)) :
    (State.mapTables s f).get fld = s.get fld := by
  simp only [List.mem_cons, List.not_mem_nil, or_false] at hm
  cases fld <;> first | rfl | simp at hm

@[simp] theorem State.mapDru_get (s : State) (f : Dru → Dru) {fld : Field} (hm : fld ∉ ([.dru] : List Field)) :
    (State.mapDru s f).get fld = s.get fld := by
  simp only [List.mem_cons, List.not_mem_nil, or_false] at hm
  cases fld <;> first | rfl | simp at hm

@[simp] theorem State.mapEnt_get (s : State) (f : Entropy → Entropy) {fld : Field} (hm : fld ∉ ([.ent] : List Field)) :
    (State.mapEnt s f).get fld = s.get fld := by
  simp only [List.mem_cons, List.not_mem_nil, or_false] at hm
  cases fld <;> first | rfl | simp at hm

@[simp] theorem State.mapFlt_get (s : State) (f : Faults → Faults) {fld : Field} (hm : fld ∉ ([.flt] : List Field)) :
    (State.mapFlt s f).get fld = s.get fld := by
  simp only [List.mem_cons, List.not_mem_nil, or_false] at hm
  cases fld <;> first | rfl | simp at hm

@[simp] theorem State.mapUpd_get (s : State) (f : Update → Update) {fld : Field} (hm : fld ∉ ([.upd] : List Field)) :
    (State.mapUpd s f).get fld = s.get fld := by
  simp only [List.mem_cons, List.not_mem_nil, or_false] at hm
  cases fld <;> first | rfl | simp at hm

@[simp] theorem State.emit_get (s : State) (o : Out) {fld : Field} (hm : fld ∉ ([.out] : List Field)) :
    (State.emit s o).get fld = s.get fld := by
  simp only [List.mem_cons, List.not_mem_nil, or_false] at hm
  cases fld <;> first | rfl | simp at hm

@[simp] theorem State.emitAll_get (l : List Out) (s : State) {fld : Field} (h : fld ∉ ([.out] : List Field)) :
    (s.emitAll l).get fld = s.get fld := by
  induction l generalizing s with
  | nil => rfl
  | cons o l ih => simp only [State.emitAll, ih]; simp [h]

@[simp] theorem State.draw_get (s : State) {fld : Field} (hm : fld ∉ ([.freeCtr] : List Field)) :
    (State.draw s).get fld = s.get fld := by
  simp only [List.mem_cons, List.not_mem_nil, or_false] at hm
  cases fld <;> first | rfl | simp at hm

@[simp] theorem State.drawMany_get (s : State) (n : Nat) {fld : Field} (hm : fld ∉ ([.freeCtr] : List Field)) :
    (State.drawMany s n).get fld = s.get fld := by
  simp only [List.mem_cons, List.not_mem_nil, or_false] at hm
  cases fld <;> first | rfl | simp at hm

@[simp] theorem State.idleTick_get (s : State) {fld : Field} (hm : fld ∉ ([.keeper] : List Field)) :
    (State.idleTick s).get fld = s.get fld := by
  simp only [List.mem_cons, List.not_mem_nil, or_false] at hm
  simp [State.idleTick, hm]

@[simp] theorem State.setFn_get (s : State) (i : Nat) (f : FnState) {fld : Field} (hm : fld ∉ ([.fns] : List Field)) :
    (State.setFn s i f).get fld = s.get fld := by
  simp only [List.mem_cons, List.not_mem_nil, or_false] at hm
  cases fld <;> first | rfl | simp at hm

@[simp] theorem State.mapFn_get (s : State) (i : Nat) (f : FnState → FnState) {fld : Field} (hm : fld ∉ ([.fns] : List Field)) :
    (State.mapFn s i f).get fld = s.get fld := by
  simp only [List.mem_cons, List.not_mem_nil, or_false] at hm
  cases fld <;> first | rfl | simp at hm

@[simp] theorem State.mapSession_get (s : State) (fn : Nat) (f : Session → Session) {fld : Field} (hm : fld ∉ ([.fns, .mgmt] : List Field)) :
    (State.mapSession s fn f).get fld = s.get fld := by
  simp only [List.mem_cons, List.not_mem_nil, or_false, not_or] at hm
  simp [State.mapSession, hm]

@[simp] theorem State.setQueue_get (s : State) (q : Queue) {fld : Field} (hm : fld ∉ ([.queues] : List Field)) :
    (State.setQueue s q).get fld = s.get fld := by
  simp only [List.mem_cons, List.not_mem_nil, or_false] at hm
  cases fld <;> first | rfl | simp at hm

@[simp] theorem State.mapQueue_get (s : State) (r : QRef) (f : Queue → Queue) {fld : Field} (hm : fld ∉ ([.queues] : List Field)) :
    (State.mapQueue s r f).get fld = s.get fld := by
  simp only [List.mem_cons, List.not_mem_nil, or_false] at hm
  cases fld <;> first | rfl | simp at hm

@[simp] theorem State.dropQueue_get (s : State) (r : QRef) {fld : Field} (hm : fld ∉ ([.queues] : List Field)) :
    (State.dropQueue s r).get fld = s.get fld := by
  simp only [List.mem_cons, List.not_mem_nil, or_false] at hm
  cases fld <;> first | rfl | simp at hm

@[simp] theorem State.putJob_get (s : State) (j : Job) {fld : Field} (hm : fld ∉ ([.jobs] : List Field)) :
    (State.putJob s j).get fld = s.get fld := by
  simp only [List.mem_cons, List.not_mem_nil, or_false] at hm
  cases fld <;> first | rfl | simp at hm

@[simp] theorem State.dropJob_get (s : State) (id : Nat) {fld : Field} (hm : fld ∉ ([.jobs] : List Field)) :
    (State.dropJob s id).get fld = s.get fld := by
  simp only [List.mem_cons, List.not_mem_nil, or_false] at hm
  cases fld <;> first | rfl | simp at hm

@[simp] theorem State.mapJob_get (s : State) (id : Nat) (f : Job → Job) {fld : Field} (hm : fld ∉ ([.jobs] : List Field)) :
    (State.mapJob s id f).get fld = s.get fld := by
  simp only [List.mem_cons, List.not_mem_nil, or_false] at hm
  cases fld <;> first | rfl | simp at hm

@[simp] theorem State.mapJobs_get (s : State) (p : Job → Bool) (f : Job → Job) {fld : Field} (hm : fld ∉ ([.jobs] : List Field)) :
    (State.mapJobs s p f).get fld = s.get fld := by
  simp only [List.mem_cons, List.not_mem_nil, or_false] at hm
  cases fld <;> first | rfl | simp at hm

@[simp] theorem State.latchFuseFields_get (s : State) {fld : Field} (hm : fld ∉ ([.fuses] : List Field)) :
    (State.latchFuseFields s).get fld = s.get fld := by
  simp only [List.mem_cons, List.not_mem_nil, or_false] at hm
  cases fld <;> first | rfl | simp at hm

@[simp] theorem State.mapArb_get (s : State) (c : UnitClass) (f : Arb → Arb) {fld : Field} (hm : fld ∉ ([.sched] : List Field)) :
    (State.mapArb s c f).get fld = s.get fld := by
  simp only [List.mem_cons, List.not_mem_nil, or_false] at hm
  cases fld <;> first | rfl | simp at hm

@[simp] theorem State.mapSched_get (s : State) (f : Sched → Sched) {fld : Field} (hm : fld ∉ ([.sched] : List Field)) :
    (State.mapSched s f).get fld = s.get fld := by
  simp only [List.mem_cons, List.not_mem_nil, or_false] at hm
  cases fld <;> first | rfl | simp at hm

@[simp] theorem State.countEvt_get (s : State) (bank bit : Nat) {fld : Field} (hm : fld ∉ ([.flt] : List Field)) :
    (State.countEvt s bank bit).get fld = s.get fld := by
  simp only [List.mem_cons, List.not_mem_nil, or_false] at hm
  cases fld <;> first | rfl | simp at hm

@[simp] theorem State.tlp_get (s : State) (o : Out) {fld : Field} (hm : fld ∉ ([.out] : List Field)) :
    (State.tlp s o).get fld = s.get fld := by
  simp only [List.mem_cons, List.not_mem_nil, or_false] at hm
  simp [State.tlp, hm]

@[simp] theorem State.sendMsg_get (s : State) (fn v : Nat) {fld : Field} (hm : fld ∉ ([.out] : List Field)) :
    (State.sendMsg s fn v).get fld = s.get fld := by
  simp only [List.mem_cons, List.not_mem_nil, or_false] at hm
  simp [State.sendMsg, hm]

@[simp] theorem State.sendVec_get (s : State) (fn v : Nat) {fld : Field} (hm : fld ∉ ([.fns, .out] : List Field)) :
    (State.sendVec s fn v).get fld = s.get fld := by
  simp only [List.mem_cons, List.not_mem_nil, or_false, not_or] at hm
  simp [State.sendVec, hm]

@[simp] theorem State.deviceEvent_get (s : State) {fld : Field} (hm : fld ∉ ([.fns, .out] : List Field)) :
    (State.deviceEvent s).get fld = s.get fld := by
  simp only [List.mem_cons, List.not_mem_nil, or_false, not_or] at hm
  simp [State.deviceEvent, hm]

@[simp] theorem State.setFlt_get (s : State) (b : Nat) {fld : Field} (hm : fld ∉ ([.fns, .flt, .out] : List Field)) :
    (State.setFlt s b).get fld = s.get fld := by
  simp only [List.mem_cons, List.not_mem_nil, or_false, not_or] at hm
  simp [State.setFlt, hm]

@[simp] theorem State.setSieve_get (s : State) (b : Nat) {fld : Field} (hm : fld ∉ ([.guard, .fns, .flt, .out] : List Field)) :
    (State.setSieve s b).get fld = s.get fld := by
  simp only [List.mem_cons, List.not_mem_nil, or_false, not_or] at hm
  unfold State.setSieve
  simp only [State.get_ite]
  simp [hm]

@[simp] theorem State.setEnt_get (s : State) (b : Nat) {fld : Field} (hm : fld ∉ ([.ent, .flt] : List Field)) :
    (State.setEnt s b).get fld = s.get fld := by
  simp only [List.mem_cons, List.not_mem_nil, or_false, not_or] at hm
  cases fld <;> first | rfl | simp at hm

@[simp] theorem State.setDruErr_get (s : State) (b : Nat) {fld : Field} (hm : fld ∉ ([.dru, .flt] : List Field)) :
    (State.setDruErr s b).get fld = s.get fld := by
  simp only [List.mem_cons, List.not_mem_nil, or_false, not_or] at hm
  cases fld <;> first | rfl | simp at hm

@[simp] theorem State.setThrottle_get (s : State) {fld : Field} (hm : fld ∉ ([.thermal, .fns, .flt, .out] : List Field)) :
    (State.setThrottle s).get fld = s.get fld := by
  simp only [List.mem_cons, List.not_mem_nil, or_false, not_or] at hm
  unfold State.setThrottle
  simp only [State.get_ite]
  simp [hm]

@[simp] theorem State.setAccess_get (s : State) (b : Nat) {fld : Field} (hm : fld ∉ ([.fns, .flt, .out] : List Field)) :
    (State.setAccess s b).get fld = s.get fld := by
  simp only [List.mem_cons, List.not_mem_nil, or_false, not_or] at hm
  simp [State.setAccess, hm]

@[simp] theorem State.raiseIbi_get (s : State) (data : BitVec 8) {fld : Field} (hm : fld ∉ ([.out] : List Field)) :
    (State.raiseIbi s data).get fld = s.get fld := by
  simp only [List.mem_cons, List.not_mem_nil, or_false] at hm
  simp [State.raiseIbi, hm]

@[simp] theorem State.pend_get (s : State) (b : Binding) {fld : Field} (hm : fld ∉ ([.out] : List Field)) :
    (State.pend s b).get fld = s.get fld := by
  simp only [List.mem_cons, List.not_mem_nil, or_false] at hm
  simp [State.pend, hm]

@[simp] theorem State.setAlert_get (s : State) (b : Nat) {fld : Field} (hm : fld ∉ ([.mgmt, .flt, .out] : List Field)) :
    (State.setAlert s b).get fld = s.get fld := by
  simp only [List.mem_cons, List.not_mem_nil, or_false, not_or] at hm
  unfold State.setAlert
  simp only [State.get_ite]
  simp [hm]

@[simp] theorem State.mctpSend_get (s : State) (b : Binding) (msgType : Nat) (data : Bytes) {fld : Field} (hm : fld ∉ ([.out] : List Field)) :
    (State.mctpSend s b msgType data).get fld = s.get fld := by
  simp only [List.mem_cons, List.not_mem_nil, or_false] at hm
  simp [State.mctpSend, hm]

@[simp] theorem State.pldmSend_get (s : State) (b : Binding) (cmd code : Nat) (data : Bytes) {fld : Field} (hm : fld ∉ ([.out] : List Field)) :
    (State.pldmSend s b cmd code data).get fld = s.get fld := by
  simp only [List.mem_cons, List.not_mem_nil, or_false] at hm
  simp [State.pldmSend, hm]

@[simp] theorem State.setFnDma_get (s : State) (fn : Nat) (kind : Nat) (addr : BitVec 64) {fld : Field} (hm : fld ∉ ([.fns, .flt] : List Field)) :
    (State.setFnDma s fn kind addr).get fld = s.get fld := by
  simp only [List.mem_cons, List.not_mem_nil, or_false, not_or] at hm
  simp [State.setFnDma, hm]

@[simp] theorem State.setIdleClosed_get (s : State) (fn : Nat) {fld : Field} (hm : fld ∉ ([.fns, .mgmt, .flt, .out] : List Field)) :
    (State.setIdleClosed s fn).get fld = s.get fld := by
  simp only [List.mem_cons, List.not_mem_nil, or_false, not_or] at hm
  simp [State.setIdleClosed, hm]

@[simp] theorem State.setQEvt_get (s : State) (r : QRef) (b : Nat) {fld : Field} (hm : fld ∉ ([.queues, .flt] : List Field)) :
    (State.setQEvt s r b).get fld = s.get fld := by
  simp only [List.mem_cons, List.not_mem_nil, or_false, not_or] at hm
  cases fld <;> first | rfl | simp at hm

@[simp] theorem State.setCode_get (s : State) (code detail : BitVec 16) {fld : Field} (hm : fld ∉ ([.boot, .mgmt, .flt, .out] : List Field)) :
    (State.setCode s code detail).get fld = s.get fld := by
  simp only [List.mem_cons, List.not_mem_nil, or_false, not_or] at hm
  simp [State.setCode, hm]

@[simp] theorem State.setProgress_get (s : State) (code detail : BitVec 16) {fld : Field} (hm : fld ∉ ([.boot, .mgmt, .flt, .out] : List Field)) :
    (State.setProgress s code detail).get fld = s.get fld := by
  simp only [List.mem_cons, List.not_mem_nil, or_false, not_or] at hm
  simp [State.setProgress, hm]

@[simp] theorem State.writeRec_get (s : State) (r : LogRec) {fld : Field} (hm : fld ∉ ([.logs, .fns, .mgmt, .flt, .out] : List Field)) :
    (State.writeRec s r).get fld = s.get fld := by
  simp only [List.mem_cons, List.not_mem_nil, or_false, not_or] at hm
  simp [State.writeRec, hm]

@[simp] theorem State.addRec_get (s : State) (r : LogRec) {fld : Field} (hm : fld ∉ ([.logs, .fns, .mgmt, .flt, .out] : List Field)) :
    (State.addRec s r).get fld = s.get fld := by
  simp only [List.mem_cons, List.not_mem_nil, or_false, not_or] at hm
  simp [State.addRec, hm]

@[simp] theorem State.log_get (s : State) (code : BitVec 16) (kind cls unit detail : Nat) {fld : Field} (hm : fld ∉ ([.logs, .fns, .mgmt, .flt, .out] : List Field)) :
    (State.log s code kind cls unit detail).get fld = s.get fld := by
  simp only [List.mem_cons, List.not_mem_nil, or_false, not_or] at hm
  simp [State.log, hm]

@[simp] theorem State.logEvent_get (s : State) (code : BitVec 16) (detail : Nat) {fld : Field} (hm : fld ∉ ([.logs, .fns, .mgmt, .flt, .out] : List Field)) :
    (State.logEvent s code detail).get fld = s.get fld := by
  simp only [List.mem_cons, List.not_mem_nil, or_false, not_or] at hm
  simp [State.logEvent, hm]

@[simp] theorem State.logBroken_get (s : State) (kept broken detail : Nat) {fld : Field} (hm : fld ∉ ([.logs, .fns, .mgmt, .flt, .out] : List Field)) :
    (State.logBroken s kept broken detail).get fld = s.get fld := by
  simp only [List.mem_cons, List.not_mem_nil, or_false, not_or] at hm
  simp [State.logBroken, hm]

@[simp] theorem State.flushLog_get (s : State) {fld : Field} (hm : fld ∉ ([.logs, .fns, .mgmt, .flt, .out] : List Field)) :
    (State.flushLog s).get fld = s.get fld := by
  simp only [List.mem_cons, List.not_mem_nil, or_false, not_or] at hm
  simp [State.flushLog, hm]

@[simp] theorem State.latchIsland_get (s : State) (code : BitVec 16) (cls detail : Nat) {fld : Field} (hm : fld ∉ ([.logs] : List Field)) :
    (State.latchIsland s code cls detail).get fld = s.get fld := by
  simp only [List.mem_cons, List.not_mem_nil, or_false] at hm
  cases fld <;> first | rfl | simp at hm

@[simp] theorem State.faultEvent_get (s : State) (c obj : Nat) {fld : Field} (h : fld ∉ ([.flt] : List Field)) :
    (s.faultEvent c obj).1.get fld = s.get fld := by
  unfold State.faultEvent
  split <;> simp [h]

theorem State.faultEvent_of {s t : State} {c obj : Nat} {b : Bool} (e : s.faultEvent c obj = (t, b)) {fld : Field}
    (h : fld ∉ ([.flt] : List Field)) : t.get fld = s.get fld := by
  have := State.faultEvent_get s c obj h
  rw [e] at this
  exact this

@[simp] theorem State.setClassFlag_get (s : State) (c : Nat) {fld : Field} (hm : fld ∉ ([.fns, .flt, .out] : List Field)) :
    (State.setClassFlag s c).get fld = s.get fld := by
  simp only [List.mem_cons, List.not_mem_nil, or_false, not_or] at hm
  unfold State.setClassFlag
  split <;> simp [hm]

@[simp] theorem State.touchCache_get (s : State) (chain : List Nat) {fld : Field} (hm : fld ∉ ([.keys] : List Field)) :
    (State.touchCache s chain).get fld = s.get fld := by
  simp only [List.mem_cons, List.not_mem_nil, or_false] at hm
  cases fld <;> first | rfl | simp at hm

@[simp] theorem State.leavePort_get (s : State) (id : Nat) {fld : Field} (hm : fld ∉ ([.tables] : List Field)) :
    (State.leavePort s id).get fld = s.get fld := by
  simp only [List.mem_cons, List.not_mem_nil, or_false] at hm
  cases fld <;> first | rfl | simp at hm

@[simp] theorem State.finish_get (s : State) (id : Nat) (status : Status) (result : BitVec 64) (out : Bytes) (cycles : Nat) {fld : Field} (hm : fld ∉ ([.jobs, .tables] : List Field)) :
    (State.finish s id status result out cycles).get fld = s.get fld := by
  simp only [List.mem_cons, List.not_mem_nil, or_false, not_or] at hm
  cases fld <;> first | rfl | simp at hm

@[simp] theorem State.fail_get (s : State) (j : Job) (status : Status) (cycles : Nat) {fld : Field} (hm : fld ∉ ([.jobs, .tables] : List Field)) :
    (State.fail s j status cycles).get fld = s.get fld := by
  simp only [List.mem_cons, List.not_mem_nil, or_false, not_or] at hm
  cases fld <;> first | rfl | simp at hm

@[simp] theorem State.dropStream_get (s : State) (j : Job) {fld : Field} (hm : fld ∉ ([.tables] : List Field)) :
    (State.dropStream s j).get fld = s.get fld := by
  simp only [List.mem_cons, List.not_mem_nil, or_false] at hm
  unfold State.dropStream
  repeat' split
  all_goals simp [hm]

@[simp] theorem State.uncount_get (s : State) (j : Job) (status : Status) {fld : Field} (hm : fld ∉ ([.jobs, .keys] : List Field)) :
    (State.uncount s j status).get fld = s.get fld := by
  simp only [List.mem_cons, List.not_mem_nil, or_false, not_or] at hm
  simp [State.uncount, hm]

@[simp] theorem State.stopJob_get (s : State) (j : Job) (status : Status) {fld : Field} (hm : fld ∉ ([.jobs, .keys, .store, .tables, .freeCtr] : List Field)) :
    (State.stopJob s j status).get fld = s.get fld := by
  simp only [List.mem_cons, List.not_mem_nil, or_false, not_or] at hm
  simp [State.stopJob, hm]

@[simp] theorem State.orderStop_get (s : State) (p : Job → Bool) (status : Status) {fld : Field} (hm : fld ∉ ([.jobs, .keys, .store, .tables, .freeCtr] : List Field)) :
    (State.orderStop s p status).get fld = s.get fld := by
  simp only [List.mem_cons, List.not_mem_nil, or_false, not_or] at hm
  simp [State.orderStop, hm]

@[simp] theorem State.stopNow_get (s : State) (p : Job → Bool) (status : Status) {fld : Field} (hm : fld ∉ ([.jobs, .keys, .store, .tables, .freeCtr] : List Field)) :
    (State.stopNow s p status).get fld = s.get fld := by
  simp only [List.mem_cons, List.not_mem_nil, or_false, not_or] at hm
  simp [State.stopNow, hm]

@[simp] theorem State.requestData_get (s : State) (b : Binding) {fld : Field} (hm : fld ∉ ([.out] : List Field)) :
    (State.requestData s b).get fld = s.get fld := by
  simp only [List.mem_cons, List.not_mem_nil, or_false] at hm
  unfold State.requestData
  split <;> simp [hm]

@[simp] theorem State.takeHigh_get (s : State) {fld : Field} (hm : fld ∉ ([.jobs, .store, .tables, .upd, .out] : List Field)) :
    (State.takeHigh s).get fld = s.get fld := by
  simp only [List.mem_cons, List.not_mem_nil, or_false, not_or] at hm
  unfold State.takeHigh
  repeat' split
  all_goals simp [hm]

@[simp] theorem State.release_get (s : State) (j : Job) {fld : Field} (hm : fld ∉ ([.jobs, .keys, .store, .tables, .upd, .out] : List Field)) :
    (State.release s j).get fld = s.get fld := by
  simp only [List.mem_cons, List.not_mem_nil, or_false, not_or] at hm
  simp [State.release, hm]

@[simp] theorem State.undelivered_get (s : State) (j : Job) {fld : Field} (hm : fld ∉ ([.logs, .fns, .mgmt, .flt, .out] : List Field)) :
    (State.undelivered s j).get fld = s.get fld := by
  simp only [List.mem_cons, List.not_mem_nil, or_false, not_or] at hm
  unfold State.undelivered
  split <;> simp [hm]

@[simp] theorem State.loseJobs_get (s : State) (l : List Job) {fld : Field} (hm : fld ∉ ([.jobs, .keys, .store, .tables, .upd, .out] : List Field)) :
    (State.loseJobs s l).get fld = s.get fld := by
  simp only [List.mem_cons, List.not_mem_nil, or_false, not_or] at hm
  simp [State.loseJobs, hm]

@[simp] theorem State.writeOut_get (s : State) (fn : Nat) (rs : List (BitVec 64 × Nat)) (d : Bytes) {fld : Field}
    (h : fld ∉ ([.out] : List Field)) : (s.writeOut fn rs d).get fld = s.get fld := by
  simp only [List.mem_cons, List.not_mem_nil, or_false] at h
  unfold State.writeOut
  refine State.get_foldl _ _ ?_ _
  intro s p
  refine State.get_foldl _ _ ?_ _
  intro s c
  simp [h]

@[simp] theorem State.readIn_get (s : State) (fn : Nat) (rs : List (BitVec 64 × Nat)) {fld : Field}
    (h : fld ∉ ([.out] : List Field)) : (s.readIn fn rs).get fld = s.get fld := by
  simp only [List.mem_cons, List.not_mem_nil, or_false] at h
  unfold State.readIn
  refine State.get_foldl _ _ ?_ _
  intro s p
  refine State.get_foldl _ _ ?_ _
  intro s c
  simp [h]

@[simp] theorem State.signal_get (s : State) (r : QRef) {fld : Field} (hm : fld ∉ ([.fns, .queues, .out] : List Field)) :
    (State.signal s r).get fld = s.get fld := by
  simp only [List.mem_cons, List.not_mem_nil, or_false, not_or] at hm
  simp [State.signal, hm]

@[simp] theorem State.postEntry_get (s : State) (r : QRef) (cmdId : BitVec 16) (e : Ending) {fld : Field} (hm : fld ∉ ([.fns, .queues, .out] : List Field)) :
    (State.postEntry s r cmdId e).get fld = s.get fld := by
  simp only [List.mem_cons, List.not_mem_nil, or_false, not_or] at hm
  simp [State.postEntry, hm]

@[simp] theorem State.post_get (s : State) (j : Job) (e : Ending) {fld : Field} (hm : fld ∉ ([.fns, .queues, .flt, .out] : List Field)) :
    (State.post s j e).get fld = s.get fld := by
  simp only [List.mem_cons, List.not_mem_nil, or_false, not_or] at hm
  unfold State.post
  split <;> simp [hm]

@[simp] theorem State.wakeAborts_get (s : State) (q : QRef) (cmdId status : BitVec 16) {fld : Field} (hm : fld ∉ ([.jobs, .tables] : List Field)) :
    (State.wakeAborts s q cmdId status).get fld = s.get fld := by
  simp only [List.mem_cons, List.not_mem_nil, or_false, not_or] at hm
  cases fld <;> first | rfl | simp at hm

@[simp] theorem State.wakeStream_get (s : State) (stream : Option Nat) {fld : Field} (hm : fld ∉ ([.jobs] : List Field)) :
    (State.wakeStream s stream).get fld = s.get fld := by
  simp only [List.mem_cons, List.not_mem_nil, or_false] at hm
  unfold State.wakeStream
  repeat' split
  all_goals simp [hm]

@[simp] theorem State.spoilAfter_get (s : State) (j : Job) {fld : Field} (hm : fld ∉ ([.store] : List Field)) :
    (State.spoilAfter s j).get fld = s.get fld := by
  simp only [List.mem_cons, List.not_mem_nil, or_false] at hm
  simp [State.spoilAfter, hm]

@[simp] theorem State.complete_get (s : State) (j : Job) (e : Ending) {fld : Field} (hm : fld ∉ ([.fns, .queues, .jobs, .keys, .store, .tables, .flt, .upd, .out] : List Field)) :
    (State.complete s j e).get fld = s.get fld := by
  simp only [List.mem_cons, List.not_mem_nil, or_false, not_or] at hm
  simp [State.complete, hm]

@[simp] theorem State.request_get (s : State) (inst : Nat) (fresh : Bool) {fld : Field} (hm : fld ∉ ([.ent] : List Field)) :
    (State.request s inst fresh).get fld = s.get fld := by
  simp only [List.mem_cons, List.not_mem_nil, or_false] at hm
  cases fld <;> first | rfl | simp at hm

@[simp] theorem State.scDraw_get (s : State) {fld : Field} (hm : fld ∉ ([.ent, .freeCtr] : List Field)) :
    (State.scDraw s).get fld = s.get fld := by
  simp only [List.mem_cons, List.not_mem_nil, or_false, not_or] at hm
  cases fld <;> first | rfl | simp at hm

@[simp] theorem State.seedJob_get (s : State) (j : Job) {fld : Field} (hm : fld ∉ ([.jobs, .ent] : List Field)) :
    (State.seedJob s j).get fld = s.get fld := by
  simp only [List.mem_cons, List.not_mem_nil, or_false, not_or] at hm
  simp [State.seedJob, hm]

@[simp] theorem State.seeding_get (s : State) (j : Job) (op : Op) {fld : Field} (hm : fld ∉ ([.jobs, .ent] : List Field)) :
    (State.seeding s j op).get fld = s.get fld := by
  simp only [List.mem_cons, List.not_mem_nil, or_false, not_or] at hm
  simp [State.seeding, hm]

@[simp] theorem State.gated_get (s : State) (j : Job) (op : Op) (pub : Nat) (body : State → Job → State) {fld : Field} (hm : fld ∉ ([.jobs, .tables, .ent] : List Field)) (hbody : ∀ x0 x1, (body x0 x1).get fld = x0.get fld) :
    (State.gated s j op pub body).get fld = s.get fld := by
  simp only [List.mem_cons, List.not_mem_nil, or_false, not_or] at hm
  unfold State.gated
  split <;> simp [hm, hbody]

@[simp] theorem State.runOp_get (s : State) (id : Nat) (op : Op) (inp : Bytes) (run : State → Job → State) {fld : Field} (hrun : ∀ x0 x1, (run x0 x1).get fld = x0.get fld) :
    (State.runOp s id op inp run).get fld = s.get fld := by
  unfold State.runOp
  split <;> simp [hrun]

@[simp] theorem State.runCmd_get (s : State) (id : Nat) (op : Op) (run : State → Job → State) {fld : Field} (hrun : ∀ x0 x1, (run x0 x1).get fld = x0.get fld) :
    (State.runCmd s id op run).get fld = s.get fld := by
  simp [State.runCmd, hrun]

@[simp] theorem State.done_get (s : State) (j : Job) (result : Nat) (out : Bytes) (cycles : Nat) {fld : Field} (hm : fld ∉ ([.jobs, .tables] : List Field)) :
    (State.done s j result out cycles).get fld = s.get fld := by
  simp only [List.mem_cons, List.not_mem_nil, or_false, not_or] at hm
  cases fld <;> first | rfl | simp at hm

@[simp] theorem State.endWith_get (s : State) (j : Job) (status : Status) (result : Nat) (cycles : Nat) {fld : Field} (hm : fld ∉ ([.jobs, .tables] : List Field)) :
    (State.endWith s j status result cycles).get fld = s.get fld := by
  simp only [List.mem_cons, List.not_mem_nil, or_false, not_or] at hm
  cases fld <;> first | rfl | simp at hm

@[simp] theorem State.verdict_get (s : State) (j : Job) (good : Bool) (bad : Status) (cycles : Nat) {fld : Field} (hm : fld ∉ ([.jobs, .tables] : List Field)) :
    (State.verdict s j good bad cycles).get fld = s.get fld := by
  simp only [List.mem_cons, List.not_mem_nil, or_false, not_or] at hm
  simp [State.verdict, hm]

@[simp] theorem State.dropUnit_get (s : State) (cls obj unit : Nat) {fld : Field} (hm : fld ∉ ([.logs, .fns, .mgmt, .flt, .out] : List Field)) :
    (State.dropUnit s cls obj unit).get fld = s.get fld := by
  simp only [List.mem_cons, List.not_mem_nil, or_false, not_or] at hm
  simp [State.dropUnit, hm]

@[simp] theorem State.setDom_get (s : State) (d : Nat) (f : Domain → Domain) {fld : Field} (hm : fld ∉ ([.guard] : List Field)) :
    (State.setDom s d f).get fld = s.get fld := by
  simp only [List.mem_cons, List.not_mem_nil, or_false] at hm
  cases fld <;> first | rfl | simp at hm

@[simp] theorem State.mapSport_get (s : State) (p : Port) (f : SievePort → SievePort) {fld : Field} (hm : fld ∉ ([.guard] : List Field)) :
    (State.mapSport s p f).get fld = s.get fld := by
  simp only [List.mem_cons, List.not_mem_nil, or_false] at hm
  unfold State.mapSport
  split <;> simp [hm]

@[simp] theorem State.guardly_get (s : State) (f : State → State) {fld : Field} (hm : fld ∉ ([.mgmt, .flt, .out] : List Field)) (hf : ∀ x0, (f x0).get fld = x0.get fld) :
    (State.guardly s f).get fld = s.get fld := by
  simp only [List.mem_cons, List.not_mem_nil, or_false, not_or] at hm
  simp [State.guardly, hm, hf]

@[simp] theorem State.pin_get (s : State) (d : Nat) (released : Bool) {fld : Field} (hm : fld ∉ ([.guard] : List Field)) :
    (State.pin s d released).get fld = s.get fld := by
  simp only [List.mem_cons, List.not_mem_nil, or_false] at hm
  simp [State.pin, hm]

@[simp] theorem State.settle_get (s : State) {fld : Field} (hm : fld ∉ ([.guard] : List Field)) :
    (State.settle s).get fld = s.get fld := by
  simp only [List.mem_cons, List.not_mem_nil, or_false] at hm
  simp [State.settle, hm]

@[simp] theorem State.dropDeps_get (n : Nat) (s : State) {fld : Field} (h : fld ∉ ([.guard] : List Field)) :
    (s.dropDeps n).get fld = s.get fld := by
  induction n generalizing s with
  | zero => rfl
  | succ n ih => simp only [State.dropDeps]; simp [ih, h]

@[simp] theorem State.hold_get (s : State) (d : Nat) (st : DomState) {fld : Field} (hm : fld ∉ ([.guard] : List Field)) :
    (State.hold s d st).get fld = s.get fld := by
  simp only [List.mem_cons, List.not_mem_nil, or_false] at hm
  simp [State.hold, hm]

@[simp] theorem State.holdAll_get (s : State) {fld : Field} (hm : fld ∉ ([.guard] : List Field)) :
    (State.holdAll s).get fld = s.get fld := by
  simp only [List.mem_cons, List.not_mem_nil, or_false] at hm
  simp [State.holdAll, hm]

@[simp] theorem State.guardJobDone_get (s : State) (d : Nat) {fld : Field} (hm : fld ∉ ([.guard, .jobs, .tables] : List Field)) :
    (State.guardJobDone s d).get fld = s.get fld := by
  simp only [List.mem_cons, List.not_mem_nil, or_false, not_or] at hm
  unfold State.guardJobDone
  repeat' split
  all_goals simp [hm]

@[simp] theorem State.failDom_get (s : State) (d code region : Nat) {fld : Field} (hm : fld ∉ ([.logs, .guard, .fns, .mgmt, .jobs, .tables, .flt, .out] : List Field)) :
    (State.failDom s d code region).get fld = s.get fld := by
  simp only [List.mem_cons, List.not_mem_nil, or_false, not_or] at hm
  simp [State.failDom, hm]

@[simp] theorem State.holdForWrite_get (s : State) (c : Chip) {fld : Field} (hm : fld ∉ ([.guard] : List Field)) :
    (State.holdForWrite s c).get fld = s.get fld := by
  simp only [List.mem_cons, List.not_mem_nil, or_false] at hm
  simp [State.holdForWrite, hm]

@[simp] theorem State.forgetCache_get (s : State) (c : Chip) (base n : Nat) {fld : Field} (hm : fld ∉ ([.guard] : List Field)) :
    (State.forgetCache s c base n).get fld = s.get fld := by
  simp only [List.mem_cons, List.not_mem_nil, or_false] at hm
  cases fld <;> first | rfl | simp at hm

@[simp] theorem State.forgetBlocks_get (s : State) (c : Chip) (base n : Nat) {fld : Field} (hm : fld ∉ ([.guard] : List Field)) :
    (State.forgetBlocks s c base n).get fld = s.get fld := by
  simp only [List.mem_cons, List.not_mem_nil, or_false] at hm
  cases fld <;> first | rfl | simp at hm

@[simp] theorem State.putLeaves_get (s : State) (c : Chip) (base : Nat) (digests : List Bytes) {fld : Field} (hm : fld ∉ ([.guard] : List Field)) :
    (State.putLeaves s c base digests).get fld = s.get fld := by
  simp only [List.mem_cons, List.not_mem_nil, or_false] at hm
  cases fld <;> first | rfl | simp at hm

@[simp] theorem State.putMirror_get (s : State) (r : Region) (blocks : List Bytes) {fld : Field} (hm : fld ∉ ([.guard] : List Field)) :
    (State.putMirror s r blocks).get fld = s.get fld := by
  simp only [List.mem_cons, List.not_mem_nil, or_false] at hm
  simp [State.putMirror, hm]

@[simp] theorem State.setRegion_get (s : State) (d k : Nat) (f : Region → Region) {fld : Field} (hm : fld ∉ ([.guard] : List Field)) :
    (State.setRegion s d k f).get fld = s.get fld := by
  simp only [List.mem_cons, List.not_mem_nil, or_false] at hm
  cases fld <;> first | rfl | simp at hm

@[simp] theorem State.noteRecovered_get (s : State) (d k : Nat) {fld : Field} (hm : fld ∉ ([.logs, .guard, .fns, .mgmt, .flt, .out] : List Field)) :
    (State.noteRecovered s d k).get fld = s.get fld := by
  simp only [List.mem_cons, List.not_mem_nil, or_false, not_or] at hm
  simp [State.noteRecovered, hm]

@[simp] theorem State.remapRegion_get (s : State) (d k : Nat) (r : Region) (image : List Bytes) {fld : Field} (hm : fld ∉ ([.logs, .guard, .fns, .mgmt, .jobs, .tables, .flt, .out] : List Field)) :
    (State.remapRegion s d k r image).get fld = s.get fld := by
  simp only [List.mem_cons, List.not_mem_nil, or_false, not_or] at hm
  simp [State.remapRegion, hm]

@[simp] theorem State.rewriteRegion_get (s : State) (d k : Nat) (r : Region) (image : List Bytes) {fld : Field} (hm : fld ∉ ([.logs, .guard, .fns, .mgmt, .jobs, .tables, .flt, .out] : List Field)) :
    (State.rewriteRegion s d k r image).get fld = s.get fld := by
  simp only [List.mem_cons, List.not_mem_nil, or_false, not_or] at hm
  simp [State.rewriteRegion, hm]

@[simp] theorem State.recoverRegion_get (s : State) (d k : Nat) (r : Region) (image : List Bytes) (remap : Bool) {fld : Field} (hm : fld ∉ ([.logs, .guard, .fns, .mgmt, .jobs, .tables, .flt, .out] : List Field)) :
    (State.recoverRegion s d k r image remap).get fld = s.get fld := by
  simp only [List.mem_cons, List.not_mem_nil, or_false, not_or] at hm
  simp [State.recoverRegion, hm]

@[simp] theorem State.takeRegion_get (s : State) (d k : Nat) (r : Region) (blocks recovery : List Bytes) (onRec : Bool) {fld : Field} (hm : fld ∉ ([.logs, .guard, .fns, .mgmt, .jobs, .tables, .flt, .out] : List Field)) :
    (State.takeRegion s d k r blocks recovery onRec).get fld = s.get fld := by
  simp only [List.mem_cons, List.not_mem_nil, or_false, not_or] at hm
  simp [State.takeRegion, hm]

@[simp] theorem State.checkRegion_get (s : State) (d k : Nat) (r : Region) (blocks recovery : List Bytes) {fld : Field} (hm : fld ∉ ([.logs, .guard, .fns, .mgmt, .jobs, .tables, .flt, .out] : List Field)) :
    (State.checkRegion s d k r blocks recovery).get fld = s.get fld := by
  simp only [List.mem_cons, List.not_mem_nil, or_false, not_or] at hm
  simp [State.checkRegion, hm]

@[simp] theorem State.acceptManifest_get (s : State) (d : Nat) (b : Bytes) {fld : Field} (hm : fld ∉ ([.logs, .guard, .fns, .mgmt, .jobs, .tables, .flt, .out] : List Field)) :
    (State.acceptManifest s d b).get fld = s.get fld := by
  simp only [List.mem_cons, List.not_mem_nil, or_false, not_or] at hm
  simp [State.acceptManifest, hm]

@[simp] theorem State.startPort_get (s : State) (p : Policy) (port : Port) {fld : Field} (hm : fld ∉ ([.guard, .out] : List Field)) :
    (State.startPort s p port).get fld = s.get fld := by
  simp only [List.mem_cons, List.not_mem_nil, or_false, not_or] at hm
  simp [State.startPort, hm]

@[simp] theorem State.guardStart_get (s : State) {fld : Field} (hm : fld ∉ ([.guard, .out] : List Field)) :
    (State.guardStart s).get fld = s.get fld := by
  simp only [List.mem_cons, List.not_mem_nil, or_false, not_or] at hm
  unfold State.guardStart
  split <;> simp [hm]

@[simp] theorem State.stopPort_get (s : State) (p : Port) {fld : Field} (hm : fld ∉ ([.out] : List Field)) :
    (State.stopPort s p).get fld = s.get fld := by
  simp only [List.mem_cons, List.not_mem_nil, or_false] at hm
  simp [State.stopPort, hm]

@[simp] theorem State.guardReset_get (s : State) {fld : Field} (hm : fld ∉ ([.guard, .out] : List Field)) :
    (State.guardReset s).get fld = s.get fld := by
  simp only [List.mem_cons, List.not_mem_nil, or_false, not_or] at hm
  simp [State.guardReset, hm]

@[simp] theorem State.burn_get (s : State) (w : Nat) (data : BitVec 32) {fld : Field} (hm : fld ∉ ([.fuses] : List Field)) :
    (State.burn s w data).get fld = s.get fld := by
  simp only [List.mem_cons, List.not_mem_nil, or_false] at hm
  cases fld <;> first | rfl | simp at hm

@[simp] theorem State.burnBad_get (s : State) (w : Nat) {fld : Field} (hm : fld ∉ ([.fuses, .freeCtr] : List Field)) :
    (State.burnBad s w).get fld = s.get fld := by
  simp only [List.mem_cons, List.not_mem_nil, or_false, not_or] at hm
  cases fld <;> first | rfl | simp at hm

@[simp] theorem State.burnAll_get (s : State) (l : List (Nat × BitVec 32)) {fld : Field} (hm : fld ∉ ([.fuses] : List Field)) :
    (State.burnAll s l).get fld = s.get fld := by
  simp only [List.mem_cons, List.not_mem_nil, or_false] at hm
  simp [State.burnAll, hm]

@[simp] theorem State.burnTrip_get (s : State) (l : List (Nat × BitVec 32)) {fld : Field} (hm : fld ∉ ([.fuses] : List Field)) :
    (State.burnTrip s l).get fld = s.get fld := by
  simp only [List.mem_cons, List.not_mem_nil, or_false] at hm
  simp [State.burnTrip, hm]

@[simp] theorem State.redecode_get (s : State) {fld : Field} (hm : fld ∉ ([.fuses] : List Field)) :
    (State.redecode s).get fld = s.get fld := by
  simp only [List.mem_cons, List.not_mem_nil, or_false] at hm
  cases fld <;> first | rfl | simp at hm

@[simp] theorem State.disableRoot_get (s : State) (e : Nat) {fld : Field} (hm : fld ∉ ([.logs, .fuses, .fns, .mgmt, .flt, .out] : List Field)) :
    (State.disableRoot s e).get fld = s.get fld := by
  simp only [List.mem_cons, List.not_mem_nil, or_false, not_or] at hm
  simp [State.disableRoot, hm]

@[simp] theorem State.orderDisable_get (s : State) {fld : Field} (hm : fld ∉ ([.logs, .fuses, .fns, .mgmt, .flt, .out] : List Field)) :
    (State.orderDisable s).get fld = s.get fld := by
  simp only [List.mem_cons, List.not_mem_nil, or_false, not_or] at hm
  simp [State.orderDisable, hm]

@[simp] theorem State.spoilKeyStores_get (s : State) (keepHigh : Bool) {fld : Field} (hm : fld ∉ ([.keys, .store, .tables] : List Field)) :
    (State.spoilKeyStores s keepHigh).get fld = s.get fld := by
  simp only [List.mem_cons, List.not_mem_nil, or_false, not_or] at hm
  cases fld <;> first | rfl | simp at hm

@[simp] theorem State.newSaveKey_get (s : State) {fld : Field} (hm : fld ∉ ([.dru, .freeCtr] : List Field)) :
    (State.newSaveKey s).get fld = s.get fld := by
  simp only [List.mem_cons, List.not_mem_nil, or_false, not_or] at hm
  simp [State.newSaveKey, hm]

@[simp] theorem State.clearDru_get (s : State) (owner : DruOwner) {fld : Field} (hm : fld ∉ ([.dru, .freeCtr] : List Field)) :
    (State.clearDru s owner).get fld = s.get fld := by
  simp only [List.mem_cons, List.not_mem_nil, or_false, not_or] at hm
  simp [State.clearDru, hm]

@[simp] theorem State.respoilDrbg_get (s : State) {fld : Field} (hm : fld ∉ ([.ent] : List Field)) :
    (State.respoilDrbg s).get fld = s.get fld := by
  simp only [List.mem_cons, List.not_mem_nil, or_false] at hm
  cases fld <;> first | rfl | simp at hm

@[simp] theorem State.dropUpdate_get (s : State) {fld : Field} (hm : fld ∉ ([.store, .upd] : List Field)) :
    (State.dropUpdate s).get fld = s.get fld := by
  simp only [List.mem_cons, List.not_mem_nil, or_false, not_or] at hm
  cases fld <;> first | rfl | simp at hm

@[simp] theorem State.dropHostUpdate_get (s : State) {fld : Field} (hm : fld ∉ ([.store, .upd] : List Field)) :
    (State.dropHostUpdate s).get fld = s.get fld := by
  simp only [List.mem_cons, List.not_mem_nil, or_false, not_or] at hm
  simp [State.dropHostUpdate, hm]

@[simp] theorem State.forgetWaits_get (s : State) {fld : Field} (hm : fld ∉ ([.guard, .store, .upd] : List Field)) :
    (State.forgetWaits s).get fld = s.get fld := by
  simp only [List.mem_cons, List.not_mem_nil, or_false, not_or] at hm
  cases fld <;> first | rfl | simp at hm

@[simp] theorem State.endJobs_get (s : State) (l : List Job) {fld : Field} (hm : fld ∉ ([.logs, .guard, .fns, .mgmt, .jobs, .keys, .store, .tables, .flt, .upd, .out] : List Field)) :
    (State.endJobs s l).get fld = s.get fld := by
  simp only [List.mem_cons, List.not_mem_nil, or_false, not_or] at hm
  simp [State.endJobs, hm]

@[simp] theorem State.closeAllSessions_get (s : State) {fld : Field} (hm : fld ∉ ([.fns, .mgmt] : List Field)) :
    (State.closeAllSessions s).get fld = s.get fld := by
  simp only [List.mem_cons, List.not_mem_nil, or_false, not_or] at hm
  cases fld <;> first | rfl | simp at hm

@[simp] theorem State.enterLockdown_get (s : State) (n : Nat) {fld : Field} (hm : fld ∉ ([.boot, .mgmt, .jobs, .keys, .store, .tables, .dru, .ent, .flt, .freeCtr, .out] : List Field)) :
    (State.enterLockdown s n).get fld = s.get fld := by
  simp only [List.mem_cons, List.not_mem_nil, or_false, not_or] at hm
  simp [State.enterLockdown, hm]

@[simp] theorem State.clearDie_get (s : State) {fld : Field} (hm : fld ∉ ([.boot, .fns, .mgmt, .queues, .jobs, .sched, .keys, .store, .tables, .dru, .ent, .flt, .upd] : List Field)) :
    (State.clearDie s).get fld = s.get fld := by
  simp only [List.mem_cons, List.not_mem_nil, or_false, not_or] at hm
  cases fld <;> first | rfl | simp at hm

@[simp] theorem State.restartDie_get (s : State) {fld : Field} (hm : fld ∉ ([.boot, .logs, .guard, .fns, .mgmt, .queues, .jobs, .sched, .keys, .store, .tables, .dru, .ent, .flt, .upd, .out] : List Field)) :
    (State.restartDie s).get fld = s.get fld := by
  simp only [List.mem_cons, List.not_mem_nil, or_false, not_or] at hm
  simp [State.restartDie, hm]

@[simp] theorem State.resetFns_get (s : State) {fld : Field} (hm : fld ∉ ([.fns] : List Field)) :
    (State.resetFns s).get fld = s.get fld := by
  simp only [List.mem_cons, List.not_mem_nil, or_false] at hm
  cases fld <;> first | rfl | simp at hm

@[simp] theorem State.majorRun_get (s : State) (code : BitVec 16) (cls detail : Nat) {fld : Field} (hm : fld ∉ ([.boot, .logs, .fuses, .guard, .fns, .mgmt, .jobs, .keys, .store, .tables, .dru, .ent, .flt, .upd, .freeCtr, .out] : List Field)) :
    (State.majorRun s code cls detail).get fld = s.get fld := by
  simp only [List.mem_cons, List.not_mem_nil, or_false, not_or] at hm
  simp [State.majorRun, hm]

@[simp] theorem State.majorEarly_get (s : State) (code : BitVec 16) (cls detail : Nat) {fld : Field} (hm : fld ∉ ([.boot, .logs, .guard, .fns, .mgmt, .queues, .jobs, .sched, .keys, .store, .tables, .dru, .ent, .flt, .upd, .out] : List Field)) :
    (State.majorEarly s code cls detail).get fld = s.get fld := by
  simp only [List.mem_cons, List.not_mem_nil, or_false, not_or] at hm
  simp [State.majorEarly, hm]

@[simp] theorem State.majorTamper_get (s : State) (code : BitVec 16) (cls detail : Nat) {fld : Field} (hm : fld ∉ ([.boot, .logs, .fuses, .guard, .fns, .mgmt, .queues, .jobs, .sched, .keys, .store, .tables, .dru, .ent, .flt, .upd, .freeCtr, .out] : List Field)) :
    (State.majorTamper s code cls detail).get fld = s.get fld := by
  simp only [List.mem_cons, List.not_mem_nil, or_false, not_or] at hm
  simp [State.majorTamper, hm]

@[simp] theorem State.unitFaultEvent_get (s : State) (c : Nat × Nat × Nat) (result : Nat) {fld : Field}
    (h : fld ∉ ([.boot, .logs, .fuses, .guard, .fns, .mgmt, .queues, .jobs, .sched, .keys, .store, .tables, .dru, .ent, .flt, .upd, .freeCtr, .out] : List Field)) : (s.unitFaultEvent c result).get fld = s.get fld := by
  simp only [List.mem_cons, List.not_mem_nil, or_false, not_or] at h
  have hs : fld ∉ ([.flt] : List Field) := by simp [h]
  unfold State.unitFaultEvent
  dsimp only
  split
  · rename_i e
    simp [State.faultEvent_of e hs, h]
  · rename_i e
    split <;> simp [State.faultEvent_of e hs, h]

@[simp] theorem State.loseWord_get (s : State) (w : SramWord) {fld : Field} (hm : fld ∉ ([.guard, .fns, .keys, .store, .flt, .out] : List Field)) :
    (State.loseWord s w).get fld = s.get fld := by
  simp only [List.mem_cons, List.not_mem_nil, or_false, not_or] at hm
  unfold State.loseWord
  repeat' split
  all_goals simp [hm]

@[simp] theorem State.eccJob_get (s : State) (w : SramWord) {fld : Field} (hm : fld ∉ ([.jobs, .tables, .freeCtr] : List Field)) :
    (State.eccJob s w).get fld = s.get fld := by
  simp only [List.mem_cons, List.not_mem_nil, or_false, not_or] at hm
  unfold State.eccJob
  repeat' split
  all_goals simp [hm]

@[simp] theorem State.retire_get (s : State) (w : SramWord) (cls : Nat) {fld : Field} (hm : fld ∉ ([.logs, .guard, .fns, .mgmt, .keys, .store, .flt, .out] : List Field)) :
    (State.retire s w cls).get fld = s.get fld := by
  simp only [List.mem_cons, List.not_mem_nil, or_false, not_or] at hm
  simp [State.retire, hm]

@[simp] theorem State.sramUe_get (s : State) (w : SramWord) {fld : Field} (hm : fld ∉ ([.logs, .guard, .fns, .mgmt, .jobs, .keys, .store, .tables, .flt, .freeCtr, .out] : List Field)) :
    (State.sramUe s w).get fld = s.get fld := by
  simp only [List.mem_cons, List.not_mem_nil, or_false, not_or] at hm
  simp [State.sramUe, hm]

@[simp] theorem State.applyPatches_get (s : State) {fld : Field} (hm : fld ∉ ([.fuses] : List Field)) :
    (State.applyPatches s).get fld = s.get fld := by
  simp only [List.mem_cons, List.not_mem_nil, or_false] at hm
  cases fld <;> first | rfl | simp at hm

@[simp] theorem State.resumeStateful_get (s : State) {fld : Field} (hm : fld ∉ ([.keeper, .logs, .fns, .mgmt, .flt, .out] : List Field)) :
    (State.resumeStateful s).get fld = s.get fld := by
  simp only [List.mem_cons, List.not_mem_nil, or_false, not_or] at hm
  simp [State.resumeStateful, hm]

@[simp] theorem State.loadComponents_get (s : State) {fld : Field} (hm : fld ∉ ([.guard, .tables] : List Field)) :
    (State.loadComponents s).get fld = s.get fld := by
  simp only [List.mem_cons, List.not_mem_nil, or_false, not_or] at hm
  cases fld <;> first | rfl | simp at hm

@[simp] theorem State.applyDebug_get (s : State) {fld : Field} (hm : fld ∉ ([.keeper] : List Field)) :
    (State.applyDebug s).get fld = s.get fld := by
  simp only [List.mem_cons, List.not_mem_nil, or_false] at hm
  cases fld <;> first | rfl | simp at hm

@[simp] theorem State.retier_get (s : State) (f : State → State) {fld : Field} (hm : fld ∉ ([.out] : List Field)) (hf : ∀ x0, (f x0).get fld = x0.get fld) :
    (State.retier s f).get fld = s.get fld := by
  simp only [List.mem_cons, List.not_mem_nil, or_false] at hm
  simp [State.retier, hm, hf]

@[simp] theorem State.resumePaused_get (s : State) {fld : Field} (hm : fld ∉ ([.jobs] : List Field)) :
    (State.resumePaused s).get fld = s.get fld := by
  simp only [List.mem_cons, List.not_mem_nil, or_false] at hm
  cases fld <;> first | rfl | simp at hm

@[simp] theorem State.onBar_get (s : State) (fn : Nat) (act : State → State) {fld : Field} (hm : fld ∉ ([.out] : List Field)) (hact : ∀ x0, (act x0).get fld = x0.get fld) :
    (State.onBar s fn act).get fld = s.get fld := by
  simp only [List.mem_cons, List.not_mem_nil, or_false] at hm
  simp [State.onBar, hm, hact]

@[simp] theorem State.keeperStart_get (s : State) (mv : Nat) (straps : Straps) (chk : KeeperCheck) {fld : Field} (hm : fld ∉ ([.power, .thermal, .boot, .keeper, .logs, .guard, .mgmt, .flt, .upd, .freeCtr, .out] : List Field)) :
    (State.keeperStart s mv straps chk).get fld = s.get fld := by
  simp only [List.mem_cons, List.not_mem_nil, or_false, not_or] at hm
  cases fld <;> first | rfl | simp at hm

@[simp] theorem State.writeLatched_get (s : State) {fld : Field} (hm : fld ∉ ([.logs, .fns, .mgmt, .flt, .out] : List Field)) :
    (State.writeLatched s).get fld = s.get fld := by
  simp only [List.mem_cons, List.not_mem_nil, or_false, not_or] at hm
  simp [State.writeLatched, hm]

@[simp] theorem State.holdLatched_get (s : State) {fld : Field} (hm : fld ∉ ([.boot, .logs, .fns, .mgmt, .flt, .out] : List Field)) :
    (State.holdLatched s).get fld = s.get fld := by
  simp only [List.mem_cons, List.not_mem_nil, or_false, not_or] at hm
  unfold State.holdLatched
  split <;> simp [hm]

@[simp] theorem State.noteIsland_get (s : State) {fld : Field} (hm : fld ∉ ([.boot, .logs, .fuses, .guard, .fns, .mgmt, .queues, .jobs, .sched, .keys, .store, .tables, .dru, .ent, .flt, .upd, .freeCtr, .out] : List Field)) :
    (State.noteIsland s).get fld = s.get fld := by
  simp only [List.mem_cons, List.not_mem_nil, or_false, not_or] at hm
  simp [State.noteIsland, hm]

@[simp] theorem State.writePwrLimit_get (s : State) (value : BitVec 64) {fld : Field} (hm : fld ∉ ([.power, .out] : List Field)) :
    (State.writePwrLimit s value).get fld = s.get fld := by
  simp only [List.mem_cons, List.not_mem_nil, or_false, not_or] at hm
  simp [State.writePwrLimit, hm]

@[simp] theorem State.holdCert_get (s : State) {fld : Field} (hm : fld ∉ ([.keeper, .keys, .store, .tables] : List Field)) :
    (State.holdCert s).get fld = s.get fld := by
  simp only [List.mem_cons, List.not_mem_nil, or_false, not_or] at hm
  simp [State.holdCert, hm]

@[simp] theorem State.migrateBlob_get (s : State) (v : Nat) {fld : Field} (hm : fld ∉ ([.keeper] : List Field)) :
    (State.migrateBlob s v).get fld = s.get fld := by
  simp only [List.mem_cons, List.not_mem_nil, or_false] at hm
  cases fld <;> first | rfl | simp at hm

@[simp] theorem State.clearLcJournal_get (s : State) {fld : Field} (hm : fld ∉ ([.keeper] : List Field)) :
    (State.clearLcJournal s).get fld = s.get fld := by
  simp only [List.mem_cons, List.not_mem_nil, or_false] at hm
  cases fld <;> first | rfl | simp at hm

@[simp] theorem State.writeWaiting_get (s : State) {fld : Field} (hm : fld ∉ ([.keeper] : List Field)) :
    (State.writeWaiting s).get fld = s.get fld := by
  simp only [List.mem_cons, List.not_mem_nil, or_false] at hm
  simp [State.writeWaiting, hm]

@[simp] theorem State.throttleUp_get (s : State) {fld : Field} (hm : fld ∉ ([.thermal, .fns, .flt, .out] : List Field)) :
    (State.throttleUp s).get fld = s.get fld := by
  simp only [List.mem_cons, List.not_mem_nil, or_false, not_or] at hm
  simp [State.throttleUp, hm]

@[simp] theorem State.readTherm_get (s : State) {fld : Field} (hm : fld ∉ ([.thermal, .out] : List Field)) :
    (State.readTherm s).get fld = s.get fld := by
  simp only [List.mem_cons, List.not_mem_nil, or_false, not_or] at hm
  cases fld <;> first | rfl | simp at hm

@[simp] theorem State.onQueue_get (s : State) (r : QRef) (act : State → State) {fld : Field} (hm : fld ∉ ([.out] : List Field)) (hact : ∀ x0, (act x0).get fld = x0.get fld) :
    (State.onQueue s r act).get fld = s.get fld := by
  simp only [List.mem_cons, List.not_mem_nil, or_false] at hm
  simp [State.onQueue, hm, hact]

@[simp] theorem State.onQueueRead_get (s : State) (r : QRef) (act : State → State) {fld : Field} (hm : fld ∉ ([.out] : List Field)) (hact : ∀ x0, (act x0).get fld = x0.get fld) :
    (State.onQueueRead s r act).get fld = s.get fld := by
  simp only [List.mem_cons, List.not_mem_nil, or_false] at hm
  simp [State.onQueueRead, hm, hact]

@[simp] theorem State.latchCounters_get (s : State) (r : QRef) {fld : Field} (hm : fld ∉ ([.queues, .out] : List Field)) :
    (State.latchCounters s r).get fld = s.get fld := by
  simp only [List.mem_cons, List.not_mem_nil, or_false, not_or] at hm
  simp [State.latchCounters, hm]

@[simp] theorem State.endQueue_get (s : State) (r : QRef) {fld : Field} (hm : fld ∉ ([.queues, .sched] : List Field)) :
    (State.endQueue s r).get fld = s.get fld := by
  simp only [List.mem_cons, List.not_mem_nil, or_false, not_or] at hm
  simp [State.endQueue, hm]

@[simp] theorem State.endQueues_get (s : State) (p : QRef → Bool) {fld : Field} (hm : fld ∉ ([.queues, .sched] : List Field)) :
    (State.endQueues s p).get fld = s.get fld := by
  simp only [List.mem_cons, List.not_mem_nil, or_false, not_or] at hm
  simp [State.endQueues, hm]

@[simp] theorem State.queueError_get (s : State) (r : QRef) (kind index : Nat) {fld : Field} (hm : fld ∉ ([.fns, .queues, .flt, .out] : List Field)) :
    (State.queueError s r kind index).get fld = s.get fld := by
  simp only [List.mem_cons, List.not_mem_nil, or_false, not_or] at hm
  simp [State.queueError, hm]

@[simp] theorem State.malformed_get (s : State) (r : QRef) (kind index : Nat) {fld : Field} (hm : fld ∉ ([.boot, .fns, .mgmt, .queues, .jobs, .keys, .store, .tables, .dru, .ent, .flt, .freeCtr, .out] : List Field)) :
    (State.malformed s r kind index).get fld = s.get fld := by
  simp only [List.mem_cons, List.not_mem_nil, or_false, not_or] at hm
  simp [State.malformed, hm]

@[simp] theorem State.takeEntry_get (s : State) (r : QRef) (e : Entry) {fld : Field} (hm : fld ∉ ([.queues, .sched] : List Field)) :
    (State.takeEntry s r e).get fld = s.get fld := by
  simp only [List.mem_cons, List.not_mem_nil, or_false, not_or] at hm
  cases fld <;> first | rfl | simp at hm

@[simp] theorem State.takeRun_get (s : State) (r : QRef) (l : List Bytes) {fld : Field}
    (h : fld ∉ ([.boot, .fns, .mgmt, .queues, .jobs, .sched, .keys, .store, .tables, .dru, .ent, .flt, .freeCtr, .out] : List Field)) : (s.takeRun r l).get fld = s.get fld := by
  simp only [List.mem_cons, List.not_mem_nil, or_false, not_or] at h
  induction l generalizing s with
  | nil => rfl
  | cons o l ih => 
    simp only [State.takeRun]
    repeat' split
    all_goals simp [ih, h]

@[simp] theorem State.writeHead_get (s : State) (r : QRef) {fld : Field} (hm : fld ∉ ([.out] : List Field)) :
    (State.writeHead s r).get fld = s.get fld := by
  simp only [List.mem_cons, List.not_mem_nil, or_false] at hm
  simp [State.writeHead, hm]

@[simp] theorem State.dmaError_get (s : State) (fn : Nat) (e : DmaErr) (addr : BitVec 64) {fld : Field}
    (h : fld ∉ ([.logs, .guard, .fns, .mgmt, .jobs, .keys, .store, .tables, .flt, .freeCtr, .out] : List Field)) :
    (s.dmaError fn e addr).get fld = s.get fld := by
  simp only [List.mem_cons, List.not_mem_nil, or_false, not_or] at h
  unfold State.dmaError
  cases e <;> simp [h]

@[simp] theorem State.ringError_get (s : State) (r : QRef) (e : DmaErr) (addr : BitVec 64) {fld : Field} (hm : fld ∉ ([.boot, .logs, .guard, .fns, .mgmt, .queues, .jobs, .keys, .store, .tables, .dru, .ent, .flt, .freeCtr, .out] : List Field)) :
    (State.ringError s r e addr).get fld = s.get fld := by
  simp only [List.mem_cons, List.not_mem_nil, or_false, not_or] at hm
  simp [State.ringError, hm]

@[simp] theorem State.ringSq_get (s : State) (r : QRef) {fld : Field} (hm : fld ∉ ([.fns, .queues, .flt, .out] : List Field)) :
    (State.ringSq s r).get fld = s.get fld := by
  simp only [List.mem_cons, List.not_mem_nil, or_false, not_or] at hm
  unfold State.ringSq
  split <;> simp [hm]

@[simp] theorem State.reportCq_get (s : State) (r : QRef) (head : Nat) (phase : Bool) {fld : Field} (hm : fld ∉ ([.boot, .fns, .mgmt, .queues, .jobs, .keys, .store, .tables, .dru, .ent, .flt, .freeCtr, .out] : List Field)) :
    (State.reportCq s r head phase).get fld = s.get fld := by
  simp only [List.mem_cons, List.not_mem_nil, or_false, not_or] at hm
  simp [State.reportCq, hm]

@[simp] theorem State.enableQueue_get (s : State) (r : QRef) {fld : Field} (hm : fld ∉ ([.queues] : List Field)) :
    (State.enableQueue s r).get fld = s.get fld := by
  simp only [List.mem_cons, List.not_mem_nil, or_false] at hm
  cases fld <;> first | rfl | simp at hm

@[simp] theorem State.disableQueue_get (s : State) (r : QRef) {fld : Field} (hm : fld ∉ ([.queues] : List Field)) :
    (State.disableQueue s r).get fld = s.get fld := by
  simp only [List.mem_cons, List.not_mem_nil, or_false] at hm
  simp [State.disableQueue, hm]

@[simp] theorem State.writeCfg_get (s : State) (r : QRef) (v : BitVec 64) {fld : Field} (hm : fld ∉ ([.queues] : List Field)) :
    (State.writeCfg s r v).get fld = s.get fld := by
  simp only [List.mem_cons, List.not_mem_nil, or_false] at hm
  simp [State.writeCfg, hm]

@[simp] theorem State.restartAdmin_get (s : State) (fn : Nat) (skip : Bool) {fld : Field} (hm : fld ∉ ([.queues] : List Field)) :
    (State.restartAdmin s fn skip).get fld = s.get fld := by
  simp only [List.mem_cons, List.not_mem_nil, or_false] at hm
  simp [State.restartAdmin, hm]

@[simp] theorem State.writeHeld_get (s : State) (fn : Nat) {fld : Field}
    (h : fld ∉ ([.fns, .queues, .jobs, .sched, .keys, .store, .tables, .flt, .upd, .out] : List Field)) :
    (s.writeHeld fn).get fld = s.get fld := by
  simp only [List.mem_cons, List.not_mem_nil, or_false, not_or] at h
  unfold State.writeHeld
  dsimp only
  rw [State.mapSched_get _ _ (by simp [h])]
  refine State.get_foldl _ _ ?_ _
  intro s a
  repeat' split
  all_goals simp [h]

@[simp] theorem State.endHash_get (s : State) (j : Job) (alg : Nat) (out tag : Bytes) (cycles : Nat) {fld : Field} (hm : fld ∉ ([.jobs, .tables] : List Field)) :
    (State.endHash s j alg out tag cycles).get fld = s.get fld := by
  simp only [List.mem_cons, List.not_mem_nil, or_false, not_or] at hm
  simp [State.endHash, hm]

@[simp] theorem State.onStream_get (s : State) (j : Job) (run : State → Stream → State) {fld : Field} (hm : fld ∉ ([.jobs, .tables] : List Field)) (hrun : ∀ x0 x1, (run x0 x1).get fld = x0.get fld) :
    (State.onStream s j run).get fld = s.get fld := by
  simp only [List.mem_cons, List.not_mem_nil, or_false, not_or] at hm
  unfold State.onStream
  split <;> simp [hm, hrun]

@[simp] theorem State.treeRegister_get (s : State) (j : Job) (k : TreeKind) {fld : Field}
    (h : fld ∉ ([.keeper, .jobs, .store, .tables, .freeCtr] : List Field)) : (s.treeRegister j k).get fld = s.get fld := by
  simp only [List.mem_cons, List.not_mem_nil, or_false, not_or] at h
  unfold State.treeRegister
  generalize s.jobRec j = o
  generalize s.keeper.freeRec = m
  dsimp only
  cases o <;> cases m <;> simp only [State.get_ite] <;> simp [h]

@[simp] theorem State.treeKeygen_get (s : State) (j : Job) (k : TreeKind) {fld : Field}
    (h : fld ∉ ([.keeper, .jobs, .store, .tables, .freeCtr] : List Field)) : (s.treeKeygen j k).get fld = s.get fld := by
  simp only [List.mem_cons, List.not_mem_nil, or_false, not_or] at h
  unfold State.treeKeygen
  split
  · split <;> simp [h]
  · simp [h]
  · simp [h]

@[simp] theorem State.treeFinish_get (s : State) (j : Job) (k : TreeKind) (q : Nat) (t : TreeCache) (inp : Bytes) {fld : Field} (hm : fld ∉ ([.jobs, .store, .tables, .freeCtr] : List Field)) :
    (State.treeFinish s j k q t inp).get fld = s.get fld := by
  simp only [List.mem_cons, List.not_mem_nil, or_false, not_or] at hm
  simp [State.treeFinish, hm]

@[simp] theorem State.treeSign_get (s : State) (j : Job) (k : TreeKind) (op : Op) (inp : Bytes) {fld : Field} (hm : fld ∉ ([.jobs, .store, .tables, .ent, .freeCtr] : List Field)) :
    (State.treeSign s j k op inp).get fld = s.get fld := by
  simp only [List.mem_cons, List.not_mem_nil, or_false, not_or] at hm
  unfold State.treeSign
  split <;> simp [hm]

@[simp] theorem State.takeIndex_get (s : State) (j : Job) {fld : Field} (hm : fld ∉ ([.keeper, .jobs, .tables] : List Field)) :
    (State.takeIndex s j).get fld = s.get fld := by
  simp only [List.mem_cons, List.not_mem_nil, or_false, not_or] at hm
  unfold State.takeIndex
  split <;> simp [hm]

@[simp] theorem State.holdLane_get (s : State) (j : Job) {fld : Field} (hm : fld ∉ ([.jobs] : List Field)) :
    (State.holdLane s j).get fld = s.get fld := by
  simp only [List.mem_cons, List.not_mem_nil, or_false] at hm
  cases fld <;> first | rfl | simp at hm

@[simp] theorem State.rsaRun_get (s : State) (j : Job) (key c : Bytes) (cycles : Nat) {fld : Field} (hm : fld ∉ ([.jobs, .tables] : List Field)) :
    (State.rsaRun s j key c cycles).get fld = s.get fld := by
  simp only [List.mem_cons, List.not_mem_nil, or_false, not_or] at hm
  simp [State.rsaRun, hm]

@[simp] theorem State.xts_get (s : State) (j : Job) (dec : Bool) (inp : Bytes) {fld : Field} (hm : fld ∉ ([.jobs, .tables] : List Field)) :
    (State.xts s j dec inp).get fld = s.get fld := by
  simp only [List.mem_cons, List.not_mem_nil, or_false, not_or] at hm
  simp [State.xts, hm]

@[simp] theorem State.nvOp_get (s : State) (id : Nat) (op : Op) (inp : Bytes) (run : State → Job → State) {fld : Field} (hrun : ∀ x0 x1, (run x0 x1).get fld = x0.get fld) :
    (State.nvOp s id op inp run).get fld = s.get fld := by
  simp [State.nvOp, hrun]

@[simp] theorem State.refuse_get (s : State) (j : Job) (obj : Nat) {fld : Field} (hm : fld ∉ ([.jobs, .tables] : List Field)) :
    (State.refuse s j obj).get fld = s.get fld := by
  simp only [List.mem_cons, List.not_mem_nil, or_false, not_or] at hm
  simp [State.refuse, hm]

@[simp] theorem State.revoke_get (s : State) (i : Nat) {fld : Field} (hm : fld ∉ ([.keeper, .keys] : List Field)) :
    (State.revoke s i).get fld = s.get fld := by
  simp only [List.mem_cons, List.not_mem_nil, or_false, not_or] at hm
  simp [State.revoke, hm]

@[simp] theorem State.awaitBarrier_get (s : State) (j : Job) (e : Ending) {fld : Field} (hm : fld ∉ ([.jobs, .tables] : List Field)) :
    (State.awaitBarrier s j e).get fld = s.get fld := by
  simp only [List.mem_cons, List.not_mem_nil, or_false, not_or] at hm
  simp [State.awaitBarrier, hm]

@[simp] theorem State.invalidateRun_get (s : State) (j : Job) (spoil : Bool) {fld : Field} (hm : fld ∉ ([.keeper, .jobs, .keys, .tables] : List Field)) :
    (State.invalidateRun s j spoil).get fld = s.get fld := by
  simp only [List.mem_cons, List.not_mem_nil, or_false, not_or] at hm
  simp [State.invalidateRun, hm]

@[simp] theorem State.freeCtx_get (s : State) (i : Nat) {fld : Field} (hm : fld ∉ ([.keeper, .keys] : List Field)) :
    (State.freeCtx s i).get fld = s.get fld := by
  simp only [List.mem_cons, List.not_mem_nil, or_false, not_or] at hm
  simp [State.freeCtx, hm]

@[simp] theorem State.installImage_get (s : State) (body : Bytes) (revs : List (Nat × Nat)) {fld : Field} (hm : fld ∉ ([.keys] : List Field)) :
    (State.installImage s body revs).get fld = s.get fld := by
  simp only [List.mem_cons, List.not_mem_nil, or_false] at hm
  cases fld <;> first | rfl | simp at hm

@[simp] theorem State.migrate_get (s : State) (j : Job) (inp : Bytes) {fld : Field} (hm : fld ∉ ([.keeper, .jobs, .keys, .tables, .ent, .freeCtr] : List Field)) :
    (State.migrate s j inp).get fld = s.get fld := by
  simp only [List.mem_cons, List.not_mem_nil, or_false, not_or] at hm
  simp [State.migrate, hm]

@[simp] theorem State.installMigration_get (s : State) (p : MigPayload) (entry : Nat) {fld : Field} (hm : fld ∉ ([.keys] : List Field)) :
    (State.installMigration s p entry).get fld = s.get fld := by
  simp only [List.mem_cons, List.not_mem_nil, or_false] at hm
  simp [State.installMigration, hm]

@[simp] theorem State.placeImport_get (s : State) (j : Job) (p : MigPayload) (nonce : Bytes) {fld : Field} (hm : fld ∉ ([.keeper, .jobs, .keys, .tables] : List Field)) :
    (State.placeImport s j p nonce).get fld = s.get fld := by
  simp only [List.mem_cons, List.not_mem_nil, or_false, not_or] at hm
  unfold State.placeImport
  split <;> simp [hm]

@[simp] theorem State.senseAll_get (s : State) (m : List MarginRead) {fld : Field} (hm : fld ∉ ([.fuses] : List Field)) :
    (State.senseAll s m).get fld = s.get fld := by
  simp only [List.mem_cons, List.not_mem_nil, or_false] at hm
  simp [State.senseAll, hm]

@[simp] theorem State.takeMajorities_get (s : State) {fld : Field} (hm : fld ∉ ([.fuses] : List Field)) :
    (State.takeMajorities s).get fld = s.get fld := by
  simp only [List.mem_cons, List.not_mem_nil, or_false] at hm
  simp [State.takeMajorities, hm]

@[simp] theorem State.holdDie_get (s : State) (code detail : BitVec 16) {fld : Field} (hm : fld ∉ ([.boot, .guard, .mgmt, .flt, .out] : List Field)) :
    (State.holdDie s code detail).get fld = s.get fld := by
  simp only [List.mem_cons, List.not_mem_nil, or_false, not_or] at hm
  simp [State.holdDie, hm]

@[simp] theorem State.logUnread_get (s : State) (w : Nat) {fld : Field} (hm : fld ∉ ([.logs, .fns, .mgmt, .flt, .out] : List Field)) :
    (State.logUnread s w).get fld = s.get fld := by
  simp only [List.mem_cons, List.not_mem_nil, or_false, not_or] at hm
  simp [State.logUnread, hm]

@[simp] theorem State.enterRollForward_get (s : State) {fld : Field} (hm : fld ∉ ([.boot, .mgmt, .flt, .out] : List Field)) :
    (State.enterRollForward s).get fld = s.get fld := by
  simp only [List.mem_cons, List.not_mem_nil, or_false, not_or] at hm
  simp [State.enterRollForward, hm]

@[simp] theorem State.byLifeCycle_get (s : State) {fld : Field} (hm : fld ∉ ([.boot, .guard, .mgmt, .flt, .out] : List Field)) :
    (State.byLifeCycle s).get fld = s.get fld := by
  simp only [List.mem_cons, List.not_mem_nil, or_false, not_or] at hm
  unfold State.byLifeCycle
  repeat' split
  all_goals simp [hm]

@[simp] theorem State.judgeFuses_get (s : State) (nomaj : List Nat) (lcReads : Bool) {fld : Field} (hm : fld ∉ ([.boot, .fuses, .guard, .mgmt, .flt, .out] : List Field)) :
    (State.judgeFuses s nomaj lcReads).get fld = s.get fld := by
  simp only [List.mem_cons, List.not_mem_nil, or_false, not_or] at hm
  unfold State.judgeFuses
  repeat' split
  all_goals simp [hm]

@[simp] theorem State.finishSense_get (s : State) {fld : Field}
    (h : fld ∉ ([.boot, .logs, .fuses, .guard, .fns, .mgmt, .flt, .out] : List Field)) : (s.finishSense).get fld = s.get fld := by
  simp only [List.mem_cons, List.not_mem_nil, or_false, not_or] at h
  unfold State.finishSense
  generalize List.range 8192 = l
  simp [h]

@[simp] theorem State.releaseDie_get (s : State) {fld : Field} (hm : fld ∉ ([.boot, .keeper, .mgmt, .dru, .flt, .out] : List Field)) :
    (State.releaseDie s).get fld = s.get fld := by
  simp only [List.mem_cons, List.not_mem_nil, or_false, not_or] at hm
  simp [State.releaseDie, hm]

@[simp] theorem State.logSense_get (s : State) (w : Nat) {fld : Field} (hm : fld ∉ ([.boot, .logs, .fns, .mgmt, .flt, .out] : List Field)) :
    (State.logSense s w).get fld = s.get fld := by
  simp only [List.mem_cons, List.not_mem_nil, or_false, not_or] at hm
  simp [State.logSense, hm]

@[simp] theorem State.romFault_get (s : State) {fld : Field} (hm : fld ∉ ([.boot, .guard, .mgmt, .flt, .freeCtr, .out] : List Field)) :
    (State.romFault s).get fld = s.get fld := by
  simp only [List.mem_cons, List.not_mem_nil, or_false, not_or] at hm
  simp [State.romFault, hm]

@[simp] theorem State.returnBlob_get (s : State) {fld : Field} (hm : fld ∉ ([.keeper, .store] : List Field)) :
    (State.returnBlob s).get fld = s.get fld := by
  simp only [List.mem_cons, List.not_mem_nil, or_false, not_or] at hm
  unfold State.returnBlob
  split <;> simp [hm]

@[simp] theorem State.restoreUpdate_get (s : State) (stage : UpdStage) (component : Nat) {fld : Field} (hm : fld ∉ ([.keeper, .logs, .fns, .mgmt, .store, .flt, .upd, .out] : List Field)) :
    (State.restoreUpdate s stage component).get fld = s.get fld := by
  simp only [List.mem_cons, List.not_mem_nil, or_false, not_or] at hm
  simp [State.restoreUpdate, hm]

@[simp] theorem State.finishConfirm_get (s : State) (component svn : Nat) (roll : Bool) {fld : Field} (hm : fld ∉ ([.keeper, .fuses, .upd] : List Field)) :
    (State.finishConfirm s component svn roll).get fld = s.get fld := by
  simp only [List.mem_cons, List.not_mem_nil, or_false, not_or] at hm
  simp [State.finishConfirm, hm]

@[simp] theorem State.stopDrbgs_get (s : State) {fld : Field} (hm : fld ∉ ([.logs, .fns, .mgmt, .jobs, .tables, .ent, .flt, .out] : List Field)) :
    (State.stopDrbgs s).get fld = s.get fld := by
  simp only [List.mem_cons, List.not_mem_nil, or_false, not_or] at hm
  simp [State.stopDrbgs, hm]

@[simp] theorem State.fuseFail_get (s : State) (j : Job) (reason word : Nat) {fld : Field} (hm : fld ∉ ([.jobs, .tables] : List Field)) :
    (State.fuseFail s j reason word).get fld = s.get fld := by
  simp only [List.mem_cons, List.not_mem_nil, or_false, not_or] at hm
  simp [State.fuseFail, hm]

@[simp] theorem State.burnSeq_get (bad : Option Nat) (l : List (Nat × BitVec 32)) (s : State) {fld : Field}
    (h : fld ∉ ([.fuses, .freeCtr] : List Field)) : (State.burnSeq bad l s).1.get fld = s.get fld := by
  simp only [List.mem_cons, List.not_mem_nil, or_false, not_or] at h
  induction l generalizing s with
  | nil => rfl
  | cons p l ih =>
    simp only [State.burnSeq]
    split
    · simp [h]
    · simp [ih, h]

theorem State.burnSeq_of {bad : Option Nat} {l : List (Nat × BitVec 32)} {s t : State} {o : Option Nat}
    (e : State.burnSeq bad l s = (t, o)) {fld : Field} (h : fld ∉ ([.fuses, .freeCtr] : List Field)) :
    t.get fld = s.get fld := by
  have := State.burnSeq_get bad l s h
  rw [e] at this
  exact this

@[simp] theorem State.generateRoots_get (s : State) (j : Job) (bad : Option Nat) {fld : Field}
    (h : fld ∉ ([.fuses, .jobs, .tables, .ent, .freeCtr] : List Field)) : (s.generateRoots j bad).get fld = s.get fld := by
  simp only [List.mem_cons, List.not_mem_nil, or_false, not_or] at h
  have hs : fld ∉ ([.fuses, .freeCtr] : List Field) := by simp [h]
  unfold State.generateRoots
  dsimp only
  split
  · simp [h]
  · split
    · rename_i e
      simp [h, State.burnSeq_of e hs]
    · rename_i e
      have h1 := State.burnSeq_of e hs
      split
      · rename_i e2
        simp [h, State.burnSeq_of e2 hs, h1]
      · rename_i e2
        simp [h, State.burnSeq_of e2 hs, h1]

@[simp] theorem State.useNonce_get (s : State) (b : Bytes) {fld : Field} (hm : fld ∉ ([.keeper] : List Field)) :
    (State.useNonce s b).get fld = s.get fld := by
  simp only [List.mem_cons, List.not_mem_nil, or_false] at hm
  simp [State.useNonce, hm]

@[simp] theorem State.acceptCert_get (s : State) (b : Bytes) {fld : Field} (hm : fld ∉ ([.keeper, .keys, .store, .tables] : List Field)) :
    (State.acceptCert s b).get fld = s.get fld := by
  simp only [List.mem_cons, List.not_mem_nil, or_false, not_or] at hm
  simp [State.acceptCert, hm]

@[simp] theorem State.completeNow_get (s : State) (id : Nat) {fld : Field} (hm : fld ∉ ([.fns, .queues, .jobs, .keys, .store, .tables, .flt, .upd, .out] : List Field)) :
    (State.completeNow s id).get fld = s.get fld := by
  simp only [List.mem_cons, List.not_mem_nil, or_false, not_or] at hm
  unfold State.completeNow
  repeat' split
  all_goals simp [hm]

@[simp] theorem State.restartHeld_get (s : State) {fld : Field} (hm : fld ∉ ([.boot, .logs, .guard, .fns, .mgmt, .queues, .jobs, .sched, .keys, .store, .tables, .dru, .ent, .flt, .upd, .out] : List Field)) :
    (State.restartHeld s).get fld = s.get fld := by
  simp only [List.mem_cons, List.not_mem_nil, or_false, not_or] at hm
  simp [State.restartHeld, hm]

/-- A triplicated program touches the fuses, the free counter, the job it fails, and what comes after it. -/
theorem State.tripProgram_get (s : State) (j : Job) (l : List (Nat × BitVec 32)) (bad : Option Nat) (go : State → State)
    {fld : Field} (hm : fld ∉ ([.fuses, .freeCtr, .jobs, .tables] : List Field)) (hgo : ∀ x : State, (go x).get fld = x.get fld) :
    (State.tripProgram s j l bad go).get fld = s.get fld := by
  simp only [List.mem_cons, List.not_mem_nil, or_false, not_or] at hm
  have hb := State.burnSeq_get bad (tripWords l) s (fld := fld) (by simp [hm])
  unfold State.tripProgram
  split
  · simp [hm]
  · split <;> rename_i h <;> rw [h] at hb <;> simp_all

@[simp] theorem State.transition_get (s : State) (j : Job) (tgt : LcState) (bad : Option Nat) {fld : Field} (hm : fld ∉ ([.boot, .logs, .fuses, .freeCtr, .guard, .fns, .mgmt, .queues, .jobs, .sched, .keys, .store, .tables, .dru, .ent, .flt, .upd, .out] : List Field)) :
    (State.transition s j tgt bad).get fld = s.get fld := by
  simp only [List.mem_cons, List.not_mem_nil, or_false, not_or] at hm
  unfold State.transition
  exact State.tripProgram_get _ _ _ _ _ (by simp [hm]) (fun x => by simp [hm])

@[simp] theorem State.shutSessions_get (s : State) {fld : Field} (hm : fld ∉ ([.fns, .mgmt] : List Field)) :
    (State.shutSessions s).get fld = s.get fld := by
  simp only [List.mem_cons, List.not_mem_nil, or_false, not_or] at hm
  unfold State.shutSessions
  repeat' split
  all_goals (cases fld <;> first | rfl | simp at hm | simp_all [State.get])

@[simp] theorem State.beginUpdate_get (s : State) (h : Bytes) (t : Taker) {fld : Field} (hm : fld ∉ ([.jobs, .store, .tables, .upd, .out] : List Field)) :
    (State.beginUpdate s h t).get fld = s.get fld := by
  simp only [List.mem_cons, List.not_mem_nil, or_false, not_or] at hm
  simp [State.beginUpdate, hm]

theorem State.stageBlock_get {s t : State} {off : Nat} {data : Bytes} (e : s.stageBlock off data = some t) {fld : Field}
    (h : fld ∉ ([.upd] : List Field)) : t.get fld = s.get fld := by
  unfold State.stageBlock at e
  dsimp only at e
  split at e
  · simp at e
  · simp only [Option.some.injEq] at e
    subst e
    simp [h]

@[simp] theorem State.writeArea_get (s : State) (p : Policy) (img : Bytes) {fld : Field} (hm : fld ∉ ([.guard, .mgmt, .flt, .upd, .out] : List Field)) :
    (State.writeArea s p img).get fld = s.get fld := by
  simp only [List.mem_cons, List.not_mem_nil, or_false, not_or] at hm
  simp [State.writeArea, hm]

@[simp] theorem State.verifyImage_get (s : State) (readBackOk : Bool) {fld : Field}
    (h : fld ∉ ([.guard, .mgmt, .flt, .upd, .out] : List Field)) : (s.verifyImage readBackOk).2.2.get fld = s.get fld := by
  simp only [List.mem_cons, List.not_mem_nil, or_false, not_or] at h
  unfold State.verifyImage
  dsimp only
  repeat' split
  all_goals simp [h]

@[simp] theorem State.markDue_get (s : State) {fld : Field} (hm : fld ∉ ([.upd] : List Field)) :
    (State.markDue s).get fld = s.get fld := by
  simp only [List.mem_cons, List.not_mem_nil, or_false] at hm
  simp [State.markDue, hm]

@[simp] theorem State.endUpdJob_get (s : State) (id : Option Nat) (status : Status) (stage : Nat) {fld : Field} (hm : fld ∉ ([.jobs, .tables] : List Field)) :
    (State.endUpdJob s id status stage).get fld = s.get fld := by
  simp only [List.mem_cons, List.not_mem_nil, or_false, not_or] at hm
  unfold State.endUpdJob
  split <;> simp [hm]

@[simp] theorem State.beginStage5_get (s : State) {fld : Field} (hm : fld ∉ ([.guard, .mgmt, .flt, .upd, .out] : List Field)) :
    (State.beginStage5 s).get fld = s.get fld := by
  simp only [List.mem_cons, List.not_mem_nil, or_false, not_or] at hm
  simp [State.beginStage5, hm]

@[simp] theorem State.restartUpdate_get (s : State) (hold : Bool) {fld : Field} (hm : fld ∉ ([.boot, .logs, .guard, .fns, .mgmt, .queues, .jobs, .sched, .keys, .store, .tables, .dru, .ent, .flt, .upd, .out] : List Field)) :
    (State.restartUpdate s hold).get fld = s.get fld := by
  simp only [List.mem_cons, List.not_mem_nil, or_false, not_or] at hm
  simp [State.restartUpdate, hm]

@[simp] theorem State.returnHigh_get (s : State) {fld : Field} (hm : fld ∉ ([.store, .upd] : List Field)) :
    (State.returnHigh s).get fld = s.get fld := by
  simp only [List.mem_cons, List.not_mem_nil, or_false, not_or] at hm
  simp [State.returnHigh, hm]

@[simp] theorem State.endGuardJobs_get (s : State) {fld : Field} (hm : fld ∉ ([.guard, .jobs, .tables] : List Field)) :
    (State.endGuardJobs s).get fld = s.get fld := by
  simp only [List.mem_cons, List.not_mem_nil, or_false, not_or] at hm
  simp [State.endGuardJobs, hm]

@[simp] theorem State.restartGuard_get (s : State) {fld : Field} (hm : fld ∉ ([.guard, .mgmt, .jobs, .tables, .flt, .out] : List Field)) :
    (State.restartGuard s).get fld = s.get fld := by
  simp only [List.mem_cons, List.not_mem_nil, or_false, not_or] at hm
  simp [State.restartGuard, hm]

@[simp] theorem State.beginRestore_get (s : State) {fld : Field} (hm : fld ∉ ([.upd] : List Field)) :
    (State.beginRestore s).get fld = s.get fld := by
  simp only [List.mem_cons, List.not_mem_nil, or_false] at hm
  simp [State.beginRestore, hm]

@[simp] theorem State.beginConfirm_get (s : State) {fld : Field} (hm : fld ∉ ([.upd] : List Field)) :
    (State.beginConfirm s).get fld = s.get fld := by
  simp only [List.mem_cons, List.not_mem_nil, or_false] at hm
  simp [State.beginConfirm, hm]

@[simp] theorem State.cancelUpdate_get (s : State) {fld : Field} (hm : fld ∉ ([.jobs, .store, .tables, .upd] : List Field)) :
    (State.cancelUpdate s).get fld = s.get fld := by
  simp only [List.mem_cons, List.not_mem_nil, or_false, not_or] at hm
  simp [State.cancelUpdate, hm]

@[simp] theorem State.placeRoot_get (s : State) (j : Job) (secret : Bytes) {fld : Field}
    (h : fld ∉ ([.jobs, .keys, .tables] : List Field)) : (s.placeRoot j secret).get fld = s.get fld := by
  simp only [List.mem_cons, List.not_mem_nil, or_false, not_or] at h
  unfold State.placeRoot
  dsimp only
  repeat' split
  all_goals simp [h]

@[simp] theorem State.restartKeeper_get (s : State) {fld : Field} (hm : fld ∉ ([.power, .boot, .logs, .guard, .fns, .mgmt, .queues, .jobs, .sched, .keys, .store, .tables, .dru, .ent, .flt, .upd, .out] : List Field)) :
    (State.restartKeeper s).get fld = s.get fld := by
  simp only [List.mem_cons, List.not_mem_nil, or_false, not_or] at hm
  simp [State.restartKeeper, hm]

@[simp] theorem State.setTime_get (s : State) (ticks : Nat) {fld : Field} (hm : fld ∉ ([.boot, .upd] : List Field)) :
    (State.setTime s ticks).get fld = s.get fld := by
  simp only [List.mem_cons, List.not_mem_nil, or_false, not_or] at hm
  simp [State.setTime, hm]

@[simp] theorem State.roundTime_get (s : State) {fld : Field} (hm : fld ∉ ([.boot, .upd] : List Field)) :
    (State.roundTime s).get fld = s.get fld := by
  simp only [List.mem_cons, List.not_mem_nil, or_false, not_or] at hm
  simp [State.roundTime, hm]

@[simp] theorem State.linkEntry_get (s : State) (r : QRef) (e : Entry) (input : Bytes) (viaVdm : Bool) {fld : Field} (hm : fld ∉ ([.queues, .sched] : List Field)) :
    (State.linkEntry s r e input viaVdm).get fld = s.get fld := by
  simp only [List.mem_cons, List.not_mem_nil, or_false, not_or] at hm
  unfold State.linkEntry
  repeat' split
  all_goals (cases fld <;> first | rfl | simp at hm | simp_all [State.get])

@[simp] theorem State.tapTo_get (s : State) (t : TapSel) {fld : Field} (hm : fld ∉ ([.flt] : List Field)) :
    (State.tapTo s t).get fld = s.get fld := by
  simp only [List.mem_cons, List.not_mem_nil, or_false] at hm
  simp [State.tapTo, hm]

@[simp] theorem State.tapWith_get (s : State) (right : Nat) (t : TapSel) (run : State → State) {fld : Field} (hm : fld ∉ ([.flt, .out] : List Field)) (hrun : ∀ x0, (run x0).get fld = x0.get fld) :
    (State.tapWith s right t run).get fld = s.get fld := by
  simp only [List.mem_cons, List.not_mem_nil, or_false, not_or] at hm
  simp [State.tapWith, hm, hrun]

@[simp] theorem State.druFault_get (s : State) (who : DruSide) (b : Nat) {fld : Field} (hm : fld ∉ ([.dru, .flt] : List Field)) :
    (State.druFault s who b).get fld = s.get fld := by
  simp only [List.mem_cons, List.not_mem_nil, or_false, not_or] at hm
  unfold State.druFault
  split <;> simp [hm]

@[simp] theorem State.druReach_get (s : State) (who : DruSide) (act : State → State) {fld : Field} (hm : fld ∉ ([.out] : List Field)) (hact : ∀ x0, (act x0).get fld = x0.get fld) :
    (State.druReach s who act).get fld = s.get fld := by
  simp only [List.mem_cons, List.not_mem_nil, or_false] at hm
  unfold State.druReach
  split <;> simp [hm, hact]

@[simp] theorem State.druOwned_get (s : State) (who : DruSide) (act : State → State) {fld : Field} (hm : fld ∉ ([.dru, .flt, .out] : List Field)) (hact : ∀ x0, (act x0).get fld = x0.get fld) :
    (State.druOwned s who act).get fld = s.get fld := by
  simp only [List.mem_cons, List.not_mem_nil, or_false, not_or] at hm
  simp [State.druOwned, hm, hact]

@[simp] theorem State.druCtrl_get (s : State) (who : DruSide) (page : Bool) (act : State → State) {fld : Field} (hm : fld ∉ ([.dru, .flt, .out] : List Field)) (hact : ∀ x0, (act x0).get fld = x0.get fld) :
    (State.druCtrl s who page act).get fld = s.get fld := by
  simp only [List.mem_cons, List.not_mem_nil, or_false, not_or] at hm
  simp [State.druCtrl, hm, hact]

@[simp] theorem State.druWord_get (s : State) (who : DruSide) (size : Nat) (act : State → State) {fld : Field} (hm : fld ∉ ([.dru, .flt, .out] : List Field)) (hact : ∀ x0, (act x0).get fld = x0.get fld) :
    (State.druWord s who size act).get fld = s.get fld := by
  simp only [List.mem_cons, List.not_mem_nil, or_false, not_or] at hm
  simp [State.druWord, hm, hact]

@[simp] theorem State.druScClaim_get (s : State) {fld : Field} (hm : fld ∉ ([.dru] : List Field)) :
    (State.druScClaim s).get fld = s.get fld := by
  simp only [List.mem_cons, List.not_mem_nil, or_false] at hm
  simp [State.druScClaim, hm]

@[simp] theorem State.druClaimOp_get (s : State) (tag : BitVec 8) (page : Bool) {fld : Field} (hm : fld ∉ ([.dru, .flt] : List Field)) :
    (State.druClaimOp s tag page).get fld = s.get fld := by
  simp only [List.mem_cons, List.not_mem_nil, or_false, not_or] at hm
  simp [State.druClaimOp, hm]

@[simp] theorem State.druReleaseOp_get (s : State) {fld : Field} (hm : fld ∉ ([.dru] : List Field)) :
    (State.druReleaseOp s).get fld = s.get fld := by
  simp only [List.mem_cons, List.not_mem_nil, or_false] at hm
  simp [State.druReleaseOp, hm]

@[simp] theorem State.druStartOp_get (s : State) (who : DruSide) (alg : BitVec 4) (sealedMode : Bool) {fld : Field} (hm : fld ∉ ([.dru, .flt] : List Field)) :
    (State.druStartOp s who alg sealedMode).get fld = s.get fld := by
  simp only [List.mem_cons, List.not_mem_nil, or_false, not_or] at hm
  simp [State.druStartOp, hm]

@[simp] theorem State.druRestoreOp_get (s : State) (sealedMode : Bool) {fld : Field} (hm : fld ∉ ([.dru, .flt] : List Field)) :
    (State.druRestoreOp s sealedMode).get fld = s.get fld := by
  simp only [List.mem_cons, List.not_mem_nil, or_false, not_or] at hm
  simp [State.druRestoreOp, hm]

@[simp] theorem State.druSaveOp_get (s : State) {fld : Field} (hm : fld ∉ ([.dru, .flt] : List Field)) :
    (State.druSaveOp s).get fld = s.get fld := by
  simp only [List.mem_cons, List.not_mem_nil, or_false, not_or] at hm
  simp [State.druSaveOp, hm]

@[simp] theorem State.druDataOp_get (s : State) (who : DruSide) (size : Nat) (word : BitVec 64) {fld : Field} (hm : fld ∉ ([.dru, .flt, .out] : List Field)) :
    (State.druDataOp s who size word).get fld = s.get fld := by
  simp only [List.mem_cons, List.not_mem_nil, or_false, not_or] at hm
  simp [State.druDataOp, hm]

@[simp] theorem State.druLastcntOp_get (s : State) (who : DruSide) (count : BitVec 4) {fld : Field} (hm : fld ∉ ([.dru, .flt, .out] : List Field)) :
    (State.druLastcntOp s who count).get fld = s.get fld := by
  simp only [List.mem_cons, List.not_mem_nil, or_false, not_or] at hm
  simp [State.druLastcntOp, hm]

@[simp] theorem State.druLastOp_get (s : State) (who : DruSide) (size : Nat) (word : BitVec 64) {fld : Field} (hm : fld ∉ ([.dru, .flt, .out] : List Field)) :
    (State.druLastOp s who size word).get fld = s.get fld := by
  simp only [List.mem_cons, List.not_mem_nil, or_false, not_or] at hm
  simp [State.druLastOp, hm]

@[simp] theorem State.druExpectOp_get (s : State) (off : Nat) (b : Bytes) {fld : Field} (hm : fld ∉ ([.jobs, .tables, .dru, .flt, .out] : List Field)) :
    (State.druExpectOp s off b).get fld = s.get fld := by
  simp only [List.mem_cons, List.not_mem_nil, or_false, not_or] at hm
  simp [State.druExpectOp, hm]

@[simp] theorem State.druWindowOp_get (s : State) (off : Nat) (b : Bytes) {fld : Field} (hm : fld ∉ ([.dru, .flt, .out] : List Field)) :
    (State.druWindowOp s off b).get fld = s.get fld := by
  simp only [List.mem_cons, List.not_mem_nil, or_false, not_or] at hm
  simp [State.druWindowOp, hm]

@[simp] theorem State.druReadOp_get (s : State) (index : Option Nat) (part : ReadPart) (doneThisCycle : Bool) {fld : Field} (hm : fld ∉ ([.jobs, .tables, .dru, .flt, .out] : List Field)) :
    (State.druReadOp s index part doneThisCycle).get fld = s.get fld := by
  simp only [List.mem_cons, List.not_mem_nil, or_false, not_or] at hm
  simp [State.druReadOp, hm]

@[simp] theorem State.perstJobs_get (s : State) {fld : Field} (hm : fld ∉ ([.logs, .guard, .fns, .mgmt, .jobs, .keys, .store, .tables, .flt, .upd, .out] : List Field)) :
    (State.perstJobs s).get fld = s.get fld := by
  simp only [List.mem_cons, List.not_mem_nil, or_false, not_or] at hm
  simp [State.perstJobs, hm]

@[simp] theorem State.perstLink_get (s : State) {fld : Field} (hm : fld ∉ ([.power, .boot, .fns, .out] : List Field)) :
    (State.perstLink s).get fld = s.get fld := by
  simp only [List.mem_cons, List.not_mem_nil, or_false, not_or] at hm
  simp [State.perstLink, hm]

@[simp] theorem State.perstWarm_get (s : State) {fld : Field} (hm : fld ∉ ([.power, .boot, .logs, .guard, .fns, .mgmt, .queues, .jobs, .sched, .keys, .store, .tables, .dru, .flt, .upd, .freeCtr, .out] : List Field)) :
    (State.perstWarm s).get fld = s.get fld := by
  simp only [List.mem_cons, List.not_mem_nil, or_false, not_or] at hm
  simp [State.perstWarm, hm]

@[simp] theorem State.perstLocked_get (s : State) {fld : Field} (hm : fld ∉ ([.power, .boot, .logs, .guard, .fns, .mgmt, .queues, .jobs, .sched, .keys, .store, .tables, .dru, .ent, .flt, .upd, .out] : List Field)) :
    (State.perstLocked s).get fld = s.get fld := by
  simp only [List.mem_cons, List.not_mem_nil, or_false, not_or] at hm
  simp [State.perstLocked, hm]

@[simp] theorem State.flrOne_get (s : State) (fn : Nat) {fld : Field} (hm : fld ∉ ([.logs, .guard, .fns, .mgmt, .queues, .jobs, .sched, .keys, .store, .tables, .flt, .upd, .out] : List Field)) :
    (State.flrOne s fn).get fld = s.get fld := by
  simp only [List.mem_cons, List.not_mem_nil, or_false, not_or] at hm
  simp [State.flrOne, hm]

@[simp] theorem State.clearVfs_get (s : State) {fld : Field} (hm : fld ∉ ([.logs, .guard, .fns, .mgmt, .queues, .jobs, .sched, .keys, .store, .tables, .flt, .upd, .out] : List Field)) :
    (State.clearVfs s).get fld = s.get fld := by
  simp only [List.mem_cons, List.not_mem_nil, or_false, not_or] at hm
  simp [State.clearVfs, hm]

@[simp] theorem State.flrPf_get (s : State) {fld : Field} (hm : fld ∉ ([.logs, .guard, .fns, .mgmt, .queues, .jobs, .sched, .keys, .store, .tables, .dru, .flt, .upd, .out] : List Field)) :
    (State.flrPf s).get fld = s.get fld := by
  simp only [List.mem_cons, List.not_mem_nil, or_false, not_or] at hm
  simp [State.flrPf, hm]

@[simp] theorem State.releaseVecs_get (s : State) (fn : Nat) {fld : Field} (hm : fld ∉ ([.fns, .out] : List Field)) :
    (State.releaseVecs s fn).get fld = s.get fld := by
  simp only [List.mem_cons, List.not_mem_nil, or_false, not_or] at hm
  simp [State.releaseVecs, hm]

@[simp] theorem State.maskVec_get (s : State) (fn v : Nat) (masked : Bool) {fld : Field} (hm : fld ∉ ([.fns, .out] : List Field)) :
    (State.maskVec s fn v masked).get fld = s.get fld := by
  simp only [List.mem_cons, List.not_mem_nil, or_false, not_or] at hm
  simp [State.maskVec, hm]

@[simp] theorem State.writeDoorbell_get (s : State) (r : QRef) (v : BitVec 64) {fld : Field} (hm : fld ∉ ([.boot, .fns, .mgmt, .queues, .jobs, .keys, .store, .tables, .dru, .ent, .flt, .freeCtr, .out] : List Field)) :
    (State.writeDoorbell s r v).get fld = s.get fld := by
  simp only [List.mem_cons, List.not_mem_nil, or_false, not_or] at hm
  simp [State.writeDoorbell, hm]

@[simp] theorem State.writeQReg_get (s : State) (r : QRef) (off : Nat) (w : RegWrite) {fld : Field} (hm : fld ∉ ([.fns, .queues, .flt, .out] : List Field)) :
    (State.writeQReg s r off w).get fld = s.get fld := by
  simp only [List.mem_cons, List.not_mem_nil, or_false, not_or] at hm
  unfold State.writeQReg
  repeat' split
  all_goals simp [hm]

@[simp] theorem State.writeDruCtrl_get (s : State) (w : RegWrite) {fld : Field} (hm : fld ∉ ([.dru, .flt, .out] : List Field)) :
    (State.writeDruCtrl s w).get fld = s.get fld := by
  simp only [List.mem_cons, List.not_mem_nil, or_false, not_or] at hm
  simp [State.writeDruCtrl, hm]

@[simp] theorem State.writeDru_get (s : State) (off size : Nat) (w : RegWrite) {fld : Field} (hm : fld ∉ ([.fns, .jobs, .tables, .dru, .flt, .out] : List Field)) :
    (State.writeDru s off size w).get fld = s.get fld := by
  simp only [List.mem_cons, List.not_mem_nil, or_false, not_or] at hm
  simp [State.writeDru, hm]

@[simp] theorem State.writeMsix_get (s : State) (fn off : Nat) (w : RegWrite) {fld : Field} (hm : fld ∉ ([.fns, .out] : List Field)) :
    (State.writeMsix s fn off w).get fld = s.get fld := by
  simp only [List.mem_cons, List.not_mem_nil, or_false, not_or] at hm
  simp [State.writeMsix, hm]

@[simp] theorem State.clearIdle_get (s : State) (fn : Nat) (w : RegWrite) {fld : Field} (hm : fld ∉ ([.fns, .mgmt] : List Field)) :
    (State.clearIdle s fn w).get fld = s.get fld := by
  simp only [List.mem_cons, List.not_mem_nil, or_false, not_or] at hm
  simp [State.clearIdle, hm]

@[simp] theorem State.clearDmaFault_get (s : State) (fn : Nat) (w : RegWrite) {fld : Field} (hm : fld ∉ ([.fns] : List Field)) :
    (State.clearDmaFault s fn w).get fld = s.get fld := by
  simp only [List.mem_cons, List.not_mem_nil, or_false] at hm
  simp [State.clearDmaFault, hm]

@[simp] theorem State.writeDev_get (s : State) (reg : Nat) (w : RegWrite) {fld : Field} (hm : fld ∉ ([.power, .thermal, .fns, .mgmt, .flt, .out] : List Field)) :
    (State.writeDev s reg w).get fld = s.get fld := by
  simp only [List.mem_cons, List.not_mem_nil, or_false, not_or] at hm
  simp [State.writeDev, hm]

@[simp] theorem State.writeFlags_get (s : State) (reg : Nat) (w : RegWrite) {fld : Field} (hm : fld ∉ ([.guard, .fns, .mgmt, .ent, .flt, .out] : List Field)) :
    (State.writeFlags s reg w).get fld = s.get fld := by
  simp only [List.mem_cons, List.not_mem_nil, or_false, not_or] at hm
  simp [State.writeFlags, hm]

@[simp] theorem State.whenUp_get (s : State) (r : QRef) (act : State → State) {fld : Field} (hact : ∀ x0, (act x0).get fld = x0.get fld) :
    (State.whenUp s r act).get fld = s.get fld := by
  simp [State.whenUp, hact]

@[simp] theorem State.writePf_get (s : State) (off size : Nat) (w : RegWrite) {fld : Field}
    (h : fld ∉ ([.boot, .guard, .fns, .mgmt, .queues, .jobs, .keys, .store, .tables, .dru, .ent, .flt, .freeCtr, .out] : List Field)) : (s.writePf off size w).get fld = s.get fld := by
  simp only [List.mem_cons, List.not_mem_nil, or_false, not_or] at h
  have fw (t : State) (e : t.get fld = s.get fld) : (if s.fwRunning then t else s).get fld = s.get fld := by
    split <;> simp [e]
  unfold State.writePf
  dsimp only
  generalize off / 8 * 8 = reg
  repeat' split
  all_goals simp [h]

@[simp] theorem State.writeVf_get (s : State) (fn off : Nat) (w : RegWrite) {fld : Field} (hm : fld ∉ ([.boot, .fns, .mgmt, .queues, .jobs, .keys, .store, .tables, .dru, .ent, .flt, .freeCtr, .out] : List Field)) :
    (State.writeVf s fn off w).get fld = s.get fld := by
  simp only [List.mem_cons, List.not_mem_nil, or_false, not_or] at hm
  simp [State.writeVf, hm]

@[simp] theorem State.readCounters_get (s : State) (bank reg : Nat) (part : ReadPart) {fld : Field} (hm : fld ∉ ([.fns, .flt, .out] : List Field)) :
    (State.readCounters s bank reg part).get fld = s.get fld := by
  simp only [List.mem_cons, List.not_mem_nil, or_false, not_or] at hm
  simp [State.readCounters, hm]

@[simp] theorem State.failChip_get (s : State) (c : Chip) {fld : Field} (hm : fld ∉ ([.logs, .guard, .fns, .mgmt, .jobs, .tables, .flt, .out] : List Field)) :
    (State.failChip s c).get fld = s.get fld := by
  simp only [List.mem_cons, List.not_mem_nil, or_false, not_or] at hm
  simp [State.failChip, hm]

@[simp] theorem State.clearCommit_get (s : State) {fld : Field} (hm : fld ∉ ([.keeper, .guard] : List Field)) :
    (State.clearCommit s).get fld = s.get fld := by
  simp only [List.mem_cons, List.not_mem_nil, or_false, not_or] at hm
  cases fld <;> first | rfl | simp at hm

@[simp] theorem State.losePg_get (s : State) (d : Nat) {fld : Field} (hm : fld ∉ ([.guard] : List Field)) :
    (State.losePg s d).get fld = s.get fld := by
  simp only [List.mem_cons, List.not_mem_nil, or_false] at hm
  simp [State.losePg, hm]

@[simp] theorem State.retryDom_get (s : State) (d : Nat) {fld : Field} (hm : fld ∉ ([.guard] : List Field)) :
    (State.retryDom s d).get fld = s.get fld := by
  simp only [List.mem_cons, List.not_mem_nil, or_false] at hm
  cases fld <;> first | rfl | simp at hm

@[simp] theorem State.remapDomain_get (s : State) (images : List (Nat × Nat × List Bytes)) (d : Nat) {fld : Field}
    (h : fld ∉ ([.logs, .guard, .fns, .mgmt, .jobs, .tables, .flt, .out] : List Field)) : (s.remapDomain images d).get fld = s.get fld := by
  simp only [List.mem_cons, List.not_mem_nil, or_false, not_or] at h
  unfold State.remapDomain
  refine (State.get_foldl _ _ ?_ _).trans (by simp [h])
  intro s k
  dsimp only
  split
  · split <;> simp [h]
  · rfl

@[simp] theorem State.writeCommit_get (s : State) (d : Nat) (regs : List Region) (manifest : Bytes)
    (images : List (List Bytes)) (withRec : Bool) {fld : Field} (h : fld ∉ ([.guard, .out] : List Field)) :
    (s.writeCommit d regs manifest images withRec).get fld = s.get fld := by
  simp only [List.mem_cons, List.not_mem_nil, or_false, not_or] at h
  unfold State.writeCommit
  dsimp only
  rw [State.emitAll_get _ _ (by simp [h])]
  split
  · refine (State.get_foldl _ _ ?_ _).trans ((State.get_foldl _ _ ?_ _).trans (by simp [h]))
    all_goals (intro s k; split <;> simp [h])
  · refine (State.get_foldl _ _ ?_ _).trans (by simp [h])
    intro s k
    split <;> simp [h]

@[simp] theorem State.awaitManifest_get (s : State) (d : Nat) (st : DomState) {fld : Field} (hm : fld ∉ ([.guard] : List Field)) :
    (State.awaitManifest s d st).get fld = s.get fld := by
  simp only [List.mem_cons, List.not_mem_nil, or_false] at hm
  simp [State.awaitManifest, hm]

@[simp] theorem State.commitFails_get (s : State) (j : Job) (d code region : Nat) {fld : Field} (hm : fld ∉ ([.guard, .jobs, .tables, .freeCtr] : List Field)) :
    (State.commitFails s j d code region).get fld = s.get fld := by
  simp only [List.mem_cons, List.not_mem_nil, or_false, not_or] at hm
  simp [State.commitFails, hm]

@[simp] theorem State.guardCmd_get (s : State) (id : Nat) (op : Op) (run : State → Job → State) {fld : Field}
    (h : fld ∉ ([.mgmt, .jobs, .tables, .flt, .out] : List Field)) (hr : ∀ s j, (run s j).get fld = s.get fld) :
    (s.guardCmd id op run).get fld = s.get fld := by
  simp only [List.mem_cons, List.not_mem_nil, or_false, not_or] at h
  unfold State.guardCmd
  refine State.runCmd_get _ _ _ _ ?_
  intro s j
  split <;> simp [h, hr]

@[simp] theorem State.issueProgram_get (s : State) (p : Port) {fld : Field} (hm : fld ∉ ([.guard, .out] : List Field)) :
    (State.issueProgram s p).get fld = s.get fld := by
  simp only [List.mem_cons, List.not_mem_nil, or_false, not_or] at hm
  unfold State.issueProgram
  split <;> simp [hm]

@[simp] theorem State.idleStep_get (s : State) {fld : Field} (hm : fld ∉ ([.keeper, .guard, .out] : List Field)) :
    (State.idleStep s).get fld = s.get fld := by
  simp only [List.mem_cons, List.not_mem_nil, or_false, not_or] at hm
  simp [State.idleStep, hm]

@[simp] theorem State.spi_get (s : State) (c : SpiCmd) (cls : Nat) (act : State → AllowEntry → State) {fld : Field} (hm : fld ∉ ([.guard, .out] : List Field)) (hact : ∀ x0 x1, (act x0 x1).get fld = x0.get fld) :
    (State.spi s c cls act).get fld = s.get fld := by
  simp only [List.mem_cons, List.not_mem_nil, or_false, not_or] at hm
  unfold State.spi
  split <;> simp [hm, hact]

@[simp] theorem State.forward_get (s : State) (c : SpiCmd) (op : FlashOp) {fld : Field} (hm : fld ∉ ([.out] : List Field)) :
    (State.forward s c op).get fld = s.get fld := by
  simp only [List.mem_cons, List.not_mem_nil, or_false] at hm
  simp [State.forward, hm]

@[simp] theorem State.buffer_get (s : State) (c : Chip) (b : Nat) (data : Bytes) {fld : Field} (hm : fld ∉ ([.guard] : List Field)) :
    (State.buffer s c b data).get fld = s.get fld := by
  simp only [List.mem_cons, List.not_mem_nil, or_false] at hm
  simp [State.buffer, hm]

@[simp] theorem State.mismatch_get (s : State) (c : Chip) (b code : Nat) (d k : Nat) (r : Region) {fld : Field} (hm : fld ∉ ([.logs, .guard, .fns, .mgmt, .jobs, .tables, .flt, .out] : List Field)) :
    (State.mismatch s c b code d k r).get fld = s.get fld := by
  simp only [List.mem_cons, List.not_mem_nil, or_false, not_or] at hm
  simp [State.mismatch, hm]

@[simp] theorem State.streamCheck_get (s : State) (c : Chip) (b lo hi : Nat) (d k : Nat) (r : Region) (phys : Nat)
    (data : Bytes) {fld : Field} (h : fld ∉ ([.logs, .guard, .fns, .mgmt, .jobs, .tables, .flt, .freeCtr, .out] : List Field)) :
    (s.streamCheck c b lo hi d k r phys data).1.get fld = s.get fld := by
  simp only [List.mem_cons, List.not_mem_nil, or_false, not_or] at h
  unfold State.streamCheck
  dsimp only
  repeat' split
  all_goals simp [h]

@[simp] theorem State.denyRead_get (s : State) (p : Port) {fld : Field} (hm : fld ∉ ([.guard, .fns, .flt, .out] : List Field)) :
    (State.denyRead s p).get fld = s.get fld := by
  simp only [List.mem_cons, List.not_mem_nil, or_false, not_or] at hm
  simp [State.denyRead, hm]

@[simp] theorem State.serveChecked_get (s : State) (c : Chip) (b lo hi : Nat) (remap : Bool) (flash : List FlashBlock)
    (ecc : Option Nat) {fld : Field} (h : fld ∉ ([.logs, .guard, .fns, .mgmt, .jobs, .tables, .flt, .freeCtr, .out] : List Field)) :
    (s.serveChecked c b lo hi remap flash ecc).1.get fld = s.get fld := by
  simp only [List.mem_cons, List.not_mem_nil, or_false, not_or] at h
  unfold State.serveChecked
  repeat' split
  all_goals simp [h]

@[simp] theorem State.serveBlock_get (s : State) (c : Chip) (b lo hi : Nat) (flash : List FlashBlock) (ecc : Option Nat)
    {fld : Field} (h : fld ∉ ([.logs, .guard, .fns, .mgmt, .jobs, .tables, .flt, .freeCtr, .out] : List Field)) :
    (s.serveBlock c b lo hi flash ecc).1.get fld = s.get fld := by
  simp only [List.mem_cons, List.not_mem_nil, or_false, not_or] at h
  unfold State.serveBlock
  repeat' split
  all_goals simp [h]

@[simp] theorem serveRun_get (c : Chip) (flash : List FlashBlock) (ecc : Option Nat) (start stop n b : Nat) (v : Serving)
    {fld : Field} (h : fld ∉ ([.logs, .guard, .fns, .mgmt, .jobs, .tables, .flt, .freeCtr, .out] : List Field)) :
    (serveRun c flash ecc start stop n b v).st.get fld = v.st.get fld := by
  induction n generalizing b v with
  | zero => rfl
  | succ n ih =>
    simp only [serveRun]
    split
    · rw [ih]
    · rw [ih]
      exact State.serveBlock_get _ _ _ _ _ _ _ h

@[simp] theorem State.refuseWrite_get (s : State) (c : SpiCmd) {fld : Field} (hm : fld ∉ ([.guard, .fns, .flt, .out] : List Field)) :
    (State.refuseWrite s c).get fld = s.get fld := by
  simp only [List.mem_cons, List.not_mem_nil, or_false, not_or] at hm
  simp [State.refuseWrite, hm]

@[simp] theorem State.hostReset_get (s : State) (p : Port) {fld : Field} (hm : fld ∉ ([.guard] : List Field)) :
    (State.hostReset s p).get fld = s.get fld := by
  simp only [List.mem_cons, List.not_mem_nil, or_false] at hm
  unfold State.hostReset
  split <;> simp [hm]

@[simp] theorem State.issueNonce_get (s : State) (fn : Nat) {fld : Field} (hm : fld ∉ ([.fns, .mgmt, .ent, .freeCtr] : List Field)) :
    (State.issueNonce s fn).get fld = s.get fld := by
  simp only [List.mem_cons, List.not_mem_nil, or_false, not_or] at hm
  simp [State.issueNonce, hm]

@[simp] theorem State.judge_get (s : State) (fn method : Nat) (nonce proof : Bytes) {fld : Field}
    (h : fld ∉ ([.keys] : List Field)) : (s.judge fn method nonce proof).2.get fld = s.get fld := by
  unfold State.judge
  dsimp only
  repeat' split
  all_goals simp [h]

@[simp] theorem State.prove_get (s : State) (fn method : Nat) (proof : Bytes) {fld : Field}
    (h : fld ∉ ([.fns, .mgmt, .keys] : List Field)) : (s.prove fn method proof).2.2.get fld = s.get fld := by
  simp only [List.mem_cons, List.not_mem_nil, or_false, not_or] at h
  unfold State.prove
  split
  · rfl
  · split
    · rfl
    · dsimp only
      split <;> simp [h]

@[simp] theorem State.closeSession_get (s : State) (fn : Nat) {fld : Field} (hm : fld ∉ ([.fns, .mgmt] : List Field)) :
    (State.closeSession s fn).get fld = s.get fld := by
  simp only [List.mem_cons, List.not_mem_nil, or_false, not_or] at hm
  simp [State.closeSession, hm]

@[simp] theorem State.i3cAnswer_get (s : State) (data : Bytes) {fld : Field} (hm : fld ∉ ([.out] : List Field)) :
    (State.i3cAnswer s data).get fld = s.get fld := by
  simp only [List.mem_cons, List.not_mem_nil, or_false] at hm
  simp [State.i3cAnswer, hm]

@[simp] theorem State.mctpAnswer_get (s : State) (b : Binding) (data : Bytes) {fld : Field} (hm : fld ∉ ([.out] : List Field)) :
    (State.mctpAnswer s b data).get fld = s.get fld := by
  simp only [List.mem_cons, List.not_mem_nil, or_false] at hm
  simp [State.mctpAnswer, hm]

@[simp] theorem State.vendor_get (s : State) (b : Binding) (kind : BitVec 8) (data : Bytes) {fld : Field} (hm : fld ∉ ([.out] : List Field)) :
    (State.vendor s b kind data).get fld = s.get fld := by
  simp only [List.mem_cons, List.not_mem_nil, or_false] at hm
  simp [State.vendor, hm]

@[simp] theorem State.pldm_get (s : State) (ch : Channel) (cmd : Nat) (run : State → State) {fld : Field} (hm : fld ∉ ([.out] : List Field)) (hrun : ∀ x0, (run x0).get fld = x0.get fld) :
    (State.pldm s ch cmd run).get fld = s.get fld := by
  simp only [List.mem_cons, List.not_mem_nil, or_false] at hm
  simp [State.pldm, hm, hrun]

@[simp] theorem State.pldmBase_get (s : State) (ch : Channel) (cmd : BitVec 8) (data : Bytes) {fld : Field} (hm : fld ∉ ([.out] : List Field)) :
    (State.pldmBase s ch cmd data).get fld = s.get fld := by
  simp only [List.mem_cons, List.not_mem_nil, or_false] at hm
  simp [State.pldmBase, hm]

@[simp] theorem State.pldmCancel_get (s : State) (ch : Channel) (cmd : Nat) {fld : Field} (hm : fld ∉ ([.jobs, .store, .tables, .upd, .out] : List Field)) :
    (State.pldmCancel s ch cmd).get fld = s.get fld := by
  simp only [List.mem_cons, List.not_mem_nil, or_false, not_or] at hm
  simp [State.pldmCancel, hm]

@[simp] theorem State.barReadOp_get (s : State) (fn off size : Nat) {fld : Field}
    (h : fld ∉ ([.thermal, .fns, .queues, .jobs, .tables, .dru, .flt, .out] : List Field)) : (s.barReadOp fn off size).get fld = s.get fld := by
  simp only [List.mem_cons, List.not_mem_nil, or_false, not_or] at h
  unfold State.barReadOp
  dsimp only
  repeat' split
  all_goals simp [h]

@[simp] theorem State.barWriteOp_get (s : State) (fn off size : Nat) (value : BitVec 64) {fld : Field}
    (h : fld ∉ ([.power, .thermal, .boot, .guard, .fns, .mgmt, .queues, .jobs, .keys, .store, .tables, .dru, .ent, .flt, .freeCtr, .out] : List Field)) : (s.barWriteOp fn off size value).get fld = s.get fld := by
  simp only [List.mem_cons, List.not_mem_nil, or_false, not_or] at h
  unfold State.barWriteOp
  repeat' split
  all_goals simp [h]

@[simp] theorem State.spdmFail_get (s : State) (ch : Channel) (code : Nat) {fld : Field} (hm : fld ∉ ([.out] : List Field)) :
    (State.spdmFail s ch code).get fld = s.get fld := by
  simp only [List.mem_cons, List.not_mem_nil, or_false] at hm
  simp [State.spdmFail, hm]

@[simp] theorem State.spdmSend_get (s : State) (ch : Channel) (data : Bytes) {fld : Field} (hm : fld ∉ ([.out] : List Field)) :
    (State.spdmSend s ch data).get fld = s.get fld := by
  simp only [List.mem_cons, List.not_mem_nil, or_false] at hm
  simp [State.spdmSend, hm]

@[simp] theorem State.respond_get (s : State) (ch : Channel) (msg data : Bytes) {fld : Field} (hm : fld ∉ ([.mgmt, .out] : List Field)) :
    (State.respond s ch msg data).get fld = s.get fld := by
  simp only [List.mem_cons, List.not_mem_nil, or_false, not_or] at hm
  simp [State.respond, hm]

@[simp] theorem State.spdmAt_get (s : State) (ch : Channel) (ok : Mgmt → Bool) (run : State → State) {fld : Field} (hm : fld ∉ ([.out] : List Field)) (hrun : ∀ x0, (run x0).get fld = x0.get fld) :
    (State.spdmAt s ch ok run).get fld = s.get fld := by
  simp only [List.mem_cons, List.not_mem_nil, or_false] at hm
  simp [State.spdmAt, hm, hrun]

@[simp] theorem State.endSecured_get (s : State) {fld : Field} (hm : fld ∉ ([.mgmt] : List Field)) :
    (State.endSecured s).get fld = s.get fld := by
  simp only [List.mem_cons, List.not_mem_nil, or_false] at hm
  simp [State.endSecured, hm]

@[simp] theorem State.signed_get (s : State) (ch : Channel) (slot : Nat) (msg body : Bytes) (run : State → State) {fld : Field} (hm : fld ∉ ([.mgmt, .ent, .freeCtr, .out] : List Field)) (hrun : ∀ x0, (run x0).get fld = x0.get fld) :
    (State.signed s ch slot msg body run).get fld = s.get fld := by
  simp only [List.mem_cons, List.not_mem_nil, or_false, not_or] at hm
  simp [State.signed, hm, hrun]

@[simp] theorem State.wakeReturned_get (s : State) (q : QRef) (l : List Intake) {fld : Field} (hm : fld ∉ ([.jobs, .tables] : List Field)) :
    (State.wakeReturned s q l).get fld = s.get fld := by
  simp only [List.mem_cons, List.not_mem_nil, or_false, not_or] at hm
  simp [State.wakeReturned, hm]

@[simp] theorem State.awaitTarget_get (s : State) (j : Job) (q : QRef) (id : BitVec 16) (n : Nat) {fld : Field} (hm : fld ∉ ([.jobs] : List Field)) :
    (State.awaitTarget s j q id n).get fld = s.get fld := by
  simp only [List.mem_cons, List.not_mem_nil, or_false] at hm
  cases fld <;> first | rfl | simp at hm

@[simp] theorem State.useUnit_get (s : State) (c : UnitClass) (r : QRef) (code : Nat) {fld : Field} (hm : fld ∉ ([.sched] : List Field)) :
    (State.useUnit s c r code).get fld = s.get fld := by
  simp only [List.mem_cons, List.not_mem_nil, or_false] at hm
  cases fld <;> first | rfl | simp at hm

@[simp] theorem State.countUse_get (s : State) (c : UnitClass) (r : QRef) (job code : Nat) {fld : Field} (hm : fld ∉ ([.sched, .freeCtr] : List Field)) :
    (State.countUse s c r job code).get fld = s.get fld := by
  simp only [List.mem_cons, List.not_mem_nil, or_false, not_or] at hm
  cases fld <;> first | rfl | simp at hm

@[simp] theorem State.wrr_get (s : State) (c : UnitClass) (el : List Queue) {fld : Field} (h : fld ∉ ([.sched] : List Field)) :
    (s.wrr c el).2.get fld = s.get fld := by
  unfold State.wrr
  split
  · rfl
  · dsimp only
    split <;> simp [h]

@[simp] theorem State.choose_get (s : State) (c : UnitClass) {fld : Field} (h : fld ∉ ([.sched] : List Field)) :
    (s.choose c).2.get fld = s.get fld := by
  unfold State.choose
  dsimp only
  repeat' split
  all_goals simp [h]

@[simp] theorem State.noteChoice_get (s : State) (c : UnitClass) {fld : Field} (hm : fld ∉ ([.sched] : List Field)) :
    (State.noteChoice s c).get fld = s.get fld := by
  simp only [List.mem_cons, List.not_mem_nil, or_false] at hm
  cases fld <;> first | rfl | simp at hm

@[simp] theorem State.noteStall_get (s : State) (r : QRef) {fld : Field} (hm : fld ∉ ([.queues, .flt] : List Field)) :
    (State.noteStall s r).get fld = s.get fld := by
  simp only [List.mem_cons, List.not_mem_nil, or_false, not_or] at hm
  simp [State.noteStall, hm]

@[simp] theorem State.unitTaken_get (s : State) (c : UnitClass) {fld : Field} (hm : fld ∉ ([.sched] : List Field)) :
    (State.unitTaken s c).get fld = s.get fld := by
  simp only [List.mem_cons, List.not_mem_nil, or_false] at hm
  cases fld <;> first | rfl | simp at hm

@[simp] theorem State.takeUnit_get (s : State) (j : Job) (u : Nat) {fld : Field} (hm : fld ∉ ([.jobs, .sched, .freeCtr] : List Field)) :
    (State.takeUnit s j u).get fld = s.get fld := by
  simp only [List.mem_cons, List.not_mem_nil, or_false, not_or] at hm
  simp [State.takeUnit, hm]

@[simp] theorem State.leaveIntake_get (s : State) (r : QRef) (i : Intake) {fld : Field}
    (h : fld ∉ ([.queues, .jobs, .flt, .nextJob] : List Field)) : (s.leaveIntake r i).get fld = s.get fld := by
  simp only [List.mem_cons, List.not_mem_nil, or_false, not_or] at h
  unfold State.leaveIntake
  dsimp only
  rw [show ∀ (t : State) (l : List Job) (n : Nat), ({ t with jobs := l, nextJob := n } : State).get fld = t.get fld from
    fun t l n => by cases fld <;> first | rfl | simp at h]
  simp [h]

@[simp] theorem State.noteAccept_get (s : State) (r : QRef) (e : Entry) (aborted : Bool) {fld : Field} (hm : fld ∉ ([.fns, .mgmt] : List Field)) :
    (State.noteAccept s r e aborted).get fld = s.get fld := by
  simp only [List.mem_cons, List.not_mem_nil, or_false, not_or] at hm
  simp [State.noteAccept, hm]

@[simp] theorem State.startJob_get (s : State) (j : Job) (u : Option Nat) (holds : List Hold) (chain chain2 : List Nat)
    (outs : List (BitVec 64 × Nat)) {fld : Field} (h : fld ∉ ([.jobs, .sched, .keys, .tables, .freeCtr] : List Field)) :
    (s.startJob j u holds chain chain2 outs).get fld = s.get fld := by
  simp only [List.mem_cons, List.not_mem_nil, or_false, not_or] at h
  unfold State.startJob
  dsimp only
  repeat' split
  all_goals simp [h]

@[simp] theorem State.runIntake_get (s : State) (j : Job) (i : Intake) (inF outF : List FragEntry) (fragErr : DmaErr) {fld : Field}
    (h : fld ∉ ([.logs, .guard, .fns, .mgmt, .jobs, .sched, .keys, .store, .tables, .flt, .freeCtr, .out] : List Field)) : (s.runIntake j i inF outF fragErr).get fld = s.get fld := by
  simp only [List.mem_cons, List.not_mem_nil, or_false, not_or] at h
  unfold State.runIntake
  repeat' split
  all_goals simp [h]

@[simp] theorem State.startTask_get (s : State) (j : Job) {fld : Field} (hm : fld ∉ ([.jobs, .sched, .freeCtr] : List Field)) :
    (State.startTask s j).get fld = s.get fld := by
  simp only [List.mem_cons, List.not_mem_nil, or_false, not_or] at hm
  unfold State.startTask
  split <;> simp [hm]

@[simp] theorem State.shareAct_get (s : State) (c : UnitClass) {fld : Field} (hm : fld ∉ ([.logs, .fns, .mgmt, .queues, .sched, .flt, .out] : List Field)) :
    (State.shareAct s c).get fld = s.get fld := by
  simp only [List.mem_cons, List.not_mem_nil, or_false, not_or] at hm
  unfold State.shareAct
  repeat' split
  all_goals simp [hm]

@[simp] theorem State.endWindow_get (s : State) (c : UnitClass) {fld : Field} (hm : fld ∉ ([.logs, .fns, .mgmt, .queues, .sched, .flt, .out] : List Field)) :
    (State.endWindow s c).get fld = s.get fld := by
  simp only [List.mem_cons, List.not_mem_nil, or_false, not_or] at hm
  simp [State.endWindow, hm]

@[simp] theorem State.advanceClass_get (s : State) (c : UnitClass) {fld : Field}
    (h : fld ∉ ([.logs, .fns, .mgmt, .queues, .sched, .flt, .freeCtr, .out] : List Field)) : (s.advanceClass c).get fld = s.get fld := by
  simp only [List.mem_cons, List.not_mem_nil, or_false, not_or] at h
  unfold State.advanceClass
  dsimp only
  refine (State.get_foldl _ _ ?_ _).trans (by simp [h])
  intro s j
  refine State.get_foldl _ _ ?_ _
  intro s _
  simp [h]

@[simp] theorem State.giveUp_get (s : State) (j : Job) (phase : JobPhase) {fld : Field} (hm : fld ∉ ([.jobs] : List Field)) :
    (State.giveUp s j phase).get fld = s.get fld := by
  simp only [List.mem_cons, List.not_mem_nil, or_false] at hm
  cases fld <;> first | rfl | simp at hm

@[simp] theorem State.giveTask_get (s : State) (j : Job) {fld : Field} (hm : fld ∉ ([.jobs] : List Field)) :
    (State.giveTask s j).get fld = s.get fld := by
  simp only [List.mem_cons, List.not_mem_nil, or_false] at hm
  cases fld <;> first | rfl | simp at hm

@[simp] theorem State.holdCompletion_get (s : State) (j : Job) {fld : Field} (hm : fld ∉ ([.jobs, .sched] : List Field)) :
    (State.holdCompletion s j).get fld = s.get fld := by
  simp only [List.mem_cons, List.not_mem_nil, or_false, not_or] at hm
  simp [State.holdCompletion, hm]

@[simp] theorem State.failPair_get (s : State) (p : Nat) {fld : Field}
    (h : fld ∉ ([.logs, .fns, .mgmt, .jobs, .tables, .ent, .flt, .freeCtr, .out] : List Field)) : (s.failPair p).get fld = s.get fld := by
  simp only [List.mem_cons, List.not_mem_nil, or_false, not_or] at h
  have hs : fld ∉ ([.flt] : List Field) := by simp [h]
  unfold State.failPair
  dsimp only
  split <;> (rename_i e; simp [State.faultEvent_of e hs, h])

@[simp] theorem State.afterPairs_get (s : State) {fld : Field} (hm : fld ∉ ([.logs, .fns, .mgmt, .jobs, .tables, .ent, .flt, .out] : List Field)) :
    (State.afterPairs s).get fld = s.get fld := by
  simp only [List.mem_cons, List.not_mem_nil, or_false, not_or] at hm
  simp [State.afterPairs, hm]

@[simp] theorem State.serveRandom_get (n : Nat) (s : State) (j : Job) {fld : Field}
    (h : fld ∉ ([.jobs, .tables, .ent, .freeCtr] : List Field)) : (State.serveRandom n s j).1.get fld = s.get fld := by
  simp only [List.mem_cons, List.not_mem_nil, or_false, not_or] at h
  induction n generalizing s j with
  | zero => rfl
  | succ n ih =>
    simp only [State.serveRandom]
    split
    · rfl
    · simp [ih, h]

@[simp] theorem State.begin_get (s : State) (code : Nat) (run : State → State) {fld : Field} (hm : fld ∉ ([.flt] : List Field)) (hrun : ∀ x0, (run x0).get fld = x0.get fld) :
    (State.begin s code run).get fld = s.get fld := by
  simp only [List.mem_cons, List.not_mem_nil, or_false] at hm
  simp [State.begin, hm, hrun]

@[simp] theorem State.minor_get (s : State) (cls : Nat) {fld : Field}
    (h : fld ∉ ([.boot, .logs, .fuses, .guard, .fns, .mgmt, .queues, .jobs, .sched, .keys, .store, .tables, .dru, .ent, .flt, .upd, .freeCtr, .out] : List Field)) : (s.minor cls).get fld = s.get fld := by
  simp only [List.mem_cons, List.not_mem_nil, or_false, not_or] at h
  have hs : fld ∉ ([.flt] : List Field) := by simp [h]
  unfold State.minor
  dsimp only
  split <;> (rename_i e; simp [State.faultEvent_of e hs, h])

@[simp] theorem State.minorBegins_get (s : State) (cls : Nat) {fld : Field} (hm : fld ∉ ([.boot, .logs, .fuses, .guard, .fns, .mgmt, .queues, .jobs, .sched, .keys, .store, .tables, .dru, .ent, .flt, .upd, .freeCtr, .out] : List Field)) :
    (State.minorBegins s cls).get fld = s.get fld := by
  simp only [List.mem_cons, List.not_mem_nil, or_false, not_or] at hm
  simp [State.minorBegins, hm]

@[simp] theorem State.coreBad_get (s : State) (core : Nat) {fld : Field}
    (h : fld ∉ ([.logs, .fns, .mgmt, .flt, .out] : List Field)) : (s.coreBad core).get fld = s.get fld := by
  simp only [List.mem_cons, List.not_mem_nil, or_false, not_or] at h
  have hs : fld ∉ ([.flt] : List Field) := by simp [h]
  unfold State.coreBad
  split
  · rfl
  · split <;> (rename_i e; simp [State.faultEvent_of e hs, h])

/-- An access to a function whose BAR0 decodes acts. -/
theorem State.onBar_open {s : State} {fn : Nat} (h : s.barOpen fn = true) (act : State → State) : s.onBar fn act = act s := by
  simp only [State.barOpen, Bool.and_eq_true, Bool.not_eq_true', decide_eq_true_eq] at h
  obtain ⟨⟨⟨⟨⟨hl, hc⟩, hp⟩, hm⟩, hd⟩, hf⟩ := h
  simp [State.onBar, hl, hc, hp, hm, hd, hf]

theorem State.onBar_up {s : State} {fn : Nat} (h : s.barUp fn = true) (act : State → State) : s.onBar fn act = act s :=
  State.onBar_open (Bool.and_eq_true_iff.1 h).1 act

end Sys2Proof.Machine
end

