-- ==== Sys2Proof/Laws/Sparse.lean ====
section
/-!
SUPPORT. Laws/Sparse.lean: a sparse store reads as it was written, at the key and at every other, and a write keeps its
canonical form.
-/
namespace Sys2Proof.Machine
open Sys2Proof

variable {α : Type}

theorem Sparse.get_insert (d : α) (m : Sparse α) (i k : Nat) (v : α) :
    (Sparse.insert m i v).get d k = if i = k then v else m.get d k := by
  induction m with
  | nil => rfl
  | cons p m ih =>
    simp only [Sparse.insert]
    split
    · rfl
    · split
      · subst_vars; simp only [Sparse.get]; split <;> rfl
      · simp only [Sparse.get, ih]; split <;> [skip; rfl]
        subst_vars; rw [if_neg (by omega)]

theorem Sparse.get_erase (d : α) (m : Sparse α) (i k : Nat) :
    (Sparse.erase m i).get d k = if i = k then d else m.get d k := by
  induction m with
  | nil => simp [Sparse.erase, Sparse.get]
  | cons p m ih =>
    unfold Sparse.erase at ih ⊢
    by_cases h : p.1 = i
    · simp only [List.filter, h, ne_eq, not_true_eq_false, decide_false, ih, Sparse.get]
      split <;> rfl
    · simp only [List.filter, ne_eq, h, not_false_eq_true, decide_true, Sparse.get, ih]
      split <;> [skip; rfl]
      subst_vars; rw [if_neg (fun e => h e.symm)]

/-- Read after write. -/
@[simp] theorem Sparse.get_set [DecidableEq α] (d : α) (m : Sparse α) (i k : Nat) (v : α) :
    (m.set d i v).get d k = if i = k then v else m.get d k := by
  unfold Sparse.set
  split
  · subst_vars; exact Sparse.get_erase v m i k
  · exact Sparse.get_insert d m i k v

theorem Sparse.mem_insert {m : Sparse α} {i : Nat} {v : α} {p : Nat × α} (h : p ∈ Sparse.insert m i v) :
    p = (i, v) ∨ p ∈ m := by
  induction m with
  | nil => exact .inl (by simpa [Sparse.insert] using h)
  | cons q m ih =>
    simp only [Sparse.insert] at h
    split at h
    · simpa using h
    · split at h
      · rcases List.mem_cons.1 h with h | h <;> simp [h]
      · rcases List.mem_cons.1 h with h | h
        · simp [h]
        · rcases ih h with h | h <;> simp [h]

/-- A write keeps the canonical form. -/
theorem Sparse.wf_set [DecidableEq α] {d : α} {m : Sparse α} (i : Nat) (v : α) (h : m.wf d = true) :
    (m.set d i v).wf d = true := by
  simp only [Sparse.wf, Bool.and_eq_true, decide_eq_true_eq, List.all_eq_true, List.pairwise_map] at h ⊢
  unfold Sparse.set
  split
  · exact ⟨h.1.filter _, fun p hp => h.2 p (List.mem_filter.1 hp).1⟩
  · rename_i hv
    refine ⟨?_, fun p hp => (Sparse.mem_insert hp).elim (fun e => by rw [e]; exact hv) (h.2 p)⟩
    have hs := h.1
    clear h
    induction m with
    | nil => simp [Sparse.insert]
    | cons q m ih =>
      have hq := List.pairwise_cons.1 hs
      simp only [Sparse.insert]
      split
      · rename_i hi
        exact List.pairwise_cons.2 ⟨fun p hp => by
          rcases List.mem_cons.1 hp with rfl | hp
          · exact hi
          · exact lt_trans hi (hq.1 p hp), hs⟩
      · split
        · subst_vars; exact List.pairwise_cons.2 ⟨hq.1, hq.2⟩
        · refine List.pairwise_cons.2 ⟨fun p hp => ?_, ih hq.2⟩
          rcases Sparse.mem_insert hp with rfl | hp
          · show q.1 < i
            omega
          · exact hq.1 p hp

end Sys2Proof.Machine
end

