-- ==== Sys2Proof/Tests/Slice0.lean ====
section
/-!
SUPPORT. Tests/Slice0.lean: the smoke test of WellFormed, a witness for the hypotheses of every statement (theorems named
wit_<statement>_<clause>), and small tests whose expected values stand in the spec.
-/
set_option Elab.async false
namespace Sys2Proof.Tests
open Sys2Proof Sys2Proof.Machine

/-! ### States -/

/-- An entry of an opcode with every other field zero and no slots. -/
def ent (op : Op) : Entry :=
  { opcode := BitVec.ofNat 16 (opCode op), flags := 0, phase := 0, cmdId := 7, rsvd := 0, ctx := 0, inLen := 0, inAddr := 0,
    outAddr := 0, outLen := 0, slotA := noSlot, slotB := noSlot, params := 0 }

/-- The firmware runs in normal mode with the link up, the PF on, VIN and the non-volatile stores good and the DRBGs ready. -/
def up : State :=
  let s := State.reset
  { s with
    power := { s.power with vinValid := true, nvOk := true }
    boot := { s.boot with stage := .firmware, code := 0x0009, entropyReady := true, serviceReady := true, perstHigh := true,
                          link := .up }
    fns := { FnState.atReset true with mse := true, bme := true } :: List.replicate 64 (FnState.atReset false)
    ent := { s.ent with state := .ready, running := true, sampled := true, pairs := List.replicate 16 .healthy, pool := 64,
                        live := true } }

/-- Job 0 running an entry of the PF's job queue 1. -/
def jobOf (e : Entry) : Job := newJob 0 (.job 0 1) { entry := e, index := 0, aborted := false, stamp := 0, input := [], viaVdm := false }

/-- A state in which only that job exists. -/
def on (s : State) (j : Job) : State := { s with jobs := [j] }

/-- An entry of `op` with its PARAMS and IN_LEN. -/
def entry (op : Op) (params inLen : Nat) : Entry :=
  { ent op with params := BitVec.ofNat 192 params, inLen := BitVec.ofNat 32 inLen }

theorem opcode_of (op : Op) : (BitVec.ofNat 16 (opCode op)).toNat = opCode op := by cases op <;> rfl

/-- The job runs its opcode with any input of IN_LEN bytes. -/
theorem runs_on (s : State) (e : Entry) (op : Op) (inp : Bytes) (h : e.opcode = BitVec.ofNat 16 (opCode op))
    (hl : inp.length = e.inLen.toNat) : (on s (jobOf e)).runsJob 0 (jobOf e) op inp := by
  refine ⟨by simp [on, State.job?, jobOf, newJob], ?_, rfl, rfl, hl, .inl rfl⟩
  show e.opcode.toNat = _
  rw [h, opcode_of]

/-- Ready DRBGs let every job go. -/
theorem passes_on (s : State) (h : s.ent.state = .ready) (j : Job) (op : Op) : s.passes j op := by
  show s.gate j _ = .go
  unfold State.gate
  rw [h]
  split <;> rfl

/-- A running job of an entry that takes no input. -/
theorem runs (op : Op) (params : Nat) : (on up (jobOf (entry op params 0))).runsJob 0 (jobOf (entry op params 0)) op [] :=
  runs_on _ _ _ _ rfl rfl

/-- Job 0 of entry `e` runs `op` on `inp` over `s`, and the DRBGs let it go. -/
def Goes (s : State) (e : Entry) (op : Op) (inp : Bytes) : Prop :=
  (on s (jobOf e)).runsJob 0 (jobOf e) op inp ∧ (on s (jobOf e)).passes (jobOf e) op

theorem goes {s : State} {e : Entry} {op : Op} {inp : Bytes} (hs : s.ent.state = .ready)
    (h : e.opcode = BitVec.ofNat 16 (opCode op)) (hl : inp.length = e.inLen.toNat) : Goes s e op inp :=
  ⟨runs_on _ _ _ _ h hl, passes_on _ hs _ _⟩

/-- The firmware's state with an operand slot that holds `tag` and `content`. -/
def slotted (a : Nat) (tag : SlotTag) (content : Bytes) : State :=
  up.mapStore fun o => o.setSlot a { owner := 0, tag, content }

/-! ### Witnesses: lattice, code-based, hash -/

/-- StepRunsFront: a queue with a command at its front. -/
theorem wit_stepRunsFront : ({ up with pending := [.mramRefresh, .ppsEdge] } : State).pending = .mramRefresh :: [.ppsEdge] := rfl

theorem wit_mlKem_keygen : Goes up (entry .mlkemKeygen 1 0) .mlkemKeygen [] := goes rfl rfl rfl

/-- The first coefficient is 3,328, the largest the modulus check passes. -/
theorem wit_mlKem_encaps : Goes up (entry .mlkemEncaps 2 1184) .mlkemEncaps ([0, 0x0D] ++ zeros 1182)
    ∧ badCoeff 2 ([0, 0x0D] ++ zeros 1182) = none := ⟨goes rfl rfl (by decide +kernel), by decide +kernel⟩

theorem wit_mlKem_decaps : let e := { entry .mlkemDecaps 1 768 with slotA := 0 }
    Goes (slotted 0 (.mlkem 1) (zeros 1632)) e .mlkemDecaps (zeros 768) ∧ e.ctx = 0
    ∧ ((on (slotted 0 (.mlkem 1) (zeros 1632)) (jobOf e)).store.slot e.slotA.toNat).tag = .mlkem (e.p 0 1) :=
  ⟨goes rfl rfl (by decide +kernel), rfl, by decide +kernel⟩

theorem wit_mlKem_internal : (Goes up (entry .mlkemEncapsInternal 1 832) .mlkemEncapsInternal (zeros 832)
      ∧ badCoeff 1 ((zeros 832).take (mlkemEkLen 1)) = none)
    ∧ Goes up (entry .mlkemKeygenInternal 3 64) .mlkemKeygenInternal (zeros 64) :=
  ⟨⟨goes rfl rfl (by decide +kernel), by decide +kernel⟩, goes rfl rfl (by decide +kernel)⟩

theorem wit_mlDsa : Goes up (entry .mldsaKeygen 1 0) .mldsaKeygen [] ∧ Goes up (entry .mldsaSign 3 5) .mldsaSign (zeros 5)
    ∧ Goes up (entry .mldsaKeygenInternal 2 32) .mldsaKeygenInternal (zeros 32) :=
  ⟨goes rfl rfl rfl, goes rfl rfl (by decide +kernel), goes rfl rfl (by decide +kernel)⟩

theorem wit_mlDsa_verify : Goes up (entry .mldsaVerify 1 3732) .mldsaVerify (zeros 3732)
    ∧ hintOk 1 (slice (zeros 3732) (mldsaPkLen 1) (mldsaSigLen 1)) = true :=
  ⟨goes rfl rfl (by decide +kernel), by decide +kernel⟩

/-- A blob whose header is the context's, with KEY_LEN of the parameter set. -/
theorem wit_codeBased : let blob := Ctx.blank.blobHeader 1 (mceSkLen 1) ++ zeros (blobLen (mceSkLen 1) - 32)
    Goes up (entry .mceKeygen 1 0) .mceKeygen [] ∧ Goes up (entry .mceEncaps 1 4) .mceEncaps (zeros 4)
    ∧ (Goes up (entry .mceDecaps 1 blob.length) .mceDecaps blob
        ∧ blobFault Ctx.blank (mceSkLen 1) (blob.take (blobLen (mceSkLen 1))) = none) :=
  ⟨goes rfl rfl rfl, goes rfl rfl (by decide +kernel), goes rfl rfl (by decide +kernel), by decide +kernel⟩

theorem wit_codeBased_slot : let e := { entry .mceEncaps 1 0 with slotA := 3 }
    Goes (slotted 3 (.mce 1) [1]) e .mceEncaps [] ∧ e.slotA ≠ noSlot
    ∧ ((on (slotted 3 (.mce 1) [1]) (jobOf e)).store.slot e.slotA.toNat).tag = .mce (e.p 0 1) :=
  ⟨goes rfl rfl rfl, by decide, by decide +kernel⟩

theorem wit_codeBased_load_hqc : Goes up { entry .mcePkLoad 1 1 with slotA := 0 } .mcePkLoad [1]
    ∧ Goes up (entry .hqcKeygen 1 0) .hqcKeygen [] ∧ Goes up (entry .hqcEncaps 2 1) .hqcEncaps [0]
    ∧ Goes up (entry .hqcDecaps 3 1) .hqcDecaps [0] := ⟨goes rfl rfl rfl, goes rfl rfl rfl, goes rfl rfl rfl, goes rfl rfl rfl⟩

/-- With CHECK the last TAG_LEN bytes are the expected tag. -/
theorem wit_hashJobs : Goes up (entry .hash 1 3) .hash [1, 2, 3] ∧ Goes up (entry .cshake 7 1) .cshake [1]
    ∧ Goes up { entry .kmac 1 0 with flags := 4 } .kmac [] ∧ Goes up { entry .kmac 1 0 with flags := 8 } .kmac []
    ∧ Goes up { entry .hmac 1 0 with flags := 4 } .hmac [] ∧ Goes up (entry .hmac 1 0) .hmac [] :=
  ⟨goes rfl rfl rfl, goes rfl rfl rfl, goes rfl rfl rfl, goes rfl rfl rfl, goes rfl rfl rfl, goes rfl rfl rfl⟩

/-- An open stream of the PF with four bytes absorbed of a total of five. -/
def stream : Stream :=
  { slot := 0, fn := 0, kind := 0, alg := 1, ctx := 0, keyed := false, key := [], name := [], custom := [], total := 5,
    absorbed := 4, data := zeros 4 }

def streaming : State := up.mapTables fun t => { t with streams := [stream] }

theorem wit_streams_open : Goes up (entry .streamOpen 1 0) .streamOpen []
    ∧ (on up (jobOf (entry .streamOpen 1 0))).tables.freeSlot = some 0 := ⟨goes rfl rfl rfl, by decide +kernel⟩

theorem wit_streams_part : let e := entry .streamPart (4 * 2 ^ 128) 1
    (on streaming (jobOf e)).streamOf (jobOf e).fn (e.p 12 4) = some stream ∧ Goes streaming e .streamPart [9]
    ∧ e.p 16 8 = stream.absorbed := ⟨by decide +kernel, goes rfl rfl rfl, by decide +kernel⟩

theorem wit_streams_final : let e := entry .streamFinal (4 * 2 ^ 128) 1
    (on streaming (jobOf e)).streamOf (jobOf e).fn (e.p 12 4) = some stream ∧ Goes streaming e .streamFinal [9]
    ∧ e.flag 4 = false ∧ e.p 16 8 = stream.absorbed ∧ stream.absorbed + [(9 : Byte)].length = stream.total :=
  ⟨by decide +kernel, goes rfl rfl rfl, by decide +kernel, by decide +kernel, rfl⟩

theorem wit_streams_discard : let e := { entry .streamFinal 0 0 with flags := 0x10 }
    (on streaming (jobOf e)).streamOf (jobOf e).fn (e.p 12 4) = some stream ∧ Goes streaming e .streamFinal [] ∧ e.flag 4 = true :=
  ⟨by decide +kernel, goes rfl rfl rfl, by decide +kernel⟩

/-! ### Witnesses: stateful and stateless hash signatures, SEAL -/

theorem wit_slhDsa : Goes up (entry .slhKeygen 1 0) .slhKeygen [] ∧ Goes up { entry .slhSign 12 2 with flags := 4 } .slhSign [0, 0]
    ∧ Goes up (entry .slhVerify 1 1) .slhVerify [0] ∧ Goes up (entry .slhKeygenInternal 1 48) .slhKeygenInternal (zeros 48) :=
  ⟨goes rfl rfl rfl, goes rfl rfl rfl, goes rfl rfl rfl, goes rfl rfl (by decide +kernel)⟩

/-- A log record of the key at index 20. -/
def rec20 : SlogRec :=
  { num := 3, keyId := [1], index := 20, gen := 0, sepoch := 0, reservedEnd := 4096, indexLimit := 32768, status := .active,
    next := 0, exporting := false, nonce := [] }

def logged (r : SlogRec) : State := up.mapKeeper fun k => { k with slog := [r] }

/-- A tree job of the key at index 20 with LMS type 7 and OTS type 4 over slot 0. -/
def treeEntry (op : Op) (params inLen : Nat) : Entry := { entry op params inLen with ctx := 20, slotA := 0 }

/-- INDEX_LIMIT at its bound of 2^H (H is 15 for LMS type 7), and none for XMSS. -/
theorem wit_treeKeygen_new :
    (let e := treeEntry .lmsKeygen (0x0407 + 32768 * 2 ^ 64) 0
     let j := { jobOf e with tasks := some 0 }
     Goes up e .lmsKeygen [] ∧ (jobOf e).tasks = none ∧ ((jobOf e).tree false).taskCount ≠ 0
       ∧ (on up j).runsJob 0 j .lmsKeygen [] ∧ j.tasks = some 0 ∧ (on up j).nvFree = true ∧ (on up j).jobRec j = none
       ∧ e.p 8 8 ≤ 2 ^ (j.tree false).h ∧ (on up j).keeper.freeRec = some 0 ∧ up.keeper.slog = [])
    ∧ (let e := treeEntry .xmssKeygen 1 0
       Goes up e .xmssKeygen [] ∧ (on up (jobOf e)).jobRec (jobOf e) = none ∧ e.p 8 8 ≤ 2 ^ ((jobOf e).tree true).h) := by
  refine ⟨⟨goes rfl rfl rfl, ?_⟩, goes rfl rfl rfl, ?_⟩ <;> decide +kernel

/-- A key of height 5 has no subtree tasks. -/
theorem wit_treeKeygen_small : ((jobOf (treeEntry .lmsKeygen 0x0405 0)).tree false).taskCount = 0 := by decide +kernel

/-- A record that carries the key's own KEY_ID. -/
theorem wit_treeKeygen_again (xmss : Bool) : let op : Op := if xmss then .xmssKeygen else .lmsKeygen
    let e := treeEntry op 0x0407 0
    let k := (jobOf e).tree xmss
    let seed := k.seed ((on up (jobOf e)).regKey (jobOf e))
    let kid := Config.sha256 (k.pk seed ((k.top seed).head?.getD []))
    let r : SlogRec := { rec20 with keyId := kid, status := .releasePending }
    Goes (logged r) e op [] ∧ (on (logged r) (jobOf e)).jobRec (jobOf e) = some r
      ∧ (on (logged r) (jobOf e)).regKey (jobOf e) = (on up (jobOf e)).regKey (jobOf e) ∧ (on (logged r) (jobOf e)).nvFree = true
      ∧ ((logged r).keeper.slog.any fun x => x.keyId = kid && (x.index ≠ handleIndex e.ctx || x.status = .retired)) = false := by
  cases xmss
  all_goals
    refine ⟨goes rfl rfl rfl, by simp [State.jobRec, State.slogOf, logged, on, State.mapKeeper, rec20, treeEntry, jobOf, newJob, handleIndex, entry, ent, Ctx.blank], rfl, rfl, ?_⟩
    simp [logged, State.mapKeeper, rec20, treeEntry, handleIndex, entry, ent]

/-- The cache of that key. -/
def cache20 (xmss : Bool) : TreeCache :=
  { xmss, type := 7, ots := 4, curArea := false, curSub := 0, nextFill := 128, ahead := [], keyId := [1] }

/-- A signing job before the port and one with the last index of the reservation. -/
theorem wit_treeSign (xmss : Bool) : let op : Op := if xmss then .xmssSign else .lmsSign
    let e := treeEntry op 0x0407 3
    let s := (logged rec20).mapStore fun o => o.setSlot 0 { owner := 0, tag := .tree (cache20 xmss), content := [] }
    let j := { jobOf e with taken := some 4095 }
    Goes s e op [1, 2, 3] ∧ (on s (jobOf e)).jobRec (jobOf e) = some rec20
      ∧ ((on s (jobOf e)).store.slot 0).tag = .tree (cache20 xmss) ∧ (jobOf e).taken = none
      ∧ ((jobOf e).tree xmss).matches (cache20 xmss) rec20 = true
      ∧ ((on s j).runsJob 0 j op [1, 2, 3] ∧ (on s j).jobRec j = some rec20 ∧ j.taken = some 4095 ∧ ((jobOf e).tree xmss).mustWait (cache20 xmss) ((on s j).otherIndices j) 4095 = false) := by
  cases xmss <;> refine ⟨goes rfl rfl rfl, ?_⟩ <;> decide +kernel

/-- The port serves the last index of the reservation; the reservation of a key close to its limit moves. -/
theorem wit_treeSign_port : let j := { jobOf (treeEntry .lmsSign 0x0407 3) with phase := .waitIndex }
    let r := { rec20 with next := 4095 }
    let s := (on (logged r) j).mapTables fun t => { t with idxQueue := [0, 5] }
    s.tables.idxQueue.head? = some 0 ∧ s.job? 0 = some j ∧ j.phase = .waitIndex ∧ s.jobRec j = some r ∧ r.status ≠ .retired
      ∧ r.exporting = false ∧ r.next < r.indexLimit ∧ r.next < r.reservedEnd := by decide +kernel

theorem wit_treeSign_reserve : let r := { rec20 with next := 1, reservedEnd := 4096, indexLimit := 4097 }
    (logged r).keeper.slog.find? (fun x => x.num = r.num) = some r ∧ (logged r).nvFree = true ∧ r.status = .active
      ∧ r.reservedEnd < r.next + 4096 ∧ r.reservedEnd < r.indexLimit := by decide +kernel

/-- An LMS signature's form at the highest index of type 5 (H 5), and an XMSS one at the highest index of OID 1 (H 10). -/
def lmsInput : Bytes :=
  [0, 0, 0, 5, 0, 0, 0, 1] ++ zeros 48 ++ ([0, 0, 0, 31, 0, 0, 0, 1] ++ zeros (32 * 266) ++ [0, 0, 0, 5] ++ zeros 160)

def xmssInput : Bytes := [0, 0, 0, 1] ++ zeros 64 ++ ([0, 0, 0x03, 0xFF] ++ zeros (32 + 77 * 32))

theorem wit_treeVerify_lms : Goes up (entry .lmsVerify 0x0105 lmsInput.length) .lmsVerify lmsInput
    ∧ (let pk := lmsInput.take (lmsPkLen 5)
       let sig := slice lmsInput (lmsPkLen 5) (lmsSigLen 5 1)
       be32At pk 0 = 5 ∧ be32At pk 4 = 1 ∧ be32At sig 4 = 1 ∧ be32At sig (8 + lmsN 5 * (otsP 1 + 1)) = 5
         ∧ be32At sig 0 < 2 ^ lmsH 5) := by
  refine ⟨goes rfl rfl ?_, ?_⟩ <;> decide +kernel

theorem wit_treeVerify_xmss : Goes up (entry .xmssVerify 1 xmssInput.length) .xmssVerify xmssInput
    ∧ (let pk := xmssInput.take (xmssPkLen 1)
       let sig := slice xmssInput (xmssPkLen 1) (xmssSigLen 1)
       be32At pk 0 = 1 ∧ be32At sig 0 < 2 ^ xmssH 1) := by
  refine ⟨goes rfl rfl ?_, ?_⟩ <;> decide +kernel

theorem wit_treeCache : let s := (logged rec20).mapStore fun o => o.setSlot 0 { owner := 0, tag := .tree (cache20 false), content := [] }
    let e := treeEntry .cacheSave 0x0407 0
    Goes s e .cacheSave [] ∧ (on s (jobOf e)).jobRec (jobOf e) = some rec20
      ∧ ((on s (jobOf e)).store.slot e.slotA.toNat).tag = .tree (cache20 false)
      ∧ ((jobOf e).tree (decide (e.p 1 1 = 0))).matches (cache20 false) rec20 = true := by
  refine ⟨goes rfl rfl rfl, ?_⟩; decide +kernel

theorem wit_treeCache_load : let r := { rec20 with keyId := zeros 32 }
    let img := zeros 6 ++ [1, 7, 4, 0, 0, 1] ++ zeros 52
    let e := treeEntry .cacheLoad 0x0407 64
    let k := (jobOf e).tree (decide (e.p 1 1 = 0))
    Goes (logged r) e .cacheLoad img ∧ (on (logged r) (jobOf e)).jobRec (jobOf e) = some r
      ∧ cacheHeader k img = some { cache20 false with curArea := true, nextFill := 0, keyId := zeros 32 }
      ∧ k.matches { cache20 false with curArea := true, nextFill := 0, keyId := zeros 32 } r = true := by
  refine ⟨goes rfl rfl (by decide +kernel), ?_⟩; decide +kernel

/-- One document, the smallest count. -/
theorem wit_seal : let e := entry .seal (1 + 32 * 2 ^ 32 + 3 * 2 ^ 40) 64
    Goes up e .seal (zeros 64) ∧ (on up (jobOf e)).laneWait (jobOf e) = false := ⟨goes rfl rfl (by decide +kernel), by decide +kernel⟩

/-! ### Witnesses: curves, RSA, the sequencer, AES, the digest unit -/

/-- A set of one-byte integers: y² = x³ + x + 1 over the field of 23 elements, generator (3, 10), order 28. -/
def toySet : Bytes := leBytes 4 0x56524350 ++ leBytes 2 1 ++ [1, 0, 1, 0, 1] ++ zeros 5 ++ [23, 1, 1, 3, 10, 28]

def curved : State := up.mapTables fun t => { t with curves := [(0, toySet)] }

theorem wit_curve_keys : Goes up (entry .ecKeygen 1 0) .ecKeygen [] ∧ Goes up (entry .ecdsaSign 1 32) .ecdsaSign (zeros 32)
    ∧ Goes up (entry .eddsaSign 4 1) .eddsaSign [0] ∧ Goes up (entry .eddsaVerify 4 1) .eddsaVerify [0]
    ∧ Goes up (entry .ecValidate 1 65) .ecValidate (zeros 65) :=
  ⟨goes rfl rfl rfl, goes rfl rfl (by decide +kernel), goes rfl rfl rfl, goes rfl rfl rfl, goes rfl rfl (by decide +kernel)⟩

/-- r at its least value 1 and s at its greatest, the order less 1. -/
theorem wit_curve_ecdsaVerify : let e := entry .ecdsaVerify 32 6
    let inp : Bytes := [0x04, 3, 10, 1, 27, 9]
    let s := on curved (jobOf e)
    Goes curved e .ecdsaVerify inp ∧ e.ctx = 0 ∧ s.pointFault 32 (inp.take (s.ecPkLen 32)) = none
      ∧ 1 ≤ beNat (slice inp (s.ecPkLen 32) (s.curveLn 32)) ∧ beNat (slice inp (s.ecPkLen 32) (s.curveLn 32)) < (s.weier 32).n
      ∧ 1 ≤ beNat (slice inp (s.ecPkLen 32 + s.curveLn 32) (s.curveLn 32))
      ∧ beNat (slice inp (s.ecPkLen 32 + s.curveLn 32) (s.curveLn 32)) < (s.weier 32).n := by
  refine ⟨goes rfl rfl rfl, ?_⟩; decide +kernel

theorem wit_curve_ecdh : (let e := entry .ecdh 32 3
      Goes curved e .ecdh [0x04, 3, 10] ∧ isWeier 32 = true ∧ (on curved (jobOf e)).pointFault 32 [0x04, 3, 10] = none)
    ∧ Goes up { entry .ecdh 6 32 with flags := 4 } .ecdh (zeros 32) ∧ isWeier 6 = false := by
  refine ⟨⟨goes rfl rfl rfl, ?_⟩, goes rfl rfl (by decide +kernel), by decide⟩; decide +kernel

/-- The shortest set CURVE_LOAD takes: 20-byte integers and an order one byte longer. -/
theorem wit_curve_load : let inp : Bytes := leBytes 4 0x56524350 ++ leBytes 2 1 ++ [20, 0, 21, 0, 1] ++ zeros 5 ++ zeros 121
    Goes up (entry .curveLoad 0 137) .curveLoad inp ∧ slice inp 0 6 = leBytes 4 0x56524350 ++ leBytes 2 1 ∧ slice inp 11 5 = zeros 5
      ∧ leNat (slice inp 6 2) = 20 ∧ leNat (slice inp 8 2) = 21 ∧ inp.length = 16 + 5 * 20 + 21 := by
  refine ⟨goes rfl rfl (by decide +kernel), ?_⟩; decide +kernel

/-- A two-byte RSA key: 143 = 11 × 13, public exponent 7. -/
def toyKey : Bytes := [0, 0, 0, 7, 0, 143, 11, 13, 3, 7, 6]

theorem wit_rsa_load : let blob := Ctx.blank.blobHeader 1 (rsaKeyLen 256) ++ zeros (blobLen (rsaKeyLen 256) - 32)
    Goes up (entry .rsaKeygen (256 + 65537 * 2 ^ 32) 0) .rsaKeygen []
      ∧ Goes up { entry .rsaKeyLoad 256 blob.length with slotA := 0 } .rsaKeyLoad blob
      ∧ blobFault Ctx.blank (rsaKeyLen 256) blob = none :=
  ⟨goes rfl rfl rfl, goes rfl rfl (by decide +kernel), by decide +kernel⟩

/-- The greatest value below the modulus. -/
theorem wit_rsa_private : let e := { entry .rsaPrivate 2 2 with slotA := 1 }
    let s := slotted 1 (.rsa 0 0) toyKey
    Goes s e .rsaPrivate [0, 142] ∧ e.slotA ≠ noSlot ∧ ((on s (jobOf e)).store.slot e.slotA.toNat).tag = .rsa (handleIndex e.ctx) 0
      ∧ ((on s (jobOf e)).store.slot e.slotA.toNat).content = toyKey ∧ beNat ([0, 142] : Bytes) < beNat (slice toyKey 4 2)
      ∧ powMod (beNat (slice toyKey 4 2)) (rsaCrt 2 toyKey 142) (toyKey.take 4) = 142 := by
  refine ⟨goes rfl rfl rfl, ?_⟩; decide +kernel

theorem wit_rsa_private_blob : let blob := Ctx.blank.blobHeader 1 (rsaKeyLen 256) ++ zeros (blobLen (rsaKeyLen 256) - 32)
    let e := entry .rsaPrivate 256 (blob.length + 256)
    Goes up e .rsaPrivate (blob ++ zeros 256) ∧ e.slotA = noSlot
      ∧ blobFault Ctx.blank (rsaKeyLen 256) ((blob ++ zeros 256).take (blobLen (rsaKeyLen 256))) = none :=
  ⟨goes rfl rfl (by decide +kernel), rfl, by decide +kernel⟩

/-- The least public exponent, 3, and the greatest value below the modulus 15. -/
theorem wit_rsa_public : let inp : Bytes := [0, 0, 0, 3, 15, 14]
    Goes up (entry .rsaPublic 1 6) .rsaPublic inp ∧ beNat (slice inp 4 1) % 2 = 1 ∧ slice inp 4 1 ≠ [0]
      ∧ beNat (inp.drop 5) < beNat (slice inp 4 1) ∧ beNat (inp.take 4) % 2 = 1 ∧ 3 ≤ beNat (inp.take 4) :=
  ⟨goes rfl rfl rfl, by decide +kernel⟩

theorem wit_rsa_modular : (let inp : Bytes := [3, 2, 5]
      Goes up (entry .modexp 1 3) .modexp inp ∧ beNat (inp.take 1) % 2 = 1 ∧ 1 < beNat (inp.take 1) ∧ beNat (slice inp 1 1) < beNat (inp.take 1))
    ∧ (let inp : Bytes := [3, 2, 0]
      Goes up (entry .modmul 1 3) .modmul inp ∧ beNat (slice inp 1 1) < beNat (inp.take 1) ∧ beNat (inp.drop 2) < beNat (inp.take 1))
    ∧ (let inp : Bytes := [9, 8]
      Goes up (entry .modinv 1 2) .modinv inp ∧ beNat (inp.take 1) % 2 = 1 ∧ 1 < beNat (inp.take 1) ∧ beNat (inp.drop 1) < beNat (inp.take 1)
        ∧ Nat.gcd (beNat (inp.drop 1)) 9 = 1 ∧ (8 < 9 ∧ 8 * 8 % 9 = 1 % 9))
    ∧ (let inp : Bytes := [9, 6]
      Goes up (entry .modinv 1 2) .modinv inp ∧ Nat.gcd (beNat (inp.drop 1)) (beNat (inp.take 1)) ≠ 1) :=
  ⟨⟨goes rfl rfl rfl, by decide +kernel⟩, ⟨goes rfl rfl rfl, by decide +kernel⟩, ⟨goes rfl rfl rfl, by decide +kernel⟩,
    ⟨goes rfl rfl rfl, by decide +kernel⟩⟩

/-- A program image of the least length, four bytes of code. -/
theorem wit_sequencer_load : let inp : Bytes := leBytes 4 0x50584450 ++ leBytes 2 1 ++ zeros 6 ++ [4, 0, 0, 0] ++ zeros (52 + 2592 + 4627)
    Goes up (entry .dxProgramLoad 0 7287) .dxProgramLoad inp ∧ dxFormOk inp = true :=
  ⟨goes rfl rfl (by decide +kernel), by decide +kernel⟩

/-- A register slot whose register 1 is sealed. -/
def dxState : State := (slotted 2 (.dx 2) (zeros 16384)).mapTables fun t =>
  { t with dxProgs := [(0, { programId := 9, needsEntropy := true, cycleCount := 10, code := [1, 2, 3, 4] })] }

theorem wit_sequencer_run : let e := { entry .dxRun 0 0 with slotA := 2 }
    Goes dxState e .dxRun []
      ∧ (on dxState (jobOf e)).tables.dxProgs.lookup (e.p 0 1) = some { programId := 9, needsEntropy := true, cycleCount := 10, code := [1, 2, 3, 4] }
      ∧ ((on dxState (jobOf e)).store.slot e.slotA.toNat).tag = .dx 2 := ⟨goes rfl rfl rfl, by decide +kernel⟩

theorem wit_sequencer_write : (let e := { entry .dxSlotWrite 0x1F00 512 with slotA := 5 }
      Goes dxState e .dxSlotWrite (zeros 512) ∧ ((on dxState (jobOf e)).store.slot e.slotA.toNat).tag = .empty)
    ∧ (let e := { entry .dxSlotWrite 0x0100 512 with slotA := 2 }
      Goes dxState e .dxSlotWrite (zeros 512) ∧ ((on dxState (jobOf e)).store.slot e.slotA.toNat).tag = .dx 2) :=
  ⟨⟨goes rfl rfl (by decide +kernel), by decide +kernel⟩, goes rfl rfl (by decide +kernel), by decide +kernel⟩

theorem wit_sequencer_read : (let e := { entry .dxSlotRead 0x010000 0 with slotA := 2 }
      Goes dxState e .dxSlotRead [] ∧ ((on dxState (jobOf e)).store.slot e.slotA.toNat).tag = .dx 2 ∧ (2#32 : BitVec 32) &&& regMask e = 0)
    ∧ (let e := { entry .dxSlotRead 0x020000 0 with slotA := 2 }
      Goes dxState e .dxSlotRead [] ∧ (2#32 : BitVec 32) &&& regMask e ≠ 0) :=
  ⟨⟨goes rfl rfl rfl, by decide +kernel⟩, goes rfl rfl rfl, by decide +kernel⟩

theorem wit_aes : Goes up (entry .gcmEncrypt (16 * 2 ^ 32) 44) .gcmEncrypt (zeros 44)
    ∧ Goes up { entry .gcmEncrypt (16 * 2 ^ 32) 32 with flags := 4 } .gcmEncrypt (zeros 32)
    ∧ Goes up (entry .gcmDecrypt (16 * 2 ^ 32) 60) .gcmDecrypt (zeros 60) ∧ Goes up (entry .kwWrap 0 48) .kwWrap (zeros 48)
    ∧ Goes up (entry .kwUnwrap (2 ^ 40) 48) .kwUnwrap (zeros 48) ∧ Goes up (entry .cmac (16 * 2 ^ 32) 32) .cmac (zeros 32)
    ∧ Goes up { entry .cmac (16 * 2 ^ 32) 48 with flags := 4 } .cmac (zeros 48) := by
  refine ⟨?_, ?_, ?_, ?_, ?_, ?_, ?_⟩ <;> exact goes rfl rfl (by decide +kernel)

/-- Equal halves of the key are the refused case; the other case has them apart. -/
theorem wit_aes_xts (enc : Bool) : let op : Op := if enc then .xtsEncrypt else .xtsDecrypt
    (Goes up (entry op 0 80) op (zeros 80) ∧ (zeros 64).take 32 = (zeros 64).drop 32)
    ∧ Goes up (entry op 0 80) op (1 :: zeros 79) ∧ ((1 :: zeros 79 : Bytes).take 64).take 32 ≠ ((1 :: zeros 79 : Bytes).take 64).drop 32 := by
  cases enc <;> exact ⟨⟨goes rfl rfl (by decide +kernel), by decide +kernel⟩, goes rfl rfl (by decide +kernel), by decide +kernel⟩

/-- The digest unit in the host's hands. -/
def druState (f : Dru → Dru) : State := up.mapDru fun d => f { d with owner := .host, tag := 1 }

theorem wit_dru_claim : up.barUp 0 = true ∧ up.fwRunning = true ∧ up.cdRunning = true ∧ up.dru.owner = .none ∧ (1 : BitVec 8) ≠ 0 := by decide +kernel

/-- ALG at both ends of its range. -/
theorem wit_dru_start : (druState id).barUp 0 = true ∧ (druState id).dru.owner = .host ∧ (druState id).dru.finishing = false
    ∧ 1 ≤ (1#4).toNat ∧ (1#4).toNat ≤ 6 ∧ 1 ≤ (6#4).toNat ∧ (6#4).toNat ≤ 6 := by decide +kernel

theorem wit_dru_release : (druState fun d => { d with finishing := true }).barUp 0 = true
    ∧ (druState fun d => { d with finishing := true }).dru.owner = .host
    ∧ (druState fun d => { d with finishing := true }).dru.finishing = true := by decide +kernel

/-- SAVE on a block boundary, in SEALED mode with its key. -/
theorem wit_dru_save : let s := druState fun d =>
      { d with active := true, alg := 1, sealedMode := true, saveKey := some 0, msg := zeros 64, bytes := 64 }
    s.barUp 0 = true ∧ s.dru.owner = .host ∧ s.dru.active = true ∧ s.dru.finishing = false
      ∧ s.dru.msg.length % druBlock s.dru.alg.toNat = 0 ∧ (s.dru.sealedMode = true → s.dru.saveKey.isSome = true) := by decide +kernel

/-- The last word that a message takes, and the first that passes its limit. -/
theorem wit_dru_data : (let s := druState fun d => { d with active := true, alg := 1, bytes := 2 ^ 61 - 9 }
      s.barUp 0 = true ∧ s.dru.owner = .host ∧ s.dru.active = true ∧ s.dru.finishing = false ∧ s.dru.bytes + 8 ≤ 2 ^ 61 - 1)
    ∧ (let s := druState fun d => { d with active := true, alg := 1, bytes := 2 ^ 61 - 8, lastCnt := 8 }
      s.dru.active = true ∧ s.dru.finishing = false ∧ 2 ^ 61 - 1 < s.dru.bytes + 8 ∧ s.dru.lastCnt ≠ 0xF
        ∧ 2 ^ 61 - 1 < s.dru.bytes + s.dru.lastCnt.toNat)
    ∧ (druState id).dru.active = false := by decide +kernel

theorem wit_dru_last : (8#4).toNat ≤ 8 ∧ (0#4).toNat ≤ 8
    ∧ (let s := druState fun d => { d with active := true, alg := 1, bytes := 2 ^ 61 - 9, lastCnt := 8 }
      s.barUp 0 = true ∧ s.dru.owner = .host ∧ s.dru.active = true ∧ s.dru.finishing = false ∧ s.dru.lastCnt.toNat ≤ 8
        ∧ s.dru.bytes + s.dru.lastCnt.toNat ≤ 2 ^ 61 - 1)
    ∧ (let s := druState fun d => { d with active := true, alg := 1 }
      7 < 8 ∧ s.dru.active = true ∧ s.dru.finishing = false ∧ s.dru.done = false) := by decide +kernel

theorem wit_dru_ends : (druState fun d => { d with saving := true }).dru.saving = true
    ∧ (let s := druState fun d => { d with finishing := true }
      s.dru.finishing = true ∧ s.dru.relPend = false)
    ∧ (let s := druState fun d => { d with finishing := true, relPend := true }
      s.dru.finishing = true ∧ s.dru.relPend = true)
    ∧ (druState fun d => { d with done := true }).dru.done = true ∧ (druState id).dru.done = false := by decide +kernel

/-- An OPEN image of SHA-256 after one block; its last bytes are its digest. -/
def imageHead : Bytes := leBytes 4 0x53524450 ++ leBytes 2 1 ++ [1, 0] ++ leBytes 8 64 ++ zeros 224

def druImage : Bytes := imageHead ++ (Config.sha256 imageHead).take 16

theorem wit_dru_restore : let s := druState fun d => { d with window := druImage }
    s.barUp 0 = true ∧ s.dru.owner = .host ∧ s.dru.finishing = false ∧ s.dru.imageOk false = true := by
  have hl : imageHead.length = 240 := by decide +kernel
  have h1 : druImage.take 240 = imageHead := by simp [druImage, hl]
  have h2 : slice druImage 240 16 = (Config.sha256 imageHead).take 16 := by simp [druImage, slice, hl]
  refine ⟨by decide +kernel, rfl, rfl, ?_⟩
  show Dru.imageOk { Dru.cleared .host with tag := 1, window := druImage } false = true
  have h3 : (fieldAt druImage 0 4 = 0x53524450 ∧ fieldAt druImage 4 2 = 1 ∧ druImgAlg druImage = 1 ∧ fieldAt druImage 7 1 ≤ 1
    ∧ druImgSealed druImage = false ∧ zeroAt druImage 228 12 = true ∧ druImgBytes druImage = 64 ∧ zeroAt druImage 216 12 = true) := by
    decide +kernel
  obtain ⟨a, b, c, d, e, f, g, h⟩ := h3
  simp [Dru.imageOk, a, b, c, d, e, f, g, h, h1, h2, druBlock]

/-! ### Witnesses: sessions, supply, start-up, resets, functions -/

/-- A carried root at index 16 whose policy lets it prove a session (bit 13). -/
def rooted : State := up.mapKeys fun k =>
  { k with ctx := [(16, { parent := 0, gen := 0, pgen := 0, type := 1, policy := 0x2000, label := 0, state := .live })],
           imported := [(0, zeros 32)] }

/-- MODE 0 needs no credential; MODE 3 names a root with its policy and a usable image root. -/
theorem wit_sessions_assign : (let e := entry .sessionAssign 0 0
      Goes up e .sessionAssign [] ∧ (on up (jobOf e)).nvFree = true ∧ ¬ (e.p 1 1 = 1 ∨ e.p 1 1 = 3) ∧ ¬ 2 ≤ e.p 1 1)
    ∧ (let e := entry .sessionAssign (0x0300 + 16 * 2 ^ 32) 4
      Goes rooted e .sessionAssign (zeros 4) ∧ e.p 1 1 = 3 ∧ (rooted.credChain (BitVec.ofNat 32 (e.p 4 4))).1 = st.ok
        ∧ rooted.imageRootOk = true) :=
  ⟨⟨goes rfl rfl rfl, by decide +kernel⟩, goes rfl rfl (by decide +kernel), by decide +kernel⟩

theorem wit_sessions_nonce : let e := entry .sessionOpen 0 0
    (jobOf e).fn < up.fns.length ∧ Goes up e .sessionOpen [] ∧ e.p 0 1 = 0 := ⟨by decide +kernel, goes rfl rfl rfl, by decide +kernel⟩

/-- A nonce of the greatest age, ten seconds. -/
def nonced : State := (up.mapKeeper fun k => { k with ticks := 327680 }).mapSession 0 fun x => { x with nonce := some (zeros 32, 0) }

theorem wit_sessions_proof : let e := entry .sessionOpen 1 0
    (jobOf e).fn < nonced.fns.length ∧ (on nonced (jobOf e)).runsJob 0 (jobOf e) .sessionOpen [] ∧ e.p 0 1 = 1
      ∧ (on nonced (jobOf e)).lockLeft 0 = 0 ∧ (on nonced (jobOf e)).nonceOf 0 = some (zeros 32)
      ∧ ((on nonced (jobOf e)).judge 0 (e.p 1 1) (zeros 32) []).1 = st.ok :=
  ⟨by decide +kernel, runs_on _ _ _ _ rfl rfl, by decide +kernel, by decide +kernel, by decide +kernel, rfl⟩

/-- A passphrase credential whose verifier is the passphrase's own. -/
theorem wit_sessions_passphrase : let s := nonced.mapKeeper fun k =>
      { k with creds := [(0, { mode := 2, ctx := 0, tag := nonced.passTag [1] 0, idleS := 0 })] }
    (s.judge 0 2 (zeros 32) [1]).1 = st.ok := by
  intro s
  have h1 : s.imageRootOk = true := by decide +kernel
  have h2 : s.passTag [1] 0 = (s.keeper.cred 0).tag := rfl
  simp [State.judge, h1]
  exact fun h => absurd h2 h

theorem wit_sessions_close : (jobOf (entry .sessionClose 0 0)).fn < up.fns.length ∧ Goes up (entry .sessionClose 0 0) .sessionClose []
    ∧ (let s := up.mapSession 0 fun x => { x with isOpen := true, idleS := 1 }
       0 < s.fns.length ∧ (s.session 0).isOpen = true ∧ (s.session 0).idleS ≠ 0)
    ∧ (let s := up.mapSession 255 fun x => { x with isOpen := true, idleS := 65535 }
       (s.session 255).isOpen = true ∧ (s.session 255).idleS ≠ 0) :=
  ⟨by decide +kernel, goes rfl rfl rfl, by decide +kernel, by decide +kernel⟩

/-- VIN absent: with nothing latched, after an island loss that is no tamper, and with a latched record. -/
theorem wit_supply_restored : (State.reset.power.vinValid = false ∧ State.reset.logs.latched = [] ∧ State.reset.boot.islandLost = false)
    ∧ (let s := State.reset.mapBoot fun b => { b with islandLost := true }
       s.power.vinValid = false ∧ s.logs.latched = [] ∧ s.boot.islandLost = true ∧ s.tamperPolicy.getLsbD 3 = false)
    ∧ (let s := State.reset.mapLogs fun l => { l with latched := [State.reset.recOf 0x0601 2 255 0 1] }
       s.power.vinValid = false ∧ s.logs.latched = [State.reset.recOf 0x0601 2 255 0 1] ∧ s.boot.islandLost = false) := by decide +kernel

/-- NV_OK in the last tier that allows it. -/
theorem wit_supply_events : up.power.vinValid = true
    ∧ (let s := up.mapPower fun p => { p with vinTier := 2 }
       s.power.pwrfailHigh = true ∧ s.power.pfHold = false ∧ s.power.vinTier ≤ 2)
    ∧ State.reset.power.vinValid = false ∧ up.devUp = true ∧ up.cdRunning = true := by decide +kernel

/-- The codes at which throttling engages (164) and releases (159), in the tiers at the ends. -/
theorem wit_supply_thermal : (let s := up.mapThermal fun t => { t with tjNow := 164, thermTier := 2 }
       s.cdRunning = true ∧ 164 ≤ s.thermal.tjNow.toNat ∧ s.thermal.thermTier < 3)
    ∧ (let s := up.mapThermal fun t => { t with tjNow := 159, thermTier := 2 }
       s.cdRunning = true ∧ s.thermal.tjNow.toNat ≤ 159 ∧ 1 < s.thermal.thermTier) := by decide +kernel

def staged (b : BootStage) : State := up.mapBoot fun x => { x with stage := b, serviceReady := false }

theorem wit_startUp_rails : (staged .keeper).boot.stage = .keeper ∧ (staged .keeper).power.vinValid = true
    ∧ (staged .keeper).power.pwrfailHigh = true ∧ (staged .rails).boot.stage = .rails := by decide +kernel

theorem sense_blank (l : List Nat) (s : State) (h : s.fuses.raw = []) :
    l.foldl (fun m w => Sparse.set Shadow.blank m w (s.sense [] w)) ([] : Sparse Shadow) = [] := by
  have h1 : ∀ w, s.sense [] w = Shadow.blank := by
    intro w
    have h2 : s.fuses.word w = 0 := by simp [Fuses.word, h, Sparse.get]
    simp [State.sense, h2, classify, fuseDecode, Shadow.blank]
  induction l with
  | nil => rfl
  | cons a l ih => simpa [h1, Sparse.set, Sparse.erase] using ih

theorem senseAll_blank (s : State) (h : s.fuses.raw = []) (h' : s.fuses.shadow = []) (hl : s.fuses.lastWord = 0)
    (hr : s.fuses.rolledFwd = false) (hb : s.fuses.busy = false) (hp : s.fuses.romPatch = []) : s.senseAll [] = s := by
  have := sense_blank (List.range 8192) s h
  have e : ({ s.fuses with shadow := [], lastWord := 0, rolledFwd := false, busy := false, romPatch := [] } : Fuses) = s.fuses := by
    cases hf : s.fuses
    simp_all
  simp only [State.senseAll, State.mapFuses, h', this]
  rw [e]

theorem blank_integrity (v : State) (hsh : v.fuses.shadow = []) (hraw : v.fuses.raw = []) : v.integrityFail [] = none := by
  have hfz : ∀ w, v.fz w = 0 := by intro w; simp [State.fz, Fuses.shadowOf, hsh, Sparse.get, Shadow.blank]
  have hw : ((List.range 8192).filter fun w => (v.fuses.shadowOf w).invalid && v.inLocked w) = [] :=
    List.filter_eq_nil_iff.2 fun w _ => by simp [Fuses.shadowOf, hsh, Sparse.get, Shadow.blank]
  simp [State.integrityFail, hw, State.writeLocked, hfz, State.sealed, Fuses.word, hraw, Sparse.get]
  decide

theorem staged_senses : (staged .released).senseAll [] = staged .released := senseAll_blank _ rfl rfl rfl rfl rfl rfl

theorem staged_majorities : (staged .released).takeMajorities.fuses.shadow = [] := by decide +kernel

/-- Blank fuses: the state decodes as RAW and nothing fails. -/
theorem wit_startUp_sensed : (staged .released).boot.stage = .released ∧ (staged .released).keeper.lcJournal = none
    ∧ ((staged .released).senseAll []).takeMajorities.integrityFail (((staged .released).senseAll []).noMajority (tripRoot ++ tripLock)) = none
    ∧ ((staged .released).senseAll []).noMajority tripLc = []
    ∧ (lcDecode fun i => ((staged .released).senseAll []).takeMajorities.fz (160 + i)).1 = .raw := by
  rw [staged_senses]
  have hn : (staged .released).noMajority (tripRoot ++ tripLock) = [] := by decide +kernel
  rw [hn]
  exact ⟨rfl, rfl, blank_integrity _ staged_majorities rfl, by decide +kernel, by decide +kernel⟩

theorem wit_startUp_roll : let j : FuseJournal := { source := [(160, 0)], words := [(160, 0x11111111)], boot := 1 }
    let s := (staged .rolling).mapKeeper fun k => { k with lcJournal := some j }
    s.boot.stage = .rolling ∧ s.power.nvOk = true ∧ s.keeper.lcJournal = some j := by decide +kernel

theorem wit_startUp_root : let s := (staged .sensed).mapFlt fun f => { f with rootPending := some 7 }
    s.flt.rootPending = some 7 ∧ s.boot.stage = .sensed ∧ s.power.nvOk = true ∧ s.power.pfHold = false := by decide +kernel

theorem wit_startUp_bundle : (staged .sensed).boot.stage = .sensed ∧ (staged .sensed).boot.lockdown = false ∧ (staged .sensed).flt.rootPending = none
    ∧ (staged .sensed).journalDone = true := by decide +kernel

/-- An update journal record in a stage. -/
def jnl (stage : UpdStage) (component : Nat) (digest : Bytes) : UpdJournal :=
  { stage, component, digest, svn := 1, holdHost := false, holder := .host, swapped := false, hasArea := true }

theorem wit_startUp_journal (st : UpdStage) : let s := (staged .sensed).mapUpd fun u => { u with journal := some (jnl st 1 []) }
    s.upd.journal = some (jnl st 1 []) ∧ s.boot.stage = .sensed ∧ s.journalDone = false ∧ s.power.nvOk = true :=
  ⟨rfl, rfl, rfl, rfl⟩

/-- The STAGED half matches the journal's digest. -/
theorem wit_startUp_copy : let d := Config.sha384 [1]
    let s := (staged .sensed).mapUpd fun u => { u with journal := some (jnl .activating 1 d), stagedHalf := d, stagedImg := [1] }
    s.upd.stagedHalf = d ∧ Config.sha384 s.upd.stagedImg = d ∧ (jnl .activating 1 d).stage = .activating ∧ (jnl .activating 1 d).component = 1 :=
  ⟨rfl, rfl, rfl, rfl⟩

theorem wit_firmwareStart : (staged .bundleOk).boot.stage = .bundleOk
    ∧ ((staged .firmware).boot.stage = .firmware ∧ (staged .firmware).boot.serviceReady = false)
    ∧ (let s := up.mapEnt fun e => { e with state := .starting, sampled := false }
       s.ent.running = true ∧ s.ent.sampled = false ∧ s.ent.state ≠ .halted)
    ∧ (let s := up.mapEnt fun e => { e with state := .starting, pool := 24, pairs := List.replicate 8 .healthy ++ List.replicate 8 .dropped }
       s.ent.sampled = true ∧ s.ent.state = .starting ∧ 8 ≤ s.ent.healthy ∧ 24 ≤ s.ent.pool) := by decide +kernel

theorem wit_firmwareStart_link : (let s := up.mapBoot fun b => { b with link := .down, serviceReady := false }
       s.boot.perstHigh = true ∧ s.cdRunning = true ∧ s.boot.cut = false ∧ s.boot.link = .down ∧ s.boot.serviceReady = false)
    ∧ (up.mapBoot fun b => { b with link := .training }).boot.link = .training
    ∧ (let s := up.mapBoot fun b => { b with serviceReady := false }
       s.boot.link = .up ∧ s.boot.cut = false ∧ (s.fn 0).present = true ∧ s.boot.serviceReady = false ∧ s.boot.loaderServes = false)
    ∧ (up.boot.link = .up ∧ up.boot.cut = false ∧ (up.fn 0).present = true ∧ up.boot.serviceReady = true) := by decide +kernel

/-- The VF enable takes all 64. -/
theorem wit_resets : up.boot.perstHigh = true ∧ up.boot.link = .up ∧ up.boot.cut = false ∧ (up.fn 0).present = true
    ∧ up.boot.serviceReady = true ∧ 64 ≤ up.totalVfs ∧ up.vfs = [] ∧ up.fns.length = 65 ∧ 64 < up.fns.length ∧ up.cdRunning = true
    ∧ (up.mapBoot fun b => { b with lockdown := true }).boot.lockdown = true := by decide +kernel

theorem wit_functions : (up.fn 0).present = true ∧ (up.fn 0).bme = true
    ∧ ((up.mapFn 0 fun f => { f with d3hot := true }).fn 0).d3hot = true ∧ 2047 < vecCount 0 ∧ 64 < vecCount 1 := by decide +kernel

/-- A running control queue 0. -/
def ringed : State := { up with queues := [{ Queue.atReset (.job 0 1) with state := .running, sqLog := 4, cqLog := 4 }] }

theorem wit_functions_dma : (ringed.fetches (.job 0 1) = true ∧ (QRef.job 0 1).isCtl = false)
    ∧ (let j := jobOf (entry .hash 1 0)
       (on up j).job? 0 = some j ∧ j.ended = false ∧ j.q.hasRing = true ∧ j.fn < (on up j).fns.length ∧ j.fn ≠ 255)
    ∧ ∀ w, DmaErr.timeout ≠ .internal w := by
  refine ⟨by decide +kernel, by decide +kernel, by intro w h; cases h⟩

/-- A refused size, the last bank of counters that exists, and a function in D3hot. -/
theorem wit_registers : up.boot.link = .up ∧ up.boot.cut = false ∧ up.barUp 0 = true ∧ regWrite 0 2 1 = none ∧ regWrite 6 4 1 = none
    ∧ partOf 0 2 = none ∧ pfListed (0x50 / 8 * 8) = false
    ∧ 0x3FFFFFF < 0x4000000 ∧ 3 ≤ 3 ∧ bankListed 6463 = true ∧ bankListed 6464 = false
    ∧ (let s := up.mapFn 0 fun f => { f with d3hot := true }
       (s.fn 0).present = true ∧ (s.fn 0).d3hot = true ∧ 0x3FFFFFF < s.barSize 0) := by decide +kernel

/-! ### Witnesses: the platform guard, the Sieve, the management links -/

/-- Domain 0 has a manifest on the first chip of port A; port A allows opcode c for class c; blocks 0 to 15 are PASS, 16 to 31
VERIFY, and the rest DENY. -/
def pol : Policy :=
  let d : PolicyDomain := { enabled := true, hasMf := true, pgInput := 255, after := 0, mfChip := chip0, mfBlock := 64, signer := [] }
  let port : PolicyPort := { enable := true, dummy := 8, initMode := 3, cs0 := 65536, cs1 := 0 }
  { fwrChip := chip0, fwrBase := 1024, portA := port, portB := { port with enable := false }
    domains := d :: List.replicate 7 { d with enabled := false, pgInput := 0 }
    allowA := (List.range 10).map fun i => { opcode := BitVec.ofNat 16 (i + 1), modes := 0xFF, cls := i + 1, addrBytes := 4, param := 0 }
    allowB := []
    runs := [{ chip := chip0, policy := 0, base := 0, count := 16 }, { chip := chip0, policy := 1, base := 16, count := 16 }] }

/-- A region of one block, number 16, checked against the root of a block of zeros. -/
def reg (vbr matched owes : Bool) : Region :=
  { chip := chip0, vbr, mirror := true, action := 0, base := 16, count := 1, recBase := 0, regionId := 5, root := runRoot 5 [zeros 4096],
    recRoot := [], matched, remapped := false, onRecovery := false, owes, rewritten := false }

/-- Domain 0 in a state with the digest of its manifest and one region; port A runs. -/
def guarded (st : DomState) (digest : Bytes) (r : Region) : State :=
  up.mapGuard fun g =>
    { g with policy := some pol, running := true, portA := { g.portA with running := true }
             domains := { Domain.atReset with state := st, mfDigest := digest, regions := [r] } :: List.replicate 7 Domain.atReset }

theorem wit_guardReading_port : let s := (guarded .verifying [] (reg true false false)).mapSport .a fun x => { x with running := false, starting := true }
    s.guard.policy = some pol ∧ (s.sport .a).starting = true := ⟨rfl, rfl⟩

theorem wit_guardReading_manifest : let s := guarded .verifying [] (reg true false false)
    s.guard.running = true ∧ (s.dom 0).state.checking = true ∧ (s.pdom 0).enabled = true ∧ (s.pdom 0).hasMf = true
      ∧ (s.dom 0).mfDigest = [] ∧ (s.sport (s.pdom 0).mfChip.port).running = true ∧ s.guard.dead.contains (s.pdom 0).mfChip = false
      ∧ s.turnOf (s.pdom 0).mfChip.port 0 = true ∧ s.resumeDue 0 = false ∧ (s.dom 0).state ≠ .committing :=
  ⟨rfl, rfl, rfl, rfl, rfl, rfl, rfl, rfl, rfl, by decide⟩

/-- A region whose root matches, and one that owes its recovery. -/
theorem wit_guardReading_region (owes : Bool) : let s := guarded .verifying [1] (reg true owes owes)
    s.guard.running = true ∧ (s.dom 0).state.checking = true ∧ s.region? 0 0 = some (reg true owes owes) ∧ (s.dom 0).mfDigest ≠ []
      ∧ s.readsNow 0 0 (reg true owes owes) = true ∧ s.recoverRun (reg true owes owes) = false ∧ (s.sport (reg true owes owes).chip.port).running = true
      ∧ (reg true owes owes).action = 0 ∧ [zeros 4096].length = (reg true owes owes).count
      ∧ runRoot (reg true owes owes).regionId [zeros 4096] = (reg true owes owes).root :=
  ⟨rfl, rfl, rfl, by show ([1] : Bytes) ≠ []; decide, by cases owes <;> rfl, rfl, rfl, rfl, rfl, rfl⟩

/-- A region rewritten for its recovery, which is verified against RECOVERY_ROOT; there is room to remap one. -/
theorem wit_guardReading_rewritten : let r := { reg true false false with action := 2, recRoot := runRoot 5 [zeros 4096], rewritten := true }
    let s := guarded .verifying [1] r
    s.region? 0 0 = some r ∧ s.readsNow 0 0 r = true ∧ r.owes = false ∧ r.rewritten = true ∧ s.boot.recovery = false
      ∧ (s.dom 0).useRecovery = false ∧ s.recoverRun r = false ∧ r.action ≠ 0 ∧ [zeros 4096].length = r.count
      ∧ runRoot r.regionId [zeros 4096] = r.recRoot ∧ s.roomToRemap 0 0 = true :=
  ⟨rfl, rfl, rfl, rfl, rfl, rfl, rfl, by decide, rfl, rfl, by decide +kernel⟩

theorem wit_guardReading_resume : let c : CommitJournal := { domain := 0, chip := chip0, base := 8, blocks := 4, withRecovery := false,
                                                             digest := Config.sha384 (manifestBytes (zeros 8)) }
    let s := (guarded .verifying [] (reg true false false)).mapKeeper fun k => { k with commitJnl := some c }
    s.commitRec = some c ∧ c.domain = 0 ∧ s.nvFree = true ∧ (s.pdom 0).enabled = true ∧ (s.dom 0).mfDigest = []
      ∧ (s.dom 0).state.checking = true ∧ (s.dom 0).state ≠ .committing ∧ (s.sport c.chip.port).running = true
      ∧ Config.sha384 (manifestBytes (zeros 8)) = c.digest ∧ badImage (manifestRegions (zeros 8)) [] c.withRecovery = none :=
  ⟨rfl, rfl, rfl, rfl, rfl, rfl, by decide, rfl, rfl, by decide +kernel⟩

theorem wit_guardReading_background : let r := reg false false false
    let s := guarded .released [1] r
    s.guard.running = true ∧ (s.dom 0).state = .released ∧ s.region? 0 0 = some r ∧ r.matched = false ∧ r.vbr = false
      ∧ r.rewritten = false ∧ [zeros 4096] ≠ [] ∧ [zeros 4096].length ≤ r.count ∧ (s.sport r.chip.port).running = true
      ∧ s.portHandled r.chip.port = true ∧ r.action = 0 ∧ [zeros 4096].length = r.count ∧ runRoot r.regionId [zeros 4096] = r.root :=
  ⟨rfl, rfl, rfl, rfl, rfl, rfl, by decide, by decide, rfl, rfl, rfl, rfl, rfl⟩

theorem wit_holds_release : let s := guarded .verifying [1] (reg true true false)
    0 < 8 ∧ (s.dom 0).state.checking = true ∧ s.releasable 0 = true ∧ s.reverified 0 = true := by
  exact ⟨by decide, rfl, by decide +kernel, rfl⟩

/-- The bound input of domain 1, and a released domain. -/
theorem wit_holds_inputs : let s := guarded .released [1] (reg true true false)
    s.guard.running = true ∧ (s.pdom 1).pgInput = 0 ∧ (s.dom 0).state = .released ∧ s.boot.lockdown = false := ⟨rfl, rfl, rfl, rfl⟩

/-- Each guard command, where its intake accepts it. -/
theorem wit_holds_commands : let s := guarded .released [1] (reg true true false)
    let e (op : Op) := entry op 0 0
    (∀ op, op = .guardCommit ∨ op = .guardHold ∨ op = .guardReverify ∨ op = .guardSvnAdvance →
      (on s (jobOf (e op))).runsJob 0 (jobOf (e op)) op [])
    ∧ (on s (jobOf (e .guardCommit))).stateFault (.job 0 1) (e .guardCommit) .guardCommit = none
    ∧ (on s (jobOf (e .guardHold))).stateFault (.job 0 1) (e .guardHold) .guardHold = none
    ∧ (on s (jobOf (e .guardReverify))).stateFault (.job 0 1) (e .guardReverify) .guardReverify = none
    ∧ (on s (jobOf (e .guardSvnAdvance))).stateFault (.job 0 1) (e .guardSvnAdvance) .guardSvnAdvance = none
    ∧ 0 < s.guard.domains.length ∧ s.nvFree = true ∧ s.guard.staging = none ∧ s.commitRec = none := by
  refine ⟨fun op h => ?_, ?_, ?_, ?_, ?_, by decide +kernel, rfl, rfl, rfl⟩
  · rcases h with rfl | rfl | rfl | rfl <;> exact runs_on _ _ _ _ rfl rfl
  all_goals decide +kernel

def spi (op addr : Nat) : SpiCmd := { chip := chip0, opcode := BitVec.ofNat 16 op, addr }

/-- A read that ends at its block's end, and one byte more would not. -/
theorem wit_sieve_read : let s := guarded .released [1] (reg true true false)
    let f (b : Nat) : List FlashBlock := [{ block := b, data := zeros 4096 }]
    s.portUp .a = true
    ∧ (∃ e, s.allowed (spi 1 4095) = some e ∧ e.cls = 1) ∧ 4095 % 4096 + 1 ≤ 4096
    ∧ (s.flashGiven chip0 15 1 (f 15) = true ∧ s.blockPolicy chip0 15 = .pass ∧ (s.sport .a).owed = none)
    ∧ (s.flashGiven chip0 32 1 [] = true ∧ s.blockPolicy chip0 32 = .deny)
    ∧ (s.flashGiven chip0 16 1 (f 16) = true ∧ s.blockPolicy chip0 16 = .verify ∧ (s.coverOf chip0 16).isSome = true
        ∧ ((s.mapGuard fun g => { g with mirror := [{ chip := chip0, block := 16, data := zeros 4096 }] }).guard.mirror.find?
            fun h => h.chip = chip0 && h.block = 16).isSome = true) := by
  refine ⟨rfl, ⟨_, rfl, rfl⟩, by decide, ⟨by decide +kernel, by decide +kernel, rfl⟩, by decide +kernel, by decide +kernel,
    by decide +kernel, by rfl, by decide +kernel⟩

/-- Programs and erases of PASS blocks and of others; the other classes; a denied opcode. -/
theorem wit_sieve_write : let s := guarded .released [1] (reg true true false)
    (∀ c, c < 10 → ∃ e, s.allowed (spi (c + 1) 0) = some e ∧ e.cls = c + 1)
    ∧ (s.allPass chip0 15 ((15 * 4096 + 4096 + 4095) / 4096 - 15) = true ∧ s.allPass chip0 15 ((15 * 4096 + 4097 + 4095) / 4096 - 15) = false)
    ∧ (s.allPass chip0 (15 / eraseBlocks 0 * eraseBlocks 0) (eraseBlocks 0) = true ∧ s.allPass chip0 (16 / eraseBlocks 0 * eraseBlocks 0) (eraseBlocks 0) = false)
    ∧ ((s.mapSport .a fun x => { x with sfdp := [(chip0, [1])] }).sport .a).sfdp.lookup chip0 = some [1]
    ∧ s.allowed (spi 11 0) = none ∧ s.guard.policy = some pol := by
  refine ⟨?_, by decide +kernel, by decide +kernel, rfl, rfl, rfl⟩
  intro c h
  match c, h with
  | 0, _ | 1, _ | 2, _ | 3, _ | 4, _ | 5, _ | 6, _ | 7, _ | 8, _ | 9, _ => exact ⟨_, rfl, rfl⟩

/-- An owed block whose bytes are all there with the last one, and a block that awaits its refetch. -/
theorem wit_sieve_owed : let o : Owed := { chip := chip0, block := 16, seen := zeros 4095 }
    let s := ((guarded .released [1] (reg true true false)).mapSport .a fun x => { x with owed := some o }).mapGuard fun g =>
      { g with lost := [(chip0, 16)] }
    (s.sport .a).owed = some o ∧ o.seen.length + [(0 : BitVec 8)].length = 4096 ∧ s.guard.lost.contains (chip0, 16) = true :=
  ⟨rfl, by decide +kernel, by decide +kernel⟩

/-- The I3C bus runs in I3C mode: the target holds a dynamic address. -/
def addressed : State := up.mapMgmt fun m => { m with dynAddr := some 9 }

/-- An SPDM connection and session in a stage; certificate slot 0 is written and a response is waiting. -/
def spdmAt (c : SpdmConn) (x : SpdmSession) : State :=
  (up.mapKeeper fun k => { k with cert0 := [1] }).mapMgmt fun m =>
    { m with conn := c, spdm := x, reply := [2], chunk := [], dynAddr := some 9, secOn := .i3c }

theorem wit_spdm : (∀ c x, (spdmAt c x).spdmUp { binding := .i3c, secured := decide (x ≠ .none) } = true ∧ (spdmAt c x).mgmt.conn = c ∧ (spdmAt c x).mgmt.spdm = x
      ∧ (spdmAt c x).ent.state = .ready ∧ (spdmAt c x).mgmt.reply ≠ [] ∧ (spdmAt c x).slotHere 0 = true
      ∧ 1 ≤ ((spdmAt c x).chainOf 0).length ∧ (spdmAt c x).mgmt.chunk.length + 69632 ≤ 69632)
    ∧ (spdmAt .none .none).slotHere 1 = false := by
  refine ⟨fun c x => ?_, by decide +kernel⟩
  cases c <;> cases x <;> decide +kernel

/-- The pointer's ends 0x80 and 0xBF; no dynamic address yet, and one assigned. -/
theorem wit_i3c : up.power.vinValid = true ∧ addressed.i3cMode = true ∧ 0x80#8 ≤ 0x80#8 ∧ 0xBF#8 ≤ 0xBF#8 ∧ up.mgmt.dynAddr = none := by decide

/-- Both bindings; the first and the last endpoint numbers; a type that is served and one that is not. -/
theorem wit_mctp : addressed.mctpUp .i3c = true ∧ up.mctpUp .vdm = true ∧ (1 : BitVec 8) ≠ 0 ∧ (0xFE : BitVec 8) ≠ 0xFF
    ∧ mctpTypes.contains 0x7E = true ∧ mctpTypes.contains 0x02 = false := by decide +kernel

/-- An EVENT_LOG_READ over the management link, with its session closed and open. -/
theorem wit_mctp_control (o : Bool) : let s := addressed.mapMgmt fun m => { m with session := { m.session with isOpen := o }, spdm := .established, secOn := .i3c }
    let ch : Channel := { binding := .i3c, secured := true }
    let e : Bytes := [BitVec.ofNat 8 (opCode .eventLogRead % 256), BitVec.ofNat 8 (opCode .eventLogRead / 256)] ++ zeros 62
    s.msgUp ch.binding = true ∧ s.hears ch = true ∧ s.boot.lockdown = false ∧ e.length = 64 ∧ ([] : Bytes).length = (Entry.ofBytes e).inLen.toNat
      ∧ s.inSession ch = o ∧ s.malformedKind .mgmt (Entry.ofBytes e) = none := by
  cases o <;> decide +kernel

/-- A nonce and a KEY credential whose context has a bad handle, over an established session: the proof fails with a status that
is none of those the statement sets apart. -/
theorem wit_mctp_proof :
    let s0 := (spdmAt .negotiated .established).mapSession 255 fun x => { x with nonce := some (zeros 32, 0) }
    let s := s0.mapKeeper fun k => { k with creds := [(255, { mode := 1, ctx := 16, tag := [], idleS := 0 })] }
    let ch : Channel := { binding := .i3c, secured := true }
    s.msgUp ch.binding = true ∧ s.hears ch = true ∧ ch.secured = true ∧ s.mgmt.spdm = .established ∧ s.ent.state = .ready ∧ s.methodOk 255 1 = true ∧ s.lockLeft 255 = 0
      ∧ s.nonceOf 255 = some (zeros 32) ∧ (s.judge 255 1 (zeros 32) []).1 ≠ st.ok ∧ (s.judge 255 1 (zeros 32) []).1 ≠ st.notAuthorised
      ∧ (s.judge 255 1 (zeros 32) []).1 ≠ st.stateRefused := by decide +kernel

/-- A passphrase proof of the management link that is the credential's own. -/
theorem wit_mctp_passes : let s := up.mapKeeper fun k => { k with creds := [(255, { mode := 2, ctx := 0, tag := up.passTag [1] 255, idleS := 0 })] }
    s.methodOk 255 2 = true ∧ (s.judge 255 2 (zeros 32) [1]).1 = st.ok := by
  intro s
  have h1 : s.imageRootOk = true := by decide +kernel
  have h2 : s.passTag [1] 255 = (s.keeper.cred 255).tag := rfl
  refine ⟨rfl, ?_⟩
  simp [State.judge, h1]
  exact fun h => absurd h2 h

/-- An update that the management link holds, with a header of LENGTH 8192 and its first 4 KiB piece staged or not. -/
def pldmAt (stage : UpdStage) (image : Sparse Bytes) : State :=
  (addressed.mapMgmt fun m =>
    { m with session := { m.session with isOpen := true }, comp := 1, block := 4096, spdm := .established, secOn := .i3c }).mapUpd fun u =>
    { u with stage, holder := .mgmt, component := 1, header := zeros 20 ++ [0, 0x20] ++ zeros 2, image }

theorem wit_pldm : (pldmAt .idle []).pldmUp .i3c = true ∧ (pldmAt .idle []).hears { binding := .i3c, secured := true } = true
    ∧ up.pldmUp .vdm = true ∧ up.hears { binding := .vdm, secured := false } = true ∧ up.lockHeld = false
    ∧ (pldmAt .idle []).inSession { binding := .i3c, secured := true } = true ∧ (pldmAt .idle []).mgmtHolds = true ∧ (pldmAt .idle []).upd.stage = .idle
    ∧ (pldmAt .idle []).componentOk 1 = true ∧ (pldmAt .idle []).store.taking = .nobody
    ∧ (pldmAt .verified []).canActivate = true ∧ (pldmAt .downloading []).updateOpen = true := by decide +kernel

/-- The first of two pieces leaves a gap; the second ends the image. -/
theorem wit_pldm_blocks :
    (let s := pldmAt .downloading []
     s.upd.blockFits 0 4096 = true ∧ (s.stageBlock 0 (ones 4096)).map (fun u => u.upd.firstGap.isSome) = some true)
    ∧ (let s := pldmAt .downloading [(0, ones 4096)]
       s.upd.blockFits 4096 4096 = true ∧ (s.stageBlock 4096 (ones 4096)).map (fun u => u.upd.firstGap) = some none) := by
  decide +kernel

/-! ### Witnesses: rings, queues, the Hopper -/

/-- The PF's job queue 1, of 16 entries, in a state; `f` sets it up further. -/
def queued (st : QState) (f : Queue → Queue) : State :=
  { up with queues := [f { Queue.atReset (.job 0 1) with state := st, sqLog := 4, cqLog := 4, expPhase := true }] }

/-- A report at the last head of the ring, one past it, and one that counts more than was completed. -/
theorem wit_rings_doorbells : let r := QRef.job 0 1
    let s := queued .running fun q => { q with cnt := { q.cnt with completed := 15 } }
    let q := s.queue r
    s.regsUp r = true ∧ q.state = .running ∧ q.state ≠ .absent
    ∧ (up.regsUp r = true ∧ (up.queue r).state = .absent)
    ∧ (15 < q.m ∧ (q.reportPos 15 true + 2 * q.m - q.cqReport) % (2 * q.m) ≤ (q.cnt.completed - q.cnt.consumed).toNat)
    ∧ q.m ≤ 16 ∧ r.isCtl = false
    ∧ (q.cnt.completed - q.cnt.consumed).toNat < (q.reportPos 0 false + 2 * q.m - q.cqReport) % (2 * q.m) := by decide +kernel

theorem wit_rings_control : up.regsUp (.ctl 0) = true ∧ QRef.isJob (.ctl 0) = false ∧ (up.queue (.ctl 0)).state = .absent
    ∧ (let s := { up with queues := [{ Queue.atReset (.admin 0) with state := .error, errKind := 4, sqLog := 4, cqLog := 4 }] }
       s.regsUp (.admin 0) = true ∧ QRef.isJob (.admin 0) = false ∧ (s.queue (.admin 0)).state = .error
         ∧ (s.queue (.admin 0)).errKind = 4) := by decide +kernel

/-- Index mode with the last tail of the ring, and ring mode with an entry of the expected phase. -/
theorem wit_rings_fetch :
    (let s := queued .running fun q => { q with index := true, ringPend := true }
     let q := s.queue (.job 0 1)
     s.fetches (.job 0 1) = true ∧ q.index = true ∧ q.ringPend = true ∧ (15 : BitVec 32).toNat < q.n)
    ∧ (let s := queued .running id
       let q := s.queue (.job 0 1)
       let b : Bytes := [BitVec.ofNat 8 (opCode .hash % 256), BitVec.ofNat 8 (opCode .hash / 256), 0, 1] ++ zeros 60
       s.fetches (.job 0 1) = true ∧ q.index = false ∧ q.wants = true ∧ b.length = 64
         ∧ (Entry.ofBytes b).phase.getLsbD 0 = q.expPhase ∧ s.malformedKind (.job 0 1) (Entry.ofBytes b) = none ∧ 1 ≤ s.fetchLen q) := by decide +kernel

theorem wit_rings_ends : (let q := (queued .running fun q => { q with unsignalled := 1, modTime := 1 }).queue (.job 0 1)
      q.state ≠ .absent ∧ 0 < q.unsignalled ∧ q.modTime ≠ 0)
    ∧ (let s := { on up { jobOf (entry .queueDestroy 0 0) with phase := .barrier } with
          queues := [{ Queue.atReset (.job 0 1) with state := .draining, drainJob := some 0 }] }
       (s.queue (.job 0 1)).state = .draining ∧ (s.queue (.job 0 1)).inFlight = 0 ∧ (s.queue (.job 0 1)).drainJob = some 0
         ∧ (s.job? 0).map Job.phase = some .barrier) := by decide +kernel

/-- A job of the PF's admin queue. -/
def adminJob (e : Entry) : Job := newJob 0 (.admin 0) { entry := e, index := 0, aborted := false, stamp := 0, input := [], viaVdm := false }

/-- A job of the PF's job queue 1 of another number, with a CMD_ID. -/
def other (phase : JobPhase) : Job := { jobOf { entry .hash 1 0 with cmdId := 9 } with id := 1, phase }

/-- QUEUE_CREATE of queue 1 with all 192 shares, the destroy and the restart of one, and IDENTIFY. -/
theorem wit_queueCommands :
    (let e := entry .queueCreate (2 ^ 64 + 192 * 2 ^ 112) 0
     let s := { up with jobs := [adminJob e] }
     s.runsJob 0 (adminJob e) .queueCreate [] ∧ e.p 14 1 = 192 ∧ 192 ≤ s.shareFree ∧ (s.queue (adminJob e).named).state = .absent
       ∧ s.jobQueues.length < 4096)
    ∧ (let e := entry .queueDestroy (2 ^ 64 + 2 ^ 80) 0
       let s := { queued .running id with jobs := [adminJob e] }
       s.runsJob 0 (adminJob e) .queueDestroy [] ∧ (adminJob e).q.isAdmin = true ∧ (s.queue (adminJob e).named).state = .running
         ∧ (∀ x, x ∈ s.jobs → x.q = (adminJob e).named → x.id ≠ 0) ∧ e.p 10 1 = 1)
    ∧ (let e := entry .queueRestart (2 ^ 64 + 2 ^ 80) 0
       let s := { queued .error (fun q => { q with errKind := 5 }) with jobs := [adminJob e] }
       s.runsJob 0 (adminJob e) .queueRestart [] ∧ (s.queue (adminJob e).named).state = .error ∧ e.p 10 1 = 1
         ∧ (s.queue (adminJob e).named).errKind = 5)
    ∧ (let e := entry .identify 0 0
       { up with jobs := [adminJob e] }.runsJob 0 (adminJob e) .identify []) := by decide +kernel

/-- ABORT: no queue named, an entry that waits, and a job that runs. -/
theorem wit_abort : (let e := entry .abort 0 0
      { up with jobs := [adminJob e] }.runsJob 0 (adminJob e) .abort [] ∧ e.p 0 2 = 0)
    ∧ (let e := entry .abort (1 + 9 * 65536) 0
       let i : Intake := { entry := (other .running).entry, index := 0, aborted := false, stamp := 0, input := [], viaVdm := false }
       let s := { queued .running (fun q => { q with intake := [i] }) with jobs := [adminJob e] }
       s.runsJob 0 (adminJob e) .abort [] ∧ e.p 0 2 ≠ 0 ∧ (s.queue (.job 0 1)).state ≠ .absent
         ∧ (s.queue (.job 0 1)).intake.any (fun i => i.entry.cmdId = BitVec.ofNat 16 (e.p 2 2)) = true)
    ∧ (let e := entry .abort (1 + 9 * 65536) 0
       let s := { queued .running id with jobs := [adminJob e, other .running] }
       s.runsJob 0 (adminJob e) .abort [] ∧ e.p 0 2 ≠ 0 ∧ (s.queue (.job 0 1)).state ≠ .absent
         ∧ (s.queue (.job 0 1)).intake.any (fun i => i.entry.cmdId = BitVec.ofNat 16 (e.p 2 2)) = false
         ∧ s.jobs.find? (fun k => k.q = .job 0 1 && k.entry.cmdId = BitVec.ofNat 16 (e.p 2 2)) = some (other .running)
         ∧ (other .running).phase = .running ∧ (other .running).id ≠ 0) := by decide +kernel

/-- A HASH entry in the intake of queue 1, which the hash class chooses. -/
def waitingEntry (e : Entry) (aborted : Bool) : State :=
  queued .running fun q => { q with weight := 1, intake := [{ entry := e, index := 0, aborted, stamp := 0, input := [], viaVdm := false }] }

theorem wit_hopper_dispatch (aborted : Bool) : let s := waitingEntry (entry .hash 1 0) aborted
    s.dispatching = true ∧ s.resumers .hash = [] ∧ ((s.noteChoice .hash).choose .hash).1 = some (.job 0 1)
      ∧ ((s.noteChoice .hash).choose .hash).2.taskReady .hash (((s.noteChoice .hash).choose .hash).2.queue (.job 0 1)) = false
      ∧ ((((s.noteChoice .hash).choose .hash).2.queue (.job 0 1)).next).isSome = true
      ∧ s.job? s.nextJob = none := by cases aborted <;> decide +kernel

/-- A key generation with a subtree task to dispatch, and an idle hash group. -/
theorem wit_hopper_task : let k := { jobOf (entry .lmsKeygen 0x0407 0) with tasks := some 1 }
    let s := { (queued .running fun q => { q with weight := 1 }) with jobs := [k] }
    let s3 := ((s.noteChoice .hash).choose .hash).2
    s.dispatching = true ∧ s.resumers .hash = [] ∧ ((s.noteChoice .hash).choose .hash).1 = some (.job 0 1)
      ∧ s3.taskReady .hash (s3.queue (.job 0 1)) = true ∧ s3.taskJob (.job 0 1) = some k ∧ s3.job? 0 = some k ∧ k.tasks = some (0 + 1)
      ∧ ((s3.unitsUp .hash).find? fun u => !s3.unitBusy .hash u) = some 0 := by decide +kernel

/-- What intake answers: an accepted entry, whose key is no lost root's, and one whose opcode is not defined. -/
theorem wit_hopper_intake : let s := up.mapSession 0 fun x => { x with isOpen := true }
    (match s.intake (.job 0 1) { entry .hash 1 0 with outLen := 32, outAddr := 4096 } [] [] with
      | .accepted _ c1 c2 _ _ => !up.lostRoot c1 && !up.lostRoot c2 | _ => false) = true
    ∧ s.intake (.job 0 1) { entry .hash 1 0 with opcode := 0x02FF } [] [] = .ended st.badOpcode 0 := by decide +kernel

theorem wit_hopper_window : up.cdRunning = true
    ∧ (let s := { up with sched := { up.sched with step := 99 } }
       (∃ t, exec .engineWindowAdvance s = .next t) ∧ (s.sched.step + 1) % windowSteps = 0)
    ∧ (let s := (queued .running id).mapArb .hash fun a => { a with due := some { hit := [.job 0 1], guardOnly := false } }
       (s.sched.arb .hash).due = some { hit := [.job 0 1], guardOnly := false } ∧ [QRef.job 0 1].contains (.job 0 1) = true) :=
  ⟨by decide +kernel, ⟨⟨_, rfl⟩, by decide +kernel⟩, by decide +kernel⟩

/-- The test of a window in which CTLQ0 used the class finds a queue that was eligible throughout and below its share. -/
theorem test_shareTest : let s := (queued .running fun q => { q with minShare := 128 }).mapArb .hash fun a =>
      { a with always := some [.job 0 1], ctl0Used := true, ctl0Guard := false }
    s.shareTest .hash = { hit := [.job 0 1], guardOnly := false } := by decide +kernel

/-- A running job with and without an order to stop, one that gave up its unit, and one in the entropy wait. -/
theorem wit_hopper_jobs : (let j := { jobOf (entry .hash 1 0) with stop := some st.abortedHost }
      (on up j).job? 0 = some j ∧ j.phase = .running ∧ j.stop = some st.abortedHost)
    ∧ (let s := on (up.mapPower fun p => { p with pfHold := true }) (jobOf (entry .hash 1 0))
       (jobOf (entry .hash 1 0)).stop = none ∧ s.power.pfHold = true)
    ∧ (let j := { jobOf (entry .hash 1 0) with phase := .yielded }
       let s := on up j
       s.job? 0 = some j ∧ s.resumable j = true ∧ (s.sched.arb j.cls).gave.contains 0 = false ∧ (s.resumers j.cls).head?.map Job.id = some 0)
    ∧ (let j := { jobOf (entry .hash 1 0) with phase := .waitEntropy }
       j.phase = .waitEntropy ∧ (on up j).ent.state = .ready
         ∧ ((on up j).mapEnt fun e => { e with state := .starting }).ent.state ≠ .ready) := by decide +kernel

theorem wit_jobCompletion : let e : Ending := { status := st.ok, result := 5, out := [], cycles := 1 }
    let j := { jobOf (entry .hash 1 0) with phase := .ended, ending := some e }
    let s := on (queued .running id) j
    s.job? 0 = some j ∧ j.phase = .ended ∧ j.heldCpl = false ∧ j.ending = some e ∧ j.q.hasRing = true ∧ s.dmaUp j.fn = true
      ∧ e.status ≠ st.engineFault ∧ (s.faultOf j).1 ≠ 13 := by
  decide +kernel

/-! ### Witnesses: roots, the operand store, control commands, fuses, life cycle -/

/-- ROOT_IMPORT and ROOT_GENERATE at index 16 into the entry they name, and into the lowest free one. -/
theorem wit_roots : (∀ k, k = 65535 ∨ k = 65534 → let e := entry .rootImport (16 + k * 2 ^ 32) 32
      Goes up e .rootImport (zeros 32) ∧ (up.keys.record 16).state = .free ∧ (up.entryFor (e.p 4 2)).isSome = true)
    ∧ Goes up (entry .rootGenerate 16 0) .rootGenerate [] := by
  refine ⟨fun k h => ?_, goes rfl rfl rfl⟩
  rcases h with rfl | rfl <;> exact ⟨goes rfl rfl (by decide +kernel), rfl, by decide +kernel⟩

/-- ROOT_SPOIL of the root at index 16 with nothing in flight under it and with a job in flight, its GEN one below the last. -/
theorem wit_roots_spoil (n : Nat) (hn : n = 0 ∨ n = 1) : let e := { entry .rootSpoil 0 0 with ctx := BitVec.ofNat 32 (16 + 4094 % 2048 * 2 ^ 21) }
    let s := rooted.mapKeys fun k => { k with inflight := if n = 0 then [] else [(16, n)]
                                              ctx := [(16, { parent := 0, gen := 4094, pgen := 0, type := 1, policy := 0, label := 0, state := .live })] }
    (on s (jobOf e)).runsJob 0 (jobOf e) .rootSpoil [] ∧ s.nvFree = true ∧ (s.chainCheck e.ctx 0).1 = st.ok
      ∧ s.keeper.revJournal.length < 4096 ∧ s.keys.flights (handleIndex e.ctx) = n ∧ (s.keys.record 16).gen + 1 = 4095 := by
  rcases hn with rfl | rfl <;> exact ⟨runs_on _ _ _ _ rfl rfl, by decide +kernel⟩

/-- A band of 1 slot of 4 KiB, and one of no slots; the last slot of the shipped geometry. -/
theorem wit_store : (∀ c : BitVec 8, let e := entry .opstoreConfig 1 4
      (on up (jobOf e)).runsJob 0 (jobOf e) .opstoreConfig [c, 0, 12, 0])
    ∧ (up.anyHold = false ∧ up.store.lent = false ∧ up.power.nvOk = true)
    ∧ geometryFault ((List.range 1).map (cfgBand [1, 0, 12, 0])) = none
    ∧ geometryFault ((List.range 1).map (cfgBand [0, 0, 12, 0])) = some (0, 1)
    ∧ (let e := entry .slotGrant (4095 + 65536 + 64 * 2 ^ 32) 0
       (on up (jobOf e)).runsJob 0 (jobOf e) .slotGrant [] ∧ e.p 0 2 + e.p 2 2 = up.store.count ∧ up.store.count = 4096
         ∧ (on up (jobOf e)).slotHolds 4095 = []) :=
  ⟨fun _ => runs_on _ _ _ _ rfl rfl, by decide +kernel, by decide +kernel, by decide +kernel, runs_on _ _ _ _ rfl rfl, by decide +kernel⟩

theorem wit_control_counters : let e := entry .counterReestablish (5 + 1 * 2 ^ 64 + 8192 * 2 ^ 80) 0
    (on up (jobOf e)).runsJob 0 (jobOf e) .counterReestablish [] ∧ up.nvFree = true ∧ (∀ r, r ∈ up.keeper.slog → r.sepoch < e.p 8 2)
      ∧ up.keeper.slog.length + e.p 10 2 ≤ 8192 := ⟨runs_on _ _ _ _ rfl rfl, rfl, (fun _ h => by cases h), by decide +kernel⟩

/-- TIME_SET at once and at an edge; one that waits, alone and absent at an edge. -/
theorem wit_control_time : (∀ f : BitVec 8, let e := { entry .timeSet 9 0 with flags := f }
      (on up (jobOf e)).runsJob 0 (jobOf e) .timeSet [])
    ∧ (entry .timeSet 9 0).flag 2 = false ∧ Entry.flag { entry .timeSet 9 0 with flags := 4 } 2 = true
    ∧ (let j := { jobOf { entry .timeSet 9 0 with flags := 4 } with phase := .barrier }
       (on up j).job? 0 = some j ∧ j.awaitsPps = true ∧ (on up j).jobs.filter Job.awaitsPps = [j] ∧ up.power.vinValid = true)
    ∧ ((up.mapBoot fun b => { b with timeValid := true }).boot.timeValid = true ∧ up.jobs.filter Job.awaitsPps = []) :=
  ⟨fun _ => runs_on _ _ _ _ rfl rfl, by decide +kernel⟩

theorem wit_control_log : (on up (jobOf (entry .eventLogRead 0 0))).runsJob 0 (jobOf (entry .eventLogRead 0 0)) .eventLogRead [] := runs _ _

/-- SPOIL_NOW without and with the root disable, with NV_OK set and clear. -/
theorem wit_control_spoil : (∀ f : BitVec 8, let e := { entry .spoilNow 0 0 with flags := f }
      (on up (jobOf e)).runsJob 0 (jobOf e) .spoilNow [])
    ∧ Entry.flag { entry .spoilNow 0 0 with flags := 4 } 2 = true ∧ up.power.nvOk = true ∧ up.nvFree = true
    ∧ (up.mapPower fun p => { p with nvOk := false }).power.nvOk = false := ⟨fun _ => runs_on _ _ _ _ rfl rfl, by decide +kernel⟩

theorem wit_control_tap : (let s := up.mapFuses fun f => { f with lc := .testUnlocked }
      s.rights.getLsbD 0 = true ∧ ∀ f, s.rights.getLsbD (tapRight f) = true)
    ∧ (let s := up.mapBoot fun b => { b with mode := .mfgPort, stage := .loader }
       s.mfgServes = true ∧ s.mfgBusy = false ∧ (zeros 64).length = 64 ∧ (zeros 256).length ≤ 256)
    ∧ (up.mapFlt fun f => { f with mfgReply := [1] }).flt.mfgReply ≠ [] := by
  refine ⟨⟨by decide +kernel, fun f => by cases f <;> decide +kernel⟩, by decide +kernel, by decide⟩

/-- The last two words of region 6 in TEST_LOCKED; one of them senses wrongly, or none does. -/
theorem wit_fuses_program : let e := entry .fuseProgram (334 + 2 * 65536) 8
    let s := up.mapFuses fun f => { f with lc := .testLocked }
    let words := (List.range (e.p 2 2)).map fun i => (e.p 0 2 + i, BitVec.ofNat 32 (leNat (slice (ones 8) (4 * i) 4)))
    (on s (jobOf e)).runsJob 0 (jobOf e) .fuseProgram (ones 8) ∧ s.nvFree = true ∧ e.flag 2 = false ∧ (∀ p, p ∈ words → p.2 ≠ 0)
      ∧ s.firstFault (words.map Prod.fst) = none ∧ 335 ∈ words.map Prod.fst ∧ 336 ∉ words.map Prod.fst :=
  ⟨runs_on _ _ _ _ rfl (by decide +kernel), by decide +kernel⟩

/-- GENERATE for the first and the last root region. -/
theorem wit_fuses_generate (r : Nat) (h : r = 3 ∨ r = 6) : let e := { entry .fuseProgram (regionFirst r) 0 with flags := 4 }
    Goes up e .fuseProgram [] ∧ e.flag 2 = true ∧ regionOf (e.p 0 2) = r ∧ e.p 0 2 = regionFirst r
      ∧ up.invalidIn ((lockWords r 3).map Prod.fst) = none
      ∧ ∀ w, w ∈ (List.range (regionSize r)).map (e.p 0 2 + ·) → up.generateFault r w = none := by
  rcases h with rfl | rfl <;> exact ⟨goes rfl rfl rfl, by decide +kernel⟩

/-- FUSE_LOCK of both bits of region 1, and of the owner block. -/
theorem wit_fuses_lock (g : Nat) (h : g = 1 ∨ g = 8) : let e := { entry .fuseLock (g + 3 * 256) 0 with flags := 4 }
    (on up (jobOf e)).runsJob 0 (jobOf e) .fuseLock [] ∧ up.nvFree = true ∧ e.flag 2 = true ∧ e.p 0 1 = g
      ∧ up.fuses.word (blockDigestWord 8 up.fuses.epoch) = 0 ∧ up.invalidIn (up.lockTouches g (e.p 1 1)) = none := by
  rcases h with rfl | rfl <;> exact ⟨runs_on _ _ _ _ rfl rfl, by decide +kernel⟩

theorem wit_lifeCycle : up.nvFree = true
    ∧ (let e := entry .lcTransition 1 0
       (on up (jobOf e)).runsJob 0 (jobOf e) .lcTransition [] ∧ lcOfNum (e.p 0 1) ≠ .rma
        ∧ up.invalidIn ((tripWords (up.lcWrites (lcOfNum (e.p 0 1)))).map Prod.fst) = none)
    ∧ (on up (jobOf (entry .ownerTransfer 0 0))).runsJob 0 (jobOf (entry .ownerTransfer 0 0)) .ownerTransfer []
    ∧ up.invalidIn ((tripWords [(168 + up.fuses.epoch, epochData), (338 + up.fuses.epoch, rootDisableData)]).map Prod.fst) = none
    ∧ (on up (jobOf (entry .debugNonce 0 0))).runsJob 0 (jobOf (entry .debugNonce 0 0)) .debugNonce []
    ∧ (let e := entry .debugCert 0 8
       (on up (jobOf e)).runsJob 0 (jobOf e) .debugCert (zeros 8) ∧ up.certFault false (zeros 8) = some (st.decodeFail, 0)) :=
  ⟨rfl, ⟨runs_on _ _ _ _ rfl rfl, by decide +kernel⟩, runs_on _ _ _ _ rfl rfl, by decide +kernel, runs_on _ _ _ _ rfl rfl,
    runs_on _ _ _ _ rfl (by decide +kernel), by decide +kernel⟩

/-! ### Witnesses: firmware update -/

/-- The update in a stage of a component, from the host. -/
def updAt (stage : UpdStage) (component : Nat) : State :=
  up.mapUpd fun u => { u with stage, holder := .host, component, header := zeros 20 ++ [0, 0x20] ++ zeros 2, selftestOk := true }

theorem wit_update_job (op : Op) (st : UpdStage) : (on (updAt st 1) (jobOf (entry op 0 0))).runsJob 0 (jobOf (entry op 0 0)) op [] :=
  runs_on _ _ _ _ rfl rfl

theorem wit_update : (let e := entry .updateBegin 0 4096
      (on up (jobOf e)).runsJob 0 (jobOf e) .updateBegin (zeros 4096) ∧ up.lockHeld = false ∧ (up.beginFault 0 (zeros 4096)).isSome = true)
    ∧ (let e := entry .updateBlock 0 4096
       let s := updAt .downloading 1
       (on s (jobOf e)).runsJob 0 (jobOf e) .updateBlock (ones 4096) ∧ s.upd.stage = .downloading ∧ (s.stageBlock (e.p 0 4) (ones 4096)).isSome = true
         ∧ ((s.mapUpd fun u => { u with image := [(0, [1])] }).stageBlock (e.p 0 4) (ones 4096)).isNone = true)
    ∧ ((updAt .verified 1).canActivate = true ∧ (updAt .verified 1).upd.actJob = none ∧ (entry .updateActivate 0 0).p 0 8 = 0)
    ∧ ((entry .updateActivate 1 0).p 0 8 ≠ 0 ∧ ((updAt .verified 1).mapBoot fun b => { b with timeValid := true }).boot.timeValid = true)
    ∧ (updAt .unconfirmed 1).upd.selftestOk = true
    ∧ ((updAt .downloading 1).updateOpen = true ∧ (updAt .scheduled 1).updateOpen = true)
    ∧ (let s := (on up (jobOf (entry .updateBegin 0 4096))).mapStore fun o => { o with taking := .job 0 }
       (s.job? 0).isSome = true ∧ s.store.taking = .job 0) :=
  ⟨⟨runs_on _ _ _ _ rfl (by decide +kernel), by decide +kernel⟩, ⟨runs_on _ _ _ _ rfl (by decide +kernel), by decide +kernel⟩, by decide +kernel⟩

theorem wit_activation_lock : (updAt .downloading 1).upd.stage = .downloading ∧ (updAt .verified 1).upd.stage = .verified
    ∧ (updAt .verified 1).upd.waitFrom = none
    ∧ (let s := updAt .scheduled 1
       s.upd.stage = .scheduled ∧ s.upd.atPps = false ∧ secs s.upd.activeAt ≤ s.platformTime)
    ∧ (let s := (updAt .scheduled 1).mapUpd fun u => { u with atPps := true, timeOff := secs 1 }
       s.upd.atPps = true ∧ s.upd.waitFrom = none ∧ secs (s.upd.activeAt + 1) ≤ s.platformTime)
    ∧ (let s := ((updAt .scheduled 1).mapUpd fun u => { u with waitFrom := some 0 }).mapPower fun p => { p with nvOk := false }
       s.upd.stage = .scheduled ∧ s.upd.waitFrom.isSome = true ∧ s.canActivate = false)
    ∧ (let s := (updAt .scheduled 1).mapUpd fun u => { u with waitFrom := some 0 }
       s.upd.waitFrom.isSome = true ∧ s.upd.stage = .scheduled ∧ s.canActivate = true ∧ s.store.taking = .nobody) := by decide +kernel

theorem wit_activation_run : ((updAt .activating 1).upd.stage = .activating ∧ (updAt .activating 1).upd.component = 1
      ∧ (updAt .activating 1).upd.drained = false)
    ∧ (let s := (updAt .activating 1).mapUpd fun u => { u with drained := true, journal := some (jnl .activating 1 []) }
       s.upd.journal = some (jnl .activating 1 []) ∧ s.upd.drained = true ∧ s.nvFree = true ∧ s.boot.lockdown = false)
    ∧ ((updAt .activating 2).upd.component = 2 ∧ ∀ j, j ∈ (updAt .activating 2).jobs → j.group = 0x0D → j.ended = true)
    ∧ (updAt .activating 3).upd.component = 3 ∧ up.fwRunning = true ∧ up.upd.stage ≠ .unconfirmed
    ∧ (updAt .unconfirmed 1).upd.stage = .unconfirmed
    ∧ (let s := (updAt .confirming 2).mapUpd fun u => { u with journal := some (jnl .confirming 2 []) }
       s.upd.stage = .confirming ∧ s.upd.journal = some (jnl .confirming 2 []) ∧ s.power.nvOk = true ∧ s.nvFree = true)
    ∧ ((updAt .restoring 1).upd.stage = .restoring ∧ (updAt .restoring 1).fwRunning = true ∧ (updAt .restoring 1).nvFree = true
      ∧ (updAt .restoring 1).boot.lockdown = false ∧ (updAt .restoring 1).store.taking = .nobody) := by
  refine ⟨by decide +kernel, by decide +kernel, ⟨rfl, by intro j h; cases h⟩, by decide +kernel⟩

/-! ### Witnesses: contexts, images, migration -/

/-- CTX_CREATE below the root at index 16: at the lowest free index and at one it names. -/
theorem wit_contexts_create (i : Nat) (h : i = 0 ∨ i = 1048575) : let e := { entry .ctxCreate i 0 with ctx := 16 }
    let s := rooted
    (on s { jobOf e with crec := s.keys.record 16, chain := [16] }).job? 0 = some { jobOf e with crec := s.keys.record 16, chain := [16] }
      ∧ Job.childRefused { jobOf e with crec := s.keys.record 16, chain := [16] } = false
      ∧ Job.childStray { jobOf e with crec := s.keys.record 16, chain := [16] } = false
      ∧ (if e.p 0 4 = 0 then s.lowestFree else some (e.p 0 4)) = some (if i = 0 then 17 else i)
      ∧ (s.keys.record (if i = 0 then 17 else i)).state = .free := by
  rcases h with rfl | rfl <;> decide +kernel

theorem wit_contexts_ops (op : Op) : let e := { entry op 16 0 with ctx := 16 }
    (on rooted (jobOf e)).runsJob 0 (jobOf e) op [] ∧ rooted.nvFree = true ∧ (rooted.chainCheck e.ctx 0).1 = st.ok
      ∧ rooted.keeper.revJournal.length < 4096 ∧ rooted.keys.flights (handleIndex e.ctx) = 0 :=
  ⟨runs_on _ _ _ _ rfl rfl, rfl, show (rooted.chainCheck 16 0).1 = st.ok by decide +kernel, by decide +kernel,
    show rooted.keys.flights (handleIndex 16) = 0 by decide +kernel⟩

/-- A barrier whose last job in flight has ended; a sweep that finds a context whose ancestor is gone, and one that stays. -/
theorem wit_contexts_barrier : (let n : Ending := { status := st.ok, result := 1, out := [], cycles := 0 }
      let j := { jobOf { entry .invalidate 0 0 with ctx := 16 } with phase := .barrier, ending := some n }
      (on rooted j).job? 0 = some j ∧ j.phase = .barrier ∧ j.ending = some n ∧ rooted.keys.flights (handleIndex j.entry.ctx) = 0)
    ∧ (let s := rooted.mapKeys fun k => { k with ctx := k.ctx ++ [(17, { parent := 99, gen := 0, pgen := 0, type := 1, policy := 0, label := 0, state := .live })] }
       s.sweepable 17 = true ∧ s.sweepable 16 = false ∧ (entry .sweep (16 + 2 * 2 ^ 32) 0).p 4 4 = 2)
    ∧ (let r : SlogRec := { num := 0, keyId := [], index := 16, gen := 0, sepoch := 0, reservedEnd := 0, indexLimit := 1, status := .active,
                            next := 0, exporting := false, nonce := [] }
       let j := { jobOf { entry .statefulQuery 0 0 with ctx := 16 } with crec := rooted.keys.record 16 }
       (rooted.mapKeeper fun k => { k with slog := [r] }).jobRec j = some r ∧ rooted.jobRec j = none) := by decide +kernel

theorem wit_images : (Goes up (entry .imageSave 0 0) .imageSave [] ∧ (entry .imageSave 0 0).p 0 1 = 0 ∧ up.imageRootOk = true)
    ∧ (let s := up.mapKeeper fun k => { k with imgPending := some (1, 0) }
       (on s (jobOf (entry .imageSave 1 0))).runsJob 0 (jobOf (entry .imageSave 1 0)) .imageSave [] ∧ s.keeper.imgPending = some (1, 0))
    ∧ (Goes up (entry .externalWrap 0 8) .externalWrap (zeros 8) ∧ Goes up (entry .keyExport 0 0) .keyExport []) :=
  ⟨⟨goes rfl rfl rfl, by decide +kernel⟩, ⟨runs_on _ _ _ _ rfl rfl, rfl⟩, goes rfl rfl (by decide +kernel), goes rfl rfl rfl⟩

/-- The header of an image of this device and epoch, with the count of contexts and counter 0. -/
def imgHead : Bytes :=
  leBytes 4 0x58544350 ++ leBytes 2 1 ++ leBytes 1 up.fuses.lc.num ++ leBytes 1 up.fuses.epoch ++ leBytes 8 up.deviceId ++ zeros 8
    ++ leBytes 4 up.ctxCount ++ zeros 36

theorem wit_images_load : let h := imgHead
    Goes up (entry .imageLoad 0 80) .imageLoad (h ++ zeros 16) ∧ up.imageRootOk = true ∧ up.keys.vacant = true
      ∧ (h ++ zeros 16).take 64 = h ∧ fieldAt h 0 4 = 0x58544350 ∧ fieldAt h 4 2 = 1 ∧ zeroAt h 44 20 = true
      ∧ fieldAt h 8 8 = up.deviceId ∧ fieldAt h 6 1 = up.fuses.lc.num ∧ fieldAt h 7 1 = up.fuses.epoch
      ∧ fieldAt h 24 4 = up.ctxCount ∧ fieldAt h 16 8 = up.keeper.imageCtr ∧ up.keeper.imgPending = none
      ∧ (up.mapKeeper fun k => { k with imgPending := some (0, 5) }).keeper.imgPending = some (fieldAt h 16 8, 5) :=
  ⟨goes rfl rfl (by decide +kernel), by decide +kernel⟩

theorem wit_migration : up.nvFree = true ∧ Goes up (entry .migrateStatement 0 32) .migrateStatement (zeros 32)
    ∧ (Goes up (entry .migrateExport 0 0) .migrateExport [] ∧ (entry .migrateExport 0 0).p 0 1 = 0 ∧ up.keeper.exportRec = none)
    ∧ (let s := up.mapKeeper fun k => { k with exportRec := some { targetId := 0, mksDigest := [], nonce := [], keys := [] } }
       Goes s (entry .migrateExport 512 0) .migrateExport [] ∧ (entry .migrateExport 512 0).p 1 1 = 2 ∧ s.keeper.exportRec ≠ none) :=
  ⟨rfl, goes rfl rfl (by decide +kernel), ⟨goes rfl rfl rfl, by decide +kernel⟩, goes rfl rfl rfl, by decide +kernel⟩

/-- The header of an import blob of no contexts and no keys, for the nonce of this device's statement. -/
def migHead : Bytes := leBytes 4 0x47494D50 ++ leBytes 2 1 ++ zeros 10 ++ leBytes 8 up.deviceId ++ zeros 1608

theorem migHead_length : migHead.length = 1632 := by
  simp only [migHead, zeros, List.length_append, List.length_replicate]
  rfl

theorem wit_migration_import : let s := up.mapKeeper fun k => { k with stmtNonce := some (zeros 32) }
    let h := migHead
    let inp := h ++ zeros 64
    Goes s (entry .migrateImport 0 1696) .migrateImport inp ∧ inp.take 1632 = h ∧ inp.length = migLen (fieldAt h 56 4) (fieldAt h 60 4)
      ∧ fieldAt h 0 4 = 0x47494D50 ∧ fieldAt h 4 2 = 1 ∧ zeroAt h 6 2 = true ∧ fieldAt h 16 8 = s.deviceId
      ∧ s.keeper.stmtNonce = some (slice h 24 32) := by
  have hl : (migHead ++ zeros 64).length = 1696 := by rw [List.length_append, migHead_length]; rfl
  refine ⟨goes rfl rfl (by rw [hl]; rfl), List.take_left' migHead_length, ?_, by decide +kernel, by decide +kernel, by decide +kernel,
    by decide +kernel, by decide +kernel⟩
  show (migHead ++ zeros 64).length = _
  rw [hl]
  decide +kernel

/-! ### Witnesses: entropy, tamper and faults -/

/-- RANDOM of one byte over the request limit, at its first request and at its last; the cap's last bytes. -/
theorem wit_entropy_random : let e := { entry .random 0 0 with outLen := 4097 }
    (on up (jobOf e)).runsJob 0 (jobOf e) .random [] ∧ up.gate { jobOf e with seeded := false } true = .go
      ∧ (jobOf e).written.length < e.outLen.toNat ∧ min 4096 (e.outLen.toNat - (jobOf e).written.length) < e.outLen.toNat
      ∧ (up.mapTables fun t => { t with capUsed := 5904 }).tables.capUsed + 4096 = randomCap
      ∧ (let j := { jobOf e with written := zeros 4096 }
         (on up j).job? 0 = some j ∧ j.written.length + min 4096 (e.outLen.toNat - j.written.length) = e.outLen.toNat) := by
  refine ⟨runs_on _ _ _ _ rfl rfl, by decide +kernel, by decide +kernel, by decide +kernel, by decide +kernel, rfl, ?_⟩
  simp only [zeros, List.length_replicate]
  decide

theorem wit_entropy : (on up (jobOf (entry .noiseRead 0 0))).runsJob 0 (jobOf (entry .noiseRead 0 0)) .noiseRead []
    ∧ up.ent.running = true ∧ 0 < up.ent.healthy ∧ up.ent.pairs.getD (31 / 2) .retired = .healthy
    ∧ HealthTest.rct ≠ .kat ∧ up.ent.sampled = true
    ∧ (let s := up.mapEnt fun e => { e with state := .failed, pairs := List.replicate 7 .healthy ++ .retest :: List.replicate 8 .dropped }
       s.ent.pairs.getD 7 .retired = .retest ∧ s.ent.state = .failed ∧ (s.ent.pairs.set 7 .healthy).getD 7 .retired = .healthy) :=
  ⟨runs _ _, by decide +kernel⟩

/-- The sensors where their policy watches them; counts below and at the threshold of a lasting response. -/
theorem wit_tamper : up.power.vinValid = true ∧ up.boot.serviceReady = true
    ∧ (let s := up.mapFuses fun f => { f with lc := .mfg }
       s.fuses.lc.meshed = true ∧ s.flt.sensors.contains 0x01 = false ∧ s.fwRunning = true)
    ∧ (up.recent 0 0).length + 1 < classThreshold 0 ∧ (up.recent 1 0).length + 1 < classThreshold 1
    ∧ (up.recent 2 0).length + 1 < classThreshold 2 ∧ up.cdRunning = true ∧ up.excursion (185#8).toNat = true
    ∧ up.excursion (184#8).toNat = false
    ∧ (let s := up.mapBoot fun b => { b with stage := .released }
       s.fwRunning = false ∧ s.cdRunning = true)
    ∧ (let s := up.mapFlt fun f => { f with sensors := [0x83], history := [{ cls := 2, obj := 0, tick := 0 }] }
       s.flt.sensors.contains (0x81 + 2) = true ∧ s.watched 2 = true ∧ (s.recent 2 0).length + 1 < classThreshold 2)
    ∧ ((up.recent 4 5).length + 1 < classThreshold 4 ∧ (up.mapFlt fun f => { f with spares := [(3, 63)] }).flt.spares.get 0 3 < 64)
    ∧ (511 < 16 * up.groups ∧ up.flt.cores.contains 511 = false ∧ up.unitBusy .hash (511 / 16) = false
      ∧ (up.recent 6 511).length + 1 < classThreshold 6
      ∧ classThreshold 6 ≤ ((up.mapFlt fun f => { f with history := List.replicate 2 { cls := 6, obj := 511, tick := 0 } }).recent 6 511).length + 1) := by
  decide +kernel

/-- The highest-numbered loop where the owner's policy watches it. -/
theorem wit_tamper_loop : let s := up.mapFuses fun f => { f with shadow := [(2193, { Shadow.blank with data := 0x80 })] }
    s.tamperPolicy.getLsbD (4 + 3) = true ∧ s.flt.sensors.contains (0x10 + 3) = false := by decide +kernel

theorem wit_tamper_after : (let s := up.mapFlt fun f => { f with rootPending := some 7 }
      s.flt.rootPending = some 7 ∧ s.fwRunning = true ∧ s.power.nvOk = true ∧ s.nvFree = true)
    ∧ (let s := up.mapBoot fun b => { b with stage := .held, code := 0x8002 }
       s.boot.stage = .held ∧ s.boot.code = 0x8002 ∧ s.flt.sensors = [] ∧ s.power.vinValid = true ∧ s.power.pwrfailHigh = true ∧ s.mayRelease = true) := by
  decide +kernel

/-! ### Witnesses: the stated rules, the frames and the whole machine -/

theorem wit_latticeResult : (Instr.mlkemKeygen 0, Op.mlkemKeygen) ∈ [(Instr.mlkemKeygen 0, Op.mlkemKeygen), (.mlkemEncaps 0 [], .mlkemEncaps),
      (.mlkemDecaps 0 [], .mlkemDecaps), (.mlkemEncapsInternal 0 [], .mlkemEncapsInternal), (.mlkemKeygenInternal 0 [], .mlkemKeygenInternal)]
    ∧ (on up (jobOf (entry .mlkemKeygen 3 0))).runsJob 0 (jobOf (entry .mlkemKeygen 3 0)) .mlkemKeygen []
    ∧ ∃ t, exec (.mlkemKeygen 0) (on up (jobOf (entry .mlkemKeygen 3 0))) = .next t ∧ ∃ r out, t.endedWith 0 st.ok r out :=
  ⟨by simp, runs _ _, _, rfl, _, _, _, _, rfl, rfl, rfl, rfl, rfl, rfl⟩

/-- The host owns the unit: before START, at the message's limit, with DONE. -/
theorem wit_digestUnit : (let s := up.mapDru fun d => { d with owner := .host }
      s.barUp 0 = true ∧ s.fwRunning = true ∧ s.dru.owner = .host ∧ s.dru.active = false ∧ s.dru.done = false)
    ∧ (let s := up.mapDru fun d => { d with owner := .host, active := true, bytes := 2 ^ 61 - 8, lastCnt := 8 }
       s.dru.active = true ∧ s.dru.finishing = false ∧ 2 ^ 61 - 1 < s.dru.bytes + 8 ∧ s.dru.lastCnt ≠ 0xF
         ∧ 2 ^ 61 - 1 < s.dru.bytes + s.dru.lastCnt.toNat)
    ∧ (up.mapDru fun d => { d with owner := .host, done := true }).dru.done = true := by decide +kernel

/-- Step words 0 and 2 of component 2's band are programmed: the band's value is 3. -/
theorem wit_svnBand : let s := (updAt .confirming 2).mapUpd fun u => { u with journal := some (jnl .confirming 2 []) }
    (s.mapFuses fun f => { f with raw := [(1680, 1), (1682, 1)] }).svnBand 2 = 3
      ∧ (jnl .confirming 2 []).component = 2 ∧ s.upd.stage = .confirming ∧ s.fuses.word ((bandWords 2).1 + 0) = 0 ∧ 0 < (jnl .confirming 2 []).svn := by
  decide +kernel

theorem wit_migrateExportStep : Goes up (entry .migrateExport 0 0) .migrateExport [] ∧ up.nvFree = true
    ∧ (up.mapKeeper fun k => { k with exportRec := some { targetId := 0, mksDigest := [], nonce := [], keys := [] } }).keeper.exportRec ≠ none :=
  ⟨goes rfl rfl rfl, rfl, by decide +kernel⟩

theorem wit_frames : (∃ l, jobTouches (.hash 0 []) = some (0, l)) ∧ (∃ l, busTouches .enec = some l) ∧ (∃ l, eventTouches .mramRefresh = some l)
    ∧ (∃ t, exec (.hash 0 []) up = .next t) ∧ (∃ t, exec .enec up = .next t) ∧ ∃ t, exec .mramRefresh up = .next t :=
  ⟨⟨_, rfl⟩, ⟨_, rfl⟩, ⟨_, rfl⟩, ⟨_, rfl⟩, ⟨_, rfl⟩, ⟨_, rfl⟩⟩

/-- A job row beside another job. -/
theorem wit_otherJobs : ∃ l t, jobTouches (.hash 0 []) = some (0, l) ∧ Field.queues ∉ l ∧ Field.upd ∉ l ∧ Field.out ∉ l
    ∧ exec (.hash 0 []) { up with jobs := [jobOf (entry .hash 1 0), other .running] } = .next t ∧ 1 ≠ 0
    ∧ { up with jobs := [jobOf (entry .hash 1 0), other .running] }.job? 0 = some (jobOf (entry .hash 1 0)) :=
  ⟨_, _, rfl, by decide, by decide, by decide, rfl, by decide, by decide +kernel⟩

/-- A canonical state with listed fuses, and a step from it. -/
theorem wit_canonical : let s := { up.mapFuses fun f => { f with raw := [(5, 3)] } with pending := [.enec] }
    s.canonical = true ∧ (∃ t, step s = .next t) ∧ (s.fuses.word 5).getLsbD 1 = true := ⟨by decide +kernel, ⟨_, rfl⟩, by decide +kernel⟩

/-- A release that lifts the hold of domain 0. -/
theorem wit_holdsLift : let s := { guarded .verifying [1] (reg true true false) with pending := [.domainRelease 0] }
    ∃ t, step s = .next t ∧ (t.dom 0).state = .released ∧ (s.dom 0).state ≠ .released ∧ t.guard.holdPins.getLsbD 0 = true
      ∧ s.guard.holdPins.getLsbD 0 = false := by
  exact ⟨_, rfl, by decide +kernel, by decide +kernel, by decide +kernel, by decide +kernel⟩

/-! ### WellFormed: an ill-formed term for each check, which the check refuses -/

/-- Function numbers, with 255 for the management link where a session is meant, and the number of VFs. -/
theorem test_wf_functions : ([.configRequest 65 (.read 0), .flr 65, .flrComplete 65, .d3hotEntry 65, .d0Return 65, .busMasterDisable 65,
      .busMasterEnable 65, .msixUnmask 65 .enable, .adminQueueRestart 65 false, .sessionIdleClose 66, .nonceExpired 254, .lockoutExpired 66,
      .vfEnableSet 65] : List Instr).all (fun i => !i.wf) = true
    ∧ (Instr.sessionIdleClose 255).wf = true ∧ (Instr.vfEnableSet 64).wf = true := by decide

/-- A register access past the end of BAR0, and one of function 65; one of 2 bytes is an access, which the device drops. -/
theorem test_wf_access : ([.registerWrite 0 0x4000000 8 .read, .registerWrite 65 0 8 (.write 0)] : List Instr).all (fun i => !i.wf) = true
    ∧ (Instr.registerWrite 0 0x3FFFFF8 8 .read).wf = true ∧ (Instr.registerWrite 0 0 2 (.write 0)).wf = true := by decide

/-- Domains, power-good inputs, sensor loops, words of DRU_EXPECT, and the sizes of DRU writes. -/
theorem test_wf_small : ([.manifestReadDone 8 [], .domainRelease 8, .regionReadDone 8 0 [] [], .backgroundBurst 8 0 [] [], .pltPgHigh 4,
      .pltPgFall 4, .loopMismatch 4, .druDataWrite 5 0 .host, .druLastWrite 16 0 .host, .druExpectWrite 8 0, .pairFailure 32 .rct none,
      .pairFailure 0 .lock (some 32), .retestPass 16, .coreMismatch 512, .minorPersist 3] : List Instr).all (fun i => !i.wf) = true := by decide

/-- Queues without a register set: CTLQ4, job queue 0, PF queue 2,043, VF queue 65; and those without rings. -/
theorem test_wf_queues : ([.doorbellSqRing (.ctl 4), .doorbellCqReport (.job 0 0) 0 false, .sqRepoll (.job 0 2043), .indexBlockRead (.job 1 65) 0 true none,
      .modTimerExpired .mgmt, .queueDrained .tap, .queueEnable (.admin 65) 0, .queueDisable (.ctl 4), .qSubmittedRead (.job 65 1),
      .sqFetch (.ctl 4) [] none, .sqFetch (.job 0 1) [zeros 63] none, .sqFetch (.job 0 1) (List.replicate 9 (zeros 64)) none,
      .mgControlRequest { binding := .i3c, secured := true } (zeros 63) [], .mfgCmd (zeros 65) []] : List Instr).all (fun i => !i.wf) = true
    ∧ (Instr.sqRepoll (.job 0 2042)).wf = true := by decide +kernel

/-! ### Small tests; the expected values stand in the spec's tables and worked examples -/

/-- The reset values of DEV_THERM, PWR_LIMIT, SIEVE_DOM0, DRU_LASTCNT and ENT_LAST (their tables). -/
theorem test_reset_registers : State.reset.thermal.thermTier = 1 ∧ State.reset.readDev 0x20 = 0 ∧ State.reset.dru.lastCnt = 0xF
    ∧ (State.reset.dom 0).failRegion = 0xFF ∧ State.reset.ent.partner = 0xFF := by decide +kernel

/-- Chapter 01, "a supply that sags and recovers": an average below 4.45 V puts the module in tier 2, and NV_OK stays. -/
theorem test_vin_sags : (match exec (.vinAverage 4440) (up.mapPower fun p => { p with averaged := true, vinTier := 1 }) with
    | .next t => decide (t.power.vinTier = 2 ∧ t.power.nvOk = true) | _ => false) = true := by decide +kernel

/-- The same example: PWRFAIL_N falls; PF_HOLD is set and NV_OK cleared. -/
theorem test_pwrfail : (match exec .pwrfailAssert up with
    | .next t => decide (t.power.pfHold = true ∧ t.power.nvOk = false ∧ t.dispatching = false) | _ => false) = true := by decide +kernel

/-- The entries of a ring's first slots, with PHASE 1. -/
def slotOf (id phase : Nat) : Bytes :=
  [BitVec.ofNat 8 (opCode .hash % 256), BitVec.ofNat 8 (opCode .hash / 256), 0, BitVec.ofNat 8 phase, BitVec.ofNat 8 id] ++ zeros 59

/-- Chapter 05, "phase mode across a lap": the entry at index 15 wraps the head and turns the expected phase. -/
theorem test_phase_wraps : (match exec (.sqFetch (.job 0 1) [slotOf 1 1] none) (queued .running fun q => { q with head := 15 }) with
    | .next t => decide ((t.queue (.job 0 1)).head = 0 ∧ (t.queue (.job 0 1)).expPhase = false) | _ => false) = true := by decide +kernel

/-- The same example: a stale phase is a mismatch, which leaves the head where it is and waits for the repoll. -/
theorem test_phase_mismatch : (match exec (.sqFetch (.job 0 1) [slotOf 1 0] none) (queued .running fun q => { q with head := 10 }) with
    | .next t => decide ((t.queue (.job 0 1)).head = 10 ∧ (t.queue (.job 0 1)).repoll = true ∧ (t.queue (.job 0 1)).intake = []) | _ => false) = true := by
  decide +kernel

/-- Chapter 05, "a stalled completion ring": a report of 5 entries leaves CQ_CONSUMED 19. -/
theorem test_report : (match exec (.doorbellCqReport (.job 0 1) 3 false) (queued .running fun q =>
      { q with cqReport := 14, cnt := { submitted := 38, dispatched := 30, completed := 26, consumed := 14 } }) with
    | .next t => decide ((t.queue (.job 0 1)).cnt.consumed = 19 ∧ (t.queue (.job 0 1)).state = .running) | _ => false) = true := by decide +kernel

/-- Chapter 06, "an input that does not reconcile": LENGTH_MISMATCH with RESULT 0x2708. -/
theorem test_frag_sum : let f (n : Nat) (flags : BitVec 32) : FragEntry := { addr := 0x1000, len := BitVec.ofNat 32 n, flags }
    (up.mapSession 0 fun x => { x with isOpen := true }).intake (.job 0 1)
      { entry .hash 1 10000 with inAddr := 0x2000, flags := 1, outLen := 32, outAddr := 0x4000 } [f 4096 0, f 4096 0, f 1800 2] []
      = .ended st.lengthMismatch 0x2708 := by decide +kernel

/-- Chapter 07, "revoking a collection": the handles of node 100 with GEN 2 and 3, and of key 5,000. -/
theorem test_handles : mkHandle 100 2 = 0x00400064 ∧ mkHandle 5000 0 = 0x00001388 ∧ mkHandle 100 3 = 0x00600064 := by decide +kernel

/-- Chapter 08, "signing a fixity record": the ML-DSA-65 terms of CYCLES sum to 340,464 with 2 blocks and 3 iterations. -/
theorem test_mldsa_cycles : mldsaSignCycles 2 + 32 * 2 + mldsaIterCycles 2 * 3 = 340464 := by decide +kernel

/-- Chapter 11, "edge inputs on one RSA-3072 key": the cycles of the load and of the private operation. -/
theorem test_rsa_cycles : rsaLoadCycles 384 = 30000 ∧ rsaPrivCycles 384 = 2327000 := by decide +kernel

/-- Chapter 12: CLAIM with TAG 0x21 gives the host the unit; eight words make 64 bytes. -/
theorem test_dru_claim : (match exec (.druClaim 0x21 false .host) up with
    | .next t => decide (t.dru.owner = .host ∧ t.dru.tag = 0x21) | _ => false) = true := by decide +kernel

/-- R426: a RESULT read before DONE sets bit 0 of DRU_ERR and reads 0. -/
theorem test_dru_early : (match exec (.druResultRead none false .whole) (up.mapDru fun d => { d with owner := .host, active := true }) with
    | .next t => decide (t.dru.err = 1 ∧ t.out.head? = some (.regData 0)) | _ => false) = true := by decide +kernel

/-- Chapter 13, "a stop while consumers wait": oscillator 11 stops, and the eighth healthy pair is lost. -/
theorem test_entropy_stop : (match exec (.pairFailure 11 .alive none) (up.mapEnt fun e =>
      { e with pairs := List.replicate 8 .healthy ++ List.replicate 8 .retired }) with
    | .next t => decide (t.ent.healthy = 7 ∧ t.ent.state = .failed ∧ t.ent.lastTest = 3 ∧ t.ent.lastOsc = 11 ∧ t.ent.partner = 0xFF) | _ => false) = true := by
  decide +kernel

/-- Chapter 14, "a transition cut short": copy word 3 lies at 163, 179 and 195 and holds 0xD2E1_F00F. -/
theorem test_lc_word : copies 163 = [163, 179, 195] ∧ lcWordData.getD 3 0 = 0xD2E1F00F#32 := by decide +kernel

/-- Chapter 15, "glitches that escalate": the fourth dip within the window runs a major response with code 0x20. -/
theorem test_voltage_fourth : (match exec .voltageMinor (up.mapFlt fun f => { f with history := List.replicate 3 { cls := 0, obj := 0, tick := 0 } }) with
    | .next t => decide (t.flt.majorCount = 1 ∧ t.flt.lastCode = 0x20) | _ => false) = true := by decide +kernel

/-- The same example: the third only counts. -/
theorem test_voltage_third : (match exec .voltageMinor (up.mapFlt fun f => { f with history := List.replicate 2 { cls := 0, obj := 0, tick := 0 } }) with
    | .next t => decide (t.flt.majorCount = 0) | _ => false) = true := by decide +kernel

/-- Chapter 16, "a fleet activation": SVN 15 of the bundle programs word 1,182; the last block is 24,947 bytes at 5,242,880. -/
theorem test_update : (bandWords 1).1 + 14 = 1182
    ∧ ({ up.upd with header := zeros 20 ++ leBytes 4 5267827 }).blockFits 5242880 24947 = true
    ∧ ({ up.upd with header := zeros 20 ++ leBytes 4 5267827 }).blockFits 5242880 24946 = false := by decide +kernel

/-- R223: STATE_REFUSED shows NV_OK, the life cycle, the start mode and the object's state. -/
theorem test_refused_word : up.refusedWord 0 3 = 0x01000003 := by decide +kernel

/-- R457: a blank word decodes to zero, without correction. -/
theorem test_fuse_blank : fuseDecode 0 = some (0, false) := by decide +kernel

/-- On an empty queue the block's own clock runs (log row 1), and the front command is taken otherwise. -/
theorem test_step : step State.reset = .next State.reset.idleStep ∧ State.reset.idleStep.keeper.ticks = 1
    ∧ step { State.reset with pending := [.enec, .disec] } = exec .enec { State.reset with pending := [.disec] } := ⟨rfl, by decide +kernel, rfl⟩

end Sys2Proof.Tests
end

section
/-!
What every row of the table leaves alone: a row answers a next state, and a component outside the row's list (`jobTouches`,
`busTouches`, `eventTouches`) is as before. One lemma for each row, from the frames of the shared operations.
-/
namespace Sys2Proof.Machine
open Sys2Proof

/-- The outcome is a next state whose component `f` is that of `s`. -/
def State.keeps (s : State) (f : Field) (o : Host.Outcome State Fault Refusal) : Prop :=
  ∃ t, o = .next t ∧ t.get f = s.get f

@[simp] theorem State.keeps_next (s t : State) (f : Field) : s.keeps f (.next t) ↔ t.get f = s.get f := by
  simp [State.keeps]

@[simp] theorem State.keeps_ite (s : State) (f : Field) (c : Prop) [Decidable c] (a b : Host.Outcome State Fault Refusal) :
    s.keeps f (if c then a else b) ↔ if c then s.keeps f a else s.keeps f b := by
  split <;> rfl

/-! ### ML-KEM and ML-DSA -/

theorem execMlkemKeygen_keeps (j : Nat) (s : State) {fld : Field}
(h : fld ∉ ([.jobs, .store, .tables, .ent, .freeCtr] : List Field)) :
    s.keeps fld (execMlkemKeygen j s) := by
  simp only [List.mem_cons, List.not_mem_nil, or_false, not_or] at h
  refine ⟨_, rfl, State.runCmd_get _ _ _ _ fun s j => ?_⟩
  simp [h]

theorem execMlkemEncaps_keeps (j : Nat) (inp : Bytes) (s : State) {fld : Field}
(h : fld ∉ ([.jobs, .tables, .ent, .freeCtr] : List Field)) :
    s.keeps fld (execMlkemEncaps j inp s) := by
  simp only [List.mem_cons, List.not_mem_nil, or_false, not_or] at h
  refine ⟨_, rfl, State.runOp_get _ _ _ _ _ fun s j => ?_⟩
  split <;> simp [h]

theorem execMlkemDecaps_keeps (j : Nat) (inp : Bytes) (s : State) {fld : Field}
(h : fld ∉ ([.jobs, .tables, .ent] : List Field)) :
    s.keeps fld (execMlkemDecaps j inp s) := by
  simp only [List.mem_cons, List.not_mem_nil, or_false, not_or] at h
  refine ⟨_, rfl, State.runOp_get _ _ _ _ _ fun s j => ?_⟩
  simp [h]

theorem execMlkemEncapsInternal_keeps (j : Nat) (inp : Bytes) (s : State) {fld : Field}
(h : fld ∉ ([.jobs, .tables] : List Field)) :
    s.keeps fld (execMlkemEncapsInternal j inp s) := by
  simp only [List.mem_cons, List.not_mem_nil, or_false, not_or] at h
  refine ⟨_, rfl, State.runOp_get _ _ _ _ _ fun s j => ?_⟩
  dsimp only
  split <;> simp [h]

theorem execMlkemKeygenInternal_keeps (j : Nat) (inp : Bytes) (s : State) {fld : Field}
(h : fld ∉ ([.jobs, .tables] : List Field)) :
    s.keeps fld (execMlkemKeygenInternal j inp s) := by
  simp only [List.mem_cons, List.not_mem_nil, or_false, not_or] at h
  simp [execMlkemKeygenInternal, h]

theorem execMldsaKeygen_keeps (j : Nat) (s : State) {fld : Field} (h : fld ∉ ([.jobs, .tables, .ent] : List Field)) :
    s.keeps fld (execMldsaKeygen j s) := by
  simp only [List.mem_cons, List.not_mem_nil, or_false, not_or] at h
  refine ⟨_, rfl, State.runCmd_get _ _ _ _ fun s j => ?_⟩
  simp [h]

theorem execMldsaSign_keeps (j : Nat) (inp : Bytes) (s : State) {fld : Field}
(h : fld ∉ ([.jobs, .tables, .ent, .freeCtr] : List Field)) :
    s.keeps fld (execMldsaSign j inp s) := by
  simp only [List.mem_cons, List.not_mem_nil, or_false, not_or] at h
  refine ⟨_, rfl, State.runOp_get _ _ _ _ _ fun s j =>
    State.gated_get _ _ _ _ _ (by simp [h]) fun s j => ?_⟩
  dsimp only
  split <;> simp [h]

theorem execMldsaVerify_keeps (j : Nat) (inp : Bytes) (s : State) {fld : Field}
(h : fld ∉ ([.jobs, .tables] : List Field)) :
    s.keeps fld (execMldsaVerify j inp s) := by
  simp only [List.mem_cons, List.not_mem_nil, or_false, not_or] at h
  simp [execMldsaVerify, h]

theorem execMldsaKeygenInternal_keeps (j : Nat) (inp : Bytes) (s : State) {fld : Field}
(h : fld ∉ ([.jobs, .tables] : List Field)) :
    s.keeps fld (execMldsaKeygenInternal j inp s) := by
  simp only [List.mem_cons, List.not_mem_nil, or_false, not_or] at h
  simp [execMldsaKeygenInternal, h]

/-! ### Hashing, MACs and hash-based signatures -/

theorem execHash_keeps (j : Nat) (inp : Bytes) (s : State) {fld : Field} (h : fld ∉ ([.jobs, .tables] : List Field)) :
    s.keeps fld (execHash j inp s) := by
  simp only [List.mem_cons, List.not_mem_nil, or_false, not_or] at h
  simp [execHash, h]

theorem execCshake_keeps (j : Nat) (inp : Bytes) (s : State) {fld : Field} (h : fld ∉ ([.jobs, .tables] : List Field)) :
    s.keeps fld (execCshake j inp s) := by
  simp only [List.mem_cons, List.not_mem_nil, or_false, not_or] at h
  simp [execCshake, h]

theorem execKmac_keeps (j : Nat) (inp : Bytes) (s : State) {fld : Field}
(h : fld ∉ ([.jobs, .tables, .ent] : List Field)) :
    s.keeps fld (execKmac j inp s) := by
  simp only [List.mem_cons, List.not_mem_nil, or_false, not_or] at h
  refine ⟨_, rfl, State.runOp_get _ _ _ _ _ fun s j => ?_⟩
  simp [h]

theorem execHmac_keeps (j : Nat) (inp : Bytes) (s : State) {fld : Field}
(h : fld ∉ ([.jobs, .tables, .ent] : List Field)) :
    s.keeps fld (execHmac j inp s) := by
  simp only [List.mem_cons, List.not_mem_nil, or_false, not_or] at h
  refine ⟨_, rfl, State.runOp_get _ _ _ _ _ fun s j => ?_⟩
  simp [h]

theorem execStreamOpen_keeps (j : Nat) (inp : Bytes) (s : State) {fld : Field}
(h : fld ∉ ([.jobs, .tables, .ent] : List Field)) :
    s.keeps fld (execStreamOpen j inp s) := by
  simp only [List.mem_cons, List.not_mem_nil, or_false, not_or] at h
  refine ⟨_, rfl, State.runOp_get _ _ _ _ _ fun s j =>
    State.gated_get _ _ _ _ _ (by simp [h]) fun s j => ?_⟩
  split <;> simp [h]

theorem execStreamPart_keeps (j : Nat) (inp : Bytes) (s : State) {fld : Field}
(h : fld ∉ ([.jobs, .tables, .ent] : List Field)) :
    s.keeps fld (execStreamPart j inp s) := by
  simp only [List.mem_cons, List.not_mem_nil, or_false, not_or] at h
  refine ⟨_, rfl, State.runOp_get _ _ _ _ _ fun s j =>
    State.gated_get _ _ _ _ _ (by simp [h]) fun s j => ?_⟩
  simp [h]

theorem execStreamFinal_keeps (j : Nat) (inp : Bytes) (s : State) {fld : Field}
(h : fld ∉ ([.jobs, .tables, .ent] : List Field)) :
    s.keeps fld (execStreamFinal j inp s) := by
  simp only [List.mem_cons, List.not_mem_nil, or_false, not_or] at h
  refine ⟨_, rfl, State.runOp_get _ _ _ _ _ fun s j =>
    State.gated_get _ _ _ _ _ (by simp [h]) fun s j => ?_⟩
  dsimp only
  split <;> simp [h]

theorem execSlhdsaKeygen_keeps (j : Nat) (s : State) {fld : Field} (h : fld ∉ ([.jobs, .tables, .ent] : List Field)) :
    s.keeps fld (execSlhdsaKeygen j s) := by
  simp only [List.mem_cons, List.not_mem_nil, or_false, not_or] at h
  refine ⟨_, rfl, State.runCmd_get _ _ _ _ fun s j => ?_⟩
  simp [h]

theorem execSlhdsaSign_keeps (j : Nat) (inp : Bytes) (s : State) {fld : Field}
(h : fld ∉ ([.jobs, .tables, .ent, .freeCtr] : List Field)) :
    s.keeps fld (execSlhdsaSign j inp s) := by
  simp only [List.mem_cons, List.not_mem_nil, or_false, not_or] at h
  refine ⟨_, rfl, State.runOp_get _ _ _ _ _ fun s j => ?_⟩
  simp [h]

theorem execSlhdsaVerify_keeps (j : Nat) (inp : Bytes) (s : State) {fld : Field}
(h : fld ∉ ([.jobs, .tables] : List Field)) :
    s.keeps fld (execSlhdsaVerify j inp s) := by
  simp only [List.mem_cons, List.not_mem_nil, or_false, not_or] at h
  simp [execSlhdsaVerify, h]

theorem execSlhdsaKeygenInternal_keeps (j : Nat) (inp : Bytes) (s : State) {fld : Field}
(h : fld ∉ ([.jobs, .tables] : List Field)) :
    s.keeps fld (execSlhdsaKeygenInternal j inp s) := by
  simp only [List.mem_cons, List.not_mem_nil, or_false, not_or] at h
  simp [execSlhdsaKeygenInternal, h]

theorem execLmsKeygen_keeps (j : Nat) (s : State) {fld : Field}
(h : fld ∉ ([.keeper, .jobs, .store, .tables, .ent, .freeCtr] : List Field)) :
    s.keeps fld (execLmsKeygen j s) := by
  simp only [List.mem_cons, List.not_mem_nil, or_false, not_or] at h
  refine ⟨_, rfl, State.runCmd_get _ _ _ _ fun s j => ?_⟩
  simp [h]

theorem execXmssKeygen_keeps (j : Nat) (s : State) {fld : Field}
(h : fld ∉ ([.keeper, .jobs, .store, .tables, .ent, .freeCtr] : List Field)) :
    s.keeps fld (execXmssKeygen j s) := by
  simp only [List.mem_cons, List.not_mem_nil, or_false, not_or] at h
  refine ⟨_, rfl, State.runCmd_get _ _ _ _ fun s j => ?_⟩
  simp [h]

theorem execLmsSign_keeps (j : Nat) (inp : Bytes) (s : State) {fld : Field}
(h : fld ∉ ([.jobs, .store, .tables, .ent, .freeCtr] : List Field)) :
    s.keeps fld (execLmsSign j inp s) := by
  simp only [List.mem_cons, List.not_mem_nil, or_false, not_or] at h
  simp [execLmsSign, h]

theorem execXmssSign_keeps (j : Nat) (inp : Bytes) (s : State) {fld : Field}
(h : fld ∉ ([.jobs, .store, .tables, .ent, .freeCtr] : List Field)) :
    s.keeps fld (execXmssSign j inp s) := by
  simp only [List.mem_cons, List.not_mem_nil, or_false, not_or] at h
  simp [execXmssSign, h]

theorem execIndexPortServe_keeps (s : State) {fld : Field} (h : fld ∉ ([.keeper, .jobs, .tables] : List Field)) :
    s.keeps fld (execIndexPortServe s) := by
  simp only [List.mem_cons, List.not_mem_nil, or_false, not_or] at h
  unfold execIndexPortServe
  repeat' split
  all_goals simp [h]

theorem execReservationWrite_keeps (rec : Nat) (s : State) {fld : Field}
(h : fld ∉ ([.keeper, .jobs, .tables] : List Field)) :
    s.keeps fld (execReservationWrite rec s) := by
  simp only [List.mem_cons, List.not_mem_nil, or_false, not_or] at h
  unfold execReservationWrite
  split <;> simp [h]

theorem execLmsVerify_keeps (j : Nat) (inp : Bytes) (s : State) {fld : Field}
(h : fld ∉ ([.jobs, .tables] : List Field)) :
    s.keeps fld (execLmsVerify j inp s) := by
  simp only [List.mem_cons, List.not_mem_nil, or_false, not_or] at h
  simp [execLmsVerify, h]

theorem execXmssVerify_keeps (j : Nat) (inp : Bytes) (s : State) {fld : Field}
(h : fld ∉ ([.jobs, .tables] : List Field)) :
    s.keeps fld (execXmssVerify j inp s) := by
  simp only [List.mem_cons, List.not_mem_nil, or_false, not_or] at h
  simp [execXmssVerify, h]

theorem execCacheSave_keeps (j : Nat) (s : State) {fld : Field} (h : fld ∉ ([.jobs, .tables] : List Field)) :
    s.keeps fld (execCacheSave j s) := by
  simp only [List.mem_cons, List.not_mem_nil, or_false, not_or] at h
  refine ⟨_, rfl, State.runCmd_get _ _ _ _ fun s j => ?_⟩
  dsimp only
  split <;> simp [h]

theorem execCacheLoad_keeps (j : Nat) (inp : Bytes) (s : State) {fld : Field}
(h : fld ∉ ([.jobs, .store, .tables] : List Field)) :
    s.keeps fld (execCacheLoad j inp s) := by
  simp only [List.mem_cons, List.not_mem_nil, or_false, not_or] at h
  refine ⟨_, rfl, State.runOp_get _ _ _ _ _ fun s j => ?_⟩
  dsimp only
  split <;> simp [h]

theorem execSeal_keeps (j : Nat) (inp : Bytes) (s : State) {fld : Field}
(h : fld ∉ ([.jobs, .tables, .ent, .freeCtr] : List Field)) :
    s.keeps fld (execSeal j inp s) := by
  simp only [List.mem_cons, List.not_mem_nil, or_false, not_or] at h
  refine ⟨_, rfl, State.runOp_get _ _ _ _ _ fun s j =>
    State.gated_get _ _ _ _ _ (by simp [h]) fun s j => ?_⟩
  dsimp only
  repeat' split
  all_goals simp [h]

/-! ### Curves, RSA, modular arithmetic and AES -/

theorem execEcKeygen_keeps (j : Nat) (s : State) {fld : Field} (h : fld ∉ ([.jobs, .tables, .ent] : List Field)) :
    s.keeps fld (execEcKeygen j s) := by
  simp only [List.mem_cons, List.not_mem_nil, or_false, not_or] at h
  refine ⟨_, rfl, State.runCmd_get _ _ _ _ fun s j => ?_⟩
  simp [h]

theorem execEcdsaSign_keeps (j : Nat) (inp : Bytes) (s : State) {fld : Field}
(h : fld ∉ ([.jobs, .tables, .ent, .freeCtr] : List Field)) :
    s.keeps fld (execEcdsaSign j inp s) := by
  simp only [List.mem_cons, List.not_mem_nil, or_false, not_or] at h
  refine ⟨_, rfl, State.runOp_get _ _ _ _ _ fun s j => ?_⟩
  simp [h]

theorem execEcdsaVerify_keeps (j : Nat) (inp : Bytes) (s : State) {fld : Field}
(h : fld ∉ ([.jobs, .tables] : List Field)) :
    s.keeps fld (execEcdsaVerify j inp s) := by
  simp only [List.mem_cons, List.not_mem_nil, or_false, not_or] at h
  refine ⟨_, rfl, State.runOp_get _ _ _ _ _ fun s j => ?_⟩
  dsimp only
  split <;> simp [h]

theorem execEcdh_keeps (j : Nat) (inp : Bytes) (s : State) {fld : Field}
(h : fld ∉ ([.jobs, .tables, .ent] : List Field)) :
    s.keeps fld (execEcdh j inp s) := by
  simp only [List.mem_cons, List.not_mem_nil, or_false, not_or] at h
  refine ⟨_, rfl, State.runOp_get _ _ _ _ _ fun s j => ?_⟩
  dsimp only
  split <;> simp [h]

theorem execEddsaSign_keeps (j : Nat) (inp : Bytes) (s : State) {fld : Field}
(h : fld ∉ ([.jobs, .tables, .ent] : List Field)) :
    s.keeps fld (execEddsaSign j inp s) := by
  simp only [List.mem_cons, List.not_mem_nil, or_false, not_or] at h
  refine ⟨_, rfl, State.runOp_get _ _ _ _ _ fun s j => ?_⟩
  simp [h]

theorem execEddsaVerify_keeps (j : Nat) (inp : Bytes) (s : State) {fld : Field}
(h : fld ∉ ([.jobs, .tables] : List Field)) :
    s.keeps fld (execEddsaVerify j inp s) := by
  simp only [List.mem_cons, List.not_mem_nil, or_false, not_or] at h
  simp [execEddsaVerify, h]

theorem execEcValidate_keeps (j : Nat) (inp : Bytes) (s : State) {fld : Field}
(h : fld ∉ ([.jobs, .tables] : List Field)) :
    s.keeps fld (execEcValidate j inp s) := by
  simp only [List.mem_cons, List.not_mem_nil, or_false, not_or] at h
  refine ⟨_, rfl, State.runOp_get _ _ _ _ _ fun s j => ?_⟩
  split <;> simp [h]

theorem execCurveLoad_keeps (j : Nat) (inp : Bytes) (s : State) {fld : Field}
(h : fld ∉ ([.jobs, .tables] : List Field)) :
    s.keeps fld (execCurveLoad j inp s) := by
  simp only [List.mem_cons, List.not_mem_nil, or_false, not_or] at h
  refine ⟨_, rfl, State.runOp_get _ _ _ _ _ fun s j => ?_⟩
  split <;> simp [h]

theorem execRsaKeygen_keeps (j : Nat) (s : State) {fld : Field}
(h : fld ∉ ([.jobs, .tables, .ent, .freeCtr] : List Field)) :
    s.keeps fld (execRsaKeygen j s) := by
  simp only [List.mem_cons, List.not_mem_nil, or_false, not_or] at h
  refine ⟨_, rfl, State.runCmd_get _ _ _ _ fun s j =>
    State.gated_get _ _ _ _ _ (by simp [h]) fun s j => ?_⟩
  dsimp only
  split <;> simp [h]

theorem execRsaKeyLoad_keeps (j : Nat) (inp : Bytes) (s : State) {fld : Field}
(h : fld ∉ ([.jobs, .store, .tables, .ent] : List Field)) :
    s.keeps fld (execRsaKeyLoad j inp s) := by
  simp only [List.mem_cons, List.not_mem_nil, or_false, not_or] at h
  refine ⟨_, rfl, State.runOp_get _ _ _ _ _ fun s j => ?_⟩
  dsimp only
  split <;> simp [h]

theorem execRsaPrivate_keeps (j : Nat) (inp : Bytes) (s : State) {fld : Field}
(h : fld ∉ ([.jobs, .tables, .ent] : List Field)) :
    s.keeps fld (execRsaPrivate j inp s) := by
  simp only [List.mem_cons, List.not_mem_nil, or_false, not_or] at h
  refine ⟨_, rfl, State.runOp_get _ _ _ _ _ fun s j => ?_⟩
  dsimp only
  repeat' split
  all_goals simp [h]

theorem execRsaPublic_keeps (j : Nat) (inp : Bytes) (s : State) {fld : Field}
(h : fld ∉ ([.jobs, .tables] : List Field)) :
    s.keeps fld (execRsaPublic j inp s) := by
  simp only [List.mem_cons, List.not_mem_nil, or_false, not_or] at h
  simp [execRsaPublic, h]

theorem execModexp_keeps (j : Nat) (inp : Bytes) (s : State) {fld : Field}
(h : fld ∉ ([.jobs, .tables, .ent] : List Field)) :
    s.keeps fld (execModexp j inp s) := by
  simp only [List.mem_cons, List.not_mem_nil, or_false, not_or] at h
  refine ⟨_, rfl, State.runOp_get _ _ _ _ _ fun s j => ?_⟩
  dsimp only
  split <;> simp [h]

theorem execModmul_keeps (j : Nat) (inp : Bytes) (s : State) {fld : Field}
(h : fld ∉ ([.jobs, .tables, .ent] : List Field)) :
    s.keeps fld (execModmul j inp s) := by
  simp only [List.mem_cons, List.not_mem_nil, or_false, not_or] at h
  refine ⟨_, rfl, State.runOp_get _ _ _ _ _ fun s j => ?_⟩
  dsimp only
  split <;> simp [h]

theorem execModinv_keeps (j : Nat) (inp : Bytes) (s : State) {fld : Field}
(h : fld ∉ ([.jobs, .tables, .ent] : List Field)) :
    s.keeps fld (execModinv j inp s) := by
  simp only [List.mem_cons, List.not_mem_nil, or_false, not_or] at h
  refine ⟨_, rfl, State.runOp_get _ _ _ _ _ fun s j => ?_⟩
  dsimp only
  split <;> simp [h]

theorem execDxProgramLoad_keeps (j : Nat) (inp : Bytes) (s : State) {fld : Field}
(h : fld ∉ ([.jobs, .tables] : List Field)) :
    s.keeps fld (execDxProgramLoad j inp s) := by
  simp only [List.mem_cons, List.not_mem_nil, or_false, not_or] at h
  simp [execDxProgramLoad, h]

theorem execDxRun_keeps (j : Nat) (s : State) {fld : Field}
(h : fld ∉ ([.jobs, .store, .tables, .ent, .freeCtr] : List Field)) :
    s.keeps fld (execDxRun j s) := by
  simp only [List.mem_cons, List.not_mem_nil, or_false, not_or] at h
  refine ⟨_, rfl, State.runCmd_get _ _ _ _ fun s j => ?_⟩
  dsimp only
  split <;> simp [h]

theorem execDxSlotWrite_keeps (j : Nat) (inp : Bytes) (s : State) {fld : Field}
(h : fld ∉ ([.jobs, .store, .tables] : List Field)) :
    s.keeps fld (execDxSlotWrite j inp s) := by
  simp only [List.mem_cons, List.not_mem_nil, or_false, not_or] at h
  refine ⟨_, rfl, State.runOp_get _ _ _ _ _ fun s j => ?_⟩
  dsimp only
  split <;> simp [h]

theorem execDxSlotRead_keeps (j : Nat) (s : State) {fld : Field} (h : fld ∉ ([.jobs, .tables] : List Field)) :
    s.keeps fld (execDxSlotRead j s) := by
  simp only [List.mem_cons, List.not_mem_nil, or_false, not_or] at h
  refine ⟨_, rfl, State.runCmd_get _ _ _ _ fun s j => ?_⟩
  dsimp only
  split <;> simp [h]

theorem execGcmEncrypt_keeps (j : Nat) (inp : Bytes) (s : State) {fld : Field}
(h : fld ∉ ([.jobs, .tables, .ent, .freeCtr] : List Field)) :
    s.keeps fld (execGcmEncrypt j inp s) := by
  simp only [List.mem_cons, List.not_mem_nil, or_false, not_or] at h
  refine ⟨_, rfl, State.runOp_get _ _ _ _ _ fun s j => ?_⟩
  simp [h]

theorem execGcmDecrypt_keeps (j : Nat) (inp : Bytes) (s : State) {fld : Field}
(h : fld ∉ ([.jobs, .tables, .ent] : List Field)) :
    s.keeps fld (execGcmDecrypt j inp s) := by
  simp only [List.mem_cons, List.not_mem_nil, or_false, not_or] at h
  refine ⟨_, rfl, State.runOp_get _ _ _ _ _ fun s j => ?_⟩
  simp [h]

theorem execXtsEncrypt_keeps (j : Nat) (inp : Bytes) (s : State) {fld : Field}
(h : fld ∉ ([.jobs, .tables, .ent] : List Field)) :
    s.keeps fld (execXtsEncrypt j inp s) := by
  simp only [List.mem_cons, List.not_mem_nil, or_false, not_or] at h
  refine ⟨_, rfl, State.runOp_get _ _ _ _ _ fun s j => ?_⟩
  simp [h]

theorem execXtsDecrypt_keeps (j : Nat) (inp : Bytes) (s : State) {fld : Field}
(h : fld ∉ ([.jobs, .tables, .ent] : List Field)) :
    s.keeps fld (execXtsDecrypt j inp s) := by
  simp only [List.mem_cons, List.not_mem_nil, or_false, not_or] at h
  refine ⟨_, rfl, State.runOp_get _ _ _ _ _ fun s j => ?_⟩
  simp [h]

theorem execKwWrap_keeps (j : Nat) (inp : Bytes) (s : State) {fld : Field}
(h : fld ∉ ([.jobs, .tables, .ent] : List Field)) :
    s.keeps fld (execKwWrap j inp s) := by
  simp only [List.mem_cons, List.not_mem_nil, or_false, not_or] at h
  refine ⟨_, rfl, State.runOp_get _ _ _ _ _ fun s j => ?_⟩
  simp [h]

theorem execKwUnwrap_keeps (j : Nat) (inp : Bytes) (s : State) {fld : Field}
(h : fld ∉ ([.jobs, .tables, .ent] : List Field)) :
    s.keeps fld (execKwUnwrap j inp s) := by
  simp only [List.mem_cons, List.not_mem_nil, or_false, not_or] at h
  refine ⟨_, rfl, State.runOp_get _ _ _ _ _ fun s j =>
    State.gated_get _ _ _ _ _ (by simp [h]) fun s j => ?_⟩
  dsimp only
  split <;> simp [h]

theorem execCmac_keeps (j : Nat) (inp : Bytes) (s : State) {fld : Field}
(h : fld ∉ ([.jobs, .tables, .ent] : List Field)) :
    s.keeps fld (execCmac j inp s) := by
  simp only [List.mem_cons, List.not_mem_nil, or_false, not_or] at h
  refine ⟨_, rfl, State.runOp_get _ _ _ _ _ fun s j => ?_⟩
  simp [h]

/-! ### Classic McEliece and HQC -/

theorem execMceKeygen_keeps (j : Nat) (s : State) {fld : Field}
(h : fld ∉ ([.jobs, .store, .tables, .ent, .freeCtr] : List Field)) :
    s.keeps fld (execMceKeygen j s) := by
  simp only [List.mem_cons, List.not_mem_nil, or_false, not_or] at h
  refine ⟨_, rfl, State.runCmd_get _ _ _ _ fun s j =>
    State.gated_get _ _ _ _ _ (by simp [h]) fun s j => ?_⟩
  dsimp only
  split <;> simp [h]

theorem execMceEncaps_keeps (j : Nat) (inp : Bytes) (s : State) {fld : Field}
(h : fld ∉ ([.jobs, .tables, .ent, .freeCtr] : List Field)) :
    s.keeps fld (execMceEncaps j inp s) := by
  simp only [List.mem_cons, List.not_mem_nil, or_false, not_or] at h
  refine ⟨_, rfl, State.runOp_get _ _ _ _ _ fun s j => ?_⟩
  simp [h]

theorem execMceDecaps_keeps (j : Nat) (inp : Bytes) (s : State) {fld : Field}
(h : fld ∉ ([.jobs, .tables, .ent] : List Field)) :
    s.keeps fld (execMceDecaps j inp s) := by
  simp only [List.mem_cons, List.not_mem_nil, or_false, not_or] at h
  refine ⟨_, rfl, State.runOp_get _ _ _ _ _ fun s j => ?_⟩
  dsimp only
  split <;> simp [h]

theorem execMcePkLoad_keeps (j : Nat) (inp : Bytes) (s : State) {fld : Field}
(h : fld ∉ ([.jobs, .store, .tables] : List Field)) :
    s.keeps fld (execMcePkLoad j inp s) := by
  simp only [List.mem_cons, List.not_mem_nil, or_false, not_or] at h
  simp [execMcePkLoad, h]

theorem execHqcKeygen_keeps (j : Nat) (s : State) {fld : Field} (h : fld ∉ ([.jobs, .tables, .ent] : List Field)) :
    s.keeps fld (execHqcKeygen j s) := by
  simp only [List.mem_cons, List.not_mem_nil, or_false, not_or] at h
  refine ⟨_, rfl, State.runCmd_get _ _ _ _ fun s j => ?_⟩
  simp [h]

theorem execHqcEncaps_keeps (j : Nat) (inp : Bytes) (s : State) {fld : Field}
(h : fld ∉ ([.jobs, .tables, .ent, .freeCtr] : List Field)) :
    s.keeps fld (execHqcEncaps j inp s) := by
  simp only [List.mem_cons, List.not_mem_nil, or_false, not_or] at h
  refine ⟨_, rfl, State.runOp_get _ _ _ _ _ fun s j => ?_⟩
  split <;> simp [h]

theorem execHqcDecaps_keeps (j : Nat) (inp : Bytes) (s : State) {fld : Field}
(h : fld ∉ ([.jobs, .tables, .ent] : List Field)) :
    s.keeps fld (execHqcDecaps j inp s) := by
  simp only [List.mem_cons, List.not_mem_nil, or_false, not_or] at h
  refine ⟨_, rfl, State.runOp_get _ _ _ _ _ fun s j => ?_⟩
  split <;> simp [h]

/-! ### Contexts, images and migration -/

theorem execCtxCreate_keeps (j : Nat) (s : State) {fld : Field} (h : fld ∉ ([.jobs, .keys, .tables] : List Field)) :
    s.keeps fld (execCtxCreate j s) := by
  simp only [List.mem_cons, List.not_mem_nil, or_false, not_or] at h
  refine ⟨_, rfl, State.runCmd_get _ _ _ _ fun s j => ?_⟩
  repeat' split
  all_goals simp [h]

theorem execCtxQuery_keeps (j : Nat) (s : State) {fld : Field} (h : fld ∉ ([.jobs, .tables] : List Field)) :
    s.keeps fld (execCtxQuery j s) := by
  simp only [List.mem_cons, List.not_mem_nil, or_false, not_or] at h
  simp [execCtxQuery, h]

theorem execInvalidate_keeps (j : Nat) (s : State) {fld : Field}
(h : fld ∉ ([.keeper, .jobs, .keys, .tables] : List Field)) :
    s.keeps fld (execInvalidate j s) := by
  simp only [List.mem_cons, List.not_mem_nil, or_false, not_or] at h
  simp [execInvalidate, h]

theorem execInvalidateBarrier_keeps (j : Nat) (s : State) {fld : Field} (h : fld ∉ ([.jobs, .tables] : List Field)) :
    s.keeps fld (execInvalidateBarrier j s) := by
  simp only [List.mem_cons, List.not_mem_nil, or_false, not_or] at h
  unfold execInvalidateBarrier
  repeat' split
  all_goals simp [h]

theorem execSweep_keeps (j : Nat) (s : State) {fld : Field} (h : fld ∉ ([.keeper, .jobs, .keys, .tables] : List Field)) :
    s.keeps fld (execSweep j s) := by
  simp only [List.mem_cons, List.not_mem_nil, or_false, not_or] at h
  refine ⟨_, rfl, State.nvOp_get _ _ _ _ _ fun s j => ?_⟩
  simp [h]

theorem execScopeSet_keeps (j : Nat) (s : State) {fld : Field} (h : fld ∉ ([.jobs, .keys, .tables] : List Field)) :
    s.keeps fld (execScopeSet j s) := by
  simp only [List.mem_cons, List.not_mem_nil, or_false, not_or] at h
  simp [execScopeSet, h]

theorem execContextImageSave_keeps (j : Nat) (s : State) {fld : Field}
(h : fld ∉ ([.keeper, .jobs, .tables, .ent, .freeCtr] : List Field)) :
    s.keeps fld (execContextImageSave j s) := by
  simp only [List.mem_cons, List.not_mem_nil, or_false, not_or] at h
  refine ⟨_, rfl, State.nvOp_get _ _ _ _ _ fun s j => ?_⟩
  simp [h]

theorem execContextImageCommit_keeps (j : Nat) (s : State) {fld : Field}
(h : fld ∉ ([.keeper, .jobs, .tables] : List Field)) :
    s.keeps fld (execContextImageCommit j s) := by
  simp only [List.mem_cons, List.not_mem_nil, or_false, not_or] at h
  simp [execContextImageCommit, h]

theorem execContextImageLoad_keeps (j : Nat) (inp : Bytes) (s : State) {fld : Field}
(h : fld ∉ ([.keeper, .jobs, .keys, .tables, .ent] : List Field)) :
    s.keeps fld (execContextImageLoad j inp s) := by
  simp only [List.mem_cons, List.not_mem_nil, or_false, not_or] at h
  refine ⟨_, rfl, State.nvOp_get _ _ _ _ _ fun s j => ?_⟩
  simp [h]

theorem execExternalWrap_keeps (j : Nat) (inp : Bytes) (s : State) {fld : Field}
(h : fld ∉ ([.jobs, .tables, .ent] : List Field)) :
    s.keeps fld (execExternalWrap j inp s) := by
  simp only [List.mem_cons, List.not_mem_nil, or_false, not_or] at h
  refine ⟨_, rfl, State.runOp_get _ _ _ _ _ fun s j => ?_⟩
  simp [h]

theorem execKeyExport_keeps (j : Nat) (s : State) {fld : Field} (h : fld ∉ ([.jobs, .tables, .ent] : List Field)) :
    s.keeps fld (execKeyExport j s) := by
  simp only [List.mem_cons, List.not_mem_nil, or_false, not_or] at h
  refine ⟨_, rfl, State.runCmd_get _ _ _ _ fun s j => ?_⟩
  simp [h]

theorem execStatefulQuery_keeps (j : Nat) (s : State) {fld : Field} (h : fld ∉ ([.jobs, .tables] : List Field)) :
    s.keeps fld (execStatefulQuery j s) := by
  simp only [List.mem_cons, List.not_mem_nil, or_false, not_or] at h
  simp [execStatefulQuery, h]

theorem execMigrateStatement_keeps (j : Nat) (inp : Bytes) (s : State) {fld : Field}
(h : fld ∉ ([.keeper, .jobs, .tables, .ent, .freeCtr] : List Field)) :
    s.keeps fld (execMigrateStatement j inp s) := by
  simp only [List.mem_cons, List.not_mem_nil, or_false, not_or] at h
  refine ⟨_, rfl, State.nvOp_get _ _ _ _ _ fun s j => ?_⟩
  simp [h]

theorem execMigrateExportNonce_keeps (j : Nat) (s : State) {fld : Field}
(h : fld ∉ ([.keeper, .jobs, .tables, .ent, .freeCtr] : List Field)) :
    s.keeps fld (execMigrateExportNonce j s) := by
  simp only [List.mem_cons, List.not_mem_nil, or_false, not_or] at h
  refine ⟨_, rfl, State.nvOp_get _ _ _ _ _ fun s j => ?_⟩
  simp [h]

theorem execMigrateExport_keeps (j : Nat) (inp : Bytes) (s : State) {fld : Field}
(h : fld ∉ ([.keeper, .jobs, .keys, .tables, .ent, .freeCtr] : List Field)) :
    s.keeps fld (execMigrateExport j inp s) := by
  simp only [List.mem_cons, List.not_mem_nil, or_false, not_or] at h
  refine ⟨_, rfl, State.nvOp_get _ _ _ _ _ fun s j => ?_⟩
  simp [h]

theorem execMigrateImport_keeps (j : Nat) (inp : Bytes) (s : State) {fld : Field}
(h : fld ∉ ([.keeper, .jobs, .keys, .tables, .ent] : List Field)) :
    s.keeps fld (execMigrateImport j inp s) := by
  simp only [List.mem_cons, List.not_mem_nil, or_false, not_or] at h
  refine ⟨_, rfl, State.nvOp_get _ _ _ _ _ fun s j => ?_⟩
  dsimp only
  split
  · simp [h]
  · split
    · simp [h]
    · refine State.gated_get _ _ _ _ _ (by simp [h]) fun s j => ?_
      split <;> simp [h]

/-! ### Supplies and thermal events -/

theorem execVinRestored_keeps (mv : Nat) (straps : Straps) (chk : KeeperCheck) (s : State) {fld : Field}
(h : fld ∉ ([.power, .thermal, .boot, .keeper, .logs, .fuses, .guard, .fns, .mgmt, .queues, .jobs, .sched, .keys, .store,
      .tables, .dru, .ent, .flt, .upd, .freeCtr, .out] : List Field)) :
    s.keeps fld (execVinRestored mv straps chk s) := by
  simp only [List.mem_cons, List.not_mem_nil, or_false, not_or] at h
  simp [execVinRestored, h]

/-- The state as the loss of VIN leaves it, but for DEV_BOOT (R80). -/
def State.loseVin (s : State) : State :=
  let d := s.clearDie.guardReset.resetFns
  ((d.mapPower fun p => { p with vinValid := false, averaged := false, nvOk := false, pfHold := false, tierFloor := 0 }).mapBoot
      fun b => { b with stage := .off, link := .down, cut := false, islandLost := !d.power.vbatOk }).mapLogs
    fun l => if d.power.vbatOk then l else { l with latched := [], overLatch := 0 }

theorem execUndervoltage_valid {s : State} (h : s.power.vinValid = true) :
    execUndervoltage s = .next (if s.cdRunning then s.loseVin.setCode 0x8009 0 else s.loseVin) := by
  simp only [execUndervoltage, h, Bool.not_true, Bool.false_eq_true, if_false]
  rfl

theorem execUndervoltage_keeps (s : State) {fld : Field}
(h : fld ∉ ([.power, .boot, .logs, .guard, .fns, .mgmt, .queues, .jobs, .sched, .keys, .store, .tables, .dru, .ent, .flt,
      .upd, .out] : List Field)) :
    s.keeps fld (execUndervoltage s) := by
  simp only [List.mem_cons, List.not_mem_nil, or_false, not_or] at h
  by_cases hv : s.power.vinValid
  · rw [execUndervoltage_valid hv]
    simp [State.loseVin, h]
  · simp [execUndervoltage, hv]

theorem execVinAverage_keeps (mv : Nat) (s : State) {fld : Field} (h : fld ∉ ([.power, .out] : List Field)) :
    s.keeps fld (execVinAverage mv s) := by
  simp only [List.mem_cons, List.not_mem_nil, or_false, not_or] at h
  simp [execVinAverage, h]

theorem execVinTierDwellExpired_keeps (minMv : Nat) (s : State) {fld : Field} (h : fld ∉ ([.power, .out] : List Field)) :
    s.keeps fld (execVinTierDwellExpired minMv s) := by
  simp only [List.mem_cons, List.not_mem_nil, or_false, not_or] at h
  simp [execVinTierDwellExpired, h]

theorem execPwrLimitWrite_keeps (value : BitVec 64) (s : State) {fld : Field} (h : fld ∉ ([.power, .out] : List Field)) :
    s.keeps fld (execPwrLimitWrite value s) := by
  simp only [List.mem_cons, List.not_mem_nil, or_false, not_or] at h
  simp [execPwrLimitWrite, h]

theorem execPwrfailAssert_keeps (s : State) {fld : Field}
(h : fld ∉ ([.power, .boot, .fns, .mgmt, .flt, .out] : List Field)) :
    s.keeps fld (execPwrfailAssert s) := by
  simp only [List.mem_cons, List.not_mem_nil, or_false, not_or] at h
  simp [execPwrfailAssert, h]

theorem execPfHoldEnd_keeps (s : State) (passed : Bool) {fld : Field}
(h : fld ∉ ([.power, .boot, .keeper, .mgmt, .jobs, .flt, .out] : List Field)) :
    s.keeps fld (execPfHoldEnd s passed) := by
  simp only [List.mem_cons, List.not_mem_nil, or_false, not_or] at h
  simp [execPfHoldEnd, h]

theorem execNvOkSet_keeps (s : State) {fld : Field} (h : fld ∉ ([.power] : List Field)) :
    s.keeps fld (execNvOkSet s) := by
  simp only [List.mem_cons, List.not_mem_nil, or_false] at h
  simp [execNvOkSet, h]

theorem execTjSample_keeps (code : BitVec 8) (s : State) {fld : Field}
(h : fld ∉ ([.thermal, .fns, .jobs, .flt, .out] : List Field)) :
    s.keeps fld (execTjSample code s) := by
  simp only [List.mem_cons, List.not_mem_nil, or_false, not_or] at h
  simp [execTjSample, h]

theorem execThrottleStep_keeps (s : State) {fld : Field} (h : fld ∉ ([.thermal, .fns, .flt, .out] : List Field)) :
    s.keeps fld (execThrottleStep s) := by
  simp only [List.mem_cons, List.not_mem_nil, or_false, not_or] at h
  simp [execThrottleStep, h]

theorem execThrottleRelease_keeps (s : State) {fld : Field} (h : fld ∉ ([.thermal, .out] : List Field)) :
    s.keeps fld (execThrottleRelease s) := by
  simp only [List.mem_cons, List.not_mem_nil, or_false, not_or] at h
  simp [execThrottleRelease, h]

theorem execDevThermRead_keeps (s : State) {fld : Field} (h : fld ∉ ([.thermal, .out] : List Field)) :
    s.keeps fld (execDevThermRead s) := by
  simp only [List.mem_cons, List.not_mem_nil, or_false, not_or] at h
  simp [execDevThermRead, h]

theorem execMramRefresh_keeps (s : State) (fld : Field) : s.keeps fld (execMramRefresh s) := by
  simp [execMramRefresh]

theorem execVbatRemoved_keeps (s : State) {fld : Field} (h : fld ∉ ([.power, .boot, .logs] : List Field)) :
    s.keeps fld (execVbatRemoved s) := by
  simp only [List.mem_cons, List.not_mem_nil, or_false, not_or] at h
  simp [execVbatRemoved, h]

theorem execVbatApplied_keeps (s : State) {fld : Field} (h : fld ∉ ([.power] : List Field)) :
    s.keeps fld (execVbatApplied s) := by
  simp only [List.mem_cons, List.not_mem_nil, or_false] at h
  simp [execVbatApplied, h]

/-! ### Start-up -/

theorem execRailsStart_keeps (pwrfailHigh : Bool) (s : State) {fld : Field}
(h : fld ∉ ([.power, .boot, .mgmt, .flt, .out] : List Field)) :
    s.keeps fld (execRailsStart pwrfailHigh s) := by
  simp only [List.mem_cons, List.not_mem_nil, or_false, not_or] at h
  simp [execRailsStart, h]

theorem execRailsUp_keeps (s : State) {fld : Field} (h : fld ∉ ([.boot, .keeper, .mgmt, .dru, .flt, .out] : List Field)) :
    s.keeps fld (execRailsUp s) := by
  simp only [List.mem_cons, List.not_mem_nil, or_false, not_or] at h
  simp [execRailsUp, h]

theorem execRailFault_keeps (rail : BitVec 16) (s : State) {fld : Field}
(h : fld ∉ ([.boot, .guard, .mgmt, .flt, .out] : List Field)) :
    s.keeps fld (execRailFault rail s) := by
  simp only [List.mem_cons, List.not_mem_nil, or_false, not_or] at h
  simp [execRailFault, h]

theorem execFusesSensed_keeps (margins : List MarginRead) (s : State) {fld : Field}
(h : fld ∉ ([.boot, .keeper, .logs, .fuses, .guard, .fns, .mgmt, .flt, .out] : List Field)) :
    s.keeps fld (execFusesSensed margins s) := by
  simp only [List.mem_cons, List.not_mem_nil, or_false, not_or] at h
  unfold execFusesSensed
  dsimp only
  repeat' split
  all_goals simp [h]

theorem execLcRollForward_keeps (s : State) {fld : Field}
(h : fld ∉ ([.boot, .keeper, .logs, .fuses, .guard, .fns, .mgmt, .flt, .out] : List Field)) :
    s.keeps fld (execLcRollForward s) := by
  simp only [List.mem_cons, List.not_mem_nil, or_false, not_or] at h
  unfold execLcRollForward
  repeat' split
  all_goals simp [h]

theorem execRootDisableAtStart_keeps (s : State) {fld : Field}
(h : fld ∉ ([.boot, .logs, .fuses, .fns, .mgmt, .flt, .out] : List Field)) :
    s.keeps fld (execRootDisableAtStart s) := by
  simp only [List.mem_cons, List.not_mem_nil, or_false, not_or] at h
  unfold execRootDisableAtStart
  split <;> simp [h]

theorem execBundleVerify_keeps (recoverLow : Bool) (s : State) (romOk : Bool) {fld : Field}
(h : fld ∉ ([.boot, .logs, .fuses, .guard, .fns, .mgmt, .flt, .freeCtr, .out] : List Field)) :
    s.keeps fld (execBundleVerify recoverLow s romOk) := by
  simp only [List.mem_cons, List.not_mem_nil, or_false, not_or] at h
  simp [execBundleVerify, h]

theorem execActivationRollForward_keeps (s : State) {fld : Field}
(h : fld ∉ ([.boot, .keeper, .logs, .fuses, .fns, .mgmt, .store, .flt, .upd, .out] : List Field)) :
    s.keeps fld (execActivationRollForward s) := by
  simp only [List.mem_cons, List.not_mem_nil, or_false, not_or] at h
  unfold execActivationRollForward
  split <;> simp [h]

theorem execFwStart_keeps (katOk : Bool) (blobVersion : Nat) (s : State) {fld : Field}
(h : fld ∉ ([.boot, .keeper, .logs, .guard, .fns, .mgmt, .keys, .store, .tables, .ent, .flt, .upd, .out] : List Field)) :
    s.keeps fld (execFwStart katOk blobVersion s) := by
  simp only [List.mem_cons, List.not_mem_nil, or_false, not_or] at h
  simp [execFwStart, h]

theorem execServiceReady_keeps (s : State) {fld : Field} (h : fld ∉ ([.boot, .mgmt, .dru, .flt, .out] : List Field)) :
    s.keeps fld (execServiceReady s) := by
  simp only [List.mem_cons, List.not_mem_nil, or_false, not_or] at h
  simp [execServiceReady, h]

theorem execEntropySamplingEnd_keeps (katOk : Bool) (s : State) {fld : Field}
(h : fld ∉ ([.logs, .fns, .mgmt, .jobs, .tables, .ent, .flt, .out] : List Field)) :
    s.keeps fld (execEntropySamplingEnd katOk s) := by
  simp only [List.mem_cons, List.not_mem_nil, or_false, not_or] at h
  simp [execEntropySamplingEnd, h]

theorem execDrbgInstantiate_keeps (katOk : Bool) (s : State) {fld : Field}
(h : fld ∉ ([.boot, .mgmt, .dru, .ent, .flt, .freeCtr, .out] : List Field)) :
    s.keeps fld (execDrbgInstantiate katOk s) := by
  simp only [List.mem_cons, List.not_mem_nil, or_false, not_or] at h
  simp [execDrbgInstantiate, h]

theorem execLinkTraining_keeps (s : State) {fld : Field} (h : fld ∉ ([.boot] : List Field)) :
    s.keeps fld (execLinkTraining s) := by
  simp only [List.mem_cons, List.not_mem_nil, or_false] at h
  simp [execLinkTraining, h]

theorem execLinkTrainingComplete_keeps (s : State) {fld : Field} (h : fld ∉ ([.boot] : List Field)) :
    s.keeps fld (execLinkTrainingComplete s) := by
  simp only [List.mem_cons, List.not_mem_nil, or_false] at h
  simp [execLinkTrainingComplete, h]

theorem execLoaderConfigTakeover_keeps (s : State) {fld : Field} (h : fld ∉ ([.boot] : List Field)) :
    s.keeps fld (execLoaderConfigTakeover s) := by
  simp only [List.mem_cons, List.not_mem_nil, or_false] at h
  simp [execLoaderConfigTakeover, h]

/-! ### Fuses and the life cycle -/

theorem execFuseProgram_keeps (j : Nat) (inp : Bytes) (badWord : Option Nat) (s : State) {fld : Field}
(h : fld ∉ ([.fuses, .jobs, .tables, .ent, .freeCtr] : List Field)) :
    s.keeps fld (execFuseProgram j inp badWord s) := by
  simp only [List.mem_cons, List.not_mem_nil, or_false, not_or] at h
  refine ⟨_, rfl, State.nvOp_get _ _ _ _ _ fun s j => ?_⟩
  split
  · exact State.gated_get _ _ _ _ _ (by simp [h]) fun s j => by simp [h]
  · dsimp only
    split
    · simp [h]
    · split
      · simp [h]
      · split <;> (rename_i e; simp [State.burnSeq_of e, h])

theorem execFuseLock_keeps (j : Nat) (badWord : Option Nat) (s : State) {fld : Field}
(h : fld ∉ ([.fuses, .jobs, .tables, .freeCtr] : List Field)) :
    s.keeps fld (execFuseLock j badWord s) := by
  simp only [List.mem_cons, List.not_mem_nil, or_false, not_or] at h
  refine ⟨_, rfl, State.nvOp_get _ _ _ _ _ fun s j => ?_⟩
  dsimp only
  split
  · simp [h]
  · split
    · simp [h]
    · split <;> (rename_i e; simp [State.burnSeq_of e, h])

theorem execDebugNonce_keeps (j : Nat) (s : State) {fld : Field} (h : fld ∉ ([.keeper, .jobs, .tables] : List Field)) :
    s.keeps fld (execDebugNonce j s) := by
  simp only [List.mem_cons, List.not_mem_nil, or_false, not_or] at h
  simp [execDebugNonce, h]

theorem execDebugCert_keeps (j : Nat) (inp : Bytes) (s : State) {fld : Field}
(h : fld ∉ ([.keeper, .jobs, .keys, .store, .tables] : List Field)) :
    s.keeps fld (execDebugCert j inp s) := by
  simp only [List.mem_cons, List.not_mem_nil, or_false, not_or] at h
  refine ⟨_, rfl, State.nvOp_get _ _ _ _ _ fun s j => ?_⟩
  split <;> simp [h]

theorem execLcTransition_keeps (j : Nat) (inp : Bytes) (s : State) (badWord : Option Nat) {fld : Field}
(h : fld ∉ ([.boot, .keeper, .logs, .fuses, .guard, .fns, .mgmt, .queues, .jobs, .sched, .keys, .store, .tables, .dru,
      .ent, .flt, .upd, .freeCtr, .out] : List Field)) :
    s.keeps fld (execLcTransition j inp s badWord) := by
  simp only [List.mem_cons, List.not_mem_nil, or_false, not_or] at h
  refine ⟨_, rfl, State.nvOp_get _ _ _ _ _ fun s j => ?_⟩
  split <;> simp [h]

theorem execOwnerTransfer_keeps (j : Nat) (s : State) (badWord : Option Nat) {fld : Field}
(h : fld ∉ ([.keeper, .fuses, .fns, .mgmt, .jobs, .keys, .store, .tables, .freeCtr] : List Field)) :
    s.keeps fld (execOwnerTransfer j s badWord) := by
  simp only [List.mem_cons, List.not_mem_nil, or_false, not_or] at h
  refine ⟨_, rfl, State.nvOp_get _ _ _ _ _ fun s j => State.tripProgram_get _ _ _ _ _ (by simp [h]) fun s => ?_⟩
  simp [h]

/-! ### Control commands and the TAP -/

theorem execRootImport_keeps (j : Nat) (inp : Bytes) (s : State) {fld : Field}
(h : fld ∉ ([.jobs, .keys, .tables, .ent] : List Field)) :
    s.keeps fld (execRootImport j inp s) := by
  simp only [List.mem_cons, List.not_mem_nil, or_false, not_or] at h
  refine ⟨_, rfl, State.runOp_get _ _ _ _ _ fun s j => ?_⟩
  simp [h]

theorem execRootGenerate_keeps (j : Nat) (s : State) {fld : Field}
(h : fld ∉ ([.jobs, .keys, .tables, .ent, .freeCtr] : List Field)) :
    s.keeps fld (execRootGenerate j s) := by
  simp only [List.mem_cons, List.not_mem_nil, or_false, not_or] at h
  refine ⟨_, rfl, State.runCmd_get _ _ _ _ fun s j => ?_⟩
  simp [h]

theorem execRootSpoil_keeps (j : Nat) (s : State) {fld : Field}
(h : fld ∉ ([.keeper, .jobs, .keys, .tables] : List Field)) :
    s.keeps fld (execRootSpoil j s) := by
  simp only [List.mem_cons, List.not_mem_nil, or_false, not_or] at h
  simp [execRootSpoil, h]

theorem execOpstoreConfig_keeps (j : Nat) (inp : Bytes) (s : State) {fld : Field}
(h : fld ∉ ([.jobs, .store, .tables] : List Field)) :
    s.keeps fld (execOpstoreConfig j inp s) := by
  simp only [List.mem_cons, List.not_mem_nil, or_false, not_or] at h
  refine ⟨_, rfl, State.nvOp_get _ _ _ _ _ fun s j => ?_⟩
  dsimp only
  repeat' split
  all_goals simp [h]

theorem execSlotGrant_keeps (j : Nat) (s : State) {fld : Field} (h : fld ∉ ([.jobs, .store, .tables] : List Field)) :
    s.keeps fld (execSlotGrant j s) := by
  simp only [List.mem_cons, List.not_mem_nil, or_false, not_or] at h
  refine ⟨_, rfl, State.nvOp_get _ _ _ _ _ fun s j => ?_⟩
  dsimp only
  repeat' split
  all_goals simp [h]

theorem execCounterReestablish_keeps (j : Nat) (inp : Bytes) (s : State) {fld : Field}
(h : fld ∉ ([.power, .boot, .keeper, .logs, .guard, .fns, .mgmt, .queues, .jobs, .sched, .keys, .store, .tables, .dru,
      .ent, .flt, .upd, .freeCtr, .out] : List Field)) :
    s.keeps fld (execCounterReestablish j inp s) := by
  simp only [List.mem_cons, List.not_mem_nil, or_false, not_or] at h
  simp [execCounterReestablish, h]

theorem execTimeSet_keeps (j : Nat) (s : State) {fld : Field} (h : fld ∉ ([.boot, .jobs, .tables, .upd] : List Field)) :
    s.keeps fld (execTimeSet j s) := by
  simp only [List.mem_cons, List.not_mem_nil, or_false, not_or] at h
  simp [execTimeSet, h]

theorem execTimeSetTimeout_keeps (j : Nat) (s : State) {fld : Field} (h : fld ∉ ([.jobs, .tables] : List Field)) :
    s.keeps fld (execTimeSetTimeout j s) := by
  simp only [List.mem_cons, List.not_mem_nil, or_false, not_or] at h
  unfold execTimeSetTimeout
  split <;> simp [h]

theorem execPpsEdge_keeps (s : State) {fld : Field} (h : fld ∉ ([.boot, .jobs, .tables, .upd] : List Field)) :
    s.keeps fld (execPpsEdge s) := by
  simp only [List.mem_cons, List.not_mem_nil, or_false, not_or] at h
  simp [execPpsEdge, h]

theorem execEventLogRead_keeps (j : Nat) (s : State) {fld : Field} (h : fld ∉ ([.jobs, .tables] : List Field)) :
    s.keeps fld (execEventLogRead j s) := by
  simp only [List.mem_cons, List.not_mem_nil, or_false, not_or] at h
  simp [execEventLogRead, h]

theorem execSpoilNow_keeps (j : Nat) (s : State) {fld : Field}
(h : fld ∉ ([.logs, .fuses, .fns, .mgmt, .jobs, .keys, .store, .tables, .dru, .ent, .flt, .upd, .freeCtr, .out] : List
      Field)) :
    s.keeps fld (execSpoilNow j s) := by
  simp only [List.mem_cons, List.not_mem_nil, or_false, not_or] at h
  simp [execSpoilNow, h]

theorem execTapBypass_keeps (s : State) {fld : Field} (h : fld ∉ ([.flt] : List Field)) :
    s.keeps fld (execTapBypass s) := by
  simp only [List.mem_cons, List.not_mem_nil, or_false] at h
  simp [execTapBypass, h]

theorem execTapIdcode_keeps (s : State) {fld : Field} (h : fld ∉ ([.flt, .out] : List Field)) :
    s.keeps fld (execTapIdcode s) := by
  simp only [List.mem_cons, List.not_mem_nil, or_false, not_or] at h
  simp [execTapIdcode, h]

theorem execTapSamplePreload_keeps (s : State) {fld : Field} (h : fld ∉ ([.flt, .out] : List Field)) :
    s.keeps fld (execTapSamplePreload s) := by
  simp only [List.mem_cons, List.not_mem_nil, or_false, not_or] at h
  simp [execTapSamplePreload, h]

theorem execTapExtest_keeps (s : State) {fld : Field} (h : fld ∉ ([.flt, .out] : List Field)) :
    s.keeps fld (execTapExtest s) := by
  simp only [List.mem_cons, List.not_mem_nil, or_false, not_or] at h
  simp [execTapExtest, h]

theorem execTapDebugInstruction_keeps (f : TapFunction) (s : State) {fld : Field}
(h : fld ∉ ([.flt, .out] : List Field)) :
    s.keeps fld (execTapDebugInstruction f s) := by
  simp only [List.mem_cons, List.not_mem_nil, or_false, not_or] at h
  simp [execTapDebugInstruction, h]

theorem execMfgCmd_keeps (entry input : Bytes) (s : State) {fld : Field}
(h : fld ∉ ([.queues, .sched, .flt, .out] : List Field)) :
    s.keeps fld (execMfgCmd entry input s) := by
  simp only [List.mem_cons, List.not_mem_nil, or_false, not_or] at h
  simp [execMfgCmd, h]

theorem execMfgRsp_keeps (s : State) {fld : Field} (h : fld ∉ ([.flt, .out] : List Field)) :
    s.keeps fld (execMfgRsp s) := by
  simp only [List.mem_cons, List.not_mem_nil, or_false, not_or] at h
  simp [execMfgRsp, h]

theorem execHighHalfWaitTimeout_keeps (j : Nat) (s : State) {fld : Field}
(h : fld ∉ ([.jobs, .store, .tables, .upd] : List Field)) :
    s.keeps fld (execHighHalfWaitTimeout j s) := by
  simp only [List.mem_cons, List.not_mem_nil, or_false, not_or] at h
  unfold execHighHalfWaitTimeout
  repeat' split
  all_goals simp [h]

/-! ### The digest register unit -/

theorem execDruClaim_keeps (tag : BitVec 8) (page : Bool) (s : State) (who : DruClaimant) {fld : Field}
(h : fld ∉ ([.dru, .flt, .out] : List Field)) :
    s.keeps fld (execDruClaim tag page s who) := by
  simp only [List.mem_cons, List.not_mem_nil, or_false, not_or] at h
  unfold execDruClaim
  split <;> simp [h]

theorem execDruRelease_keeps (page : Bool) (s : State) (who : DruSide) {fld : Field}
(h : fld ∉ ([.dru, .flt, .out] : List Field)) :
    s.keeps fld (execDruRelease page s who) := by
  simp only [List.mem_cons, List.not_mem_nil, or_false, not_or] at h
  simp [execDruRelease, h]

theorem execDruStart_keeps (alg : BitVec 4) (sealed page : Bool) (s : State) (who : DruSide) {fld : Field}
(h : fld ∉ ([.dru, .flt, .out] : List Field)) :
    s.keeps fld (execDruStart alg sealed page s who) := by
  simp only [List.mem_cons, List.not_mem_nil, or_false, not_or] at h
  simp [execDruStart, h]

theorem execDruRestore_keeps (sealed page : Bool) (s : State) {fld : Field}
(h : fld ∉ ([.dru, .flt, .out] : List Field)) :
    s.keeps fld (execDruRestore sealed page s) := by
  simp only [List.mem_cons, List.not_mem_nil, or_false, not_or] at h
  simp [execDruRestore, h]

theorem execDruSave_keeps (page : Bool) (s : State) {fld : Field} (h : fld ∉ ([.dru, .flt, .out] : List Field)) :
    s.keeps fld (execDruSave page s) := by
  simp only [List.mem_cons, List.not_mem_nil, or_false, not_or] at h
  simp [execDruSave, h]

theorem execDruPageSelect_keeps (page : Bool) (s : State) {fld : Field} (h : fld ∉ ([.dru, .flt, .out] : List Field)) :
    s.keeps fld (execDruPageSelect page s) := by
  simp only [List.mem_cons, List.not_mem_nil, or_false, not_or] at h
  simp [execDruPageSelect, h]

theorem execDruSaveDone_keeps (s : State) {fld : Field} (h : fld ∉ ([.dru, .freeCtr] : List Field)) :
    s.keeps fld (execDruSaveDone s) := by
  simp only [List.mem_cons, List.not_mem_nil, or_false, not_or] at h
  simp [execDruSaveDone, h]

theorem execDruDataWrite_keeps (size : Nat) (word : BitVec 64) (s : State) (who : DruSide) {fld : Field}
(h : fld ∉ ([.dru, .flt, .out] : List Field)) :
    s.keeps fld (execDruDataWrite size word s who) := by
  simp only [List.mem_cons, List.not_mem_nil, or_false, not_or] at h
  simp [execDruDataWrite, h]

theorem execDruLastcntWrite_keeps (count : BitVec 4) (s : State) (who : DruSide) {fld : Field}
(h : fld ∉ ([.dru, .flt, .out] : List Field)) :
    s.keeps fld (execDruLastcntWrite count s who) := by
  simp only [List.mem_cons, List.not_mem_nil, or_false, not_or] at h
  simp [execDruLastcntWrite, h]

theorem execDruLastWrite_keeps (size : Nat) (word : BitVec 64) (s : State) (who : DruSide) {fld : Field}
(h : fld ∉ ([.dru, .flt, .out] : List Field)) :
    s.keeps fld (execDruLastWrite size word s who) := by
  simp only [List.mem_cons, List.not_mem_nil, or_false, not_or] at h
  simp [execDruLastWrite, h]

theorem execDruFinishDone_keeps (s : State) {fld : Field} (h : fld ∉ ([.dru] : List Field)) :
    s.keeps fld (execDruFinishDone s) := by
  simp only [List.mem_cons, List.not_mem_nil, or_false] at h
  simp [execDruFinishDone, h]

theorem execDruExpectWrite_keeps (index : Nat) (value : BitVec 64) (s : State) {fld : Field}
(h : fld ∉ ([.jobs, .tables, .dru, .flt, .out] : List Field)) :
    s.keeps fld (execDruExpectWrite index value s) := by
  simp only [List.mem_cons, List.not_mem_nil, or_false, not_or] at h
  simp [execDruExpectWrite, h]

theorem execDruResultRead_keeps (index : Option Nat) (doneThisCycle : Bool) (s : State) (part : ReadPart) {fld : Field}
(h : fld ∉ ([.jobs, .tables, .dru, .flt, .out] : List Field)) :
    s.keeps fld (execDruResultRead index doneThisCycle s part) := by
  simp only [List.mem_cons, List.not_mem_nil, or_false, not_or] at h
  simp [execDruResultRead, h]

/-! ### Entropy -/

theorem execBlockRelease_keeps (s : State) {fld : Field} (h : fld ∉ ([.ent] : List Field)) :
    s.keeps fld (execBlockRelease s) := by
  simp only [List.mem_cons, List.not_mem_nil, or_false] at h
  simp [execBlockRelease, h]

theorem execPairFailure_keeps (osc : Nat) (test : HealthTest) (partner : Option Nat) (s : State) {fld : Field}
(h : fld ∉ ([.logs, .fns, .mgmt, .jobs, .tables, .ent, .flt, .freeCtr, .out] : List Field)) :
    s.keeps fld (execPairFailure osc test partner s) := by
  simp only [List.mem_cons, List.not_mem_nil, or_false, not_or] at h
  simp [execPairFailure, h]

theorem execRetestPass_keeps (pair : Nat) (s : State) {fld : Field} (h : fld ∉ ([.ent] : List Field)) :
    s.keeps fld (execRetestPass pair s) := by
  simp only [List.mem_cons, List.not_mem_nil, or_false] at h
  unfold execRetestPass
  dsimp only
  repeat' split
  all_goals simp [h]

theorem execRandom_keeps (j : Nat) (inp : Bytes) (s : State) {fld : Field}
(h : fld ∉ ([.jobs, .tables, .ent, .freeCtr] : List Field)) :
    s.keeps fld (execRandom j inp s) := by
  simp only [List.mem_cons, List.not_mem_nil, or_false, not_or] at h
  refine ⟨_, rfl, State.runOp_get _ _ _ _ _ fun s j =>
    State.gated_get _ _ _ _ _ (by simp [h]) fun s j => ?_⟩
  split <;> simp [h]

theorem execRandomCapStep_keeps (s : State) {fld : Field} (h : fld ∉ ([.tables] : List Field)) :
    s.keeps fld (execRandomCapStep s) := by
  simp only [List.mem_cons, List.not_mem_nil, or_false] at h
  simp [execRandomCapStep, h]

theorem execNoiseRead_keeps (j : Nat) (s : State) {fld : Field} (h : fld ∉ ([.jobs, .tables, .freeCtr] : List Field)) :
    s.keeps fld (execNoiseRead j s) := by
  simp only [List.mem_cons, List.not_mem_nil, or_false, not_or] at h
  simp [execNoiseRead, h]

/-! ### The platform guard -/

theorem execFlashResetWaitEnd_keeps (port : Port) (answers : List (Chip × Option Bytes)) (s : State) {fld : Field}
(h : fld ∉ ([.logs, .guard, .fns, .mgmt, .jobs, .tables, .flt, .out] : List Field)) :
    s.keeps fld (execFlashResetWaitEnd port answers s) := by
  simp only [List.mem_cons, List.not_mem_nil, or_false, not_or] at h
  unfold execFlashResetWaitEnd
  refine ⟨_, rfl, ?_⟩
  split
  · rfl
  · split
    · rfl
    · refine State.guardly_get _ _ (by simp [h]) fun s => ?_
      simp [h]

theorem execManifestReadDone_keeps (d : Nat) (bytes : Bytes) (s : State) {fld : Field}
(h : fld ∉ ([.keeper, .logs, .guard, .fns, .mgmt, .jobs, .tables, .flt, .out] : List Field)) :
    s.keeps fld (execManifestReadDone d bytes s) := by
  simp only [List.mem_cons, List.not_mem_nil, or_false, not_or] at h
  refine ⟨_, rfl, ?_⟩
  split
  · rfl
  · refine State.guardly_get _ _ (by simp [h]) fun s => ?_
    dsimp only
    split <;> simp [h]

theorem execRegionReadDone_keeps (d region : Nat) (blocks recovery : List Bytes) (s : State) {fld : Field}
(h : fld ∉ ([.logs, .guard, .fns, .mgmt, .jobs, .tables, .flt, .out] : List Field)) :
    s.keeps fld (execRegionReadDone d region blocks recovery s) := by
  simp only [List.mem_cons, List.not_mem_nil, or_false, not_or] at h
  unfold execRegionReadDone
  split <;> simp [h]

theorem execBackgroundBurst_keeps (d region : Nat) (blocks recovery : List Bytes) (s : State) {fld : Field}
(h : fld ∉ ([.logs, .guard, .fns, .mgmt, .jobs, .tables, .flt, .out] : List Field)) :
    s.keeps fld (execBackgroundBurst d region blocks recovery s) := by
  simp only [List.mem_cons, List.not_mem_nil, or_false, not_or] at h
  unfold execBackgroundBurst
  split <;> simp [h]

theorem execDomainRelease_keeps (d : Nat) (s : State) {fld : Field}
(h : fld ∉ ([.guard, .mgmt, .jobs, .tables, .flt, .out] : List Field)) :
    s.keeps fld (execDomainRelease d s) := by
  simp only [List.mem_cons, List.not_mem_nil, or_false, not_or] at h
  simp [execDomainRelease, h]

theorem execPltPgHigh_keeps (n : Nat) (s : State) {fld : Field} (h : fld ∉ ([.guard] : List Field)) :
    s.keeps fld (execPltPgHigh n s) := by
  simp only [List.mem_cons, List.not_mem_nil, or_false] at h
  simp [execPltPgHigh, h]

theorem execPltPgFall_keeps (n : Nat) (s : State) {fld : Field} (h : fld ∉ ([.guard] : List Field)) :
    s.keeps fld (execPltPgFall n s) := by
  simp only [List.mem_cons, List.not_mem_nil, or_false] at h
  simp [execPltPgFall, h]

theorem execPltRecoverEdge_keeps (images : List (Nat × Nat × List Bytes)) (s : State) {fld : Field}
(h : fld ∉ ([.logs, .guard, .fns, .mgmt, .jobs, .tables, .flt, .out] : List Field)) :
    s.keeps fld (execPltRecoverEdge images s) := by
  simp only [List.mem_cons, List.not_mem_nil, or_false, not_or] at h
  refine ⟨_, rfl, ?_⟩
  split
  · rfl
  · refine State.guardly_get _ _ (by simp [h]) fun s => ?_
    simp [h]

theorem execGuardCommit_keeps (j : Nat) (manifest : Bytes) (images : List (List Bytes)) (s : State) {fld : Field}
(h : fld ∉ ([.keeper, .guard, .mgmt, .jobs, .tables, .flt, .upd, .freeCtr, .out] : List Field)) :
    s.keeps fld (execGuardCommit j manifest images s) := by
  simp only [List.mem_cons, List.not_mem_nil, or_false, not_or] at h
  refine ⟨_, rfl, ?_⟩
  split
  · rfl
  · refine State.guardCmd_get _ _ _ _ (by simp [h]) fun s j => ?_
    dsimp only
    repeat' split
    all_goals simp [h]

theorem execGuardCommitResume_keeps (manifest : Bytes) (images : List (List Bytes)) (s : State) {fld : Field}
(h : fld ∉ ([.keeper, .logs, .guard, .fns, .mgmt, .flt, .out] : List Field)) :
    s.keeps fld (execGuardCommitResume manifest images s) := by
  simp only [List.mem_cons, List.not_mem_nil, or_false, not_or] at h
  unfold execGuardCommitResume
  split <;> simp [h]

theorem execGuardHold_keeps (j : Nat) (s : State) {fld : Field}
(h : fld ∉ ([.keeper, .logs, .guard, .fns, .mgmt, .jobs, .tables, .flt, .out] : List Field)) :
    s.keeps fld (execGuardHold j s) := by
  simp only [List.mem_cons, List.not_mem_nil, or_false, not_or] at h
  simp [execGuardHold, h]

theorem execGuardReverify_keeps (j : Nat) (s : State) {fld : Field}
(h : fld ∉ ([.guard, .mgmt, .jobs, .tables, .flt, .out] : List Field)) :
    s.keeps fld (execGuardReverify j s) := by
  simp only [List.mem_cons, List.not_mem_nil, or_false, not_or] at h
  refine ⟨_, rfl, State.guardCmd_get _ _ _ _ (by simp [h]) fun s j => ?_⟩
  simp [h]

theorem execGuardSvnAdvance_keeps (j : Nat) (s : State) {fld : Field}
(h : fld ∉ ([.keeper, .mgmt, .jobs, .tables, .flt, .out] : List Field)) :
    s.keeps fld (execGuardSvnAdvance j s) := by
  simp only [List.mem_cons, List.not_mem_nil, or_false, not_or] at h
  simp [execGuardSvnAdvance, h]

/-! ### The life of a job -/

theorem execHopperDispatch_keeps (cls : UnitClass) (inFrags outFrags : List FragEntry) (s : State) (fragErr : DmaErr) {fld
    : Field}
(h : fld ∉ ([.logs, .guard, .fns, .mgmt, .queues, .jobs, .sched, .keys, .store, .tables, .flt, .nextJob, .freeCtr, .out] :
      List Field)) :
    s.keeps fld (execHopperDispatch cls inFrags outFrags s fragErr) := by
  simp only [List.mem_cons, List.not_mem_nil, or_false, not_or] at h
  refine ⟨_, rfl, ?_⟩
  split
  · rfl
  · have hc := State.choose_get (s.noteChoice cls) cls (fld := fld) (by simp [h])
    dsimp only
    split <;> (rename_i e; simp only [e] at hc)
    · simp [hc, h]
    · split
      · simp [hc, h]
      · simp [hc, h]
      · split <;> simp [hc, h]

theorem execEngineWindowAdvance_keeps (s : State) {fld : Field}
(h : fld ∉ ([.logs, .fns, .mgmt, .queues, .sched, .flt, .freeCtr, .out] : List Field)) :
    s.keeps fld (execEngineWindowAdvance s) := by
  simp only [List.mem_cons, List.not_mem_nil, or_false, not_or] at h
  change s.keeps fld (.next (if s.cdRunning then
    allClasses.foldl State.advanceClass (s.mapSched fun d => { d with step := d.step + 1 }) else s))
  simp [h]

theorem execShareWindowEnd_keeps (cls : UnitClass) (s : State) {fld : Field}
(h : fld ∉ ([.logs, .fns, .mgmt, .queues, .sched, .flt, .out] : List Field)) :
    s.keeps fld (execShareWindowEnd cls s) := by
  simp only [List.mem_cons, List.not_mem_nil, or_false, not_or] at h
  simp [execShareWindowEnd, h]

theorem execYieldPoint_keeps (j : Nat) (s : State) {fld : Field}
(h : fld ∉ ([.jobs, .sched, .keys, .store, .tables, .freeCtr] : List Field)) :
    s.keeps fld (execYieldPoint j s) := by
  simp only [List.mem_cons, List.not_mem_nil, or_false, not_or] at h
  unfold execYieldPoint
  repeat' split
  all_goals simp [h]

theorem execJobResume_keeps (j : Nat) (s : State) {fld : Field} (h : fld ∉ ([.jobs, .sched, .freeCtr] : List Field)) :
    s.keeps fld (execJobResume j s) := by
  simp only [List.mem_cons, List.not_mem_nil, or_false, not_or] at h
  unfold execJobResume
  repeat' split
  all_goals simp [h]

theorem execEntropyWaitEnd_keeps (j : Nat) (s : State) {fld : Field} (h : fld ∉ ([.jobs, .ent] : List Field)) :
    s.keeps fld (execEntropyWaitEnd j s) := by
  simp only [List.mem_cons, List.not_mem_nil, or_false, not_or] at h
  unfold execEntropyWaitEnd
  split <;> simp [h]

theorem execEntropyWaitTimeout_keeps (j : Nat) (s : State) {fld : Field}
(h : fld ∉ ([.jobs, .tables, .ent, .flt] : List Field)) :
    s.keeps fld (execEntropyWaitTimeout j s) := by
  simp only [List.mem_cons, List.not_mem_nil, or_false, not_or] at h
  unfold execEntropyWaitTimeout
  split <;> simp [h]

theorem execJobComplete_keeps (j : Nat) (fault : UnitFault) (ecc : Option SramWord) (s : State) {fld : Field}
(h : fld ∉ ([.boot, .logs, .fuses, .guard, .fns, .mgmt, .queues, .jobs, .sched, .keys, .store, .tables, .dru, .ent, .flt,
      .upd, .freeCtr, .out] : List Field)) :
    s.keeps fld (execJobComplete j fault ecc s) := by
  simp only [List.mem_cons, List.not_mem_nil, or_false, not_or] at h
  unfold execJobComplete
  dsimp only
  repeat' split
  all_goals simp [h]

/-! ### Sessions -/

theorem execSessionAssign_keeps (j : Nat) (inp : Bytes) (s : State) {fld : Field}
(h : fld ∉ ([.keeper, .jobs, .tables] : List Field)) :
    s.keeps fld (execSessionAssign j inp s) := by
  simp only [List.mem_cons, List.not_mem_nil, or_false, not_or] at h
  simp [execSessionAssign, h]

theorem execSessionOpenNonce_keeps (j : Nat) (s : State) {fld : Field}
(h : fld ∉ ([.fns, .mgmt, .jobs, .tables, .ent, .freeCtr] : List Field)) :
    s.keeps fld (execSessionOpenNonce j s) := by
  simp only [List.mem_cons, List.not_mem_nil, or_false, not_or] at h
  refine ⟨_, rfl, State.runCmd_get _ _ _ _ fun s j => ?_⟩
  simp [h]

theorem execSessionOpenProof_keeps (j : Nat) (inp : Bytes) (s : State) {fld : Field}
(h : fld ∉ ([.fns, .mgmt, .jobs, .keys, .tables] : List Field)) :
    s.keeps fld (execSessionOpenProof j inp s) := by
  simp only [List.mem_cons, List.not_mem_nil, or_false, not_or] at h
  simp [execSessionOpenProof, h]

theorem execSessionClose_keeps (j : Nat) (s : State) {fld : Field}
(h : fld ∉ ([.fns, .mgmt, .jobs, .tables] : List Field)) :
    s.keeps fld (execSessionClose j s) := by
  simp only [List.mem_cons, List.not_mem_nil, or_false, not_or] at h
  simp [execSessionClose, h]

theorem execSessionIdleClose_keeps (fn : Nat) (s : State) {fld : Field}
(h : fld ∉ ([.fns, .mgmt, .flt, .out] : List Field)) :
    s.keeps fld (execSessionIdleClose fn s) := by
  simp only [List.mem_cons, List.not_mem_nil, or_false, not_or] at h
  simp [execSessionIdleClose, h]

theorem execNonceExpired_keeps (fn : Nat) (s : State) {fld : Field} (h : fld ∉ ([.fns, .mgmt] : List Field)) :
    s.keeps fld (execNonceExpired fn s) := by
  simp only [List.mem_cons, List.not_mem_nil, or_false, not_or] at h
  simp [execNonceExpired, h]

theorem execLockoutExpired_keeps (fn : Nat) (s : State) {fld : Field} (h : fld ∉ ([.fns, .mgmt] : List Field)) :
    s.keeps fld (execLockoutExpired fn s) := by
  simp only [List.mem_cons, List.not_mem_nil, or_false, not_or] at h
  simp [execLockoutExpired, h]

/-! ### The management port -/

theorem execMgPointerWrite_keeps (byte : BitVec 8) (s : State) {fld : Field} (h : fld ∉ ([.mgmt] : List Field)) :
    s.keeps fld (execMgPointerWrite byte s) := by
  simp only [List.mem_cons, List.not_mem_nil, or_false] at h
  simp [execMgPointerWrite, h]

theorem execMgRegisterRead_keeps (len : Nat) (s : State) {fld : Field} (h : fld ∉ ([.thermal, .out] : List Field)) :
    s.keeps fld (execMgRegisterRead len s) := by
  simp only [List.mem_cons, List.not_mem_nil, or_false, not_or] at h
  simp [execMgRegisterRead, h]

theorem execMgAlertWrite_keeps (value : BitVec 64) (s : State) {fld : Field} (h : fld ∉ ([.mgmt] : List Field)) :
    s.keeps fld (execMgAlertWrite value s) := by
  simp only [List.mem_cons, List.not_mem_nil, or_false] at h
  simp [execMgAlertWrite, h]

theorem execEntdaa_keeps (addr : BitVec 7) (s : State) {fld : Field} (h : fld ∉ ([.mgmt] : List Field)) :
    s.keeps fld (execEntdaa addr s) := by
  simp only [List.mem_cons, List.not_mem_nil, or_false] at h
  simp [execEntdaa, h]

theorem execSetdasa_keeps (static addr : BitVec 7) (s : State) {fld : Field} (h : fld ∉ ([.mgmt] : List Field)) :
    s.keeps fld (execSetdasa static addr s) := by
  simp only [List.mem_cons, List.not_mem_nil, or_false] at h
  simp [execSetdasa, h]

theorem execRstdaa_keeps (s : State) {fld : Field} (h : fld ∉ ([.mgmt] : List Field)) :
    s.keeps fld (execRstdaa s) := by
  simp only [List.mem_cons, List.not_mem_nil, or_false] at h
  simp [execRstdaa, h]

theorem execEnec_keeps (s : State) {fld : Field} (h : fld ∉ ([.mgmt] : List Field)) :
    s.keeps fld (execEnec s) := by
  simp only [List.mem_cons, List.not_mem_nil, or_false] at h
  simp [execEnec, h]

theorem execDisec_keeps (s : State) {fld : Field} (h : fld ∉ ([.mgmt] : List Field)) :
    s.keeps fld (execDisec s) := by
  simp only [List.mem_cons, List.not_mem_nil, or_false] at h
  simp [execDisec, h]

theorem execSetmwl_keeps (len : Nat) (s : State) {fld : Field} (h : fld ∉ ([.mgmt] : List Field)) :
    s.keeps fld (execSetmwl len s) := by
  simp only [List.mem_cons, List.not_mem_nil, or_false] at h
  simp [execSetmwl, h]

theorem execSetmrl_keeps (len : Nat) (s : State) {fld : Field} (h : fld ∉ ([.mgmt] : List Field)) :
    s.keeps fld (execSetmrl len s) := by
  simp only [List.mem_cons, List.not_mem_nil, or_false] at h
  simp [execSetmrl, h]

theorem execGetpid_keeps (s : State) {fld : Field} (h : fld ∉ ([.out] : List Field)) :
    s.keeps fld (execGetpid s) := by
  simp only [List.mem_cons, List.not_mem_nil, or_false] at h
  simp [execGetpid, h]

theorem execGetbcr_keeps (s : State) {fld : Field} (h : fld ∉ ([.out] : List Field)) :
    s.keeps fld (execGetbcr s) := by
  simp only [List.mem_cons, List.not_mem_nil, or_false] at h
  simp [execGetbcr, h]

theorem execGetdcr_keeps (s : State) {fld : Field} (h : fld ∉ ([.out] : List Field)) :
    s.keeps fld (execGetdcr s) := by
  simp only [List.mem_cons, List.not_mem_nil, or_false] at h
  simp [execGetdcr, h]

theorem execGetstatus_keeps (s : State) {fld : Field} (h : fld ∉ ([.out] : List Field)) :
    s.keeps fld (execGetstatus s) := by
  simp only [List.mem_cons, List.not_mem_nil, or_false] at h
  simp [execGetstatus, h]

theorem execGetmwl_keeps (s : State) {fld : Field} (h : fld ∉ ([.out] : List Field)) :
    s.keeps fld (execGetmwl s) := by
  simp only [List.mem_cons, List.not_mem_nil, or_false] at h
  simp [execGetmwl, h]

theorem execGetmrl_keeps (s : State) {fld : Field} (h : fld ∉ ([.out] : List Field)) :
    s.keeps fld (execGetmrl s) := by
  simp only [List.mem_cons, List.not_mem_nil, or_false] at h
  simp [execGetmrl, h]

theorem execGetmxds_keeps (s : State) {fld : Field} (h : fld ∉ ([.out] : List Field)) :
    s.keeps fld (execGetmxds s) := by
  simp only [List.mem_cons, List.not_mem_nil, or_false] at h
  simp [execGetmxds, h]

theorem execSetEndpointId_keeps (b : Binding) (eid : BitVec 8) (s : State) {fld : Field}
(h : fld ∉ ([.mgmt, .out] : List Field)) :
    s.keeps fld (execSetEndpointId b eid s) := by
  simp only [List.mem_cons, List.not_mem_nil, or_false, not_or] at h
  simp [execSetEndpointId, h]

theorem execGetEndpointId_keeps (b : Binding) (s : State) {fld : Field} (h : fld ∉ ([.out] : List Field)) :
    s.keeps fld (execGetEndpointId b s) := by
  simp only [List.mem_cons, List.not_mem_nil, or_false] at h
  simp [execGetEndpointId, h]

theorem execGetMctpVersionSupport_keeps (b : Binding) (msgType : BitVec 8) (s : State) {fld : Field}
(h : fld ∉ ([.out] : List Field)) :
    s.keeps fld (execGetMctpVersionSupport b msgType s) := by
  simp only [List.mem_cons, List.not_mem_nil, or_false] at h
  simp [execGetMctpVersionSupport, h]

theorem execGetMessageTypeSupport_keeps (b : Binding) (s : State) {fld : Field} (h : fld ∉ ([.out] : List Field)) :
    s.keeps fld (execGetMessageTypeSupport b s) := by
  simp only [List.mem_cons, List.not_mem_nil, or_false] at h
  simp [execGetMessageTypeSupport, h]

theorem execGetVendorMsgSupport_keeps (b : Binding) (s : State) {fld : Field} (h : fld ∉ ([.out] : List Field)) :
    s.keeps fld (execGetVendorMsgSupport b s) := by
  simp only [List.mem_cons, List.not_mem_nil, or_false] at h
  simp [execGetVendorMsgSupport, h]

theorem execMgControlRequest_keeps (ch : Channel) (entry input : Bytes) (s : State) {fld : Field}
(h : fld ∉ ([.boot, .fns, .mgmt, .queues, .jobs, .sched, .keys, .store, .tables, .dru, .ent, .flt, .freeCtr, .out] : List
      Field)) :
    s.keeps fld (execMgControlRequest ch entry input s) := by
  simp only [List.mem_cons, List.not_mem_nil, or_false, not_or] at h
  unfold execMgControlRequest
  dsimp only
  repeat' split
  all_goals simp [h]

theorem execMgAuthNonceRequest_keeps (ch : Channel) (s : State) {fld : Field}
(h : fld ∉ ([.fns, .mgmt, .ent, .freeCtr, .out] : List Field)) :
    s.keeps fld (execMgAuthNonceRequest ch s) := by
  simp only [List.mem_cons, List.not_mem_nil, or_false, not_or] at h
  simp [execMgAuthNonceRequest, h]

theorem execMgAuthProof_keeps (ch : Channel) (method : Nat) (proof : Bytes) (s : State) {fld : Field}
(h : fld ∉ ([.fns, .mgmt, .keys, .flt, .out] : List Field)) :
    s.keeps fld (execMgAuthProof ch method proof s) := by
  simp only [List.mem_cons, List.not_mem_nil, or_false, not_or] at h
  simp [execMgAuthProof, h]

theorem execQueryDeviceIdentifiers_keeps (ch : Channel) (s : State) (what : PldmInquiry) {fld : Field}
(h : fld ∉ ([.mgmt, .out] : List Field)) :
    s.keeps fld (execQueryDeviceIdentifiers ch s what) := by
  simp only [List.mem_cons, List.not_mem_nil, or_false, not_or] at h
  unfold execQueryDeviceIdentifiers
  split <;> simp [h]

theorem execGetFirmwareParameters_keeps (ch : Channel) (s : State) {fld : Field} (h : fld ∉ ([.out] : List Field)) :
    s.keeps fld (execGetFirmwareParameters ch s) := by
  simp only [List.mem_cons, List.not_mem_nil, or_false] at h
  simp [execGetFirmwareParameters, h]

theorem execRequestUpdate_keeps (ch : Channel) (eid : BitVec 8) (maxTransfer : Nat) (s : State) {fld : Field}
(h : fld ∉ ([.mgmt, .upd, .out] : List Field)) :
    s.keeps fld (execRequestUpdate ch eid maxTransfer s) := by
  simp only [List.mem_cons, List.not_mem_nil, or_false, not_or] at h
  simp [execRequestUpdate, h]

theorem execPassComponentTable_keeps (ch : Channel) (component : Nat) (s : State) {fld : Field}
(h : fld ∉ ([.mgmt, .out] : List Field)) :
    s.keeps fld (execPassComponentTable ch component s) := by
  simp only [List.mem_cons, List.not_mem_nil, or_false, not_or] at h
  simp [execPassComponentTable, h]

theorem execUpdateComponent_keeps (ch : Channel) (header : Bytes) (s : State) {fld : Field}
(h : fld ∉ ([.jobs, .store, .tables, .upd, .freeCtr, .out] : List Field)) :
    s.keeps fld (execUpdateComponent ch header s) := by
  simp only [List.mem_cons, List.not_mem_nil, or_false, not_or] at h
  refine ⟨_, rfl, State.pldm_get _ _ _ _ (by simp [h]) fun s => ?_⟩
  split
  · simp [h]
  · split
    · simp [h]
    · split <;> simp [h]

theorem execFirmwareDataResponse_keeps (ch : Channel) (offset : Nat) (data : Bytes) (readBackOk : Bool) (s : State) {fld :
    Field} (h : fld ∉ ([.guard, .mgmt, .flt, .upd, .out] : List Field)) :
    s.keeps fld (execFirmwareDataResponse ch offset data readBackOk s) := by
  simp only [List.mem_cons, List.not_mem_nil, or_false, not_or] at h
  refine ⟨_, rfl, State.pldm_get _ _ _ _ (by simp [h]) fun s => ?_⟩
  split
  · simp [h]
  · split
    · simp [h]
    · split
      · simp [h]
      · rename_i t e
        have ht : t.get fld = s.get fld := State.stageBlock_get e (by simp [h])
        split <;> simp [h, ht]

theorem execActivateFirmware_keeps (ch : Channel) (s : State) {fld : Field} (h : fld ∉ ([.upd, .out] : List Field)) :
    s.keeps fld (execActivateFirmware ch s) := by
  simp only [List.mem_cons, List.not_mem_nil, or_false, not_or] at h
  simp [execActivateFirmware, h]

theorem execGetStatus_keeps (ch : Channel) (s : State) {fld : Field} (h : fld ∉ ([.out] : List Field)) :
    s.keeps fld (execGetStatus ch s) := by
  simp only [List.mem_cons, List.not_mem_nil, or_false] at h
  simp [execGetStatus, h]

theorem execCancelUpdateComponent_keeps (ch : Channel) (s : State) {fld : Field}
(h : fld ∉ ([.jobs, .store, .tables, .upd, .out] : List Field)) :
    s.keeps fld (execCancelUpdateComponent ch s) := by
  simp only [List.mem_cons, List.not_mem_nil, or_false, not_or] at h
  simp [execCancelUpdateComponent, h]

theorem execCancelUpdate_keeps (ch : Channel) (s : State) {fld : Field}
(h : fld ∉ ([.jobs, .store, .tables, .upd, .out] : List Field)) :
    s.keeps fld (execCancelUpdate ch s) := by
  simp only [List.mem_cons, List.not_mem_nil, or_false, not_or] at h
  simp [execCancelUpdate, h]

/-! ### Resets and PCIe functions -/

theorem execPerstAssert_keeps (s : State) {fld : Field}
(h : fld ∉ ([.power, .boot, .logs, .guard, .fns, .mgmt, .queues, .jobs, .sched, .keys, .store, .tables, .dru, .ent, .flt,
      .upd, .freeCtr, .out] : List Field)) :
    s.keeps fld (execPerstAssert s) := by
  simp only [List.mem_cons, List.not_mem_nil, or_false, not_or] at h
  simp [execPerstAssert, h]

theorem execPerstDeassert_keeps (s : State) {fld : Field} (h : fld ∉ ([.boot] : List Field)) :
    s.keeps fld (execPerstDeassert s) := by
  simp only [List.mem_cons, List.not_mem_nil, or_false] at h
  simp [execPerstDeassert, h]

theorem execFlr_keeps (fn : Nat) (s : State) {fld : Field}
(h : fld ∉ ([.logs, .guard, .fns, .mgmt, .queues, .jobs, .sched, .keys, .store, .tables, .dru, .flt, .upd, .out] : List
      Field)) :
    s.keeps fld (execFlr fn s) := by
  simp only [List.mem_cons, List.not_mem_nil, or_false, not_or] at h
  simp [execFlr, h]

theorem execFlrComplete_keeps (fn : Nat) (s : State) {fld : Field} (h : fld ∉ ([.fns] : List Field)) :
    s.keeps fld (execFlrComplete fn s) := by
  simp only [List.mem_cons, List.not_mem_nil, or_false] at h
  simp [execFlrComplete, h]

theorem execVfEnableSet_keeps (numVfs : Nat) (s : State) {fld : Field} (h : fld ∉ ([.fns] : List Field)) :
    s.keeps fld (execVfEnableSet numVfs s) := by
  simp only [List.mem_cons, List.not_mem_nil, or_false] at h
  simp [execVfEnableSet, h]

theorem execVfEnableClear_keeps (s : State) {fld : Field}
(h : fld ∉ ([.logs, .guard, .fns, .mgmt, .queues, .jobs, .sched, .keys, .store, .tables, .flt, .upd, .out] : List Field))
      :
    s.keeps fld (execVfEnableClear s) := by
  simp only [List.mem_cons, List.not_mem_nil, or_false, not_or] at h
  simp [execVfEnableClear, h]

theorem execTapReset_keeps (s : State) {fld : Field} (h : fld ∉ ([.flt] : List Field)) :
    s.keeps fld (execTapReset s) := by
  simp only [List.mem_cons, List.not_mem_nil, or_false] at h
  simp [execTapReset, h]

theorem execD3hotEntry_keeps (fn : Nat) (s : State) {fld : Field} (h : fld ∉ ([.fns] : List Field)) :
    s.keeps fld (execD3hotEntry fn s) := by
  simp only [List.mem_cons, List.not_mem_nil, or_false] at h
  simp [execD3hotEntry, h]

theorem execD0Return_keeps (fn : Nat) (s : State) {fld : Field}
(h : fld ∉ ([.fns, .queues, .jobs, .sched, .keys, .store, .tables, .flt, .upd, .out] : List Field)) :
    s.keeps fld (execD0Return fn s) := by
  simp only [List.mem_cons, List.not_mem_nil, or_false, not_or] at h
  simp [execD0Return, h]

theorem execBusMasterDisable_keeps (fn : Nat) (s : State) {fld : Field}
(h : fld ∉ ([.fns, .jobs, .keys, .store, .tables, .freeCtr] : List Field)) :
    s.keeps fld (execBusMasterDisable fn s) := by
  simp only [List.mem_cons, List.not_mem_nil, or_false, not_or] at h
  simp [execBusMasterDisable, h]

theorem execBusMasterEnable_keeps (fn : Nat) (s : State) {fld : Field}
(h : fld ∉ ([.fns, .queues, .jobs, .sched, .keys, .store, .tables, .flt, .upd, .out] : List Field)) :
    s.keeps fld (execBusMasterEnable fn s) := by
  simp only [List.mem_cons, List.not_mem_nil, or_false, not_or] at h
  simp [execBusMasterEnable, h]

theorem execMsixUnmask_keeps (fn : Nat) (change : MsixChange) (s : State) {fld : Field}
(h : fld ∉ ([.fns, .out] : List Field)) :
    s.keeps fld (execMsixUnmask fn change s) := by
  simp only [List.mem_cons, List.not_mem_nil, or_false, not_or] at h
  unfold execMsixUnmask
  repeat' split
  all_goals simp [h]

theorem execConfigRequest_keeps (fn : Nat) (op : CfgOp) (s : State) {fld : Field}
(h : fld ∉ ([.fns, .out] : List Field)) :
    s.keeps fld (execConfigRequest fn op s) := by
  simp only [List.mem_cons, List.not_mem_nil, or_false, not_or] at h
  unfold execConfigRequest
  repeat' split
  all_goals simp [h]

theorem execDmaCompletion_keeps (target : DmaTarget) (err : Option DmaErr) (addr : BitVec 64) (s : State) {fld : Field}
(h : fld ∉ ([.boot, .logs, .guard, .fns, .mgmt, .queues, .jobs, .keys, .store, .tables, .dru, .ent, .flt, .freeCtr, .out]
      : List Field)) :
    s.keeps fld (execDmaCompletion target err addr s) := by
  simp only [List.mem_cons, List.not_mem_nil, or_false, not_or] at h
  unfold execDmaCompletion
  repeat' split
  all_goals simp [h]

theorem execEvtCounterRead_keeps (bank reg : Nat) (part : ReadPart) (s : State) {fld : Field}
(h : fld ∉ ([.fns, .flt, .out] : List Field)) :
    s.keeps fld (execEvtCounterRead bank reg part s) := by
  simp only [List.mem_cons, List.not_mem_nil, or_false, not_or] at h
  simp [execEvtCounterRead, h]

/-! ### Queues and rings -/

theorem execDoorbellSqRing_keeps (q : QRef) (s : State) {fld : Field}
(h : fld ∉ ([.fns, .queues, .flt, .out] : List Field)) :
    s.keeps fld (execDoorbellSqRing q s) := by
  simp only [List.mem_cons, List.not_mem_nil, or_false, not_or] at h
  simp [execDoorbellSqRing, h]

theorem execDoorbellCqReport_keeps (q : QRef) (cqHead : BitVec 16) (cqPhase : Bool) (s : State) {fld : Field}
(h : fld ∉ ([.boot, .fns, .mgmt, .queues, .jobs, .keys, .store, .tables, .dru, .ent, .flt, .freeCtr, .out] : List Field))
      :
    s.keeps fld (execDoorbellCqReport q cqHead cqPhase s) := by
  simp only [List.mem_cons, List.not_mem_nil, or_false, not_or] at h
  simp [execDoorbellCqReport, h]

theorem execSqRepoll_keeps (q : QRef) (s : State) {fld : Field} (h : fld ∉ ([.queues] : List Field)) :
    s.keeps fld (execSqRepoll q s) := by
  simp only [List.mem_cons, List.not_mem_nil, or_false] at h
  simp [execSqRepoll, h]

theorem execIndexBlockRead_keeps (q : QRef) (sqTail : BitVec 32) (rsvdZero : Bool) (err : Option DmaErr) (s : State) {fld
    : Field}
(h : fld ∉ ([.boot, .logs, .guard, .fns, .mgmt, .queues, .jobs, .keys, .store, .tables, .dru, .ent, .flt, .freeCtr, .out]
      : List Field)) :
    s.keeps fld (execIndexBlockRead q sqTail rsvdZero err s) := by
  simp only [List.mem_cons, List.not_mem_nil, or_false, not_or] at h
  unfold execIndexBlockRead
  split <;> simp [h]

theorem execSqFetch_keeps (q : QRef) (entries : List Bytes) (err : Option DmaErr) (s : State) {fld : Field}
(h : fld ∉ ([.boot, .logs, .guard, .fns, .mgmt, .queues, .jobs, .sched, .keys, .store, .tables, .dru, .ent, .flt,
      .freeCtr, .out] : List Field)) :
    s.keeps fld (execSqFetch q entries err s) := by
  simp only [List.mem_cons, List.not_mem_nil, or_false, not_or] at h
  unfold execSqFetch
  split <;> simp [h]

theorem execModTimerExpired_keeps (q : QRef) (s : State) {fld : Field} (h : fld ∉ ([.fns, .queues, .out] : List Field)) :
    s.keeps fld (execModTimerExpired q s) := by
  simp only [List.mem_cons, List.not_mem_nil, or_false, not_or] at h
  simp [execModTimerExpired, h]

theorem execQSubmittedRead_keeps (q : QRef) (s : State) {fld : Field} (h : fld ∉ ([.queues, .out] : List Field)) :
    s.keeps fld (execQSubmittedRead q s) := by
  simp only [List.mem_cons, List.not_mem_nil, or_false, not_or] at h
  simp [execQSubmittedRead, h]

theorem execQueueEnable_keeps (q : QRef) (cfg : BitVec 64) (s : State) {fld : Field}
(h : fld ∉ ([.queues, .out] : List Field)) :
    s.keeps fld (execQueueEnable q cfg s) := by
  simp only [List.mem_cons, List.not_mem_nil, or_false, not_or] at h
  simp [execQueueEnable, h]

theorem execQueueDisable_keeps (q : QRef) (s : State) {fld : Field} (h : fld ∉ ([.queues, .out] : List Field)) :
    s.keeps fld (execQueueDisable q s) := by
  simp only [List.mem_cons, List.not_mem_nil, or_false, not_or] at h
  simp [execQueueDisable, h]

theorem execAdminQueueRestart_keeps (fn : Nat) (skip : Bool) (s : State) {fld : Field}
(h : fld ∉ ([.queues, .out] : List Field)) :
    s.keeps fld (execAdminQueueRestart fn skip s) := by
  simp only [List.mem_cons, List.not_mem_nil, or_false, not_or] at h
  simp [execAdminQueueRestart, h]

theorem execQueueCreate_keeps (j : Nat) (s : State) {fld : Field} (h : fld ∉ ([.queues, .jobs, .tables] : List Field)) :
    s.keeps fld (execQueueCreate j s) := by
  simp only [List.mem_cons, List.not_mem_nil, or_false, not_or] at h
  simp [execQueueCreate, h]

theorem execQueueDestroy_keeps (j : Nat) (s : State) {fld : Field}
(h : fld ∉ ([.queues, .jobs, .keys, .store, .tables, .freeCtr] : List Field)) :
    s.keeps fld (execQueueDestroy j s) := by
  simp only [List.mem_cons, List.not_mem_nil, or_false, not_or] at h
  simp [execQueueDestroy, h]

theorem execQueueDrained_keeps (q : QRef) (s : State) {fld : Field}
(h : fld ∉ ([.queues, .jobs, .sched, .tables] : List Field)) :
    s.keeps fld (execQueueDrained q s) := by
  simp only [List.mem_cons, List.not_mem_nil, or_false, not_or] at h
  unfold execQueueDrained
  dsimp only
  repeat' split
  all_goals simp [h]

theorem execQueueRestart_keeps (j : Nat) (s : State) {fld : Field} (h : fld ∉ ([.queues, .jobs, .tables] : List Field)) :
    s.keeps fld (execQueueRestart j s) := by
  simp only [List.mem_cons, List.not_mem_nil, or_false, not_or] at h
  simp [execQueueRestart, h]

theorem execIdentify_keeps (j : Nat) (s : State) {fld : Field} (h : fld ∉ ([.jobs, .tables] : List Field)) :
    s.keeps fld (execIdentify j s) := by
  simp only [List.mem_cons, List.not_mem_nil, or_false, not_or] at h
  simp [execIdentify, h]

theorem execAbort_keeps (j : Nat) (s : State) {fld : Field}
(h : fld ∉ ([.queues, .jobs, .keys, .store, .tables, .freeCtr] : List Field)) :
    s.keeps fld (execAbort j s) := by
  simp only [List.mem_cons, List.not_mem_nil, or_false, not_or] at h
  refine ⟨_, rfl, State.runCmd_get _ _ _ _ fun s j => ?_⟩
  dsimp only
  repeat' split
  all_goals simp [h]

/-! ### Register accesses -/

theorem execRegisterWrite_keeps (fn : Nat) (offset size : Nat) (access : BarAccess) (s : State) {fld : Field}
(h : fld ∉ ([.power, .thermal, .boot, .guard, .fns, .mgmt, .queues, .jobs, .keys, .store, .tables, .dru, .ent, .flt,
      .freeCtr, .out] : List Field)) :
    s.keeps fld (execRegisterWrite fn offset size access s) := by
  simp only [List.mem_cons, List.not_mem_nil, or_false, not_or] at h
  unfold execRegisterWrite
  repeat' split
  all_goals simp [h]

/-! ### Attestation -/

theorem execGetVersion_keeps (msg : Bytes) (s : State) (ch : Channel) {fld : Field}
(h : fld ∉ ([.mgmt, .out] : List Field)) :
    s.keeps fld (execGetVersion msg s ch) := by
  simp only [List.mem_cons, List.not_mem_nil, or_false, not_or] at h
  simp [execGetVersion, h]

theorem execGetCapabilities_keeps (msg : Bytes) (s : State) (ch : Channel) {fld : Field}
(h : fld ∉ ([.mgmt, .out] : List Field)) :
    s.keeps fld (execGetCapabilities msg s ch) := by
  simp only [List.mem_cons, List.not_mem_nil, or_false, not_or] at h
  simp [execGetCapabilities, h]

theorem execNegotiateAlgorithms_keeps (msg : Bytes) (s : State) (ch : Channel) {fld : Field}
(h : fld ∉ ([.mgmt, .out] : List Field)) :
    s.keeps fld (execNegotiateAlgorithms msg s ch) := by
  simp only [List.mem_cons, List.not_mem_nil, or_false, not_or] at h
  simp [execNegotiateAlgorithms, h]

theorem execGetDigests_keeps (msg : Bytes) (s : State) (ch : Channel) {fld : Field}
(h : fld ∉ ([.mgmt, .out] : List Field)) :
    s.keeps fld (execGetDigests msg s ch) := by
  simp only [List.mem_cons, List.not_mem_nil, or_false, not_or] at h
  simp [execGetDigests, h]

theorem execGetCertificate_keeps (slot off len : Nat) (msg : Bytes) (s : State) (ch : Channel) {fld : Field}
(h : fld ∉ ([.mgmt, .out] : List Field)) :
    s.keeps fld (execGetCertificate slot off len msg s ch) := by
  simp only [List.mem_cons, List.not_mem_nil, or_false, not_or] at h
  simp [execGetCertificate, h]

theorem execGetMeasurements_keeps (slot index : Nat) (sign : Bool) (msg : Bytes) (s : State) (ch : Channel) {fld : Field}
(h : fld ∉ ([.mgmt, .ent, .freeCtr, .out] : List Field)) :
    s.keeps fld (execGetMeasurements slot index sign msg s ch) := by
  simp only [List.mem_cons, List.not_mem_nil, or_false, not_or] at h
  simp [execGetMeasurements, h]

theorem execChallenge_keeps (slot : Nat) (msg : Bytes) (s : State) (ch : Channel) {fld : Field}
(h : fld ∉ ([.mgmt, .ent, .freeCtr, .out] : List Field)) :
    s.keeps fld (execChallenge slot msg s ch) := by
  simp only [List.mem_cons, List.not_mem_nil, or_false, not_or] at h
  simp [execChallenge, h]

theorem execKeyExchange_keeps (slot : Nat) (msg : Bytes) (s : State) (ch : Channel) {fld : Field}
(h : fld ∉ ([.mgmt, .ent, .freeCtr, .out] : List Field)) :
    s.keeps fld (execKeyExchange slot msg s ch) := by
  simp only [List.mem_cons, List.not_mem_nil, or_false, not_or] at h
  refine ⟨_, rfl, State.spdmAt_get _ _ _ _ (by simp [h]) fun s => ?_⟩
  split
  · simp [h]
  · exact (State.signed_get _ _ _ _ _ _ (by simp [h]) fun s => by simp [h]).trans (by simp [h])

theorem execFinish_keeps (msg : Bytes) (verifyDataOk : Bool) (s : State) (ch : Channel) {fld : Field}
(h : fld ∉ ([.mgmt, .out] : List Field)) :
    s.keeps fld (execFinish msg verifyDataOk s ch) := by
  simp only [List.mem_cons, List.not_mem_nil, or_false, not_or] at h
  simp [execFinish, h]

theorem execKeyUpdate_keeps (msg : Bytes) (s : State) (ch : Channel) {fld : Field}
(h : fld ∉ ([.mgmt, .out] : List Field)) :
    s.keeps fld (execKeyUpdate msg s ch) := by
  simp only [List.mem_cons, List.not_mem_nil, or_false, not_or] at h
  simp [execKeyUpdate, h]

theorem execHeartbeat_keeps (msg : Bytes) (s : State) (ch : Channel) {fld : Field}
(h : fld ∉ ([.mgmt, .out] : List Field)) :
    s.keeps fld (execHeartbeat msg s ch) := by
  simp only [List.mem_cons, List.not_mem_nil, or_false, not_or] at h
  simp [execHeartbeat, h]

theorem execEndSession_keeps (msg : Bytes) (s : State) (ch : Channel) {fld : Field}
(h : fld ∉ ([.mgmt, .out] : List Field)) :
    s.keeps fld (execEndSession msg s ch) := by
  simp only [List.mem_cons, List.not_mem_nil, or_false, not_or] at h
  simp [execEndSession, h]

theorem execChunkSend_keeps (chunk : Bytes) (last : Bool) (s : State) (ch : Channel) {fld : Field}
(h : fld ∉ ([.mgmt, .out] : List Field)) :
    s.keeps fld (execChunkSend chunk last s ch) := by
  simp only [List.mem_cons, List.not_mem_nil, or_false, not_or] at h
  simp [execChunkSend, h]

theorem execChunkGet_keeps (msg : Bytes) (s : State) (ch : Channel) {fld : Field}
(h : fld ∉ ([.mgmt, .out] : List Field)) :
    s.keeps fld (execChunkGet msg s ch) := by
  simp only [List.mem_cons, List.not_mem_nil, or_false, not_or] at h
  simp [execChunkGet, h]

/-! ### The Sieve -/

theorem execHostRead_keeps (cmd : SpiCmd) (len : Nat) (flash : List FlashBlock) (eccBlock : Option Nat) (s : State) {fld :
    Field} (h : fld ∉ ([.logs, .guard, .fns, .mgmt, .jobs, .tables, .flt, .freeCtr, .out] : List Field)) :
    s.keeps fld (execHostRead cmd len flash eccBlock s) := by
  simp only [List.mem_cons, List.not_mem_nil, or_false, not_or] at h
  refine ⟨_, rfl, ?_⟩
  split
  · rfl
  · refine State.guardly_get _ _ (by simp [h]) fun s => State.spi_get _ _ _ _ (by simp [h]) fun s _ => ?_
    simp [h]

theorem execOwedBlockCheck_keeps (port : Port) (data : Bytes) (s : State) {fld : Field}
(h : fld ∉ ([.logs, .guard, .fns, .mgmt, .jobs, .tables, .flt, .out] : List Field)) :
    s.keeps fld (execOwedBlockCheck port data s) := by
  simp only [List.mem_cons, List.not_mem_nil, or_false, not_or] at h
  unfold execOwedBlockCheck
  dsimp only
  refine ⟨_, rfl, ?_⟩
  split
  · rfl
  · split
    · rfl
    · refine State.guardly_get _ _ (by simp [h]) fun s => ?_
      repeat' split
      all_goals simp [h]

theorem execMirrorRefetchDone_keeps (chip : Chip) (block : Nat) (data : Bytes) (s : State) {fld : Field}
(h : fld ∉ ([.logs, .guard, .fns, .mgmt, .jobs, .tables, .flt, .out] : List Field)) :
    s.keeps fld (execMirrorRefetchDone chip block data s) := by
  simp only [List.mem_cons, List.not_mem_nil, or_false, not_or] at h
  refine ⟨_, rfl, ?_⟩
  split
  · rfl
  · refine State.guardly_get _ _ (by simp [h]) fun s => ?_
    dsimp only
    repeat' split
    all_goals simp [h]

theorem execHostProgram_keeps (cmd : SpiCmd) (data : Bytes) (s : State) {fld : Field}
(h : fld ∉ ([.guard, .fns, .flt, .out] : List Field)) :
    s.keeps fld (execHostProgram cmd data s) := by
  simp only [List.mem_cons, List.not_mem_nil, or_false, not_or] at h
  simp [execHostProgram, h]

theorem execHostErase_keeps (cmd : SpiCmd) (s : State) {fld : Field}
(h : fld ∉ ([.guard, .fns, .flt, .out] : List Field)) :
    s.keeps fld (execHostErase cmd s) := by
  simp only [List.mem_cons, List.not_mem_nil, or_false, not_or] at h
  simp [execHostErase, h]

theorem execHostWriteEnable_keeps (cmd : SpiCmd) (s : State) {fld : Field} (h : fld ∉ ([.guard, .out] : List Field)) :
    s.keeps fld (execHostWriteEnable cmd s) := by
  simp only [List.mem_cons, List.not_mem_nil, or_false, not_or] at h
  simp [execHostWriteEnable, h]

theorem execHostStatusRead_keeps (cmd : SpiCmd) (flashStatus : BitVec 8) (s : State) {fld : Field}
(h : fld ∉ ([.guard, .out] : List Field)) :
    s.keeps fld (execHostStatusRead cmd flashStatus s) := by
  simp only [List.mem_cons, List.not_mem_nil, or_false, not_or] at h
  simp [execHostStatusRead, h]

theorem execHostIdRead_keeps (cmd : SpiCmd) (flashId : Bytes) (s : State) {fld : Field}
(h : fld ∉ ([.guard, .out] : List Field)) :
    s.keeps fld (execHostIdRead cmd flashId s) := by
  simp only [List.mem_cons, List.not_mem_nil, or_false, not_or] at h
  simp [execHostIdRead, h]

theorem execHostSfdpRead_keeps (cmd : SpiCmd) (len : Nat) (s : State) {fld : Field}
(h : fld ∉ ([.guard, .out] : List Field)) :
    s.keeps fld (execHostSfdpRead cmd len s) := by
  simp only [List.mem_cons, List.not_mem_nil, or_false, not_or] at h
  refine ⟨_, rfl, State.spi_get _ _ _ _ (by simp [h]) fun s _ => ?_⟩
  split <;> simp [h]

theorem execHostSuspend_keeps (cmd : SpiCmd) (s : State) {fld : Field} (h : fld ∉ ([.guard, .out] : List Field)) :
    s.keeps fld (execHostSuspend cmd s) := by
  simp only [List.mem_cons, List.not_mem_nil, or_false, not_or] at h
  simp [execHostSuspend, h]

theorem execHostResetCmd_keeps (cmd : SpiCmd) (s : State) {fld : Field} (h : fld ∉ ([.guard, .out] : List Field)) :
    s.keeps fld (execHostResetCmd cmd s) := by
  simp only [List.mem_cons, List.not_mem_nil, or_false, not_or] at h
  simp [execHostResetCmd, h]

theorem execHostModeSwitch_keeps (cmd : SpiCmd) (s : State) {fld : Field} (h : fld ∉ ([.guard, .out] : List Field)) :
    s.keeps fld (execHostModeSwitch cmd s) := by
  simp only [List.mem_cons, List.not_mem_nil, or_false, not_or] at h
  simp [execHostModeSwitch, h]

theorem execHostOpcodeDenied_keeps (cmd : SpiCmd) (s : State) {fld : Field}
(h : fld ∉ ([.guard, .fns, .flt, .out] : List Field)) :
    s.keeps fld (execHostOpcodeDenied cmd s) := by
  simp only [List.mem_cons, List.not_mem_nil, or_false, not_or] at h
  simp [execHostOpcodeDenied, h]

theorem execHostResetPin_keeps (port : Port) (s : State) {fld : Field} (h : fld ∉ ([.guard] : List Field)) :
    s.keeps fld (execHostResetPin port s) := by
  simp only [List.mem_cons, List.not_mem_nil, or_false] at h
  simp [execHostResetPin, h]

/-! ### Tamper and fault events -/

theorem execLidMesh_keeps (nets : BitVec 4) (s : State) {fld : Field}
(h : fld ∉ ([.boot, .logs, .fuses, .guard, .fns, .mgmt, .queues, .jobs, .sched, .keys, .store, .tables, .dru, .ent, .flt,
      .upd, .freeCtr, .out] : List Field)) :
    s.keeps fld (execLidMesh nets s) := by
  simp only [List.mem_cons, List.not_mem_nil, or_false, not_or] at h
  simp [execLidMesh, h]

theorem execLoopMismatch_keeps (n : Nat) (s : State) {fld : Field}
(h : fld ∉ ([.boot, .logs, .fuses, .guard, .fns, .mgmt, .queues, .jobs, .sched, .keys, .store, .tables, .dru, .ent, .flt,
      .upd, .freeCtr, .out] : List Field)) :
    s.keeps fld (execLoopMismatch n s) := by
  simp only [List.mem_cons, List.not_mem_nil, or_false, not_or] at h
  simp [execLoopMismatch, h]

theorem execLockstep_keeps (s : State) {fld : Field}
(h : fld ∉ ([.boot, .logs, .fuses, .guard, .fns, .mgmt, .queues, .jobs, .sched, .keys, .store, .tables, .dru, .ent, .flt,
      .upd, .freeCtr, .out] : List Field)) :
    s.keeps fld (execLockstep s) := by
  simp only [List.mem_cons, List.not_mem_nil, or_false, not_or] at h
  simp [execLockstep, h]

theorem execVoltageMinor_keeps (s : State) {fld : Field}
(h : fld ∉ ([.boot, .logs, .fuses, .guard, .fns, .mgmt, .queues, .jobs, .sched, .keys, .store, .tables, .dru, .ent, .flt,
      .upd, .freeCtr, .out] : List Field)) :
    s.keeps fld (execVoltageMinor s) := by
  simp only [List.mem_cons, List.not_mem_nil, or_false, not_or] at h
  simp [execVoltageMinor, h]

theorem execClockMinor_keeps (s : State) {fld : Field}
(h : fld ∉ ([.boot, .logs, .fuses, .guard, .fns, .mgmt, .queues, .jobs, .sched, .keys, .store, .tables, .dru, .ent, .flt,
      .upd, .freeCtr, .out] : List Field)) :
    s.keeps fld (execClockMinor s) := by
  simp only [List.mem_cons, List.not_mem_nil, or_false, not_or] at h
  simp [execClockMinor, h]

theorem execTempMinor_keeps (s : State) (code : BitVec 8) {fld : Field}
(h : fld ∉ ([.boot, .logs, .fuses, .guard, .fns, .mgmt, .queues, .jobs, .sched, .keys, .store, .tables, .dru, .ent, .flt,
      .upd, .freeCtr, .out] : List Field)) :
    s.keeps fld (execTempMinor s code) := by
  simp only [List.mem_cons, List.not_mem_nil, or_false, not_or] at h
  simp [execTempMinor, h]

theorem execMinorPersist_keeps (cls : Nat) (s : State) {fld : Field}
(h : fld ∉ ([.boot, .logs, .fuses, .guard, .fns, .mgmt, .queues, .jobs, .sched, .keys, .store, .tables, .dru, .ent, .flt,
      .upd, .freeCtr, .out] : List Field)) :
    s.keeps fld (execMinorPersist cls s) := by
  simp only [List.mem_cons, List.not_mem_nil, or_false, not_or] at h
  simp [execMinorPersist, h]

theorem execSramCorrected_keeps (w : SramWord) (s : State) {fld : Field}
(h : fld ∉ ([.logs, .guard, .fns, .mgmt, .keys, .store, .flt, .out] : List Field)) :
    s.keeps fld (execSramCorrected w s) := by
  simp only [List.mem_cons, List.not_mem_nil, or_false, not_or] at h
  refine ⟨_, rfl, ?_⟩
  split
  · rfl
  · dsimp only
    split <;> (rename_i e; simp [State.faultEvent_of e, h])

theorem execSramUncorrectable_keeps (w : SramWord) (s : State) {fld : Field}
(h : fld ∉ ([.logs, .guard, .fns, .mgmt, .jobs, .keys, .store, .tables, .flt, .freeCtr, .out] : List Field)) :
    s.keeps fld (execSramUncorrectable w s) := by
  simp only [List.mem_cons, List.not_mem_nil, or_false, not_or] at h
  simp [execSramUncorrectable, h]

theorem execCoreMismatch_keeps (core : Nat) (s : State) {fld : Field}
(h : fld ∉ ([.logs, .fns, .mgmt, .flt, .out] : List Field)) :
    s.keeps fld (execCoreMismatch core s) := by
  simp only [List.mem_cons, List.not_mem_nil, or_false, not_or] at h
  simp [execCoreMismatch, h]

theorem execCoreKat_keeps (failed : List Nat) (s : State) {fld : Field}
(h : fld ∉ ([.logs, .fns, .mgmt, .flt, .out] : List Field)) :
    s.keeps fld (execCoreKat failed s) := by
  simp only [List.mem_cons, List.not_mem_nil, or_false, not_or] at h
  simp [execCoreKat, h]

theorem execTamperClear_keeps (s : State) {fld : Field} (h : fld ∉ ([.flt] : List Field)) :
    s.keeps fld (execTamperClear s) := by
  simp only [List.mem_cons, List.not_mem_nil, or_false] at h
  simp [execTamperClear, h]

theorem execRootDisablePending_keeps (s : State) {fld : Field}
(h : fld ∉ ([.logs, .fuses, .fns, .mgmt, .flt, .out] : List Field)) :
    s.keeps fld (execRootDisablePending s) := by
  simp only [List.mem_cons, List.not_mem_nil, or_false, not_or] at h
  unfold execRootDisablePending
  split <;> simp [h]

theorem execTamperRecordHandled_keeps (s : State) {fld : Field}
(h : fld ∉ ([.boot, .keeper, .mgmt, .dru, .flt, .out] : List Field)) :
    s.keeps fld (execTamperRecordHandled s) := by
  simp only [List.mem_cons, List.not_mem_nil, or_false, not_or] at h
  simp [execTamperRecordHandled, h]

theorem execLogBufferFlush_keeps (s : State) {fld : Field} (h : fld ∉ ([.logs, .fns, .mgmt, .flt, .out] : List Field)) :
    s.keeps fld (execLogBufferFlush s) := by
  simp only [List.mem_cons, List.not_mem_nil, or_false, not_or] at h
  simp [execLogBufferFlush, h]

/-! ### Firmware update -/

theorem execUpdateBegin_keeps (j : Nat) (inp : Bytes) (s : State) {fld : Field}
(h : fld ∉ ([.jobs, .store, .tables, .upd, .freeCtr, .out] : List Field)) :
    s.keeps fld (execUpdateBegin j inp s) := by
  simp only [List.mem_cons, List.not_mem_nil, or_false, not_or] at h
  refine ⟨_, rfl, State.runOp_get _ _ _ _ _ fun s j => ?_⟩
  repeat' split
  all_goals simp [h]

theorem execUpdateBlock_keeps (j : Nat) (inp : Bytes) (s : State) {fld : Field}
(h : fld ∉ ([.jobs, .tables, .upd] : List Field)) :
    s.keeps fld (execUpdateBlock j inp s) := by
  simp only [List.mem_cons, List.not_mem_nil, or_false, not_or] at h
  refine ⟨_, rfl, State.runOp_get _ _ _ _ _ fun s j => ?_⟩
  split
  · simp [h]
  · split
    · simp [h]
    · rename_i t e
      simp [State.stageBlock_get e, h]

theorem execUpdateVerify_keeps (j : Nat) (readBackOk : Bool) (s : State) {fld : Field}
(h : fld ∉ ([.guard, .mgmt, .jobs, .tables, .flt, .upd, .out] : List Field)) :
    s.keeps fld (execUpdateVerify j readBackOk s) := by
  simp only [List.mem_cons, List.not_mem_nil, or_false, not_or] at h
  refine ⟨_, rfl, State.runCmd_get _ _ _ _ fun s j => ?_⟩
  split <;> simp [h]

theorem execUpdateActivate_keeps (j : Nat) (s : State) {fld : Field} (h : fld ∉ ([.jobs, .tables, .upd] : List Field)) :
    s.keeps fld (execUpdateActivate j s) := by
  simp only [List.mem_cons, List.not_mem_nil, or_false, not_or] at h
  simp [execUpdateActivate, h]

theorem execUpdateConfirm_keeps (j : Nat) (s : State) {fld : Field} (h : fld ∉ ([.jobs, .tables, .upd] : List Field)) :
    s.keeps fld (execUpdateConfirm j s) := by
  simp only [List.mem_cons, List.not_mem_nil, or_false, not_or] at h
  simp [execUpdateConfirm, h]

theorem execUpdateCancel_keeps (j : Nat) (s : State) {fld : Field}
(h : fld ∉ ([.jobs, .store, .tables, .upd] : List Field)) :
    s.keeps fld (execUpdateCancel j s) := by
  simp only [List.mem_cons, List.not_mem_nil, or_false, not_or] at h
  simp [execUpdateCancel, h]

theorem execUpdateLockExpired_keeps (s : State) {fld : Field}
(h : fld ∉ ([.logs, .fns, .mgmt, .jobs, .store, .tables, .flt, .upd, .out] : List Field)) :
    s.keeps fld (execUpdateLockExpired s) := by
  simp only [List.mem_cons, List.not_mem_nil, or_false, not_or] at h
  simp [execUpdateLockExpired, h]

theorem execActivationTimeReached_keeps (s : State) {fld : Field} (h : fld ∉ ([.upd] : List Field)) :
    s.keeps fld (execActivationTimeReached s) := by
  simp only [List.mem_cons, List.not_mem_nil, or_false] at h
  simp [execActivationTimeReached, h]

theorem execAlignLost_keeps (s : State) {fld : Field} (h : fld ∉ ([.logs, .fns, .mgmt, .flt, .upd, .out] : List Field)) :
    s.keeps fld (execAlignLost s) := by
  simp only [List.mem_cons, List.not_mem_nil, or_false, not_or] at h
  simp [execAlignLost, h]

theorem execActivationDeferred_keeps (s : State) {fld : Field}
(h : fld ∉ ([.logs, .fns, .mgmt, .flt, .upd, .out] : List Field)) :
    s.keeps fld (execActivationDeferred s) := by
  simp only [List.mem_cons, List.not_mem_nil, or_false, not_or] at h
  simp [execActivationDeferred, h]

theorem execActivationStart_keeps (s : State) {fld : Field}
(h : fld ∉ ([.guard, .fns, .mgmt, .queues, .jobs, .keys, .store, .tables, .flt, .upd, .out] : List Field)) :
    s.keeps fld (execActivationStart s) := by
  simp only [List.mem_cons, List.not_mem_nil, or_false, not_or] at h
  unfold execActivationStart
  dsimp only
  repeat' split
  all_goals simp [h]

theorem execActivationDrainExpired_keeps (s : State) {fld : Field}
(h : fld ∉ ([.boot, .logs, .guard, .fns, .mgmt, .queues, .jobs, .sched, .keys, .store, .tables, .flt, .upd, .freeCtr,
      .out] : List Field)) :
    s.keeps fld (execActivationDrainExpired s) := by
  simp only [List.mem_cons, List.not_mem_nil, or_false, not_or] at h
  simp [execActivationDrainExpired, h]

theorem execActivationCopyDone_keeps (s : State) {fld : Field}
(h : fld ∉ ([.boot, .logs, .guard, .fns, .mgmt, .queues, .jobs, .sched, .keys, .store, .tables, .dru, .ent, .flt, .upd,
      .out] : List Field)) :
    s.keeps fld (execActivationCopyDone s) := by
  simp only [List.mem_cons, List.not_mem_nil, or_false, not_or] at h
  unfold execActivationCopyDone
  split <;> simp [h]

theorem execMicrocodeSwap_keeps (s : State) {fld : Field} (h : fld ∉ ([.store, .tables, .upd] : List Field)) :
    s.keeps fld (execMicrocodeSwap s) := by
  simp only [List.mem_cons, List.not_mem_nil, or_false, not_or] at h
  simp [execMicrocodeSwap, h]

theorem execPolicySwap_keeps (s : State) {fld : Field}
(h : fld ∉ ([.guard, .mgmt, .jobs, .store, .tables, .flt, .upd, .out] : List Field)) :
    s.keeps fld (execPolicySwap s) := by
  simp only [List.mem_cons, List.not_mem_nil, or_false, not_or] at h
  simp [execPolicySwap, h]

theorem execSelftestDone_keeps (passed : Bool) (s : State) {fld : Field} (h : fld ∉ ([.upd] : List Field)) :
    s.keeps fld (execSelftestDone passed s) := by
  simp only [List.mem_cons, List.not_mem_nil, or_false] at h
  simp [execSelftestDone, h]

theorem execConfirmDeadlineExpired_keeps (s : State) {fld : Field} (h : fld ∉ ([.upd] : List Field)) :
    s.keeps fld (execConfirmDeadlineExpired s) := by
  simp only [List.mem_cons, List.not_mem_nil, or_false] at h
  simp [execConfirmDeadlineExpired, h]

theorem execConfirmationRun_keeps (s : State) {fld : Field}
(h : fld ∉ ([.keeper, .fuses, .jobs, .tables, .upd] : List Field)) :
    s.keeps fld (execConfirmationRun s) := by
  simp only [List.mem_cons, List.not_mem_nil, or_false, not_or] at h
  unfold execConfirmationRun
  split <;> simp [h]

theorem execRestore_keeps (s : State) {fld : Field}
(h : fld ∉ ([.boot, .keeper, .logs, .guard, .fns, .mgmt, .queues, .jobs, .sched, .keys, .store, .tables, .dru, .ent, .flt,
      .upd, .out] : List Field)) :
    s.keeps fld (execRestore s) := by
  simp only [List.mem_cons, List.not_mem_nil, or_false, not_or] at h
  unfold execRestore
  repeat' split
  all_goals simp [h]

/-! ### Every row -/

/-- The components that a row may change. -/
def touches (i : Instr) : List Field :=
  (((jobTouches i).map Prod.snd <|> busTouches i) <|> eventTouches i).getD []

/-- Every row answers a next state, in which a component outside its list is as before. -/
theorem exec_keeps (s : State) {fld : Field} : (i : Instr) → fld ∉ touches i → s.keeps fld (exec i s)
  | .vinRestored mv straps chk, h => execVinRestored_keeps mv straps chk s h
  | .undervoltage, h => execUndervoltage_keeps s h
  | .vinAverage mv, h => execVinAverage_keeps mv s h
  | .vinTierDwellExpired minMv, h => execVinTierDwellExpired_keeps minMv s h
  | .pwrLimitWrite value, h => execPwrLimitWrite_keeps value s h
  | .pwrfailAssert, h => execPwrfailAssert_keeps s h
  | .pfHoldEnd passed, h => execPfHoldEnd_keeps s passed h
  | .nvOkSet, h => execNvOkSet_keeps s h
  | .tjSample code, h => execTjSample_keeps code s h
  | .throttleStep, h => execThrottleStep_keeps s h
  | .throttleRelease, h => execThrottleRelease_keeps s h
  | .devThermRead, h => execDevThermRead_keeps s h
  | .railsStart pwrfailHigh, h => execRailsStart_keeps pwrfailHigh s h
  | .railsUp, h => execRailsUp_keeps s h
  | .railFault rail, h => execRailFault_keeps rail s h
  | .fusesSensed margins, h => execFusesSensed_keeps margins s h
  | .lcRollForward, h => execLcRollForward_keeps s h
  | .rootDisableAtStart, h => execRootDisableAtStart_keeps s h
  | .bundleVerify recoverLow romOk, h => execBundleVerify_keeps recoverLow s romOk h
  | .activationRollForward, h => execActivationRollForward_keeps s h
  | .fwStart katOk blobVersion, h => execFwStart_keeps katOk blobVersion s h
  | .serviceReady, h => execServiceReady_keeps s h
  | .entropySamplingEnd katOk, h => execEntropySamplingEnd_keeps katOk s h
  | .drbgInstantiate katOk, h => execDrbgInstantiate_keeps katOk s h
  | .linkTraining, h => execLinkTraining_keeps s h
  | .configRequest fn op, h => execConfigRequest_keeps fn op s h
  | .loaderConfigTakeover, h => execLoaderConfigTakeover_keeps s h
  | .perstAssert, h => execPerstAssert_keeps s h
  | .perstDeassert, h => execPerstDeassert_keeps s h
  | .flr fn, h => execFlr_keeps fn s h
  | .flrComplete fn, h => execFlrComplete_keeps fn s h
  | .vfEnableSet numVfs, h => execVfEnableSet_keeps numVfs s h
  | .vfEnableClear, h => execVfEnableClear_keeps s h
  | .tapReset, h => execTapReset_keeps s h
  | .d3hotEntry fn, h => execD3hotEntry_keeps fn s h
  | .d0Return fn, h => execD0Return_keeps fn s h
  | .busMasterDisable fn, h => execBusMasterDisable_keeps fn s h
  | .busMasterEnable fn, h => execBusMasterEnable_keeps fn s h
  | .msixUnmask fn change, h => execMsixUnmask_keeps fn change s h
  | .dmaCompletion target err addr, h => execDmaCompletion_keeps target err addr s h
  | .registerWrite fn offset size access, h => execRegisterWrite_keeps fn offset size access s h
  | .evtCounterRead bank reg part, h => execEvtCounterRead_keeps bank reg part s h
  | .flashResetWaitEnd port answers, h => execFlashResetWaitEnd_keeps port answers s h
  | .guardCommitResume manifest images, h => execGuardCommitResume_keeps manifest images s h
  | .manifestReadDone d bytes, h => execManifestReadDone_keeps d bytes s h
  | .regionReadDone d region blocks recovery, h => execRegionReadDone_keeps d region blocks recovery s h
  | .domainRelease d, h => execDomainRelease_keeps d s h
  | .pltPgHigh n, h => execPltPgHigh_keeps n s h
  | .pltPgFall n, h => execPltPgFall_keeps n s h
  | .backgroundBurst d region blocks recovery, h => execBackgroundBurst_keeps d region blocks recovery s h
  | .pltRecoverEdge images, h => execPltRecoverEdge_keeps images s h
  | .hostRead cmd len flash eccBlock, h => execHostRead_keeps cmd len flash eccBlock s h
  | .owedBlockCheck port data, h => execOwedBlockCheck_keeps port data s h
  | .mirrorRefetchDone chip block data, h => execMirrorRefetchDone_keeps chip block data s h
  | .hostProgram cmd data, h => execHostProgram_keeps cmd data s h
  | .hostErase cmd, h => execHostErase_keeps cmd s h
  | .hostWriteEnable cmd, h => execHostWriteEnable_keeps cmd s h
  | .hostStatusRead cmd flashStatus, h => execHostStatusRead_keeps cmd flashStatus s h
  | .hostIdRead cmd flashId, h => execHostIdRead_keeps cmd flashId s h
  | .hostSfdpRead cmd len, h => execHostSfdpRead_keeps cmd len s h
  | .hostSuspend cmd, h => execHostSuspend_keeps cmd s h
  | .hostResetCmd cmd, h => execHostResetCmd_keeps cmd s h
  | .hostModeSwitch cmd, h => execHostModeSwitch_keeps cmd s h
  | .hostOpcodeDenied cmd, h => execHostOpcodeDenied_keeps cmd s h
  | .hostResetPin port, h => execHostResetPin_keeps port s h
  | .guardCommit j manifest images, h => execGuardCommit_keeps j manifest images s h
  | .guardHold j, h => execGuardHold_keeps j s h
  | .guardReverify j, h => execGuardReverify_keeps j s h
  | .guardSvnAdvance j, h => execGuardSvnAdvance_keeps j s h
  | .getVersion msg ch, h => execGetVersion_keeps msg s ch h
  | .getCapabilities msg ch, h => execGetCapabilities_keeps msg s ch h
  | .negotiateAlgorithms msg ch, h => execNegotiateAlgorithms_keeps msg s ch h
  | .getDigests msg ch, h => execGetDigests_keeps msg s ch h
  | .getCertificate slot off len msg ch, h => execGetCertificate_keeps slot off len msg s ch h
  | .challenge slot msg ch, h => execChallenge_keeps slot msg s ch h
  | .getMeasurements slot index sign msg ch, h => execGetMeasurements_keeps slot index sign msg s ch h
  | .keyExchange slot msg ch, h => execKeyExchange_keeps slot msg s ch h
  | .finish msg verifyDataOk ch, h => execFinish_keeps msg verifyDataOk s ch h
  | .keyUpdate msg ch, h => execKeyUpdate_keeps msg s ch h
  | .heartbeat msg ch, h => execHeartbeat_keeps msg s ch h
  | .endSession msg ch, h => execEndSession_keeps msg s ch h
  | .chunkSend chunk last ch, h => execChunkSend_keeps chunk last s ch h
  | .chunkGet msg ch, h => execChunkGet_keeps msg s ch h
  | .mgPointerWrite byte, h => execMgPointerWrite_keeps byte s h
  | .mgAlertWrite value, h => execMgAlertWrite_keeps value s h
  | .entdaa addr, h => execEntdaa_keeps addr s h
  | .setdasa static addr, h => execSetdasa_keeps static addr s h
  | .rstdaa, h => execRstdaa_keeps s h
  | .enec, h => execEnec_keeps s h
  | .disec, h => execDisec_keeps s h
  | .setmwl len, h => execSetmwl_keeps len s h
  | .setmrl len, h => execSetmrl_keeps len s h
  | .getpid, h => execGetpid_keeps s h
  | .getbcr, h => execGetbcr_keeps s h
  | .getdcr, h => execGetdcr_keeps s h
  | .getstatus, h => execGetstatus_keeps s h
  | .getmwl, h => execGetmwl_keeps s h
  | .getmrl, h => execGetmrl_keeps s h
  | .getmxds, h => execGetmxds_keeps s h
  | .setEndpointId b eid, h => execSetEndpointId_keeps b eid s h
  | .getEndpointId b, h => execGetEndpointId_keeps b s h
  | .getMctpVersionSupport b msgType, h => execGetMctpVersionSupport_keeps b msgType s h
  | .getMessageTypeSupport b, h => execGetMessageTypeSupport_keeps b s h
  | .getVendorMsgSupport b, h => execGetVendorMsgSupport_keeps b s h
  | .mgControlRequest ch entry input, h => execMgControlRequest_keeps ch entry input s h
  | .mgAuthNonceRequest ch, h => execMgAuthNonceRequest_keeps ch s h
  | .mgAuthProof ch method proof, h => execMgAuthProof_keeps ch method proof s h
  | .queryDeviceIdentifiers ch what, h => execQueryDeviceIdentifiers_keeps ch s what h
  | .getFirmwareParameters ch, h => execGetFirmwareParameters_keeps ch s h
  | .requestUpdate ch eid maxTransfer, h => execRequestUpdate_keeps ch eid maxTransfer s h
  | .passComponentTable ch component, h => execPassComponentTable_keeps ch component s h
  | .updateComponent ch header, h => execUpdateComponent_keeps ch header s h
  | .firmwareDataResponse ch offset data readBackOk, h => execFirmwareDataResponse_keeps ch offset data readBackOk s h
  | .activateFirmware ch, h => execActivateFirmware_keeps ch s h
  | .getStatus ch, h => execGetStatus_keeps ch s h
  | .cancelUpdateComponent ch, h => execCancelUpdateComponent_keeps ch s h
  | .cancelUpdate ch, h => execCancelUpdate_keeps ch s h
  | .sessionAssign j inp, h => execSessionAssign_keeps j inp s h
  | .sessionOpenNonce j, h => execSessionOpenNonce_keeps j s h
  | .sessionOpenProof j inp, h => execSessionOpenProof_keeps j inp s h
  | .sessionClose j, h => execSessionClose_keeps j s h
  | .sessionIdleClose fn, h => execSessionIdleClose_keeps fn s h
  | .nonceExpired fn, h => execNonceExpired_keeps fn s h
  | .lockoutExpired fn, h => execLockoutExpired_keeps fn s h
  | .doorbellSqRing q, h => execDoorbellSqRing_keeps q s h
  | .doorbellCqReport q cqHead cqPhase, h => execDoorbellCqReport_keeps q cqHead cqPhase s h
  | .sqRepoll q, h => execSqRepoll_keeps q s h
  | .indexBlockRead q sqTail rsvdZero err, h => execIndexBlockRead_keeps q sqTail rsvdZero err s h
  | .sqFetch q entries err, h => execSqFetch_keeps q entries err s h
  | .hopperDispatch cls inFrags outFrags fragErr, h => execHopperDispatch_keeps cls inFrags outFrags s fragErr h
  | .engineWindowAdvance, h => execEngineWindowAdvance_keeps s h
  | .shareWindowEnd cls, h => execShareWindowEnd_keeps cls s h
  | .modTimerExpired q, h => execModTimerExpired_keeps q s h
  | .jobComplete j fault ecc, h => execJobComplete_keeps j fault ecc s h
  | .yieldPoint j, h => execYieldPoint_keeps j s h
  | .jobResume j, h => execJobResume_keeps j s h
  | .entropyWaitEnd j, h => execEntropyWaitEnd_keeps j s h
  | .entropyWaitTimeout j, h => execEntropyWaitTimeout_keeps j s h
  | .queueCreate j, h => execQueueCreate_keeps j s h
  | .queueDestroy j, h => execQueueDestroy_keeps j s h
  | .queueDrained q, h => execQueueDrained_keeps q s h
  | .queueRestart j, h => execQueueRestart_keeps j s h
  | .queueEnable q cfg, h => execQueueEnable_keeps q cfg s h
  | .queueDisable q, h => execQueueDisable_keeps q s h
  | .adminQueueRestart fn skip, h => execAdminQueueRestart_keeps fn skip s h
  | .qSubmittedRead q, h => execQSubmittedRead_keeps q s h
  | .identify j, h => execIdentify_keeps j s h
  | .abort j, h => execAbort_keeps j s h
  | .rootImport j inp, h => execRootImport_keeps j inp s h
  | .rootGenerate j, h => execRootGenerate_keeps j s h
  | .rootSpoil j, h => execRootSpoil_keeps j s h
  | .opstoreConfig j inp, h => execOpstoreConfig_keeps j inp s h
  | .slotGrant j, h => execSlotGrant_keeps j s h
  | .counterReestablish j inp, h => execCounterReestablish_keeps j inp s h
  | .timeSet j, h => execTimeSet_keeps j s h
  | .timeSetTimeout j, h => execTimeSetTimeout_keeps j s h
  | .ppsEdge, h => execPpsEdge_keeps s h
  | .eventLogRead j, h => execEventLogRead_keeps j s h
  | .spoilNow j, h => execSpoilNow_keeps j s h
  | .fuseProgram j inp badWord, h => execFuseProgram_keeps j inp badWord s h
  | .fuseLock j badWord, h => execFuseLock_keeps j badWord s h
  | .lcTransition j inp badWord, h => execLcTransition_keeps j inp s badWord h
  | .ownerTransfer j badWord, h => execOwnerTransfer_keeps j s badWord h
  | .debugNonce j, h => execDebugNonce_keeps j s h
  | .debugCert j inp, h => execDebugCert_keeps j inp s h
  | .mfgCmd entry input, h => execMfgCmd_keeps entry input s h
  | .mfgRsp, h => execMfgRsp_keeps s h
  | .tapBypass, h => execTapBypass_keeps s h
  | .tapIdcode, h => execTapIdcode_keeps s h
  | .tapSamplePreload, h => execTapSamplePreload_keeps s h
  | .tapExtest, h => execTapExtest_keeps s h
  | .updateBegin j inp, h => execUpdateBegin_keeps j inp s h
  | .updateBlock j inp, h => execUpdateBlock_keeps j inp s h
  | .updateVerify j readBackOk, h => execUpdateVerify_keeps j readBackOk s h
  | .updateActivate j, h => execUpdateActivate_keeps j s h
  | .updateConfirm j, h => execUpdateConfirm_keeps j s h
  | .updateCancel j, h => execUpdateCancel_keeps j s h
  | .updateLockExpired, h => execUpdateLockExpired_keeps s h
  | .activationTimeReached, h => execActivationTimeReached_keeps s h
  | .alignLost, h => execAlignLost_keeps s h
  | .activationDeferred, h => execActivationDeferred_keeps s h
  | .activationStart, h => execActivationStart_keeps s h
  | .activationDrainExpired, h => execActivationDrainExpired_keeps s h
  | .activationCopyDone, h => execActivationCopyDone_keeps s h
  | .microcodeSwap, h => execMicrocodeSwap_keeps s h
  | .policySwap, h => execPolicySwap_keeps s h
  | .selftestDone passed, h => execSelftestDone_keeps passed s h
  | .confirmDeadlineExpired, h => execConfirmDeadlineExpired_keeps s h
  | .confirmationRun, h => execConfirmationRun_keeps s h
  | .restore, h => execRestore_keeps s h
  | .ctxCreate j, h => execCtxCreate_keeps j s h
  | .ctxQuery j, h => execCtxQuery_keeps j s h
  | .invalidate j, h => execInvalidate_keeps j s h
  | .invalidateBarrier j, h => execInvalidateBarrier_keeps j s h
  | .sweep j, h => execSweep_keeps j s h
  | .contextImageSave j, h => execContextImageSave_keeps j s h
  | .contextImageCommit j, h => execContextImageCommit_keeps j s h
  | .contextImageLoad j inp, h => execContextImageLoad_keeps j inp s h
  | .scopeSet j, h => execScopeSet_keeps j s h
  | .externalWrap j inp, h => execExternalWrap_keeps j inp s h
  | .keyExport j, h => execKeyExport_keeps j s h
  | .migrateStatement j inp, h => execMigrateStatement_keeps j inp s h
  | .migrateExportNonce j, h => execMigrateExportNonce_keeps j s h
  | .migrateExport j inp, h => execMigrateExport_keeps j inp s h
  | .migrateImport j inp, h => execMigrateImport_keeps j inp s h
  | .statefulQuery j, h => execStatefulQuery_keeps j s h
  | .reservationWrite rec, h => execReservationWrite_keeps rec s h
  | .mlkemKeygen j, h => execMlkemKeygen_keeps j s h
  | .mlkemEncaps j inp, h => execMlkemEncaps_keeps j inp s h
  | .mlkemDecaps j inp, h => execMlkemDecaps_keeps j inp s h
  | .mlkemEncapsInternal j inp, h => execMlkemEncapsInternal_keeps j inp s h
  | .mlkemKeygenInternal j inp, h => execMlkemKeygenInternal_keeps j inp s h
  | .mldsaKeygen j, h => execMldsaKeygen_keeps j s h
  | .mldsaSign j inp, h => execMldsaSign_keeps j inp s h
  | .mldsaVerify j inp, h => execMldsaVerify_keeps j inp s h
  | .mldsaKeygenInternal j inp, h => execMldsaKeygenInternal_keeps j inp s h
  | .hash j inp, h => execHash_keeps j inp s h
  | .cshake j inp, h => execCshake_keeps j inp s h
  | .kmac j inp, h => execKmac_keeps j inp s h
  | .hmac j inp, h => execHmac_keeps j inp s h
  | .streamOpen j inp, h => execStreamOpen_keeps j inp s h
  | .streamPart j inp, h => execStreamPart_keeps j inp s h
  | .streamFinal j inp, h => execStreamFinal_keeps j inp s h
  | .slhdsaKeygen j, h => execSlhdsaKeygen_keeps j s h
  | .slhdsaSign j inp, h => execSlhdsaSign_keeps j inp s h
  | .slhdsaVerify j inp, h => execSlhdsaVerify_keeps j inp s h
  | .slhdsaKeygenInternal j inp, h => execSlhdsaKeygenInternal_keeps j inp s h
  | .lmsKeygen j, h => execLmsKeygen_keeps j s h
  | .lmsSign j inp, h => execLmsSign_keeps j inp s h
  | .lmsVerify j inp, h => execLmsVerify_keeps j inp s h
  | .xmssKeygen j, h => execXmssKeygen_keeps j s h
  | .xmssSign j inp, h => execXmssSign_keeps j inp s h
  | .xmssVerify j inp, h => execXmssVerify_keeps j inp s h
  | .cacheSave j, h => execCacheSave_keeps j s h
  | .cacheLoad j inp, h => execCacheLoad_keeps j inp s h
  | .seal j inp, h => execSeal_keeps j inp s h
  | .mceKeygen j, h => execMceKeygen_keeps j s h
  | .mceEncaps j inp, h => execMceEncaps_keeps j inp s h
  | .mceDecaps j inp, h => execMceDecaps_keeps j inp s h
  | .mcePkLoad j inp, h => execMcePkLoad_keeps j inp s h
  | .hqcKeygen j, h => execHqcKeygen_keeps j s h
  | .hqcEncaps j inp, h => execHqcEncaps_keeps j inp s h
  | .hqcDecaps j inp, h => execHqcDecaps_keeps j inp s h
  | .ecKeygen j, h => execEcKeygen_keeps j s h
  | .ecdsaSign j inp, h => execEcdsaSign_keeps j inp s h
  | .ecdsaVerify j inp, h => execEcdsaVerify_keeps j inp s h
  | .ecdh j inp, h => execEcdh_keeps j inp s h
  | .eddsaSign j inp, h => execEddsaSign_keeps j inp s h
  | .eddsaVerify j inp, h => execEddsaVerify_keeps j inp s h
  | .ecValidate j inp, h => execEcValidate_keeps j inp s h
  | .curveLoad j inp, h => execCurveLoad_keeps j inp s h
  | .rsaKeygen j, h => execRsaKeygen_keeps j s h
  | .rsaKeyLoad j inp, h => execRsaKeyLoad_keeps j inp s h
  | .rsaPrivate j inp, h => execRsaPrivate_keeps j inp s h
  | .rsaPublic j inp, h => execRsaPublic_keeps j inp s h
  | .modexp j inp, h => execModexp_keeps j inp s h
  | .modmul j inp, h => execModmul_keeps j inp s h
  | .modinv j inp, h => execModinv_keeps j inp s h
  | .dxProgramLoad j inp, h => execDxProgramLoad_keeps j inp s h
  | .dxRun j, h => execDxRun_keeps j s h
  | .dxSlotWrite j inp, h => execDxSlotWrite_keeps j inp s h
  | .dxSlotRead j, h => execDxSlotRead_keeps j s h
  | .gcmEncrypt j inp, h => execGcmEncrypt_keeps j inp s h
  | .gcmDecrypt j inp, h => execGcmDecrypt_keeps j inp s h
  | .xtsEncrypt j inp, h => execXtsEncrypt_keeps j inp s h
  | .xtsDecrypt j inp, h => execXtsDecrypt_keeps j inp s h
  | .kwWrap j inp, h => execKwWrap_keeps j inp s h
  | .kwUnwrap j inp, h => execKwUnwrap_keeps j inp s h
  | .cmac j inp, h => execCmac_keeps j inp s h
  | .random j inp, h => execRandom_keeps j inp s h
  | .noiseRead j, h => execNoiseRead_keeps j s h
  | .druClaim tag page who, h => execDruClaim_keeps tag page s who h
  | .druRelease page who, h => execDruRelease_keeps page s who h
  | .druStart alg sealed page who, h => execDruStart_keeps alg sealed page s who h
  | .druRestore sealed page, h => execDruRestore_keeps sealed page s h
  | .druSave page, h => execDruSave_keeps page s h
  | .druPageSelect page, h => execDruPageSelect_keeps page s h
  | .druSaveDone, h => execDruSaveDone_keeps s h
  | .druDataWrite size word who, h => execDruDataWrite_keeps size word s who h
  | .druLastcntWrite count who, h => execDruLastcntWrite_keeps count s who h
  | .druLastWrite size word who, h => execDruLastWrite_keeps size word s who h
  | .druFinishDone, h => execDruFinishDone_keeps s h
  | .druExpectWrite index value, h => execDruExpectWrite_keeps index value s h
  | .druResultRead index doneThisCycle part, h => execDruResultRead_keeps index doneThisCycle s part h
  | .blockRelease, h => execBlockRelease_keeps s h
  | .pairFailure osc test partner, h => execPairFailure_keeps osc test partner s h
  | .retestPass pair, h => execRetestPass_keeps pair s h
  | .lidMesh nets, h => execLidMesh_keeps nets s h
  | .loopMismatch n, h => execLoopMismatch_keeps n s h
  | .voltageMinor, h => execVoltageMinor_keeps s h
  | .clockMinor, h => execClockMinor_keeps s h
  | .tempMinor code, h => execTempMinor_keeps s code h
  | .minorPersist cls, h => execMinorPersist_keeps cls s h
  | .lockstep, h => execLockstep_keeps s h
  | .sramCorrected w, h => execSramCorrected_keeps w s h
  | .sramUncorrectable w, h => execSramUncorrectable_keeps w s h
  | .coreMismatch core, h => execCoreMismatch_keeps core s h
  | .coreKat failed, h => execCoreKat_keeps failed s h
  | .tamperClear, h => execTamperClear_keeps s h
  | .rootDisablePending, h => execRootDisablePending_keeps s h
  | .tamperRecordHandled, h => execTamperRecordHandled_keeps s h
  | .logBufferFlush, h => execLogBufferFlush_keeps s h
  | .mramRefresh, _ => execMramRefresh_keeps s _
  | .vbatRemoved, h => execVbatRemoved_keeps s h
  | .vbatApplied, h => execVbatApplied_keeps s h
  | .linkTrainingComplete, h => execLinkTrainingComplete_keeps s h
  | .mgRegisterRead len, h => execMgRegisterRead_keeps len s h
  | .tapDebugInstruction f, h => execTapDebugInstruction_keeps f s h
  | .highHalfWaitTimeout j, h => execHighHalfWaitTimeout_keeps j s h
  | .randomCapStep, h => execRandomCapStep_keeps s h
  | .indexPortServe, h => execIndexPortServe_keeps s h

/-- No row's list has the queue of waiting commands. -/
theorem pending_notMem_touches (i : Instr) : Field.pending ∉ touches i := by
  have h : (touches i).contains .pending = false := by cases i <;> rfl
  simpa using h

end Sys2Proof.Machine
end

/-- Settles O56: the queue is outside every row's list of components. -/
theorem commandsRunAndKeepTheQueue : Obligations.CommandsRunAndKeepTheQueue :=
  fun i s => Sys2Proof.Machine.exec_keeps s i (Sys2Proof.Machine.pending_notMem_touches i)

section
/-!
Supplies and thermal events (R26 to R63): what the shared operations of these rows leave of the components they write, and
the rows' effect in each case.
-/
namespace Sys2Proof.Machine
open Sys2Proof

/-! ### Components as fields -/

@[simp] theorem State.deviceEvent_power (s : State) : s.deviceEvent.power = s.power :=
  State.deviceEvent_get s (fld := .power) (by simp)
@[simp] theorem State.deviceEvent_boot (s : State) : s.deviceEvent.boot = s.boot :=
  State.deviceEvent_get s (fld := .boot) (by simp)
@[simp] theorem State.deviceEvent_thermal (s : State) : s.deviceEvent.thermal = s.thermal :=
  State.deviceEvent_get s (fld := .thermal) (by simp)

/-- A boot code is written to DEV_BOOT; the alert it may raise leaves DEV_BOOT alone (R79). -/
@[simp] theorem State.setCode_boot (s : State) (c d : BitVec 16) :
    (s.setCode c d).boot = { s.boot with code := c, detail := d } := by
  have h (t : State) : (t.setAlert 0).boot = t.boot := State.setAlert_get t 0 (fld := .boot) (by simp)
  unfold State.setCode
  dsimp only
  split
  · rw [h]; rfl
  · rfl
@[simp] theorem State.setCode_power (s : State) (c d : BitVec 16) : (s.setCode c d).power = s.power :=
  State.setCode_get s c d (fld := .power) (by simp)
@[simp] theorem State.setCode_keeper (s : State) (c d : BitVec 16) : (s.setCode c d).keeper = s.keeper :=
  State.setCode_get s c d (fld := .keeper) (by simp)
@[simp] theorem State.setCode_logs (s : State) (c d : BitVec 16) : (s.setCode c d).logs = s.logs :=
  State.setCode_get s c d (fld := .logs) (by simp)
@[simp] theorem State.setCode_guard (s : State) (c d : BitVec 16) : (s.setCode c d).guard = s.guard :=
  State.setCode_get s c d (fld := .guard) (by simp)
@[simp] theorem State.setCode_jobs (s : State) (c d : BitVec 16) : (s.setCode c d).jobs = s.jobs :=
  State.setCode_get s c d (fld := .jobs) (by simp)
@[simp] theorem State.setCode_queues (s : State) (c d : BitVec 16) : (s.setCode c d).queues = s.queues :=
  State.setCode_get s c d (fld := .queues) (by simp)
@[simp] theorem State.setCode_keys (s : State) (c d : BitVec 16) : (s.setCode c d).keys = s.keys :=
  State.setCode_get s c d (fld := .keys) (by simp)

@[simp] theorem State.logEvent_power (s : State) (c : BitVec 16) (d : Nat) : (s.logEvent c d).power = s.power :=
  State.logEvent_get s c d (fld := .power) (by simp)
@[simp] theorem State.logEvent_boot (s : State) (c : BitVec 16) (d : Nat) : (s.logEvent c d).boot = s.boot :=
  State.logEvent_get s c d (fld := .boot) (by simp)
@[simp] theorem State.logEvent_keeper (s : State) (c : BitVec 16) (d : Nat) : (s.logEvent c d).keeper = s.keeper :=
  State.logEvent_get s c d (fld := .keeper) (by simp)

/-- A record that is written or buffered leaves the island's latched records alone. -/
@[simp] theorem State.addRec_latched (s : State) (r : LogRec) : (s.addRec r).logs.latched = s.logs.latched := by
  have ha (t : State) : (t.setAlert 1).logs = t.logs := State.setAlert_get t 1 (fld := .logs) (by simp)
  have hf (t : State) : (t.setFlt 9).logs = t.logs := State.setFlt_get t 9 (fld := .logs) (by simp)
  unfold State.addRec State.writeRec
  dsimp only
  repeat' split
  all_goals simp [ha, hf]

@[simp] theorem State.logEvent_latched (s : State) (c : BitVec 16) (d : Nat) : (s.logEvent c d).logs.latched = s.logs.latched :=
  State.addRec_latched s _

/-- A change of tier shows in DEV_POWER and in the dividers alone (R30). -/
theorem State.retier_eq (s : State) (f : State → State) :
    s.retier f = f s ∨ s.retier f = (f s).emit (.clockSwitch (f s).effTier) := by
  unfold State.retier
  dsimp only
  split
  · exact .inl rfl
  · exact .inr rfl

@[simp] theorem State.retier_power (s : State) (f : State → State) : (s.retier f).power = (f s).power := by
  rcases s.retier_eq f with h | h
  · rw [h]
  · rw [h]; rfl
@[simp] theorem State.retier_thermal (s : State) (f : State → State) : (s.retier f).thermal = (f s).thermal := by
  rcases s.retier_eq f with h | h
  · rw [h]
  · rw [h]; rfl

theorem State.writePwrLimit_power (s : State) (v : BitVec 64) :
    (s.writePwrLimit v).power = { s.power with tierFloor := v.truncate 2 } := by
  simp [State.writePwrLimit]

/-! ### VIN restored (R58, R62, R63, R491) -/

/-- The restoration of VIN up to the records latched in the island: keeper stage, the strap event, WAIT_PWRFAIL. -/
def State.vinStart (s : State) (mv : Nat) (straps : Straps) (chk : KeeperCheck) : State :=
  let s1 := s.keeperStart mv straps chk
  let s2 := if straps.bootMode = 3 then s1.logEvent 0x0105 3 else s1
  if s2.power.pfHold then s2.setCode 0x8001 0 else s2

theorem execVinRestored_off {s : State} (h : s.power.vinValid = false) (mv : Nat) (straps : Straps) (chk : KeeperCheck) :
    execVinRestored mv straps chk s = .next (s.vinStart mv straps chk).holdLatched.noteIsland := by
  simp only [execVinRestored, h]
  rfl

theorem State.tamperPolicy_congr {s t : State} (h : t.fuses = s.fuses) : t.tamperPolicy = s.tamperPolicy := by
  simp [State.tamperPolicy, State.ownerCfg, State.fz, h]

/-- An island loss that is no tamper, or none at all, is noted in the log alone. -/
theorem State.noteIsland_calm {s : State} (h : s.boot.islandLost = true → s.tamperPolicy.getLsbD 3 = false) {fld : Field}
    (hf : fld ∉ ([.logs, .fns, .mgmt, .flt, .out] : List Field)) : s.noteIsland.get fld = s.get fld := by
  unfold State.noteIsland
  cases hi : s.boot.islandLost with
  | false => simp
  | true => simp only [h hi]; exact State.logEvent_get s _ _ hf

theorem State.noteIsland_kept {s : State} (h : s.boot.islandLost = false) : s.noteIsland = s := by
  simp [State.noteIsland, h]

theorem State.holdLatched_nil {s : State} (h : s.logs.latched = []) : s.holdLatched = s := by
  simp [State.holdLatched, h]

theorem State.holdLatched_cons {s : State} {r : LogRec} {l : List LogRec} (h : s.logs.latched = r :: l) :
    s.holdLatched = (s.writeLatched.mapBoot fun b => { b with stage := .held }).setCode 0x8002 (r.code &&& 0xFF) := by
  simp [State.holdLatched, h]

theorem State.writeLatched_boot (s : State) : s.writeLatched.boot = s.boot :=
  State.writeLatched_get s (fld := .boot) (by simp)

section
variable (s : State) (mv : Nat) (straps : Straps) (chk : KeeperCheck)

theorem State.vinStart_power : (s.vinStart mv straps chk).power = { s.power with
    vinValid := true, vinMv := mv, averaged := true, vinTier := startTier mv, nvOk := false, pfHold := !s.power.pwrfailHigh,
    tierFloor := 0 } := by
  unfold State.vinStart
  dsimp only
  split <;> split <;> simp [State.keeperStart]

theorem State.vinStart_boot : (s.vinStart mv straps chk).boot = { (s.keeperStart mv straps chk).boot with
    code := if s.power.pwrfailHigh then 0x0001 else 0x8001 } := by
  cases h : s.power.pwrfailHigh <;> unfold State.vinStart <;> dsimp only <;> split <;> simp [State.keeperStart, h]

theorem State.vinStart_keeper : (s.vinStart mv straps chk).keeper = (s.keeperStart mv straps chk).keeper := by
  unfold State.vinStart
  dsimp only
  split <;> split <;> simp

theorem State.vinStart_latched : (s.vinStart mv straps chk).logs.latched = s.logs.latched := by
  unfold State.vinStart
  dsimp only
  split <;> split <;> simp [State.keeperStart]

theorem State.vinStart_fuses : (s.vinStart mv straps chk).fuses = s.fuses := by
  change (s.vinStart mv straps chk).get .fuses = s.get .fuses
  simp [State.vinStart]

/-- Without latched records and without a tamper the keeper stage stands. -/
theorem State.vinStart_calm (hl : s.logs.latched = [])
    (hi : s.boot.islandLost = true → s.tamperPolicy.getLsbD 3 = false) :
    let t := (s.vinStart mv straps chk).holdLatched.noteIsland
    t.boot.stage = .keeper ∧ t.boot.straps = straps ∧ t.power.vinValid = true ∧ t.power.vinMv = mv
      ∧ t.power.vinTier = startTier mv ∧ t.power.nvOk = false ∧ t.boot.code = (if s.power.pwrfailHigh then 0x0001 else 0x8001)
      ∧ t.keeper.ticks = (if s.boot.islandLost then 0 else s.keeper.ticks)
      ∧ t.boot.timeValid = (s.boot.timeValid && !s.boot.islandLost) := by
  have hi' : (s.vinStart mv straps chk).boot.islandLost = true → (s.vinStart mv straps chk).tamperPolicy.getLsbD 3 = false := by
    rw [State.tamperPolicy_congr (State.vinStart_fuses s mv straps chk), State.vinStart_boot]
    simpa [State.keeperStart] using hi
  have hg {fld : Field} (hf : fld ∉ ([.logs, .fns, .mgmt, .flt, .out] : List Field)) := State.noteIsland_calm hi' hf
  have hb : (s.vinStart mv straps chk).noteIsland.boot = _ := (hg (fld := .boot) (by simp)).trans (s.vinStart_boot mv straps chk)
  have hp : (s.vinStart mv straps chk).noteIsland.power = _ := (hg (fld := .power) (by simp)).trans (s.vinStart_power mv straps chk)
  have hk : (s.vinStart mv straps chk).noteIsland.keeper = _ := (hg (fld := .keeper) (by simp)).trans (s.vinStart_keeper mv straps chk)
  rw [State.holdLatched_nil (by rw [State.vinStart_latched, hl])]
  simp [hb, hp, hk, State.keeperStart]

/-- Latched records hold the compute die with the code of the first (R491). -/
theorem State.vinStart_held {r : LogRec} {l : List LogRec} (hl : s.logs.latched = r :: l) (hi : s.boot.islandLost = false) :
    let t := (s.vinStart mv straps chk).holdLatched.noteIsland
    t.boot.stage = .held ∧ t.boot.code = 0x8002 ∧ t.boot.detail = r.code &&& 0xFF ∧ t.logs.latched = [] ∧ t.logs.overLatch = 0 := by
  rw [State.holdLatched_cons ((State.vinStart_latched s mv straps chk).trans hl), State.noteIsland_kept]
  · simp [State.writeLatched]
  · simp [State.writeLatched_boot, State.vinStart_boot, State.keeperStart, hi]

end

/-! ### VIN lost (R80) -/

/-- Asserting the holds of a list of domains clears their bits of PLT_HOLD_N. -/
theorem State.foldl_pin_low (l : List Nat) (s : State) (h : s.boot.lockdown = false) (d : Nat) (hd : d < 8) :
    (l.foldl (fun s d => s.pin d false) s).guard.holdPins.getLsbD d
      = (s.guard.holdPins.getLsbD d && !l.contains d) := by
  induction l generalizing s with
  | nil => simp
  | cons i l ih =>
    have hp : (s.pin i false).boot.lockdown = false := by simp [State.pin, h]
    rw [List.foldl_cons, ih _ hp]
    by_cases hi : d = i
    · subst hi
      simp [State.pin, h, hd]
    · have hb : (decide (d < i) || !decide (d - i = 0)) = true := by
        simp only [Bool.or_eq_true, decide_eq_true_eq, Bool.not_eq_true', decide_eq_false_iff_not]
        omega
      simp [State.pin, h, hd, hi, hb]

theorem State.guardReset_holdPins {s : State} (h : s.boot.lockdown = false) : s.guardReset.guard.holdPins = 0 := by
  have hs : ((s.stopPort .a).stopPort .b).boot.lockdown = false := by
    have e : ((s.stopPort .a).stopPort .b).get .boot = s.get .boot := by simp
    exact (congrArg Boot.lockdown e).trans h
  refine BitVec.eq_of_getLsbD_eq fun d hd => ?_
  have := State.foldl_pin_low (List.range 8) _ hs d hd
  simpa [State.guardReset, hd] using this

@[simp] theorem State.guardReset_boot (s : State) : s.guardReset.boot = s.boot :=
  State.guardReset_get s (fld := .boot) (by simp)
@[simp] theorem State.guardReset_jobs (s : State) : s.guardReset.jobs = s.jobs :=
  State.guardReset_get s (fld := .jobs) (by simp)
@[simp] theorem State.guardReset_queues (s : State) : s.guardReset.queues = s.queues :=
  State.guardReset_get s (fld := .queues) (by simp)
@[simp] theorem State.guardReset_keys (s : State) : s.guardReset.keys = s.keys :=
  State.guardReset_get s (fld := .keys) (by simp)

/-- The loss of VIN resets the guard and empties what the compute die held (R80). -/
theorem State.loseVin_cleared (s : State) : s.loseVin.jobs = [] ∧ s.loseVin.queues = [] ∧ s.loseVin.keys = Keys.empty
    ∧ s.loseVin.guard.holdPins = 0 := by
  refine ⟨s.clearDie.guardReset_jobs, s.clearDie.guardReset_queues, s.clearDie.guardReset_keys, ?_⟩
  exact State.guardReset_holdPins (s := s.clearDie) rfl

theorem State.loseVin_power (s : State) : s.loseVin.power = { s.power with
    vinValid := false, averaged := false, nvOk := false, pfHold := false, tierFloor := 0 } := by
  have h : s.clearDie.guardReset.power = s.power := State.guardReset_get s.clearDie (fld := .power) (by simp)
  simp only [State.loseVin, State.mapLogs_power, State.mapBoot_power, State.mapPower_power]
  exact congrArg (fun p : Power => { p with vinValid := false, averaged := false, nvOk := false, pfHold := false, tierFloor := 0 }) h

theorem State.loseVin_boot (s : State) :
    s.loseVin.boot.stage = .off ∧ s.loseVin.boot.link = .down ∧ s.loseVin.boot.code = s.boot.code :=
  ⟨rfl, rfl, show s.clearDie.guardReset.boot.code = s.clearDie.boot.code by rw [State.guardReset_boot]⟩

/-! ### The power-fail hold (R35, R37) -/

theorem State.migrateBlob_keeper {s : State} (h : s.power.pfHold = false) (v : Nat) :
    (s.migrateBlob v).keeper.blobTarget = 0 ∧ (s.migrateBlob v).keeper.lcJournal = s.keeper.lcJournal
      ∧ (s.migrateBlob v).keeper.lcClearing = s.keeper.lcClearing := by
  simp only [State.migrateBlob, State.mapKeeper_keeper, h]
  split <;> simp

theorem State.clearLcJournal_keeper {s : State} (h : s.power.pfHold = false) :
    s.clearLcJournal.keeper = { s.keeper with lcJournal := none, lcClearing := false } := by
  simp [State.clearLcJournal, h]

/-- Once the hold has ended, the journal's clearing and the settings blob are written. -/
theorem State.writeWaiting_keeper {s : State} (h : s.power.pfHold = false) :
    (s.keeper.lcClearing = true → s.writeWaiting.keeper.lcJournal = none ∧ s.writeWaiting.keeper.lcClearing = false)
    ∧ (s.keeper.blobTarget ≠ 0 → s.fwRunning = true → s.writeWaiting.keeper.blobTarget = 0) := by
  have hc : s.clearLcJournal.power.pfHold = false := h
  have hf : s.clearLcJournal.fwRunning = s.fwRunning := rfl
  have hk := State.clearLcJournal_keeper h
  unfold State.writeWaiting
  dsimp only
  cases hl : s.keeper.lcClearing
  · simp only [Bool.false_eq_true, if_false, false_implies, true_and]
    intro hb hw
    simp [hb, hw, State.migrateBlob_keeper h]
  · simp only [if_true, hf]
    split
    · simp [State.migrateBlob_keeper hc, hk]
    · rename_i hn
      simp only [hk] at hn ⊢
      exact ⟨fun _ => ⟨trivial, trivial⟩, fun hb hw => absurd ⟨hb, hw⟩ hn⟩

/-- The power-fail hold begins, and before the rails shows as WAIT_PWRFAIL (R34, R63). -/
theorem execPwrfailAssert_effect {s : State} (hv : s.power.vinValid = true) :
    ∃ t, execPwrfailAssert s = .next t ∧ t.power = { s.power with pwrfailHigh := false, pfHold := true, nvOk := false }
      ∧ t.boot.code = (if s.boot.stage = .keeper then 0x8001 else s.boot.code) := by
  refine ⟨_, rfl, ?_⟩
  cases hh : s.power.pfHold <;> by_cases hs : s.boot.stage = .keeper <;> simp [hv, hs]

/-- The end of the power-fail hold (R37, R79). -/
theorem execPfHoldEnd_passed (s : State) :
    ∃ t, execPfHoldEnd s true = .next t ∧ t.power = { s.power with pwrfailHigh := true, pfHold := false }
      ∧ t.boot.code = (if s.boot.code = 0x8001 then 0x0001 else s.boot.code)
      ∧ (s.keeper.lcClearing = true → t.keeper.lcJournal = none ∧ t.keeper.lcClearing = false)
      ∧ (s.keeper.blobTarget ≠ 0 → s.fwRunning = true → t.keeper.blobTarget = 0)
      ∧ t.jobs = s.jobs.map fun j =>
          if j.phase = .paused ∧ s.thermal.thermStop = false ∧ (s.fn j.fn).d3hot = false then { j with phase := .yielded } else j := by
  let u := (s.mapPower fun p => { p with pwrfailHigh := true, pfHold := false }).writeWaiting
  have hget {fld : Field} (hf : fld ∉ ([.power, .keeper] : List Field)) : u.get fld = s.get fld := by
    simp only [List.mem_cons, List.not_mem_nil, or_false, not_or] at hf
    simp [u, hf]
  have hp : u.power = { s.power with pwrfailHigh := true, pfHold := false } := State.writeWaiting_get _ (fld := .power) (by simp)
  have hb : u.boot = s.boot := hget (fld := .boot) (by simp)
  have hj : u.jobs = s.jobs := hget (fld := .jobs) (by simp)
  have ht : u.thermal = s.thermal := hget (fld := .thermal) (by simp)
  have hf : u.fns = s.fns := hget (fld := .fns) (by simp)
  obtain ⟨h1, h2⟩ := State.writeWaiting_keeper (s := s.mapPower fun p => { p with pwrfailHigh := true, pfHold := false }) rfl
  have hr : u.resumePaused.jobs = s.jobs.map fun j =>
      if j.phase = .paused ∧ s.thermal.thermStop = false ∧ (s.fn j.fn).d3hot = false then { j with phase := .yielded } else j := by
    simp [State.resumePaused, State.mapJobs, State.mayResume, State.fn, hp, ht, hf, hj]
  refine ⟨if u.resumePaused.boot.code = 0x8001 then u.resumePaused.setCode 0x0001 0 else u.resumePaused, rfl, ?_⟩
  have hc : u.resumePaused.boot.code = s.boot.code := congrArg Boot.code hb
  by_cases h : s.boot.code = 0x8001
  · simp only [hc, h, if_true, State.setCode_power, State.setCode_boot, State.setCode_keeper, State.setCode_jobs]
    exact ⟨hp, trivial, h1, h2, hr⟩
  · simp only [hc, h, if_false]
    exact ⟨hp, trivial, h1, h2, hr⟩

/-! ### Junction samples (R54, R55) -/

theorem maxCode_toNat (a b : BitVec 8) : (maxCode a b).toNat = max a.toNat b.toNat := by
  unfold maxCode
  split <;> rename_i h <;> simp only [BitVec.lt_def] at h <;> omega

theorem State.setThrottle_thermal (s : State) : s.setThrottle.thermal = { s.thermal with throttleEvt := true } := by
  unfold State.setThrottle
  dsimp only
  split
  · rename_i h
    simp only [State.countEvt_thermal] at h ⊢
    rw [← h]
  · simp

/-- A throttle step raises THERM_TIER below 3, with its event (R55). -/
theorem State.throttleUp_thermal {s : State} (h : s.thermal.thermTier < 3) :
    s.throttleUp.thermal = { s.thermal with thermTier := s.thermal.thermTier + 1, throttleEvt := true } := by
  simp [State.throttleUp, h, State.setThrottle_thermal]

theorem State.ite_resumePaused_thermal (c : Prop) [Decidable c] (x : State) :
    (if c then x else x.resumePaused).thermal = x.thermal := by
  split <;> rfl

/-- A junction sample, with the throttle step where it crosses 100 °C (R54 to R56). -/
theorem execTjSample_running {s : State} (h : s.cdRunning = true) (code : BitVec 8) :
    let th := { s.thermal with
      tjNow := code, tjPeak := maxCode s.thermal.tjPeak code, mgPeak := maxCode s.thermal.mgPeak code,
      thermStop := if 176 ≤ code.toNat then true else if code.toNat ≤ 164 then false else s.thermal.thermStop }
    ∃ t, execTjSample code s = .next t
      ∧ t.thermal = if s.thermal.tjNow.toNat < 164 ∧ 164 ≤ code.toNat ∧ s.thermal.thermTier < 3
          then { th with thermTier := th.thermTier + 1, throttleEvt := true } else th := by
  intro th
  let u := s.mapThermal fun _ => th
  have hu : (if s.thermal.tjNow.toNat < 164 ∧ 164 ≤ code.toNat then u.throttleUp else u).thermal
      = if s.thermal.tjNow.toNat < 164 ∧ 164 ≤ code.toNat ∧ s.thermal.thermTier < 3
          then { th with thermTier := th.thermTier + 1, throttleEvt := true } else th := by
    by_cases hn : s.thermal.tjNow.toNat < 164 ∧ 164 ≤ code.toNat
    · by_cases ht : s.thermal.thermTier < 3
      · simp [hn, ht, State.throttleUp_thermal (s := u) ht, u]
      · simp [hn, ht, State.throttleUp, u, th]
    · simp [hn, ← and_assoc, u]
  refine ⟨_, by simp only [execTjSample, h]; rfl, ?_⟩
  refine Eq.trans ?_ hu
  split
  · exact State.ite_resumePaused_thermal _ _
  · exact State.ite_resumePaused_thermal _ _

end Sys2Proof.Machine

open Sys2Proof Sys2Proof.Machine

/-- Settles O19: each event by its own case. -/
theorem supplyAndThermalEventsComplete : Obligations.SupplyAndThermalEventsComplete := by
  intro s mv straps chk value
  refine ⟨?_, ?_, fun hv => ⟨?_, ?_, ?_, ?_, ?_, ?_⟩, ?_, ?_, ⟨_, rfl, rfl⟩, ?_, ⟨_, rfl, rfl⟩, ⟨_, rfl, rfl⟩, ?_⟩
  · intro hv hl hi
    exact ⟨_, execVinRestored_off hv mv straps chk, State.vinStart_calm s mv straps chk hl hi⟩
  · intro r l hv hl hi
    exact ⟨_, execVinRestored_off hv mv straps chk, State.vinStart_held s mv straps chk hl hi⟩
  · obtain ⟨hj, hq, hk, hg⟩ := s.loseVin_cleared
    obtain ⟨hs, hl, hc⟩ := s.loseVin_boot
    refine ⟨_, execUndervoltage_valid hv, ?_⟩
    split <;> simp [hj, hq, hk, hg, hs, hl, hc, State.loseVin_power]
  · exact ⟨_, by simp only [exec, execVinAverage, hv]; rfl, by simp, by simp⟩
  · exact ⟨_, by simp only [exec, execVinTierDwellExpired, hv]; rfl, by simp⟩
  · exact execPwrfailAssert_effect hv
  · intro hp hh ht
    exact ⟨_, rfl, by simp [hv, hp, hh, ht]⟩
  · exact ⟨_, rfl, by simp [hv]⟩
  · intro hv
    exact ⟨_, rfl, by simp [hv], by simp [hv], by simp [hv]⟩
  · intro hd
    exact ⟨_, rfl, by rw [if_pos hd]; exact s.writePwrLimit_power value⟩
  · exact execPfHoldEnd_passed s
  · intro code hr
    refine ⟨?_, ?_, ?_, ?_⟩
    · obtain ⟨t, ht, e⟩ := execTjSample_running hr code
      refine ⟨t, ht, ?_⟩
      rw [e]
      split <;> simp [maxCode_toNat]
    · intro hj ht
      exact ⟨_, rfl, by rw [if_pos ⟨hj, hr⟩]; exact State.throttleUp_thermal ht⟩
    · intro hj ht
      exact ⟨_, rfl, by rw [if_pos ⟨hj, hr, ht⟩]; simp⟩
    · intro hd
      have ho : s.barOpen 0 = true := (Bool.and_eq_true_iff.1 hd).1
      refine ⟨s.readTherm, ?_, rfl, rfl⟩
      change execDevThermRead s = _
      simp [execDevThermRead, State.onBar_open ho, hd]
end

section
/-!
Accesses to the registers of PF BAR0 (R144, R148): which operation a read or a write runs, a whole write of a register of
the DEV, ENT and FLT blocks, and what a refused access leaves.
-/
namespace Sys2Proof.Machine
open Sys2Proof

theorem State.barOpen_of_barUp {s : State} {fn : Nat} (h : s.barUp fn = true) : s.barOpen fn = true :=
  (Bool.and_eq_true_iff.1 h).1

theorem State.fwRunning_of_barUp {s : State} {fn : Nat} (h : s.barUp fn = true) : s.fwRunning = true :=
  (Bool.and_eq_true_iff.1 h).2

theorem State.devUp_of_barUp {s : State} (h : s.barUp 0 = true) : s.devUp = true := by
  simp [State.devUp, State.barOpen_of_barUp h, State.fwRunning_of_barUp h]

/-- In D3hot a function answers every memory request as unsupported (R144). -/
theorem State.onBar_d3hot {s : State} {fn : Nat} (hl : s.boot.link = .up) (hc : s.boot.cut = false)
    (hp : (s.fn fn).present = true) (hd : (s.fn fn).d3hot = true) (act : State → State) :
    s.onBar fn act = s.emit (.unsupported fn) := by
  simp [State.onBar, hl, hc, hp, hd]

theorem State.barSize_pf (s : State) : s.barSize 0 = 0x4000000 := if_pos rfl

theorem execRegisterWrite_write {s : State} {fn off : Nat} (h : s.barUp fn = true) (ho : off < s.barSize fn) (size : Nat)
    (v : BitVec 64) : execRegisterWrite fn off size (.write v) s = .next (s.barWriteOp fn off size v) := by
  simp [execRegisterWrite, State.onBar_up h, Nat.not_le.2 ho]

theorem execRegisterWrite_read {s : State} {fn off : Nat} (h : s.barUp fn = true) (ho : off < s.barSize fn) (size : Nat) :
    execRegisterWrite fn off size .read s = .next (s.barReadOp fn off size) := by
  simp [execRegisterWrite, State.onBar_up h, Nat.not_le.2 ho]

/-- What a whole write of a register carries. -/
def RegWrite.whole (v : BitVec 64) : RegWrite := { bits := v, mask := BitVec.allOnes 64 }

theorem regWrite_whole {off : Nat} (h : off % 8 = 0) (v : BitVec 64) : regWrite off 8 v = some (.whole v) := by
  simp [regWrite, h, RegWrite.whole]

theorem State.barWriteOp_dev {s : State} {reg : Nat} (h : s.barUp 0 = true) (ha : reg % 8 = 0) (hr : reg < 0x10000)
    (v : BitVec 64) : s.barWriteOp 0 reg 8 v = s.writeDev reg (.whole v) := by
  have e : reg / 8 * 8 = reg := by omega
  simp [State.barWriteOp, regWrite_whole ha, hr, State.devUp_of_barUp h, e]

/-- The blocks from ENT to FUSE hold flags alone. -/
theorem State.barWriteOp_flags {s : State} {reg : Nat} (h : s.barUp 0 = true) (ha : reg % 8 = 0) (h1 : 0x300000 ≤ reg)
    (h2 : reg < 0x700000) (v : BitVec 64) : s.barWriteOp 0 reg 8 v = s.writeFlags reg (.whole v) := by
  have e : reg / 8 * 8 = reg := by omega
  have n0 : ¬ reg < 0x10000 := by omega
  have n1 : ¬ reg < 0x100000 := by omega
  have n2 : ¬ reg < 0x110000 := by omega
  have n3 : ¬ reg < 0x200000 := by omega
  have n4 : ¬ reg < 0x300000 := by omega
  have n5 : ¬ 0x700000 ≤ reg := by omega
  simp [State.barWriteOp, regWrite_whole ha, State.writePf, State.fwRunning_of_barUp h, e, n0, n1, n2, n3, n4, n5]

/-- EVT_ACCESS.BAD_ACCESS stands after a refused access. -/
theorem State.setAccess_access (s : State) : (s.setAccess 0).flt.access.getLsbD 0 = true := by
  have hd (t : State) : t.deviceEvent.flt = t.flt := State.deviceEvent_get t (fld := .flt) (by simp)
  unfold State.setAccess
  dsimp only
  split
  · assumption
  · simp [hd]

theorem State.barWriteOp_refused {s : State} {off size : Nat} {v : BitVec 64} (h : s.barUp 0 = true)
    (hw : regWrite off size v = none) : s.barWriteOp 0 off size v = s.setAccess 0 := by
  simp [State.barWriteOp, hw, State.fwRunning_of_barUp h]

theorem State.barReadOp_refused {s : State} {off size : Nat} (h : s.barUp 0 = true)
    (hb : partOf off size = none ∨ pfListed (off / 8 * 8) = false) :
    s.barReadOp 0 off size = (s.setAccess 0).emit (.regData 0) := by
  rcases hb with hb | hb <;> simp [State.barReadOp, hb, State.fwRunning_of_barUp h]

theorem State.writeDev_pwrLimit (s : State) (v : BitVec 64) :
    (s.writeDev 0x20 (.whole v)).power = { s.power with tierFloor := v.truncate 2 } := by
  simp [State.writeDev, RegWrite.whole, State.writePwrLimit_power]

theorem State.writeDev_therm (s : State) (v : BitVec 64) : (s.writeDev 0x28 (.whole v)).thermal
    = { s.thermal with throttleEvt := s.thermal.throttleEvt && !v.getLsbD 2 } := by
  unfold State.writeDev
  cases hv : v.getLsbD 2 <;> simp only [RegWrite.whole, hv] <;> simp

theorem State.writeFlags_flt (s : State) (v : BitVec 64) :
    s.writeFlags 0x400008 (.whole v) = s.mapFlt fun f => { f with evt := f.evt &&& ~~~ (v.truncate 10) } := by
  simp [State.writeFlags, RegWrite.whole]

theorem State.writeFlags_ent (s : State) (v : BitVec 64) :
    s.writeFlags 0x300010 (.whole v) = s.mapEnt fun e => { e with evt := e.evt &&& ~~~ (v.truncate 8) } := by
  simp [State.writeFlags, RegWrite.whole]

theorem State.writeFlags_access (s : State) (v : BitVec 64) :
    s.writeFlags 0x400800 (.whole v) = s.mapFlt fun f => { f with access := f.access &&& ~~~ (v.truncate 2) } := by
  simp [State.writeFlags, RegWrite.whole]

/-! ### Event counters (R500) -/

/-- What a read of event counters leaves of every counter of its register. -/
theorem Sparse.get_zeroed (m : Sparse Nat) (l : List Nat) (g : Nat → Nat) (hg : ∀ i j, g i = g j → i = j) (k : Nat) :
    (l.foldl (fun m i => m.set 0 (g i) 0) m).get 0 (g k) = if k ∈ l then 0 else m.get 0 (g k) := by
  induction l generalizing m with
  | nil => simp
  | cons i l ih =>
    rw [List.foldl_cons, ih, Sparse.get_set]
    by_cases hi : k = i
    · simp [hi]
    · have hne : ¬ g i = g k := fun e => hi (hg i k e).symm
      simp [hi, hne]

/-! The value read packs the counters; the base is kept abstract, so that no proof computes with 2 ^ 48. -/

theorem packed_whole (c : Nat → Nat) (b : Nat) :
    (partCounters .whole).zipIdx.foldl (fun n (k, i) => n + c k * b ^ (16 * i)) 0
      = c 0 + c 1 * b ^ 16 + c 2 * b ^ 32 + c 3 * b ^ 48 := by
  simp [partCounters]

theorem packed_low (c : Nat → Nat) (b : Nat) :
    (partCounters .low).zipIdx.foldl (fun n (k, i) => n + c k * b ^ (16 * i)) 0 = c 0 + c 1 * b ^ 16 := by
  simp [partCounters]

theorem packed_high (c : Nat → Nat) (b : Nat) :
    (partCounters .high).zipIdx.foldl (fun n (k, i) => n + c k * b ^ (16 * i)) 0 = c 2 + c 3 * b ^ 16 := by
  simp [partCounters]

theorem execEvtCounterRead_listed {s : State} {bank reg : Nat} (h : s.barUp 0 = true) (hr : reg ≤ 3)
    (hb : bankListed bank = true) (part : ReadPart) :
    execEvtCounterRead bank reg part s = .next ((s.mapFlt fun f => { f with
      counts := (partCounters part).foldl (fun m k => m.set 0 (16 * bank + 4 * reg + k) 0) f.counts }).emit
        (.regData (BitVec.ofNat 64 ((partCounters part).zipIdx.foldl
          (fun n (k, i) => n + s.flt.counts.get 0 (16 * bank + 4 * reg + k) * 2 ^ (16 * i)) 0)))) := by
  simp [execEvtCounterRead, State.onBar_up h, Nat.not_lt.2 hr, State.fwRunning_of_barUp h, State.readCounters, hb]

end Sys2Proof.Machine

open Sys2Proof Sys2Proof.Machine

/-- Settles O24: each access runs the operation its offset names. -/
theorem registerAccessesComplete : Obligations.RegisterAccessesComplete := by
  intro s fn off v hl hc
  refine ⟨fun h => ⟨?_, ?_, ?_, ?_, ?_, ?_, ?_, ?_⟩, ?_⟩
  · refine ⟨_, execRegisterWrite_write h (by simp [State.barSize_pf]) 8 v, ?_⟩
    rw [State.barWriteOp_dev h (by decide) (by decide)]
    exact State.writeDev_pwrLimit s v
  · refine ⟨_, execRegisterWrite_write h (by simp [State.barSize_pf]) 8 v, ?_⟩
    rw [State.barWriteOp_dev h (by decide) (by decide)]
    exact State.writeDev_therm s v
  · refine ⟨_, execRegisterWrite_write h (by simp [State.barSize_pf]) 8 v, ?_⟩
    rw [State.barWriteOp_flags h (by decide) (by decide) (by decide)]
    exact State.writeFlags_flt s v
  · refine ⟨_, execRegisterWrite_write h (by simp [State.barSize_pf]) 8 v, ?_⟩
    rw [State.barWriteOp_flags h (by decide) (by decide) (by decide)]
    exact State.writeFlags_ent s v
  · refine ⟨_, execRegisterWrite_write h (by simp [State.barSize_pf]) 8 v, ?_⟩
    rw [State.barWriteOp_flags h (by decide) (by decide) (by decide)]
    exact State.writeFlags_access s v
  · intro size ho hw
    refine ⟨_, execRegisterWrite_write h (by rwa [State.barSize_pf]) size v, ?_⟩
    rw [State.barWriteOp_refused h hw]
    exact State.setAccess_access s
  · intro size ho hb
    refine ⟨_, execRegisterWrite_read h (by rwa [State.barSize_pf]) size, ?_⟩
    rw [State.barReadOp_refused h hb]
    exact ⟨State.setAccess_access s, rfl⟩
  · intro bank reg part hr hb
    have hg : ∀ i j, 16 * bank + 4 * reg + i = 16 * bank + 4 * reg + j → i = j := by omega
    refine ⟨_, execEvtCounterRead_listed h hr hb part, fun k hk => ?_, fun k _ hk => ?_, ?_⟩
    · simp [Sparse.get_zeroed _ _ _ hg, hk]
    · simp [Sparse.get_zeroed _ _ _ hg, hk]
    · let c (k : Nat) := s.flt.counts.get 0 (16 * bank + 4 * reg + k)
      cases part with
      | whole => exact congrArg (fun n => Out.regData (BitVec.ofNat 64 n) :: s.out) (packed_whole c 2)
      | low => exact congrArg (fun n => Out.regData (BitVec.ofNat 64 n) :: s.out) (packed_low c 2)
      | high => exact congrArg (fun n => Out.regData (BitVec.ofNat 64 n) :: s.out) (packed_high c 2)
  · intro hp hd ho size access
    refine ⟨_, ?_, rfl⟩
    change execRegisterWrite fn off size access s = _
    simp [execRegisterWrite, State.onBar_d3hot hl hc hp hd, Nat.not_le.2 ho]
end

section
/-!
Sensors and fault events (R57, R482 to R495): what flags and records leave of the fault state, the count of a fault event
below and at its threshold, and the major response, the minor events, the retired words and the dropped cores built on them.
-/
namespace Sys2Proof.Machine
open Sys2Proof

/-! ### What flags and records leave of the fault state -/

/-- The fault state without its flags, their counters and the last code: what no flag and no record changes. -/
def Faults.unflagged (f : Faults) : Faults := { f with lastCode := 0, evt := 0, counts := [] }

/-- `g` is `f` after flags were set and records written: nothing else differs, and no flag of FLT_EVT fell. -/
structure Faults.Flagged (f g : Faults) : Prop where
  rest : g.unflagged = f.unflagged
  rise : ∀ b, f.evt.getLsbD b = true → g.evt.getLsbD b = true

/-- The root disable that is pending after one was ordered or run (R490). -/
def Faults.disabling (f : Faults) (r : Option Nat) : Faults := { f with rootPending := r }

/-- A major response is counted and active (R489). -/
def Faults.responding (f : Faults) : Faults := { f with active := true, majorCount := satInc f.majorCount }

theorem Faults.Flagged.refl (f : Faults) : f.Flagged f := ⟨rfl, fun _ h => h⟩

theorem Faults.Flagged.of_eq {f g : Faults} (h : g = f) : f.Flagged g := h ▸ .refl f

theorem Faults.Flagged.trans {f g h : Faults} (a : f.Flagged g) (b : g.Flagged h) : f.Flagged h :=
  ⟨b.rest.trans a.rest, fun i hi => b.rise i (a.rise i hi)⟩

section
variable {f g : Faults} (h : f.Flagged g)
include h

theorem Faults.Flagged.active : g.active = f.active := (congrArg Faults.active h.rest :)
theorem Faults.Flagged.majorCount : g.majorCount = f.majorCount := (congrArg Faults.majorCount h.rest :)
theorem Faults.Flagged.rootPending : g.rootPending = f.rootPending := (congrArg Faults.rootPending h.rest :)
theorem Faults.Flagged.history : g.history = f.history := (congrArg Faults.history h.rest :)
theorem Faults.Flagged.spares : g.spares = f.spares := (congrArg Faults.spares h.rest :)
theorem Faults.Flagged.retired : g.retired = f.retired := (congrArg Faults.retired h.rest :)
theorem Faults.Flagged.cores : g.cores = f.cores := (congrArg Faults.cores h.rest :)
theorem Faults.Flagged.sensors : g.sensors = f.sensors := (congrArg Faults.sensors h.rest :)

theorem Faults.Flagged.disabling (r : Option Nat) : (f.disabling r).Flagged (g.disabling r) :=
  ⟨congrArg (Faults.disabling · r) h.rest, h.rise⟩

end

/-- A choice between two states that both only have flags set. -/
theorem Faults.Flagged.ite {f : Faults} {c : Prop} [Decidable c] {s t : State} (hs : c → f.Flagged s.flt)
    (ht : ¬ c → f.Flagged t.flt) : f.Flagged (if c then s else t).flt := by
  split
  · exact hs ‹_›
  · exact ht ‹_›

theorem State.deviceEvent_flt (s : State) : s.deviceEvent.flt = s.flt := State.deviceEvent_get s (fld := .flt) (by simp)

theorem State.countEvt_flagged (s : State) (bank bit : Nat) : s.flt.Flagged (s.countEvt bank bit).flt :=
  ⟨rfl, fun _ h => h⟩

theorem State.setFlt_flagged (s : State) (b : Nat) : s.flt.Flagged (s.setFlt b).flt := by
  refine .ite (fun _ => s.countEvt_flagged 0 b) fun _ => (s.countEvt_flagged 0 b).trans ?_
  rw [State.deviceEvent_flt]
  exact ⟨rfl, fun i hi => by simp [hi]⟩

/-- A flag stands once it is set. -/
theorem State.setFlt_evt (s : State) {b : Nat} (hb : b < 10) : (s.setFlt b).flt.evt.getLsbD b = true := by
  unfold State.setFlt
  dsimp only
  split
  · assumption
  · simp [State.deviceEvent_flt, hb]

theorem State.setAlert_flagged (s : State) (b : Nat) : s.flt.Flagged (s.setAlert b).flt := by
  refine .ite (fun _ => s.countEvt_flagged 6 b) fun _ => (s.countEvt_flagged 6 b).trans (.of_eq ?_)
  exact State.raiseIbi_get _ _ (fld := .flt) (by simp)

theorem State.setSieve_flagged (s : State) (b : Nat) : s.flt.Flagged (s.setSieve b).flt := by
  refine .ite (fun _ => s.countEvt_flagged 1 b) fun _ => (s.countEvt_flagged 1 b).trans (.of_eq ?_)
  exact State.deviceEvent_flt _

theorem State.setClassFlag_flagged (s : State) (c : Nat) : s.flt.Flagged (s.setClassFlag c).flt := by
  unfold State.setClassFlag
  split
  · exact s.setFlt_flagged _
  · exact .refl _

theorem State.writeRec_flagged (s : State) (r : LogRec) : s.flt.Flagged (s.writeRec r).flt := by
  refine .ite (fun _ => .trans ?_ (State.setAlert_flagged _ 1)) fun _ =>
    .ite (fun _ => State.setFlt_flagged (s.mapLogs _) 9) fun _ => .refl _
  exact ⟨rfl, fun _ h => h⟩

theorem State.addRec_flagged (s : State) (r : LogRec) : s.flt.Flagged (s.addRec r).flt :=
  .ite (fun _ => s.writeRec_flagged r) fun _ => .ite (fun _ => .refl _) fun _ => .refl _

theorem State.log_flagged (s : State) (code : BitVec 16) (kind cls unit detail : Nat) :
    s.flt.Flagged (s.log code kind cls unit detail).flt := s.addRec_flagged _

theorem State.undelivered_flagged (s : State) (j : Job) : s.flt.Flagged (s.undelivered j).flt := by
  unfold State.undelivered
  split
  · exact s.addRec_flagged _
  · exact .refl _

theorem State.foldl_undelivered_flagged (l : List Job) (s : State) : s.flt.Flagged (l.foldl State.undelivered s).flt := by
  induction l generalizing s with
  | nil => exact .refl _
  | cons j l ih => exact (s.undelivered_flagged j).trans (ih _)

/-- All holds are asserted: the guard alone changes, but for MG_ALERT (R131, R160). -/
theorem State.guardly_holdAll_flagged (s : State) : s.flt.Flagged (s.guardly State.holdAll).flt := by
  have h : s.holdAll.flt = s.flt := State.holdAll_get s (fld := .flt) (by simp)
  exact .ite (fun _ => h ▸ s.holdAll.setAlert_flagged 2) fun _ => .of_eq h

/-! ### Root disable (R490) -/

/-- The words of one burn hold its data, every other word is as it was. -/
theorem State.burnAll_data (ws : List Nat) (d : BitVec 32) (s : State) (w : Nat) :
    ((s.burnAll (ws.map fun w => (w, d))).fuses.shadowOf w).data = if w ∈ ws then d else (s.fuses.shadowOf w).data := by
  induction ws generalizing s with
  | nil => rfl
  | cons a ws ih =>
    have hb : ((s.burn a d).fuses.shadowOf w).data = if a = w then d else (s.fuses.shadowOf w).data := by
      simp only [State.burn, State.mapFuses_fuses, Fuses.shadowOf, Sparse.get_set]
      split <;> rfl
    have := ih (s.burn a d)
    simp only [State.burnAll, List.map_cons, List.foldl_cons, List.mem_cons] at this ⊢
    rw [this, hb]
    by_cases ha : a = w <;> by_cases hm : w ∈ ws <;> simp [ha, hm, Ne.symm]

theorem State.disableRoot_flagged (s : State) (e : Nat) :
    (s.flt.disabling none).Flagged (s.disableRoot e).flt := by
  have h : (s.burnTrip [(336 + 2 + e, rootDisableData)]).flt = s.flt := State.burnTrip_get _ _ (fld := .flt) (by simp)
  rw [← h]
  exact State.log_flagged ((s.burnTrip [(336 + 2 + e, rootDisableData)]).mapFlt (Faults.disabling · none)) 0x0690 2 255 0 e

theorem State.disableRoot_data (s : State) (e : Nat) {w : Nat} (hw : w ∈ copies (338 + e)) :
    ((s.disableRoot e).fuses.shadowOf w).data = rootDisableData := by
  have h : (s.disableRoot e).fuses = (s.burnTrip [(338 + e, rootDisableData)]).fuses :=
    State.log_get _ _ _ _ _ _ (fld := .fuses) (by simp)
  rw [h]
  exact (State.burnAll_data _ _ _ _).trans (if_pos hw)

theorem State.orderDisable_flagged (s : State) :
    ∃ r, (s.flt.disabling r).Flagged s.orderDisable.flt := by
  unfold State.orderDisable
  dsimp only
  split
  · exact ⟨none, s.disableRoot_flagged _⟩
  · exact ⟨some s.fuses.epoch, .refl _⟩

/-! ### The major response (R488 to R490) -/

theorem State.clearDru_owner (s : State) (o : DruOwner) : (s.clearDru o).dru.owner = o := by
  unfold State.clearDru State.newSaveKey
  split <;> rfl

/-- Of the fault state the major response changes its own fields, flags and records; it raises FLT_EVT.MAJOR. -/
theorem State.majorRun_flt (s : State) (code : BitVec 16) (cls detail : Nat) :
    (∃ r, (s.flt.responding.disabling r).Flagged (s.majorRun code cls detail).flt)
    ∧ (s.majorRun code cls detail).flt.evt.getLsbD 3 = true := by
  unfold State.majorRun
  extract_lets pol cut jobs s1 s2 s3 s4 s5 s6 s7 s8 s9
  have h2 : s2.flt = s.flt.responding := by
    have h1 : s1.get .flt = s.get .flt := by simp [s1]
    exact congrArg Faults.responding h1
  have h4 : s4.flt = s2.flt := by
    change s4.get .flt = s2.get .flt
    simp [s4, s3]
  have h5 : s4.flt.Flagged s5.flt := .ite (fun _ => s4.guardly_holdAll_flagged) fun _ => .refl _
  have h6 : s6.flt = s5.flt := by
    change s6.get .flt = s5.get .flt
    simp [s6]
  have h7 : s6.flt.Flagged s7.flt := s6.log_flagged code 2 cls 0 detail
  have h8 : s7.flt.Flagged s8.flt := .ite (fun _ => (s7.addRec_flagged _).trans ((State.foldl_undelivered_flagged jobs _).trans
    (.of_eq (State.forgetWaits_get _ (fld := .flt) (by simp))))) fun _ => .refl _
  have h : s2.flt.Flagged s8.flt := (h4 ▸ h5).trans ((h6 ▸ h7).trans h8)
  have h9 : ∃ r, (s8.flt.disabling r).Flagged s9.flt := by
    by_cases hp : pol.getLsbD 1 = true
    · simpa only [s9, hp, if_true] using s8.orderDisable_flagged
    · exact ⟨s8.flt.rootPending, .of_eq (congrArg State.flt (if_neg hp))⟩
  obtain ⟨r, h9⟩ := h9
  exact ⟨⟨r, (h2 ▸ h.disabling r).trans (h9.trans (s9.setFlt_flagged 3))⟩, s9.setFlt_evt (by decide)⟩

/-- The major response empties the key stores and leaves the digest unit without an owner. -/
theorem State.majorRun_spoils (s : State) (code : BitVec 16) (cls detail : Nat) :
    (s.majorRun code cls detail).keys.ctx = [] ∧ (s.majorRun code cls detail).keys.imported = []
    ∧ (s.majorRun code cls detail).dru.owner = .none := by
  unfold State.majorRun
  extract_lets pol cut jobs s1 s2 s3 s4 s5 s6 s7 s8 s9
  have hk : (s9.setFlt 3).keys = (s3.spoilKeyStores false).keys := by
    change (s9.setFlt 3).get .keys = (s3.spoilKeyStores false).get .keys
    simp [s9, s8, s7, s6, s5, s4]
  have hd : (s9.setFlt 3).dru = s4.dru := by
    change (s9.setFlt 3).get .dru = s4.get .dru
    simp [s9, s8, s7, s6, s5]
  rw [hk, hd]
  exact ⟨rfl, rfl, State.clearDru_owner _ _⟩

theorem State.majorTamper_run {s : State} (hv : s.power.vinValid = true) (hr : s.boot.serviceReady = true) (code : BitVec 16)
    (cls detail : Nat) : s.majorTamper code cls detail = s.majorRun code cls detail := by
  simp [State.majorTamper, hv, hr]

/-- A sensor that reports begins the major response. -/
theorem State.begin_major {s : State} (hv : s.power.vinValid = true) (hr : s.boot.serviceReady = true) (sensor : Nat)
    (code : BitVec 16) (cls detail : Nat) :
    let t := s.begin sensor fun s => s.majorTamper code cls detail
    t.flt.active = true ∧ t.flt.majorCount = satInc s.flt.majorCount ∧ t.keys.ctx = [] ∧ t.keys.imported = []
      ∧ t.dru.owner = .none ∧ t.flt.evt.getLsbD 3 = true := by
  intro t
  have ht : t = (s.mapFlt _).majorRun code cls detail := State.majorTamper_run (s := s.mapFlt _) hv hr code cls detail
  obtain ⟨⟨r, hf⟩, he⟩ := (s.mapFlt _).majorRun_flt code cls detail
  obtain ⟨hc, hi, ho⟩ := (s.mapFlt _).majorRun_spoils code cls detail
  rw [ht]
  exact ⟨hf.active, hf.majorCount, hc, hi, ho, he⟩

theorem State.islandOn_of_vin {s : State} (h : s.power.vinValid = true) : s.islandOn = true := by simp [State.islandOn, h]

/-! ### The count of a fault event (R485) -/

theorem State.faultEvent_below {s : State} {c obj : Nat} (h : (s.recent c obj).length + 1 < classThreshold c) :
    ∃ l, s.faultEvent c obj
      = (s.mapFlt fun f => { f with history := { cls := c, obj := obj, tick := s.now } :: l }, false) :=
  ⟨_, if_pos h⟩

theorem State.faultEvent_lasting {s : State} {c obj : Nat} (h : classThreshold c ≤ (s.recent c obj).length + 1) :
    ∃ l, s.faultEvent c obj
      = (s.mapFlt fun f => { f with history := l, lasting := bumpLasting f.lasting c }, true) :=
  ⟨_, if_neg (Nat.not_lt.2 h)⟩

/-- Flags and records leave the events in their windows. -/
theorem State.recent_flagged {s t : State} (h : s.flt.Flagged t.flt) (hk : t.keeper = s.keeper) (c obj : Nat) :
    t.recent c obj = s.recent c obj := by
  unfold State.recent State.now
  rw [h.history, hk]

theorem State.log_keeper (s : State) (code : BitVec 16) (kind cls unit detail : Nat) :
    (s.log code kind cls unit detail).keeper = s.keeper := State.log_get _ _ _ _ _ _ (fld := .keeper) (by simp)

/-- A lockstep mismatch at run time raises its flag and is major at once: class 3 has the threshold 1. -/
theorem State.lockstep_major {s : State} (hv : s.power.vinValid = true) (hr : s.boot.serviceReady = true) :
    let t := ((s.setFlt 4).faultEvent 3 0).1.majorTamper 0x0623 3 0
    t.flt.active = true ∧ t.flt.evt.getLsbD 4 = true ∧ t.keys.ctx = [] := by
  intro t
  obtain ⟨l, e⟩ := State.faultEvent_lasting (s := s.setFlt 4) (c := 3) (obj := 0) (Nat.le_add_left 1 _)
  have hp : (s.setFlt 4).power = s.power := State.setFlt_get s 4 (fld := .power) (by simp)
  have hb : (s.setFlt 4).boot = s.boot := State.setFlt_get s 4 (fld := .boot) (by simp)
  have ht : t = (((s.setFlt 4).faultEvent 3 0).1).majorRun 0x0623 3 0 := by
    refine State.majorTamper_run ?_ ?_ _ _ _
    · rw [e]; exact hp ▸ hv
    · rw [e]; exact hb ▸ hr
  obtain ⟨⟨r, hf⟩, -⟩ := ((s.setFlt 4).faultEvent 3 0).1.majorRun_flt 0x0623 3 0
  obtain ⟨hc, -⟩ := ((s.setFlt 4).faultEvent 3 0).1.majorRun_spoils 0x0623 3 0
  rw [ht]
  refine ⟨hf.active, hf.rise 4 ?_, hc⟩
  rw [e]
  exact s.setFlt_evt (by decide)

/-! ### Minor events (R482, R487) -/

/-- A stop that is no DMA fault leaves the key stores, their in-flight counts included. -/
theorem State.stopJob_keys (s : State) (j : Job) {status : Status} (h : status ≠ st.dmaFault) :
    (s.stopJob j status).keys = s.keys := by
  have hd (t : State) : (t.dropStream j).keys = t.keys := State.dropStream_get t j (fld := .keys) (by simp)
  simp [State.stopJob, State.uncount, h, hd]

theorem State.stopNow_keys (s : State) (p : Job → Bool) {status : Status} (h : status ≠ st.dmaFault) :
    (s.stopNow p status).keys = s.keys := by
  change (s.stopNow p status).get .keys = s.get .keys
  exact State.get_foldl _ _ (f := .keys) (fun t j => t.stopJob_keys j h) s

/-- A minor event on VIN up to its count: the jobs it abandons, its record and its flag. -/
def State.minorNoted (s : State) (cls : Nat) : State :=
  let hit := s.jobs.filter fun j => j.secret && !j.ended
  let drop : Bool := decide (cls < 2)
  let t := if drop then s.stopNow Job.secret st.abortedTamper else s
  (t.log (BitVec.ofNat 16 (0x0681 + cls)) 2 cls 0 (if drop then hit.length % 65536 else 0)).setClassFlag cls

theorem State.minorNoted_flagged (s : State) (cls : Nat) : s.flt.Flagged (s.minorNoted cls).flt := by
  refine .trans ?_ (State.setClassFlag_flagged _ cls)
  refine .trans (.ite (fun _ => .of_eq ?_) fun _ => .refl _) (State.log_flagged _ _ _ _ _ _)
  exact State.stopNow_get _ _ _ (fld := .flt) (by simp)

theorem State.minorNoted_keeper (s : State) (cls : Nat) : (s.minorNoted cls).keeper = s.keeper := by
  change (s.minorNoted cls).get .keeper = s.get .keeper
  simp [State.minorNoted]

theorem State.minorNoted_keys (s : State) (cls : Nat) : (s.minorNoted cls).keys = s.keys := by
  have hs : (s.stopNow Job.secret st.abortedTamper).get .keys = s.get .keys := s.stopNow_keys _ (by decide)
  change (s.minorNoted cls).get .keys = s.get .keys
  simp [State.minorNoted, hs]

/-- A class that abandons no job leaves every job. -/
theorem State.minorNoted_jobs (s : State) {cls : Nat} (h : ¬ cls < 2) : (s.minorNoted cls).jobs = s.jobs := by
  change (s.minorNoted cls).get .jobs = s.get .jobs
  simp [State.minorNoted, h]

/-- Below its threshold a minor event is counted and noted, and nothing more. -/
theorem State.minor_below {s : State} {cls : Nat} (hv : s.power.vinValid = true)
    (h : (s.recent cls 0).length + 1 < classThreshold cls) :
    ∃ l, s.minor cls
      = (s.minorNoted cls).mapFlt fun f => { f with history := { cls := cls, obj := 0, tick := s.now } :: l } := by
  have hr := State.recent_flagged (s.minorNoted_flagged cls) (s.minorNoted_keeper cls) cls 0
  have hn : (s.minorNoted cls).now = s.now := congrArg Keeper.ticks (s.minorNoted_keeper cls)
  obtain ⟨l, e⟩ := State.faultEvent_below (s := s.minorNoted cls) (c := cls) (obj := 0) (hr ▸ h)
  rw [hn] at e
  refine ⟨l, ?_⟩
  dsimp only [State.minorNoted] at e ⊢
  simp only [State.minor, hv, Bool.not_true, Bool.false_eq_true, if_false, e]

/-- What a minor event below its threshold leaves: the sensors as they were, the event at the head of the history, the
key stores, and the jobs but for a voltage or clock event. -/
theorem State.minor_below_effect {s : State} {cls : Nat} (hv : s.power.vinValid = true)
    (h : (s.recent cls 0).length + 1 < classThreshold cls) :
    (s.minor cls).flt.sensors = s.flt.sensors
    ∧ (s.minor cls).flt.history.head? = some { cls := cls, obj := 0, tick := s.now }
    ∧ (s.minor cls).keys = s.keys ∧ (¬ cls < 2 → (s.minor cls).jobs = s.jobs) := by
  obtain ⟨l, e⟩ := State.minor_below hv h
  rw [e]
  exact ⟨(s.minorNoted_flagged cls).sensors, rfl, s.minorNoted_keys cls, fun hc => s.minorNoted_jobs hc⟩

/-- A minor condition that begins is present, and its event is counted. -/
theorem State.minorBegins_effect {s : State} {cls : Nat} (hv : s.power.vinValid = true) (hw : s.watched cls = true)
    (h : (s.recent cls 0).length + 1 < classThreshold cls) :
    (s.minorBegins cls).flt.sensors.contains (0x81 + cls) = true
    ∧ (s.minorBegins cls).flt.history.head? = some { cls := cls, obj := 0, tick := s.now }
    ∧ (s.minorBegins cls).keys = s.keys ∧ (¬ cls < 2 → (s.minorBegins cls).jobs = s.jobs) := by
  unfold State.minorBegins
  rw [if_pos hw]
  obtain ⟨hs, hh, hk, hj⟩ := State.minor_below_effect (s := s.mapFlt fun f => { f with
    sensors := if f.sensors.contains (0x81 + cls) then f.sensors else (0x81 + cls) :: f.sensors }) hv h
  refine ⟨?_, hh, hk, hj⟩
  rw [hs, State.mapFlt_flt]
  dsimp only
  split
  · assumption
  · simp

/-! ### Words (R493) -/

theorem Keys.record_setRec (k : Keys) (i n : Nat) (c : Ctx) :
    (k.setRec i c).record n = if i = n then c else k.record n := Sparse.get_set _ _ _ _ _

theorem OpStore.slot_spoil (o : OpStore) (n : Nat) : (o.spoil n).slot n = { Slot.blank with owner := (o.slot n).owner } := by
  simp [OpStore.spoil, OpStore.setSlot, OpStore.slot]

/-- A corrected error up to its count: its record and its flag. -/
def State.correctedNoted (s : State) (w : SramWord) : State := (s.log 0x0706 1 4 (unitWord 6 w.bank) w.offset).setFlt 5

theorem State.correctedNoted_flagged (s : State) (w : SramWord) : s.flt.Flagged (s.correctedNoted w).flt :=
  (s.log_flagged _ _ _ _ _).trans (State.setFlt_flagged _ 5)

theorem State.correctedNoted_keeper (s : State) (w : SramWord) : (s.correctedNoted w).keeper = s.keeper :=
  (State.setFlt_get _ 5 (fld := .keeper) (by simp)).trans (s.log_keeper _ _ _ _ _)

/-- A corrected error below its threshold is noted and counted. -/
theorem execSramCorrected_below {s : State} {w : SramWord} (hc : s.cdRunning = true)
    (h : (s.recent 4 (SramWord.num w)).length + 1 < classThreshold 4) :
    ∃ t, execSramCorrected w s = .next t ∧ t.flt.evt.getLsbD 5 = true ∧ t.flt.spares = s.flt.spares
      ∧ t.flt.history.head? = some { cls := 4, obj := SramWord.num w, tick := s.now } := by
  have hn : (s.correctedNoted w).now = s.now := congrArg Keeper.ticks (s.correctedNoted_keeper w)
  rw [← State.recent_flagged (s.correctedNoted_flagged w) (s.correctedNoted_keeper w)] at h
  obtain ⟨l, e⟩ := State.faultEvent_below h
  refine ⟨((s.correctedNoted w).faultEvent 4 (SramWord.num w)).1, ?_, ?_⟩
  · rw [e]
    dsimp only [State.correctedNoted] at e ⊢
    simp only [execSramCorrected, hc, Bool.not_true, Bool.false_eq_true, if_false, e]
  · rw [e, hn]
    exact ⟨State.setFlt_evt _ (by decide), (s.correctedNoted_flagged w).spares, rfl⟩

theorem State.loseWord_flagged (s : State) (w : SramWord) : s.flt.Flagged (s.loseWord w).flt := by
  unfold State.loseWord
  split
  case h_6 =>
    split
    · exact s.setSieve_flagged 6
    · exact .refl _
  all_goals exact .refl _

/-- A lost word of the context store exhausts the two records it held. -/
theorem State.loseWord_context (s : State) {w : SramWord} {n : Nat} (h : w.store = .context n) :
    ((s.loseWord w).keys.record (2 * n)).state = .exhausted
    ∧ ((s.loseWord w).keys.record (2 * n + 1)).state = .exhausted := by
  simp [State.loseWord, h, Keys.record_setRec]

theorem State.loseWord_operand (s : State) {w : SramWord} {n : Nat} (h : w.store = .operand n) :
    ((s.loseWord w).store.slot n).tag = .empty ∧ ((s.loseWord w).store.slot n).content = [] := by
  simp [State.loseWord, h, OpStore.slot_spoil, Slot.blank]

/-- A word of a bank is retired onto a spare. -/
def Faults.retiring (f : Faults) (bank : Nat) : Faults :=
  { f with spares := f.spares.set 0 bank (f.spares.get 0 bank + 1), retired := f.retired + 1 }

/-- An uncorrectable word of a bank that has a spare is retired, and what it held is lost. -/
theorem State.retire_uncorrectable {s : State} {w : SramWord} (h : s.flt.spares.get 0 w.bank < 64) :
    ∃ u : State, s.retire w 5 = u.loseWord w ∧ (s.flt.retiring w.bank).Flagged u.flt := by
  refine ⟨_, by simp only [State.retire, if_neg (Nat.not_le.2 h), decide_true, if_true]; rfl, ?_⟩
  exact (State.log_flagged (s.mapFlt (Faults.retiring · w.bank)) _ _ _ _ _).trans (State.setFlt_flagged _ 6)

theorem State.sramUe_effect {s : State} {w : SramWord} (h : s.flt.spares.get 0 w.bank < 64) :
    (s.sramUe w).flt.retired = s.flt.retired + 1
    ∧ (s.sramUe w).flt.spares.get 0 w.bank = s.flt.spares.get 0 w.bank + 1
    ∧ (∀ n, w.store = .context n → ((s.sramUe w).keys.record (2 * n)).state = .exhausted
        ∧ ((s.sramUe w).keys.record (2 * n + 1)).state = .exhausted)
    ∧ ∀ n, w.store = .operand n → ((s.sramUe w).store.slot n).tag = .empty ∧ ((s.sramUe w).store.slot n).content = [] := by
  obtain ⟨l, e⟩ := State.faultEvent_lasting (s := s) (c := 5) (obj := 0) (Nat.le_add_left 1 _)
  obtain ⟨u, hu, hf⟩ := State.retire_uncorrectable (s := (s.faultEvent 5 0).1) (w := w) (by rw [e]; exact h)
  have hget {fld : Field} (hm : fld ∈ ([.flt, .keys, .store] : List Field)) : (s.sramUe w).get fld = (u.loseWord w).get fld := by
    simp only [List.mem_cons, List.not_mem_nil, or_false] at hm
    rw [State.sramUe, hu]
    exact State.eccJob_get _ _ (by rcases hm with rfl | rfl | rfl <;> simp)
  have hflt : (s.sramUe w).flt = (u.loseWord w).flt := hget (fld := .flt) (by simp)
  have hkeys : (s.sramUe w).keys = (u.loseWord w).keys := hget (fld := .keys) (by simp)
  have hstore : (s.sramUe w).store = (u.loseWord w).store := hget (fld := .store) (by simp)
  have hl := hf.trans (u.loseWord_flagged w)
  rw [e] at hl
  rw [hflt, hkeys, hstore]
  refine ⟨hl.retired, ?_, fun n hn => u.loseWord_context hn, fun n hn => u.loseWord_operand hn⟩
  rw [hl.spares]
  simp [Faults.retiring]

/-! ### Hash cores (R494) -/

theorem State.dropUnit_flagged (s : State) (cls obj unit : Nat) :
    (s.flt.drop cls obj).Flagged (s.dropUnit cls obj unit).flt :=
  (State.log_flagged (s.mapFlt fun f => f.drop cls obj) _ _ _ _ _).trans (State.setFlt_flagged _ 7)

theorem Faults.drop_core {f : Faults} {core : Nat} (h : core ∉ f.cores) : (f.drop 6 core).cores = core :: f.cores := by
  simp [Faults.drop, h]

/-- A self-check mismatch is counted; the one that reaches the threshold drops the core. -/
theorem State.coreBad_cores {s : State} {core : Nat} (hc : s.cdRunning = true) (hl : core < 16 * s.groups)
    (hu : s.flt.cores.contains core = false) :
    ((s.recent 6 core).length + 1 < classThreshold 6 → (s.coreBad core).flt.cores = s.flt.cores)
    ∧ (classThreshold 6 ≤ (s.recent 6 core).length + 1 → (s.coreBad core).flt.cores = core :: s.flt.cores) := by
  have hf := s.log_flagged 0x0707 1 6 (unitWord 2 core) 0
  have hr := State.recent_flagged hf (s.log_keeper _ _ _ _ _) 6 core
  have hn : core ∉ s.flt.cores := by simpa using hu
  have hg : ¬ (s.cdRunning = false ∨ 16 * s.groups ≤ core ∨ s.flt.cores.contains core = true) := by simp [hc, hl, hn]
  rw [← hr]
  refine ⟨fun h => ?_, fun h => ?_⟩
  · obtain ⟨l, e⟩ := State.faultEvent_below h
    simp only [State.coreBad, if_neg hg, e]
    exact hf.cores
  · obtain ⟨l, e⟩ := State.faultEvent_lasting h
    simp only [State.coreBad, if_neg hg, e]
    exact (State.dropUnit_flagged _ 6 core _).cores.trans
      ((Faults.drop_core (hf.cores.symm ▸ hn)).trans (congrArg (core :: ·) hf.cores))

/-! ### The end of a response (R492, R495) -/

theorem State.romFault_boot (s : State) : s.romFault.boot.stage = .held ∧ s.romFault.boot.code = 0x8007 := by
  simp [State.romFault, State.holdDie]

theorem State.releaseDie_boot (s : State) : s.releaseDie.boot.stage = .released ∧ s.releaseDie.boot.code = 0x0003 := by
  simp [State.releaseDie]

/-- A record written leaves the keeper's buffer. -/
theorem State.writeRec_buffer (s : State) (r : LogRec) :
    (s.writeRec r).logs.buffered = s.logs.buffered ∧ (s.writeRec r).logs.dropped = s.logs.dropped := by
  have ha (t : State) : (t.setAlert 1).logs = t.logs := State.setAlert_get t 1 (fld := .logs) (by simp)
  have hf (t : State) : (t.setFlt 9).logs = t.logs := State.setFlt_get t 9 (fld := .logs) (by simp)
  unfold State.writeRec
  dsimp only
  split
  · rw [ha]; exact ⟨rfl, rfl⟩
  · split
    · rw [hf]; exact ⟨rfl, rfl⟩
    · exact ⟨rfl, rfl⟩

theorem State.foldl_writeRec_buffer (l : List LogRec) (s : State) :
    (l.foldl State.writeRec s).logs.buffered = s.logs.buffered ∧ (l.foldl State.writeRec s).logs.dropped = s.logs.dropped := by
  induction l generalizing s with
  | nil => exact ⟨rfl, rfl⟩
  | cons r l ih =>
    obtain ⟨hb, hd⟩ := s.writeRec_buffer r
    exact ⟨(ih _).1.trans hb, (ih _).2.trans hd⟩

/-- With an empty buffer and writing allowed a record is written at once. -/
theorem State.addRec_now {s : State} (hn : s.nvFree = true) (hb : s.logs.buffered = []) (r : LogRec) :
    s.addRec r = s.writeRec r := by
  simp [State.addRec, hn, hb]

theorem State.flushLog_buffer {s : State} (h : s.nvFree = true) :
    s.flushLog.logs.buffered = [] ∧ s.flushLog.logs.dropped = 0 := by
  unfold State.flushLog
  extract_lets u
  obtain ⟨hb, hd⟩ : u.logs.buffered = [] ∧ u.logs.dropped = 0 := State.foldl_writeRec_buffer _ _
  have hp : u.power = s.power := State.get_foldl _ _ (f := .power) (fun t r => State.writeRec_get t r (by simp)) _
  have hn : u.nvFree = true := by simpa [State.nvFree, hp] using h
  split
  · exact ⟨hb, hd⟩
  · rw [State.logEvent, State.log, State.addRec_now hn hb]
    obtain ⟨hb', hd'⟩ := u.writeRec_buffer (u.recOf 0x0704 0 255 0 s.logs.dropped)
    exact ⟨hb'.trans hb, hd'.trans hd⟩

end Sys2Proof.Machine

open Sys2Proof Sys2Proof.Machine

/-- Settles O46: each event by its own case, over what flags and records leave of the fault state. -/
theorem tamperAndFaultsComplete : Obligations.TamperAndFaultsComplete := by
  intro s
  refine ⟨fun nets n hv hr => ⟨?_, ?_, ?_⟩, ?_, fun hv => ⟨?_, ?_, ?_, ?_⟩, fun hc => ⟨?_, ?_, ?_⟩, ⟨_, rfl, rfl⟩, ?_, ?_, ?_⟩
  · intro hm
    exact ⟨_, congrArg Host.Outcome.next (if_pos ⟨State.islandOn_of_vin hv, hm⟩), State.begin_major hv hr _ _ _ _⟩
  · intro hn hp
    obtain ⟨ha, hm, hc, hi, ho, -⟩ := State.begin_major hv hr (0x10 + n) (BitVec.ofNat 16 (0x0610 + n)) 255 0
    exact ⟨_, congrArg Host.Outcome.next (if_pos ⟨State.islandOn_of_vin hv, hn, hp⟩), ha, hm, hc, hi, ho⟩
  · intro hf
    obtain ⟨ha, he, hc⟩ := State.lockstep_major hv hr
    exact ⟨_, congrArg Host.Outcome.next (if_pos hf), ha, he, hc⟩
  · intro hf hc
    exact ⟨_, congrArg Host.Outcome.next ((if_neg (by simp [hf])).trans (if_pos hc)), s.romFault_boot⟩
  · intro h
    obtain ⟨hs, hh, hk, -⟩ := State.minorBegins_effect (cls := 0) hv (State.islandOn_of_vin hv) h
    exact ⟨_, rfl, hs, hh, hk⟩
  · intro h
    obtain ⟨hs, hh, hk, -⟩ := State.minorBegins_effect (cls := 1) hv (State.islandOn_of_vin hv) h
    exact ⟨_, rfl, hs, hh, hk⟩
  · intro code hx hc h
    obtain ⟨hs, hh, hk, hj⟩ := State.minorBegins_effect (cls := 2) hv hc h
    exact ⟨_, congrArg Host.Outcome.next (if_pos hx), hs, hj (by decide), hh, hk⟩
  · intro c hc hs hw h
    obtain ⟨hse, hh, -⟩ := State.minor_below_effect hv h
    exact ⟨_, congrArg Host.Outcome.next (if_pos ⟨hc, hs, hw⟩), hse, hh⟩
  · exact fun w h => execSramCorrected_below hc h
  · intro w h
    exact ⟨_, congrArg Host.Outcome.next (if_pos hc), State.sramUe_effect h⟩
  · intro core hl hu
    refine ⟨⟨_, rfl, State.coreBad_cores hc hl hu⟩, fun hi => ⟨_, ?_, State.coreBad_cores hc hl hu⟩⟩
    change execCoreKat [core] s = _
    simp [execCoreKat, hi]
  · intro e he hf hp hn
    refine ⟨s.disableRoot e, ?_, (s.disableRoot_flagged e).rootPending, fun w hw => s.disableRoot_data e hw⟩
    change execRootDisablePending s = _
    simp [execRootDisablePending, he, hf, hp, hn]
  · intro hs hc he hv hp hm
    exact ⟨_, congrArg Host.Outcome.next (if_pos ⟨hs, hc, he, hv, hp, hm⟩), s.releaseDie_boot⟩
  · intro hn
    exact ⟨_, congrArg Host.Outcome.next (if_pos hn), State.flushLog_buffer hn⟩
end

section
/-!
Start-up from the rails to the bundle (R58 to R72, R457 to R470, R490): what the shared operations of these rows leave of
DEV_BOOT, the fuses, the guard and the update journal, and the rows' effect in each case.
-/
namespace Sys2Proof.Machine
open Sys2Proof

/-! ### Boot codes -/

@[simp] theorem State.setCode_fuses (s : State) (c d : BitVec 16) : (s.setCode c d).fuses = s.fuses :=
  State.setCode_get s c d (fld := .fuses) (by simp)
@[simp] theorem State.setCode_dru (s : State) (c d : BitVec 16) : (s.setCode c d).dru = s.dru :=
  State.setCode_get s c d (fld := .dru) (by simp)
@[simp] theorem State.setCode_upd (s : State) (c d : BitVec 16) : (s.setCode c d).upd = s.upd :=
  State.setCode_get s c d (fld := .upd) (by simp)
@[simp] theorem State.logEvent_fuses (s : State) (c : BitVec 16) (d : Nat) : (s.logEvent c d).fuses = s.fuses :=
  State.logEvent_get s c d (fld := .fuses) (by simp)
@[simp] theorem State.logEvent_upd (s : State) (c : BitVec 16) (d : Nat) : (s.logEvent c d).upd = s.upd :=
  State.logEvent_get s c d (fld := .upd) (by simp)

theorem State.setCode_flagged (s : State) (c d : BitVec 16) : s.flt.Flagged (s.setCode c d).flt :=
  .ite (fun _ => State.setAlert_flagged (s.mapBoot _) 0) fun _ => .refl _

theorem Faults.Flagged.foldl {α : Type} {g : State → α → State} (h : ∀ (s : State) a, s.flt.Flagged (g s a).flt)
    (l : List α) (s : State) : s.flt.Flagged (l.foldl g s).flt := by
  induction l generalizing s with
  | nil => exact .refl _
  | cons a l ih => exact (h s a).trans (ih _)

/-- What every step of a list keeps, the list keeps. -/
theorem State.foldl_keeps {α β : Type} (π : State → β) {g : State → α → State} (h : ∀ s a, π (g s a) = π s) (l : List α)
    (s : State) : π (l.foldl g s) = π s := by
  induction l generalizing s with
  | nil => rfl
  | cons a l ih => exact (ih _).trans (h s a)

/-! A component kept is a field kept. Stated for any two states, so that no proof computes the states it is used for. -/

theorem State.boot_of_get {s t : State} (h : t.get .boot = s.get .boot) : t.boot = s.boot := h
theorem State.upd_of_get {s t : State} (h : t.get .upd = s.get .upd) : t.upd = s.upd := h
theorem State.keeper_of_get {s t : State} (h : t.get .keeper = s.get .keeper) : t.keeper = s.keeper := h

/-! ### The compute die in reset -/

theorem State.holdDie_effect (s : State) (c d : BitVec 16) :
    (s.holdDie c d).boot.stage = .held ∧ (s.holdDie c d).boot.code = c ∧ (s.holdDie c d).boot.detail = d := by
  simp [State.holdDie]

/-- A die that is held has no guard, and outside LOCKDOWN every hold is asserted. -/
theorem State.romFault_guard (s : State) :
    s.romFault.guard.running = false ∧ (s.boot.lockdown = false → s.romFault.guard.holdPins = 0) := by
  have h : s.romFault.guard = s.guardReset.guard := State.setCode_guard _ _ _
  rw [h]
  exact ⟨rfl, State.guardReset_holdPins⟩

/-! ### Sensing (R65, R66) -/

theorem State.logSense_code (s : State) (w : Nat) : (s.logSense w).boot.code = s.boot.code := by
  unfold State.logSense
  dsimp only
  split
  · simp
  · split <;> simp

theorem State.logSense_flagged (s : State) (w : Nat) : s.flt.Flagged (s.logSense w).flt :=
  .ite (fun _ => s.log_flagged _ _ _ _ _) fun _ => .ite (fun _ => s.log_flagged _ _ _ _ _) fun _ => .refl _

theorem State.logUnread_flagged (s : State) (w : Nat) : s.flt.Flagged (s.logUnread w).flt :=
  .ite (fun _ => s.log_flagged _ _ _ _ _) fun _ => .refl _

/-- A sensing pass up to its judgement: every word in its shadow, CODE, and the records of the words of `l` that read
corrected or marginal. -/
def State.sensedWords (s : State) (m : List MarginRead) (l : List Nat) : State :=
  l.foldl State.logSense ((s.senseAll m).setCode 0x0004 0)

/-- The state that is judged: majorities taken, the unread words of `l` recorded, the Fuse fields latched. -/
def State.toJudge (s : State) (l : List Nat) : State := (l.foldl State.logUnread s.takeMajorities).latchFuseFields

theorem State.finishSense_eq (s : State) : s.finishSense
    = (s.toJudge (List.range 8192)).judgeFuses (s.noMajority (tripRoot ++ tripLock)) (s.noMajority tripLc = []) := by
  rw [State.finishSense, State.toJudge]

section
variable (s : State) (m : List MarginRead) (l : List Nat)

/-- The sensed shadows are kept abstract, so that no proof computes them. -/
theorem State.senseAll_fuses : ∃ x, (s.senseAll m).fuses
    = { s.fuses with shadow := x, lastWord := 0, rolledFwd := false, busy := false, romPatch := [] } :=
  ⟨_, by rw [State.senseAll, State.mapFuses_fuses]⟩

@[simp] theorem State.senseAll_raw : (s.senseAll m).fuses.raw = s.fuses.raw := by
  obtain ⟨x, h⟩ := s.senseAll_fuses m
  rw [h]
@[simp] theorem State.senseAll_upd : (s.senseAll m).upd = s.upd := by rw [State.senseAll, State.mapFuses_upd]
@[simp] theorem State.senseAll_keeper : (s.senseAll m).keeper = s.keeper := by rw [State.senseAll, State.mapFuses_keeper]
@[simp] theorem State.senseAll_flt : (s.senseAll m).flt = s.flt := by rw [State.senseAll, State.mapFuses_flt]

theorem State.sensedWords_fuses : (s.sensedWords m l).fuses = (s.senseAll m).fuses :=
  (State.foldl_keeps State.fuses (fun t w => State.logSense_get t w (fld := .fuses) (by simp)) l _).trans (by simp)

theorem State.sensedWords_upd : (s.sensedWords m l).upd = s.upd :=
  (State.foldl_keeps State.upd (fun t w => State.logSense_get t w (fld := .upd) (by simp)) l _).trans
    (by simp)

theorem State.sensedWords_keeper : (s.sensedWords m l).keeper = s.keeper :=
  (State.foldl_keeps State.keeper (fun t w => State.logSense_get t w (fld := .keeper) (by simp)) l _).trans
    (by simp)

theorem State.sensedWords_code : (s.sensedWords m l).boot.code = 0x0004 :=
  (State.foldl_keeps (fun t => t.boot.code) State.logSense_code l _).trans (by simp)

theorem State.sensedWords_flagged : s.flt.Flagged (s.sensedWords m l).flt :=
  .trans (.trans (.of_eq (s.senseAll_flt m)) (State.setCode_flagged _ _ _)) (.foldl State.logSense_flagged _ _)

theorem State.toJudge_words : (s.toJudge l).fuses.raw = s.fuses.raw
    ∧ (s.toJudge l).fuses.shadow = s.takeMajorities.fuses.shadow ∧ (s.toJudge l).fuses.rolledFwd = s.fuses.rolledFwd := by
  have h : (l.foldl State.logUnread s.takeMajorities).fuses = s.takeMajorities.fuses :=
    State.foldl_keeps State.fuses (fun t w => State.logUnread_get t w (fld := .fuses) (by simp)) l _
  simp only [State.toJudge, State.latchFuseFields, State.mapFuses_fuses, h]
  exact ⟨rfl, trivial, rfl⟩

theorem State.toJudge_get {fld : Field} (hf : fld ∉ ([.logs, .fuses, .fns, .mgmt, .flt, .out] : List Field)) :
    (s.toJudge l).get fld = s.get fld := by
  simp only [List.mem_cons, List.not_mem_nil, or_false, not_or] at hf
  simp [State.toJudge, hf]

theorem State.toJudge_flagged : s.flt.Flagged (s.toJudge l).flt := .foldl State.logUnread_flagged l s.takeMajorities

end

theorem execFusesSensed_noJournal {s : State} (hs : s.boot.stage = .released) (hj : s.keeper.lcJournal = none)
    (m : List MarginRead) : execFusesSensed m s = .next (s.sensedWords m (List.range 8192)).finishSense := by
  have hr (l : List Nat) : (s.sensedWords m l).rollCheck = .none := by simp [State.rollCheck, State.sensedWords_keeper, hj]
  unfold State.sensedWords at hr ⊢
  simp only [execFusesSensed, hs, ne_eq, not_true_eq_false, if_false, hr]

/-- Majorities are those of the sensed words. -/
theorem State.noMajority_congr {s t : State} (h : t.fuses = s.fuses) (l : List Nat) : t.noMajority l = s.noMajority l := by
  simp only [State.noMajority, State.majority, h]

theorem State.takeMajorities_congr {s t : State} (h : t.fuses = s.fuses) :
    t.takeMajorities.fuses = s.takeMajorities.fuses := by
  simp only [State.takeMajorities, State.mapFuses_fuses, State.majority, h]

/-- Integrity is a matter of the shadows and the raw words. -/
theorem State.integrityFail_congr {s t : State} (hs : t.fuses.shadow = s.fuses.shadow) (hr : t.fuses.raw = s.fuses.raw)
    (l : List Nat) : t.integrityFail l = s.integrityFail l := by
  have h (x : State) : x.integrityFail l = (State.reset.mapFuses fun f =>
    { f with raw := x.fuses.raw, shadow := x.fuses.shadow }).integrityFail l := rfl
  rw [h t, h s, hs, hr]

/-! ### The life cycle of the sensed words (R67, R68) -/

theorem State.journalDone_congr {s t : State} (h : t.upd = s.upd) : t.journalDone = s.journalDone := by
  simp only [State.journalDone, h]

/-- An activation to roll forward shows as the stage in progress; nothing else of DEV_BOOT changes. -/
theorem State.enterRollForward_boot (s : State) : s.enterRollForward.boot.stage = s.boot.stage
    ∧ s.enterRollForward.boot.code
      = (if s.boot.stage = .sensed ∧ s.flt.rootPending = none ∧ s.journalDone = false then 0x0005 else s.boot.code) := by
  unfold State.enterRollForward
  split <;> simp

theorem State.enterRollForward_fuses (s : State) : s.enterRollForward.fuses = s.fuses :=
  State.enterRollForward_get s (fld := .fuses) (by simp)

theorem State.enterRollForward_flagged (s : State) : s.flt.Flagged s.enterRollForward.flt :=
  .ite (fun _ => s.setCode_flagged _ _) fun _ => .refl _

theorem State.redecode_fuses (s : State) : s.redecode.fuses.lc = (lcDecode fun i => s.fz (160 + i)).1
    ∧ s.redecode.fuses.epoch = (lcDecode fun i => s.fz (160 + i)).2.1 := ⟨rfl, rfl⟩

/-- The start-up goes on but in INVALID and SCRAP. -/
theorem State.byLifeCycle_goesOn {s : State} (hi : s.fuses.lc ≠ .invalid) (hs : s.fuses.lc ≠ .scrap) :
    s.byLifeCycle = (s.mapBoot fun b => { b with stage := .sensed }).enterRollForward := by
  unfold State.byLifeCycle
  split
  · exact absurd ‹_› hi
  · exact absurd ‹_› hs
  · rfl

theorem State.byLifeCycle_stage (s : State) : s.byLifeCycle.boot.stage = .sensed ∨ s.byLifeCycle.boot.stage = .held := by
  unfold State.byLifeCycle
  split
  · exact .inr (s.holdDie_effect _ _).1
  · exact .inr (s.holdDie_effect _ _).1
  · exact .inl (State.enterRollForward_boot _).1

theorem State.byLifeCycle_fuses (s : State) : s.byLifeCycle.fuses = s.fuses :=
  State.byLifeCycle_get s (fld := .fuses) (by simp)

/-- The judgement ends sensing or holds the die. -/
theorem State.judgeFuses_stage (s : State) (l : List Nat) (r : Bool) :
    (s.judgeFuses l r).boot.stage = .sensed ∨ (s.judgeFuses l r).boot.stage = .held := by
  unfold State.judgeFuses
  split
  · exact .inr (s.holdDie_effect _ _).1
  · exact State.byLifeCycle_stage _

/-- Sound words of a life-cycle state that lets the start-up go on: sensing ends, and the life cycle is what they decode
to. -/
theorem State.judgeFuses_sound {s : State} {l : List Nat} (hi : s.integrityFail l = none)
    (h1 : (lcDecode fun i => s.fz (160 + i)).1 ≠ .invalid) (h2 : (lcDecode fun i => s.fz (160 + i)).1 ≠ .scrap) :
    (s.judgeFuses l true).boot.stage = .sensed
    ∧ (s.judgeFuses l true).boot.code
      = (if s.flt.rootPending = none ∧ s.journalDone = false then 0x0005 else s.boot.code)
    ∧ (s.judgeFuses l true).fuses.lc = (lcDecode fun i => s.fz (160 + i)).1
    ∧ (s.judgeFuses l true).fuses.epoch = (lcDecode fun i => s.fz (160 + i)).2.1 := by
  obtain ⟨hl, he⟩ := s.redecode_fuses
  have ht : s.judgeFuses l true = (s.redecode.mapBoot fun b => { b with stage := .sensed }).enterRollForward := by
    rw [← State.byLifeCycle_goesOn (hl ▸ h1) (hl ▸ h2)]
    unfold State.judgeFuses
    split
    next w hw => exact absurd (hi.symm.trans hw) (Option.some_ne_none w).symm
    next => rfl
  obtain ⟨hs, hc⟩ := (s.redecode.mapBoot fun b => { b with stage := .sensed }).enterRollForward_boot
  rw [ht, State.enterRollForward_fuses]
  have hj : (s.redecode.mapBoot fun b => { b with stage := .sensed }).journalDone = s.journalDone := State.journalDone_congr rfl
  have hf : s.redecode.flt = s.flt := rfl
  have hb : s.redecode.boot = s.boot := rfl
  refine ⟨hs, hc.trans ?_, hl, he⟩
  simp [hj, hf, hb]

/-- The judgement changes no word and no record of a roll-forward. -/
theorem State.judgeFuses_words (s : State) (l : List Nat) (r : Bool) :
    (s.judgeFuses l r).fuses.raw = s.fuses.raw ∧ (s.judgeFuses l r).fuses.shadow = s.fuses.shadow
      ∧ (s.judgeFuses l r).fuses.rolledFwd = s.fuses.rolledFwd := by
  unfold State.judgeFuses
  split
  · rw [show (s.holdDie _ _).fuses = s.fuses from State.holdDie_get s _ _ (fld := .fuses) (by simp)]
    exact ⟨rfl, rfl, rfl⟩
  · rw [State.byLifeCycle_fuses]
    cases r <;> exact ⟨rfl, rfl, rfl⟩

theorem State.finishSense_stage (s : State) : s.finishSense.boot.stage = .sensed ∨ s.finishSense.boot.stage = .held := by
  rw [State.finishSense_eq]
  exact State.judgeFuses_stage _ _ _

theorem State.finishSense_keeper (s : State) : s.finishSense.keeper = s.keeper := by
  rw [State.finishSense_eq]
  exact State.keeper_of_get ((State.judgeFuses_get _ _ _ (by simp)).trans (s.toJudge_get _ (by simp)))

theorem State.finishSense_words (s : State) : s.finishSense.fuses.raw = s.fuses.raw
    ∧ s.finishSense.fuses.shadow = s.takeMajorities.fuses.shadow ∧ s.finishSense.fuses.rolledFwd = s.fuses.rolledFwd := by
  rw [State.finishSense_eq]
  obtain ⟨hr, hs, hf⟩ := (s.toJudge (List.range 8192)).judgeFuses_words (s.noMajority (tripRoot ++ tripLock))
    (s.noMajority tripLc = [])
  obtain ⟨hr', hs', hf'⟩ := s.toJudge_words (List.range 8192)
  exact ⟨hr.trans hr', hs.trans hs', hf.trans hf'⟩

/-- The judgement sees the majorities that sensing took. -/
theorem State.toJudge_sound {s : State} {d : LcState × Nat × Nat} {n : List Nat}
    (hd : lcDecode (fun i => s.takeMajorities.fz (160 + i)) = d) (hi : s.takeMajorities.integrityFail n = none)
    (h1 : d.1 ≠ .invalid) (h2 : d.1 ≠ .scrap) (l : List Nat) :
    ((s.toJudge l).judgeFuses n true).boot.stage = .sensed
    ∧ ((s.toJudge l).judgeFuses n true).boot.code
      = (if s.flt.rootPending = none ∧ s.journalDone = false then 0x0005 else s.boot.code)
    ∧ ((s.toJudge l).judgeFuses n true).fuses.lc = d.1 ∧ ((s.toJudge l).judgeFuses n true).fuses.epoch = d.2.1 := by
  obtain ⟨hr, hs, -⟩ := s.toJudge_words l
  have hj : lcDecode (fun i => (s.toJudge l).fz (160 + i)) = d := by
    rw [← hd]
    simp only [State.fz, Fuses.shadowOf, hs]
  have hb : (s.toJudge l).boot = s.boot := State.boot_of_get (s.toJudge_get l (by simp))
  have hu : (s.toJudge l).upd = s.upd := State.upd_of_get (s.toJudge_get l (by simp))
  have := State.judgeFuses_sound ((State.integrityFail_congr hs hr _).trans hi) (by rwa [hj]) (by rwa [hj])
  rwa [hj, hb, (s.toJudge_flagged l).rootPending, State.journalDone_congr hu] at this

theorem State.finishSense_sound {s : State} {d : LcState × Nat × Nat}
    (hd : lcDecode (fun i => s.takeMajorities.fz (160 + i)) = d)
    (hi : s.takeMajorities.integrityFail (s.noMajority (tripRoot ++ tripLock)) = none) (hm : s.noMajority tripLc = [])
    (h1 : d.1 ≠ .invalid) (h2 : d.1 ≠ .scrap) :
    s.finishSense.boot.stage = .sensed
    ∧ s.finishSense.boot.code = (if s.flt.rootPending = none ∧ s.journalDone = false then 0x0005 else s.boot.code)
    ∧ s.finishSense.fuses.lc = d.1 ∧ s.finishSense.fuses.epoch = d.2.1 := by
  rw [State.finishSense_eq, hm, decide_eq_true rfl]
  exact State.toJudge_sound hd hi h1 h2 _

/-- Sensing sound words ends as their life cycle says, whatever words had to be recorded. -/
theorem State.sensedWords_sound {s : State} {m : List MarginRead} {d : LcState × Nat × Nat}
    (hd : lcDecode (fun i => (s.senseAll m).takeMajorities.fz (160 + i)) = d)
    (hi : (s.senseAll m).takeMajorities.integrityFail ((s.senseAll m).noMajority (tripRoot ++ tripLock)) = none)
    (hm : (s.senseAll m).noMajority tripLc = []) (h1 : d.1 ≠ .invalid) (h2 : d.1 ≠ .scrap) (l : List Nat) :
    (s.sensedWords m l).finishSense.boot.stage = .sensed
    ∧ (s.sensedWords m l).finishSense.boot.code
      = (if s.flt.rootPending = none ∧ s.journalDone = false then 0x0005 else 0x0004)
    ∧ (s.sensedWords m l).finishSense.fuses.lc = d.1 ∧ (s.sensedWords m l).finishSense.fuses.epoch = d.2.1
    ∧ (s.sensedWords m l).finishSense.fuses.raw = s.fuses.raw
    ∧ (s.sensedWords m l).finishSense.fuses.shadow = (s.senseAll m).takeMajorities.fuses.shadow := by
  have hf := s.sensedWords_fuses m l
  have hv := State.takeMajorities_congr hf
  have hn := State.noMajority_congr hf
  have hd' : lcDecode (fun i => (s.sensedWords m l).takeMajorities.fz (160 + i)) = d := by simp only [← hd, State.fz, hv]
  have hi' := (State.integrityFail_congr (congrArg Fuses.shadow hv) (congrArg Fuses.raw hv) _).trans hi
  obtain ⟨hst, hc, hlc, he⟩ := State.finishSense_sound hd' (by rwa [hn]) ((hn _).trans hm) h1 h2
  obtain ⟨hr, hs, -⟩ := (s.sensedWords m l).finishSense_words
  rw [(s.sensedWords_flagged m l).rootPending, State.journalDone_congr (s.sensedWords_upd m l), s.sensedWords_code m l] at hc
  rw [hf, s.senseAll_raw m] at hr
  rw [hv] at hs
  exact ⟨hst, hc, hlc, he, hr, hs⟩

/-! ### The roll-forward of the life cycle (R467) -/

theorem execLcRollForward_effect {s : State} {j : FuseJournal} (hs : s.boot.stage = .rolling) (hn : s.power.nvOk = true)
    (hj : s.keeper.lcJournal = some j) :
    ∃ t, execLcRollForward s = .next t ∧ t.keeper.lcJournal = none ∧ t.fuses.rolledFwd = true
      ∧ (t.boot.stage = .sensed ∨ t.boot.stage = .held) ∧ t.fuses.raw = (s.burnAll j.targets).fuses.raw := by
  let u := ((((s.burnAll j.targets).mapKeeper fun k => { k with lcJournal := none }).mapFuses fun f =>
    { f with rolledFwd := true, busy := false }).logEvent 0x0107 1)
  have hu : u.keeper.lcJournal = none := by simp [u]
  have hf : u.fuses = { (s.burnAll j.targets).fuses with rolledFwd := true, busy := false } := by simp [u]
  obtain ⟨hr, -, hw⟩ := u.finishSense_words
  refine ⟨u.finishSense, by simp [execLcRollForward, hs, hn, hj, u],
    (congrArg Keeper.lcJournal u.finishSense_keeper).trans hu, ?_, u.finishSense_stage, ?_⟩
  · rw [hw, hf]
  · rw [hr, hf]

/-! ### Bundle verification and the start mode (R69 to R72) -/

/-- The ROM's patches: the records of the slots it ignores, and the replacements. -/
def State.patched (s : State) : State := (s.badPatches.foldl (fun s d => s.logEvent 0x0104 d) s).applyPatches

theorem State.patched_boot (s : State) : s.patched.boot = s.boot :=
  State.foldl_keeps State.boot (fun t d => t.logEvent_boot 0x0104 d) s.badPatches s

theorem State.patched_upd (s : State) : s.patched.upd = s.upd :=
  State.foldl_keeps State.upd (fun t d => t.logEvent_upd 0x0104 d) s.badPatches s

theorem State.patched_fuses (s : State) : s.patched.fuses.raw = s.fuses.raw ∧ s.patched.fuses.shadow = s.fuses.shadow
    ∧ s.patched.fuses.lc = s.fuses.lc ∧ s.patched.fuses.epoch = s.fuses.epoch := by
  have h := State.foldl_keeps State.fuses (fun t d => t.logEvent_fuses 0x0104 d) s.badPatches s
  simp only [State.patched, State.applyPatches, State.mapFuses_fuses, h]
  exact ⟨trivial, trivial, trivial, trivial⟩

/-- The start mode is chosen from DEV_BOOT, the slot and the fuses; the patches play no part. -/
theorem State.startMode_patched (s : State) (low : Bool) : s.patched.startMode low = s.startMode low := by
  have h (x : State) : x.startMode low = ({ State.reset with
    boot := x.boot, upd := x.upd, fuses := { State.reset.fuses with
      raw := x.fuses.raw, shadow := x.fuses.shadow, lc := x.fuses.lc, epoch := x.fuses.epoch } } : State).startMode low := rfl
  obtain ⟨hr, hs, hl, he⟩ := s.patched_fuses
  rw [h s.patched, h s, s.patched_boot, s.patched_upd, hr, hs, hl, he]

/-- A ROM whose self-tests pass takes the start mode; without firmware to run the guard does not run (R91). -/
theorem execBundleVerify_verified {s : State} (hs : s.boot.stage = .sensed) (hr : s.flt.rootPending = none)
    (hj : s.journalDone = true) (low : Bool) :
    let m := s.startMode low
    ∃ t, execBundleVerify low s true = .next t ∧ t.boot.mode = m.1 ∧ t.boot.code = m.2.1 ∧ t.boot.detail = m.2.2.1
      ∧ t.boot.recovery = m.2.2.2
      ∧ t.boot.stage = (if m.1 = .normal ∨ m.1 = .recovery then .bundleOk else .loader)
      ∧ (m.1 ≠ .normal → m.1 ≠ .recovery → t.guard.running = false ∧ (s.boot.lockdown = false → t.guard.holdPins = 0)) := by
  intro m
  have hm : s.patched.startMode low = m := s.startMode_patched low
  have he : execBundleVerify low s true = _ :=
    (if_neg (by simp [hs, hr, hj])).trans (if_neg (by simp))
  refine ⟨_, he, ?_⟩
  change s.patched.startMode low = m at hm
  rw [← State.patched]
  simp only [hm, State.setCode_boot, State.mapBoot_boot, State.setCode_guard, State.mapBoot_guard]
  refine ⟨trivial, trivial, trivial, trivial, by simp, fun h1 h2 => ?_⟩
  simp only [h1, h2, decide_false, Bool.or_false, Bool.false_eq_true, if_false]
  exact ⟨rfl, fun hl => State.guardReset_holdPins (s.patched_boot ▸ hl)⟩

/-! ### The update journal at start-up (R522, R523) -/

@[simp] theorem State.returnBlob_upd (s : State) : s.returnBlob.upd = s.upd :=
  State.returnBlob_get s (fld := .upd) (by simp)

/-- A restore closes the update and sets RESTORED. -/
theorem State.restoreUpdate_upd (s : State) (st : UpdStage) (c : Nat) :
    (s.restoreUpdate st c).upd.stage = .idle ∧ (s.restoreUpdate st c).upd.journal = none
      ∧ (s.restoreUpdate st c).upd.holder = .none ∧ (s.restoreUpdate st c).upd.restored = true := by
  simp [State.restoreUpdate, Update.close]

/-- A confirmation closes the update. -/
theorem State.finishConfirm_upd (s : State) (c svn : Nat) (roll : Bool) :
    (s.finishConfirm c svn roll).upd.stage = .idle ∧ (s.finishConfirm c svn roll).upd.journal = none
      ∧ (s.finishConfirm c svn roll).upd.holder = .none := by
  simp [State.finishConfirm, Update.close]

theorem execActivationRollForward_effect {s : State} {j : UpdJournal} (hj : s.upd.journal = some j)
    (hs : s.boot.stage = .sensed) (hd : s.journalDone = false) (hn : s.power.nvOk = true) :
    ∃ t, execActivationRollForward s = .next t
      ∧ (j.stage = .activating → j.component = 1 → s.upd.stagedHalf = j.digest ∧ Config.sha384 s.upd.stagedImg = j.digest →
          t.upd.stage = .unconfirmed ∧ t.upd.slot = s.upd.stagedImg ∧ t.upd.slotHash = j.digest
            ∧ t.upd.journal = some { j with stage := .unconfirmed })
      ∧ (¬ (j.stage = .activating ∧ j.component = 1 ∧ s.upd.stagedHalf = j.digest ∧ Config.sha384 s.upd.stagedImg = j.digest) →
          t.upd.stage = .idle ∧ t.upd.journal = none ∧ t.upd.holder = .none)
      ∧ (j.stage = .unconfirmed ∨ j.stage = .restoring → t.upd.restored = true) := by
  have hg : ¬ (s.boot.stage ≠ .sensed ∨ s.journalDone = true ∨ s.power.nvOk = false) := by simp [hs, hd, hn]
  simp only [execActivationRollForward, hj, if_neg hg, Host.Outcome.next.injEq, exists_eq_left']
  by_cases hb : j.stage = .activating ∧ j.component = 1
  · by_cases hm : s.upd.stagedHalf = j.digest ∧ Config.sha384 s.upd.stagedImg = j.digest
    · simp [hb, hm]
    · obtain ⟨h1, h2, h3, h4⟩ := (s.setCode 0x0005 2).restoreUpdate_upd .activating 1
      simp only [hb, hm, and_true, if_true, if_false]
      exact ⟨fun _ _ h => h.elim, fun _ => ⟨h1, h2, h3⟩, fun _ => h4⟩
  · have hx {P : Prop} (h1 : j.stage = .activating) (h2 : j.component = 1) : P := absurd ⟨h1, h2⟩ hb
    simp only [if_neg hb]
    refine ⟨fun h1 h2 => hx h1 h2, ?_⟩
    split
    case isTrue ha => exact ⟨fun _ => ⟨rfl, rfl, rfl⟩, by simp [ha]⟩
    case isFalse =>
      split
      case isTrue hc =>
        obtain ⟨h1, h2, h3⟩ := (s.setCode 0x0005 2).finishConfirm_upd j.component j.svn true
        rw [State.logEvent_upd]
        exact ⟨fun _ => ⟨h1, h2, h3⟩, by simp [hc]⟩
      case isFalse =>
        obtain ⟨h1, h2, h3, h4⟩ := (s.setCode 0x0005 2).restoreUpdate_upd j.stage j.component
        exact ⟨fun _ => ⟨h1, h2, h3⟩, fun _ => h4⟩

end Sys2Proof.Machine

open Sys2Proof Sys2Proof.Machine

/-- Settles O20: each row by its own case. -/
theorem startUpCompletes : Obligations.StartUpCompletes := by
  intro s
  refine ⟨fun hs hv => ⟨?_, ?_⟩, fun hs => ⟨fun hr => ?_, fun rail => ?_⟩, fun m hs hj => ?_, fun j hs hn hj => ?_,
    fun e he hs hn hp => ?_, fun low hs hr hj => ⟨?_, ?_⟩, fun j hj hs hd hn => ?_⟩
  · exact ⟨_, congrArg Host.Outcome.next (if_pos ⟨hs, hv, rfl⟩), by simp⟩
  · exact congrArg Host.Outcome.next (if_neg (by simp))
  · refine ⟨s.releaseDie, congrArg Host.Outcome.next (if_pos ⟨hs, by simpa [State.mayRelease] using hr⟩), ?_⟩
    cases h : s.boot.countersLost <;> simp [State.releaseDie, h]
  · exact ⟨_, congrArg Host.Outcome.next (if_pos hs), s.holdDie_effect 0x8003 rail⟩
  · intro u v d hi hm h1 h2
    have hd : lcDecode (fun i => (s.senseAll m).takeMajorities.fz (160 + i)) = d := rfl
    exact ⟨_, execFusesSensed_noJournal hs hj m, State.sensedWords_sound hd hi hm h1 h2 (List.range 8192)⟩
  · exact execLcRollForward_effect hs hn hj
  · refine ⟨(s.disableRoot e).enterRollForward, ?_, ?_, fun w hw => ?_⟩
    · change execRootDisableAtStart s = _
      simp [execRootDisableAtStart, he, hs, hn, State.nvFree, hp]
    · exact (State.enterRollForward_flagged _).rootPending.trans (s.disableRoot_flagged e).rootPending
    · rw [State.enterRollForward_fuses]
      exact s.disableRoot_data e hw
  · obtain ⟨h1, h2⟩ := s.romFault_boot
    exact ⟨s.romFault, (if_neg (by simp [hs, hr, hj])).trans (if_pos rfl), h1, h2, s.romFault_guard⟩
  · exact execBundleVerify_verified hs hr hj low
  · exact execActivationRollForward_effect hj hs hd hn
end

section
/-!
One PCIe function (R143, R151): its state after a change of it or of another, and what is left of the messages that were
pending once they may be sent.
-/
namespace Sys2Proof.Machine
open Sys2Proof

/-! ### One function -/

theorem State.fn_setFn (s : State) (i k : Nat) (f : FnState) :
    (s.setFn i f).fn k = if i = k ∧ i < s.fns.length then f else s.fn k := by
  simp only [State.fn, State.setFn, List.getD_eq_getElem?_getD, List.getElem?_set]
  by_cases h : i = k
  · subst h
    by_cases hl : i < s.fns.length
    · simp [hl]
    · simp [hl]
  · simp [h]

theorem State.fn_mapFn_same {s : State} {i : Nat} (h : i < s.fns.length) (f : FnState → FnState) :
    (s.mapFn i f).fn i = f (s.fn i) :=
  (s.fn_setFn i i _).trans (if_pos ⟨rfl, h⟩)

theorem State.fn_mapFn_ne {s : State} {i k : Nat} (h : i ≠ k) (f : FnState → FnState) : (s.mapFn i f).fn k = s.fn k :=
  (s.fn_setFn i k _).trans (if_neg fun hi => h hi.1)

theorem State.fn_congr {s t : State} (h : t.fns = s.fns) (i : Nat) : t.fn i = s.fn i := by rw [State.fn, State.fn, h]

/-- A function that is present is one of the 65. -/
theorem State.lt_of_present {s : State} {i : Nat} (h : (s.fn i).present = true) : i < s.fns.length := by
  by_contra hl
  simp [State.fn, List.getElem?_eq_none (Nat.not_lt.1 hl), FnState.atReset] at h

/-! ### Pending messages (R151) -/

/-- Sending the messages of a list of vectors clears their pending bits alone. -/
theorem State.foldl_sendPending {fn : Nat} (l : List Nat) (s : State) (h : fn < s.fns.length) :
    (l.foldl (fun s v => (s.mapFn fn fun f => { f with pendVec := f.pendVec.filter (· ≠ v) }).sendMsg fn v) s).fn fn
      = { s.fn fn with pendVec := (s.fn fn).pendVec.filter (· ∉ l) } := by
  induction l generalizing s with
  | nil => simp
  | cons v l ih =>
    let u := (s.mapFn fn fun f => { f with pendVec := f.pendVec.filter (· ≠ v) }).sendMsg fn v
    have hu : u.fns = (s.mapFn fn fun f => { f with pendVec := f.pendVec.filter (· ≠ v) }).fns :=
      State.sendMsg_get _ _ _ (fld := .fns) (by simp)
    rw [List.foldl_cons, ih u (by simpa [hu] using h), State.fn_congr hu, State.fn_mapFn_same h]
    simp [List.filter_filter, Bool.and_comm]

/-- What is released leaves no vector pending that nothing masks. -/
theorem State.releaseVecs_fn {s : State} {fn : Nat} (h : fn < s.fns.length) :
    (s.releaseVecs fn).fn fn = { s.fn fn with pendVec := (s.fn fn).pendVec.filter (· ∉ (s.fn fn).ready) } :=
  State.foldl_sendPending _ s h

theorem FnState.mem_ready {f : FnState} (he : f.msixEn = true) (hm : f.fnMask = false) (v : Nat) :
    v ∈ f.ready ↔ v ∈ f.pendVec ∧ v ∈ f.unmasked := by
  simp [FnState.ready, he, hm]

end Sys2Proof.Machine
end

section
/-!
The start of the firmware (R58, R59, R77, R421, R440, R447): what its steps leave of DEV_BOOT, the keeper and the entropy
source, and configuration requests while nobody serves them and after.
-/
namespace Sys2Proof.Machine
open Sys2Proof

/-! ### FW_START (R58, R59, R440, R524) -/

theorem State.setProgress_boot (s : State) (c d : BitVec 16) : (s.setProgress c d).boot
    = if s.boot.mode = .normal ∧ s.boot.lockdown = false then { s.boot with code := c, detail := d } else s.boot := by
  unfold State.setProgress
  split
  · exact s.setCode_boot c d
  · rfl

theorem State.holdCert_blobVersion (s : State) : s.holdCert.keeper.blobVersion = s.keeper.blobVersion := by
  unfold State.holdCert
  dsimp only
  split <;> rfl

theorem State.resumeStateful_blobVersion (s : State) : s.resumeStateful.keeper.blobVersion = s.keeper.blobVersion := by
  have h (l : List SlogRec) (t : State) :
      (l.foldl (fun s r => s.logEvent 0x0411 (r.num * 2 ^ 48 + r.reservedEnd % 2 ^ 48)) t).keeper = t.keeper :=
    State.foldl_keeps State.keeper (fun u r => u.logEvent_keeper _ _) l t
  have hb (t : State) (n : Nat) : (t.logBroken 2 4 n).keeper = t.keeper := State.logBroken_get t 2 4 n (fld := .keeper) (by simp)
  unfold State.resumeStateful
  dsimp only
  split
  · rfl
  · rw [h, hb]
    rfl

/-- The blob is migrated to a newer version unless a power-fail hold defers the write. -/
theorem State.migrateBlob_blobVersion (s : State) (v : Nat) : (s.migrateBlob v).keeper.blobVersion
    = if s.power.pfHold then s.keeper.blobVersion else max s.keeper.blobVersion v := by
  simp only [State.migrateBlob, State.mapKeeper_keeper]
  split
  · next h => simp [h]
  · next h =>
    split
    · rfl
    · exact (max_eq_right (Nat.le_of_not_le h)).symm

@[simp] theorem State.setEnt_ent (s : State) (b : Nat) : (s.setEnt b).ent = { s.ent with evt := s.ent.evt ||| (1#8 <<< b) } := rfl

theorem execFwStart_effect {s : State} (h : s.boot.stage = .bundleOk) (kat : Bool) (v : Nat) :
    ∃ t, execFwStart kat v s = .next t ∧ t.boot.stage = .firmware ∧ t.ent.running = true
      ∧ t.ent.state = (if kat then .starting else .halted) ∧ t.ent.pairs = List.replicate 16 .healthy
      ∧ t.keeper.blobVersion = (if s.power.pfHold then s.keeper.blobVersion else max s.keeper.blobVersion v)
      ∧ t.boot.code = (if s.boot.mode = .normal ∧ s.boot.lockdown = false then 0x0007 else s.boot.code) := by
  unfold execFwStart
  rw [if_neg (not_not_intro h)]
  extract_lets s1 s2 s3 s4 s5 s6
  let t := if s6.guard.running then s6.mapTables fun t => { t with microOk := (s6.loadComponents).tables.microOk }
    else (s6.loadComponents).guardly State.guardStart
  have hget {fld : Field} (hf : fld ∉ ([.guard, .tables, .mgmt, .flt, .out] : List Field)) : t.get fld = s6.get fld := by
    simp only [List.mem_cons, List.not_mem_nil, or_false, not_or] at hf
    simp [t, hf]
  have hb : t.boot = s1.boot := (hget (fld := .boot) (by simp)).trans
    (show s6.get .boot = s1.get .boot by simp [s6, s5, s4, s3, s2])
  have he : t.ent = s5.ent := hget (fld := .ent) (by simp)
  have hk : t.keeper = s3.keeper := (hget (fld := .keeper) (by simp)).trans
    (show s6.get .keeper = s3.get .keeper by simp [s6, s5, s4])
  have hv : s2.keeper.blobVersion = s.keeper.blobVersion := by
    have h1 : s1.keeper = s.keeper := State.setProgress_get _ _ _ (fld := .keeper) (by simp)
    rw [State.resumeStateful_blobVersion, State.holdCert_blobVersion, h1]
  have hp : s2.power = s.power := show s2.get .power = s.get .power by simp [s2, s1]
  refine ⟨t, rfl, ?_⟩
  rw [hb, he, hk, State.migrateBlob_blobVersion, hp, hv, State.setProgress_boot]
  refine ⟨?_, ?_, ?_, ?_, rfl, ?_⟩
  · split <;> rfl
  · cases kat <;> rfl
  · cases kat <;> rfl
  · cases kat <;> rfl
  · by_cases hm : s.boot.mode = .normal ∧ s.boot.lockdown = false <;> simp [hm]

/-! ### The DRBGs (R440, R446, R447) -/

/-- The DRBGs stop as failed; the pairs and the sampling stand. -/
theorem State.stopDrbgs_ent (s : State) : s.stopDrbgs.ent.state = .failed ∧ s.stopDrbgs.ent.pairs = s.ent.pairs
    ∧ s.stopDrbgs.ent.sampled = s.ent.sampled := by
  have h : s.stopDrbgs.get .ent = ((s.mapEnt fun e => { e with state := .failed, live := false }).setEnt 6).get .ent := by
    simp [State.stopDrbgs]
  have h : s.stopDrbgs.ent = ((s.mapEnt fun e => { e with state := .failed, live := false }).setEnt 6).ent := h
  rw [h]
  exact ⟨rfl, rfl, rfl⟩

/-- Once sampling has ended the pairs decide: nine retired halt the source, fewer than eight healthy fail it. -/
theorem State.afterPairs_ent {s : State} (hs : s.ent.sampled = true) (hh : s.ent.state ≠ .halted) :
    s.afterPairs.ent.sampled = true ∧ s.afterPairs.ent.state
      = if 9 ≤ s.ent.retired then .halted else if s.ent.healthy < 8 then .failed else s.ent.state := by
  let u := if s.ent.sampled ∧ s.ent.healthy < 8 ∧ (s.ent.state = .ready ∨ s.ent.state = .starting) then s.stopDrbgs else s
  obtain ⟨hst, hpa, hsa⟩ := s.stopDrbgs_ent
  have hu : u.ent.state = (if s.ent.healthy < 8 then .failed else s.ent.state) ∧ u.ent.pairs = s.ent.pairs
      ∧ u.ent.sampled = true := by
    by_cases hf : s.ent.healthy < 8
    · cases hc : s.ent.state <;> simp_all [u]
    · simp [u, hf, hs]
  obtain ⟨hus, hup, husa⟩ := hu
  have hr : u.ent.retired = s.ent.retired := by rw [Entropy.retired, Entropy.retired, hup]
  have hn : u.ent.state ≠ .halted := by
    rw [hus]
    split
    · simp
    · exact hh
  have hl (x : State) (n : Nat) : (x.logEvent 0x0503 n).ent = x.ent := State.logEvent_get x 0x0503 n (fld := .ent) (by simp)
  change (if 9 ≤ u.ent.retired ∧ u.ent.sampled ∧ u.ent.state ≠ .halted then _ else u).ent.sampled = true
    ∧ (if 9 ≤ u.ent.retired ∧ u.ent.sampled ∧ u.ent.state ≠ .halted then _ else u).ent.state = _
  by_cases h9 : 9 ≤ s.ent.retired
  · rw [if_pos ⟨hr ▸ h9, husa, hn⟩, if_pos h9, hl]
    exact ⟨husa, rfl⟩
  · rw [if_neg fun h => h9 (hr ▸ h.1), if_neg h9]
    exact ⟨husa, hus⟩

theorem State.newSaveKey_ready {s : State} (h : s.ent.state = .ready) :
    s.newSaveKey = (s.mapDru fun d => { d with saveKey := some s.freeCtr }).draw := if_pos h

/-- With its known-answer test passed the first instantiation makes the DRBGs ready (R442, R447). -/
theorem execDrbgInstantiate_ready {s : State} (hs : s.ent.sampled = true) (hst : s.ent.state = .starting)
    (hh : 8 ≤ s.ent.healthy) (hp : 24 ≤ s.ent.pool) :
    ∃ t, execDrbgInstantiate true s = .next t ∧ t.ent.state = .ready ∧ t.ent.live = true
      ∧ t.ent.reseeds = s.ent.reseeds + 16 ∧ t.ent.requests = List.replicate 16 0
      ∧ t.boot.entropyReady = (s.boot.entropyReady || !s.boot.lockdown) ∧ t.dru.saveKey.isSome = true := by
  have hg : ¬ (s.ent.sampled = false ∨ s.ent.state ≠ .starting ∨ s.ent.healthy < 8 ∨ s.ent.pool < 24) := by
    simp [hs, hst, hh, hp]
  unfold execDrbgInstantiate
  extract_lets e s1 s2
  rw [if_neg hg, if_neg (by simp)]
  have h2 : s2.ent = s1.ent ∧ s2.boot = s.boot ∧ s2.dru.saveKey.isSome = true := by
    simp only [s2, State.newSaveKey_ready (s := s1) rfl]
    split
    · exact ⟨rfl, rfl, rfl⟩
    · next h => exact ⟨rfl, rfl, by simpa [Option.isSome_iff_ne_none] using h⟩
  obtain ⟨he, hb, hk⟩ := h2
  let t := if s2.boot.entropyReady || s2.boot.lockdown then s2
    else (s2.mapBoot fun b => { b with entropyReady := true }).setProgress 0x0008 (BitVec.ofNat 16 e.healthy)
  have hget {fld : Field} (hf : fld ∉ ([.boot, .mgmt, .flt, .out] : List Field)) : t.get fld = s2.get fld := by
    simp only [List.mem_cons, List.not_mem_nil, or_false, not_or] at hf
    simp [t, hf]
  have hte : t.ent = s1.ent := (hget (fld := .ent) (by simp)).trans he
  have htd : t.dru = s2.dru := hget (fld := .dru) (by simp)
  have htb : t.boot.entropyReady = (s.boot.entropyReady || !s.boot.lockdown) := by
    cases hr : s.boot.entropyReady <;> cases hl : s.boot.lockdown <;> simp [t, hb, hr, hl, State.setProgress_boot]
    split <;> rfl
  refine ⟨t, rfl, ?_⟩
  rw [hte, htd]
  exact ⟨rfl, rfl, rfl, rfl, htb, hk⟩

/-! ### Configuration requests (R77, R140 to R145) -/

theorem execConfigRequest_retry {s : State} {fn : Nat} (hl : s.boot.link = .up) (hc : s.boot.cut = false)
    (hp : (s.fn fn).present = true) (hs : s.boot.serviceReady = false) (hn : s.boot.loaderServes = false) (op : CfgOp) :
    execConfigRequest fn op s = .next (s.emit (.cfgRetry fn)) := by
  simp [execConfigRequest, hl, hc, hp, hs, hn]

section
variable {s : State} {fn : Nat} (hl : s.boot.link = .up) (hc : s.boot.cut = false) (hp : (s.fn fn).present = true)
  (hs : s.boot.serviceReady = true ∨ s.boot.loaderServes = true)
include hl hc hp hs

theorem execConfigRequest_read (off : Nat) :
    execConfigRequest fn (.read off) s = .next (s.emit (.cfgData fn (s.cfgWord fn off))) := by
  rcases hs with h | h <;> simp [execConfigRequest, hl, hc, hp, h]

theorem execConfigRequest_readField (f : CfgField) :
    execConfigRequest fn (.readField f) s = .next (s.emit (.cfgData fn (s.cfgField fn f))) := by
  rcases hs with h | h <;> simp [execConfigRequest, hl, hc, hp, h]

theorem execConfigRequest_setMemSpace (on : Bool) :
    execConfigRequest fn (.setMemSpace on) s = .next (s.mapFn fn fun f => { f with mse := on }) := by
  rcases hs with h | h <;> simp [execConfigRequest, hl, hc, hp, h]

theorem execConfigRequest_setField (f : CfgField) (v : BitVec 32) (ho : fn = 0 ∨ f = .completionTimeout) :
    execConfigRequest fn (.setField f v) s = .next (s.mapFn fn fun x => { x with cfg := x.cfg.put f v (s.vfs ≠ []) }) := by
  rcases hs with h | h <;> simp [execConfigRequest, hl, hc, hp, h, ho]

theorem execConfigRequest_setMsix (en mask : Bool) :
    execConfigRequest fn (.setMsix en mask) s
      = .next ((s.mapFn fn fun f => { f with msixEn := en, fnMask := mask }).releaseVecs fn) := by
  rcases hs with h | h <;> simp [execConfigRequest, hl, hc, hp, h]

end

/-- Setting MSI-X Enable or clearing Function Mask sends what was pending (R151). -/
theorem State.releaseVecs_setMsix {s : State} {fn : Nat} (h : fn < s.fns.length) (en mask : Bool) :
    let f := ((s.mapFn fn fun f => { f with msixEn := en, fnMask := mask }).releaseVecs fn).fn fn
    f.msixEn = en ∧ f.fnMask = mask ∧ (en = true → mask = false → ∀ v, v ∈ f.pendVec → v ∉ f.unmasked) := by
  intro f
  let g : FnState := { s.fn fn with msixEn := en, fnMask := mask }
  have hf : f = { g with pendVec := g.pendVec.filter (· ∉ g.ready) } := by
    have hg : (s.mapFn fn fun f => { f with msixEn := en, fnMask := mask }).fn fn = g := State.fn_mapFn_same h _
    rw [← hg]
    exact State.releaseVecs_fn (by simpa using h)
  rw [hf]
  refine ⟨rfl, rfl, fun he hm v hv hu => ?_⟩
  obtain ⟨hv, hr⟩ := List.mem_filter.1 hv
  exact of_decide_eq_true hr ((FnState.mem_ready he hm v).2 ⟨hv, hu⟩)

end Sys2Proof.Machine

open Sys2Proof Sys2Proof.Machine

/-- Settles O21: each row by its own case. -/
theorem firmwareStartCompletes : Obligations.FirmwareStartCompletes := by
  intro s kat
  refine ⟨fun v h => execFwStart_effect h kat v, fun hf hr => ?_, fun hr hs hh => ?_, fun hs hst hh hp => ?_,
    fun hp hc hu hl => ⟨_, congrArg Host.Outcome.next (if_pos ⟨hp, hc, hu, hl⟩), rfl⟩,
    fun hl => ⟨_, congrArg Host.Outcome.next (if_pos hl), rfl⟩,
    fun hp hc hf => ⟨_, congrArg Host.Outcome.next (if_pos ⟨hp, hc, hf⟩), rfl⟩,
    fun fn hl hc hp => ⟨fun hs hn op => ?_, fun hs => ⟨fun off => ?_, fun on => ?_, fun f => ?_, fun f v ho => ?_,
      fun en mask => ?_⟩⟩⟩
  · refine ⟨_, congrArg Host.Outcome.next (if_pos ⟨by simpa [State.fwRunning] using hf, hr⟩), ?_⟩
    rw [State.setProgress_boot]
    have hd (t : State) : (t.setProgress 0x0009 0).dru = t.dru := State.setProgress_get t _ _ (fld := .dru) (by simp)
    rw [hd]
    refine ⟨?_, ?_, ?_, ?_⟩
    · split <;> rfl
    · split <;> rfl
    · by_cases ho : s.dru.owner = .sc <;> simp [ho]
    · by_cases hm : s.boot.mode = .normal ∧ s.boot.lockdown = false <;> simp [hm]
  · cases kat with
    | false => exact ⟨_, (if_neg (by simp [hr, hs, hh])).trans rfl, rfl, rfl⟩
    | true =>
      obtain ⟨hsa, hst⟩ := State.afterPairs_ent (s := s.mapEnt fun e => { e with sampled := true }) rfl hh
      refine ⟨_, if_neg (by simp [hr, hs, hh]), hsa, hst.trans ?_⟩
      change (if 9 ≤ s.ent.retired then EntState.halted else if s.ent.healthy < 8 then .failed else s.ent.state) = _
      simp
  · cases kat with
    | false =>
      exact ⟨_, (if_neg (by simp [hs, hst, hh, hp])).trans (if_pos rfl), rfl, fun h => nomatch h⟩
    | true =>
      obtain ⟨t, ht, h1, h2⟩ := execDrbgInstantiate_ready hs hst hh hp
      exact ⟨t, ht, h1, fun _ => h2⟩
  · exact ⟨_, execConfigRequest_retry hl hc hp hs hn op, rfl, rfl⟩
  · exact ⟨_, execConfigRequest_read hl hc hp hs off, rfl⟩
  · exact ⟨_, execConfigRequest_setMemSpace hl hc hp hs on, State.fn_mapFn_same (State.lt_of_present hp) _⟩
  · exact ⟨_, execConfigRequest_readField hl hc hp hs f, rfl⟩
  · exact ⟨_, execConfigRequest_setField hl hc hp hs f v ho, State.fn_mapFn_same (State.lt_of_present hp) _⟩
  · exact ⟨_, execConfigRequest_setMsix hl hc hp hs en mask, State.releaseVecs_setMsix (State.lt_of_present hp) en mask⟩
end

section
/-!
The resets (R80 to R84, R156, R157, R281): a record of an event changes the log alone, jobs and queues that end leave those
that stay as they were named, and what PERST_N, a function-level reset and VF Enable make of the functions.
-/
namespace Sys2Proof.Machine
open Sys2Proof

/-! ### Records of events (R495, R532) -/

/-- `t` is `s` but for its log, whose tamper records are those of `s`. -/
def State.Noted (s t : State) : Prop := ∃ l : Logs, t = s.mapLogs (fun _ => l) ∧ l.tamper = s.logs.tamper

theorem State.Noted.refl (s : State) : s.Noted s := ⟨s.logs, rfl, rfl⟩

theorem State.Noted.trans {s t u : State} (a : s.Noted t) (b : t.Noted u) : s.Noted u := by
  obtain ⟨l, rfl, hl⟩ := a
  obtain ⟨m, rfl, hm⟩ := b
  exact ⟨m, rfl, hm.trans hl⟩

/-- A record that is neither a tamper record nor a broken guarantee raises no flag. -/
theorem State.writeRec_noted (s : State) {r : LogRec} (h2 : r.kind ≠ 2) (h3 : r.kind ≠ 3) : s.Noted (s.writeRec r) := by
  refine ⟨(s.writeRec r).logs, ?_, ?_⟩
  · simp only [State.writeRec, h2, h3, if_false]
    rfl
  · simp [State.writeRec, h2, h3]

theorem State.addRec_noted (s : State) {r : LogRec} (h2 : r.kind ≠ 2) (h3 : r.kind ≠ 3) : s.Noted (s.addRec r) := by
  unfold State.addRec
  split
  · exact s.writeRec_noted h2 h3
  · split <;> exact ⟨_, rfl, rfl⟩

theorem State.logEvent_noted (s : State) (c : BitVec 16) (d : Nat) : s.Noted (s.logEvent c d) :=
  s.addRec_noted (r := s.recOf c 0 255 0 d) (fun h => nomatch h) (fun h => nomatch h)

theorem State.foldl_undelivered_noted (l : List Job) (s : State) : s.Noted (l.foldl State.undelivered s) := by
  induction l generalizing s with
  | nil => exact .refl s
  | cons j l ih =>
    refine .trans ?_ (ih _)
    unfold State.undelivered
    split
    · exact s.logEvent_noted _ _
    · exact .refl s

/-! ### Jobs and queues that end (R281) -/

/-- `t` holds no job and no queue but those of `s`: a job keeps its number and its queue. -/
structure State.Reduced (s t : State) : Prop where
  jobs : ∀ x ∈ t.jobs, ∃ y ∈ s.jobs, y.id = x.id ∧ y.q = x.q
  queues : ∀ q ∈ t.queues, q ∈ s.queues

theorem State.Reduced.of_eq {s t : State} (hj : t.jobs = s.jobs) (hq : t.queues = s.queues) : s.Reduced t :=
  ⟨fun x hx => ⟨x, hj ▸ hx, rfl, rfl⟩, fun _ h => hq ▸ h⟩

theorem State.Reduced.trans {s t u : State} (a : s.Reduced t) (b : t.Reduced u) : s.Reduced u where
  jobs x hx := by
    obtain ⟨y, hy, hi, hq⟩ := b.jobs x hx
    obtain ⟨z, hz, hi', hq'⟩ := a.jobs y hy
    exact ⟨z, hz, hi'.trans hi, hq'.trans hq⟩
  queues q hq := a.queues q (b.queues q hq)

theorem State.Reduced.foldl {α : Type} {g : State → α → State} (h : ∀ (s : State) a, s.Reduced (g s a)) (l : List α)
    (s : State) : s.Reduced (l.foldl g s) := by
  induction l generalizing s with
  | nil => exact .of_eq rfl rfl
  | cons a l ih => exact (h s a).trans (ih _)

theorem State.finish_reduced (s : State) (id : Nat) (status : Status) (r : BitVec 64) (b : Bytes) (n : Nat) :
    s.Reduced (s.finish id status r b n) where
  jobs x hx := by
    obtain ⟨y, hy, rfl⟩ := List.mem_map.1 hx
    obtain ⟨z, hz, rfl⟩ := List.mem_map.1 hy
    refine ⟨z, hz, ?_⟩
    dsimp only
    split <;> split <;> exact ⟨rfl, rfl⟩
  queues _ h := h

theorem State.takeHigh_reduced (s : State) : s.Reduced s.takeHigh := by
  unfold State.takeHigh
  extract_lets s1
  have h1 : s.Reduced s1 := .of_eq rfl rfl
  split
  · exact .of_eq rfl rfl
  · split
    · exact .of_eq rfl rfl
    · split
      · exact h1.trans (s1.finish_reduced _ _ _ _ _)
      · exact .of_eq rfl rfl
    · refine h1.trans (.of_eq ?_ ?_)
      · exact (State.requestData_get _ _ (fld := .jobs) (by simp)).trans
          (State.pldmSend_get s1 _ _ _ _ (fld := .jobs) (by simp))
      · exact (State.requestData_get _ _ (fld := .queues) (by simp)).trans
          (State.pldmSend_get s1 _ _ _ _ (fld := .queues) (by simp))

/-- A job that is released is gone. -/
theorem State.release_reduced (s : State) (j : Job) :
    s.Reduced (s.release j) ∧ ∀ x ∈ (s.release j).jobs, x.id ≠ j.id := by
  let u := ((s.mapKeys fun k => (k.lower j.chain).lower j.chain2).mapStore fun o => o.spoilAll j.scratch).dropJob j.id
  have hu : ∀ x ∈ u.jobs, x ∈ s.jobs ∧ x.id ≠ j.id := fun x hx => by simpa using List.mem_filter.1 hx
  have ht : u.Reduced (s.release j) := u.takeHigh_reduced
  refine ⟨.trans ⟨fun x hx => ⟨x, (hu x hx).1, rfl, rfl⟩, fun _ h => h⟩ ht, fun x hx => ?_⟩
  obtain ⟨y, hy, hi, -⟩ := ht.jobs x hx
  exact hi ▸ (hu y hy).2

/-- Jobs that are lost are gone, and no job takes their place. -/
theorem State.loseJobs_reduced (l : List Job) (s : State) :
    s.Reduced (s.loseJobs l) ∧ ∀ x ∈ (s.loseJobs l).jobs, ∀ j ∈ l, x.id ≠ j.id := by
  induction l generalizing s with
  | nil => exact ⟨.of_eq rfl rfl, by simp⟩
  | cons j l ih =>
    let u := ((s.leavePort j.id).dropStream j).mapStore fun o => o.spoilAll j.spoiledSlots
    have hj : u.jobs = s.jobs := State.dropStream_get (s.leavePort j.id) j (fld := .jobs) (by simp)
    have hq : u.queues = s.queues := State.dropStream_get (s.leavePort j.id) j (fld := .queues) (by simp)
    obtain ⟨hr, hi⟩ := u.release_reduced j
    obtain ⟨hl, hn⟩ := ih (u.release j)
    refine ⟨(State.Reduced.of_eq hj hq).trans (hr.trans hl), fun x hx k hk => ?_⟩
    rcases List.mem_cons.1 hk with rfl | hk
    · obtain ⟨y, hy, he, -⟩ := hl.jobs x hx
      exact he ▸ hi y hy
    · exact hn x hx k hk

section
variable (s : State) (l : List Job)

/-- Of the components that records and lost jobs reach, ended jobs leave the functions and the tamper log alone. -/
theorem State.endJobs_kept : (s.endJobs l).fns = s.fns ∧ (s.endJobs l).logs.tamper = s.logs.tamper
    ∧ (s.endJobs l).guard.holdPins = s.guard.holdPins := by
  obtain ⟨m, hm, ht⟩ := State.foldl_undelivered_noted l (s.loseJobs l)
  have hf : (s.loseJobs l).fns = s.fns := State.loseJobs_get s l (fld := .fns) (by simp)
  have hl : (s.loseJobs l).logs = s.logs := State.loseJobs_get s l (fld := .logs) (by simp)
  have hg : (s.loseJobs l).guard = s.guard := State.loseJobs_get s l (fld := .guard) (by simp)
  unfold State.endJobs
  rw [hm]
  refine ⟨hf, ht.trans (congrArg Logs.tamper hl), ?_⟩
  rw [← hg]
  rfl

theorem State.endJobs_reduced : s.Reduced (s.endJobs l) ∧ ∀ x ∈ (s.endJobs l).jobs, ∀ j ∈ l, x.id ≠ j.id := by
  obtain ⟨m, hm, -⟩ := State.foldl_undelivered_noted l (s.loseJobs l)
  obtain ⟨hr, hn⟩ := State.loseJobs_reduced l s
  unfold State.endJobs
  rw [hm]
  exact ⟨⟨hr.jobs, hr.queues⟩, hn⟩

end

/-- When every job ends none is left. -/
theorem State.endJobs_all (s : State) : (s.endJobs s.jobs).jobs = [] := by
  obtain ⟨hr, hn⟩ := s.endJobs_reduced s.jobs
  refine List.eq_nil_iff_forall_not_mem.2 fun x hx => ?_
  obtain ⟨y, hy, hi, -⟩ := hr.jobs x hx
  exact hn x hx y hy hi.symm

/-- The queues left are those that were not to end. -/
theorem State.endQueues_queues (s : State) (p : QRef → Bool) :
    ∀ q ∈ (s.endQueues p).queues, q ∈ s.queues ∧ p q.ref = false := by
  have h (l : List QRef) (t : State) : (l.foldl State.endQueue t).queues = t.queues.filter fun q => q.ref ∉ l := by
    induction l generalizing t with
    | nil => simp
    | cons r l ih =>
      have hr : (t.endQueue r).queues = t.queues.filter fun q => q.ref ≠ r := rfl
      rw [List.foldl_cons, ih, hr]
      simp [List.filter_filter, Bool.and_comm]
  intro q hq
  rw [State.endQueues, h, List.mem_filter] at hq
  obtain ⟨hm, hn⟩ := hq
  refine ⟨hm, ?_⟩
  by_contra hp
  exact of_decide_eq_true hn (List.mem_filter.2 ⟨List.mem_map_of_mem hm, by simpa using hp⟩)

/-! ### PERST_N (R80 to R84) -/

theorem State.resetFns_length (s : State) : s.resetFns.fns.length = 65 := by simp [State.resetFns]

/-- What PERST_N does whatever the compute die runs: the link is down, PWR_LIMIT has no floor, the functions are at reset;
fuses and tamper records stand. -/
structure State.PerstDone (s t : State) : Prop where
  perst : t.boot.perstHigh = false
  link : t.boot.link = .down
  floor : t.power.tierFloor = 0
  fns : t.fns.length = 65
  raw : t.fuses.raw = s.fuses.raw
  tamper : t.logs.tamper = s.logs.tamper

theorem State.perstLink_done {s u : State} (hr : u.fuses.raw = s.fuses.raw) (ht : u.logs.tamper = s.logs.tamper) :
    s.PerstDone u.perstLink where
  perst := rfl
  link := rfl
  floor := congrArg Power.tierFloor (State.retier_power _ _)
  fns := by
    have h : (u.resetFns.retier fun s => s.mapPower fun p => { p with tierFloor := 0 }).fns = u.resetFns.fns :=
      State.retier_get _ _ (fld := .fns) (by simp) fun _ => rfl
    exact (congrArg List.length h).trans u.resetFns_length
  raw := (congrArg Fuses.raw (State.perstLink_get u (fld := .fuses) (by simp))).trans hr
  tamper := (congrArg Logs.tamper (State.perstLink_get u (fld := .logs) (by simp))).trans ht

theorem State.PerstDone.setCode {s t : State} (h : s.PerstDone t) (c d : BitVec 16) : s.PerstDone (t.setCode c d) where
  perst := (congrArg Boot.perstHigh (t.setCode_boot c d)).trans h.perst
  link := (congrArg Boot.link (t.setCode_boot c d)).trans h.link
  floor := (congrArg Power.tierFloor (t.setCode_power c d)).trans h.floor
  fns := (congrArg List.length (t.setCode_get c d (fld := .fns) (by simp))).trans h.fns
  raw := (congrArg Fuses.raw (t.setCode_fuses c d)).trans h.raw
  tamper := (congrArg Logs.tamper (t.setCode_logs c d)).trans h.tamper

theorem State.perstLink_boot (s : State) : s.perstLink.boot
    = { s.boot with perstHigh := false, link := .down, cut := s.boot.cut && s.flt.active } := by
  have h : (s.resetFns.retier fun s => s.mapPower fun p => { p with tierFloor := 0 }).boot = s.boot :=
    State.retier_get _ _ (fld := .boot) (by simp) fun _ => rfl
  simp only [State.perstLink, State.mapBoot_boot, h]

/-- The jobs of PERST_N end; their number is recorded. -/
theorem State.perstJobs_effect (s : State) : s.perstJobs.jobs = [] ∧ s.perstJobs.logs.tamper = s.logs.tamper
    ∧ s.perstJobs.guard.holdPins = s.guard.holdPins := by
  obtain ⟨m, hm, ht⟩ := s.logEvent_noted 0x0302 s.jobs.length
  unfold State.perstJobs
  rw [hm]
  obtain ⟨-, hl, hg⟩ := (s.mapLogs fun _ => m).endJobs_kept s.jobs
  exact ⟨(s.mapLogs fun _ => m).endJobs_all, hl.trans ht, hg⟩

/-- PERST_N outside LOCKDOWN: the start-up and the holds stand; jobs, queues and keys go. -/
theorem State.perstWarm_effect (s : State) : s.PerstDone s.perstWarm
    ∧ (s.perstWarm.jobs = [] ∧ s.perstWarm.queues = [] ∧ s.perstWarm.keys.ctx = [] ∧ s.perstWarm.keys.imported = [])
    ∧ s.perstWarm.boot.stage = s.boot.stage ∧ s.perstWarm.guard.holdPins = s.guard.holdPins
    ∧ s.perstWarm.dru.owner = s.resetOwner := by
  let s1 := (s.perstJobs.spoilKeyStores false).endQueues fun _ => true
  let s2 := s1.closeAllSessions.mapTables fun t => { t with curves := [], dxProgs := [], idxQueue := [] }
  let u := (s2.clearDru s.resetOwner).dropHostUpdate
  have he : s.perstWarm = u.perstLink := rfl
  obtain ⟨hj, ht, hg⟩ := s.perstJobs_effect
  have hfu : u.fuses = s.fuses := show u.get .fuses = s.get .fuses by simp [u, s2, s1, State.perstJobs]
  have hlo : u.logs = s.perstJobs.logs := show u.get .logs = s.perstJobs.get .logs by simp [u, s2, s1]
  have hjo : u.perstLink.jobs = s.perstJobs.jobs := show u.perstLink.get .jobs = s.perstJobs.get .jobs by simp [u, s2, s1]
  have hgu : u.perstLink.guard = s.perstJobs.guard := show u.perstLink.get .guard = s.perstJobs.get .guard by simp [u, s2, s1]
  have hq : u.perstLink.queues = s1.queues := show u.perstLink.get .queues = s1.get .queues by simp [u, s2]
  have hk : u.perstLink.keys = (s.perstJobs.spoilKeyStores false).keys :=
    show u.perstLink.get .keys = (s.perstJobs.spoilKeyStores false).get .keys by simp [u, s2, s1]
  have hd : u.perstLink.dru = (s2.clearDru s.resetOwner).dru :=
    show u.perstLink.get .dru = (s2.clearDru s.resetOwner).get .dru by simp [u]
  have hb : u.boot = s.boot := show u.get .boot = s.get .boot by simp [u, s2, s1, State.perstJobs]
  have hq0 : s1.queues = [] := List.eq_nil_iff_forall_not_mem.2 fun q h =>
    Bool.noConfusion ((State.endQueues_queues _ (fun _ => true) q h).2)
  rw [he]
  clear_value u
  refine ⟨State.perstLink_done (congrArg Fuses.raw hfu) ((congrArg Logs.tamper hlo).trans ht),
    ⟨hjo.trans hj, hq.trans hq0, ?_, ?_⟩, ?_, (congrArg Guard.holdPins hgu).trans hg, ?_⟩
  · rw [hk]
    rfl
  · rw [hk]
    rfl
  · rw [State.perstLink_boot, hb]
  · rw [hd, State.clearDru_owner]

theorem State.restartDie_effect (s : State) :
    (s.restartDie.jobs = [] ∧ s.restartDie.queues = [] ∧ s.restartDie.keys = Keys.empty)
    ∧ s.restartDie.boot.stage = .released ∧ s.restartDie.boot.lockdown = false
    ∧ s.restartDie.logs.tamper = s.logs.tamper ∧ s.restartDie.guard.holdPins = s.guard.holdPins := by
  obtain ⟨-, hl, hg⟩ := s.endJobs_kept s.jobs
  exact ⟨⟨rfl, rfl, rfl⟩, rfl, rfl, hl, hg⟩

/-- PERST_N in LOCKDOWN: the compute die restarts from fuse sensing with every hold asserted. -/
theorem State.perstLocked_effect (s : State) : s.PerstDone s.perstLocked
    ∧ (s.perstLocked.jobs = [] ∧ s.perstLocked.queues = [] ∧ s.perstLocked.keys.ctx = []
      ∧ s.perstLocked.keys.imported = [])
    ∧ s.perstLocked.boot.stage = .released ∧ s.perstLocked.boot.lockdown = false ∧ s.perstLocked.boot.code = 0x0003
    ∧ s.perstLocked.guard.holdPins = 0 := by
  let v := (s.mapBoot fun b => { b with lockdown := false }).guardReset
  let u := v.restartDie
  have he : s.perstLocked = u.perstLink.setCode 0x0003 (BitVec.ofNat 16 s.keeper.bootCount) := rfl
  obtain ⟨⟨hj, hq, hk⟩, hst, hlk, hlo, hg⟩ := v.restartDie_effect
  have hget {fld : Field} (hm : fld ∉ ([.power, .boot, .mgmt, .flt, .fns, .out] : List Field)) :
      s.perstLocked.get fld = u.get fld := by
    simp only [List.mem_cons, List.not_mem_nil, or_false, not_or] at hm
    simp [he, hm]
  have hvl : v.logs = s.logs := State.guardReset_get _ (fld := .logs) (by simp)
  have hvf : u.fuses = s.fuses := show u.get .fuses = s.get .fuses by simp [u, v]
  have hd : s.PerstDone u.perstLink :=
    State.perstLink_done (congrArg Fuses.raw hvf) (hlo.trans (congrArg Logs.tamper hvl))
  have hkt : s.perstLocked.keys = Keys.empty := (hget (fld := .keys) (by simp)).trans hk
  have hgt : s.perstLocked.guard = u.guard := hget (fld := .guard) (by simp)
  have hv : v.guard.holdPins = 0 := State.guardReset_holdPins (s := s.mapBoot fun b => { b with lockdown := false }) rfl
  refine ⟨he ▸ hd.setCode _ _,
    ⟨(hget (fld := .jobs) (by simp)).trans hj, (hget (fld := .queues) (by simp)).trans hq, ?_, ?_⟩, ?_, ?_, ?_,
    (congrArg Guard.holdPins hgt).trans (hg.trans hv)⟩
  · rw [hkt]
    rfl
  · rw [hkt]
    rfl
  · rw [he, State.setCode_boot, State.perstLink_boot]
    exact hst
  · rw [he, State.setCode_boot, State.perstLink_boot]
    exact hlk
  · rw [he, State.setCode_boot]

/-! ### Function-level reset and VF Enable (R143, R156, R157) -/

/-- A function while its reset runs. -/
def FnState.flrStarted (f : FnState) : FnState := { FnState.atReset f.present with inFlr := true, cfg := f.cfg.afterFlr }

/-- The reset of one function: its state, and no job and no queue of its rings. -/
theorem State.flrOne_effect (s : State) (fn : Nat) :
    (s.flrOne fn).fns = (s.mapFn fn FnState.flrStarted).fns ∧ s.Reduced (s.flrOne fn)
    ∧ (∀ j ∈ (s.flrOne fn).jobs, ¬ (j.q.hasRing = true ∧ j.fn = fn))
    ∧ ∀ q ∈ (s.flrOne fn).queues, ¬ (q.ref.hasRing = true ∧ q.ref.fn = fn) := by
  let mine := s.jobs.filter fun j => j.q.hasRing && j.fn = fn
  let s1 := (s.logEvent 0x0301 (mine.length * 256 + fn)).endJobs mine
  let owned := (s1.store.slots.filter fun p => p.2.owner = fn).map Prod.fst
  let s2 := (s1.mapStore fun o => o.spoilAll owned).mapTables fun t => t.freeStreams fun x => x.fn = fn
  let s3 := s2.endQueues fun r => r.hasRing && r.fn = fn
  have he : s.flrOne fn = s3.mapFn fn FnState.flrStarted := rfl
  obtain ⟨m, hm, -⟩ := s.logEvent_noted 0x0301 (mine.length * 256 + fn)
  have h1 : s1 = (s.mapLogs fun _ => m).endJobs mine := congrArg (State.endJobs · mine) hm
  obtain ⟨hr, hn⟩ := (s.mapLogs fun _ => m).endJobs_reduced mine
  obtain ⟨hf, -⟩ := (s.mapLogs fun _ => m).endJobs_kept mine
  rw [← h1] at hr hn hf
  have hf3 : s3.fns = s1.fns := show s3.get .fns = s1.get .fns by simp [s3, s2]
  have hj3 : s3.jobs = s1.jobs := show s3.get .jobs = s1.get .jobs by simp [s3, s2]
  have hq2 : s2.queues = s1.queues := show s2.get .queues = s1.get .queues by simp [s2]
  have hq3 : ∀ q ∈ s3.queues, q ∈ s2.queues ∧ (q.ref.hasRing && q.ref.fn = fn) = false := s2.endQueues_queues _
  rw [he]
  clear_value s3 s2 s1
  rw [hq2] at hq3
  replace hf3 : s3.fns = s.fns := hf3.trans hf
  have hj : ∀ x ∈ (s3.mapFn fn FnState.flrStarted).jobs, x ∈ s1.jobs := fun x hx => by rwa [State.mapFn_jobs, hj3] at hx
  refine ⟨?_, ⟨fun x hx => hr.jobs x (hj x hx), fun q hq => hr.queues q (hq3 q hq).1⟩, fun x hx hc => ?_,
    fun q hq hc => ?_⟩
  · rw [State.mapFn_fns, State.mapFn_fns, hf3, State.fn_congr hf3]
  · obtain ⟨y, hy, hi, hq⟩ := hr.jobs x (hj x hx)
    refine hn x (hj x hx) y (List.mem_filter.2 ⟨hy, ?_⟩) hi.symm
    simpa [Job.fn, hq] using hc
  · simpa [hc] using (hq3 q hq).2

theorem State.fn_remove (s : State) (i k : Nat) :
    (s.mapFn i fun _ => FnState.atReset false).fn k = if i = k then FnState.atReset false else s.fn k := by
  by_cases h : i = k
  · subst h
    by_cases hl : i < s.fns.length
    · simp [State.fn_mapFn_same hl]
    · simp [State.fn, hl]
  · rw [State.fn_mapFn_ne h, if_neg h]

theorem State.vfs_eq (s : State) : s.vfs = ((List.range 64).map (· + 1)).filter fun i => (s.fn i).present := rfl

theorem State.mem_vfs {s : State} {i : Nat} : i ∈ s.vfs ↔ (1 ≤ i ∧ i ≤ 64) ∧ (s.fn i).present = true := by
  rw [State.vfs_eq, List.mem_filter, List.mem_map]
  refine and_congr_left fun _ => ⟨?_, fun h => ⟨i - 1, by simp only [List.mem_range]; omega, by omega⟩⟩
  rintro ⟨j, hj, rfl⟩
  simp only [List.mem_range] at hj
  omega

theorem State.vfs_congr {s t : State} (h : t.fns = s.fns) : t.vfs = s.vfs := by
  simp only [State.vfs, State.fn_congr h]

/-- Clearing VF Enable removes the VFs that exist and no other function. -/
theorem State.clearVfs_effect (s : State) : s.Reduced s.clearVfs
    ∧ ∀ k, s.clearVfs.fn k = if k ∈ s.vfs then FnState.atReset false else s.fn k := by
  unfold State.clearVfs
  generalize s.vfs = l
  induction l generalizing s with
  | nil => exact ⟨.of_eq rfl rfl, by simp⟩
  | cons i l ih =>
    obtain ⟨hf, hr, -, -⟩ := s.flrOne_effect i
    obtain ⟨hr', hk⟩ := ih ((s.flrOne i).mapFn i fun _ => FnState.atReset false)
    refine ⟨.trans (t := (s.flrOne i).mapFn i fun _ => FnState.atReset false) ⟨hr.jobs, hr.queues⟩ hr',
      fun k => (hk k).trans ?_⟩
    rw [State.fn_remove]
    by_cases hi : i = k
    · simp [hi]
    · rw [State.fn_congr hf, State.fn_mapFn_ne hi]
      simp [hi, Ne.symm hi]

theorem State.clearVfs_vfs (s : State) : s.clearVfs.vfs = [] := by
  refine List.eq_nil_iff_forall_not_mem.2 fun i hi => ?_
  obtain ⟨hb, hp⟩ := State.mem_vfs.1 hi
  rw [s.clearVfs_effect.2 i] at hp
  split at hp
  · simp [FnState.atReset] at hp
  · exact absurd (State.mem_vfs.2 ⟨hb, hp⟩) ‹_›

/-- Creating VFs makes those of the list present. -/
theorem State.foldl_create (l : List Nat) (s : State) (k : Nat) (h : ∀ i ∈ l, i < s.fns.length) :
    ((l.foldl (fun s i => s.setFn i (FnState.atReset true)) s).fn k).present = (decide (k ∈ l) || (s.fn k).present) := by
  induction l generalizing s with
  | nil => simp
  | cons i l ih =>
    have hi := h i (by simp)
    rw [List.foldl_cons, ih _ (by simpa [State.setFn] using fun j hj => h j (by simp [hj])), State.fn_setFn]
    by_cases hk : i = k
    · simp [hk, hk ▸ hi, FnState.atReset]
    · simp [hk, Ne.symm hk]

/-- Setting VF Enable creates the first VFs (R143). -/
theorem State.vfs_create {s : State} {n : Nat} (hn : n ≤ 64) (hv : s.vfs = []) (hl : s.fns.length = 65) :
    (((List.range n).map (· + 1)).foldl (fun s i => s.setFn i (FnState.atReset true)) s).vfs
      = (List.range n).map (· + 1) := by
  have hp (i : Nat) (hi : i < 64) : (s.fn (i + 1)).present = false := by
    by_contra h
    have : i + 1 ∈ s.vfs := State.mem_vfs.2 ⟨by omega, by simpa using h⟩
    simp [hv] at this
  have hlt : ∀ i ∈ (List.range n).map (· + 1), i < s.fns.length := by
    simp only [List.mem_map, List.mem_range, hl]
    rintro _ ⟨j, hj, rfl⟩
    omega
  rw [State.vfs_eq, List.filter_map]
  refine congrArg _ ?_
  calc (List.range 64).filter _
      = (List.range 64).filter fun i => i < n := List.filter_congr fun i hi => by
        simp [State.foldl_create _ _ _ hlt, hp i (List.mem_range.1 hi)]
    _ = List.range n := by
        obtain ⟨k, hk⟩ := Nat.exists_eq_add_of_le hn
        rw [hk, List.range_add, List.filter_append, List.filter_eq_self.2 (by simp), List.filter_eq_nil_iff.2 (by simp),
          List.append_nil]

/-- The reset of a function that is present, with what the PF's reset adds (R157, R432). -/
theorem execFlr_effect {s : State} {fn : Nat} (hl : s.boot.link = .up) (hc : s.boot.cut = false)
    (hp : (s.fn fn).present = true) :
    ∃ t, execFlr fn s = .next t ∧ t.fn fn = { FnState.atReset true with inFlr := true, cfg := (s.fn fn).cfg.afterFlr }
      ∧ (∀ j, j ∈ t.jobs → ¬ (j.q.hasRing = true ∧ j.fn = fn))
      ∧ (∀ q, q ∈ t.queues → ¬ (q.ref.hasRing = true ∧ q.ref.fn = fn))
      ∧ (fn = 0 → t.dru.owner = .none ∧ t.vfs = []) := by
  have hg : ¬ (s.boot.link ≠ .up ∨ s.boot.cut = true ∨ (s.fn fn).present = false) := by simp [hl, hc, hp]
  obtain ⟨hf, -, hj, hq⟩ := s.flrOne_effect fn
  have hfn : (s.flrOne fn).fn fn = { FnState.atReset true with inFlr := true, cfg := (s.fn fn).cfg.afterFlr } := by
    rw [State.fn_congr hf, State.fn_mapFn_same (State.lt_of_present hp), FnState.flrStarted, hp]
  by_cases h0 : fn = 0
  · subst h0
    obtain ⟨hr, hk⟩ := (s.flrOne 0).clearVfs_effect
    have h0 : 0 ∉ (s.flrOne 0).vfs := fun h => by simpa using (State.mem_vfs.1 h).1
    have hget {fld : Field} (hm : fld ∉ ([.dru, .store, .upd] : List Field)) :
        s.flrPf.get fld = (s.flrOne 0).clearVfs.get fld := by
      simp only [List.mem_cons, List.not_mem_nil, or_false, not_or] at hm
      simp [State.flrPf, hm]
    have htf : s.flrPf.fns = (s.flrOne 0).clearVfs.fns := hget (fld := .fns) (by simp)
    have htj : s.flrPf.jobs = (s.flrOne 0).clearVfs.jobs := hget (fld := .jobs) (by simp)
    have htq : s.flrPf.queues = (s.flrOne 0).clearVfs.queues := hget (fld := .queues) (by simp)
    have htd : s.flrPf.dru = _ := State.dropHostUpdate_get _ (fld := .dru) (by simp)
    refine ⟨s.flrPf, congrArg Host.Outcome.next ((if_neg hg).trans (if_pos rfl)), ?_, fun j h => ?_, fun q h => ?_,
      fun _ => ⟨?_, ?_⟩⟩
    · rw [State.fn_congr htf, hk, if_neg h0, hfn]
    · obtain ⟨y, hy, -, he⟩ := hr.jobs j (htj ▸ h)
      have := hj y hy
      rwa [Job.fn, he] at this
    · exact hq q (hr.queues q (htq ▸ h))
    · rw [htd]
      rfl
    · rw [State.vfs_congr htf, State.clearVfs_vfs]
  · exact ⟨s.flrOne fn, congrArg Host.Outcome.next ((if_neg hg).trans (if_neg h0)), hfn, hj, hq, fun h => absurd h h0⟩

end Sys2Proof.Machine

open Sys2Proof Sys2Proof.Machine

/-- Settles O22: each row by its own case. -/
theorem resetsComplete : Obligations.ResetsComplete := by
  intro s fn n
  refine ⟨fun hp => ?_, ⟨_, rfl, rfl⟩, fun hl hc => ⟨fun hf => execFlr_effect hl hc hf, fun hr hn hv hs => ?_, ?_⟩,
    fun hf => ⟨_, rfl, State.fn_mapFn_same hf _⟩, ⟨_, rfl, rfl⟩⟩
  · have hp' : ¬ s.boot.perstHigh = false := by simp [hp]
    cases hr : s.cdRunning with
    | false =>
      have hd : s.PerstDone s.perstLink := State.perstLink_done rfl rfl
      refine ⟨s.perstLink, congrArg Host.Outcome.next ((if_neg hp').trans (if_pos (by simp [hr]))), hd.perst, hd.link,
        hd.floor, hd.fns, hd.raw, hd.tamper, nofun, nofun, nofun, fun _ => ?_⟩
      rw [State.perstLink_boot]
    | true =>
      have hr' : ¬ (!s.cdRunning) = true := by simp [hr]
      cases hk : s.boot.lockdown with
      | false =>
        obtain ⟨hd, he, hst, hg, ho⟩ := s.perstWarm_effect
        exact ⟨s.perstWarm, congrArg Host.Outcome.next ((if_neg hp').trans ((if_neg hr').trans (if_neg (by simp [hk])))),
          hd.perst, hd.link, hd.floor, hd.fns, hd.raw, hd.tamper, fun _ => he, nofun, fun _ _ => ⟨hst, hg, ho⟩, nofun⟩
      | true =>
        obtain ⟨hd, he, ht⟩ := s.perstLocked_effect
        exact ⟨s.perstLocked, congrArg Host.Outcome.next ((if_neg hp').trans ((if_neg hr').trans (if_pos hk))),
          hd.perst, hd.link, hd.floor, hd.fns, hd.raw, hd.tamper, fun _ => he, fun _ _ => ht, nofun, nofun⟩
  · have hn' : n ≤ 64 := hn.trans (by unfold State.totalVfs; split <;> simp)
    exact ⟨_, congrArg Host.Outcome.next (if_neg (by simp [hl, hc, hr, hv, hn])), State.vfs_create hn' hv hs⟩
  · exact ⟨s.clearVfs, congrArg Host.Outcome.next (if_neg (by simp [hl, hc])), s.clearVfs_vfs⟩
end

section
/-!
What can lift a hold (R91): every operation but DOMAIN_RELEASE leaves a domain that is not RELEASED so, and a PLT_HOLD_N ball
that is low so. One lemma for each operation that may change the guard; the others keep it whole (`_get`).
-/
namespace Sys2Proof.Machine
open Sys2Proof

/-- `t` lifts no hold of `s`: what is RELEASED in `t` is so in `s`, and a ball that is high in `t` is so in `s`. -/
structure State.Holds (s t : State) : Prop where
  dom : ∀ d, (t.dom d).state = .released → (s.dom d).state = .released
  pin : ∀ d, t.guard.holdPins.getLsbD d = true → s.guard.holdPins.getLsbD d = true

theorem State.Holds.refl (s : State) : s.Holds s := ⟨fun _ h => h, fun _ h => h⟩

theorem State.Holds.trans {r s t : State} (h : r.Holds s) (k : s.Holds t) : r.Holds t :=
  ⟨fun d e => h.dom d (k.dom d e), fun d e => h.pin d (k.pin d e)⟩

theorem getD_modify {α : Type} (l : List α) (d k : Nat) (f : α → α) (x : α) :
    (l.modify d f).getD k x = if k = d ∧ k < l.length then f (l.getD k x) else l.getD k x := by
  simp only [List.getD_eq_getElem?_getD, List.getElem?_modify]
  by_cases hk : k < l.length
  · by_cases hd : d = k
    · subst hd; simp [hk]
    · simp [hk, hd, Ne.symm hd]
  · simp [hk]

/-- The domains after a change of one. -/
theorem State.dom_setDom (s : State) (d k : Nat) (f : Domain → Domain) :
    (s.setDom d f).dom k = if k = d ∧ k < s.guard.domains.length then f (s.dom k) else s.dom k :=
  getD_modify s.guard.domains d k f .atReset

theorem State.dom_congr {s t : State} (h : t.guard.domains = s.guard.domains) (d : Nat) : t.dom d = s.dom d := by
  rw [State.dom, State.dom, h]

section
variable {r s t : State}

/-- A state whose guard has the same domains and balls lifts nothing either. -/
theorem State.Holds.of_eq (h : r.Holds s) (hd : t.guard.domains = s.guard.domains) (hp : t.guard.holdPins = s.guard.holdPins) :
    r.Holds t :=
  ⟨fun d e => h.dom d (State.dom_congr hd d ▸ e), fun d e => h.pin d (hp ▸ e)⟩

/-- Nor does an operation outside the guard. -/
theorem State.Holds.keep (h : r.Holds s) (e : t.get .guard = s.get .guard) : r.Holds t :=
  have e : t.guard = s.guard := e
  h.of_eq (by rw [e]) (by rw [e])

theorem State.Holds.ite {c : Prop} {_ : Decidable c} (h : r.Holds s) (k : r.Holds t) : r.Holds (if c then s else t) := by
  split <;> assumption

theorem State.Holds.foldl {α : Type} (h : r.Holds s) (l : List α) {f : State → α → State}
    (hf : ∀ (s : State) a, s.Holds (f s a)) : r.Holds (l.foldl f s) := by
  induction l generalizing s with
  | nil => exact h
  | cons a l ih => exact ih (h.trans (hf s a))

/-! ### The guard's own operations -/

/-- A domain is changed, and not to RELEASED. -/
theorem State.Holds.setDom (h : r.Holds s) (d : Nat) {f : Domain → Domain}
    (hf : ∀ x, (f x).state = .released → x.state = .released) : r.Holds (s.setDom d f) where
  dom k e := by
    refine h.dom k ?_
    rw [State.dom_setDom] at e
    split at e
    · exact hf _ e
    · exact e
  pin := h.pin

theorem State.Holds.logEvent (h : r.Holds s) (c : BitVec 16) (d : Nat) : r.Holds (s.logEvent c d) := h.keep (by simp)

theorem State.Holds.emitAll (h : r.Holds s) (l : List Out) : r.Holds (s.emitAll l) := h.keep (by simp)

theorem State.Holds.mapGuard (h : r.Holds s) {f : Guard → Guard} (hd : (f s.guard).domains = s.guard.domains)
    (hp : (f s.guard).holdPins = s.guard.holdPins) : r.Holds (s.mapGuard f) := h.of_eq hd hp

theorem State.Holds.mapSport (h : r.Holds s) (p : Port) (f : SievePort → SievePort) : r.Holds (s.mapSport p f) := by
  cases p <;> exact h.of_eq rfl rfl

theorem State.Holds.setSieve (h : r.Holds s) (b : Nat) : r.Holds (s.setSieve b) := by
  have h1 : r.Holds (s.countEvt 1 b) := h.keep rfl
  unfold State.setSieve
  exact h1.ite (.keep (h1.mapGuard rfl rfl) (State.deviceEvent_get _ (by simp)))

theorem State.Holds.guardly (h : r.Holds s) {f : State → State} (hf : ∀ s : State, s.Holds (f s)) : r.Holds (s.guardly f) :=
  have h1 := h.trans (hf s)
  (h1.keep (by simp)).ite h1

/-- A ball is driven low. -/
theorem State.Holds.pinLow (h : r.Holds s) (d : Nat) : r.Holds (s.pin d false) := by
  refine h.ite ⟨h.dom, fun k e => h.pin k ?_⟩
  have e : (s.guard.holdPins &&& ~~~ (1#8 <<< d)).getLsbD k = true := e
  rw [BitVec.getLsbD_and, Bool.and_eq_true] at e
  exact e.1

theorem State.Holds.pinsLow (h : r.Holds s) : r.Holds ((List.range 8).foldl (fun s d => s.pin d false) s) :=
  h.foldl _ fun s d => (Holds.refl s).pinLow d

theorem State.waitState_ne (s : State) (d : Nat) : s.waitState d ≠ .released := by
  unfold State.waitState
  repeat' split
  all_goals simp

theorem State.Holds.settle (h : r.Holds s) : r.Holds s.settle :=
  h.foldl _ fun s d => ((Holds.refl s).setDom d fun _ e => absurd e (s.waitState_ne d)).ite (.refl s)

theorem State.Holds.dropDeps (n : Nat) (h : r.Holds s) : r.Holds (s.dropDeps n) := by
  induction n generalizing s with
  | zero => exact h
  | succ n ih => exact ih (h.foldl _ fun s d => .ite (.pinLow (.setDom (.refl s) d (by simp)) d) (.refl s))

theorem State.Holds.hold (h : r.Holds s) (d : Nat) {x : DomState} (hx : x ≠ .released) : r.Holds (s.hold d x) :=
  (((h.setDom d fun _ e => absurd e hx).pinLow d).dropDeps 8).settle

theorem State.Holds.holdAll (h : r.Holds s) : r.Holds s.holdAll :=
  .settle (h.foldl _ fun s d => .ite (.pinLow (.setDom (.refl s) d (by simp)) d) (.refl s))

theorem State.Holds.guardJobDone (h : r.Holds s) (d : Nat) : r.Holds (s.guardJobDone d) := by
  have h1 : r.Holds (s.setDom d fun x => { x with job := none }) := h.setDom d fun _ e => e
  unfold State.guardJobDone
  split
  · split
    · exact h1.keep (State.finish_get _ _ _ _ _ _ (by simp))
    · exact h1
  · exact h

theorem State.Holds.failDom (h : r.Holds s) (d code region : Nat) : r.Holds (s.failDom d code region) := by
  have h1 := ((h.setDom d (f := fun x => { x with failCode := code, failRegion := region, useRecovery := false })
    fun _ e => e).hold d (x := .failedHeld) (by simp)).logEvent 0x0202 (code * 2 ^ 16 + region * 2 ^ 8 + d)
  unfold State.failDom
  exact .guardJobDone (.ite (h1.setSieve 8) h1) d

theorem State.Holds.holdForWrite (h : r.Holds s) (c : Chip) : r.Holds (s.holdForWrite c) :=
  h.foldl _ fun s d => .ite (.hold (.refl s) d (by simp)) (.refl s)

theorem State.Holds.forgetCache (h : r.Holds s) (c : Chip) (base n : Nat) : r.Holds (s.forgetCache c base n) := h.of_eq rfl rfl

theorem State.Holds.forgetBlocks (h : r.Holds s) (c : Chip) (base n : Nat) : r.Holds (s.forgetBlocks c base n) := h.of_eq rfl rfl

theorem State.Holds.putLeaves (h : r.Holds s) (c : Chip) (base : Nat) (l : List Bytes) : r.Holds (s.putLeaves c base l) :=
  h.of_eq rfl rfl

theorem State.Holds.putMirror (h : r.Holds s) (x : Region) (blocks : List Bytes) : r.Holds (s.putMirror x blocks) :=
  h.ite (h.mapGuard rfl rfl)

theorem State.Holds.setRegion (h : r.Holds s) (d k : Nat) (f : Region → Region) : r.Holds (s.setRegion d k f) :=
  h.setDom d fun _ e => e

theorem State.Holds.noteRecovered (h : r.Holds s) (d k : Nat) : r.Holds (s.noteRecovered d k) := by
  unfold State.noteRecovered
  exact .logEvent (.setSieve (.setDom h d (by simp)) 7) _ _

theorem State.Holds.remapRegion (h : r.Holds s) (d k : Nat) (x : Region) (image : List Bytes) :
    r.Holds (s.remapRegion d k x image) :=
  .ite (h.failDom d 7 k) (.ite (h.failDom d 9 k)
    (.noteRecovered (.setRegion (.putMirror (.putLeaves (h.forgetBlocks _ _ _) _ _ _) _ _) d k _) d k))

theorem State.Holds.rewriteRegion (h : r.Holds s) (d k : Nat) (x : Region) (image : List Bytes) :
    r.Holds (s.rewriteRegion d k x image) :=
  .ite (h.failDom d 7 k) (.setRegion (.emitAll (.forgetBlocks (h.holdForWrite x.chip) _ _ _) _) d k _)

theorem State.Holds.recoverRegion (h : r.Holds s) (d k : Nat) (x : Region) (image : List Bytes) (remap : Bool) :
    r.Holds (s.recoverRegion d k x image remap) :=
  have h1 := h.hold d (x := .recovering) (by simp)
  .ite (h1.remapRegion d k x image) (h1.rewriteRegion d k x image)

theorem State.Holds.takeRegion (h : r.Holds s) (d k : Nat) (x : Region) (blocks recovery : List Bytes) (onRec : Bool) :
    r.Holds (s.takeRegion d k x blocks recovery onRec) :=
  have h1 := (h.forgetCache x.chip x.base x.count).putLeaves x.chip x.base (runLeaves x.regionId blocks)
  .ite (h.failDom d 7 k) (.setRegion (.putMirror (.ite (h1.putLeaves x.chip x.recBase _) h1) x _) d k _)

theorem State.Holds.checkRegion (h : r.Holds s) (d k : Nat) (x : Region) (blocks recovery : List Bytes) :
    r.Holds (s.checkRegion d k x blocks recovery) :=
  have taken (b : Bool) := h.takeRegion d k x blocks recovery b
  .ite (.ite ((taken true).noteRecovered d k) (h.failDom d 7 k))
    (.ite (taken false) (.ite (.setDom (taken true) d fun _ e => e)
      (.ite (h.failDom d 6 k) (h.recoverRegion d k x recovery false))))

theorem State.Holds.acceptManifest (h : r.Holds s) (d : Nat) (b : Bytes) : r.Holds (s.acceptManifest d b) := by
  have h1 := (h.foldl (s.dom d).regions (f := fun s x => s.forgetBlocks x.chip x.base x.count)
    fun s x => (Holds.refl s).forgetBlocks _ _ _).setDom d (f := fun x =>
      { x with mfSvn := fieldAt b 8 4, svnUnchecked := s.boot.countersLost, mfDigest := Config.sha384 (manifestBytes b),
               regions := manifestRegions b }) fun _ e => e
  unfold State.acceptManifest
  exact .ite (h1.failDom d 8 _) h1

theorem State.Holds.failChip (h : r.Holds s) (c : Chip) : r.Holds (s.failChip c) :=
  h.foldl _ fun s d => .ite (.failDom (.refl s) d 8 _) (.refl s)

theorem State.Holds.clearCommit (h : r.Holds s) : r.Holds s.clearCommit := h.of_eq rfl rfl

theorem State.Holds.losePg (h : r.Holds s) (d : Nat) : r.Holds (s.losePg d) := .hold (h.setDom d (by simp)) d (by simp)

theorem State.Holds.retryDom (h : r.Holds s) (d : Nat) : r.Holds (s.retryDom d) :=
  h.setDom d fun x e => by
    split at e
    · cases e
    · exact e

theorem State.Holds.remapDomain (h : r.Holds s) (images : List (Nat × Nat × List Bytes)) (d : Nat) :
    r.Holds (s.remapDomain images d) := by
  refine (h.retryDom d).foldl _ fun s k => ?_
  split
  · exact .ite (.refl s) (.recoverRegion (.refl s) d k _ _ true)
  · exact .refl s

/-! ### Start, stop and resets -/

theorem State.Holds.startPort (h : r.Holds s) (p : Policy) (port : Port) : r.Holds (s.startPort p port) :=
  .ite ((h.mapSport port _).keep rfl) ((h.mapSport port _).keep rfl)

/-- Domains none of which is RELEASED take the place of all. -/
theorem State.Holds.of_held (h : r.Holds s) (hd : ∀ d, (t.dom d).state ≠ .released)
    (hp : t.guard.holdPins = s.guard.holdPins) : r.Holds t := ⟨fun d e => absurd e (hd d), fun d e => h.pin d (hp ▸ e)⟩

/-- A list of domains none of which is RELEASED. -/
theorem getD_held {l : List Domain} (h : ∀ x ∈ l, x.state ≠ .released) (d : Nat) :
    (l.getD d .atReset).state ≠ .released := by
  by_cases hd : d < l.length
  · rw [List.getD_eq_getElem _ _ hd]
    exact h _ (List.getElem_mem hd)
  · rw [List.getD_eq_default _ _ (not_lt.1 hd)]
    simp [Domain.atReset]

theorem atReset_held (x : Domain) (h : x ∈ List.replicate 8 Domain.atReset) : x.state ≠ .released := by
  rw [List.eq_of_mem_replicate h]
  simp [Domain.atReset]

theorem Domain.fresh_held (b : Bool) : (Domain.fresh b).state ≠ .released := by cases b <;> simp [Domain.fresh]

theorem State.Holds.guardStart (h : r.Holds s) : r.Holds s.guardStart := by
  have h1 := h.pinsLow
  unfold State.guardStart
  split
  · exact h1.of_held (getD_held atReset_held) rfl
  · refine .settle (.startPort (.startPort ?_ _ .a) _ .b)
    refine .of_held h1 (getD_held fun x hx => ?_) rfl
    obtain ⟨e, -, rfl⟩ := List.mem_map.1 hx
    exact Domain.fresh_held _

theorem State.Holds.guardReset (h : r.Holds s) : r.Holds s.guardReset := by
  have h1 : r.Holds ((s.stopPort .a).stopPort .b) := h.keep (by simp)
  exact h1.pinsLow.of_held (getD_held atReset_held) rfl

theorem State.Holds.forgetWaits (h : r.Holds s) : r.Holds s.forgetWaits := by
  refine ⟨fun d e => h.dom d ?_, h.pin⟩
  have e : ((s.guard.domains.map fun x : Domain => { x with job := x.job.filter fun n => (s.job? n).isSome }).getD d
    .atReset).state = .released := e
  by_cases hd : d < s.guard.domains.length
  · simpa [State.dom, hd] using e
  · simp [Domain.atReset, hd] at e

theorem State.Holds.endJobs (h : r.Holds s) (l : List Job) : r.Holds (s.endJobs l) :=
  .forgetWaits (h.keep (by simp))

theorem State.Holds.restartDie (h : r.Holds s) : r.Holds s.restartDie :=
  (h.endJobs s.jobs).keep ((State.mapBoot_get _ _ (by simp)).trans (State.clearDie_get _ (by simp)))

theorem State.Holds.setCode (h : r.Holds s) (c d : BitVec 16) : r.Holds (s.setCode c d) := h.keep (by simp)

/-! ### Tamper and lost words -/

theorem State.Holds.majorRun (h : r.Holds s) (code : BitVec 16) (cls detail : Nat) : r.Holds (s.majorRun code cls detail) := by
  unfold State.majorRun
  extract_lets pol cut jobs s1 s2 s3 s4 s5 s6 s7 s8 s9
  have h4 : r.Holds s4 := h.keep (by simp [s4, s3, s2, s1])
  have h5 : r.Holds s5 := .ite (h4.guardly fun s => (Holds.refl s).holdAll) h4
  have h7 : r.Holds s7 := h5.keep (by simp [s7, s6])
  have h8 : r.Holds s8 := .ite (.forgetWaits (h7.keep (by simp))) h7
  exact h8.keep (by simp [s9])

theorem State.Holds.majorEarly (h : r.Holds s) (code : BitVec 16) (cls detail : Nat) :
    r.Holds (s.majorEarly code cls detail) := by
  unfold State.majorEarly
  extract_lets s1 s2
  have h2 : r.Holds s2 := h.keep (by simp [s2, s1])
  exact .ite h2 (.setCode (.keep (.guardReset (h2.keep (State.clearDie_get _ (by simp)))) (by rfl)) _ _)

theorem State.Holds.majorTamper (h : r.Holds s) (code : BitVec 16) (cls detail : Nat) :
    r.Holds (s.majorTamper code cls detail) :=
  .ite (h.keep rfl) (.ite (h.majorEarly _ _ _) (h.majorRun _ _ _))

/-- Counting a fault event changes the fault state alone. -/
theorem State.Holds.faultEvent (h : r.Holds s) {c obj : Nat} {b : Bool} (e : s.faultEvent c obj = (t, b)) : r.Holds t :=
  h.keep (State.faultEvent_of e (by simp))

theorem State.Holds.unitFaultEvent (h : r.Holds s) (c : Nat × Nat × Nat) (n : Nat) : r.Holds (s.unitFaultEvent c n) := by
  unfold State.unitFaultEvent
  obtain ⟨cls, obj, unit⟩ := c
  dsimp only
  have h1 : r.Holds ((s.log 0x0703 1 cls unit (n % 65536)).setFlt 8) := h.keep (by simp)
  split <;> rename_i e
  · exact h1.faultEvent e
  · have h2 := h1.faultEvent e
    exact .ite (h2.majorTamper _ _ _) (h2.keep (by simp))

theorem State.Holds.loseWord (h : r.Holds s) (w : SramWord) : r.Holds (s.loseWord w) := by
  unfold State.loseWord
  split
  case h_6 n _ =>
    split
    · exact (h.setSieve 6).mapGuard rfl rfl
    · exact h
  all_goals exact h.keep rfl

theorem State.Holds.retire (h : r.Holds s) (w : SramWord) (cls : Nat) : r.Holds (s.retire w cls) := by
  unfold State.retire
  extract_lets u s1 s2
  have h2 : r.Holds s2 := h.keep (by simp [s2, s1])
  exact .ite (h.keep (by simp)) (.ite (h2.loseWord w) h2)

theorem State.Holds.sramUe (h : r.Holds s) (w : SramWord) : r.Holds (s.sramUe w) := by
  have h1 : r.Holds (s.faultEvent 5 0).1 := h.keep (by simp)
  exact (h1.retire w 5).keep (State.eccJob_get _ _ (by simp))

theorem State.Holds.noteIsland (h : r.Holds s) : r.Holds s.noteIsland := .ite h (.ite (h.majorTamper _ _ _) (h.logEvent _ _))

theorem State.Holds.minor (h : r.Holds s) (cls : Nat) : r.Holds (s.minor cls) := by
  unfold State.minor
  extract_lets hit drop t s1
  have h1 : r.Holds s1 := .ite h (h.keep (by simp [t]))
  split <;> rename_i e
  · exact h1.faultEvent e
  · exact (h1.faultEvent e).majorTamper _ _ _

theorem State.Holds.minorBegins (h : r.Holds s) (cls : Nat) : r.Holds (s.minorBegins cls) :=
  .ite (.minor (h.keep (by rfl)) cls) h

theorem State.Holds.dmaError (h : r.Holds s) (fn : Nat) (e : DmaErr) (addr : BitVec 64) : r.Holds (s.dmaError fn e addr) := by
  unfold State.dmaError
  split
  · exact .sramUe (h.keep (State.setFnDma_get _ _ _ _ (by simp))) _
  · exact h.keep (by simp)

theorem State.Holds.ringError (h : r.Holds s) (q : QRef) (e : DmaErr) (addr : BitVec 64) : r.Holds (s.ringError q e addr) :=
  (h.dmaError q.fn e addr).keep (State.malformed_get _ _ _ _ (by simp))

/-! ### Start-up, updates and host resets -/

theorem State.Holds.loadComponents (h : r.Holds s) : r.Holds s.loadComponents := h.of_eq rfl rfl

theorem State.Holds.keeperStart (h : r.Holds s) (mv : Nat) (straps : Straps) (chk : KeeperCheck) :
    r.Holds (s.keeperStart mv straps chk) := by
  unfold State.keeperStart
  exact .setCode (h.of_eq (by rfl) (by rfl)) _ _

theorem State.Holds.holdDie (h : r.Holds s) (c d : BitVec 16) : r.Holds (s.holdDie c d) := .setCode (h.guardReset.keep (by rfl)) c d

theorem State.Holds.romFault (h : r.Holds s) : r.Holds s.romFault := (h.holdDie _ _).keep rfl

theorem State.Holds.byLifeCycle (h : r.Holds s) : r.Holds s.byLifeCycle := by
  unfold State.byLifeCycle
  split
  · exact h.holdDie _ _
  · exact h.holdDie _ _
  · exact h.keep (by simp)

theorem State.Holds.judgeFuses (h : r.Holds s) (l : List Nat) (reads : Bool) : r.Holds (s.judgeFuses l reads) := by
  unfold State.judgeFuses
  split
  · exact h.holdDie _ _
  · exact .byLifeCycle (h.keep (by simp))

theorem State.Holds.finishSense (h : r.Holds s) : r.Holds s.finishSense := .judgeFuses (h.keep (by simp)) _ _

theorem State.Holds.restartHeld (h : r.Holds s) : r.Holds s.restartHeld := by
  unfold State.restartHeld
  exact .setCode (h.guardReset.restartDie.keep (by rfl)) _ _

theorem State.Holds.tripProgram (h : r.Holds s) (j : Job) (l : List (Nat × BitVec 32)) (bad : Option Nat) {go : State → State}
    (hg : ∀ s : State, s.Holds (go s)) : r.Holds (s.tripProgram j l bad go) := by
  have hb := State.burnSeq_get bad (tripWords l) s (fld := .guard) (by simp)
  unfold State.tripProgram
  split
  · exact h.keep (by simp)
  · split <;> rename_i e <;> rw [e] at hb
    · exact h.keep ((State.fuseFail_get _ _ _ _ (by simp)).trans hb)
    · exact (h.keep hb).trans (hg _)

theorem State.Holds.transition (h : r.Holds s) (j : Job) (tgt : LcState) (bad : Option Nat) : r.Holds (s.transition j tgt bad) :=
  h.tripProgram j _ bad fun s => .restartHeld ((Holds.refl s).keep (by simp))

theorem State.Holds.writeArea (h : r.Holds s) (p : Policy) (img : Bytes) : r.Holds (s.writeArea p img) :=
  (h.guardly fun s => (Holds.refl s).holdForWrite p.fwrChip).keep (by simp [State.writeArea])

theorem State.Holds.verifyImage (h : r.Holds s) (ok : Bool) : r.Holds (s.verifyImage ok).2.2 := by
  unfold State.verifyImage
  extract_lets img back good
  have hb : r.Holds back := h.keep rfl
  split
  · exact hb
  · simp only [apply_ite (fun x : Status × BitVec 64 × State => x.2.2)]
    refine .ite hb (.ite hb (.ite hb ?_))
    split
    · exact h.keep rfl
    · simp only [apply_ite (fun x : Status × BitVec 64 × State => x.2.2)]
      exact .ite ((h.writeArea _ _).keep rfl) ((h.writeArea _ _).keep rfl)

theorem State.Holds.beginStage5 (h : r.Holds s) : r.Holds s.beginStage5 := by
  unfold State.beginStage5
  extract_lets u hold jn s1
  have h1 : r.Holds s1 := h.keep rfl
  exact .ite (h1.guardly fun s => (Holds.refl s).holdAll) h1

theorem State.Holds.restartUpdate (h : r.Holds s) (hold : Bool) : r.Holds (s.restartUpdate hold) := by
  have h1 : r.Holds (if hold then s.guardReset else s) := h.guardReset.ite h
  unfold State.restartUpdate
  exact .setCode (h1.restartDie.keep (by rfl)) _ _

theorem State.Holds.endGuardJobs (h : r.Holds s) : r.Holds s.endGuardJobs :=
  h.foldl _ fun s d => (Holds.refl s).guardJobDone d

theorem State.Holds.restartGuard (h : r.Holds s) : r.Holds s.restartGuard :=
  .guardly h.endGuardJobs.guardReset.loadComponents fun s => (Holds.refl s).guardStart

theorem State.Holds.restartKeeper (h : r.Holds s) : r.Holds s.restartKeeper :=
  .keep (.guardReset ((h.endJobs s.jobs).keep (State.clearDie_get _ (by simp)))) rfl

theorem State.Holds.perstJobs (h : r.Holds s) : r.Holds s.perstJobs := (h.logEvent _ _).endJobs _

theorem State.Holds.perstWarm (h : r.Holds s) : r.Holds s.perstWarm := h.perstJobs.keep (by simp [State.perstWarm])

theorem State.Holds.perstLocked (h : r.Holds s) : r.Holds s.perstLocked := by
  have h1 : r.Holds (s.mapBoot fun b => { b with lockdown := false }) := h.keep rfl
  exact h1.guardReset.restartDie.keep (by simp [State.perstLocked])

theorem State.Holds.flrOne (h : r.Holds s) (fn : Nat) : r.Holds (s.flrOne fn) := by
  unfold State.flrOne
  extract_lets mine s1 owned s2
  have h1 : r.Holds s1 := (h.logEvent _ _).endJobs mine
  exact h1.keep (by simp [s2])

theorem State.Holds.clearVfs (h : r.Holds s) : r.Holds s.clearVfs :=
  h.foldl _ fun s i => ((Holds.refl s).flrOne i).keep rfl

theorem State.Holds.flrPf (h : r.Holds s) : r.Holds s.flrPf :=
  (h.flrOne 0).clearVfs.keep (by simp [State.flrPf])

theorem State.Holds.writeFlags (h : r.Holds s) (reg : Nat) (w : RegWrite) : r.Holds (s.writeFlags reg w) :=
  .ite (h.keep rfl) (.ite (h.keep rfl) (.ite (h.keep rfl) (.ite (h.guardly fun s => (Holds.refl s).mapGuard rfl rfl)
    (.ite h (h.keep (by simp))))))

theorem State.Holds.writePf (h : r.Holds s) (off size : Nat) (w : RegWrite) : r.Holds (s.writePf off size w) := by
  unfold State.writePf
  extract_lets reg fw
  have hf {t : State} (k : r.Holds t) : r.Holds (fw t) := k.ite h
  have ha : r.Holds (fw (s.setAccess 0)) := hf (h.keep (by simp))
  refine .ite ?_ (.ite (.ite (h.keep (by simp)) ha) (.ite (.ite (h.keep (by simp)) ha)
    (.ite (hf (h.keep (by simp))) (.ite (hf (h.keep (by simp))) (hf (h.writeFlags _ _))))))
  split
  · exact h.keep (by simp)
  · exact ha

theorem State.Holds.barWriteOp (h : r.Holds s) (fn off size : Nat) (v : BitVec 64) : r.Holds (s.barWriteOp fn off size v) := by
  unfold State.barWriteOp
  split
  · exact .ite (h.keep (by simp)) h
  · exact .ite (h.keep (by simp)) (.ite (.ite (h.keep (by simp)) h) (h.writePf _ _ _))

theorem State.Holds.runIntake (h : r.Holds s) (j : Job) (i : Intake) (a b : List FragEntry) (e : DmaErr) :
    r.Holds (s.runIntake j i a b e) := by
  unfold State.runIntake
  refine .ite (h.keep (by simp)) ?_
  split
  · exact h.keep (by simp)
  · have h1 : r.Holds (s.dropStream j) := h.keep (by simp)
    exact (h1.dmaError _ _ _).keep (State.fail_get _ _ _ _ (by simp))
  · exact h.keep (by simp)

end

section
variable {r s t : State}
/-! ### Commits, guard commands and the Sieve -/

theorem State.Holds.writeCommit (h : r.Holds s) (d : Nat) (regs : List Region) (m : Bytes) (images : List (List Bytes))
    (w : Bool) : r.Holds (s.writeCommit d regs m images w) := by
  have put (u : State) (x : Region) (base : Nat) (b : List Bytes) :
      u.Holds ((u.forgetBlocks x.chip base x.count).emitAll (rewriteOut x.chip base b)) :=
    .emitAll (.forgetBlocks (.refl u) _ _ _) _
  have h1 : r.Holds (((s.pdom d).mfChip :: regs.map Region.chip).foldl State.holdForWrite s) :=
    h.foldl _ fun s c => (Holds.refl s).holdForWrite c
  have step (l : List Region) (base : Region → Nat) (g : Nat → List Bytes) (u : State) (k : Nat) :
      u.Holds (match l[k]? with
        | some x => (u.forgetBlocks x.chip (base x) x.count).emitAll (rewriteOut x.chip (base x) (g k))
        | none => u) := by
    split
    · exact put u _ _ _
    · exact .refl u
  have h2 := h1.foldl (List.range regs.length) (step regs Region.base fun k => images.getD k [])
  exact .emitAll (.ite (h2.foldl _ (step (recImages regs) Region.recBase fun k => images.getD (regs.length + k) [])) h2) _

theorem State.Holds.awaitManifest (h : r.Holds s) (d : Nat) {x : DomState} (hx : x ≠ .released) :
    r.Holds (s.awaitManifest d x) :=
  .hold (h.setDom d (by simp)) d hx

theorem State.Holds.commitFails (h : r.Holds s) (j : Job) (d code region : Nat) : r.Holds (s.commitFails j d code region) := by
  unfold State.commitFails
  extract_lets s1
  have h1 : r.Holds s1 := .setDom (h.mapGuard (by rfl) (by rfl)) d (by simp)
  exact h1.keep (by simp)

theorem State.Holds.runOp (h : r.Holds s) (id : Nat) (op : Op) (inp : Bytes) {run : State → Job → State}
    (hr : ∀ (s : State) j, s.Holds (run s j)) : r.Holds (s.runOp id op inp run) := by
  rcases s.runOp_cases id op inp run with e | ⟨j, -, e⟩ <;> rw [e]
  · exact h
  · exact h.trans (hr s j)

theorem State.Holds.guardCmd (h : r.Holds s) (id : Nat) (op : Op) {run : State → Job → State}
    (hr : ∀ (s : State) j, s.Holds (run s j)) : r.Holds (s.guardCmd id op run) := by
  unfold State.guardCmd State.runCmd
  refine h.runOp id op [] fun s j => ?_
  split
  · exact (Holds.refl s).keep (by simp)
  · exact (Holds.refl s).guardly fun s => hr s j

theorem State.Holds.issueProgram (h : r.Holds s) (p : Port) : r.Holds (s.issueProgram p) := by
  unfold State.issueProgram
  split
  · exact (h.mapSport p _).keep (by rfl)
  · exact h

theorem State.Holds.idleStep (h : r.Holds s) : r.Holds s.idleStep :=
  ((h.keep (State.idleTick_get _ (by simp))).issueProgram .a).issueProgram .b

theorem State.Holds.spi (h : r.Holds s) (c : SpiCmd) (cls : Nat) {act : State → AllowEntry → State}
    (ha : ∀ (s : State) e, s.Holds (act s e)) : r.Holds (s.spi c cls act) := by
  unfold State.spi
  split
  · exact .ite ((h.issueProgram _).trans (ha _ _)) h
  · exact h

theorem State.Holds.buffer (h : r.Holds s) (c : Chip) (b : Nat) (data : Bytes) : r.Holds (s.buffer c b data) := h.mapSport _ _

theorem State.Holds.mismatch (h : r.Holds s) (c : Chip) (b code d k : Nat) (x : Region) :
    r.Holds (s.mismatch c b code d k x) := by
  unfold State.mismatch
  extract_lets s1 s2
  have h1 : r.Holds s1 := (h.setSieve 0).mapGuard rfl rfl
  have h2 : r.Holds s2 := h1.logEvent _ _
  exact .ite (h2.failDom d code k) (.hold (h2.setRegion d k _) d (by simp))

theorem State.Holds.streamCheck (h : r.Holds s) (c : Chip) (b lo hi d k : Nat) (x : Region) (phys : Nat) (data : Bytes) :
    r.Holds (s.streamCheck c b lo hi d k x phys data).1 := by
  unfold State.streamCheck
  simp only [apply_ite (fun x : State × Bytes × Bool => x.1)]
  exact .ite (h.setSieve 5) (.ite (h.setSieve 4) (.ite (h.mapSport _ _) (.ite (h.buffer _ _ _)
    (.mismatch (h.keep (by rfl)) _ _ _ _ _ _))))

theorem State.Holds.denyRead (h : r.Holds s) (p : Port) : r.Holds (s.denyRead p) := .setSieve (.ite (h.setSieve 5) h) 1

theorem State.Holds.serveChecked (h : r.Holds s) (c : Chip) (b lo hi : Nat) (remap : Bool) (flash : List FlashBlock)
    (ecc : Option Nat) : r.Holds (s.serveChecked c b lo hi remap flash ecc).1 := by
  unfold State.serveChecked
  split
  · exact h.denyRead _
  · split
    · split
      · have h1 : r.Holds (s.draw.setSieve 6) := .setSieve (h.keep (by rfl)) 6
        exact h1.of_eq (by rfl) (by rfl)
      · exact h
    · split
      · exact h.buffer _ _ _
      · exact h.streamCheck _ _ _ _ _ _ _ _ _

theorem State.Holds.serveBlock (h : r.Holds s) (c : Chip) (b lo hi : Nat) (flash : List FlashBlock) (ecc : Option Nat) :
    r.Holds (s.serveBlock c b lo hi flash ecc).1 := by
  unfold State.serveBlock
  split
  · exact h.denyRead _
  · exact h.serveChecked _ _ _ _ _ _ _
  · exact h.serveChecked _ _ _ _ _ _ _
  · split
    · exact h.setSieve 5
    · exact h

theorem State.Holds.serveRun (c : Chip) (flash : List FlashBlock) (ecc : Option Nat) (start stop n b : Nat) {v : Serving}
    (h : r.Holds v.st) : r.Holds (serveRun c flash ecc start stop n b v).st := by
  induction n generalizing b v with
  | zero => exact h
  | succ n ih =>
    simp only [Machine.serveRun]
    split
    · exact ih _ h
    · exact ih _ (h.serveBlock _ _ _ _ _ _)

theorem State.Holds.refuseWrite (h : r.Holds s) (c : SpiCmd) : r.Holds (s.refuseWrite c) := .setSieve (h.keep (by rfl)) 3

theorem State.Holds.hostReset (h : r.Holds s) (p : Port) : r.Holds (s.hostReset p) := by
  unfold State.hostReset
  split
  · exact h.mapSport _ _
  · exact h

theorem State.Holds.begin (h : r.Holds s) (code : Nat) {run : State → State} (hr : ∀ s : State, s.Holds (run s)) :
    r.Holds (s.begin code run) := (h.keep (by rfl)).trans (hr _)

theorem State.Holds.pldm (h : r.Holds s) (ch : Channel) (cmd : Nat) {run : State → State}
    (hr : ∀ s : State, s.Holds (run s)) : r.Holds (s.pldm ch cmd run) :=
  .ite h (.ite (h.trans (hr s)) (h.keep (by simp)))

theorem State.Holds.onBar (h : r.Holds s) (fn : Nat) {act : State → State} (ha : ∀ s : State, s.Holds (act s)) :
    r.Holds (s.onBar fn act) :=
  .ite h (.ite (h.keep (by simp)) (.ite h (h.trans (ha s))))

end

/-! ### The rows that may change the guard -/

/-- The outcome is a next state that lifts no hold of `s`. -/
def State.lowers (s : State) (o : Host.Outcome State Fault Refusal) : Prop := ∃ t, o = .next t ∧ s.Holds t

theorem State.Holds.lowers {s t : State} (h : s.Holds t) : s.lowers (.next t) := ⟨t, rfl, h⟩

theorem State.lowers_ite {s : State} {c : Prop} {_ : Decidable c} {a b : Host.Outcome State Fault Refusal} (ha : s.lowers a)
    (hb : s.lowers b) : s.lowers (if c then a else b) := by
  split <;> assumption

/-- A row that keeps the guard lifts nothing. -/
theorem State.keeps.lowers {s : State} {o : Host.Outcome State Fault Refusal} (h : s.keeps .guard o) : s.lowers o := by
  obtain ⟨t, e, hg⟩ := h
  exact ⟨t, e, .keep (.refl s) hg⟩

section
variable (s : State)

theorem execVinRestored_lowers (mv : Nat) (straps : Straps) (chk : KeeperCheck) : s.lowers (execVinRestored mv straps chk s) := by
  have h1 : s.Holds (s.keeperStart mv straps chk) := .keeperStart (.refl s) _ _ _
  exact State.lowers_ite (State.Holds.lowers (.refl s))
    (State.Holds.lowers (.noteIsland (h1.keep (by simp))))

theorem execUndervoltage_lowers : s.lowers (execUndervoltage s) := by
  by_cases hv : s.power.vinValid = true
  · rw [execUndervoltage_valid hv]
    have h1 : s.Holds s.loseVin :=
      .keep (.guardReset (.keep (.refl s) (State.clearDie_get s (by simp)))) (by simp [State.loseVin])
    exact State.Holds.lowers (.ite (h1.setCode _ _) h1)
  · simp only [execUndervoltage, hv]
    exact State.Holds.lowers (.refl s)

theorem execRailFault_lowers (rail : BitVec 16) : s.lowers (execRailFault rail s) :=
  State.Holds.lowers (.ite (.holdDie (.refl s) _ _) (.refl s))

theorem execFusesSensed_lowers (m : List MarginRead) : s.lowers (execFusesSensed m s) := by
  unfold execFusesSensed
  extract_lets s1 s2
  have h2 : s.Holds s2 := .keep (.refl s) (by simp [s2, s1])
  refine State.lowers_ite (State.Holds.lowers (.refl s)) (State.Holds.lowers ?_)
  split
  · exact h2.keep (by simp)
  · exact .finishSense (h2.keep (by simp))
  · exact h2.finishSense

theorem execLcRollForward_lowers : s.lowers (execLcRollForward s) := by
  refine State.Holds.lowers (.ite (.refl s) ?_)
  split
  · exact .finishSense (.keep (.refl s) (by simp))
  · exact .refl s

theorem execBundleVerify_lowers (low ok : Bool) : s.lowers (execBundleVerify low s ok) := by
  unfold execBundleVerify
  extract_lets s1 m runs s2
  have h1 : s.Holds s1 := .keep (.refl s) (by simp [s1])
  have h2 : s.Holds s2 := .ite h1 h1.guardReset
  exact State.lowers_ite (State.Holds.lowers (.refl s)) (State.lowers_ite (State.Holds.lowers (.romFault (.refl s)))
    (State.Holds.lowers (h2.keep (by simp))))

theorem execFwStart_lowers (kat : Bool) (v : Nat) : s.lowers (execFwStart kat v s) := by
  unfold execFwStart
  extract_lets s1 s2 s3 s4 s5 s6
  have h6 : s.Holds s6 := .keep (.refl s) (by simp [s6, s5, s4, s3, s2, s1])
  exact State.lowers_ite (State.Holds.lowers (.refl s))
    (State.Holds.lowers (.ite (h6.keep rfl) (h6.loadComponents.guardly fun s => .guardStart (.refl s))))

theorem execLcTransition_lowers (j : Nat) (inp : Bytes) (bad : Option Nat) : s.lowers (execLcTransition j inp s bad) := by
  refine State.Holds.lowers (.ite (.runOp (.refl s) _ _ _ fun s j => .ite ?_ (.transition (.refl s) _ _ _)) (.refl s))
  have h1 : s.Holds (s.useNonce inp) := .keep (.refl s) (by simp)
  split
  · exact h1.keep (by simp)
  · exact h1.transition _ _ _

theorem execCounterReestablish_lowers (j : Nat) (inp : Bytes) : s.lowers (execCounterReestablish j inp s) := by
  refine State.Holds.lowers (.ite (.runOp (.refl s) _ _ _ fun s j => ?_) (.refl s))
  extract_lets keys e fresh s1
  have h1 : s.Holds s1 := .keep (.refl s) (by simp [s1])
  exact .ite (.keep (.refl s) (by simp)) (.ite (.keep (.refl s) (by simp))
    (.setCode (.restartKeeper (h1.keep (by simp))) _ _))

theorem execFlashResetWaitEnd_lowers (port : Port) (answers : List (Chip × Option Bytes)) :
    s.lowers (execFlashResetWaitEnd port answers s) := by
  refine State.Holds.lowers ?_
  split
  · exact .refl s
  · refine .ite (.refl s) (.guardly (.refl s) fun s => .foldl ?_ _ fun s c => .failChip (.refl s) c)
    exact .mapGuard (.mapSport (.emitAll (.emitAll (.refl s) _) _) _ _) (by rfl) (by rfl)

theorem execManifestReadDone_lowers (d : Nat) (bytes : Bytes) : s.lowers (execManifestReadDone d bytes s) := by
  refine State.Holds.lowers (.ite (.refl s) (.guardly (.refl s) fun s => ?_))
  extract_lets mine s1
  have h1 : s.Holds s1 := .ite (.clearCommit (.refl s)) (.refl s)
  split
  · refine .settle (.setDom (h1.acceptManifest d bytes) d fun x e => ?_)
    split at e
    · cases e
    · exact e
  · exact h1.failDom d _ _

theorem execRegionReadDone_lowers (d k : Nat) (blocks recovery : List Bytes) :
    s.lowers (execRegionReadDone d k blocks recovery s) := by
  refine State.Holds.lowers ?_
  split
  · exact .refl s
  · exact .ite (.refl s) (.guardly (.refl s) fun s => .ite (.recoverRegion (.refl s) _ _ _ _ _)
      (.ite (.remapRegion (.refl s) _ _ _ _) (.ite (.recoverRegion (.refl s) _ _ _ _ _) (.checkRegion (.refl s) _ _ _ _ _))))

theorem execBackgroundBurst_lowers (d k : Nat) (blocks recovery : List Bytes) :
    s.lowers (execBackgroundBurst d k blocks recovery s) := by
  refine State.Holds.lowers ?_
  split
  · exact .refl s
  · exact .ite (.refl s) (.guardly (.refl s) fun s => .ite (.putLeaves (.refl s) _ _ _)
      (.ite (.remapRegion (.refl s) _ _ _ _) (.checkRegion (.refl s) _ _ _ _ _)))

theorem execPltPgHigh_lowers (n : Nat) : s.lowers (execPltPgHigh n s) :=
  State.Holds.lowers (.settle (.mapGuard (.refl s) (by rfl) (by rfl)))

theorem execPltPgFall_lowers (n : Nat) : s.lowers (execPltPgFall n s) := by
  unfold execPltPgFall
  extract_lets s1 lost
  have h1 : s.Holds s1 := .mapGuard (.refl s) rfl rfl
  exact State.Holds.lowers (.settle (h1.foldl lost fun s d => .losePg (.refl s) d))

theorem execPltRecoverEdge_lowers (images : List (Nat × Nat × List Bytes)) : s.lowers (execPltRecoverEdge images s) :=
  State.Holds.lowers (.ite (.refl s) (.guardly (.refl s) fun s =>
    .settle (.foldl (.holdAll (.refl s)) _ fun s _ => .ite (.refl s) (.remapDomain (.refl s) _ _))))

theorem execGuardCommit_lowers (j : Nat) (m : Bytes) (images : List (List Bytes)) : s.lowers (execGuardCommit j m images s) := by
  refine State.Holds.lowers (.ite (.refl s) (.guardCmd (.refl s) _ _ fun s j => ?_))
  extract_lets d chip w base regs s1
  have h1 : s.Holds s1 := .mapGuard (.refl s) rfl rfl
  split
  · split
    · exact h1.commitFails _ _ _ _
    · next jnl s2 s3 _ _ _ _ =>
      have h2 : s.Holds s2 := .keep (h1.hold d (x := .committing) (by simp)) (by simp [s2])
      have h3 : s.Holds s3 := .awaitManifest (h2.writeCommit _ _ _ _ _) d (by simp)
      exact .keep (h3.setDom d (by simp)) (State.mapJob_get _ _ _ (by simp))
  · exact h1.commitFails _ _ _ _

theorem execGuardCommitResume_lowers (m : Bytes) (images : List (List Bytes)) : s.lowers (execGuardCommitResume m images s) := by
  refine State.Holds.lowers ?_
  split
  · exact .refl s
  · refine .ite (.refl s) (.guardly (.refl s) fun s => .ite ?_ (.setDom (.clearCommit (.refl s)) _ (by simp)))
    exact .logEvent (.awaitManifest (.writeCommit (.hold (.refl s) _ (by simp)) _ _ _ _ _) _ (by simp)) _ _

theorem execGuardHold_lowers (j : Nat) : s.lowers (execGuardHold j s) := by
  refine State.Holds.lowers (.guardCmd (.refl s) _ _ fun s j => ?_)
  extract_lets d s0 s1 s2
  have h0 : s.Holds s0 := .ite (.clearCommit (.refl s)) (.refl s)
  have h1 : s.Holds s1 := .logEvent (.hold (h0.setDom d (by simp)) d (by simp)) _ _
  exact (h1.guardJobDone d).keep (State.finish_get _ _ _ _ _ _ (by simp))

theorem execGuardReverify_lowers (j : Nat) : s.lowers (execGuardReverify j s) := by
  refine State.Holds.lowers (.guardCmd (.refl s) _ _ fun s j => ?_)
  extract_lets d s1 s2
  have h1 : s.Holds s1 := .foldl (.refl s) _ fun s x => .ite (.forgetBlocks (.refl s) _ _ _) (.forgetCache (.refl s) _ _ _)
  have h2 : s.Holds s2 := h1.setDom d (by simp)
  exact (h2.hold d (x := .verifying) (by simp)).keep (State.mapJob_get _ _ _ (by simp))

theorem execHopperDispatch_lowers (cls : UnitClass) (a b : List FragEntry) (e : DmaErr) :
    s.lowers (execHopperDispatch cls a b s e) := by
  refine State.Holds.lowers (.ite (.refl s) ?_)
  have hc : s.Holds ((s.noteChoice cls).choose cls).2 := .keep (.refl s) (by simp)
  dsimp only
  split
  · next e => rw [e] at hc; exact hc
  · next r s3 e =>
    rw [e] at hc
    split
    · exact hc.keep (by simp)
    · exact hc
    · next i _ _ =>
      have h4 : s.Holds ((s3.leaveIntake r i).noteAccept r i.entry i.aborted) := hc.keep (by simp)
      split
      · exact h4.runIntake _ _ _ _ _
      · exact h4

theorem execJobComplete_lowers (j : Nat) (fault : UnitFault) (ecc : Option SramWord) :
    s.lowers (execJobComplete j fault ecc s) := by
  refine State.Holds.lowers ?_
  split
  · exact .refl s
  · refine .ite (.refl s) ?_
    extract_lets j1 engine res s1 s2 s3
    have h1 : s.Holds s1 := .keep (.refl s) rfl
    have h2 : s.Holds s2 := .ite ((h1.unitFaultEvent _ _).keep rfl) h1
    have h3 : s.Holds s3 := by
      unfold s3
      split
      · exact .keep (.sramUe (h2.keep (State.setFnDma_get _ _ _ _ (by simp))) _) (State.dropStream_get _ _ (by simp))
      · exact h2
    split
    · exact h3
    · extract_lets j4
      split
      · exact h3
      · next s4 _ e _ =>
        have h4 : s.Holds s4 := h3.keep rfl
        exact .ite (h4.keep (by simp)) (h4.keep (by simp))

end

section
variable (s : State)

theorem execFirmwareDataResponse_lowers (ch : Channel) (offset : Nat) (data : Bytes) (ok : Bool) :
    s.lowers (execFirmwareDataResponse ch offset data ok s) := by
  refine State.Holds.lowers (.pldm (.refl s) _ _ fun s => .ite (.keep (.refl s) (by simp)) (.ite (.keep (.refl s) (by simp)) ?_))
  split
  · exact .keep (.refl s) (by simp)
  · next t e =>
    have ht : s.Holds t := .keep (.refl s) (State.stageBlock_get e (by simp))
    have hv : s.Holds ((t.pldmSend ch.binding 0x16 0 []).verifyImage ok).2.2 := .verifyImage (ht.keep (by simp)) ok
    refine .ite (ht.keep (by simp)) ?_
    generalize (t.pldmSend ch.binding 0x16 0 []).verifyImage ok = v at hv ⊢
    obtain ⟨c, x, v⟩ := v
    exact .ite (hv.keep (by simp)) (hv.keep (by simp))

theorem execPerstAssert_lowers : s.lowers (execPerstAssert s) :=
  State.Holds.lowers (.ite (.refl s) (.ite (.keep (.refl s) (by simp)) (.ite (.perstLocked (.refl s)) (.perstWarm (.refl s)))))

theorem execFlr_lowers (fn : Nat) : s.lowers (execFlr fn s) :=
  State.Holds.lowers (.ite (.refl s) (.ite (.flrPf (.refl s)) (.flrOne (.refl s) fn)))

theorem execVfEnableClear_lowers : s.lowers (execVfEnableClear s) :=
  State.Holds.lowers (.ite (.refl s) (.clearVfs (.refl s)))

theorem execDmaCompletion_lowers (tgt : DmaTarget) (err : Option DmaErr) (addr : BitVec 64) :
    s.lowers (execDmaCompletion tgt err addr s) := by
  refine State.Holds.lowers ?_
  have h (fn : Nat) (e : DmaErr) : s.Holds (s.dmaError fn e addr) := .dmaError (.refl s) _ _ _
  have ended {t : State} (k : s.Holds t) (j : Job) (c : Status) (n : Nat) : s.Holds (((t.dropStream j).draw).fail j c n) :=
    k.keep (by simp)
  split
  · exact .refl s
  · next e =>
    extract_lets ecc
    split
    · exact .ite (.ringError (.refl s) _ _ _) (.refl s)
    · split
      · exact .ite (.refl s) (ended (h _ _) _ _ _)
      · exact .refl s
    · split
      · exact .ite (.refl s) (ended (h _ _) _ _ _)
      · exact .refl s
    · split
      · next j _ => exact .ite (.refl s) ((h j.fn e).keep (by simp))
      · exact .refl s
    · next r => exact .ite ((h r.fn e).keep (by simp)) (.refl s)

theorem execIndexBlockRead_lowers (q : QRef) (tail : BitVec 32) (z : Bool) (err : Option DmaErr) :
    s.lowers (execIndexBlockRead q tail z err s) := by
  unfold execIndexBlockRead
  extract_lets x s1
  have h1 : s.Holds s1 := .keep (.refl s) (by simp [s1])
  refine State.Holds.lowers (.ite (.refl s) ?_)
  split
  · exact h1.ringError _ _ _
  · exact .ite (h1.keep (by simp)) (h1.keep (by simp))

theorem execSqFetch_lowers (q : QRef) (l : List Bytes) (err : Option DmaErr) : s.lowers (execSqFetch q l err s) := by
  unfold execSqFetch
  extract_lets x s1
  have h1 : s.Holds s1 := .keep (.refl s) (by simp [s1])
  refine State.Holds.lowers (.ite (.refl s) ?_)
  split
  · exact .ringError (.keep (.refl s) (by simp)) _ _ _
  · exact .ite (.refl s) (h1.ite (h1.keep (by simp)))

theorem execRegisterWrite_lowers (fn off size : Nat) (a : BarAccess) : s.lowers (execRegisterWrite fn off size a s) := by
  refine State.Holds.lowers (.ite (.refl s) (.onBar (.refl s) fn fun s => ?_))
  cases a with
  | write v => exact .barWriteOp (.refl s) _ _ _ _
  | read => exact .keep (.refl s) (by simp)

/-! #### Host SPI commands -/

theorem execHostRead_lowers (cmd : SpiCmd) (len : Nat) (flash : List FlashBlock) (ecc : Option Nat) :
    s.lowers (execHostRead cmd len flash ecc s) :=
  State.Holds.lowers (.ite (.refl s) (.guardly (.refl s) fun s => .spi (.refl s) _ _ fun s _ =>
    .keep (.serveRun _ _ _ _ _ _ _ (.refl s)) (State.emit_get _ _ (by simp))))

theorem execOwedBlockCheck_lowers (port : Port) (data : Bytes) : s.lowers (execOwedBlockCheck port data s) := by
  refine State.Holds.lowers ?_
  split
  · exact .refl s
  · refine .ite (.refl s) (.guardly (.refl s) fun s => ?_)
    extract_lets s1
    have h1 : s.Holds s1 := .mapSport (.refl s) _ _
    split
    · exact h1
    · exact .ite (h1.buffer _ _ _) (h1.mismatch _ _ _ _ _ _)

theorem execMirrorRefetchDone_lowers (c : Chip) (b : Nat) (data : Bytes) : s.lowers (execMirrorRefetchDone c b data s) := by
  refine State.Holds.lowers (.ite (.refl s) (.guardly (.refl s) fun s => ?_))
  extract_lets s1
  have h1 : s.Holds s1 := .mapGuard (.refl s) rfl rfl
  split
  · exact h1
  · exact .ite (h1.mapGuard rfl rfl) (h1.mismatch _ _ _ _ _ _)

theorem execHostProgram_lowers (cmd : SpiCmd) (data : Bytes) : s.lowers (execHostProgram cmd data s) :=
  State.Holds.lowers (.spi (.refl s) _ _ fun s _ => .ite (.mapSport (.refl s) _ _) (.refuseWrite (.refl s) cmd))

theorem execHostErase_lowers (cmd : SpiCmd) : s.lowers (execHostErase cmd s) :=
  State.Holds.lowers (.spi (.refl s) _ _ fun s _ => .ite (.keep (.refl s) (by simp)) (.refuseWrite (.refl s) cmd))

theorem execHostWriteEnable_lowers (cmd : SpiCmd) : s.lowers (execHostWriteEnable cmd s) :=
  State.Holds.lowers (.spi (.refl s) _ _ fun s _ => .keep (.refl s) (by simp))

theorem execHostStatusRead_lowers (cmd : SpiCmd) (b : BitVec 8) : s.lowers (execHostStatusRead cmd b s) :=
  State.Holds.lowers (.spi (.refl s) _ _ fun s _ => .keep (.refl s) (by simp))

theorem execHostIdRead_lowers (cmd : SpiCmd) (b : Bytes) : s.lowers (execHostIdRead cmd b s) :=
  State.Holds.lowers (.spi (.refl s) _ _ fun s _ => .keep (.refl s) (by simp))

theorem execHostSfdpRead_lowers (cmd : SpiCmd) (len : Nat) : s.lowers (execHostSfdpRead cmd len s) := by
  refine State.Holds.lowers (.spi (.refl s) _ _ fun s _ => ?_)
  split
  · exact .keep (.refl s) (by simp)
  · exact .refl s

theorem execHostSuspend_lowers (cmd : SpiCmd) : s.lowers (execHostSuspend cmd s) :=
  State.Holds.lowers (.spi (.refl s) _ _ fun s _ => .keep (.refl s) (by simp))

theorem execHostResetCmd_lowers (cmd : SpiCmd) : s.lowers (execHostResetCmd cmd s) :=
  State.Holds.lowers (.spi (.refl s) _ _ fun s _ => .hostReset (.refl s) _)

theorem execHostModeSwitch_lowers (cmd : SpiCmd) : s.lowers (execHostModeSwitch cmd s) :=
  State.Holds.lowers (.spi (.refl s) _ _ fun s _ => .mapSport (.refl s) _ _)

theorem execHostOpcodeDenied_lowers (cmd : SpiCmd) : s.lowers (execHostOpcodeDenied cmd s) :=
  State.Holds.lowers (.ite (.setSieve (.keep (.issueProgram (.refl s) _) (State.emit_get _ _ (by simp))) _) (.refl s))

theorem execHostResetPin_lowers (port : Port) : s.lowers (execHostResetPin port s) :=
  State.Holds.lowers (.ite (.hostReset (.refl s) port) (.refl s))

/-! #### Tamper and faults -/

theorem execLidMesh_lowers (nets : BitVec 4) : s.lowers (execLidMesh nets s) :=
  State.Holds.lowers (.ite (.begin (.refl s) _ fun s => .majorTamper (.refl s) _ _ _) (.refl s))

theorem execLoopMismatch_lowers (n : Nat) : s.lowers (execLoopMismatch n s) :=
  State.Holds.lowers (.ite (.begin (.refl s) _ fun s => .majorTamper (.refl s) _ _ _) (.refl s))

theorem execLockstep_lowers : s.lowers (execLockstep s) :=
  State.Holds.lowers (.ite (.majorTamper (.keep (.refl s) (by simp)) _ _ _) (.ite (.romFault (.refl s)) (.refl s)))

theorem execVoltageMinor_lowers : s.lowers (execVoltageMinor s) := State.Holds.lowers (.minorBegins (.refl s) _)

theorem execClockMinor_lowers : s.lowers (execClockMinor s) := State.Holds.lowers (.minorBegins (.refl s) _)

theorem execTempMinor_lowers (code : BitVec 8) : s.lowers (execTempMinor s code) :=
  State.Holds.lowers (.ite (.minorBegins (.refl s) _) (.refl s))

theorem execMinorPersist_lowers (cls : Nat) : s.lowers (execMinorPersist cls s) :=
  State.Holds.lowers (.ite (.minor (.refl s) _) (.refl s))

theorem execSramCorrected_lowers (w : SramWord) : s.lowers (execSramCorrected w s) := by
  refine State.Holds.lowers (.ite (.refl s) ?_)
  extract_lets s1
  have h1 : s.Holds s1 := .keep (.refl s) (by simp [s1])
  split <;> rename_i e
  · exact h1.faultEvent e
  · exact (h1.faultEvent e).retire _ _

theorem execSramUncorrectable_lowers (w : SramWord) : s.lowers (execSramUncorrectable w s) :=
  State.Holds.lowers (.ite (.sramUe (.refl s) w) (.refl s))

/-! #### Updates -/

theorem execUpdateVerify_lowers (j : Nat) (ok : Bool) : s.lowers (execUpdateVerify j ok s) := by
  refine State.Holds.lowers (.runOp (.refl s) _ _ _ fun s j => ?_)
  split
  · exact .keep (.refl s) (by simp)
  · exact .keep (.verifyImage (.refl s) ok) (State.finish_get _ _ _ _ _ _ (by simp))
  · exact .keep (.refl s) (by simp)

theorem execActivationStart_lowers : s.lowers (execActivationStart s) := by
  unfold execActivationStart
  extract_lets u s1
  have h1 : s.Holds s1 := .keep (.beginStage5 (.refl s)) (by simp [s1])
  refine State.Holds.lowers (.ite (.refl s) (.ite ?_ (.ite (.refl s) (.keep (.refl s) (by simp)))))
  split
  · exact h1.keep (by simp)
  · exact h1

theorem execActivationDrainExpired_lowers : s.lowers (execActivationDrainExpired s) := by
  refine State.Holds.lowers (.ite ?_ (.refl s))
  extract_lets s1 s2 s3
  have h2 : s.Holds s2 := .foldl (.keep (.refl s) (by simp [s1])) _ fun s _ => .keep (.refl s) (by simp)
  have h3 : s.Holds s3 := .keep (h2.endJobs s2.jobs) (by simp [s3])
  exact h3.keep (by simp)

theorem execActivationCopyDone_lowers : s.lowers (execActivationCopyDone s) := by
  refine State.Holds.lowers ?_
  split
  · exact .ite (.keep (.restartUpdate (.keep (.refl s) (by rfl)) _) (State.mapUpd_get _ _ (by simp))) (.refl s)
  · exact .refl s

theorem execPolicySwap_lowers : s.lowers (execPolicySwap s) :=
  State.Holds.lowers (.ite (.restartGuard (.keep (.guardly (.refl s) fun s => .holdAll (.refl s)) (by simp))) (.refl s))

theorem execRestore_lowers : s.lowers (execRestore s) := by
  have ha : s.Holds (s.guardly State.holdAll) := .guardly (.refl s) fun s => .holdAll (.refl s)
  refine State.Holds.lowers (.ite (.refl s) ?_)
  extract_lets hold
  split
  · have h1 : s.Holds (if hold then s.guardly State.holdAll else s) := ha.ite (.refl s)
    exact .restartUpdate (h1.keep (by simp)) _
  · next s1 _ _ => exact .keep (.refl s) (by simp [s1])
  · exact .restartGuard (ha.keep (by simp))

end

/-! ### Every row but DOMAIN_RELEASE -/

theorem guard_notMem_touches {i : Instr} (h : (touches i).contains .guard = false) : Field.guard ∉ touches i := by
  simpa using h

/-- The rows that may change the guard by their lemmas, the others because the guard is none of their components. -/
theorem exec_lowers (s : State) (i : Instr) (h : ∀ d, i ≠ .domainRelease d) : s.lowers (exec i s) := by
  cases i
  case domainRelease d => exact absurd rfl (h d)
  case vinRestored mv straps chk => exact execVinRestored_lowers s mv straps chk
  case undervoltage => exact execUndervoltage_lowers s
  case railFault rail => exact execRailFault_lowers s rail
  case fusesSensed m => exact execFusesSensed_lowers s m
  case lcRollForward => exact execLcRollForward_lowers s
  case bundleVerify low ok => exact execBundleVerify_lowers s low ok
  case fwStart kat v => exact execFwStart_lowers s kat v
  case lcTransition j inp bad => exact execLcTransition_lowers s j inp bad
  case counterReestablish j inp => exact execCounterReestablish_lowers s j inp
  case flashResetWaitEnd port answers => exact execFlashResetWaitEnd_lowers s port answers
  case manifestReadDone d bytes => exact execManifestReadDone_lowers s d bytes
  case regionReadDone d k blocks recovery => exact execRegionReadDone_lowers s d k blocks recovery
  case backgroundBurst d k blocks recovery => exact execBackgroundBurst_lowers s d k blocks recovery
  case pltPgHigh n => exact execPltPgHigh_lowers s n
  case pltPgFall n => exact execPltPgFall_lowers s n
  case pltRecoverEdge images => exact execPltRecoverEdge_lowers s images
  case guardCommit j m images => exact execGuardCommit_lowers s j m images
  case guardCommitResume m images => exact execGuardCommitResume_lowers s m images
  case guardHold j => exact execGuardHold_lowers s j
  case guardReverify j => exact execGuardReverify_lowers s j
  case hopperDispatch cls a b e => exact execHopperDispatch_lowers s cls a b e
  case jobComplete j fault ecc => exact execJobComplete_lowers s j fault ecc
  case firmwareDataResponse ch offset data ok => exact execFirmwareDataResponse_lowers s ch offset data ok
  case perstAssert => exact execPerstAssert_lowers s
  case flr fn => exact execFlr_lowers s fn
  case vfEnableClear => exact execVfEnableClear_lowers s
  case dmaCompletion tgt err addr => exact execDmaCompletion_lowers s tgt err addr
  case indexBlockRead q tail z err => exact execIndexBlockRead_lowers s q tail z err
  case sqFetch q l err => exact execSqFetch_lowers s q l err
  case registerWrite fn off size a => exact execRegisterWrite_lowers s fn off size a
  case hostRead cmd len flash ecc => exact execHostRead_lowers s cmd len flash ecc
  case owedBlockCheck port data => exact execOwedBlockCheck_lowers s port data
  case mirrorRefetchDone c b data => exact execMirrorRefetchDone_lowers s c b data
  case hostProgram cmd data => exact execHostProgram_lowers s cmd data
  case hostErase cmd => exact execHostErase_lowers s cmd
  case hostWriteEnable cmd => exact execHostWriteEnable_lowers s cmd
  case hostStatusRead cmd b => exact execHostStatusRead_lowers s cmd b
  case hostIdRead cmd b => exact execHostIdRead_lowers s cmd b
  case hostSfdpRead cmd len => exact execHostSfdpRead_lowers s cmd len
  case hostSuspend cmd => exact execHostSuspend_lowers s cmd
  case hostResetCmd cmd => exact execHostResetCmd_lowers s cmd
  case hostModeSwitch cmd => exact execHostModeSwitch_lowers s cmd
  case hostOpcodeDenied cmd => exact execHostOpcodeDenied_lowers s cmd
  case hostResetPin port => exact execHostResetPin_lowers s port
  case lidMesh nets => exact execLidMesh_lowers s nets
  case loopMismatch n => exact execLoopMismatch_lowers s n
  case lockstep => exact execLockstep_lowers s
  case voltageMinor => exact execVoltageMinor_lowers s
  case clockMinor => exact execClockMinor_lowers s
  case tempMinor code => exact execTempMinor_lowers s code
  case minorPersist cls => exact execMinorPersist_lowers s cls
  case sramCorrected w => exact execSramCorrected_lowers s w
  case sramUncorrectable w => exact execSramUncorrectable_lowers s w
  case updateVerify j ok => exact execUpdateVerify_lowers s j ok
  case activationStart => exact execActivationStart_lowers s
  case activationDrainExpired => exact execActivationDrainExpired_lowers s
  case activationCopyDone => exact execActivationCopyDone_lowers s
  case policySwap => exact execPolicySwap_lowers s
  case restore => exact execRestore_lowers s
  all_goals exact State.keeps.lowers (exec_keeps s _ (guard_notMem_touches rfl))

/-! ### DOMAIN_RELEASE -/

/-- What is RELEASED in `s` is so in `t`. -/
def State.KeepsReleased (s t : State) : Prop := ∀ d, (s.dom d).state = .released → (t.dom d).state = .released

theorem State.KeepsReleased.keep {r s t : State} (h : r.KeepsReleased s) (e : t.get .guard = s.get .guard) :
    r.KeepsReleased t := by
  have e : t.guard = s.guard := e
  exact fun d k => by rw [State.dom, e]; exact h d k

theorem State.KeepsReleased.setDom {r s : State} (h : r.KeepsReleased s) (d : Nat) {f : Domain → Domain}
    (hf : (s.dom d).state = .released → (f (s.dom d)).state = .released) : r.KeepsReleased (s.setDom d f) := by
  intro k e
  rw [State.dom_setDom]
  split
  · next hk => exact hk.1 ▸ hf (hk.1 ▸ h k e)
  · exact h k e

/-- Only a waiting domain takes its wait state anew. -/
theorem State.KeepsReleased.settle {r s : State} (h : r.KeepsReleased s) : r.KeepsReleased s.settle := by
  unfold State.settle
  refine List.foldlRecOn (motive := r.KeepsReleased) _ _ h fun t h d _ => ?_
  split
  · next hw => exact h.setDom d fun e => by rw [e] at hw; cases hw
  · exact h

theorem State.KeepsReleased.guardJobDone {r s : State} (h : r.KeepsReleased s) (d : Nat) :
    r.KeepsReleased (s.guardJobDone d) := by
  have h1 : r.KeepsReleased (s.setDom d fun x => { x with job := none }) := h.setDom d id
  unfold State.guardJobDone
  split
  · split
    · exact h1.keep (State.finish_get _ _ _ _ _ _ (by simp))
    · exact h1
  · exact h

/-- Only a domain of the list has a state to check. -/
theorem State.lt_of_checking {s : State} {d : Nat} (h : (s.dom d).state.checking = true) : d < s.guard.domains.length := by
  by_contra hd
  rw [State.dom, List.getD_eq_default _ _ (not_lt.1 hd)] at h
  cases h

theorem State.pin_high {s : State} {d k : Nat} (h : (s.pin d true).guard.holdPins.getLsbD k = true) :
    k = d ∨ s.guard.holdPins.getLsbD k = true := by
  unfold State.pin at h
  split at h
  · exact .inr h
  · have h : (s.guard.holdPins ||| 1#8 <<< d).getLsbD k = true := h
    rw [BitVec.getLsbD_or, Bool.or_eq_true] at h
    obtain h | h := h
    · exact .inr h
    · simp at h
      omega

/-- `t` lifts the hold of domain `d` and no other of `s`. -/
structure State.LiftsOne (s t : State) (d : Nat) : Prop where
  released : (t.dom d).state = .released
  dom : ∀ k, (t.dom k).state = .released → k = d ∨ (s.dom k).state = .released
  pin : ∀ k, t.guard.holdPins.getLsbD k = true → k = d ∨ s.guard.holdPins.getLsbD k = true

/-- A domain of the list is set to RELEASED and its ball to high; the rest of the row lifts nothing and keeps what is
RELEASED so. -/
theorem State.LiftsOne.of_lift {s t : State} {d : Nat} {f : Domain → Domain} (hd : d < s.guard.domains.length)
    (hf : (f (s.dom d)).state = .released) (hh : ((s.setDom d f).pin d true).Holds t)
    (hk : ((s.setDom d f).pin d true).KeepsReleased t) : s.LiftsOne t d := by
  have hdom (k : Nat) : ((s.setDom d f).pin d true).dom k = (s.setDom d f).dom k := by
    refine State.dom_congr ?_ k
    unfold State.pin
    split <;> rfl
  refine ⟨hk d ?_, fun k e => ?_, fun k e => State.pin_high (s := s.setDom d f) (hh.pin k e)⟩
  · rw [hdom, State.dom_setDom, if_pos ⟨rfl, hd⟩]
    exact hf
  · have e := hh.dom k e
    rw [hdom, State.dom_setDom] at e
    split at e
    · next hk => exact .inl hk.1
    · exact .inr e

/-- DOMAIN_RELEASE lifts no hold, or that of its domain when every condition of R88 holds. -/
theorem execDomainRelease_lifts {s t : State} {d : Nat} (h : execDomainRelease d s = .next t) :
    s.Holds t ∨ (s.LiftsOne t d ∧ (s.dom d).state.checking = true ∧ s.releasable d = true) := by
  unfold execDomainRelease at h
  split at h <;> cases h
  · exact .inl (.refl s)
  · next hc =>
    simp only [not_or, Bool.not_eq_false] at hc
    obtain ⟨-, hck, hr, -⟩ := hc
    have hk (u : State) : u.KeepsReleased (u.settle.guardJobDone d) := .guardJobDone (.settle fun _ => id) d
    refine .inr ⟨.of_lift (State.lt_of_checking hck) (f := fun x =>
      { x with state := .released, booted := true, failCode := 0, failRegion := 0xFF, useRecovery := false })
      ?_ ?_ ?_, hck, hr⟩
    · rfl
    · exact .ite (.keep (.guardJobDone (.settle (.refl _)) d) (by simp)) (.guardJobDone (.settle (.refl _)) d)
    · unfold State.guardly
      dsimp only
      split
      · exact (hk _).keep (by simp)
      · exact hk _

/-- A step that is not DOMAIN_RELEASE's lifts no hold. -/
theorem step_holds {s t : State} (h : step s = .next t) (hp : ∀ d l, s.pending ≠ .domainRelease d :: l) : s.Holds t := by
  unfold step at h
  split at h
  · cases h
    exact .idleStep (.refl s)
  · next i l e =>
    obtain ⟨u, hu, k⟩ := exec_lowers { s with pending := l } i fun d hd => hp d l (hd ▸ e)
    cases hu.symm.trans h
    exact ⟨k.dom, k.pin⟩

end Sys2Proof.Machine
open Sys2Proof Sys2Proof.Machine

/-- Settles O60: at the front of the queue DOMAIN_RELEASE lifts its own domain's hold and no other, and every other step lifts
none. -/
theorem holdsLiftOnlyByRelease : Obligations.HoldsLiftOnlyByRelease := by
  intro s t d h
  by_cases hp : ∃ d' l, s.pending = .domainRelease d' :: l
  · obtain ⟨d', l, hp⟩ := hp
    rw [step, hp] at h
    obtain k | ⟨k, hc, hr⟩ := execDomainRelease_lifts h
    · exact ⟨fun e n => absurd (k.dom d e) n, fun e n => absurd (k.pin d e) (by simp [n])⟩
    · refine ⟨fun e n => ?_, fun e n => ?_⟩
      · obtain rfl | e := k.dom d e
        · exact ⟨l, hp, hr, hc⟩
        · exact absurd e n
      · obtain rfl | e := k.pin d e
        · exact ⟨⟨l, hp⟩, hr, k.released⟩
        · exact absurd e (by simp [n])
  · have k := step_holds h fun d l e => hp ⟨d, l, e⟩
    exact ⟨fun e n => absurd (k.dom d e) n, fun e n => absurd (k.pin d e) (by simp [n])⟩
end

/-- Settles O54: the level's definition, with the search of the list written out. -/
theorem platformAlertLevel : Obligations.PlatformAlertLevel := by
  intro s
  simp only [Sys2Proof.Machine.State.pltAlertLow, Bool.or_eq_true, List.any_eq_true, decide_eq_true_eq]
  exact or_comm

section
/-!
What a hold leaves of the guard (R87, R90): of the domains their states alone may change, of the rest the balls; and what
the failure of a domain makes of it (R107).
-/
namespace Sys2Proof.Machine
open Sys2Proof

/-- `t` is `s` with other hold states and balls; a domain that is neither RELEASED nor waiting keeps its state. -/
structure State.Reheld (s t : State) : Prop where
  eq : ∃ l p, t = { s with guard := { s.guard with domains := l, holdPins := p } }
  len : t.guard.domains.length = s.guard.domains.length
  dom : ∀ d, t.dom d = { s.dom d with state := (t.dom d).state }
  fixed : ∀ d, (s.dom d).state ≠ .released → (s.dom d).state.waits = false → (t.dom d).state = (s.dom d).state

theorem State.Reheld.refl (s : State) : s.Reheld s := ⟨⟨_, _, rfl⟩, rfl, fun _ => rfl, fun _ _ _ => rfl⟩

theorem State.dom_of_get {s t : State} (e : t.get .guard = s.get .guard) (d : Nat) : t.dom d = s.dom d :=
  State.dom_congr (congrArg Guard.domains (show t.guard = s.guard from e)) d

theorem State.dom_setDom_same {s : State} {d : Nat} (hd : d < s.guard.domains.length) (f : Domain → Domain) :
    (s.setDom d f).dom d = f (s.dom d) := by
  rw [State.dom_setDom, if_pos ⟨rfl, hd⟩]

@[simp] theorem State.setDom_length (s : State) (d : Nat) (f : Domain → Domain) :
    (s.setDom d f).guard.domains.length = s.guard.domains.length := List.length_modify ..

section
variable {r s t : State}

theorem State.Reheld.trans (h : r.Reheld s) (k : s.Reheld t) : r.Reheld t where
  eq := by
    obtain ⟨_, _, e⟩ := h.eq
    obtain ⟨l, p, e'⟩ := k.eq
    exact ⟨l, p, by rw [e', e]⟩
  len := k.len.trans h.len
  dom d := (k.dom d).trans (by rw [h.dom d])
  fixed d hr hw := by
    have e := h.fixed d hr hw
    exact (k.fixed d (e ▸ hr) (e ▸ hw)).trans e

theorem State.Reheld.foldl {α : Type} (h : r.Reheld s) (l : List α) {f : State → α → State}
    (hf : ∀ (s : State) a, s.Reheld (f s a)) : r.Reheld (l.foldl f s) := by
  induction l generalizing s with
  | nil => exact h
  | cons a l ih => exact ih (h.trans (hf s a))

theorem State.Reheld.ite {c : Prop} {_ : Decidable c} (h : c → r.Reheld s) (k : r.Reheld t) : r.Reheld (if c then s else t) := by
  split
  · next hc => exact h hc
  · exact k

theorem State.Reheld.pin (h : r.Reheld s) (d : Nat) (b : Bool) : r.Reheld (s.pin d b) := by
  refine h.trans (.ite (fun _ => .refl s) ?_)
  exact ⟨⟨_, _, rfl⟩, rfl, fun _ => rfl, fun _ _ _ => rfl⟩

/-- A domain that is RELEASED or waits takes another state. -/
theorem State.Reheld.setState (h : r.Reheld s) {d : Nat} (x : DomState)
    (hw : (s.dom d).state = .released ∨ (s.dom d).state.waits = true) : r.Reheld (s.setDom d fun y => { y with state := x }) := by
  refine h.trans ⟨⟨_, _, rfl⟩, s.setDom_length _ _, fun k => ?_, fun k hr hw' => ?_⟩
  · rw [State.dom_setDom]
    split <;> rfl
  · rw [State.dom_setDom]
    split
    · next hk =>
      rw [hk.1] at hr hw'
      exact hw.elim (absurd · hr) fun e => absurd (hw'.symm.trans e) (by simp)
    · rfl

theorem State.Reheld.settle (h : r.Reheld s) : r.Reheld s.settle :=
  h.foldl _ fun s _ => .ite (fun hw => .setState (.refl s) _ (.inr hw)) (.refl s)

theorem State.Reheld.dropDeps (n : Nat) (h : r.Reheld s) : r.Reheld (s.dropDeps n) := by
  induction n generalizing s with
  | zero => exact h
  | succ n ih => exact ih (h.foldl _ fun s d => .ite (fun hc => .pin (.setState (.refl s) _ (.inl hc.1)) d _) (.refl s))

/-- After the state it gives its domain, a hold changes states and balls alone. -/
theorem State.hold_reheld (s : State) (d : Nat) (x : DomState) :
    (s.setDom d fun y => { y with state := x }).Reheld (s.hold d x) :=
  .settle (.dropDeps 8 (.pin (.refl _) d _))

theorem State.Reheld.hold (h : r.Reheld s) {d : Nat} (x : DomState)
    (hw : (s.dom d).state = .released ∨ (s.dom d).state.waits = true) : r.Reheld (s.hold d x) :=
  (h.setState x hw).trans (s.hold_reheld d x)

theorem State.Reheld.holdForWrite (h : r.Reheld s) (c : Chip) : r.Reheld (s.holdForWrite c) :=
  h.foldl _ fun s _ => .ite (fun hc => .hold (.refl s) _ (.inl hc.1)) (.refl s)

theorem State.Reheld.holdAll (h : r.Reheld s) : r.Reheld s.holdAll :=
  .settle (h.foldl _ fun s d => .ite (fun hc => .pin (.setState (.refl s) _ (.inl hc)) d _) (.refl s))

/-! ### A hold -/

theorem State.hold_length (s : State) (d : Nat) (x : DomState) : (s.hold d x).guard.domains.length = s.guard.domains.length :=
  (s.hold_reheld d x).len.trans (s.setDom_length _ _)

/-- A hold leaves of every domain all but its state. -/
theorem State.hold_dom_but (s : State) (d k : Nat) (x : DomState) :
    (s.hold d x).dom k = { s.dom k with state := ((s.hold d x).dom k).state } := by
  refine ((s.hold_reheld d x).dom k).trans ?_
  rw [State.dom_setDom]
  split <;> rfl

/-- A state that is neither RELEASED nor a wait is the domain's after the hold. -/
theorem State.hold_dom {d : Nat} (hd : d < s.guard.domains.length) {x : DomState} (hr : x ≠ .released) (hw : x.waits = false) :
    (s.hold d x).dom d = { s.dom d with state := x } := by
  have e := State.dom_setDom_same hd fun y => { y with state := x }
  have h := s.hold_reheld d x
  rw [h.dom, h.fixed d (by rw [e]; exact hr) (by rw [e]; exact hw), e]

theorem State.hold_state_ne (s : State) (d : Nat) {x : DomState} (hx : x ≠ .released) :
    ((s.hold d x).dom d).state ≠ .released := by
  intro e
  have k : (s.setDom d fun y => { y with state := x }).Holds (s.hold d x) := .settle (.dropDeps 8 (.pinLow (.refl _) d))
  have e := k.dom d e
  rw [State.dom_setDom] at e
  split at e
  · exact hx e
  · next hd =>
    rw [State.dom, List.getD_eq_default _ _ (not_lt.1 fun h => hd ⟨rfl, h⟩)] at e
    cases e

theorem State.pin_low (s : State) (d : Nat) (hl : s.boot.lockdown = false) : (s.pin d false).guard.holdPins.getLsbD d = false := by
  have e : (s.pin d false).guard.holdPins = s.guard.holdPins &&& ~~~ (1#8 <<< d) := by
    unfold State.pin
    rw [if_neg (by simp [hl])]
    rfl
  by_cases hd : d < 8 <;> simp [e, hd]

/-- The ball of a domain that is held is low, but where LOCKDOWN has frozen it (R81). -/
theorem State.hold_pin (s : State) (d : Nat) (x : DomState) (hl : s.boot.lockdown = false) :
    (s.hold d x).guard.holdPins.getLsbD d = false := by
  have k : ((s.setDom d fun y => { y with state := x }).pin d false).Holds (s.hold d x) := .settle (.dropDeps 8 (.refl _))
  have hp := State.pin_low (s.setDom d fun y => { y with state := x }) d hl
  exact Bool.eq_false_iff.2 fun e => Bool.eq_false_iff.1 hp (k.pin d e)

/-! ### The end of a command that waited, and a failure -/

theorem State.guardJobDone_dom (s : State) (d k : Nat) :
    (s.guardJobDone d).dom k = if k = d then { s.dom k with job := none } else s.dom k := by
  have h : (s.setDom d fun x => { x with job := none }).dom k = if k = d then { s.dom k with job := none } else s.dom k := by
    rw [State.dom_setDom]
    by_cases hd : k < s.guard.domains.length
    · simp [hd]
    · rw [State.dom, List.getD_eq_default _ _ (not_lt.1 hd)]
      simp [hd, Domain.atReset]
  unfold State.guardJobDone
  split
  · split
    · exact h
    · exact h
  · next hj =>
    split
    · next hk =>
      subst hk
      rw [← hj]
    · rfl

theorem State.setSieve_dom (s : State) (b d : Nat) : (s.setSieve b).dom d = s.dom d := by
  unfold State.setSieve
  dsimp only
  split
  · rfl
  · exact State.dom_of_get (s := (s.countEvt 1 b).mapGuard _) (State.deviceEvent_get _ (by simp)) d

theorem State.logEvent_dom (s : State) (c : BitVec 16) (n d : Nat) : (s.logEvent c n).dom d = s.dom d :=
  State.dom_of_get (State.logEvent_get _ _ _ (by simp)) d

/-- What the failure of a domain makes of it. -/
theorem State.failDom_dom {d : Nat} (hd : d < s.guard.domains.length) (code region : Nat) :
    (s.failDom d code region).dom d =
      { s.dom d with state := .failedHeld, failCode := code, failRegion := region, useRecovery := false, job := none } := by
  unfold State.failDom
  rw [State.guardJobDone_dom, if_pos rfl]
  dsimp only
  have h : ((s.setDom d fun x => { x with failCode := code, failRegion := region, useRecovery := false }).hold d
      .failedHeld).dom d = { s.dom d with state := .failedHeld, failCode := code, failRegion := region, useRecovery := false } := by
    rw [State.hold_dom ((s.setDom_length _ _).symm ▸ hd) (by simp) rfl, State.dom_setDom_same hd]
  split
  · rw [State.setSieve_dom, State.logEvent_dom, h]
  · rw [State.logEvent_dom, h]

end

theorem State.guardly_guard (s : State) (f : State → State) : (s.guardly f).guard = (f s).guard := by
  unfold State.guardly
  dsimp only
  split
  · exact State.setAlert_get _ _ (fld := .guard) (by simp)
  · rfl

theorem State.guardly_dom (s : State) (f : State → State) (d : Nat) : (s.guardly f).dom d = (f s).dom d :=
  State.dom_congr (congrArg Guard.domains (s.guardly_guard f)) d

/-- Of the rest a fall of PLT_ALERT_N changes MG_ALERT, its counters and what is sent alone. -/
theorem State.guardly_get_of (s : State) (f : State → State) {fld : Field} (h : fld ∉ ([.mgmt, .flt, .out] : List Field)) :
    (s.guardly f).get fld = (f s).get fld := by
  unfold State.guardly
  dsimp only
  split
  · exact State.setAlert_get _ _ h
  · rfl

end Sys2Proof.Machine
end

section
/-! Holds and the guard's commands (R88 to R90, R124, R130, R132, R133). -/
namespace Sys2Proof.Machine
open Sys2Proof

theorem State.settle_pins (s : State) : s.settle.guard.holdPins = s.guard.holdPins := by
  unfold State.settle
  refine List.foldlRecOn (motive := fun t : State => t.guard.holdPins = s.guard.holdPins) _ _ rfl fun t h d _ => ?_
  split <;> exact h

theorem State.guardJobDone_pins (s : State) (d : Nat) : (s.guardJobDone d).guard.holdPins = s.guard.holdPins := by
  unfold State.guardJobDone
  split
  · split <;> rfl
  · rfl

@[simp] theorem State.setDom_boot (s : State) (d : Nat) (f : Domain → Domain) : (s.setDom d f).boot = s.boot := rfl

/-- Where the balls are not frozen (R81). -/
theorem State.pin_eq {s : State} (hl : s.boot.lockdown = false) (d : Nat) (b : Bool) :
    s.pin d b = s.mapGuard fun g =>
      { g with holdPins := if b then g.holdPins ||| (1#8 <<< d) else g.holdPins &&& ~~~ (1#8 <<< d) } := by
  rw [State.pin, if_neg (by simp [hl])]

/-- What the release of a domain makes of it. -/
def Domain.release (x : Domain) : Domain :=
  { x with state := .released, booted := true, failCode := 0, failRegion := 0xFF, useRecovery := false }

/-- A domain released, its ball high, the waits looked at again. -/
def State.released (s : State) (d : Nat) : State := (((s.setDom d Domain.release).pin d true).settle).guardJobDone d

theorem State.released_dom {s : State} {d : Nat} (hd : d < s.guard.domains.length) (hl : s.boot.lockdown = false) :
    (s.released d).dom d = { (s.dom d).release with job := none } := by
  unfold State.released
  have hu : ((s.setDom d Domain.release).pin d true).dom d = (s.dom d).release := by
    rw [State.pin_eq (s := s.setDom d Domain.release) hl]
    exact State.dom_setDom_same hd _
  generalize (s.setDom d Domain.release).pin d true = u at hu
  have hs : (u.settle.dom d).state = .released := State.KeepsReleased.settle (fun _ => id) d (by rw [hu]; rfl)
  have he : u.settle.dom d = (s.dom d).release := by
    rw [(State.Reheld.settle (.refl u)).dom d, hs, hu]
    rfl
  rw [State.guardJobDone_dom, if_pos rfl, he]

theorem State.released_pins {s : State} (d : Nat) (hl : s.boot.lockdown = false) :
    (s.released d).guard.holdPins = s.guard.holdPins ||| (1#8 <<< d) := by
  rw [State.released, State.guardJobDone_pins, State.settle_pins, State.pin_eq (s := s.setDom d Domain.release) hl]
  rfl

theorem execDomainRelease_releases {s : State} {d : Nat} (h8 : d < 8) (hc : (s.dom d).state.checking = true)
    (hr : s.releasable d = true) (hv : s.reverified d = true) :
    ∃ t, exec (.domainRelease d) s = .next t ∧ (t.dom d).state = .released ∧ (t.dom d).booted = true
      ∧ t.guard.holdPins = s.guard.holdPins ||| (1#8 <<< d) ∧ (t.dom d).job = none := by
  have hl : s.boot.lockdown = false := by
    simp only [State.releasable, Bool.and_eq_true, Bool.not_eq_true'] at hr
    exact hr.2
  have hg : ¬ (8 ≤ d ∨ (s.dom d).state.checking = false ∨ s.releasable d = false ∨ s.reverified d = false) := by
    simp [h8, hc, hr, hv]
  have hd : (s.guardly fun s => s.released d).dom d = { (s.dom d).release with job := none } := by
    rw [State.guardly_dom, State.released_dom (State.lt_of_checking hc) hl]
  refine ⟨s.guardly fun s => s.released d, congrArg Host.Outcome.next (if_neg hg), ?_, ?_, ?_, ?_⟩
  · rw [hd]; rfl
  · rw [hd]; rfl
  · rw [State.guardly_guard, State.released_pins d hl]
  · rw [hd]

theorem State.settle_pgHigh (s : State) : s.settle.guard.pgHigh = s.guard.pgHigh := by
  obtain ⟨l, p, e⟩ := (State.Reheld.settle (.refl s)).eq
  rw [e]

theorem execPltPgHigh_sets (s : State) (n : Nat) :
    ∃ t, exec (.pltPgHigh n) s = .next t ∧ t.guard.pgHigh = s.guard.pgHigh.set n true ∧ t.guard.holdPins = s.guard.holdPins :=
  ⟨(s.mapGuard fun g => { g with pgHigh := g.pgHigh.set n true }).settle, rfl, State.settle_pgHigh _, State.settle_pins _⟩

/-! ### A power-good input falls -/

/-- `t` has domain `d` held: not RELEASED, and its ball low but where LOCKDOWN has frozen it. -/
def State.HasHeld (t : State) (d : Nat) (lock : Bool) : Prop :=
  (t.dom d).state ≠ .released ∧ (lock = false → t.guard.holdPins.getLsbD d = false)

/-- What is held stays so. -/
theorem State.HasHeld.mono {s t : State} {d : Nat} {b : Bool} (h : s.HasHeld d b) (k : s.Holds t) : t.HasHeld d b :=
  ⟨fun e => h.1 (k.dom d e), fun hb => Bool.eq_false_iff.2 fun e => Bool.eq_false_iff.1 (h.2 hb) (k.pin d e)⟩

/-- What the loss of its power-good input makes of a domain, but for the hold. -/
def Domain.pgLost (x : Domain) : Domain :=
  { x with failCode := 10, regions := x.regions.map fun r => if r.mirror then r else { r with matched := false } }

theorem State.losePg_eq (s : State) (d : Nat) : s.losePg d = (s.setDom d Domain.pgLost).hold d .waitPg := rfl

theorem State.losePg_boot (s : State) (d : Nat) : (s.losePg d).boot = s.boot := by
  rw [State.losePg_eq]
  exact State.hold_get _ _ _ (fld := .boot) (by simp)

theorem State.losePg_pgHigh (s : State) (d : Nat) : (s.losePg d).guard.pgHigh = s.guard.pgHigh := by
  obtain ⟨l, p, e⟩ := ((s.setDom d Domain.pgLost).hold_reheld d .waitPg).eq
  rw [State.losePg_eq, e]
  rfl

theorem State.losePg_held (s : State) (d : Nat) : (s.losePg d).HasHeld d s.boot.lockdown := by
  rw [State.losePg_eq]
  exact ⟨State.hold_state_ne _ _ (by simp), fun h => State.hold_pin (s.setDom d Domain.pgLost) d _ h⟩

/-- Each domain of the list loses its power-good input in turn. -/
theorem State.foldl_losePg_held {l : List Nat} {d : Nat} (h : d ∈ l) (s : State) :
    (l.foldl State.losePg s).HasHeld d s.boot.lockdown := by
  induction l generalizing s with
  | nil => cases h
  | cons a l ih =>
    rw [List.foldl_cons]
    obtain rfl | h := List.mem_cons.1 h
    · exact (s.losePg_held d).mono (.foldl (.refl _) l fun s d => .losePg (.refl s) d)
    · have k := ih h (s.losePg a)
      rwa [State.losePg_boot] at k

theorem State.foldl_losePg_pgHigh (l : List Nat) (s : State) : (l.foldl State.losePg s).guard.pgHigh = s.guard.pgHigh := by
  induction l generalizing s with
  | nil => rfl
  | cons a l ih => rw [List.foldl_cons, ih, State.losePg_pgHigh]

theorem execPltPgFall_holds (s : State) (n : Nat) :
    ∃ t, exec (.pltPgFall n) s = .next t ∧ t.guard.pgHigh = s.guard.pgHigh.set n false
      ∧ ∀ d, d < 8 → (s.pdom d).pgInput = n →
          (t.dom d).state ≠ .released
          ∧ ((s.dom d).state = .released → s.boot.lockdown = false → t.guard.holdPins.getLsbD d = false) := by
  let u := s.mapGuard fun g => { g with pgHigh := g.pgHigh.set n false }
  let lost := (List.range 8).filter fun d => (u.dom d).state = .released && (u.pdom d).pgInput = n
  refine ⟨(lost.foldl State.losePg u).settle, rfl, ?_, fun d h8 hn => ?_⟩
  · exact (State.settle_pgHigh _).trans (State.foldl_losePg_pgHigh lost u)
  · have hs : (lost.foldl State.losePg u).Holds (lost.foldl State.losePg u).settle := .settle (.refl _)
    by_cases hr : (s.dom d).state = .released
    · have hm : d ∈ lost := List.mem_filter.2 ⟨List.mem_range.2 h8, Bool.and_eq_true_iff.2 ⟨decide_eq_true hr, decide_eq_true hn⟩⟩
      have hh := (State.foldl_losePg_held hm u).mono hs
      exact ⟨hh.1, fun _ => hh.2⟩
    · have hf : u.Holds (lost.foldl State.losePg u).settle := .settle (.foldl (.refl u) lost fun s d => .losePg (.refl s) d)
      exact ⟨fun e => hr (hf.dom d e), fun h => absurd h hr⟩

/-! ### PLT_RECOVER_N -/

/-- After a pass that holds every RELEASED domain of the list, none of them is RELEASED. -/
theorem State.foldl_holds_all {l : List Nat} {f : State → Nat → State} (hf : ∀ (s : State) d, s.Holds (f s d))
    (hd : ∀ (s : State) d, ((f s d).dom d).state ≠ .released) {d : Nat} (h : d ∈ l) (s : State) :
    ((l.foldl f s).dom d).state ≠ .released := by
  induction l generalizing s with
  | nil => cases h
  | cons a l ih =>
    rw [List.foldl_cons]
    obtain rfl | h := List.mem_cons.1 h
    · exact fun e => hd s d ((State.Holds.foldl (.refl _) l hf).dom d e)
    · exact ih h _

theorem State.setDom_state_ne (s : State) (d : Nat) {f : Domain → Domain} (hf : ∀ x, (f x).state ≠ .released) :
    ((s.setDom d f).dom d).state ≠ .released := by
  by_cases hd : d < s.guard.domains.length
  · rw [State.dom_setDom_same hd]
    exact hf _
  · rw [State.dom, List.getD_eq_default _ _ (by rw [State.setDom_length]; exact not_lt.1 hd)]
    simp [Domain.atReset]

theorem State.holdAll_state_ne (s : State) {d : Nat} (h : d < 8) : (s.holdAll.dom d).state ≠ .released := by
  unfold State.holdAll
  intro e
  refine State.foldl_holds_all (fun s d => ?_) (fun s d => ?_) (List.mem_range.2 h) s
    ((State.Holds.settle (.refl _)).dom d e)
  · exact .ite (.pinLow (.setDom (.refl s) d (by simp)) d) (.refl s)
  · split
    · exact fun e => State.setDom_state_ne s d (by simp) ((State.Holds.pinLow (.refl _) d).dom d e)
    · assumption

theorem execPltRecoverEdge_holds {s : State} (hr : s.guard.running = true) (images : List (Nat × Nat × List Bytes)) :
    ∃ t, exec (.pltRecoverEdge images) s = .next t ∧ ∀ d, d < 8 → (t.dom d).state ≠ .released := by
  refine ⟨_, congrArg Host.Outcome.next (if_neg (by simp [hr])), fun d h => ?_⟩
  rw [State.guardly_dom]
  have k : s.holdAll.Holds (((List.range 8).foldl (fun s d =>
      if ((s.dom d).state = .disabled || (s.dom d).staysHeld) = true then s else s.remapDomain images d) s.holdAll).settle) :=
    .settle (.foldl (.refl _) _ fun s _ => .ite (.refl s) (.remapDomain (.refl s) _ _))
  exact fun e => s.holdAll_state_ne h (k.dom d e)

/-! ### The commands -/

/-- A guard command on a state its intake would accept runs its body. -/
theorem State.guardCmd_of {s : State} {id : Nat} {j : Job} {op : Op} (h : s.runsJob id j op [])
    (hf : s.stateFault j.q j.entry op = none) (run : State → Job → State) :
    s.guardCmd id op run = s.guardly fun s => run s j := by
  rw [State.guardCmd, State.runCmd_of h, hf]

theorem State.guardly_endedWith {s : State} {f : State → State} {id : Nat} {c : Status} {r : BitVec 64} {b : Bytes}
    (h : (f s).endedWith id c r b) : (s.guardly f).endedWith id c r b :=
  (State.endedWith_congr (s.guardly_get_of f (fld := .jobs) (by simp))).2 h

theorem State.guardly_job? (s : State) (f : State → State) (id : Nat) : (s.guardly f).job? id = (f s).job? id :=
  State.job?_congr (s.guardly_get_of f (fld := .jobs) (by simp)) id

theorem State.guardly_keeper (s : State) (f : State → State) : (s.guardly f).keeper = (f s).keeper :=
  s.guardly_get_of f (fld := .keeper) (by simp)

@[simp] theorem State.finish_dom (s : State) (id : Nat) (c : Status) (r : BitVec 64) (b : Bytes) (n d : Nat) :
    (s.finish id c r b n).dom d = s.dom d := rfl

@[simp] theorem State.mapJob_dom (s : State) (id : Nat) (f : Job → Job) (d : Nat) : (s.mapJob id f).dom d = s.dom d := rfl

theorem State.finish_ok {s : State} {id : Nat} {j x : Job} (h : s.job? id = some x) (hj : j.id = id) (r : BitVec 64) (n : Nat) :
    (s.finish j.id st.ok r [] n).endedWith id st.ok r [] := by
  have e := State.finish_ended h st.ok r [] n
  rw [hj]
  simpa using e

theorem execGuardSvnAdvance_ends {s : State} {id : Nat} {j : Job} (h : s.runsJob id j .guardSvnAdvance [])
    (hf : s.stateFault j.q j.entry .guardSvnAdvance = none) (hn : s.nvFree = true) :
    ∃ t, exec (.guardSvnAdvance id) s = .next t ∧ t.endedWith id st.ok (s.guardResult (j.entry.p 0 1) 0) []
      ∧ t.keeper.domainSvn.get 0 (j.entry.p 0 1)
        = max (s.keeper.domainSvn.get 0 (j.entry.p 0 1)) (s.dom (j.entry.p 0 1)).mfSvn := by
  refine ⟨_, congrArg Host.Outcome.next ((if_neg (by simp [hn])).trans (State.guardCmd_of h hf _)), ?_, ?_⟩
  · refine State.guardly_endedWith (State.finish_ok (x := j) ?_ (State.job?_id h.1) _ _)
    exact h.1
  · rw [State.guardly_keeper, State.finish_keeper, State.mapKeeper_keeper]
    exact (Sparse.get_set ..).trans (if_pos rfl)

/-- A job is still found after another has ended. -/
theorem State.finish_job?_some {s : State} {id : Nat} (h : (s.job? id).isSome) (n : Nat) (c : Status) (r : BitVec 64) (b : Bytes)
    (k : Nat) : ((s.finish n c r b k).job? id).isSome := by
  obtain ⟨x, h⟩ := Option.isSome_iff_exists.1 h
  have h1 := State.job?_mapJobs (s := s.leavePort n) (p := fun j => j.waitsLeaf (s.job? n)) (f := Job.wake) (j := x)
    (by simpa using h) fun _ => rfl
  have h2 := State.job?_map (i := n) (f := fun j => j.finish c r b k) h1 fun _ => rfl
  rw [State.finish, h2]
  rfl

theorem State.guardJobDone_job?_some {s : State} {id : Nat} (h : (s.job? id).isSome) (d : Nat) :
    ((s.guardJobDone d).job? id).isSome := by
  unfold State.guardJobDone
  split
  · split
    · exact State.finish_job?_some (s := s.setDom d _) h _ _ _ _ _
    · exact h
  · exact h

/-- A domain under GUARD_HOLD, its record written and the command that waited for it done (R132). -/
def State.hostHold (s : State) (d : Nat) : State :=
  (((s.setDom d fun x => { x with failCode := 14, failRegion := 0xFF }).hold d .failedHeld).logEvent 0x0202
    (14 * 2 ^ 16 + 0xFF * 2 ^ 8 + d)).guardJobDone d

theorem State.hostHold_dom {s : State} {d : Nat} (hd : d < s.guard.domains.length) :
    (s.hostHold d).dom d = { s.dom d with state := .failedHeld, failCode := 14, failRegion := 0xFF, job := none } := by
  rw [State.hostHold, State.guardJobDone_dom, if_pos rfl, State.logEvent_dom,
    State.hold_dom ((s.setDom_length _ _).symm ▸ hd) (by simp) rfl, State.dom_setDom_same hd]

theorem State.hostHold_job? {s : State} {id : Nat} (h : (s.job? id).isSome) (d : Nat) : ((s.hostHold d).job? id).isSome := by
  refine State.guardJobDone_job?_some ?_ d
  rwa [State.job?_congr ((State.logEvent_get _ _ _ (fld := .jobs) (by simp)).trans (State.hold_get _ _ _ (fld := .jobs) (by simp)))]

/-- The body of GUARD_HOLD once the commit of its domain is done with. -/
def State.endHold (s : State) (j : Job) : State :=
  (s.hostHold (j.entry.p 0 1)).finish j.id st.ok ((s.hostHold (j.entry.p 0 1)).guardResult (j.entry.p 0 1) 0) [] j.scCycles

theorem State.endHold_dom {s : State} {j : Job} (hd : j.entry.p 0 1 < s.guard.domains.length) :
    ((s.endHold j).dom (j.entry.p 0 1)).state = .failedHeld ∧ ((s.endHold j).dom (j.entry.p 0 1)).failCode = 14 := by
  rw [State.endHold, State.finish_dom, State.hostHold_dom hd]
  exact ⟨rfl, rfl⟩

theorem State.endHold_ended {s : State} {j : Job} (hd : j.entry.p 0 1 < s.guard.domains.length)
    (h : (s.job? j.id).isSome) :
    (s.endHold j).endedWith j.id st.ok (BitVec.ofNat 64 (5 * 2 ^ 32 + 14 * 2 ^ 40)) [] := by
  obtain ⟨x, hx⟩ := Option.isSome_iff_exists.1 (State.hostHold_job? h (j.entry.p 0 1))
  have hr : (s.hostHold (j.entry.p 0 1)).guardResult (j.entry.p 0 1) 0 = BitVec.ofNat 64 (5 * 2 ^ 32 + 14 * 2 ^ 40) := by
    rw [State.guardResult, State.hostHold_dom hd]
    exact BitVec.zero_or
  rw [← hr]
  exact State.finish_ok hx rfl _ _

/-- GUARD_HOLD first ends a commit of its domain that has made its writes (R124 step 8). -/
def State.dropOwnCommit (s : State) (d : Nat) : State := if (s.dom d).state = .committing ∧ s.nvFree then s.clearCommit else s

theorem execGuardHold_of {s : State} {id : Nat} {j : Job} (h : s.runsJob id j .guardHold [])
    (hf : s.stateFault j.q j.entry .guardHold = none) :
    exec (.guardHold id) s = .next (s.guardly fun s => (s.dropOwnCommit (j.entry.p 0 1)).endHold j) := by
  change execGuardHold id s = _
  rw [execGuardHold, State.guardCmd_of h hf]
  unfold State.endHold State.hostHold State.dropOwnCommit
  dsimp only

theorem execGuardHold_ends {s : State} {id : Nat} {j : Job} (hd : j.entry.p 0 1 < s.guard.domains.length)
    (h : s.runsJob id j .guardHold []) (hf : s.stateFault j.q j.entry .guardHold = none) :
    ∃ t, exec (.guardHold id) s = .next t ∧ (t.dom (j.entry.p 0 1)).state = .failedHeld
      ∧ (t.dom (j.entry.p 0 1)).failCode = 14
      ∧ t.endedWith id st.ok (BitVec.ofNat 64 (5 * 2 ^ 32 + 14 * 2 ^ 40)) [] := by
  have hd0 : j.entry.p 0 1 < (s.dropOwnCommit (j.entry.p 0 1)).guard.domains.length := by
    unfold State.dropOwnCommit
    split <;> exact hd
  have hj : ((s.dropOwnCommit (j.entry.p 0 1)).job? j.id).isSome := by
    unfold State.dropOwnCommit
    rw [State.job?_id h.1]
    split <;> exact Option.isSome_of_eq_some h.1
  obtain ⟨hs, hc⟩ := State.endHold_dom hd0
  have he := State.endHold_ended hd0 hj
  rw [State.job?_id h.1] at he
  refine ⟨_, execGuardHold_of h hf, ?_, ?_, State.guardly_endedWith he⟩
  · exact (congrArg Domain.state (s.guardly_dom _ _)).trans hs
  · exact (congrArg Domain.failCode (s.guardly_dom _ _)).trans hc

/-! #### GUARD_REVERIFY -/

/-- What GUARD_REVERIFY makes of its domain, but for the hold (R132). -/
def Domain.reverify (x : Domain) (useRecovery : Bool) (id : Nat) : Domain :=
  { x with failCode := 0, failRegion := 0xFF, recovered := false, useRecovery, job := some id,
           regions := x.regions.map Region.unread }

/-- The caches without what GUARD_REVERIFY reads again. -/
def State.dropRead (s : State) (d : Nat) : State :=
  (s.dom d).regions.foldl (fun s r =>
    if r.remapped then s.forgetBlocks r.chip r.base r.count else s.forgetCache r.chip r.base r.count) s

/-- It changes caches alone. -/
theorem State.dropRead_same (s : State) (d : Nat) :
    (s.dropRead d).guard.domains = s.guard.domains ∧ (s.dropRead d).jobs = s.jobs := by
  unfold State.dropRead
  refine List.foldlRecOn (motive := fun t : State => t.guard.domains = s.guard.domains ∧ t.jobs = s.jobs) _ _ ⟨rfl, rfl⟩
    fun t h r _ => ?_
  split <;> exact h

/-- The body of GUARD_REVERIFY. -/
def State.reverify (s : State) (j : Job) : State :=
  (((s.dropRead (j.entry.p 0 1)).setDom (j.entry.p 0 1) fun x => x.reverify (j.entry.p 2 1 = 1) j.id).hold (j.entry.p 0 1)
    .verifying).mapJob j.id fun x => { x with phase := .barrier, unit := none }

theorem execGuardReverify_of {s : State} {id : Nat} {j : Job} (h : s.runsJob id j .guardReverify [])
    (hf : s.stateFault j.q j.entry .guardReverify = none) :
    exec (.guardReverify id) s = .next (s.guardly fun s => s.reverify j) := by
  change execGuardReverify id s = _
  rw [execGuardReverify, State.guardCmd_of h hf]
  unfold State.reverify State.dropRead Domain.reverify
  dsimp only

/-- The domain after GUARD_REVERIFY, but for its state. -/
theorem State.reverify_dom {s : State} {j : Job} (hd : j.entry.p 0 1 < s.guard.domains.length) :
    (s.reverify j).dom (j.entry.p 0 1) = { (s.dom (j.entry.p 0 1)).reverify (j.entry.p 2 1 = 1) j.id with
      state := ((s.reverify j).dom (j.entry.p 0 1)).state } := by
  have hg := (s.dropRead_same (j.entry.p 0 1)).1
  have e := State.hold_dom_but ((s.dropRead (j.entry.p 0 1)).setDom (j.entry.p 0 1) fun x =>
    x.reverify (j.entry.p 2 1 = 1) j.id) (j.entry.p 0 1) (j.entry.p 0 1) .verifying
  rw [State.dom_setDom_same (by rwa [hg]), State.dom_congr hg] at e
  rw [State.reverify, State.mapJob_dom]
  exact e

theorem State.reverify_state_ne (s : State) (j : Job) : ((s.reverify j).dom (j.entry.p 0 1)).state ≠ .released := by
  rw [State.reverify, State.mapJob_dom]
  exact State.hold_state_ne _ _ (by simp)

theorem State.mapJob_phase {s : State} {id : Nat} {j : Job} (h : s.job? id = some j) (p : JobPhase) (u : Option Nat) :
    ((s.mapJob id fun x => { x with phase := p, unit := u }).job? id).map Job.phase = some p := by
  rw [State.job?_map (f := fun x => { x with phase := p, unit := u }) h fun _ => rfl, if_pos (State.job?_id h)]
  rfl

theorem execGuardReverify_starts {s : State} {id : Nat} {j : Job} (hd : j.entry.p 0 1 < s.guard.domains.length)
    (h : s.runsJob id j .guardReverify []) (hf : s.stateFault j.q j.entry .guardReverify = none) :
    ∃ t, exec (.guardReverify id) s = .next t ∧ (t.dom (j.entry.p 0 1)).state ≠ .released
      ∧ (t.dom (j.entry.p 0 1)).job = some id
      ∧ (t.dom (j.entry.p 0 1)).regions.all (fun r => !r.matched) = true ∧ (t.job? id).map Job.phase = some .barrier := by
  refine ⟨_, execGuardReverify_of h hf, ?_, ?_, ?_, ?_⟩
  · rw [State.guardly_dom]
    exact s.reverify_state_ne j
  · rw [State.guardly_dom, State.reverify_dom hd, ← State.job?_id h.1]
    rfl
  · rw [State.guardly_dom, State.reverify_dom hd]
    simp [Domain.reverify, Region.unread]
  · rw [State.guardly_job?, State.reverify, State.job?_id h.1]
    refine State.mapJob_phase (j := j) ?_ _ _
    rw [State.job?_congr (State.hold_get _ _ _ (fld := .jobs) (by simp))]
    exact (State.job?_congr (s.dropRead_same _).2 id).trans h.1

/-! #### GUARD_COMMIT -/

@[simp] theorem State.setDom_keeper (s : State) (d : Nat) (f : Domain → Domain) : (s.setDom d f).keeper = s.keeper := rfl

@[simp] theorem State.setDom_pins (s : State) (d : Nat) (f : Domain → Domain) :
    (s.setDom d f).guard.holdPins = s.guard.holdPins := rfl

@[simp] theorem State.setDom_job? (s : State) (d : Nat) (f : Domain → Domain) (id : Nat) :
    (s.setDom d f).job? id = s.job? id := rfl

/-- The checks of R101 look at no staging copy. -/
theorem State.manifestFail_staging (s : State) (x : Option (Chip × Nat × Nat)) (d : Nat) (b : Bytes) :
    (s.mapGuard fun g => { g with staging := x }).manifestFail d b = s.manifestFail d b := rfl

theorem State.foldl_length {α : Type} {f : State → α → State}
    (hf : ∀ (s : State) a, (f s a).guard.domains.length = s.guard.domains.length) (l : List α) (s : State) :
    (l.foldl f s).guard.domains.length = s.guard.domains.length := by
  induction l generalizing s with
  | nil => rfl
  | cons a l ih => rw [List.foldl_cons, ih, hf]

theorem State.emitAll_guard (s : State) (l : List Out) : (s.emitAll l).guard = s.guard :=
  State.emitAll_get l s (fld := .guard) (by simp)

theorem State.writeCommit_length (s : State) (d : Nat) (regs : List Region) (m : Bytes) (images : List (List Bytes)) (w : Bool) :
    (s.writeCommit d regs m images w).guard.domains.length = s.guard.domains.length := by
  have put (s : State) (x : Option Region) (base : Region → Nat) (b : List Bytes) :
      (match x with
        | some r => (s.forgetBlocks r.chip (base r) r.count).emitAll (rewriteOut r.chip (base r) b)
        | none => s).guard.domains.length = s.guard.domains.length := by
    cases x with
    | none => rfl
    | some r =>
      dsimp only
      rw [State.emitAll_guard]
      rfl
  unfold State.writeCommit
  extract_lets p chips s1 one s2 recs s3
  have h1 : s1.guard.domains.length = s.guard.domains.length :=
    State.foldl_length (fun s c => (State.Reheld.holdForWrite (.refl s) c).len) _ _
  have h2 : s2.guard.domains.length = s.guard.domains.length :=
    (State.foldl_length (fun s k => put s regs[k]? Region.base (images.getD k [])) _ _).trans h1
  have h3 : s3.guard.domains.length = s.guard.domains.length := by
    unfold s3
    split
    · exact (State.foldl_length (fun s k => put s recs[k]? Region.recBase (images.getD (regs.length + k) [])) _ _).trans h2
    · exact h2
  rw [State.emitAll_guard, h3]

/-- The domain that waits for its new manifest. -/
theorem State.awaitManifest_dom {s : State} {d : Nat} (hd : d < s.guard.domains.length) :
    (s.awaitManifest d .committing).dom d = { s.dom d with
      mfDigest := [], regions := [], recovered := false, failCode := 0, failRegion := 0xFF, state := .committing } := by
  rw [State.awaitManifest, State.hold_dom ((s.setDom_length _ _).symm ▸ hd) (by simp) rfl, State.dom_setDom_same hd]

theorem State.awaitManifest_length (s : State) (d : Nat) (x : DomState) :
    (s.awaitManifest d x).guard.domains.length = s.guard.domains.length := by
  rw [State.awaitManifest, State.hold_length, State.setDom_length]

/-- The staging copy that a GUARD_COMMIT names, turned WRITE_GUARD (R124). -/
def State.stage (s : State) (j : Job) (m : Bytes) : State :=
  s.mapGuard fun g => { g with staging := some ((Chip.ofByte (j.entry.p 1 1)).getD chip0, j.entry.p 4 4,
    stagingBlocks (manifestRegions m) (j.entry.p 2 1 = 1)) }

/-- The journal record of a commit (R124 step 5). -/
def commitJournal (j : Job) (m : Bytes) : CommitJournal :=
  { domain := j.entry.p 0 1, chip := (Chip.ofByte (j.entry.p 1 1)).getD chip0, base := j.entry.p 4 4,
    withRecovery := j.entry.p 2 1 = 1, blocks := stagingBlocks (manifestRegions m) (j.entry.p 2 1 = 1),
    digest := Config.sha384 (manifestBytes m) }

/-- Steps 4 and 5 of R124: the domain is held and the journal record written. -/
def State.journalCommit (s : State) (j : Job) (m : Bytes) : State :=
  ((s.hold (j.entry.p 0 1) .committing).mapKeeper fun k => { k with commitJnl := some (commitJournal j m) }).mapUpd fun u =>
    { u with jnlReadable := true }

/-- Steps 4 to 7 of R124; the domain then waits for its new manifest, and the command with it. -/
def State.runCommit (s : State) (j : Job) (m : Bytes) (images : List (List Bytes)) : State :=
  ((((s.journalCommit j m).writeCommit (j.entry.p 0 1) (manifestRegions m) m images (j.entry.p 2 1 = 1)).awaitManifest
    (j.entry.p 0 1) .committing).setDom (j.entry.p 0 1) fun x => { x with job := some j.id }).mapJob j.id
      fun x => { x with phase := .barrier, unit := none }

/-- What GUARD_COMMIT does once its staging copy is WRITE_GUARD. -/
def State.tryCommit (s : State) (j : Job) (m : Bytes) (images : List (List Bytes)) : State :=
  match s.manifestFail (j.entry.p 0 1) m with
  | 0 =>
    match badImage (manifestRegions m) images (j.entry.p 2 1 = 1) with
    | some k => s.commitFails j (j.entry.p 0 1) 6 k
    | none => s.runCommit j m images
  | code => s.commitFails j (j.entry.p 0 1) code 0xFF

theorem execGuardCommit_of {s : State} {id : Nat} {j : Job} {m : Bytes} (h : s.runsJob id j .guardCommit [])
    (hf : s.stateFault j.q j.entry .guardCommit = none) (hn : s.nvFree = true) (hs : s.guard.staging = none)
    (hc : s.commitRec = none) (hm : m.length = 16384) (images : List (List Bytes)) :
    exec (.guardCommit id m images) s = .next (s.guardly fun s => (s.stage j m).tryCommit j m images) := by
  change execGuardCommit id m images s = _
  rw [execGuardCommit, if_neg (by simp [hn, hs, hc, hm]), State.guardCmd_of h hf]
  rfl

theorem State.runCommit_dom {s : State} {j : Job} (hd : j.entry.p 0 1 < s.guard.domains.length) (m : Bytes)
    (images : List (List Bytes)) : ((s.runCommit j m images).dom (j.entry.p 0 1)).state = .committing
      ∧ ((s.runCommit j m images).dom (j.entry.p 0 1)).job = some j.id := by
  have h1 : (s.journalCommit j m).guard.domains.length = s.guard.domains.length := by
    rw [State.journalCommit, State.mapUpd_guard, State.mapKeeper_guard, State.hold_length]
  have h2 : j.entry.p 0 1 < ((s.journalCommit j m).writeCommit (j.entry.p 0 1) (manifestRegions m) m images
      (j.entry.p 2 1 = 1)).guard.domains.length := by rwa [State.writeCommit_length, h1]
  rw [State.runCommit, State.mapJob_dom, State.dom_setDom_same (by rwa [State.awaitManifest_length]),
    State.awaitManifest_dom h2]
  exact ⟨rfl, rfl⟩

/-- Before it waits, a commit changes guard, keeper, update and what is sent alone. -/
theorem State.writtenCommit_get (s : State) (j : Job) (m : Bytes) (images : List (List Bytes)) {fld : Field}
    (h : fld ∉ ([.guard, .keeper, .upd, .out] : List Field)) :
    ((s.journalCommit j m).writeCommit (j.entry.p 0 1) (manifestRegions m) m images (j.entry.p 2 1 = 1)).get fld = s.get fld := by
  simp only [List.mem_cons, List.not_mem_nil, or_false, not_or] at h
  rw [State.writeCommit_get _ _ _ _ _ _ (by simp [h])]
  simp [State.journalCommit, h]

theorem State.runCommit_pin {s : State} (hl : s.boot.lockdown = false) (j : Job) (m : Bytes) (images : List (List Bytes)) :
    (s.runCommit j m images).guard.holdPins.getLsbD (j.entry.p 0 1) = false := by
  have hb : ((s.journalCommit j m).writeCommit (j.entry.p 0 1) (manifestRegions m) m images (j.entry.p 2 1 = 1)).boot = s.boot :=
    s.writtenCommit_get j m images (fld := .boot) (by simp)
  rw [State.runCommit, State.mapJob_guard, State.setDom_pins, State.awaitManifest]
  exact State.hold_pin _ _ _ (by rw [State.setDom_boot, hb, hl])

theorem State.runCommit_keeper (s : State) (j : Job) (m : Bytes) (images : List (List Bytes)) :
    (s.runCommit j m images).keeper.commitJnl = some (commitJournal j m) := by
  have h1 (u : State) : (u.awaitManifest (j.entry.p 0 1) .committing).keeper = u.keeper :=
    State.awaitManifest_get _ _ _ (fld := .keeper) (by simp)
  have h2 (u : State) (w : Bool) : (u.writeCommit (j.entry.p 0 1) (manifestRegions m) m images w).keeper = u.keeper :=
    State.writeCommit_get _ _ _ _ _ _ (fld := .keeper) (by simp)
  rw [State.runCommit, State.mapJob_keeper, State.setDom_keeper, h1, h2]
  rfl

theorem State.runCommit_phase {s : State} {j : Job} (h : s.job? j.id = some j) (m : Bytes) (images : List (List Bytes)) :
    ((s.runCommit j m images).job? j.id).map Job.phase = some .barrier := by
  rw [State.runCommit]
  refine State.mapJob_phase (j := j) ?_ _ _
  rw [State.setDom_job?, State.job?_congr (State.awaitManifest_get _ (j.entry.p 0 1) .committing (fld := .jobs) (by simp)),
    State.job?_congr (s.writtenCommit_get j m images (fld := .jobs) (by simp)), h]

/-- A commit that fails its checks leaves no staging copy and ends its command; the journal stays as it was. -/
theorem State.commitFails_ends {s : State} {j : Job} (h : s.job? j.id = some j) (d code region : Nat) :
    (s.commitFails j d code region).keeper = s.keeper ∧ (s.commitFails j d code region).guard.staging = none
      ∧ ((s.commitFails j d code region).job? j.id).map Job.phase = some .ended := by
  unfold State.commitFails
  extract_lets s1 r c res
  have h1 : s1.draw.job? j.id = some j := by rw [State.draw_job?, State.setDom_job?, State.mapGuard_job?, h]
  obtain ⟨x, hx⟩ := State.finish_job? h1 c res [] j.scCycles
  refine ⟨?_, ?_, ?_⟩
  · rw [State.finish_keeper]
    rfl
  · rw [State.finish_guard]
    rfl
  · rw [hx]
    rfl

theorem State.tryCommit_good {s : State} {j : Job} {m : Bytes} {images : List (List Bytes)}
    (h : s.manifestFail (j.entry.p 0 1) m = 0 ∧ badImage (manifestRegions m) images (j.entry.p 2 1 = 1) = none) :
    s.tryCommit j m images = s.runCommit j m images := by
  simp [State.tryCommit, h]

theorem State.tryCommit_bad {s : State} {j : Job} {m : Bytes} {images : List (List Bytes)}
    (h : ¬ (s.manifestFail (j.entry.p 0 1) m = 0 ∧ badImage (manifestRegions m) images (j.entry.p 2 1 = 1) = none)) :
    ∃ code region, s.tryCommit j m images = s.commitFails j (j.entry.p 0 1) code region := by
  unfold State.tryCommit
  split
  · next e =>
    split
    · exact ⟨_, _, rfl⟩
    · next e' => exact absurd ⟨e, e'⟩ h
  · exact ⟨_, _, rfl⟩

theorem execGuardCommit_commits {s : State} {id : Nat} {j : Job} {m : Bytes} (hd : j.entry.p 0 1 < s.guard.domains.length)
    (h : s.runsJob id j .guardCommit []) (hf : s.stateFault j.q j.entry .guardCommit = none) (hn : s.nvFree = true)
    (hs : s.guard.staging = none) (hc : s.commitRec = none) (hm : m.length = 16384) (images : List (List Bytes)) :
    let good : Prop := s.manifestFail (j.entry.p 0 1) m = 0
      ∧ badImage (manifestRegions m) images (j.entry.p 2 1 = 1) = none
    ∃ t, exec (.guardCommit id m images) s = .next t
      ∧ (good → (t.dom (j.entry.p 0 1)).state = .committing ∧ (t.dom (j.entry.p 0 1)).job = some id
          ∧ (s.boot.lockdown = false → t.guard.holdPins.getLsbD (j.entry.p 0 1) = false)
          ∧ t.keeper.commitJnl.map CommitJournal.digest = some (Config.sha384 (manifestBytes m))
          ∧ (t.job? id).map Job.phase = some .barrier)
      ∧ (¬ good → t.keeper.commitJnl = s.keeper.commitJnl ∧ t.guard.staging = none
          ∧ (t.job? id).map Job.phase = some .ended) := by
  have hj : (s.stage j m).job? j.id = some j := by rw [State.job?_id h.1]; exact h.1
  have he : (s.stage j m).manifestFail (j.entry.p 0 1) m = s.manifestFail (j.entry.p 0 1) m := s.manifestFail_staging _ _ _
  rw [← he]
  refine ⟨_, execGuardCommit_of h hf hn hs hc hm images, fun hg => ?_, fun hb => ?_⟩
  all_goals rw [State.guardly_guard, State.guardly_keeper, State.guardly_job?]
  · rw [State.guardly_dom, State.tryCommit_good (s := s.stage j m) hg, State.runCommit_keeper, ← State.job?_id h.1]
    obtain ⟨hst, hjob⟩ := State.runCommit_dom (s := s.stage j m) hd m images
    exact ⟨hst, hjob, fun hl => State.runCommit_pin (s := s.stage j m) hl j m images, rfl, State.runCommit_phase hj m images⟩
  · obtain ⟨code, region, e⟩ := State.tryCommit_bad (s := s.stage j m) hb
    obtain ⟨hk, hst, hp⟩ := State.commitFails_ends hj (j.entry.p 0 1) code region
    rw [e, hk, ← State.job?_id h.1]
    exact ⟨rfl, hst, hp⟩

end Sys2Proof.Machine
open Sys2Proof Sys2Proof.Machine

/-- Settles O26: each row by its own case. -/
theorem holdsAndGuardCommandsComplete : Obligations.HoldsAndGuardCommandsComplete := by
  intro s d n id j
  refine ⟨execDomainRelease_releases, execPltPgHigh_sets s n, execPltPgFall_holds s n,
    fun images hr => execPltRecoverEdge_holds hr images, fun hd => ⟨fun m images h hf hn hs hc hm =>
      execGuardCommit_commits hd h hf hn hs hc hm images, execGuardHold_ends hd, execGuardReverify_starts hd,
      execGuardSvnAdvance_ends⟩⟩
end

section
/-! What a reading of the guard leaves of its domain (R101, R105, R107, R128), and of the ports. -/
namespace Sys2Proof.Machine
open Sys2Proof

/-! ### Ports -/

/-- `t` has the policy, the ports and the blocks to be fetched again of `s`. -/
structure State.SamePorts (s t : State) : Prop where
  policy : t.guard.policy = s.guard.policy
  port : ∀ p, t.sport p = s.sport p
  lost : t.guard.lost = s.guard.lost

theorem State.SamePorts.refl (s : State) : s.SamePorts s := ⟨rfl, fun _ => rfl, rfl⟩

theorem State.sport_congr {s t : State} (h : t.guard = s.guard) (p : Port) : t.sport p = s.sport p := by
  cases p <;> simp only [State.sport, h]

theorem State.sport_mapSport (s : State) (p : Port) (f : SievePort → SievePort) : (s.mapSport p f).sport p = f (s.sport p) := by
  cases p <;> rfl

theorem State.guardly_sport (s : State) (f : State → State) (p : Port) : (s.guardly f).sport p = (f s).sport p :=
  State.sport_congr (s.guardly_guard f) p

section
variable {r s t : State}

theorem State.SamePorts.trans (h : r.SamePorts s) (k : s.SamePorts t) : r.SamePorts t :=
  ⟨k.policy.trans h.policy, fun p => (k.port p).trans (h.port p), k.lost.trans h.lost⟩

/-- An operation outside the guard. -/
theorem State.SamePorts.keep (h : r.SamePorts s) (e : t.get .guard = s.get .guard) : r.SamePorts t := by
  have e : t.guard = s.guard := e
  exact h.trans ⟨by rw [e], State.sport_congr e, by rw [e]⟩

theorem State.SamePorts.reheld (h : r.SamePorts s) (k : s.Reheld t) : r.SamePorts t := by
  obtain ⟨l, p, e⟩ := k.eq
  exact h.trans ⟨by rw [e], fun p => by cases p <;> rw [e] <;> rfl, by rw [e]⟩

theorem State.SamePorts.ite {c : Prop} {_ : Decidable c} (h : r.SamePorts s) (k : r.SamePorts t) :
    r.SamePorts (if c then s else t) := by
  split <;> assumption

theorem State.SamePorts.foldl {α : Type} (h : r.SamePorts s) (l : List α) {f : State → α → State}
    (hf : ∀ (s : State) a, s.SamePorts (f s a)) : r.SamePorts (l.foldl f s) := by
  induction l generalizing s with
  | nil => exact h
  | cons a l ih => exact ih (h.trans (hf s a))

theorem State.SamePorts.setDom (h : r.SamePorts s) (d : Nat) (f : Domain → Domain) : r.SamePorts (s.setDom d f) :=
  h.trans ⟨rfl, fun p => by cases p <;> rfl, rfl⟩

theorem State.SamePorts.hold (h : r.SamePorts s) (d : Nat) (x : DomState) : r.SamePorts (s.hold d x) :=
  (h.setDom d _).reheld (s.hold_reheld d x)

theorem State.SamePorts.setSieve (h : r.SamePorts s) (b : Nat) : r.SamePorts (s.setSieve b) := by
  unfold State.setSieve
  refine .ite (h.keep rfl) (.keep (h.trans (t := (s.countEvt 1 b).mapGuard _) ?_) (State.deviceEvent_get _ (by simp)))
  exact ⟨rfl, fun p => by cases p <;> rfl, rfl⟩

theorem State.SamePorts.guardJobDone (h : r.SamePorts s) (d : Nat) : r.SamePorts (s.guardJobDone d) := by
  have h1 := h.setDom d fun x => { x with job := none }
  unfold State.guardJobDone
  split
  · split
    · exact h1.keep (State.finish_get _ _ _ _ _ _ (by simp))
    · exact h1
  · exact h

theorem State.SamePorts.failDom (h : r.SamePorts s) (d code region : Nat) : r.SamePorts (s.failDom d code region) := by
  have h1 := ((h.setDom d fun x => { x with failCode := code, failRegion := region, useRecovery := false }).hold d
    .failedHeld).keep (State.logEvent_get _ 0x0202 (code * 2 ^ 16 + region * 2 ^ 8 + d) (by simp))
  unfold State.failDom
  exact .guardJobDone (.ite (h1.setSieve 8) h1) d

theorem State.SamePorts.failChip (h : r.SamePorts s) (c : Chip) : r.SamePorts (s.failChip c) :=
  h.foldl _ fun s _ => .ite (.failDom (.refl s) _ 8 _) (.refl s)

end

theorem execFlashResetWaitEnd_starts {s : State} {port : Port} {p : Policy} (answers : List (Chip × Option Bytes))
    (hp : s.guard.policy = some p) (hs : (s.sport port).starting = true) :
    ∃ t, exec (.flashResetWaitEnd port answers) s = .next t ∧ (t.sport port).starting = false
      ∧ (t.sport port).running = true
      ∧ (t.sport port).sfdp = (p.chips port).filterMap fun c => (answerOf answers c).map fun b => (c, b) := by
  change ∃ t, execFlashResetWaitEnd port answers s = .next t ∧ _
  rw [execFlashResetWaitEnd, hp]
  dsimp only
  rw [if_neg (by simp [hs])]
  refine ⟨_, rfl, ?_⟩
  rw [State.guardly_sport, (State.SamePorts.foldl (.refl _) _ fun s c => .failChip (.refl s) c).port]
  have e (u : State) (f : SievePort → SievePort) (l : List Chip) :
      ((u.mapSport port f).mapGuard fun g => { g with dead := l ++ g.dead }).sport port = f (u.sport port) := by
    cases port <;> rfl
  rw [e]
  exact ⟨rfl, rfl, rfl⟩

/-! ### Domains -/

theorem State.foldl_forgetBlocks_domains (l : List Region) (s : State) :
    (l.foldl (fun s x => s.forgetBlocks x.chip x.base x.count) s).guard.domains = s.guard.domains := by
  induction l generalizing s with
  | nil => rfl
  | cons x l ih =>
    rw [List.foldl_cons, ih]
    rfl

/-- The manifest an accepted domain has, failed or not (R101, R104). -/
theorem State.acceptManifest_dom {s : State} {d : Nat} (hd : d < s.guard.domains.length) (b : Bytes) :
    ((s.acceptManifest d b).dom d).mfDigest = Config.sha384 (manifestBytes b)
      ∧ ((s.acceptManifest d b).dom d).regions = manifestRegions b ∧ ((s.acceptManifest d b).dom d).mfSvn = fieldAt b 8 4 := by
  unfold State.acceptManifest
  extract_lets old s1 regs s2
  have h1 : s1.guard.domains = s.guard.domains := State.foldl_forgetBlocks_domains _ _
  have hd1 : d < s1.guard.domains.length := by rwa [h1]
  have h2 : s2.dom d = { s1.dom d with
      mfSvn := fieldAt b 8 4, svnUnchecked := s.boot.countersLost, mfDigest := Config.sha384 (manifestBytes b),
      regions := regs } := State.dom_setDom_same hd1 _
  split
  · rw [State.failDom_dom ((s1.setDom_length _ _).symm ▸ hd1), h2]
    exact ⟨rfl, rfl, rfl⟩
  · rw [h2]
    exact ⟨rfl, rfl, rfl⟩

/-- A domain leaves COMMITTING as its new manifest is accepted. -/
def Domain.afterCommit (x : Domain) : Domain := if x.state = .committing then { x with state := .verifying } else x

theorem Domain.afterCommit_same (x : Domain) : x.afterCommit.mfDigest = x.mfDigest ∧ x.afterCommit.regions = x.regions
    ∧ x.afterCommit.mfSvn = x.mfSvn := by
  unfold Domain.afterCommit
  split <;> exact ⟨rfl, rfl, rfl⟩

/-- What a manifest that has been read does, its domain's commit done with (R101). -/
def State.readManifest (s : State) (d : Nat) (b : Bytes) : State :=
  match s.manifestFail d b with
  | 0 => ((s.acceptManifest d b).setDom d Domain.afterCommit).settle
  | code => s.failDom d code 0xFF

/-- The domain's own commit is done with (R124 step 8). -/
def State.closeCommit (s : State) (d : Nat) : State :=
  if decide ((s.commitRec.map CommitJournal.domain) = some d) then s.clearCommit else s

theorem State.closeCommit_same (s : State) (d : Nat) (b : Bytes) :
    (s.closeCommit d).manifestFail d b = s.manifestFail d b ∧ (s.closeCommit d).guard.domains = s.guard.domains := by
  unfold State.closeCommit
  split <;> exact ⟨rfl, rfl⟩

theorem State.readManifest_good {s : State} {d : Nat} {b : Bytes} (hd : d < s.guard.domains.length) (h : s.manifestFail d b = 0) :
    ((s.readManifest d b).dom d).mfDigest = Config.sha384 (manifestBytes b)
      ∧ ((s.readManifest d b).dom d).regions = manifestRegions b ∧ ((s.readManifest d b).dom d).mfSvn = fieldAt b 8 4 := by
  have e : s.readManifest d b = ((s.acceptManifest d b).setDom d Domain.afterCommit).settle := by
    simp only [State.readManifest, h]
  obtain ⟨h1, h2, h3⟩ := State.acceptManifest_dom hd b
  obtain ⟨k1, k2, k3⟩ := ((s.acceptManifest d b).dom d).afterCommit_same
  rw [e, (State.Reheld.settle (.refl _)).dom, State.dom_setDom]
  split
  · exact ⟨k1.trans h1, k2.trans h2, k3.trans h3⟩
  · exact ⟨h1, h2, h3⟩

theorem State.readManifest_bad {s : State} {d : Nat} {b : Bytes} (hd : d < s.guard.domains.length) (h : s.manifestFail d b ≠ 0) :
    ((s.readManifest d b).dom d).state = .failedHeld ∧ ((s.readManifest d b).dom d).failCode = s.manifestFail d b := by
  have e : s.readManifest d b = s.failDom d (s.manifestFail d b) 0xFF := by
    unfold State.readManifest
    split
    · next h0 => exact absurd h0 h
    · rfl
  rw [e, State.failDom_dom hd]
  exact ⟨rfl, rfl⟩

theorem execManifestReadDone_reads {s : State} {d : Nat} {b : Bytes} (hr : s.guard.running = true)
    (hc : (s.dom d).state.checking = true) (he : (s.pdom d).enabled = true) (hm : (s.pdom d).hasMf = true)
    (hg : (s.dom d).mfDigest = []) (hp : (s.sport (s.pdom d).mfChip.port).running = true)
    (ha : s.guard.dead.contains (s.pdom d).mfChip = false) (hl : b.length = 16384)
    (ht : s.turnOf (s.pdom d).mfChip.port d = true) (hres : s.resumeDue d = false)
    (hn : (s.dom d).state = .committing → s.nvFree = true) :
    ∃ t, exec (.manifestReadDone d b) s = .next t
      ∧ (s.manifestFail d b = 0 →
          (t.dom d).mfDigest = Config.sha384 (manifestBytes b) ∧ (t.dom d).regions = manifestRegions b
            ∧ (t.dom d).mfSvn = fieldAt b 8 4)
      ∧ (s.manifestFail d b ≠ 0 → (t.dom d).state = .failedHeld ∧ (t.dom d).failCode = s.manifestFail d b) := by
  have e : exec (.manifestReadDone d b) s = .next (s.guardly fun s => (s.closeCommit d).readManifest d b) := by
    change execManifestReadDone d b s = _
    have hn' : ¬ ((s.dom d).state = .committing ∧ s.nvFree = false) := fun h => by simp [hn h.1] at h
    rw [execManifestReadDone, if_neg (by simp only [hr, he, hm, hc, hg, hp, ha, hl, ht, hres, hn']; simp)]
    rfl
  obtain ⟨hf, hdom⟩ := s.closeCommit_same d b
  have hd : d < (s.closeCommit d).guard.domains.length := by rw [hdom]; exact State.lt_of_checking hc
  refine ⟨_, e, fun h => ?_, fun h => ?_⟩ <;> rw [State.guardly_dom]
  · exact State.readManifest_good hd (hf.trans h)
  · rw [← hf]
    exact State.readManifest_bad hd (hf ▸ h)

/-! ### Regions -/

theorem State.lt_of_region? {s : State} {d k : Nat} {r : Region} (h : s.region? d k = some r) :
    d < s.guard.domains.length := by
  by_contra hd
  rw [State.region?, State.dom, List.getD_eq_default _ _ (not_lt.1 hd)] at h
  cases h

theorem State.region?_congr {s t : State} {d : Nat} (h : (t.dom d).regions = (s.dom d).regions) (k : Nat) :
    t.region? d k = s.region? d k := by
  rw [State.region?, State.region?, h]

theorem State.setRegion_dom {s : State} {d : Nat} (hd : d < s.guard.domains.length) (k : Nat) (f : Region → Region) :
    (s.setRegion d k f).dom d = { s.dom d with regions := (s.dom d).regions.modify k f } := State.dom_setDom_same hd _

theorem State.setRegion_region? {s : State} {d k : Nat} {r : Region} (h : s.region? d k = some r) (f : Region → Region) :
    (s.setRegion d k f).region? d k = some (f r) := by
  rw [State.region?, State.setRegion_dom (State.lt_of_region? h), List.getElem?_modify]
  rw [State.region?] at h
  simp [h]

theorem State.forgetBlocks_dom (s : State) (c : Chip) (base n d : Nat) : (s.forgetBlocks c base n).dom d = s.dom d := rfl

theorem State.putMirror_domains (s : State) (x : Region) (blocks : List Bytes) :
    (s.putMirror x blocks).guard.domains = s.guard.domains := by
  unfold State.putMirror
  split <;> rfl

theorem State.noteRecovered_dom {s : State} {d : Nat} (hd : d < s.guard.domains.length) (k : Nat) :
    (s.noteRecovered d k).dom d = { s.dom d with recovered := true } := by
  rw [State.noteRecovered, State.logEvent_dom, State.setSieve_dom, State.dom_setDom_same hd]

theorem State.noteRecovered_region? {s : State} {d : Nat} (hd : d < s.guard.domains.length) (k i : Nat) :
    (s.noteRecovered d k).region? d i = s.region? d i :=
  State.region?_congr (by rw [State.noteRecovered_dom hd]) i

/-- The regions of every domain by number decide what all regions are. -/
theorem State.allRegions_congr {s t : State} (h : t.guard.domains.map Domain.regions = s.guard.domains.map Domain.regions) :
    t.allRegions = s.allRegions := by
  have e (u : State) : u.allRegions = ((u.guard.domains.map Domain.regions).zip (List.range 8)).flatMap fun p =>
      (p.1.zip (List.range p.1.length)).map fun q => (p.2, q.2, q.1) := by
    rw [List.zip_map_left, List.flatMap_map]
    rfl
  rw [e, e, h]

theorem State.hold_dom_regions (s : State) (d i : Nat) (x : DomState) : ((s.hold d x).dom i).regions = (s.dom i).regions := by
  rw [State.hold_dom_but]

/-- A hold leaves every region as it is. -/
theorem State.hold_regions (s : State) (d : Nat) (x : DomState) :
    (s.hold d x).guard.domains.map Domain.regions = s.guard.domains.map Domain.regions := by
  refine List.ext_getElem (by simp [State.hold_length]) fun i h1 h2 => ?_
  have e := s.hold_dom_regions d i x
  rw [List.length_map] at h1 h2
  rw [State.dom, State.dom, List.getD_eq_getElem _ _ h1, List.getD_eq_getElem _ _ h2] at e
  simpa using e

theorem State.hold_region? (s : State) (d k i : Nat) (x : DomState) : (s.hold d x).region? i k = s.region? i k :=
  State.region?_congr (s.hold_dom_regions d i x) k

theorem State.hold_roomToRemap (s : State) (d k : Nat) (x : DomState) : (s.hold d x).roomToRemap d k = s.roomToRemap d k := by
  rw [State.roomToRemap, State.roomToRemap, State.allRegions_congr (s.hold_regions d x), State.hold_region?]

theorem Region.imageOk_iff (r : Region) (image : List Bytes) :
    r.imageOk image = true ↔ image.length = r.count ∧ runRoot r.regionId image = r.recRoot := by
  simp [Region.imageOk]

section
variable {s : State} {d k : Nat} {r : Region} {blocks recovery : List Bytes}

/-- A region whose root is confirmed. -/
def Region.taken (r : Region) (onRec : Bool) : Region := { r with matched := true, onRecovery := onRec, rewritten := false }

/-- A region that matches leaves its domain as it is but for the region, unless the recovery image it needs is bad. -/
theorem State.takeRegion_dom (hr : s.region? d k = some r) (hi : s.recoverRun r = true → r.imageOk recovery = true)
    (onRec : Bool) :
    (s.takeRegion d k r blocks recovery onRec).dom d =
      { s.dom d with regions := (s.dom d).regions.modify k fun x => x.taken onRec } := by
  have hg : ¬ (s.recoverRun r && !r.imageOk recovery) = true := by
    simpa using hi
  unfold State.takeRegion
  rw [if_neg hg]
  extract_lets s1 s2
  have h2 : s2.guard.domains = s.guard.domains := by
    unfold s2
    split <;> rfl
  have h3 := (s2.putMirror_domains r (s.servedOf r blocks recovery)).trans h2
  rw [State.setRegion_dom (by rw [h3]; exact State.lt_of_region? hr), State.dom_congr h3]
  rfl

/-- The remap of a region with a good image the node cache has room for (R128). -/
theorem State.remapRegion_good (hr : s.region? d k = some r) (hi : r.imageOk recovery = true) (hm : s.roomToRemap d k = true) :
    ((s.remapRegion d k r recovery).dom d).recovered = true
      ∧ ((s.remapRegion d k r recovery).region? d k).map Region.matched = some true := by
  have hd := State.lt_of_region? hr
  unfold State.remapRegion
  rw [if_neg (by simp [hi]), if_neg (by simp [hm])]
  generalize hu : ((s.forgetBlocks r.chip r.base r.count).putLeaves r.chip r.recBase
    (runLeaves r.regionId recovery)).putMirror r recovery = u
  have h1 : u.guard.domains = s.guard.domains := hu ▸ State.putMirror_domains _ _ _
  have hur : u.region? d k = some r := (State.region?_congr (by rw [State.dom_congr h1]) k).trans hr
  have hl (f : Region → Region) : d < (u.setRegion d k f).guard.domains.length := by
    rw [State.setRegion, State.setDom_length, h1]
    exact hd
  rw [State.noteRecovered_dom (hl _), State.noteRecovered_region? (hl _), State.setRegion_region? hur]
  exact ⟨rfl, rfl⟩

theorem State.remapRegion_bad (hr : s.region? d k = some r) (hi : ¬ r.imageOk recovery = true) :
    ((s.remapRegion d k r recovery).dom d).state = .failedHeld ∧ ((s.remapRegion d k r recovery).dom d).failCode = 7
      ∧ ((s.remapRegion d k r recovery).dom d).failRegion = k := by
  unfold State.remapRegion
  rw [if_pos (by simp [hi]), State.failDom_dom (State.lt_of_region? hr)]
  exact ⟨rfl, rfl, rfl⟩

/-- The rewrite of a region with a good image (R128). -/
theorem State.rewriteRegion_good (hr : s.region? d k = some r) (hi : r.imageOk recovery = true) :
    (s.rewriteRegion d k r recovery).region? d k = some
      { r with matched := false, remapped := false, onRecovery := false, owes := false, rewritten := true } := by
  unfold State.rewriteRegion
  rw [if_neg (by simp [hi])]
  refine State.setRegion_region? ?_ _
  refine (State.region?_congr ?_ k).trans hr
  rw [State.dom_of_get (State.emitAll_get _ _ (by simp)), State.forgetBlocks_dom,
    (State.Reheld.holdForWrite (.refl s) r.chip).dom]

theorem State.rewriteRegion_bad (hr : s.region? d k = some r) (hi : ¬ r.imageOk recovery = true) :
    ((s.rewriteRegion d k r recovery).dom d).state = .failedHeld ∧ ((s.rewriteRegion d k r recovery).dom d).failCode = 7
      ∧ ((s.rewriteRegion d k r recovery).dom d).failRegion = k := by
  unfold State.rewriteRegion
  rw [if_pos (by simp [hi]), State.failDom_dom (State.lt_of_region? hr)]
  exact ⟨rfl, rfl, rfl⟩

/-! ### A region's root -/

/-- A region that has not been rewritten, with its own root. -/
theorem State.checkRegion_own (hw : r.rewritten = false) (ho : blocks.length = r.count ∧ runRoot r.regionId blocks = r.root) :
    s.checkRegion d k r blocks recovery = s.takeRegion d k r blocks recovery false := by
  simp [State.checkRegion, hw, ho]

/-- One with another root and no recovery action fails (R107). -/
theorem State.checkRegion_fails (hw : r.rewritten = false)
    (ho : ¬ (blocks.length = r.count ∧ runRoot r.regionId blocks = r.root)) (ha : r.action = 0) :
    s.checkRegion d k r blocks recovery = s.failDom d 6 k := by
  have ho : ¬ (decide (blocks.length = r.count) && decide (runRoot r.regionId blocks = r.root)) = true := by simpa using ho
  simp [State.checkRegion, hw, ha, ho]

/-- A rewritten one is held against its recovery root (R128). -/
theorem State.checkRegion_rewritten (hw : r.rewritten = true) (ha : r.action ≠ 0) (hl : blocks.length = r.count)
    (hr : runRoot r.regionId blocks = r.recRoot) :
    s.checkRegion d k r blocks recovery = (s.takeRegion d k r blocks recovery true).noteRecovered d k := by
  simp [State.checkRegion, hw, ha, hl, hr]

theorem Region.taken_of (hw : r.rewritten = false) : r.taken false = { r with matched := true, onRecovery := false } := by
  rw [Region.taken, ← hw]

theorem State.takeRegion_region? (hr : s.region? d k = some r) (hi : s.recoverRun r = true → r.imageOk recovery = true)
    (onRec : Bool) : (s.takeRegion d k r blocks recovery onRec).region? d k = some (r.taken onRec) := by
  rw [State.region?, State.takeRegion_dom hr hi, List.getElem?_modify]
  rw [State.region?] at hr
  simp [hr]

/-- What the comparison of a region's own root does, where no recovery is under way. -/
theorem State.checkRegion_first (hr : s.region? d k = some r) (hw : r.rewritten = false)
    (hi : s.recoverRun r = true → r.imageOk recovery = true) :
    (blocks.length = r.count ∧ runRoot r.regionId blocks = r.root →
        (s.checkRegion d k r blocks recovery).region? d k = some { r with matched := true, onRecovery := false }
          ∧ ((s.checkRegion d k r blocks recovery).dom d).state = (s.dom d).state)
      ∧ (¬ (blocks.length = r.count ∧ runRoot r.regionId blocks = r.root) → r.action = 0 →
        ((s.checkRegion d k r blocks recovery).dom d).state = .failedHeld
          ∧ ((s.checkRegion d k r blocks recovery).dom d).failCode = 6
          ∧ ((s.checkRegion d k r blocks recovery).dom d).failRegion = k) := by
  refine ⟨fun ho => ?_, fun ho ha => ?_⟩
  · rw [State.checkRegion_own hw ho, State.takeRegion_region? hr hi, Region.taken_of hw, State.takeRegion_dom hr hi]
    exact ⟨rfl, rfl⟩
  · rw [State.checkRegion_fails hw ho ha, State.failDom_dom (State.lt_of_region? hr)]
    exact ⟨rfl, rfl, rfl⟩

theorem State.checkRegion_again (hr : s.region? d k = some r) (hw : r.rewritten = true) (hn : s.recoverRun r = false)
    (ha : r.action ≠ 0) (hl : blocks.length = r.count) (hroot : runRoot r.regionId blocks = r.recRoot) :
    ((s.checkRegion d k r blocks recovery).dom d).recovered = true
      ∧ ((s.checkRegion d k r blocks recovery).region? d k).map Region.matched = some true := by
  have hi : s.recoverRun r = true → r.imageOk recovery = true := fun h => by simp [hn] at h
  have hk : (s.takeRegion d k r blocks recovery true).region? d k = some (r.taken true) := State.takeRegion_region? hr hi true
  rw [State.checkRegion_rewritten hw ha hl hroot, State.noteRecovered_dom (State.lt_of_region? hk),
    State.noteRecovered_region? (State.lt_of_region? hk), hk]
  exact ⟨rfl, rfl⟩

/-- The recovery that a region owes (R128). -/
theorem State.recoverRegion_owed (hr : s.region? d k = some r) :
    (r.imageOk recovery = true →
        (r.action = 1 ∨ s.boot.recovery = true → s.roomToRemap d k = true →
          ((s.recoverRegion d k r recovery false).dom d).recovered = true
            ∧ ((s.recoverRegion d k r recovery false).region? d k).map Region.matched = some true)
        ∧ (r.action ≠ 1 → s.boot.recovery = false →
          (s.recoverRegion d k r recovery false).region? d k = some
            { r with matched := false, remapped := false, onRecovery := false, owes := false, rewritten := true }))
      ∧ (¬ r.imageOk recovery = true →
        ((s.recoverRegion d k r recovery false).dom d).state = .failedHeld
          ∧ ((s.recoverRegion d k r recovery false).dom d).failCode = 7
          ∧ ((s.recoverRegion d k r recovery false).dom d).failRegion = k) := by
  have hb : (s.hold d .recovering).boot = s.boot := State.hold_get _ _ _ (fld := .boot) (by simp)
  have hu : (s.hold d .recovering).region? d k = some r := (s.hold_region? d k d _).trans hr
  have hm : (s.hold d .recovering).roomToRemap d k = s.roomToRemap d k := s.hold_roomToRemap d k _
  have e : s.recoverRegion d k r recovery false = if r.action = 1 ∨ s.boot.recovery = true
      then (s.hold d .recovering).remapRegion d k r recovery else (s.hold d .recovering).rewriteRegion d k r recovery := by
    simp only [State.recoverRegion, State.remapOnly, hb, Bool.false_or, Bool.or_eq_true, decide_eq_true_eq]
  rw [e]
  refine ⟨fun hi => ⟨fun ha hroom => ?_, fun ha hrec => ?_⟩, fun hi => ?_⟩
  · rw [if_pos ha]
    exact State.remapRegion_good hu hi (hm.trans hroom)
  · rw [if_neg (by simp [ha, hrec])]
    exact State.rewriteRegion_good hu hi
  · split
    · exact State.remapRegion_bad hu hi
    · exact State.rewriteRegion_bad hu hi

end

/-! ### The rows that read regions -/

/-- What a region that has been read does (R105, R107, R128, R129). -/
def State.readRegion (s : State) (d k : Nat) (r : Region) (useRecovery : Bool) (blocks recovery : List Bytes) : State :=
  if r.owes then s.recoverRegion d k r recovery false
  else if r.action ≠ 0 ∧ s.remapOnly then s.remapRegion d k r recovery
  else if r.action ≠ 0 ∧ useRecovery then s.recoverRegion d k r recovery true
  else s.checkRegion d k r blocks recovery

theorem State.readRegion_check {s : State} {r : Region} {u : Bool} (ho : r.owes = false)
    (ha : r.action ≠ 0 → s.boot.recovery = false ∧ u = false) (d k : Nat) (blocks recovery : List Bytes) :
    s.readRegion d k r u blocks recovery = s.checkRegion d k r blocks recovery := by
  have h1 : ¬ (r.action ≠ 0 ∧ s.remapOnly = true) := fun h => by simp [State.remapOnly, (ha h.1).1] at h
  have h2 : ¬ (r.action ≠ 0 ∧ u = true) := fun h => by simp [(ha h.1).2] at h
  rw [State.readRegion, if_neg (by simp [ho]), if_neg h1, if_neg h2]

theorem State.readRegion_owed {s : State} {r : Region} (ho : r.owes = true) (u : Bool) (d k : Nat) (blocks recovery : List Bytes) :
    s.readRegion d k r u blocks recovery = s.recoverRegion d k r recovery false := if_pos ho

theorem execRegionReadDone_of {s : State} {d k : Nat} {r : Region} (hg : s.guard.running = true)
    (hc : (s.dom d).state.checking = true) (hr : s.region? d k = some r) (hm : (s.dom d).mfDigest ≠ [])
    (hn : s.readsNow d k r = true) (hp : (s.sport r.chip.port).running = true) (blocks recovery : List Bytes) :
    exec (.regionReadDone d k blocks recovery) s =
      .next (s.guardly fun u => u.readRegion d k r (s.dom d).useRecovery blocks recovery) := by
  change execRegionReadDone d k blocks recovery s = _
  rw [execRegionReadDone, hr]
  dsimp only
  rw [if_neg (by simp [hg, hc, hm, hn, hp])]
  rfl

theorem State.guardly_region? (s : State) (f : State → State) (d k : Nat) : (s.guardly f).region? d k = (f s).region? d k :=
  State.region?_congr (by rw [State.guardly_dom]) k

theorem execRegionReadDone_reads {s : State} {d k : Nat} {r : Region} (hg : s.guard.running = true)
    (hc : (s.dom d).state.checking = true) (hr : s.region? d k = some r) (hm : (s.dom d).mfDigest ≠ [])
    (hn : s.readsNow d k r = true) (hp : (s.sport r.chip.port).running = true) (blocks recovery : List Bytes) :
    ∃ t, exec (.regionReadDone d k blocks recovery) s = .next t
      ∧ (r.owes = false → r.rewritten = false → (s.recoverRun r = true → r.imageOk recovery = true) →
          (r.action ≠ 0 → s.boot.recovery = false ∧ (s.dom d).useRecovery = false) →
          (blocks.length = r.count ∧ runRoot r.regionId blocks = r.root →
            t.region? d k = some { r with matched := true, onRecovery := false } ∧ (t.dom d).state = (s.dom d).state)
          ∧ (¬ (blocks.length = r.count ∧ runRoot r.regionId blocks = r.root) → r.action = 0 →
            (t.dom d).state = .failedHeld ∧ (t.dom d).failCode = 6 ∧ (t.dom d).failRegion = k))
      ∧ (r.owes = true →
          (recovery.length = r.count ∧ runRoot r.regionId recovery = r.recRoot →
            (r.action = 1 ∨ s.boot.recovery = true → s.roomToRemap d k = true →
              (t.dom d).recovered = true ∧ (t.region? d k).map Region.matched = some true)
            ∧ (r.action ≠ 1 → s.boot.recovery = false →
              t.region? d k = some { r with matched := false, remapped := false, onRecovery := false, owes := false,
                                            rewritten := true }))
          ∧ (¬ (recovery.length = r.count ∧ runRoot r.regionId recovery = r.recRoot) →
            (t.dom d).state = .failedHeld ∧ (t.dom d).failCode = 7 ∧ (t.dom d).failRegion = k))
      ∧ (r.owes = false → r.rewritten = true → s.boot.recovery = false → (s.dom d).useRecovery = false →
          s.recoverRun r = false → r.action ≠ 0 → blocks.length = r.count → runRoot r.regionId blocks = r.recRoot →
          (t.dom d).recovered = true ∧ (t.region? d k).map Region.matched = some true) := by
  refine ⟨_, execRegionReadDone_of hg hc hr hm hn hp blocks recovery, ?_⟩
  rw [State.guardly_dom, State.guardly_region?, ← r.imageOk_iff]
  refine ⟨fun ho hw hi ha => ?_, fun ho => ?_, fun ho hw hb hu hrun ha hl hroot => ?_⟩
  · rw [State.readRegion_check ho ha]
    exact State.checkRegion_first hr hw hi
  · rw [State.readRegion_owed ho]
    exact State.recoverRegion_owed hr
  · rw [State.readRegion_check ho fun _ => ⟨hb, hu⟩]
    exact State.checkRegion_again hr hw hrun ha hl hroot

/-! ### The resumption of a commit -/

/-- The commit is run again (R126). -/
def State.resumeCommit (s : State) (jnl : CommitJournal) (m : Bytes) (images : List (List Bytes)) : State :=
  (((s.hold jnl.domain .committing).writeCommit jnl.domain (manifestRegions m) m images jnl.withRecovery).awaitManifest
    jnl.domain .committing).logEvent 0x0107 3

theorem State.resumeCommit_dom {s : State} {jnl : CommitJournal} (hd : jnl.domain < s.guard.domains.length) (m : Bytes)
    (images : List (List Bytes)) :
    ((s.resumeCommit jnl m images).dom jnl.domain).state = .committing
      ∧ ((s.resumeCommit jnl m images).dom jnl.domain).regions = [] := by
  rw [State.resumeCommit, State.logEvent_dom, State.awaitManifest_dom (by rwa [State.writeCommit_length, State.hold_length])]
  exact ⟨rfl, rfl⟩

/-- A staging copy that no longer is the journal's: the commit is dropped. -/
def State.dropCommit (s : State) (d : Nat) : State := s.clearCommit.setDom d fun x => { x with failCode := 13 }

theorem execGuardCommitResume_of {s : State} {jnl : CommitJournal} (hg : s.guard.running = true)
    (hc : (s.dom jnl.domain).state.checking = true) (hj : s.commitRec = some jnl) (hn : s.nvFree = true)
    (he : (s.pdom jnl.domain).enabled = true) (hm : (s.dom jnl.domain).mfDigest = [])
    (hs : (s.dom jnl.domain).state ≠ .committing) (hp : (s.sport jnl.chip.port).running = true) (m : Bytes)
    (images : List (List Bytes)) :
    exec (.guardCommitResume m images) s = .next (s.guardly fun s =>
      if Config.sha384 (manifestBytes m) = jnl.digest ∧ badImage (manifestRegions m) images jnl.withRecovery = none
      then s.resumeCommit jnl m images else s.dropCommit jnl.domain) := by
  change execGuardCommitResume m images s = _
  rw [execGuardCommitResume, hj]
  dsimp only
  rw [if_neg (by simp [hg, hn, he, hc, hm, hs, hp])]
  rfl

theorem execGuardCommitResume_resumes {s : State} {jnl : CommitJournal} {d : Nat} (hg : s.guard.running = true)
    (hc : (s.dom d).state.checking = true) (hj : s.commitRec = some jnl) (hd : jnl.domain = d) (hn : s.nvFree = true)
    (he : (s.pdom d).enabled = true) (hm : (s.dom d).mfDigest = [])
    (hs : (s.dom d).state ≠ .committing) (hp : (s.sport jnl.chip.port).running = true) (m : Bytes)
    (images : List (List Bytes)) :
    ∃ t, exec (.guardCommitResume m images) s = .next t
      ∧ (Config.sha384 (manifestBytes m) = jnl.digest ∧ badImage (manifestRegions m) images jnl.withRecovery = none →
          (t.dom d).state = .committing ∧ (t.dom d).regions = [])
      ∧ (¬ (Config.sha384 (manifestBytes m) = jnl.digest ∧ badImage (manifestRegions m) images jnl.withRecovery = none) →
          t.keeper.commitJnl = none ∧ t.guard.staging = none ∧ (t.dom d).failCode = 13) := by
  subst hd
  have hl := State.lt_of_checking hc
  refine ⟨_, execGuardCommitResume_of hg hc hj hn he hm hs hp m images, fun h => ?_, fun h => ?_⟩
  · rw [State.guardly_dom, if_pos h]
    exact State.resumeCommit_dom hl m images
  · have hf : (s.dropCommit jnl.domain).dom jnl.domain = { s.dom jnl.domain with failCode := 13 } :=
      State.dom_setDom_same (s := s.clearCommit) hl _
    rw [State.guardly_dom, State.guardly_guard, State.guardly_keeper, if_neg h, hf]
    exact ⟨rfl, rfl, rfl⟩

/-! ### The background pass -/

/-- A list with its indices. -/
theorem zip_range_eq_map {α : Type} (l : List α) (x : α) :
    l.zip (List.range l.length) = (List.range l.length).map fun i => (l.getD i x, i) := by
  refine List.ext_getElem (by simp) fun i h1 h2 => ?_
  have h : i < l.length := by simpa using h2
  simp [h]

theorem runLeaves_length (id : Nat) (blocks : List Bytes) : (runLeaves id blocks).length = blocks.length := by
  simp [runLeaves]

theorem runLeaves_getD (id : Nat) {blocks : List Bytes} {i : Nat} (h : i < blocks.length) :
    (runLeaves id blocks).getD i [] = merkleLeaf id i (blocks.getD i []) := by
  simp [runLeaves, h]

/-- A leaf put into the node cache is found there (R105). -/
theorem State.putLeaves_leafAt (s : State) (c : Chip) (base : Nat) {l : List Bytes} {i : Nat} (h : i < l.length) :
    (s.putLeaves c base l).leafAt c (base + i) = some (l.getD i []) := by
  have hf : ((l.zip (List.range l.length)).map fun p => ({ chip := c, block := base + p.2, digest := p.1 } : Leaf)).find?
      (fun x => decide (x.chip = c) && decide (x.block = base + i)) = some { chip := c, block := base + i, digest := l.getD i [] } := by
    rw [zip_range_eq_map l [], List.map_map, List.find?_map]
    have hr : (List.range l.length).find? (fun j => decide (j = i)) = some i := by
      rw [List.find?_range_eq_some]
      exact ⟨by simp, List.mem_range.2 h, fun j hj => by simpa using hj.ne⟩
    have hp : ((fun x : Leaf => decide (x.chip = c) && decide (x.block = base + i)) ∘
        ((fun p : Bytes × Nat => ({ chip := c, block := base + p.2, digest := p.1 } : Leaf)) ∘ fun i => (l.getD i [], i)))
        = fun j => decide (j = i) := by
      funext j
      simp
    rw [hp, hr]
    rfl
  change (List.find? _ (_ ++ _)).map Leaf.digest = _
  rw [List.find?_append, hf]
  rfl

/-- What a burst of the background pass does: its leaves, or with the last block the comparison (R105, R114). -/
def State.readBurst (s : State) (d k : Nat) (r : Region) (blocks recovery : List Bytes) : State :=
  if blocks.length < r.count then s.putLeaves r.chip r.base (runLeaves r.regionId blocks)
  else if r.action ≠ 0 ∧ s.remapOnly then s.remapRegion d k r recovery
  else s.checkRegion d k r blocks recovery

theorem State.readBurst_whole {s : State} {r : Region} {blocks : List Bytes} (h : blocks.length = r.count)
    (ha : r.action ≠ 0 → s.boot.recovery = false) (d k : Nat) (recovery : List Bytes) :
    s.readBurst d k r blocks recovery = s.checkRegion d k r blocks recovery := by
  have h1 : ¬ (r.action ≠ 0 ∧ s.remapOnly = true) := fun hc => by simp [State.remapOnly, ha hc.1] at hc
  rw [State.readBurst, if_neg (by omega), if_neg h1]

theorem execBackgroundBurst_of {s : State} {d k : Nat} {r : Region} {blocks : List Bytes} (hg : s.guard.running = true)
    (hs : (s.dom d).state = .released) (hr : s.region? d k = some r) (hm : r.matched = false) (hv : r.vbr = false)
    (hb : blocks ≠ []) (hl : blocks.length ≤ r.count) (hp : (s.sport r.chip.port).running = true)
    (hh : s.portHandled r.chip.port = true) (recovery : List Bytes) :
    exec (.backgroundBurst d k blocks recovery) s = .next (s.guardly fun s => s.readBurst d k r blocks recovery) := by
  change execBackgroundBurst d k blocks recovery s = _
  rw [execBackgroundBurst, hr]
  dsimp only
  rw [if_neg (by simp [hg, hs, hm, hv, hb, hl, hp, hh])]
  rfl

theorem execBackgroundBurst_reads {s : State} {d k : Nat} {r : Region} {blocks : List Bytes} (recovery : List Bytes)
    (hg : s.guard.running = true)
    (hs : (s.dom d).state = .released) (hr : s.region? d k = some r) (hm : r.matched = false) (hv : r.vbr = false)
    (hw : r.rewritten = false) (hb : blocks ≠ []) (hl : blocks.length ≤ r.count) (hp : (s.sport r.chip.port).running = true)
    (hh : s.portHandled r.chip.port = true) (ha : r.action ≠ 0 → s.boot.recovery = false ∧ s.recoverRun r = false) :
    ∃ t, exec (.backgroundBurst d k blocks recovery) s = .next t
      ∧ (blocks.length < r.count → t.guard.domains = s.guard.domains
          ∧ ∀ i, i < blocks.length → t.leafAt r.chip (r.base + i) = some (merkleLeaf r.regionId i (blocks.getD i [])))
      ∧ (blocks.length = r.count ∧ runRoot r.regionId blocks = r.root →
          t.region? d k = some { r with matched := true, onRecovery := false } ∧ (t.dom d).state = .released)
      ∧ (blocks.length = r.count → runRoot r.regionId blocks ≠ r.root → r.action = 0 →
          (t.dom d).state = .failedHeld ∧ (t.dom d).failCode = 6) := by
  have hi : s.recoverRun r = true → r.imageOk recovery = true := by
    by_cases h0 : r.action = 0
    · intro h
      unfold State.recoverRun at h
      split at h <;> simp [h0] at h
    · simp [(ha h0).2]
  obtain ⟨hok, hfail⟩ := State.checkRegion_first (blocks := blocks) hr hw hi
  have ha' : r.action ≠ 0 → s.boot.recovery = false := fun h => (ha h).1
  refine ⟨_, execBackgroundBurst_of hg hs hr hm hv hb hl hp hh recovery, fun h => ?_, fun h => ?_, fun h hn h0 => ?_⟩
  · have e : s.readBurst d k r blocks recovery = s.putLeaves r.chip r.base (runLeaves r.regionId blocks) := if_pos h
    refine ⟨by rw [State.guardly_guard, e]; rfl, fun i hlt => ?_⟩
    rw [State.leafAt, State.guardly_guard, e, ← runLeaves_getD r.regionId hlt]
    exact s.putLeaves_leafAt r.chip r.base (by rwa [runLeaves_length])
  · rw [State.guardly_dom, State.guardly_region?, State.readBurst_whole h.1 ha', ← hs]
    exact hok h
  · rw [State.guardly_dom, State.readBurst_whole h ha']
    obtain ⟨h1, h2, -⟩ := hfail (fun e => hn e.2) h0
    exact ⟨h1, h2⟩

end Sys2Proof.Machine
open Sys2Proof Sys2Proof.Machine

/-- Settles O25: each row by its own case. -/
theorem guardReadingCompletes : Obligations.GuardReadingCompletes := by
  intro s d k bytes blocks recovery
  refine ⟨fun port answers p hp hs => execFlashResetWaitEnd_starts answers hp hs, fun hg hc => ⟨?_, ?_, ?_⟩, ?_⟩
  · exact fun he hm hmf hp hd hl ht hr hn => execManifestReadDone_reads hg hc he hm hmf hp hd hl ht hr hn
  · exact fun r hr hm hn hp => execRegionReadDone_reads hg hc hr hm hn hp blocks recovery
  · exact fun jnl images hj hd hn he hm hs hp => execGuardCommitResume_resumes hg hc hj hd hn he hm hs hp bytes images
  · exact fun r hg hs hr hm hv hw hb hl hp hh ha => execBackgroundBurst_reads recovery hg hs hr hm hv hw hb hl hp hh ha
end

section
/-! The Sieve's service of host commands (R85, R86, R108, R113, R115, R118 to R122). -/
namespace Sys2Proof.Machine
open Sys2Proof

/-! ### A buffered program goes out -/

/-- The issue of a buffered program changes the port's buffer and what is sent alone (R122). -/
theorem State.issueProgram_of (s : State) (p : Port) : ∃ o, s.issueProgram p =
    { s.mapSport p fun x => { x with program := none } with out := o } := by
  unfold State.issueProgram
  split
  · exact ⟨_, rfl⟩
  · next h =>
    refine ⟨s.out, ?_⟩
    have e : { s.sport p with program := none } = s.sport p := by rw [← h]
    cases p
    · have e : { s.guard.portA with program := none } = s.guard.portA := e
      simp only [State.mapSport, State.mapGuard, e]
    · have e : { s.guard.portB with program := none } = s.guard.portB := e
      simp only [State.mapSport, State.mapGuard, e]

theorem State.issueProgram_sport (s : State) (p : Port) :
    (s.issueProgram p).sport p = { s.sport p with program := none } := by
  obtain ⟨o, e⟩ := s.issueProgram_of p
  rw [e]
  exact s.sport_mapSport p _

theorem State.issueProgram_blockPolicy (s : State) (p : Port) (c : Chip) (b : Nat) :
    (s.issueProgram p).blockPolicy c b = s.blockPolicy c b := by
  obtain ⟨o, e⟩ := s.issueProgram_of p
  rw [e]
  cases p <;> rfl

theorem State.issueProgram_allPass (s : State) (p : Port) (c : Chip) (b n : Nat) :
    (s.issueProgram p).allPass c b n = s.allPass c b n := by
  simp only [State.allPass, State.issueProgram_blockPolicy]

theorem State.issueProgram_coverOf (s : State) (p : Port) (c : Chip) (b : Nat) :
    (s.issueProgram p).coverOf c b = s.coverOf c b := by
  obtain ⟨o, e⟩ := s.issueProgram_of p
  rw [e]
  cases p <;> rfl

theorem State.issueProgram_mirror (s : State) (p : Port) : (s.issueProgram p).guard.mirror = s.guard.mirror := by
  obtain ⟨o, e⟩ := s.issueProgram_of p
  rw [e]
  cases p <;> rfl

theorem State.issueProgram_policy (s : State) (p : Port) : (s.issueProgram p).guard.policy = s.guard.policy := by
  obtain ⟨o, e⟩ := s.issueProgram_of p
  rw [e]
  cases p <;> rfl

theorem State.issueProgram_pltAlertLow (s : State) (p : Port) : (s.issueProgram p).pltAlertLow = s.pltAlertLow := by
  obtain ⟨o, e⟩ := s.issueProgram_of p
  rw [e]
  cases p <;> rfl

/-- A command of its class on a port that serves acts on the state after that. -/
theorem State.spi_of {s : State} {c : SpiCmd} {e : AllowEntry} (hu : s.portUp c.chip.port = true) (ha : s.allowed c = some e)
    {cls : Nat} (hc : e.cls = cls) (act : State → AllowEntry → State) :
    s.spi c cls act = act (s.issueProgram c.chip.port) e := by
  rw [State.spi, ha]
  exact if_pos ⟨hu, hc⟩

theorem State.next_spi {s : State} {c : SpiCmd} {e : AllowEntry} (hu : s.portUp c.chip.port = true)
    (ha : s.allowed c = some e) {cls : Nat} (hc : e.cls = cls) (act : State → AllowEntry → State) :
    (.next (s.spi c cls act) : Host.Outcome State Fault Refusal) = .next (act (s.issueProgram c.chip.port) e) :=
  congrArg Host.Outcome.next (State.spi_of hu ha hc act)

/-! ### Flags -/

theorem State.setSieve_evt (s : State) {b : Nat} (hb : b < 9) (i : Nat) :
    (s.setSieve b).guard.evt.getLsbD i = (s.guard.evt.getLsbD i || decide (i = b)) := by
  have e : (s.guard.evt ||| (1#9 <<< b)).getLsbD i = (s.guard.evt.getLsbD i || decide (i = b)) := by
    simp only [BitVec.getLsbD_or, BitVec.getLsbD_shiftLeft, BitVec.getLsbD_one]
    congr 1
    grind
  unfold State.setSieve
  dsimp only
  split
  · next h =>
    have h : s.guard.evt.getLsbD b = true := h
    by_cases hi : i = b
    · subst hi
      simp [h]
    · simp [hi]
  · rw [← e]
    exact congrArg (fun g : Guard => g.evt.getLsbD i) (State.deviceEvent_get _ (fld := .guard) (by simp))

theorem State.setSieve_out (s : State) (b : Nat) {o : Out} (h : o ∈ s.out) : o ∈ (s.setSieve b).out := by
  have emit (t : State) (x : Out) (ht : o ∈ t.out) : o ∈ (t.tlp x).out := by
    unfold State.tlp
    split
    · exact ht
    · exact List.mem_cons_of_mem _ ht
  unfold State.setSieve
  dsimp only
  split
  · exact h
  · unfold State.deviceEvent State.sendVec
    dsimp only
    split
    · exact emit _ _ h
    · split <;> exact h

theorem State.setSieve_domains (s : State) (b : Nat) : (s.setSieve b).guard.domains = s.guard.domains := by
  have e (u : State) : u.deviceEvent.guard = u.guard := State.deviceEvent_get u (fld := .guard) (by simp)
  unfold State.setSieve
  dsimp only
  split
  · rfl
  · rw [e]
    rfl

/-- Flags but STREAM_MISMATCH leave PLT_ALERT_N as it is (R131). -/
theorem State.setSieve_pltAlertLow (s : State) {b : Nat} (hb : b < 9) (h0 : b ≠ 0) :
    (s.setSieve b).pltAlertLow = s.pltAlertLow := by
  have h1 : (s.setSieve b).guard.evt.getLsbD 0 = s.guard.evt.getLsbD 0 := by
    rw [s.setSieve_evt hb]
    simp [h0.symm]
  rw [State.pltAlertLow, State.pltAlertLow, h1, s.setSieve_domains]

/-- Where PLT_ALERT_N does not fall, a change of the guard is all that happens. -/
theorem State.guardly_same {s : State} {f : State → State} (h : (f s).pltAlertLow = s.pltAlertLow) : s.guardly f = f s := by
  unfold State.guardly
  simp [h]

/-! ### Reads -/

/-- A read of one block (R108). -/
def State.serveOne (s : State) (cmd : SpiCmd) (len : Nat) (flash : List FlashBlock) : State × Bytes × Bool :=
  s.serveBlock cmd.chip (cmd.addr / 4096) (cmd.addr % 4096) (cmd.addr % 4096 + len) flash none

/-- A row that reads part of one block, which leaves PLT_ALERT_N as it is. -/
theorem execHostRead_of {s : State} {cmd : SpiCmd} {e : AllowEntry} {len : Nat} {flash : List FlashBlock}
    (hu : s.portUp cmd.chip.port = true) (ha : s.allowed cmd = some e) (hc : e.cls = 1) (h0 : len ≠ 0)
    (hl : cmd.addr % 4096 + len ≤ 4096) (hf : s.flashGiven cmd.chip (cmd.addr / 4096) 1 flash = true)
    {t : State} {out : Bytes} {dead : Bool} (hs : (s.issueProgram cmd.chip.port).serveOne cmd len flash = (t, out, dead))
    (ht : t.pltAlertLow = s.pltAlertLow) :
    exec (.hostRead cmd len flash none) s = .next (t.emit (.spiData cmd.chip.port out)) := by
  have hn : (cmd.addr + len + 4095) / 4096 - cmd.addr / 4096 = 1 := by omega
  have hlo : max cmd.addr (4096 * (cmd.addr / 4096)) - 4096 * (cmd.addr / 4096) = cmd.addr % 4096 := by omega
  have hhi : min (cmd.addr + len) (4096 * (cmd.addr / 4096) + 4096) - 4096 * (cmd.addr / 4096) = cmd.addr % 4096 + len := by
    omega
  have e1 : exec (.hostRead cmd len flash none) s = .next (s.guardly fun s => s.spi cmd 1 fun s _ =>
      (s.serveOne cmd len flash).1.emit (.spiData cmd.chip.port (s.serveOne cmd len flash).2.1)) := by
    change execHostRead cmd len flash none s = _
    simp only [execHostRead, hn, h0, hf, serveRun, hlo, hhi, State.serveOne]
    rfl
  have e2 : (s.spi cmd 1 fun s _ =>
      (s.serveOne cmd len flash).1.emit (.spiData cmd.chip.port (s.serveOne cmd len flash).2.1))
      = t.emit (.spiData cmd.chip.port out) := by
    rw [State.spi_of hu ha hc, hs]
  rw [e1, State.guardly_same (by rw [e2]; exact ht), e2]

theorem State.serveOne_pass {s : State} {cmd : SpiCmd} (hp : s.blockPolicy cmd.chip (cmd.addr / 4096) = .pass)
    (ho : (s.sport cmd.chip.port).owed = none) (len : Nat) (flash : List FlashBlock) :
    s.serveOne cmd len flash = (s, slice (contentOf flash (cmd.addr / 4096)) (cmd.addr % 4096) len, false) := by
  simp [State.serveOne, State.serveBlock, hp, ho]

theorem State.serveOne_deny {s : State} {cmd : SpiCmd} (hp : s.blockPolicy cmd.chip (cmd.addr / 4096) = .deny) (len : Nat)
    (flash : List FlashBlock) : s.serveOne cmd len flash = (s.denyRead cmd.chip.port, ones len, false) := by
  simp [State.serveOne, State.serveBlock, hp]

theorem State.serveOne_mirror {s : State} {cmd : SpiCmd} {c : Nat × Nat × Region} {h : Held}
    (hp : s.blockPolicy cmd.chip (cmd.addr / 4096) = .verify) (hc : s.coverOf cmd.chip (cmd.addr / 4096) = some c)
    (hm : s.guard.mirror.find? (fun h => h.chip = cmd.chip && h.block = cmd.addr / 4096) = some h) (len : Nat)
    (flash : List FlashBlock) : s.serveOne cmd len flash = (s, slice h.data (cmd.addr % 4096) len, false) := by
  simp [State.serveOne, State.serveBlock, State.serveChecked, hp, hc, hm]

theorem State.denyRead_pltAlertLow (s : State) (p : Port) : (s.denyRead p).pltAlertLow = s.pltAlertLow := by
  unfold State.denyRead
  rw [State.setSieve_pltAlertLow _ (by simp) (by simp)]
  split
  · exact s.setSieve_pltAlertLow (by simp) (by simp)
  · rfl

/-! ### Writes and resets -/

theorem State.hostReset_sport {s : State} {q : Policy} (h : s.guard.policy = some q) (p : Port) :
    (s.hostReset p).sport p = { s.sport p with mode := (q.port p).initMode, owed := none } := by
  rw [State.hostReset, h]
  exact s.sport_mapSport p _

/-- A refused write sets its flag and buffers nothing (R121). -/
theorem State.refuseWrite_flags (s : State) (c : SpiCmd) :
    (s.refuseWrite c).guard.evt.getLsbD 3 = true ∧ ∀ p, (s.refuseWrite c).sport p = s.sport p := by
  refine ⟨?_, (State.SamePorts.setSieve (.keep (.refl s) (by rfl)) 3).port⟩
  rw [State.refuseWrite, State.setSieve_evt _ (by simp)]
  simp

/-! ### Mismatches -/

theorem State.SamePorts.setRegion {r s : State} (h : r.SamePorts s) (d k : Nat) (f : Region → Region) :
    r.SamePorts (s.setRegion d k f) := h.setDom d _

theorem State.SamePorts.mismatch {r s : State} (h : r.SamePorts s) (c : Chip) (b code d k : Nat) (x : Region) :
    r.SamePorts (s.mismatch c b code d k x) := by
  unfold State.mismatch
  extract_lets s1 s2
  have h1 : r.SamePorts s1 := (h.setSieve 0).trans ⟨rfl, fun p => by cases p <;> rfl, rfl⟩
  have h2 : r.SamePorts s2 := h1.keep (State.logEvent_get _ _ _ (by simp))
  exact .ite (h2.failDom d code k) (.hold (h2.setRegion d k _) d _)

theorem State.buffer_owed (s : State) (c : Chip) (b : Nat) (data : Bytes) (p : Port) :
    ((s.buffer c b data).sport p).owed = (s.sport p).owed := by
  by_cases hp : p = c.port
  · rw [hp, State.buffer, State.sport_mapSport]
  · unfold State.buffer
    cases hc : c.port <;> cases p <;> simp_all <;> rfl

theorem execOwedBlockCheck_ends {s : State} {port : Port} {o : Owed} (h : (s.sport port).owed = some o) {data : Bytes}
    (hl : o.seen.length + data.length = 4096) :
    ∃ t, exec (.owedBlockCheck port data) s = .next t ∧ (t.sport port).owed = none := by
  change ∃ t, execOwedBlockCheck port data s = .next t ∧ _
  rw [execOwedBlockCheck, h]
  dsimp only
  rw [if_neg (by simpa using hl)]
  refine ⟨_, rfl, ?_⟩
  rw [State.guardly_sport]
  have h1 : ((s.mapSport port fun x => { x with owed := none }).sport port).owed = none := by rw [State.sport_mapSport]
  split
  · exact h1
  · split
    · rw [State.buffer_owed, h1]
    · rw [(State.SamePorts.mismatch (.refl _) _ _ _ _ _ _).port, h1]

theorem execMirrorRefetchDone_ends {s : State} {c : Chip} {n : Nat} (h : s.guard.lost.contains (c, n) = true) {data : Bytes}
    (hl : data.length = 4096) :
    ∃ t, exec (.mirrorRefetchDone c n data) s = .next t ∧ t.guard.lost.contains (c, n) = false := by
  have h1 : (s.guard.lost.filter fun x => x ≠ (c, n)).contains (c, n) = false := by simp
  change ∃ t, execMirrorRefetchDone c n data s = .next t ∧ _
  rw [execMirrorRefetchDone, if_neg (by simp [-List.contains_eq_mem, h, hl])]
  refine ⟨_, rfl, ?_⟩
  rw [State.guardly_guard]
  dsimp only
  split
  · exact h1
  · split
    · exact h1
    · rw [(State.SamePorts.mismatch (.refl _) _ _ _ _ _ _).lost]
      exact h1

/-! ### The rows -/

section
variable {s : State} {cmd : SpiCmd} {e : AllowEntry} (hu : s.portUp cmd.chip.port = true) (ha : s.allowed cmd = some e)
include hu ha

theorem execHostRead_serves {len : Nat} {flash : List FlashBlock} (hc : e.cls = 1) (h0 : len ≠ 0)
    (hl : cmd.addr % 4096 + len ≤ 4096) (hf : s.flashGiven cmd.chip (cmd.addr / 4096) 1 flash = true) :
    (s.blockPolicy cmd.chip (cmd.addr / 4096) = .pass → (s.sport cmd.chip.port).owed = none →
      ∃ t, exec (.hostRead cmd len flash none) s = .next t
        ∧ t = (s.issueProgram cmd.chip.port).emit
          (.spiData cmd.chip.port (slice (contentOf flash (cmd.addr / 4096)) (cmd.addr % 4096) len)))
    ∧ (s.blockPolicy cmd.chip (cmd.addr / 4096) = .deny →
      ∃ t, exec (.hostRead cmd len flash none) s = .next t ∧ .spiData cmd.chip.port (ones len) ∈ t.out
        ∧ t.guard.evt.getLsbD 1 = true)
    ∧ (∀ c h, s.blockPolicy cmd.chip (cmd.addr / 4096) = .verify → s.coverOf cmd.chip (cmd.addr / 4096) = some c →
      s.guard.mirror.find? (fun h => h.chip = cmd.chip && h.block = cmd.addr / 4096) = some h →
      ∃ t, exec (.hostRead cmd len flash none) s = .next t
        ∧ t = (s.issueProgram cmd.chip.port).emit (.spiData cmd.chip.port (slice h.data (cmd.addr % 4096) len))) := by
  have hp (b : Nat) := s.issueProgram_blockPolicy cmd.chip.port cmd.chip b
  have halert := s.issueProgram_pltAlertLow cmd.chip.port
  have read {t : State} {out : Bytes} {dead : Bool} := execHostRead_of (t := t) (out := out) (dead := dead) hu ha hc h0 hl hf
  refine ⟨fun h ho => ⟨_, ?_, rfl⟩, fun h => ?_, fun c x h hco hx => ⟨_, ?_, rfl⟩⟩
  · exact read (State.serveOne_pass ((hp _).trans h) (by rw [State.issueProgram_sport]; exact ho) _ _) halert
  · refine ⟨_, read (State.serveOne_deny ((hp _).trans h) _ _) ((State.denyRead_pltAlertLow _ _).trans halert),
      List.mem_cons_self, ?_⟩
    rw [State.emit_guard, State.denyRead, State.setSieve_evt _ (by simp)]
    simp
  · exact read (State.serveOne_mirror ((hp _).trans h) ((State.issueProgram_coverOf ..).trans hco)
      (by rw [State.issueProgram_mirror]; exact hx) _ _) halert

theorem execHostProgram_writes (hc : e.cls = 2) (data : Bytes) :
    ∃ t, exec (.hostProgram cmd data) s = .next t
      ∧ (s.allPass cmd.chip (cmd.addr / 4096) ((cmd.addr + data.length + 4095) / 4096 - cmd.addr / 4096) = true →
          (t.sport cmd.chip.port).program = some (cmd.chip, cmd.addr, data))
      ∧ (s.allPass cmd.chip (cmd.addr / 4096) ((cmd.addr + data.length + 4095) / 4096 - cmd.addr / 4096) = false →
          (t.sport cmd.chip.port).program = none ∧ t.guard.evt.getLsbD 3 = true) := by
  refine ⟨_, State.next_spi hu ha hc _, fun h => ?_, fun h => ?_⟩
  · rw [State.issueProgram_allPass, if_pos h, State.sport_mapSport]
  · obtain ⟨hf, hs⟩ := (s.issueProgram cmd.chip.port).refuseWrite_flags cmd
    rw [State.issueProgram_allPass, if_neg (by simp [h]), hs, State.issueProgram_sport]
    exact ⟨rfl, hf⟩

theorem execHostErase_erases (hc : e.cls = 3) :
    ∃ t, exec (.hostErase cmd) s = .next t
      ∧ (s.allPass cmd.chip (cmd.addr / 4096 / eraseBlocks e.param * eraseBlocks e.param) (eraseBlocks e.param) = true →
          t = (s.issueProgram cmd.chip.port).forward cmd (.erase (4 * eraseBlocks e.param)))
      ∧ (s.allPass cmd.chip (cmd.addr / 4096 / eraseBlocks e.param * eraseBlocks e.param) (eraseBlocks e.param) = false →
          t.guard.evt.getLsbD 3 = true) := by
  refine ⟨_, State.next_spi hu ha hc _, fun h => ?_, fun h => ?_⟩
  · dsimp only
    rw [State.issueProgram_allPass, if_pos h]
  · dsimp only
    rw [State.issueProgram_allPass, if_neg (by simp [h])]
    exact (State.refuseWrite_flags _ cmd).1

theorem execHostSfdpRead_serves (hc : e.cls = 7) {p : Policy} {copy : Bytes} (len : Nat) (hp : s.guard.policy = some p)
    (hl : (s.sport cmd.chip.port).sfdp.lookup cmd.chip = some copy) :
    ∃ t, exec (.hostSfdpRead cmd len) s = .next t ∧ t = (s.issueProgram cmd.chip.port).emit
      (.spiData cmd.chip.port (slice (p.sfdp cmd.chip.port copy) cmd.addr len)) := by
  refine ⟨_, State.next_spi hu ha hc _, ?_⟩
  have hl' : ((s.issueProgram cmd.chip.port).sport cmd.chip.port).sfdp.lookup cmd.chip = some copy := by
    rw [State.issueProgram_sport]
    exact hl
  simp only [State.issueProgram_policy, hp, hl']

theorem execHostResetCmd_resets (hc : e.cls = 9) {p : Policy} (hp : s.guard.policy = some p) :
    ∃ t, exec (.hostResetCmd cmd) s = .next t ∧ (t.sport cmd.chip.port).owed = none
      ∧ (t.sport cmd.chip.port).mode = (p.port cmd.chip.port).initMode := by
  refine ⟨_, State.next_spi hu ha hc _, ?_⟩
  rw [State.hostReset_sport ((s.issueProgram_policy _).trans hp)]
  exact ⟨rfl, rfl⟩

theorem execHostModeSwitch_switches (hc : e.cls = 10) :
    ∃ t, exec (.hostModeSwitch cmd) s = .next t ∧ (t.sport cmd.chip.port).mode = e.param := by
  refine ⟨_, State.next_spi hu ha hc _, ?_⟩
  rw [State.sport_mapSport]

end

theorem execHostOpcodeDenied_denies {s : State} {cmd : SpiCmd} (hu : s.portUp cmd.chip.port = true)
    (ha : s.allowed cmd = none) :
    ∃ t, exec (.hostOpcodeDenied cmd) s = .next t ∧ t.guard.evt.getLsbD 2 = true ∧ .spiHighZ cmd.chip.port ∈ t.out := by
  refine ⟨_, congrArg Host.Outcome.next (if_pos ⟨hu, by rw [ha]; rfl⟩), ?_, State.setSieve_out _ _ List.mem_cons_self⟩
  rw [State.setSieve_evt _ (by simp)]
  simp

theorem execHostResetPin_resets {s : State} {port : Port} {p : Policy} (hu : s.portUp port = true)
    (hp : s.guard.policy = some p) :
    ∃ t, exec (.hostResetPin port) s = .next t ∧ (t.sport port).owed = none
      ∧ (t.sport port).mode = (p.port port).initMode := by
  refine ⟨_, congrArg Host.Outcome.next (if_pos hu), ?_⟩
  rw [State.hostReset_sport hp]
  exact ⟨rfl, rfl⟩

end Sys2Proof.Machine
open Sys2Proof Sys2Proof.Machine

/-- Settles O27: each class by its own case, on the state in which the earlier program has been issued. -/
theorem sieveCompletes : Obligations.SieveCompletes := by
  intro s cmd e data len flash port b u
  refine ⟨fun hu ha => ⟨fun hc h0 hl hf => ?_, ?_, ?_, ?_, ?_, ?_, ?_, ?_, ?_, ?_⟩, execHostOpcodeDenied_denies,
    fun _ => execHostResetPin_resets, fun _ h hl => execOwedBlockCheck_ends h hl,
    fun _ _ h hl => execMirrorRefetchDone_ends h hl⟩
  · exact execHostRead_serves hu ha hc h0 hl hf
  · exact fun hc => execHostProgram_writes hu ha hc data
  · exact execHostErase_erases hu ha
  · exact fun hc => ⟨_, State.next_spi hu ha hc _, rfl⟩
  · exact fun hc w => ⟨_, State.next_spi hu ha hc _, rfl⟩
  · exact fun hc => ⟨_, State.next_spi hu ha hc _, rfl⟩
  · exact fun hc p copy hp hl => execHostSfdpRead_serves hu ha hc len hp hl
  · exact fun hc => ⟨_, State.next_spi hu ha hc _, rfl⟩
  · exact fun hc p hp => execHostResetCmd_resets hu ha hc hp
  · exact execHostModeSwitch_switches hu ha
end

section
/-! The SPDM responder (R136 to R139). -/
namespace Sys2Proof.Machine
open Sys2Proof

/-! ### Messages -/

theorem State.pend_out (s : State) (b : Binding) : (s.pend b).out = s.ibiOf b ++ s.out := by
  unfold State.pend State.ibiOf State.raiseIbi
  by_cases hb : b = .i3c <;> by_cases hi : s.mgmt.ibiOn = true <;> by_cases hm : s.i3cMode = true <;> simp [hb, hi, hm]

theorem State.spdmSend_out (s : State) (ch : Channel) (data : Bytes) :
    (s.spdmSend ch data).out = s.ibiOf ch.binding ++ .spdm ch data :: s.out := State.pend_out _ _

theorem State.spdmFail_out (s : State) (ch : Channel) (code : Nat) :
    (s.spdmFail ch code).out = s.ibiOf ch.binding ++ .spdmError ch code :: s.out := State.pend_out _ _

theorem State.spdmSend_mgmt (s : State) (ch : Channel) (data : Bytes) : (s.spdmSend ch data).mgmt = s.mgmt :=
  State.pend_get _ _ (fld := .mgmt) (by simp)

theorem State.spdmFail_mgmt (s : State) (ch : Channel) (code : Nat) : (s.spdmFail ch code).mgmt = s.mgmt :=
  State.pend_get _ _ (fld := .mgmt) (by simp)

/-- `u` has sent what `s` has, and is as ready for an in-band interrupt. -/
structure State.Quiet (s u : State) : Prop where
  out : u.out = s.out
  ibiOn : u.mgmt.ibiOn = s.mgmt.ibiOn
  dynAddr : u.mgmt.dynAddr = s.mgmt.dynAddr

theorem State.Quiet.ibiOf {s u : State} (h : s.Quiet u) (b : Binding) : u.ibiOf b = s.ibiOf b := by
  rw [State.ibiOf, State.ibiOf, State.i3cMode, State.i3cMode, h.ibiOn, h.dynAddr]

/-- A state with the same messages and management. -/
theorem State.Quiet.of_eq {s u : State} (ho : u.out = s.out) (hm : u.mgmt = s.mgmt) : s.Quiet u :=
  ⟨ho, by rw [hm], by rw [hm]⟩

/-- The messages seen, with one more request and its response. -/
def State.saw (s : State) (msg data : Bytes) : State := s.mapMgmt fun m => { m with seen := m.seen ++ msg ++ data }

/-- The requester takes less at a time than the response has (R136). -/
def State.tooLong (s : State) (data : Bytes) : Prop := s.mgmt.xfer ≠ 0 ∧ s.mgmt.xfer < data.length

theorem State.respond_long {u : State} {data : Bytes} (h : u.tooLong data) (ch : Channel) (msg : Bytes) :
    u.respond ch msg data = ((u.saw msg data).mapMgmt fun m => { m with reply := data }).spdmFail ch 0x0F := if_pos h

theorem State.respond_short {u : State} {data : Bytes} (h : ¬ u.tooLong data) (ch : Channel) (msg : Bytes) :
    u.respond ch msg data = (u.saw msg data).spdmSend ch data := if_neg h

/-- A response answers its request, whole or through CHUNK_GET (R136). -/
theorem State.respond_answers {s u : State} (h : s.Quiet u) (ch : Channel) (msg data : Bytes) :
    s.answersSpdm (u.respond ch msg data) ch data := by
  unfold State.answersSpdm
  by_cases hx : u.tooLong data
  · have hq : s.Quiet ((u.saw msg data).mapMgmt fun m => { m with reply := data }) := ⟨h.out, h.ibiOn, h.dynAddr⟩
    rw [State.respond_long hx, State.spdmFail_mgmt, State.spdmFail_out, hq.ibiOf, hq.out]
    exact (if_pos hx).mpr ⟨rfl, rfl⟩
  · have hq : s.Quiet (u.saw msg data) := ⟨h.out, h.ibiOn, h.dynAddr⟩
    rw [State.respond_short hx, State.spdmSend_mgmt, State.spdmSend_out, hq.ibiOf, hq.out]
    exact (if_neg hx).mpr rfl

/-- It adds to the messages seen, and may leave itself for CHUNK_GET. -/
theorem State.respond_mgmt (u : State) (ch : Channel) (msg data : Bytes) :
    ∃ l, (u.respond ch msg data).mgmt = { u.mgmt with seen := u.mgmt.seen ++ msg ++ data, reply := l } := by
  by_cases hx : u.tooLong data
  · exact ⟨data, by rw [State.respond_long hx, State.spdmFail_mgmt]; rfl⟩
  · exact ⟨u.mgmt.reply, by rw [State.respond_short hx, State.spdmSend_mgmt]; rfl⟩

/-- A request in the connection state it needs runs. -/
theorem State.next_spdmAt {s : State} {ch : Channel} {ok : Mgmt → Bool} (hu : s.spdmUp ch = true) (hk : ok s.mgmt = true)
    (run : State → State) : (.next (s.spdmAt ch ok run) : Host.Outcome State Fault Refusal) = .next (run s) := by
  rw [State.spdmAt, if_neg (by simp [hu]), if_pos hk]

/-- A response signed with the key of a slot that is there, once the DRBGs are ready. -/
theorem State.signed_of {s : State} {slot : Nat} (hs : s.slotHere slot = true) (he : s.ent.state = .ready) (ch : Channel)
    (msg body : Bytes) (run : State → State) : s.signed ch slot msg body run =
      run ((s.scDraw.drawMany (s.spdmTry slot msg body).1).respond ch msg (body ++ s.spdmSig slot msg body)) := by
  rw [State.signed, if_neg (by simp [hs]), if_neg (by simp [he])]

theorem State.Quiet.scDraw {s u : State} (h : s.Quiet u) (n : Nat) : s.Quiet (u.scDraw.drawMany n) := by
  have ho : (u.scDraw.drawMany n).out = u.out := State.scDraw_get u (fld := .out) (by simp)
  have hm : (u.scDraw.drawMany n).mgmt = u.mgmt := State.scDraw_get u (fld := .mgmt) (by simp)
  exact ⟨ho.trans h.out, by rw [hm, h.ibiOn], by rw [hm, h.dynAddr]⟩

section
variable {s : State} {ch : Channel} (msg : Bytes) (hu : s.spdmUp ch = true)
include hu

/-! ### Connection -/

theorem execGetVersion_answers :
    ∃ t, exec (.getVersion msg ch) s = .next t ∧ t.mgmt.conn = .version ∧ t.mgmt.spdm = .none
      ∧ t.mgmt.session.isOpen = false ∧ s.answersSpdm t ch [0x04, 0x12, 0x13] := by
  refine ⟨_, congrArg Host.Outcome.next (if_neg (by simp [hu])), ?_⟩
  obtain ⟨l, e⟩ := State.respond_mgmt
    ((s.endSecured).mapMgmt fun m => { m with conn := .version, chunk := [], reply := [], seen := [], xfer := 0 }) ch msg
    [0x04, 0x12, 0x13]
  rw [e]
  exact ⟨rfl, rfl, rfl, State.respond_answers ⟨rfl, rfl, rfl⟩ ch msg _⟩

theorem execGetCapabilities_answers (hc : s.mgmt.conn = .version) :
    ∃ t, exec (.getCapabilities msg ch) s = .next t ∧ t.mgmt.conn = .capabilities ∧ t.mgmt.xfer = fieldAt msg 12 4
      ∧ s.answersSpdm t ch (0x61 :: capabilities) := by
  refine ⟨_, State.next_spdmAt hu (by simp [hc]) _, ?_⟩
  obtain ⟨l, e⟩ := State.respond_mgmt (s.mapMgmt fun m => { m with conn := .capabilities, xfer := fieldAt msg 12 4 }) ch msg
    (0x61 :: capabilities)
  rw [e]
  exact ⟨rfl, rfl, State.respond_answers ⟨rfl, rfl, rfl⟩ ch msg _⟩

theorem execNegotiateAlgorithms_answers (hc : s.mgmt.conn = .capabilities) :
    ∃ t, exec (.negotiateAlgorithms msg ch) s = .next t
      ∧ (offersOptions msg = true → t.mgmt.conn = .negotiated ∧ s.answersSpdm t ch (0x63 :: algorithms))
      ∧ (offersOptions msg = false → t = s.spdmFail ch 0x01) := by
  refine ⟨_, State.next_spdmAt hu (by simp [hc]) _, fun h => ?_, fun h => if_neg (by simp [h])⟩
  obtain ⟨l, e⟩ := State.respond_mgmt (s.mapMgmt fun m => { m with conn := .negotiated }) ch msg (0x63 :: algorithms)
  rw [if_pos h, e]
  exact ⟨rfl, State.respond_answers ⟨rfl, rfl, rfl⟩ ch msg _⟩

/-! ### Requests of a negotiated connection -/

section
variable (hc : s.mgmt.conn = .negotiated)
include hc

theorem execGetDigests_answers :
    ∃ t, exec (.getDigests msg ch) s = .next t
      ∧ s.answersSpdm t ch ([0x01, BitVec.ofNat 8 ((([0, 1].filter s.slotHere).map (2 ^ ·)).sum)]
          ++ ([0, 1].filter s.slotHere).flatMap fun k => Config.sha384 (s.chainOf k)) :=
  ⟨_, State.next_spdmAt hu (by simp [Mgmt.talks, hc]) _, State.respond_answers ⟨rfl, rfl, rfl⟩ ch msg _⟩

theorem execGetCertificate_answers {slot off len : Nat} (hs : s.slotHere slot = true) (ho : off ≤ (s.chainOf slot).length) :
    ∃ t, exec (.getCertificate slot off len msg ch) s = .next t
      ∧ s.answersSpdm t ch ([0x02, BitVec.ofNat 8 slot] ++ leBytes 2 (slice (s.chainOf slot) off len).length
          ++ leBytes 2 ((s.chainOf slot).length - off - (slice (s.chainOf slot) off len).length)
          ++ slice (s.chainOf slot) off len) := by
  refine ⟨_, State.next_spdmAt hu (by simp [Mgmt.talks, hc]) _, ?_⟩
  rw [if_neg (by simp [hs, ho])]
  exact State.respond_answers ⟨rfl, rfl, rfl⟩ ch msg _

theorem execChallenge_answers {slot : Nat} (hs : s.slotHere slot = true) (he : s.ent.state = .ready) :
    ∃ t, let body := [0x03, BitVec.ofNat 8 slot] ++ Config.sha384 (s.chainOf slot) ++ s.freeNow 32
      exec (.challenge slot msg ch) s = .next t ∧ s.answersSpdm t ch (body ++ s.draw.spdmSig slot msg body) := by
  refine ⟨_, (State.next_spdmAt hu (by simp [Mgmt.talks, hc]) _).trans
    (congrArg Host.Outcome.next (State.signed_of (s := s.draw) hs he ch msg _ id)), ?_⟩
  exact State.respond_answers (State.Quiet.scDraw (u := s.draw) ⟨rfl, rfl, rfl⟩ _) ch msg _

theorem execGetMeasurements_answers {slot : Nat} (index : Nat) {sign : Bool}
    (hs : sign = true → s.slotHere slot = true ∧ s.ent.state = .ready) :
    ∃ t, let body := [0x60] ++ (if index = 0 then leBytes 1 measIndices.length
          else if index = 0xFF then measIndices.flatMap s.measBlock else s.measBlock index)
      exec (.getMeasurements slot index sign msg ch) s = .next t
        ∧ s.answersSpdm t ch (if sign then body ++ s.spdmSig slot msg body else body) := by
  refine ⟨_, State.next_spdmAt hu (by simp [Mgmt.talks, hc]) _, ?_⟩
  cases sign with
  | false => exact State.respond_answers (u := s.draw) ⟨rfl, rfl, rfl⟩ ch msg _
  | true =>
    obtain ⟨hp, he⟩ := hs rfl
    rw [if_pos rfl, if_pos rfl, State.signed_of hp he]
    exact State.respond_answers (State.Quiet.scDraw (.of_eq rfl rfl) _) ch msg _

theorem execKeyExchange_starts {slot : Nat} (hn : s.mgmt.spdm = .none) (hs : s.slotHere slot = true) (he : s.ent.state = .ready) :
    ∃ t, exec (.keyExchange slot msg ch) s = .next t ∧ t.mgmt.spdm = .handshaking ∧ t.mgmt.secOn = ch.binding := by
  refine ⟨_, State.next_spdmAt hu (by simp [Mgmt.talks, hc]) _, ?_⟩
  rw [if_neg (by simp [hn]), State.signed_of (s := s.draw) hs he]
  exact ⟨rfl, rfl⟩

theorem execChunkSend_gathers {chunk : Bytes} (last : Bool) (hl : s.mgmt.chunk.length + chunk.length ≤ 69632) :
    ∃ t, exec (.chunkSend chunk last ch) s = .next t ∧ t.out = s.ibiOf ch.binding ++ .spdm ch [0x05] :: s.out
      ∧ t.mgmt = { s.mgmt with chunk := if last then [] else s.mgmt.chunk ++ chunk } := by
  refine ⟨_, State.next_spdmAt hu (by simp [Mgmt.talks, hc]) _, ?_⟩
  rw [if_neg (by omega), State.spdmSend_out, State.spdmSend_mgmt]
  exact ⟨rfl, rfl⟩

end

/-! ### The secured session -/

theorem execFinish_establishes (hh : s.mgmt.spdm = .handshaking) (hs : ch.secured = true) :
    (∃ t, exec (.finish msg true ch) s = .next t ∧ t.mgmt.spdm = .established ∧ s.answersSpdm t ch [0x65])
    ∧ ∃ t, exec (.finish msg false ch) s = .next t ∧ t.mgmt.spdm = .none ∧ t.mgmt.session.isOpen = false
        ∧ t.out = s.ibiOf ch.binding ++ .spdmError ch 0x06 :: s.out := by
  refine ⟨⟨_, State.next_spdmAt hu (by simp [hh, hs]) _, ?_⟩, ⟨_, State.next_spdmAt hu (by simp [hh, hs]) _, ?_⟩⟩
  · rw [if_pos rfl]
    obtain ⟨l, e⟩ := State.respond_mgmt (s.mapMgmt fun m =>
      { m with spdm := .established, reqKey := sessionSecret 0x102 m.reqKey m.seen,
               rspKey := sessionSecret 0x103 m.rspKey m.seen }) ch msg [0x65]
    rw [e]
    exact ⟨rfl, State.respond_answers ⟨rfl, rfl, rfl⟩ ch msg _⟩
  · rw [if_neg (by simp), State.spdmFail_mgmt, State.spdmFail_out]
    exact ⟨rfl, rfl, rfl⟩

section
variable (hh : s.mgmt.spdm = .established) (hs : ch.secured = true)
include hh hs

theorem execKeyUpdate_answers (h1 : 1 ≤ fieldAt msg 2 1) (h3 : fieldAt msg 2 1 ≤ 3) :
    ∃ t, exec (.keyUpdate msg ch) s = .next t ∧ t.mgmt.spdm = .established ∧ s.answersSpdm t ch [0x69]
      ∧ t.mgmt.reqKey = (if fieldAt msg 2 1 ≤ 2 then sessionSecret 0x104 s.mgmt.reqKey [] else s.mgmt.reqKey)
      ∧ t.mgmt.rspKey = (if fieldAt msg 2 1 = 2 then sessionSecret 0x104 s.mgmt.rspKey [] else s.mgmt.rspKey) := by
  refine ⟨_, State.next_spdmAt hu (by simp [Mgmt.secured, hh, hs]) _, ?_⟩
  rw [if_neg (by omega)]
  obtain ⟨l, e⟩ := State.respond_mgmt (s.mapMgmt fun m =>
    { m with reqKey := if fieldAt msg 2 1 ≤ 2 then sessionSecret 0x104 m.reqKey [] else m.reqKey,
             rspKey := if fieldAt msg 2 1 = 2 then sessionSecret 0x104 m.rspKey [] else m.rspKey }) ch msg [0x69]
  rw [e]
  exact ⟨hh, State.respond_answers ⟨rfl, rfl, rfl⟩ ch msg _, rfl, rfl⟩

theorem execHeartbeat_answers :
    ∃ t, exec (.heartbeat msg ch) s = .next t ∧ t.mgmt.spdm = .established ∧ s.answersSpdm t ch [0x68] := by
  refine ⟨_, State.next_spdmAt hu (by simp [Mgmt.secured, hh, hs]) _, ?_⟩
  obtain ⟨l, e⟩ := State.respond_mgmt s ch msg [0x68]
  rw [e]
  exact ⟨hh, State.respond_answers ⟨rfl, rfl, rfl⟩ ch msg _⟩

theorem execEndSession_ends :
    ∃ t, exec (.endSession msg ch) s = .next t ∧ t.mgmt.spdm = .none ∧ t.mgmt.session.isOpen = false
      ∧ s.answersSpdm t ch [0x6C] :=
  ⟨_, State.next_spdmAt hu (by simp [Mgmt.secured, hh, hs]) _, rfl, rfl, State.respond_answers (.of_eq rfl rfl) ch msg _⟩

end

theorem execChunkGet_delivers (hr : s.mgmt.reply ≠ []) :
    ∃ t, exec (.chunkGet msg ch) s = .next t
      ∧ t.out = s.ibiOf ch.binding ++ .spdm ch (0x06 :: s.mgmt.reply.take (max 1 s.mgmt.xfer)) :: s.out
      ∧ t.mgmt = { s.mgmt with
          reply := s.mgmt.reply.drop (max 1 s.mgmt.xfer), seen := s.mgmt.seen ++ msg } := by
  refine ⟨_, State.next_spdmAt hu (by simp [hr]) _, State.spdmSend_out _ _ _, ?_⟩
  rw [State.mapMgmt_mgmt, State.spdmSend_mgmt]

end
end Sys2Proof.Machine
open Sys2Proof Sys2Proof.Machine

/-- Settles O28: each request by its own case. -/
theorem spdmCompletes : Obligations.SpdmCompletes := by
  intro s ch msg slot hu
  refine ⟨execGetVersion_answers msg hu, execGetCapabilities_answers msg hu, execNegotiateAlgorithms_answers msg hu,
    fun hc => ⟨execGetDigests_answers msg hu hc, fun off len => execGetCertificate_answers msg hu hc,
      execChallenge_answers msg hu hc, fun index sign => execGetMeasurements_answers msg hu hc index,
      execKeyExchange_starts msg hu hc, fun chunk last => execChunkSend_gathers hu hc last⟩,
    execFinish_establishes msg hu,
    fun hh hs => ⟨execKeyUpdate_answers msg hu hh hs, execHeartbeat_answers msg hu hh hs, execEndSession_ends msg hu hh hs⟩,
    execChunkGet_delivers msg hu⟩
end

section
/-! The frame of the rows of the buses and links. -/
namespace Sys2Proof.Machine
open Sys2Proof

/-- A row of a bus or a link is no row of a queue's command. -/
theorem jobTouches_eq_none_of_bus {i : Instr} {l : List Field} (h : busTouches i = some l) : jobTouches i = none := by
  have hi : ((jobTouches i).isNone || (busTouches i).isNone) = true := by cases i <;> rfl
  simpa [h] using hi

theorem touches_of_bus {i : Instr} {l : List Field} (h : busTouches i = some l) : touches i = l := by
  simp [touches, h, jobTouches_eq_none_of_bus h]

end Sys2Proof.Machine
open Sys2Proof Sys2Proof.Machine

/-- Settles O48: a bus row's list is what the row may change. -/
theorem frameOfBusRows : Obligations.FrameOfBusRows := by
  intro i l s t hl he fld hf
  obtain ⟨u, hu, hk⟩ := exec_keeps s i (touches_of_bus hl ▸ hf)
  rw [he] at hu
  obtain rfl := Host.Outcome.next.inj hu
  exact hk
end

section
/-! The I3C target (R159 to R161): what a row does while the keeper has VIN. -/
namespace Sys2Proof.Machine
open Sys2Proof

section
variable {s : State} (hv : s.power.vinValid = true)
include hv

theorem execMgPointerWrite_sets {byte : BitVec 8} (h1 : 0x80#8 ≤ byte) (h2 : byte ≤ 0xBF#8) :
    exec (.mgPointerWrite byte) s = .next (s.mapMgmt fun m => { m with ptr := byte.toNat % 64 * 8 }) :=
  congrArg Host.Outcome.next (if_pos ⟨hv, h1, h2⟩)

theorem execMgRegisterRead_reads (len : Nat) :
    ∃ t, let n := min len s.mgmt.mrl
      exec (.mgRegisterRead len) s = .next t
      ∧ t.out = .i3c (slice (s.mgWindow ++ zeros (s.mgmt.ptr + n)) s.mgmt.ptr n) :: s.out
      ∧ t.thermal = { s.thermal with mgPeak := if s.mgmt.ptr ≤ 0x1A ∧ 0x1A < s.mgmt.ptr + n then 0 else s.thermal.mgPeak } := by
  refine ⟨_, congrArg Host.Outcome.next (if_neg (by simp [State.i3cUp, hv])), ?_⟩
  by_cases hp : s.mgmt.ptr ≤ 0x1A ∧ 0x1A < s.mgmt.ptr + min len s.mgmt.mrl
  · simp only [if_pos hp]
    exact ⟨rfl, rfl⟩
  · simp only [if_neg hp]
    exact ⟨rfl, rfl⟩

theorem execMgAlertWrite_clears (v : BitVec 64) : exec (.mgAlertWrite v) s
    = .next (s.mapMgmt fun m => { m with ptr := 0x20, alert := m.alert &&& ~~~ (v.truncate 4) }) :=
  congrArg Host.Outcome.next (if_pos hv)

/-- A target without a dynamic address takes one by ENTDAA, or by SETDASA at its static address. -/
theorem exec_addresses (addr : BitVec 7) (hd : s.mgmt.dynAddr = none) :
    exec (.entdaa addr) s = .next (s.mapMgmt fun m => { m with dynAddr := some addr })
    ∧ exec (.setdasa 0x3A addr) s = .next (s.mapMgmt fun m => { m with dynAddr := some addr }) :=
  ⟨congrArg Host.Outcome.next (if_pos ⟨hv, hd⟩), congrArg Host.Outcome.next (if_pos ⟨hv, rfl, hd⟩)⟩

theorem State.i3cAnswer_of (hm : s.i3cMode = true) (data : Bytes) : s.i3cAnswer data = s.emit (.i3c data) :=
  if_pos (by simp [State.i3cUp, hv, hm])

end

end Sys2Proof.Machine
open Sys2Proof Sys2Proof.Machine

/-- Settles O29: each common command code by its own case; in I3C mode the GET codes answer. -/
theorem i3cCompletes : Obligations.I3cCompletes := by
  intro s hv
  have up (f : State → State) : (.next (if s.i3cUp then f s else s) : Host.Outcome State Fault Refusal) = .next (f s) :=
    congrArg Host.Outcome.next (if_pos hv)
  refine ⟨fun _ h1 h2 => ⟨_, execMgPointerWrite_sets hv h1 h2, rfl⟩, execMgRegisterRead_reads hv,
    fun v => ⟨_, execMgAlertWrite_clears hv v, rfl⟩,
    fun addr hd => ⟨⟨_, (exec_addresses hv addr hd).1, rfl⟩, ⟨_, (exec_addresses hv addr hd).2, rfl⟩⟩,
    ⟨_, up fun s => s.mapMgmt _, rfl⟩, ⟨_, up fun s => s.mapMgmt _, rfl⟩, ⟨_, up fun s => s.mapMgmt _, rfl⟩,
    fun len => ⟨⟨_, up fun s => s.mapMgmt _, rfl⟩, ⟨_, up fun s => s.mapMgmt _, rfl⟩⟩, fun hm => ?_⟩
  have answer := State.i3cAnswer_of hv hm
  exact ⟨⟨_, rfl, answer _⟩, ⟨_, rfl, answer _⟩, ⟨_, rfl, answer _⟩, ⟨_, rfl, answer _⟩, ⟨_, rfl, answer _⟩,
    ⟨_, rfl, answer _⟩, ⟨_, rfl, answer _⟩⟩
end

section
/-!
What the host and management links share: a queue's registers and a session after a change of them, the functions after
the messages of their vectors, and the messages of the management port.
-/
namespace Sys2Proof.Machine
open Sys2Proof

/-! ### Queues -/

@[simp] theorem State.queue_ref (s : State) (r : QRef) : (s.queue r).ref = r := by
  unfold State.queue
  cases h : s.queues.find? fun q => q.ref = r with
  | none => rfl
  | some q => simpa using List.find?_some h

theorem State.queue_congr {s t : State} (h : t.queues = s.queues) (r : QRef) : t.queue r = s.queue r := by
  rw [State.queue, State.queue, h]

theorem State.queue_setQueue (s : State) (q : Queue) : (s.setQueue q).queue q.ref = q := by
  unfold State.queue State.setQueue
  by_cases h : s.queues.any (fun x => x.ref = q.ref) = true
  · obtain ⟨x, hx⟩ : ∃ x, s.queues.find? (fun x => x.ref = q.ref) = some x := by
      simpa [List.any_eq_true, ← Option.isSome_iff_exists] using h
    have hp : ((fun y : Queue => decide (y.ref = q.ref)) ∘ fun y => if y.ref = q.ref then q else y)
        = fun y => decide (y.ref = q.ref) := by
      funext y
      by_cases hy : y.ref = q.ref <;> simp [hy]
    have hr : x.ref = q.ref := by simpa using List.find?_some hx
    rw [if_pos h, List.find?_map, hp, hx]
    exact if_pos hr
  · have hn : s.queues.find? (fun x => x.ref = q.ref) = none := by simpa using h
    simp [h, hn]

theorem State.queue_mapQueue (s : State) (r : QRef) {f : Queue → Queue} (hf : (f (s.queue r)).ref = r) :
    (s.mapQueue r f).queue r = f (s.queue r) := by
  have h := s.queue_setQueue (f (s.queue r))
  rwa [hf] at h

/-! ### Functions -/

/-- Of the functions, `t` differs from `s` in pending bits of vectors at most. -/
def State.SameFns (s t : State) : Prop := ∀ i, ∃ l, t.fn i = { s.fn i with pendVec := l }

theorem State.SameFns.of_eq {s t : State} (h : t.fns = s.fns) : s.SameFns t :=
  fun i => ⟨(s.fn i).pendVec, State.fn_congr h i⟩

theorem State.SameFns.trans {s t u : State} (h : s.SameFns t) (k : t.SameFns u) : s.SameFns u := fun i => by
  obtain ⟨l, hl⟩ := h i
  obtain ⟨m, hm⟩ := k i
  exact ⟨m, by rw [hm, hl]⟩

/-- A vector's message is sent or becomes pending (R151). -/
theorem State.SameFns.sendVec (s : State) (fn v : Nat) : s.SameFns (s.sendVec fn v) := by
  unfold State.sendVec
  extract_lets f
  split
  · exact .of_eq (State.sendMsg_get s fn v (fld := .fns) (by simp))
  · split
    · exact .of_eq rfl
    · intro i
      by_cases h : fn = i ∧ fn < s.fns.length
      · obtain ⟨rfl, -⟩ := id h
        exact ⟨_, (s.fn_setFn fn fn _).trans (if_pos h)⟩
      · exact ⟨_, (s.fn_setFn fn i _).trans (if_neg h)⟩

/-! ### Sessions -/

theorem State.session_congr {s t : State} (hf : t.fns = s.fns) (hm : t.mgmt = s.mgmt) (fn : Nat) :
    t.session fn = s.session fn := by
  rw [State.session, State.session, State.fn_congr hf, hm]

theorem State.SameFns.session {s t : State} (h : s.SameFns t) (hm : t.mgmt = s.mgmt) (fn : Nat) :
    t.session fn = s.session fn := by
  obtain ⟨l, hl⟩ := h fn
  rw [State.session, State.session, hl, hm]

/-- A change of the session of a function that there is, or of the management link. -/
theorem State.session_mapSession {s : State} {fn : Nat} (h : fn < s.fns.length ∨ fn = 255) (f : Session → Session) :
    (s.mapSession fn f).session fn = f (s.session fn) := by
  unfold State.mapSession State.session
  by_cases h5 : fn = 255
  · simp [h5]
  · simp only [if_neg h5]
    rw [State.fn_mapFn_same (h.resolve_right h5)]

section
variable {s : State} {fn method : Nat} {nonce proof : Bytes} (hl : s.lockLeft fn = 0) (hn : s.nonceOf fn = some nonce)
include hl hn

/-- A proof that is right opens the session (R171). -/
theorem State.prove_right (h : (s.judge fn method nonce proof).1 = st.ok) : s.prove fn method proof
    = (st.ok, pairTrue, (s.judge fn method nonce proof).2.mapSession fn fun x => x.opened (s.keeper.cred fn).idleS s.now) := by
  rw [State.prove, if_neg (by omega), hn]
  dsimp only
  rw [if_pos h, h]

/-- Any other that meets a nonce is a failed attempt (R171). -/
theorem State.prove_wrong (h : (s.judge fn method nonce proof).1 ≠ st.ok) : ∃ r, s.prove fn method proof
    = ((s.judge fn method nonce proof).1, r, (s.judge fn method nonce proof).2.mapSession fn fun x => x.failed s.now) := by
  rw [State.prove, if_neg (by omega), hn]
  dsimp only
  rw [if_neg h]
  exact ⟨_, rfl⟩

end

/-! ### Messages of the management port -/

theorem State.mctpSend_out (s : State) (b : Binding) (ty : Nat) (data : Bytes) :
    (s.mctpSend b ty data).out = s.ibiOf b ++ .mctp b ty data :: s.out := State.pend_out _ _

theorem State.pldmSend_out (s : State) (b : Binding) (cmd code : Nat) (data : Bytes) :
    (s.pldmSend b cmd code data).out = s.ibiOf b ++ .pldm b cmd code data :: s.out := State.pend_out _ _

theorem State.mctpSend_mgmt (s : State) (b : Binding) (ty : Nat) (data : Bytes) : (s.mctpSend b ty data).mgmt = s.mgmt :=
  State.mctpSend_get _ _ _ _ (fld := .mgmt) (by simp)

theorem State.pldmSend_mgmt (s : State) (b : Binding) (cmd code : Nat) (data : Bytes) : (s.pldmSend b cmd code data).mgmt = s.mgmt :=
  State.pldmSend_get _ _ _ _ _ (fld := .mgmt) (by simp)

theorem State.pldmSend_upd (s : State) (b : Binding) (cmd code : Nat) (data : Bytes) : (s.pldmSend b cmd code data).upd = s.upd :=
  State.pldmSend_get _ _ _ _ _ (fld := .upd) (by simp)

theorem State.raiseIbi_mgmt (s : State) (data : BitVec 8) : (s.raiseIbi data).mgmt = s.mgmt :=
  State.raiseIbi_get s data (fld := .mgmt) (by simp)

/-- A flag of MG_ALERT stands once it is set, and nothing else of the port changes (R160). -/
theorem State.setAlert_mgmt (s : State) {b : Nat} (hb : b < 4) :
    ∃ a : BitVec 4, (s.setAlert b).mgmt = { s.mgmt with alert := a } ∧ a.getLsbD b = true := by
  unfold State.setAlert
  extract_lets s1 s2
  by_cases h : s1.mgmt.alert.getLsbD b = true
  · rw [if_pos h]
    exact ⟨s1.mgmt.alert, rfl, h⟩
  · rw [if_neg h, s2.raiseIbi_mgmt]
    exact ⟨_, rfl, by simp [hb]⟩

end Sys2Proof.Machine
end


section
/-! Credentials and sessions (R168 to R174). -/
namespace Sys2Proof.Machine
open Sys2Proof

section
variable {s : State} {id : Nat} {j : Job} {inp : Bytes}

theorem execSessionAssign_writes (h : s.runsJob id j .sessionAssign inp) (hn : s.nvFree = true)
    (hc : (j.entry.p 1 1 = 1 ∨ j.entry.p 1 1 = 3) → (s.credChain (BitVec.ofNat 32 (j.entry.p 4 4))).1 = st.ok)
    (hr : 2 ≤ j.entry.p 1 1 → s.imageRootOk = true) :
    ∃ t, exec (.sessionAssign id inp) s = .next t ∧ t.endedWith id st.ok 0 []
      ∧ t.keeper.cred (j.entry.p 0 1) = s.newCred j inp := by
  refine ⟨_, congrArg Host.Outcome.next ((if_pos hn).trans (State.runOp_of h _)), ?_⟩
  have h1 : (if j.entry.p 1 1 = 1 ∨ j.entry.p 1 1 = 3 then (s.credChain (BitVec.ofNat 32 (j.entry.p 4 4))).1 else st.ok)
      = st.ok := by
    split
    · next hm => exact hc hm
    · rfl
  have h2 : ¬ (2 ≤ j.entry.p 1 1 ∧ s.imageRootOk = false) := fun hm => by simp [hr hm.1] at hm
  dsimp only
  rw [h1, if_neg (not_not_intro rfl), if_neg h2]
  refine ⟨State.done_ended (s := s.mapKeeper _) h.1 (State.job?_id h.1) _ _ _, ?_⟩
  exact (Sparse.get_set _ _ _ _ _).trans (if_pos rfl)

section
variable (hf : j.fn < s.fns.length ∨ j.fn = 255)
include hf

theorem execSessionOpenNonce_issues (h : s.runsJob id j .sessionOpen []) (hp : s.passes j .sessionOpen)
    (h0 : j.entry.p 0 1 = 0) :
    ∃ t, exec (.sessionOpenNonce id) s = .next t ∧ t.endedWith id st.ok 0 (s.freeNow 32)
      ∧ t.session j.fn = { s.session j.fn with nonce := some (s.freeNow 32, s.now) } := by
  refine ⟨_, congrArg Host.Outcome.next ((State.runCmd_of h _).trans ((if_neg (not_not_intro h0)).trans
    (State.gated_of hp _ _))), ?_⟩
  let u := s.seeding j .sessionOpen
  obtain ⟨x, hx, -⟩ := State.seeding_job? j .sessionOpen h.1
  have hn : u.freeNow 32 = s.freeNow 32 := by simp [u, State.freeNow]
  have hj : (u.issueNonce j.fn).jobs = u.jobs := State.issueNonce_get u j.fn (fld := .jobs) (by simp)
  refine ⟨?_, ?_⟩
  · rw [← hn]
    exact State.done_ended ((State.job?_congr hj id).trans hx) (State.job?_id h.1) 0 _ _
  · have hl : j.fn < u.scDraw.fns.length ∨ j.fn = 255 := by simpa [u] using hf
    have hs : u.scDraw.session j.fn = s.session j.fn :=
      State.session_congr (by simp [u]) (by simp [u]) _
    have ht : u.now = s.now := by simp [u, State.now]
    calc (u.issueNonce j.fn).session j.fn
      _ = { u.scDraw.session j.fn with nonce := some (u.freeNow 32, u.now) } := State.session_mapSession hl _
      _ = _ := by rw [hs, hn, ht]

theorem execSessionOpenProof_opens {nonce : Bytes} (h : s.runsJob id j .sessionOpen inp) (h1 : j.entry.p 0 1 = 1)
    (hl : s.lockLeft j.fn = 0) (hn : s.nonceOf j.fn = some nonce) (hk : (s.judge j.fn (j.entry.p 1 1) nonce inp).1 = st.ok) :
    ∃ t, exec (.sessionOpenProof id inp) s = .next t ∧ t.endedWith id st.ok pairTrue []
      ∧ (t.session j.fn).isOpen = true ∧ (t.session j.fn).failCount = 0 ∧ (t.session j.fn).nonce = none := by
  refine ⟨_, congrArg Host.Outcome.next ((State.runOp_of h _).trans (if_neg (not_not_intro h1))), ?_⟩
  rw [State.prove_right hl hn hk]
  dsimp only
  let u := (s.judge j.fn (j.entry.p 1 1) nonce inp).2
  have hj : (u.mapSession j.fn fun x => x.opened (s.keeper.cred j.fn).idleS s.now).jobs = s.jobs :=
    (State.mapSession_get u _ _ (fld := .jobs) (by simp)).trans (State.judge_get s _ _ _ _ (fld := .jobs) (by simp))
  have hu : u.fns = s.fns := State.judge_get s _ _ _ _ (fld := .fns) (by simp)
  have hs := State.session_mapSession (s := u) (hu ▸ hf) fun x => x.opened (s.keeper.cred j.fn).idleS s.now
  have hd := State.finish_ended ((State.job?_congr hj id).trans h.1) st.ok pairTrue [] j.scCycles
  rw [State.job?_id h.1]
  refine ⟨by simpa using hd, ?_⟩
  have he (t : State) : (t.finish id st.ok pairTrue [] j.scCycles).session j.fn = t.session j.fn := State.session_congr rfl rfl _
  rw [he, hs]
  exact ⟨rfl, rfl, rfl⟩

theorem execSessionClose_closes (h : s.runsJob id j .sessionClose []) :
    ∃ t, exec (.sessionClose id) s = .next t ∧ t.endedWith id st.ok 0 []
      ∧ t.session j.fn = { s.session j.fn with isOpen := false } := by
  refine ⟨_, congrArg Host.Outcome.next (State.runCmd_of h _), ?_, ?_⟩
  · have hj : (s.closeSession j.fn).jobs = s.jobs := State.closeSession_get s j.fn (fld := .jobs) (by simp)
    exact State.done_ended ((State.job?_congr hj id).trans h.1) (State.job?_id h.1) 0 [] _
  · exact State.session_mapSession hf _

end
end

/-- The note that a session closed by its idle time, and the device event, leave the rest of the session (R150, R174). -/
theorem State.setIdleClosed_session {s : State} {fn : Nat} (hf : fn < s.fns.length ∨ fn = 255) :
    (s.setIdleClosed fn).session fn = { s.session fn with idleClosed := true } := by
  unfold State.setIdleClosed
  extract_lets s1 was s2
  have hs1 : s1.session fn = s.session fn := by
    unfold s1
    split <;> rfl
  have hf1 : fn < s1.fns.length ∨ fn = 255 := by
    unfold s1
    split <;> exact hf
  have hs2 : s2.session fn = { s.session fn with idleClosed := true } := by
    rw [← hs1]
    exact State.session_mapSession hf1 _
  split
  · exact hs2
  · have hm : s2.deviceEvent.mgmt = s2.mgmt := State.deviceEvent_get s2 (fld := .mgmt) (by simp)
    exact ((State.SameFns.sendVec s2 0 5).session hm fn).trans hs2

theorem execSessionIdleClose_closes {s : State} {fn : Nat} (hf : fn < s.fns.length ∨ fn = 255)
    (ho : (s.session fn).isOpen = true) (hi : (s.session fn).idleS ≠ 0) :
    ∃ t, exec (.sessionIdleClose fn) s = .next t ∧ (t.session fn).isOpen = false ∧ (t.session fn).idleClosed = true
      ∧ (t.session fn).failCount = (s.session fn).failCount := by
  refine ⟨_, congrArg Host.Outcome.next (if_pos ⟨ho, hi⟩), ?_⟩
  have hc : (s.closeSession fn).session fn = { s.session fn with isOpen := false } := State.session_mapSession hf _
  have hl : fn < (s.closeSession fn).fns.length ∨ fn = 255 := by
    unfold State.closeSession State.mapSession
    split <;> simpa using hf
  rw [State.setIdleClosed_session hl, hc]
  exact ⟨rfl, rfl, rfl⟩

end Sys2Proof.Machine
open Sys2Proof Sys2Proof.Machine

/-- Settles O18: each command and each time by its own case. -/
theorem sessionsComplete : Obligations.SessionsComplete := by
  intro s id j inp fn
  refine ⟨execSessionAssign_writes, fun hf => ⟨execSessionOpenNonce_issues hf, fun nonce => execSessionOpenProof_opens hf,
    execSessionClose_closes hf⟩, fun hf => ⟨execSessionIdleClose_closes hf, ⟨_, rfl, ?_⟩, ⟨_, rfl, ?_⟩⟩⟩
  · exact State.session_mapSession hf _
  · exact State.session_mapSession hf _
end


section
/-! MCTP control messages, vendor requests and the proof of the management session (R162 to R165, R170, R171). -/
namespace Sys2Proof.Machine
open Sys2Proof

/-! ### MCTP control -/

section
variable {s : State} {b : Binding} (hu : s.mctpUp b = true)
include hu

theorem State.mctpAnswer_of (data : Bytes) : s.mctpAnswer b data = s.mctpSend b 0 data := if_pos hu

theorem execSetEndpointId_sets {eid : BitVec 8} (h0 : eid ≠ 0) (h1 : eid ≠ 0xFF) :
    ∃ t, exec (.setEndpointId b eid) s = .next t ∧ t.mgmt.eid b = eid
      ∧ t.out = (s.mctpSend b 0 [0x00, 0x00, eid, 0x00]).out := by
  refine ⟨_, congrArg Host.Outcome.next ((if_neg (by simp [hu])).trans (if_neg (not_or.2 ⟨h0, h1⟩))), ?_, ?_⟩
  · cases b <;> rfl
  · rw [State.mctpAnswer_of hu]
    rfl

theorem execGetMctpVersionSupport_answers (ty : BitVec 8) : exec (.getMctpVersionSupport b ty) s
    = .next (s.mctpSend b 0 (if mctpTypes.contains ty then 0x00 :: (List.range 4).map (Config.i3cByte (16 + ty.toNat))
        else [0x80])) := congrArg Host.Outcome.next (State.mctpAnswer_of hu _)

end

theorem State.vendor_mgmt (s : State) (b : Binding) (kind : BitVec 8) (data : Bytes) : (s.vendor b kind data).mgmt = s.mgmt :=
  s.mctpSend_mgmt b _ _

theorem State.vendor_out (s : State) (b : Binding) (kind : BitVec 8) (data : Bytes) :
    .mctp b 0x7E ([0x1F, 0x6E, kind] ++ data) ∈ (s.vendor b kind data).out := by
  rw [State.vendor, State.mctpSend_out]
  simp

/-- An entry that comes over a link goes to the end of its queue's intake. -/
theorem State.linkEntry_intake (s : State) (r : QRef) (e : Entry) (input : Bytes) (v : Bool) :
    ((s.linkEntry r e input v).queue r).intake = (s.queue r).intake ++ [{
      entry := e, index := 0, aborted := false, stamp := s.sched.arrivals, input := input, viaVdm := v }] := by
  unfold State.linkEntry
  extract_lets i s1
  refine congrArg Queue.intake (s.queue_mapQueue r ?_ : s1.queue r = _)
  exact s.queue_ref r

section
variable {s : State} {ch : Channel} (hu : s.msgUp ch.binding = true) (hh : s.hears ch = true)
include hu hh

/-! ### Control requests (R165) -/

section
variable {entry input : Bytes} (hl : s.boot.lockdown = false) (he : entry.length = 64) (hi : input.length ≤ 4096)
  (hn : input.length = (Entry.ofBytes entry).inLen.toNat)
include hl he hi hn

/-- A request of its own length that is heard outside LOCKDOWN is looked at. -/
theorem execMgControlRequest_of : exec (.mgControlRequest ch entry input) s = .next
    (if s.inSession ch = false then
        s.vendor ch.binding 0x02 (completionBytes (Entry.ofBytes entry).cmdId st.notAuthorised 0 0 0 0 0)
      else match s.malformedKind .mgmt (Entry.ofBytes entry) with
        | some k => s.malformed .mgmt k 0
        | none => s.linkEntry .mgmt (Entry.ofBytes entry) input (ch.binding = .vdm)) :=
  congrArg Host.Outcome.next (if_neg (by simp [hu, hh, hl, he, hi, ← hn]))

theorem execMgControlRequest_refused (hs : s.inSession ch = false) : exec (.mgControlRequest ch entry input) s
    = .next (s.vendor ch.binding 0x02 (completionBytes (Entry.ofBytes entry).cmdId st.notAuthorised 0 0 0 0 0)) :=
  (execMgControlRequest_of hu hh hl he hi hn).trans (congrArg Host.Outcome.next (if_pos hs))

theorem execMgControlRequest_queued (hs : s.inSession ch = true) (hm : s.malformedKind .mgmt (Entry.ofBytes entry) = none) :
    ∃ t, exec (.mgControlRequest ch entry input) s = .next t
      ∧ (t.queue .mgmt).intake = (s.queue .mgmt).intake ++ [{
          entry := Entry.ofBytes entry, index := 0, aborted := false, stamp := s.sched.arrivals, input := input,
          viaVdm := decide (ch.binding = .vdm) }] := by
  refine ⟨_, execMgControlRequest_of hu hh hl he hi hn, ?_⟩
  rw [if_neg (by simp [hs]), hm]
  exact s.linkEntry_intake .mgmt _ _ _

end

/-! ### The proof of the management session (R164, R170, R171) -/

section
variable (hs : ch.secured = true) (hm : s.mgmt.spdm = .established)
include hs hm

theorem execMgAuthNonceRequest_issues (he : s.ent.state = .ready) :
    ∃ t, exec (.mgAuthNonceRequest ch) s = .next t ∧ t.mgmt.session.nonce = some (s.freeNow 32, s.now)
      ∧ .mctp ch.binding 0x7E ([0x1F, 0x6E, 0x03] ++ s.freeNow 32) ∈ t.out := by
  refine ⟨_, congrArg Host.Outcome.next (if_neg (by simp [hu, hh, hs, hm, he])), ?_, State.vendor_out _ _ _ _⟩
  rw [State.vendor_mgmt]
  rfl

/-- A method the credential takes is judged. -/
theorem execMgAuthProof_of {method : Nat} (hk : s.methodOk 255 method = true) (proof : Bytes) {e : Status} {r : BitVec 64}
    {t : State} (hp : s.prove 255 method proof = (e, r, t)) :
    exec (.mgAuthProof ch method proof) s = .next
      ((if e = st.ok ∨ e = st.notAuthorised ∨ e = st.stateRefused then t else t.setAlert 3).vendor ch.binding 0x04
        (leBytes 2 e.toNat ++ leBytes 8 r.toNat)) := by
  refine congrArg Host.Outcome.next ((if_neg (by simp [hu, hh, hs, hm])).trans ((if_neg (by simp [hk])).trans ?_))
  rw [hp]

variable {method : Nat} {proof nonce : Bytes} (hk : s.methodOk 255 method = true) (hl : s.lockLeft 255 = 0)
  (hn : s.nonceOf 255 = some nonce)
include hk hl hn

theorem execMgAuthProof_opens (hj : (s.judge 255 method nonce proof).1 = st.ok) :
    ∃ t, exec (.mgAuthProof ch method proof) s = .next t ∧ t.mgmt.session.isOpen = true ∧ t.mgmt.session.failCount = 0 := by
  refine ⟨_, execMgAuthProof_of hu hh hs hm hk proof (State.prove_right hl hn hj), ?_⟩
  rw [State.vendor_mgmt, if_pos (.inl rfl)]
  exact ⟨rfl, rfl⟩

theorem execMgAuthProof_fails (hj : (s.judge 255 method nonce proof).1 ≠ st.ok)
    (ha : (s.judge 255 method nonce proof).1 ≠ st.notAuthorised) (hr : (s.judge 255 method nonce proof).1 ≠ st.stateRefused) :
    ∃ t, exec (.mgAuthProof ch method proof) s = .next t ∧ t.mgmt.alert.getLsbD 3 = true
      ∧ t.mgmt.session.failCount = min 255 (s.mgmt.session.failCount + 1) ∧ t.mgmt.session.nonce = none := by
  obtain ⟨r, hp⟩ := State.prove_wrong hl hn hj
  refine ⟨_, execMgAuthProof_of hu hh hs hm hk proof hp, ?_⟩
  let u := (s.judge 255 method nonce proof).2
  have hu : u.mgmt = s.mgmt := State.judge_get s 255 method nonce proof (fld := .mgmt) (by simp)
  obtain ⟨a, he, h3⟩ := (u.mapSession 255 fun x => x.failed s.now).setAlert_mgmt (b := 3) (by decide)
  rw [State.vendor_mgmt, if_neg (by simp [hj, ha, hr]), he, ← hu]
  exact ⟨h3, rfl, rfl⟩

end
end

end Sys2Proof.Machine
open Sys2Proof Sys2Proof.Machine

/-- Settles O30: each message by its own case. -/
theorem mctpAndVendorComplete : Obligations.MctpAndVendorComplete := by
  intro s b ch
  refine ⟨fun hu => ⟨fun eid h0 h1 => execSetEndpointId_sets hu h0 h1, ⟨_, rfl, State.mctpAnswer_of hu _⟩,
      fun ty ht => ⟨_, execGetMctpVersionSupport_answers hu ty, by rw [if_neg (by rw [ht]; exact Bool.false_ne_true)]⟩,
      fun ty ht => ⟨_, execGetMctpVersionSupport_answers hu ty, by rw [if_pos ht]⟩,
      ⟨_, rfl, State.mctpAnswer_of hu _⟩, ⟨_, rfl, State.mctpAnswer_of hu _⟩⟩,
    fun entry input hu hh hl he hi hn => ⟨fun hs => ⟨_, execMgControlRequest_refused hu hh hl he hi hn hs, rfl⟩,
      execMgControlRequest_queued hu hh hl he hi hn⟩,
    fun hu hh hs hm => ⟨execMgAuthNonceRequest_issues hu hh hs hm, fun method proof nonce hk hl hn =>
      ⟨execMgAuthProof_opens hu hh hs hm hk hl hn, execMgAuthProof_fails hu hh hs hm hk hl hn⟩⟩⟩
end


section
/-! What has been sent stays sent. -/
namespace Sys2Proof.Machine
open Sys2Proof

/-- `t` has sent what `s` has, and perhaps more after it. -/
def State.Sends (s t : State) : Prop := s.out <:+ t.out

theorem State.Sends.of_eq {s t : State} (h : t.out = s.out) : s.Sends t := ⟨[], h.symm⟩

theorem State.Sends.refl (s : State) : s.Sends s := .of_eq rfl

theorem State.Sends.trans {s t u : State} (h : s.Sends t) (k : t.Sends u) : s.Sends u := List.IsSuffix.trans h k

theorem State.Sends.mem {s t : State} (h : s.Sends t) {o : Out} (ho : o ∈ s.out) : o ∈ t.out := List.IsSuffix.subset h ho

theorem State.Sends.ite {s t u : State} {c : Prop} [Decidable c] (h : s.Sends t) (k : s.Sends u) :
    s.Sends (if c then t else u) := by
  split
  · exact h
  · exact k

theorem State.Sends.emit (s : State) (o : Out) : s.Sends (s.emit o) := List.suffix_cons o s.out

theorem State.Sends.emitAll (l : List Out) (s : State) : s.Sends (s.emitAll l) := by
  induction l generalizing s with
  | nil => exact .refl s
  | cons o l ih => exact (Sends.emit s o).trans (ih _)

theorem State.Sends.tlp (s : State) (o : Out) : s.Sends (s.tlp o) := .ite (.refl s) (.emit s o)

theorem State.Sends.sendVec (s : State) (fn v : Nat) : s.Sends (s.sendVec fn v) :=
  .ite (.tlp s _) (.ite (.refl s) (.of_eq rfl))

theorem State.Sends.raiseIbi (s : State) (data : BitVec 8) : s.Sends (s.raiseIbi data) := .ite (.emit s _) (.refl s)

theorem State.Sends.setAlert (s : State) (b : Nat) : s.Sends (s.setAlert b) := by
  unfold State.setAlert
  extract_lets s1 s2
  exact .ite (.of_eq rfl) ((State.Sends.of_eq rfl).trans (.raiseIbi s2 _))

theorem State.Sends.guardly {s : State} {f : State → State} (h : s.Sends (f s)) : s.Sends (s.guardly f) := by
  unfold State.guardly
  extract_lets t
  exact .ite (h.trans (.setAlert t 2)) h

theorem State.Sends.pldmSend (s : State) (b : Binding) (cmd code : Nat) (data : Bytes) : s.Sends (s.pldmSend b cmd code data) :=
  (Sends.emit s _).trans (.ite (.raiseIbi _ _) (.refl _))

theorem State.Sends.requestData (s : State) (b : Binding) : s.Sends (s.requestData b) := by
  unfold State.requestData
  split
  · exact .pldmSend s b _ _ _
  · exact .refl s

theorem State.Sends.takeHigh (s : State) : s.Sends s.takeHigh := by
  unfold State.takeHigh
  extract_lets s1
  have h1 : s.Sends s1 := .of_eq rfl
  refine .ite (.refl s) ?_
  split
  · exact .refl s
  · split
    · exact h1.trans (.of_eq (s1.finish_out _ _ _ _ _))
    · exact .refl s
  · exact h1.trans ((Sends.pldmSend s1 _ _ _ _).trans (.requestData _ _))

theorem State.Sends.writeArea (s : State) (p : Policy) (img : Bytes) : s.Sends (s.writeArea p img) := by
  unfold State.writeArea
  extract_lets staged prev s1 s2
  have h1 : s.Sends s1 := .guardly (.of_eq (State.holdForWrite_get s p.fwrChip (fld := .out) (by simp)))
  have h2 : s1.Sends s2 := .ite (.refl s1) (Sends.emitAll _ s1)
  exact h1.trans (h2.trans (.emitAll _ s2))

end Sys2Proof.Machine
end


section
/-! PLDM firmware update (R166, R527). -/
namespace Sys2Proof.Machine
open Sys2Proof

/-! ### The update a command works on -/

/-- Where no job holds a HIGH slot, staging for PLDM takes the HIGH half at once (R381, R508, R527). -/
theorem State.takeHigh_pldm {s : State} {b : Binding} (hh : s.highHeld = false) (ht : s.store.taking = .pldm b) :
    s.takeHigh.upd.stage = .downloading ∧ s.takeHigh.upd.component = s.upd.component
      ∧ s.takeHigh.upd.header = s.upd.header ∧ s.takeHigh.store.lent = true := by
  unfold State.takeHigh
  extract_lets u
  have hp : ((u.pldmSend b 0x14 0 []).requestData b).upd = u.upd :=
    (State.requestData_get _ b (fld := .upd) (by simp)).trans (u.pldmSend_upd b _ _ _)
  have hs : ((u.pldmSend b 0x14 0 []).requestData b).store = u.store :=
    (State.requestData_get _ b (fld := .store) (by simp)).trans (State.pldmSend_get u b _ _ _ (fld := .store) (by simp))
  rw [if_neg (by simp [hh]), ht]
  dsimp only
  rw [hp, hs]
  exact ⟨rfl, rfl, rfl, rfl⟩

theorem State.beginUpdate_starts {s : State} (hh : s.highHeld = false) (header : Bytes) (b : Binding) :
    let t := s.beginUpdate header (.pldm b)
    t.upd.stage = .downloading ∧ t.upd.component = imgComponent header ∧ t.upd.header = header ∧ t.store.lent = true :=
  State.takeHigh_pldm (s := (s.mapUpd fun u => { u with
    component := imgComponent header, header := header, timerFrom := s.now, areaOk := false }).mapStore fun o =>
      { o with taking := .pldm b }) hh rfl

/-- A cancelled update is idle, without a holder, and gives the HIGH half back (R526). -/
theorem State.cancelUpdate_idle (s : State) :
    s.cancelUpdate.upd.stage = .idle ∧ s.cancelUpdate.upd.holder = .none ∧ s.cancelUpdate.store.lent = false := by
  have hu : s.cancelUpdate.upd = s.dropUpdate.upd := State.endUpdJob_get _ _ _ _ (fld := .upd) (by simp)
  have hs : s.cancelUpdate.store = s.dropUpdate.store := State.endUpdJob_get _ _ _ _ (fld := .store) (by simp)
  rw [hu, hs]
  exact ⟨rfl, rfl, rfl⟩

theorem State.contentOk_congr {s t : State} (h : t.fuses = s.fuses) (img : Bytes) : t.contentOk img = s.contentOk img := by
  unfold State.contentOk State.policyOk State.sieveB State.disables
  rw [h]

theorem State.stageBlock_fuses {s u : State} {off : Nat} {data : Bytes} (h : s.stageBlock off data = some u) :
    u.fuses = s.fuses := by
  unfold State.stageBlock at h
  dsimp only at h
  split at h
  · cases h
  · obtain rfl := Option.some.inj h
    rfl

/-- The verification of a whole image that is read back (R510 to R513): its three checks decide. -/
theorem State.verifyImage_whole {s : State} (hg : s.upd.firstGap = none) :
    s.Sends (s.verifyImage true).2.2 ∧ (s.verifyImage true).2.2.upd.stage
      = if imgDigestOk s.upd.staged = true ∧ imgSigsOk s.upd.staged = true ∧ s.contentOk s.upd.staged = true
        then .verified else .downloading := by
  unfold State.verifyImage
  extract_lets img back good
  have hback : s.Sends back ∧ back.upd.stage = .downloading := ⟨.of_eq rfl, rfl⟩
  have hgood (t : State) (h : s.Sends t) : s.Sends (good t) ∧ (good t).upd.stage = .verified :=
    ⟨h.trans (.of_eq rfl), rfl⟩
  rw [hg]
  dsimp only
  by_cases h1 : imgDigestOk img = true
  swap
  · rw [if_pos (by simp [h1]), if_neg fun h => h1 h.1]
    exact hback
  by_cases h2 : imgSigsOk img = true
  swap
  · rw [if_neg (by simp [h1]), if_pos (by simp [h2]), if_neg fun h => h2 h.2.1]
    exact hback
  by_cases h3 : s.contentOk img = true
  swap
  · rw [if_neg (by simp [h1]), if_neg (by simp [h2]), if_pos (by simp [h3]), if_neg fun h => h3 h.2.2]
    exact hback
  rw [if_neg (by simp [h1]), if_neg (by simp [h2]), if_neg (by simp [h3]), if_pos ⟨h1, h2, h3⟩]
  split
  · exact hgood s (.refl s)
  · next p _ => exact hgood _ (.writeArea s p img)

/-! ### Where PLDM is heard -/

section
variable {s : State} {ch : Channel} (hu : s.pldmUp ch.binding = true) (hh : s.hears ch = true)
include hu hh

theorem State.pldmBase_of (cmd : BitVec 8) (data : Bytes) :
    s.pldmBase ch cmd data = s.mctpSend ch.binding 0x01 ([0x00, cmd] ++ data) := if_neg (by simp [hu, hh])

theorem execQueryDeviceIdentifiers_setTid {tid : BitVec 8} (h0 : tid ≠ 0) (h1 : tid ≠ 0xFF) :
    ∃ t, exec (.queryDeviceIdentifiers ch (.setTid tid)) s = .next t ∧ t.mgmt = { s.mgmt with tid }
      ∧ t.out = s.ibiOf ch.binding ++ .mctp ch.binding 0x01 [0x00, 0x01, 0x00] :: s.out := by
  refine ⟨_, congrArg Host.Outcome.next ((if_neg (by simp [hu, hh])).trans ((if_neg (not_or.2 ⟨h0, h1⟩)).trans
    (State.pldmBase_of (s := s.mapMgmt fun m => { m with tid }) hu hh 1 [0x00]))), ?_⟩
  rw [State.mctpSend_mgmt, State.mctpSend_out]
  exact ⟨rfl, rfl⟩

/-! ### In a management session or in recovery mode -/

section
variable (ho : s.inSession ch = true ∨ s.boot.recovery = true)
include ho

/-- A command of firmware update runs. -/
theorem State.next_pldm (cmd : Nat) (run : State → State) :
    (.next (s.pldm ch cmd run) : Host.Outcome State Fault Refusal) = .next (run s) := by
  rw [State.pldm, if_neg (by simp [hu, hh]), if_pos (by simpa using ho)]

theorem execRequestUpdate_locks (eid : BitVec 8) {maxTransfer : Nat} (hl : s.lockHeld = false) (hm : 4096 ≤ maxTransfer) :
    ∃ t, exec (.requestUpdate ch eid maxTransfer) s = .next t
      ∧ t.upd = { s.upd with holder := .mgmt, holderId := eid.toNat }
      ∧ t.mgmt.block = min maxTransfer 65536 / 4096 * 4096
      ∧ t.out = s.ibiOf ch.binding ++ .pldm ch.binding 0x10 0 [] :: s.out := by
  refine ⟨_, State.next_pldm hu hh ho 0x10 _, ?_⟩
  rw [if_neg (by simp [hl]), if_neg (by omega), State.pldmSend_upd, State.pldmSend_mgmt, State.pldmSend_out]
  exact ⟨rfl, rfl, rfl⟩

section
variable (hk : s.mgmtHolds = true)
include hk

theorem execPassComponentTable_passes {c : Nat} (hi : s.upd.stage = .idle) (h1 : 1 ≤ c) (h3 : c ≤ 3)
    (hc : s.componentOk c = true) :
    ∃ t, exec (.passComponentTable ch c) s = .next t ∧ t.mgmt = { s.mgmt with comp := c }
      ∧ t.out = s.ibiOf ch.binding ++ .pldm ch.binding 0x13 0 [0] :: s.out := by
  refine ⟨_, State.next_pldm hu hh ho 0x13 _, ?_⟩
  rw [if_neg (by simp [hk, hi]), if_pos ⟨h1, h3, hc⟩, State.pldmSend_mgmt, State.pldmSend_out]
  exact ⟨rfl, rfl⟩

theorem execUpdateComponent_begins {header : Bytes} (hi : s.upd.stage = .idle) (ht : s.store.taking = .nobody)
    (hn : header.length = 4096) :
    ∃ t, exec (.updateComponent ch header) s = .next t
      ∧ (s.beginFault 255 header = none → imgComponent header = s.mgmt.comp → s.highHeld = false →
          t.upd.stage = .downloading ∧ t.upd.component = imgComponent header ∧ t.upd.header = header ∧ t.store.lent = true)
      ∧ (∀ c r, s.beginFault 255 header = some (c, r) →
          t.out = s.ibiOf ch.binding ++ .pldm ch.binding 0x14 0 ([1] ++ leBytes 2 c.toNat ++ leBytes 1 r.toNat) :: s.out
            ∧ t.upd = s.upd) := by
  refine ⟨_, State.next_pldm hu hh ho 0x14 _, fun hf hc hh => ?_, fun c r hf => ?_⟩
  · rw [if_neg (by simp [hk, hi, ht]), if_neg (not_not_intro hn), hf]
    dsimp only
    rw [if_neg (not_not_intro hc)]
    exact State.beginUpdate_starts hh header ch.binding
  · rw [if_neg (by simp [hk, hi, ht]), if_neg (not_not_intro hn), hf]
    dsimp only
    rw [State.pldmSend_out, State.pldmSend_upd]
    exact ⟨rfl, rfl⟩

section
variable {off : Nat} {data : Bytes} {u : State} (hd : s.upd.stage = .downloading) (hf : s.upd.blockFits off data.length = true)
  (hs : s.stageBlock off data = some u)
include hd hf hs

theorem execFirmwareDataResponse_goesOn (rb : Bool) (hg : u.upd.firstGap.isSome = true) :
    exec (.firmwareDataResponse ch off data rb) s = .next (u.requestData ch.binding) := by
  refine (State.next_pldm hu hh ho 0x15 _).trans ?_
  rw [if_neg (by simp [hk, hd]), if_neg (by simp [hf]), hs]
  exact congrArg Host.Outcome.next (if_pos hg)

theorem execFirmwareDataResponse_verifies (hg : u.upd.firstGap = none) :
    ∃ t, exec (.firmwareDataResponse ch off data true) s = .next t ∧ .pldm ch.binding 0x16 0 [] ∈ t.out
      ∧ t.upd.stage = (if imgDigestOk u.upd.staged = true ∧ imgSigsOk u.upd.staged = true
          ∧ s.contentOk u.upd.staged = true then .verified else .downloading) := by
  refine ⟨_, State.next_pldm hu hh ho 0x15 _, ?_⟩
  rw [if_neg (by simp [hk, hd]), if_neg (by simp [hf]), hs]
  dsimp only
  rw [if_neg (by simp [hg])]
  have hw : (u.pldmSend ch.binding 0x16 0 []).upd = u.upd := u.pldmSend_upd _ _ _ _
  have hc (img : Bytes) : (u.pldmSend ch.binding 0x16 0 []).contentOk img = s.contentOk img :=
    State.contentOk_congr ((State.pldmSend_get u _ _ _ _ (fld := .fuses) (by simp)).trans (State.stageBlock_fuses hs)) img
  have hsent : .pldm ch.binding 0x16 0 [] ∈ (u.pldmSend ch.binding 0x16 0 []).out := by
    rw [State.pldmSend_out]
    simp
  obtain ⟨h1, h2⟩ := State.verifyImage_whole (hw ▸ hg)
  rw [hw, hc] at h2
  generalize (u.pldmSend ch.binding 0x16 0 []).verifyImage true = x at h1 h2 ⊢
  obtain ⟨c, r, v⟩ := x
  dsimp only at h1 h2 ⊢
  split
  · rw [State.pldmSend_upd, State.pldmSend_upd]
    exact ⟨((h1.trans (.pldmSend v _ _ _ _)).trans (.pldmSend _ _ _ _ _)).mem hsent, h2⟩
  · rw [State.pldmSend_upd]
    exact ⟨(h1.trans (.pldmSend v _ _ _ _)).mem hsent, h2⟩

end

theorem execActivateFirmware_marks (hv : s.upd.stage = .verified) (ha : s.canActivate = true) :
    ∃ t, exec (.activateFirmware ch) s = .next t
      ∧ t.upd = { s.upd with waitFrom := some (s.upd.waitFrom.getD s.now) }
      ∧ t.out = s.ibiOf ch.binding ++ .pldm ch.binding 0x1A 0 [] :: s.out := by
  refine ⟨_, State.next_pldm hu hh ho 0x1A _, ?_⟩
  rw [if_neg (by simp [hk]), if_neg (not_not_intro hv), if_pos ha, State.pldmSend_upd, State.pldmSend_out]
  exact ⟨rfl, rfl⟩

section
variable (hp : s.updateOpen = true)
include hp

omit hu hh ho in
theorem State.pldmCancel_idle (cmd : Nat) : (s.pldmCancel ch cmd).upd.stage = .idle
    ∧ (s.pldmCancel ch cmd).upd.holder = .none ∧ (s.pldmCancel ch cmd).store.lent = false := by
  have hs (t : State) : (t.pldmSend ch.binding cmd 0 []).store = t.store := State.pldmSend_get t _ _ _ _ (fld := .store) (by simp)
  rw [State.pldmCancel, if_neg (by simp [hk]), if_pos hp, State.pldmSend_upd, hs]
  exact s.cancelUpdate_idle

theorem execCancelUpdateComponent_cancels :
    ∃ t, exec (.cancelUpdateComponent ch) s = .next t ∧ t.upd.stage = .idle ∧ t.upd.holder = .none ∧ t.store.lent = false :=
  ⟨_, State.next_pldm hu hh ho 0x1C _, State.pldmCancel_idle hk hp 0x1C⟩

theorem execCancelUpdate_cancels :
    ∃ t, exec (.cancelUpdate ch) s = .next t ∧ t.upd.stage = .idle ∧ t.upd.holder = .none ∧ t.store.lent = false := by
  have hi : s.upd.stage ≠ .idle := fun hi => by simp [State.updateOpen, hi, UpdStage.num] at hp
  refine ⟨_, State.next_pldm hu hh ho 0x1D _, ?_⟩
  rw [if_neg fun h => hi h.2]
  exact State.pldmCancel_idle hk hp 0x1D

end
end
end
end

end Sys2Proof.Machine
open Sys2Proof Sys2Proof.Machine

/-- Settles O31: each command by its own case. -/
theorem pldmCompletes : Obligations.PldmCompletes := by
  intro s ch hu hh
  refine ⟨⟨fun tid => execQueryDeviceIdentifiers_setTid hu hh, ⟨_, rfl, State.pldmBase_of hu hh 2 _⟩,
      ⟨_, rfl, State.pldmBase_of hu hh 4 _⟩⟩,
    fun ho => ⟨⟨_, State.next_pldm hu hh ho 0x01 _, rfl⟩, ⟨_, State.next_pldm hu hh ho 0x02 _, rfl⟩,
      fun eid n => execRequestUpdate_locks hu hh ho eid, ⟨_, State.next_pldm hu hh ho 0x1B _, rfl⟩,
      fun hk => ⟨fun c => execPassComponentTable_passes hu hh ho hk, fun header => execUpdateComponent_begins hu hh ho hk,
        fun off data rb u hd hf hs hg => ⟨_, execFirmwareDataResponse_goesOn hu hh ho hk hd hf hs rb hg, rfl⟩,
        fun off data u => execFirmwareDataResponse_verifies hu hh ho hk, execActivateFirmware_marks hu hh ho hk,
        fun hp => ⟨execCancelUpdateComponent_cancels hu hh ho hk hp, execCancelUpdate_cancels hu hh ho hk hp⟩⟩⟩⟩
end


section
/-! What JOB_COMPLETE writes for a job of a ring queue (R151, R187, R188, R192, R226). -/
namespace Sys2Proof.Machine
open Sys2Proof

/-! ### The completion entry -/

theorem State.signal_queue (s : State) (r : QRef) : (s.signal r).queue r = { s.queue r with unsignalled := 0 } := by
  have h : (s.signal r).queues = (s.mapQueue r fun q => { q with unsignalled := 0 }).queues :=
    State.sendVec_get _ _ _ (fld := .queues) (by simp)
  refine (State.queue_congr h r).trans (s.queue_mapQueue r ?_)
  exact s.queue_ref r

/-- The entry of a completion counts it and goes to the ring while the link is not cut. -/
theorem State.postEntry_writes {s : State} (hc : s.boot.cut = false) (r : QRef) (cmdId : BitVec 16) (e : Ending) :
    ((s.postEntry r cmdId e).queue r).cnt.completed = (s.queue r).cnt.completed + 1
    ∧ ((s.postEntry r cmdId e).queue r).cqWrite = ((s.queue r).cqWrite + 1) % (2 * (s.queue r).m)
    ∧ .hostWrite r.fn ((s.queue r).cqBase + BitVec.ofNat 64 (32 * ((s.queue r).cqWrite % (s.queue r).m)))
        (completionBytes cmdId e.status (s.queue r).head (if (s.queue r).cqWrite < (s.queue r).m then 1 else 0) e.out.length
          e.result e.cycles) ∈ (s.postEntry r cmdId e).out := by
  unfold State.postEntry
  extract_lets q bytes s1
  let u := s.tlp (.hostWrite r.fn (q.cqBase + BitVec.ofNat 64 (32 * (q.cqWrite % q.m))) bytes)
  have hu : u.queue r = q := State.queue_congr (State.tlp_get s _ (fld := .queues) (by simp)) r
  have h1 : s1.queue r = { q with
      cqWrite := (q.cqWrite + 1) % (2 * q.m), cnt := { q.cnt with completed := q.cnt.completed + 1 },
      unsignalled := q.unsignalled + 1 } := by
    rw [← hu]
    exact u.queue_mapQueue r (u.queue_ref r)
  have hw : .hostWrite r.fn (q.cqBase + BitVec.ofNat 64 (32 * (q.cqWrite % q.m))) bytes ∈ s1.out := by
    have ho : s1.out = u.out := rfl
    simp [ho, u, State.tlp, hc]
  split
  · rw [s1.signal_queue, h1]
    exact ⟨rfl, rfl, (State.Sends.sendVec _ _ _).mem hw⟩
  · rw [h1]
    exact ⟨rfl, rfl, hw⟩

theorem State.SameFns.postEntry (s : State) (r : QRef) (cmdId : BitVec 16) (e : Ending) : s.SameFns (s.postEntry r cmdId e) := by
  unfold State.postEntry
  extract_lets q bytes s1
  have h1 : s.SameFns s1 := .of_eq (State.tlp_get s _ (fld := .fns) (by simp))
  split
  · exact h1.trans (.sendVec (s1.mapQueue r _) _ _)
  · exact h1

theorem State.SameFns.post (s : State) (j : Job) (e : Ending) : s.SameFns (s.post j e) := by
  unfold State.post
  split
  · exact .of_eq (State.mctpSend_get s _ _ _ (fld := .fns) (by simp))
  · exact .of_eq rfl
  · exact .postEntry s _ _ _

theorem State.post_ring (s : State) {j : Job} (h : j.q.hasRing = true) (e : Ending) :
    s.post j e = s.postEntry j.q j.entry.cmdId e := by
  unfold State.post
  split
  · next hq => simp [hq, QRef.hasRing] at h
  · next hq => simp [hq, QRef.hasRing] at h
  · rfl

/-! ### The end of a job -/

/-- Of an ending a guard command's state changes RESULT alone (R133). -/
theorem State.finalEnding_eq (s : State) (j : Job) (e : Ending) :
    s.finalEnding j e = { e with result := (s.finalEnding j e).result } := by
  unfold State.finalEnding
  split <;> rfl

theorem State.finalEnding_congr {s t : State} (h : t.guard = s.guard) (j : Job) (e : Ending) :
    t.finalEnding j e = s.finalEnding j e := by
  unfold State.finalEnding State.guardResult State.dom
  rw [h]

/-- A job's output or zero-fill has been written. -/
def State.written (s : State) (j : Job) (e : Ending) : State :=
  if e.status = st.ok then (if j.q.hasRing then s.writeOut j.q.fn j.outFrags e.out else s).spoilAfter j
  else s.writeOut j.q.fn j.outFrags (zeros j.written.length)

theorem State.complete_eq (s : State) (j : Job) (e : Ending) : s.complete j e
    = ((((s.written j e).post j ((s.written j e).finalEnding j e)).release j).wakeStream j.stream).wakeAborts j.q
        j.entry.cmdId e.status := rfl

theorem State.written_get (s : State) (j : Job) (e : Ending) {fld : Field} (h : fld ∉ ([.store, .out] : List Field)) :
    (s.written j e).get fld = s.get fld := by
  simp only [List.mem_cons, List.not_mem_nil, or_false, not_or] at h
  unfold State.written
  simp [h]

theorem State.wakeStream_reduced (s : State) (n : Option Nat) : s.Reduced (s.wakeStream n) := by
  unfold State.wakeStream
  split
  · exact .of_eq rfl rfl
  · split
    · split
      · refine ⟨fun x hx => ?_, fun _ h => h⟩
        obtain ⟨y, hy, rfl⟩ := List.mem_map.1 hx
        exact ⟨y, hy, by split <;> rfl, by split <;> rfl⟩
      · exact .of_eq rfl rfl
    · exact .of_eq rfl rfl

theorem State.wakeAborts_reduced (s : State) (q : QRef) (c d : BitVec 16) : s.Reduced (s.wakeAborts q c d) := by
  refine ⟨fun x hx => ?_, fun _ h => h⟩
  obtain ⟨y, hy, rfl⟩ := List.mem_map.1 hx
  exact ⟨y, hy, by split <;> rfl, by split <;> rfl⟩

/-- What follows the completion entry adds to what is sent, and leaves the queues and the functions. -/
theorem State.release_kept (s : State) (j : Job) (n : Option Nat) (q : QRef) (c d : BitVec 16) :
    s.Sends (((s.release j).wakeStream n).wakeAborts q c d)
    ∧ (((s.release j).wakeStream n).wakeAborts q c d).queues = s.queues
    ∧ (((s.release j).wakeStream n).wakeAborts q c d).fns = s.fns := by
  refine ⟨?_, ?_, ?_⟩
  · have h : (((s.release j).wakeStream n).wakeAborts q c d).out = (s.release j).out :=
      (State.wakeAborts_get _ q c d (fld := .out) (by simp)).trans (State.wakeStream_get _ n (fld := .out) (by simp))
    let u := ((s.mapKeys fun k => (k.lower j.chain).lower j.chain2).mapStore fun o => o.spoilAll j.scratch).dropJob j.id
    have hu : s.Sends u := .of_eq rfl
    exact (hu.trans (.takeHigh u)).trans (.of_eq h)
  · change (((s.release j).wakeStream n).wakeAborts q c d).get .queues = s.get .queues
    simp
  · change (((s.release j).wakeStream n).wakeAborts q c d).get .fns = s.get .fns
    simp

theorem State.SameFns.complete (s : State) (j : Job) (e : Ending) : s.SameFns (s.complete j e) := by
  have h1 : s.SameFns (s.written j e) := .of_eq (s.written_get j e (fld := .fns) (by simp))
  refine (h1.trans (.post _ j ((s.written j e).finalEnding j e))).trans (.of_eq ?_)
  obtain ⟨-, -, hf⟩ := ((s.written j e).post j ((s.written j e).finalEnding j e)).release_kept j j.stream j.q j.entry.cmdId e.status
  exact hf

/-- A job that is completed is gone. -/
theorem State.complete_job? (s : State) (j : Job) (e : Ending) : (s.complete j e).job? j.id = none := by
  let u := (s.written j e).post j ((s.written j e).finalEnding j e)
  have h2 : (u.release j).Reduced (s.complete j e) :=
    ((u.release j).wakeStream_reduced j.stream).trans (State.wakeAborts_reduced _ j.q j.entry.cmdId e.status)
  refine List.find?_eq_none.2 fun x hx hi => ?_
  obtain ⟨y, hy, hyx, -⟩ := h2.jobs x hx
  exact (u.release_reduced j).2 y hy (hyx.trans (of_decide_eq_true hi))

/-- The completion of a job of a ring queue on a link that is not cut. -/
theorem State.complete_writes {s : State} {j : Job} (hc : s.boot.cut = false) (hr : j.q.hasRing = true) (e : Ending) :
    let q := s.queue j.q
    ((s.complete j e).queue j.q).cnt.completed = q.cnt.completed + 1
    ∧ ((s.complete j e).queue j.q).cqWrite = (q.cqWrite + 1) % (2 * q.m)
    ∧ .hostWrite j.fn (q.cqBase + BitVec.ofNat 64 (32 * (q.cqWrite % q.m)))
        (completionBytes j.entry.cmdId e.status q.head (if q.cqWrite < q.m then 1 else 0) e.out.length
          (s.finalEnding j e).result e.cycles) ∈ (s.complete j e).out := by
  intro q
  have hf : (s.written j e).finalEnding j e = { e with result := (s.finalEnding j e).result } :=
    (State.finalEnding_congr (s.written_get j e (fld := .guard) (by simp)) j e).trans (s.finalEnding_eq j e)
  have hwq : (s.written j e).queue j.q = q := State.queue_congr (s.written_get j e (fld := .queues) (by simp)) j.q
  have hwc : (s.written j e).boot.cut = false := (congrArg Boot.cut (s.written_get j e (fld := .boot) (by simp))).trans hc
  obtain ⟨h1, h2, h3⟩ := State.postEntry_writes hwc j.q j.entry.cmdId ((s.written j e).finalEnding j e)
  rw [State.complete_eq, State.post_ring _ hr]
  obtain ⟨hs, hq, -⟩ := ((s.written j e).postEntry j.q j.entry.cmdId ((s.written j e).finalEnding j e)).release_kept j j.stream
    j.q j.entry.cmdId e.status
  rw [State.queue_congr hq j.q]
  rw [hwq] at h1 h2 h3
  refine ⟨h1, h2, hs.mem ?_⟩
  rw [hf] at h3 ⊢
  exact h3

/-! ### The count of a unit's fault (R486) -/

/-- A record that is neither a tamper record nor a broken guarantee. -/
theorem State.log_noted (s : State) (code : BitVec 16) {kind : Nat} (h2 : kind ≠ 2) (h3 : kind ≠ 3) (cls unit detail : Nat) :
    s.Noted (s.log code kind cls unit detail) := s.addRec_noted (r := s.recOf code kind cls unit detail) h2 h3

theorem State.SameFns.log (s : State) (code : BitVec 16) {kind : Nat} (h2 : kind ≠ 2) (h3 : kind ≠ 3) (cls unit detail : Nat) :
    s.SameFns (s.log code kind cls unit detail) := by
  obtain ⟨l, hl, -⟩ := s.log_noted code h2 h3 cls unit detail
  rw [hl]
  exact .of_eq rfl

theorem State.SameFns.setFlt (s : State) (b : Nat) : s.SameFns (s.setFlt b) := by
  unfold State.setFlt
  extract_lets s1
  split
  · exact .of_eq rfl
  · exact State.SameFns.sendVec (s1.mapFlt fun f => { f with evt := f.evt ||| (1#10 <<< b) }) 0 5

theorem State.SameFns.dropUnit (s : State) (cls obj unit : Nat) : s.SameFns (s.dropUnit cls obj unit) := by
  have h1 : s.SameFns (s.mapFlt fun f => f.drop cls obj) := .of_eq rfl
  exact (h1.trans (.log _ _ (by decide) (by decide) cls unit 0)).trans (.setFlt _ 7)

/-- A fault of a unit that can be dropped is recorded and counted, and at its threshold drops the unit: queues, jobs, start-up
and guard stand (R486, R494). -/
theorem State.unitFaultEvent_dropping (s : State) {c : Nat × Nat × Nat} (hc : c.1 ≠ 13) (n : Nat) :
    s.SameFns (s.unitFaultEvent c n)
    ∧ ∀ fld, fld ∉ ([.logs, .fns, .mgmt, .flt, .out] : List Field) → (s.unitFaultEvent c n).get fld = s.get fld := by
  obtain ⟨cls, obj, unit⟩ := c
  have h1 : s.SameFns ((s.log 0x0703 1 cls unit (n % 65536)).setFlt 8) :=
    (State.SameFns.log s _ (by decide) (by decide) cls unit _).trans (.setFlt _ 8)
  have hg (fld : Field) (h : fld ∉ ([.logs, .fns, .mgmt, .flt, .out] : List Field)) :
      ((s.log 0x0703 1 cls unit (n % 65536)).setFlt 8).get fld = s.get fld := by
    simp only [List.mem_cons, List.not_mem_nil, or_false, not_or] at h
    simp [h]
  unfold State.unitFaultEvent
  dsimp only
  split <;> rename_i u he
  · exact ⟨h1.trans (.of_eq (State.faultEvent_of he (fld := .fns) (by simp))), fun fld h =>
      (State.faultEvent_of he (by simp_all)).trans (hg fld h)⟩
  · rw [if_neg hc]
    exact ⟨(h1.trans (.of_eq (State.faultEvent_of he (fld := .fns) (by simp)))).trans (.dropUnit u cls obj unit), fun fld h =>
      ((State.dropUnit_get u cls obj unit h).trans (State.faultEvent_of he (by simp_all))).trans (hg fld h)⟩

/-! ### JOB_COMPLETE -/

theorem Job.withFault_none (j : Job) : j.withFault .none = j := by
  unfold Job.withFault
  split
  · rfl
  · exact if_neg Bool.false_ne_true

theorem State.putJob_job? {s : State} {id : Nat} {j : Job} (h : s.job? id = some j) : (s.putJob j).job? id = some j := by
  obtain rfl := State.job?_id h
  have hp : ((fun x : Job => decide (x.id = j.id)) ∘ fun x => if x.id = j.id then j else x) = fun x => decide (x.id = j.id) := by
    funext x
    by_cases hx : x.id = j.id <;> simp [hx]
  unfold State.job? State.putJob at *
  rw [List.find?_map, hp, h]
  exact congrArg some (if_pos rfl)

theorem State.dmaUp_congr {s t : State} (hb : t.boot = s.boot) (h : s.SameFns t) (fn : Nat) : t.dmaUp fn = s.dmaUp fn := by
  obtain ⟨l, hl⟩ := h fn
  rw [State.dmaUp, State.dmaUp, hl, hb]

/-- The wrong result a unit gave is counted before the job it ended is completed (R486). -/
def State.countFault (s : State) (j : Job) (e : Ending) : State :=
  if e.status = st.engineFault && j.unit.isSome
  then ((s.putJob j).unitFaultEvent ((s.putJob j).faultOf j) e.result.toNat).draw
  else s.putJob j

section
variable {s : State} {id : Nat} {j : Job} {e : Ending} (hj : s.job? id = some j)
include hj

theorem State.countFault_kept (hf : e.status = st.engineFault → (s.faultOf j).1 ≠ 13) :
    (s.countFault j e).job? id = some j ∧ (s.countFault j e).queues = s.queues ∧ (s.countFault j e).guard = s.guard
    ∧ (s.countFault j e).boot = s.boot ∧ s.SameFns (s.countFault j e) := by
  have hp := State.putJob_job? hj
  unfold State.countFault
  split
  · next h =>
    have hc : ((s.putJob j).faultOf j).1 ≠ 13 := hf (by simp at h; exact h.1)
    obtain ⟨hs, hg⟩ := (s.putJob j).unitFaultEvent_dropping hc e.result.toNat
    exact ⟨(State.job?_congr (hg .jobs (by simp)) id).trans hp, hg .queues (by simp), hg .guard (by simp),
      hg .boot (by simp), hs⟩
  · exact ⟨hp, rfl, rfl, rfl, .of_eq rfl⟩

theorem execJobComplete_of (hp : j.phase = .ended) (hh : j.heldCpl = false) (he : j.ending = some e)
    (hf : e.status = st.engineFault → (s.faultOf j).1 ≠ 13) (hd : s.dmaUp j.fn = true) :
    exec (.jobComplete id .none none) s = .next ((((s.countFault j e).putJob j).draw).complete j e) := by
  obtain ⟨hc, -, -, hb, hs⟩ := State.countFault_kept hj hf
  have hu : (((s.countFault j e).putJob j).draw).dmaUp j.fn = true := (State.dmaUp_congr (s := s) hb hs j.fn).trans hd
  change execJobComplete id .none none s = _
  unfold execJobComplete
  rw [hj]
  dsimp only
  rw [if_neg (by simp [Job.ended, hp, hh]), Job.withFault_none, he]
  dsimp only [Option.map_some, Option.getD_some]
  have hcount : (if (decide (e.status = st.engineFault) && j.unit.isSome) = true
      then ((s.putJob j).unitFaultEvent ((s.putJob j).faultOf j) e.result.toNat).draw else s.putJob j)
      = s.countFault j e := rfl
  simp only [hcount, State.job?_id hj, hc, Option.isSome_none, Bool.false_eq_true, if_false, he]
  rw [if_neg (by simp [hu])]

end

end Sys2Proof.Machine
open Sys2Proof Sys2Proof.Machine

/-- Settles O35: the completion of the job on the state that has counted its unit's fault. -/
theorem jobCompletionCompletes : Obligations.JobCompletionCompletes := by
  intro s id j e hj hp hh he hr hd hf q
  refine ⟨_, execJobComplete_of hj hp hh he hf hd, ?_⟩
  obtain ⟨-, hq, hg, hb, -⟩ := State.countFault_kept hj hf
  have hcut : s.boot.cut = false := by
    simp only [State.dmaUp, Bool.and_eq_true, Bool.not_eq_true'] at hd
    exact hd.1.1.1.1.2
  let u := ((s.countFault j e).putJob j).draw
  have huq : u.queue j.q = q := State.queue_congr (t := u) hq j.q
  have hue : u.finalEnding j e = s.finalEnding j e := State.finalEnding_congr (t := u) hg j e
  have hc : u.boot.cut = false := (congrArg Boot.cut hb).trans hcut
  have hw := State.complete_writes hc hr e
  rw [huq, hue] at hw
  have hn := u.complete_job? j e
  rw [State.job?_id hj] at hn
  exact ⟨hn, hw⟩
end


section
/-! D3hot, Bus Master Enable, the vectors' masks and failed DMA requests (R144, R151, R154, R155, R203). -/
namespace Sys2Proof.Machine
open Sys2Proof

/-! ### Completions that were held -/

theorem State.SameFns.foldl {α : Type} {g : State → α → State} (h : ∀ (s : State) a, s.SameFns (g s a)) (l : List α)
    (s : State) : s.SameFns (l.foldl g s) := by
  induction l generalizing s with
  | nil => exact .of_eq rfl
  | cons a l ih => exact (h s a).trans (ih _)

theorem State.SameFns.writeHeld (s : State) (fn : Nat) : s.SameFns (s.writeHeld fn) := by
  unfold State.writeHeld
  extract_lets mine
  refine State.SameFns.trans (.foldl (fun t id => ?_) (s.sched.held.filter mine) s) (.of_eq rfl)
  split
  · split
    · exact .complete t _ _
    · exact .of_eq rfl
  · exact .of_eq rfl

/-- Held completions leave the power state and Bus Master Enable of every function. -/
theorem State.writeHeld_fn (s : State) (c : Prop) [Decidable c] (fn i : Nat) :
    ((if c then s.writeHeld fn else s).fn i).d3hot = (s.fn i).d3hot
    ∧ ((if c then s.writeHeld fn else s).fn i).bme = (s.fn i).bme := by
  split
  · obtain ⟨l, hl⟩ := State.SameFns.writeHeld s fn i
    rw [hl]
    exact ⟨rfl, rfl⟩
  · exact ⟨rfl, rfl⟩

/-! ### The order to stop (R155, R237) -/

/-- A job that nothing is left to be done to for its stop. -/
def Job.Ordered (x : Job) (status : Status) : Prop := x.phase = .ended ∨ x.phase = .running ∧ x.stop = some status

/-- The end of a job ends those of its number, and of the others wakes those that wait for a leaf alone. -/
theorem State.finish_jobs {s : State} {id : Nat} {c : Status} {r : BitVec 64} {b : Bytes} {n : Nat} {x : Job}
    (hx : x ∈ (s.finish id c r b n).jobs) : ∃ y ∈ s.jobs, y.id = x.id ∧ y.q = x.q
      ∧ (x.id = id → x.phase = .ended) ∧ (x.id ≠ id → y.phase ≠ .waitLeaf → x = y) := by
  obtain ⟨z, hz, rfl⟩ := List.mem_map.1 hx
  obtain ⟨y, hy, rfl⟩ := List.mem_map.1 hz
  let w := if y.waitsLeaf (s.job? id) = true then y.wake else y
  have hw : w.id = y.id ∧ w.q = y.q := by
    dsimp only [w]
    split <;> exact ⟨rfl, rfl⟩
  change ∃ y ∈ s.jobs, y.id = (if w.id = id then w.finish c r b n else w).id ∧ _
  by_cases hi : w.id = id
  · rw [if_pos hi]
    exact ⟨y, hy, hw.1.symm, hw.2.symm, fun _ => rfl, fun h => absurd hi h⟩
  · rw [if_neg hi]
    exact ⟨y, hy, hw.1.symm, hw.2.symm, fun h => absurd h hi, fun _ hl => if_neg (by simp [Job.waitsLeaf, hl])⟩

theorem State.stopJob_jobs {s : State} {k : Job} {status : Status} {x : Job} (hx : x ∈ (s.stopJob k status).jobs) :
    ∃ y ∈ s.jobs, y.id = x.id ∧ y.q = x.q
      ∧ (x.id = k.id → x.phase = .ended) ∧ (x.id ≠ k.id → y.phase ≠ .waitLeaf → x = y) := by
  let u := (s.mapStore fun o => o.spoilAll (k.stopSpoils status)).dropStream k
  have hu : u.jobs = s.jobs := State.dropStream_get _ k (fld := .jobs) (by simp)
  obtain ⟨z, hz, hi, hq, he, hn⟩ := State.finish_jobs (s := (u.uncount k status).draw) hx
  have hz : z ∈ (u.uncount k status).jobs := hz
  unfold State.uncount at hz
  split at hz
  · obtain ⟨y, hy, rfl⟩ := List.mem_map.1 hz
    refine ⟨y, hu ▸ hy, ?_⟩
    by_cases hk : y.id = k.id <;> simp_all
  · exact ⟨z, hu ▸ hz, hi, hq, he, hn⟩

section
variable {p : Job → Bool} (hp : ∀ x y : Job, x.q = y.q → p x = p y) {status : Status}
include hp

/-- Stopping the jobs of a list leaves none of them to be stopped. -/
theorem State.foldl_stopJob_ordered (l : List Job) (s : State)
    (h : ∀ x ∈ s.jobs, p x = true → x.Ordered status ∨ x.id ∈ l.map Job.id) :
    ∀ x ∈ (l.foldl (fun s j => s.stopJob j status) s).jobs, p x = true → x.Ordered status := by
  induction l generalizing s with
  | nil => simpa using h
  | cons k l ih =>
    refine ih (s.stopJob k status) fun x hx hpx => ?_
    obtain ⟨y, hy, hi, hq, he, hn⟩ := State.stopJob_jobs hx
    by_cases hk : x.id = k.id
    · exact .inl (.inl (he hk))
    · rcases h y hy ((hp y x hq).trans hpx) with ho | hl
      · have hw : y.phase ≠ .waitLeaf := by rcases ho with ho | ⟨ho, -⟩ <;> simp [ho]
        exact .inl (hn hk hw ▸ ho)
      · exact .inr (by simpa [hi, hk] using hl)

/-- After an order to stop, a job it names that still runs has the order. -/
theorem State.orderStop_ordered (s : State) : ∀ x ∈ (s.orderStop p status).jobs, p x = true → x.Ordered status := by
  refine State.foldl_stopJob_ordered hp _ _ fun x hx hpx => ?_
  obtain ⟨y, hy, rfl⟩ := List.mem_map.1 hx
  by_cases hr : p y = true ∧ y.phase = .running
  · simp [hr, Job.Ordered]
  · have hy' : (if (p y && decide (y.phase = .running)) = true then { y with stop := some status } else y) = y :=
      if_neg (by simpa using hr)
    rw [hy'] at hpx ⊢
    by_cases he : y.phase = .ended
    · exact .inl (.inl he)
    · refine .inr (List.mem_map_of_mem (List.mem_filter.2 ⟨List.mem_filter.2 ⟨hy, by simp [hpx, Job.ended, he]⟩, ?_⟩))
      unfold Job.waiting
      split <;> simp_all

end

/-! ### Failed DMA requests (R154, R203) -/

theorem State.fn_setFnDma {s : State} {fn : Nat} (h : fn < s.fns.length) (hm : fn ≠ 255) (kind : Nat) (addr : BitVec 64) :
    (s.setFnDma fn kind addr).fn fn
      = { s.fn fn with dmaFault := true, dmaKind := kind, dmaAddr := (addr >>> 12).truncate 52 } := by
  unfold State.setFnDma
  rw [if_neg hm]
  exact State.fn_mapFn_same (s := s.countEvt (8 + fn) 0) h _

section
variable {e : DmaErr} (he : ∀ w, e ≠ .internal w)
include he

theorem DmaErr.status_of_pcie : DmaErr.status e = st.dmaFault := by
  cases e with
  | internal w => exact absurd rfl (he w)
  | _ => rfl

/-- An error of the PCIe side is recorded, and goes to AER. -/
theorem State.dmaError_of_pcie (s : State) (fn : Nat) (addr : BitVec 64) :
    s.dmaError fn e addr = (s.setFnDma fn (DmaErr.num e) addr).tlp (.aer fn e (DmaErr.advisory e)) := by
  cases e with
  | internal w => exact absurd rfl (he w)
  | _ => rfl

theorem State.dmaError_get_of_pcie (s : State) (fn : Nat) (addr : BitVec 64) {fld : Field}
    (h : fld ∉ ([.fns, .flt, .out] : List Field)) : (s.dmaError fn e addr).get fld = s.get fld := by
  simp only [List.mem_cons, List.not_mem_nil, or_false, not_or] at h
  rw [State.dmaError_of_pcie he]
  simp [h]

theorem State.ringError_of_pcie (s : State) {r : QRef} (hr : r.isCtl = false) (addr : BitVec 64) :
    s.ringError r e addr = (s.dmaError r.fn e addr).queueError r 1 (s.queue r).head := by
  unfold State.ringError State.malformed
  cases e with
  | internal w => exact absurd rfl (he w)
  | _ => simp [hr]

end

theorem State.setQEvt_queue (s : State) (r : QRef) (b : Nat) :
    (s.setQEvt r b).queue r = { s.queue r with evt := (s.queue r).evt ||| (1#3 <<< b) } :=
  (s.countEvt (qEvtBank r) b).queue_mapQueue r (s.queue_ref r)

/-- A RUNNING queue enters QUEUE_ERROR with the kind and the index. -/
theorem State.queueError_queue {s : State} {r : QRef} (h : (s.queue r).state = .running) (kind index : Nat) :
    let q := (s.queueError r kind index).queue r
    q.state = .error ∧ q.errKind = kind ∧ q.errIndex = index := by
  unfold State.queueError
  rw [if_neg (by simp [h]), State.signal_queue, State.setQEvt_queue, s.queue_mapQueue r (s.queue_ref r)]
  exact ⟨rfl, rfl, rfl⟩

theorem State.running_of_fetches {s : State} {r : QRef} (h : s.fetches r = true) : (s.queue r).state = .running := by
  simp only [State.fetches, Bool.and_eq_true, decide_eq_true_eq] at h
  exact h.1.1.1.2

/-- A failed read of a ring's entries. -/
theorem execDmaCompletion_ring {s : State} {e : DmaErr} (he : ∀ w, e ≠ .internal w) (addr : BitVec 64) {r : QRef}
    (hf : s.fetches r = true) (hr : r.isCtl = false) :
    ∃ t, exec (.dmaCompletion (.ring r) (some e) addr) s = .next t ∧ (t.queue r).state = .error
      ∧ (t.queue r).errKind = 1 ∧ (t.queue r).errIndex = (s.queue r).head := by
  have hq : (s.dmaError r.fn e addr).queue r = s.queue r :=
    State.queue_congr (State.dmaError_get_of_pcie he s r.fn addr (fld := .queues) (by simp)) r
  have hx : exec (.dmaCompletion (.ring r) (some e) addr) s = .next (s.ringError r e addr) :=
    congrArg Host.Outcome.next (if_pos hf)
  refine ⟨_, hx, ?_⟩
  rw [State.ringError_of_pcie he s hr]
  exact State.queueError_queue (by rw [hq]; exact State.running_of_fetches hf) 1 _

/-- A failed read of a job's input. -/
theorem execDmaCompletion_jobRead {s : State} {e : DmaErr} (he : ∀ w, e ≠ .internal w) (addr : BitVec 64) {id : Nat} {j : Job}
    (hj : s.job? id = some j) (hn : j.ended = false) (hr : j.q.hasRing = true) (hl : j.fn < s.fns.length) (hm : j.fn ≠ 255) :
    ∃ t k, exec (.dmaCompletion (.jobRead id) (some e) addr) s = .next t ∧ (t.fn j.fn).dmaFault = true
      ∧ (t.fn j.fn).dmaKind = DmaErr.num e ∧ (t.fn j.fn).dmaAddr = (addr >>> 12).truncate 52
      ∧ t.job? id = some k ∧ k.phase = .ended ∧ k.ending.map Ending.status = some st.dmaFault := by
  obtain rfl := State.job?_id hj
  let u := ((s.dmaError j.fn e addr).dropStream j).draw
  let t := u.fail j (DmaErr.status e) (Config.freeNat s.freeCtr)
  have hx : exec (.dmaCompletion (.jobRead j.id) (some e) addr) s = .next t := by
    change execDmaCompletion (.jobRead j.id) (some e) addr s = _
    simp [execDmaCompletion, hj, hn, hr, t, u]
  have hu (fld : Field) (h : fld ∉ ([.tables, .freeCtr] : List Field)) : u.get fld = (s.dmaError j.fn e addr).get fld := by
    simp only [List.mem_cons, List.not_mem_nil, or_false, not_or] at h
    simp [u, h]
  have hf : t.fn j.fn
      = { s.fn j.fn with dmaFault := true, dmaKind := DmaErr.num e, dmaAddr := (addr >>> 12).truncate 52 } := by
    have h1 : t.fns = (s.setFnDma j.fn (DmaErr.num e) addr).fns := by
      refine (hu .fns (by simp)).trans ?_
      rw [State.dmaError_of_pcie he]
      exact State.tlp_get _ _ (fld := .fns) (by simp)
    rw [State.fn_congr h1, State.fn_setFnDma hl hm]
  have hk : u.job? j.id = some j := by
    have h1 : u.jobs = s.jobs := (hu .jobs (by simp)).trans (State.dmaError_get_of_pcie he s j.fn addr (fld := .jobs) (by simp))
    rw [State.job?_congr h1, hj]
  obtain ⟨x, hx'⟩ := State.finish_job? hk (DmaErr.status e) (j.plainResult (DmaErr.status e)) [] (Config.freeNat s.freeCtr)
  exact ⟨t, _, hx, by rw [hf], by rw [hf], by rw [hf], hx', rfl, congrArg some (DmaErr.status_of_pcie he)⟩

/-! ### MSI-X (R151) -/

/-- A vector that is unmasked is no longer pending once nothing else masks it. -/
theorem State.maskVec_fn {s : State} {fn : Nat} (h : fn < s.fns.length) (v : Nat) :
    v ∈ ((s.maskVec fn v false).fn fn).unmasked
    ∧ ((s.fn fn).msixEn = true → (s.fn fn).fnMask = false → v ∉ ((s.maskVec fn v false).fn fn).pendVec) := by
  let g : FnState := { s.fn fn with unmasked := if (s.fn fn).unmasked.contains v then (s.fn fn).unmasked else v :: (s.fn fn).unmasked }
  have hv : v ∈ g.unmasked := by
    dsimp only [g]
    split
    · next hc => exact List.contains_iff_mem.1 hc
    · exact List.mem_cons_self
  have hg : (s.maskVec fn v false).fn fn = { g with pendVec := g.pendVec.filter (· ∉ g.ready) } := by
    have h1 : (s.mapFn fn fun f => { f with unmasked := if f.unmasked.contains v then f.unmasked else v :: f.unmasked }).fn fn = g :=
      State.fn_mapFn_same h _
    rw [← h1]
    exact State.releaseVecs_fn (by simpa using h)
  rw [hg]
  refine ⟨hv, fun he hm hp => ?_⟩
  obtain ⟨hp, hr⟩ := List.mem_filter.1 hp
  exact of_decide_eq_true hr ((FnState.mem_ready (f := g) he hm v).2 ⟨hp, hv⟩)

end Sys2Proof.Machine
open Sys2Proof Sys2Proof.Machine

/-- Settles O23: each row by its own case. -/
theorem functionEventsComplete : Obligations.FunctionEventsComplete := by
  intro s fn e addr
  refine ⟨fun hp => ?_, fun target => ⟨s, rfl, rfl⟩, fun he => ⟨fun r hf hr => execDmaCompletion_ring he addr hf hr,
    fun id j hj hn hr hl hm => execDmaCompletion_jobRead he addr hj hn hr hl hm⟩⟩
  have hl := State.lt_of_present hp
  have hpf : ¬ (s.fn fn).present = false := by simp [hp]
  refine ⟨⟨_, congrArg Host.Outcome.next (if_pos hp), State.fn_mapFn_same hl _⟩, fun hd => ?_, fun hb => ?_, ?_, fun v hv => ?_, ?_, ?_⟩
  · refine ⟨_, congrArg Host.Outcome.next (if_neg (by simp [hd])), ?_⟩
    let u := s.mapFn fn fun f => { f with d3hot := false }
    have hf : u.resumePaused.fn fn = u.fn fn := State.fn_congr (u.resumePaused_get (fld := .fns) (by simp)) fn
    rw [(State.writeHeld_fn _ _ fn fn).1, hf, State.fn_mapFn_same hl]
  · refine ⟨_, congrArg Host.Outcome.next (if_neg (by simp [hb])), ?_, fun j hj hr hf hph => ?_⟩
    · let u := s.mapFn fn fun f => { f with bme := false }
      have hf : (u.orderStop (fun j => j.q.hasRing && j.fn = fn) st.dmaFault).fn fn = u.fn fn :=
        State.fn_congr (u.orderStop_get _ _ (fld := .fns) (by simp)) fn
      rw [hf, State.fn_mapFn_same hl]
    · have hp' (x y : Job) (h : x.q = y.q) : (x.q.hasRing && decide (x.fn = fn)) = (y.q.hasRing && decide (y.fn = fn)) := by
        rw [Job.fn, Job.fn, h]
      rcases State.orderStop_ordered hp' _ j hj (by simp [hr, hf]) with he | ⟨-, hs⟩
      · exact absurd (he.symm.trans hph) (by decide)
      · exact hs
  · refine ⟨_, congrArg Host.Outcome.next (if_neg hpf), ?_⟩
    rw [(State.writeHeld_fn _ _ fn fn).2, State.fn_mapFn_same hl]
  · exact ⟨_, congrArg Host.Outcome.next ((if_neg hpf).trans (if_pos hv)), State.maskVec_fn hl v⟩
  · refine ⟨_, congrArg Host.Outcome.next (if_neg hpf), ?_⟩
    dsimp only
    rw [State.releaseVecs_fn (by simpa using hl), State.fn_mapFn_same hl]
  · refine ⟨_, congrArg Host.Outcome.next (if_neg hpf), ?_⟩
    dsimp only
    rw [State.releaseVecs_fn (by simpa using hl), State.fn_mapFn_same hl]
end


section
/-!
The rings (R178 to R194, R208 to R210): doorbells and reports, the register sets of the queues, the taking of entries,
interrupt moderation and the end of a drain.
-/
namespace Sys2Proof.Machine
open Sys2Proof

/-! ### Doorbells and register sets -/

section
variable {s : State} {r : QRef}

theorem State.queue_setQueue_of {q : Queue} (h : q.ref = r) : (s.setQueue q).queue r = q := h ▸ s.queue_setQueue q

section
variable (h : s.regsUp r = true)
include h

/-- An access to a queue whose block answers acts. -/
theorem State.onQueue_up (act : State → State) : s.onQueue r act = act s := by
  have hu := h
  simp only [State.regsUp, Bool.and_eq_true] at hu
  obtain ⟨⟨hr, hb⟩, -⟩ := hu
  rw [State.onQueue, if_pos hr, State.onBar_open hb, if_pos h]

theorem State.onQueueRead_up (act : State → State) : s.onQueueRead r act = act s := by
  have hu := h
  simp only [State.regsUp, Bool.and_eq_true] at hu
  obtain ⟨⟨hr, hb⟩, -⟩ := hu
  rw [State.onQueueRead, if_pos hr, State.onBar_open hb, if_pos h]

end

/-- A flag of EVT_ACCESS stands once it is set. -/
theorem State.setAccess_flag (s : State) {b : Nat} (hb : b < 2) : (s.setAccess b).flt.access.getLsbD b = true := by
  have hd (t : State) : t.deviceEvent.flt = t.flt := State.deviceEvent_get t (fld := .flt) (by simp)
  unfold State.setAccess
  extract_lets s1
  by_cases h : s1.flt.access.getLsbD b = true
  · rwa [if_pos h]
  · rw [if_neg h, hd]
    simp [hb]

theorem State.ringSq_running (h : (s.queue r).state = .running) : (s.ringSq r).queue r
    = if (s.queue r).index then { s.queue r with ringPend := true } else { s.queue r with repoll := false } := by
  unfold State.ringSq
  rw [h]
  exact s.queue_mapQueue r (by split <;> exact s.queue_ref r)

theorem State.ringSq_absent (h : (s.queue r).state = .absent) : s.ringSq r = s.setAccess 1 := by
  unfold State.ringSq
  rw [h]

/-- A refused request of a queue that is not a control queue. -/
theorem State.malformed_queue (hc : r.isCtl = false) (hr : (s.queue r).state = .running) (kind index : Nat) :
    ((s.malformed r kind index).queue r).state = .error ∧ ((s.malformed r kind index).queue r).errKind = kind := by
  obtain ⟨hs, hk, -⟩ := State.queueError_queue hr kind index
  rw [State.malformed, hc, if_neg Bool.false_ne_true]
  exact ⟨hs, hk⟩

/-- How far a report moves the consumption of a completion ring (R189). -/
def Queue.reportDist (q : Queue) (head : Nat) (phase : Bool) : Nat := (q.reportPos head phase + 2 * q.m - q.cqReport) % (2 * q.m)

section
variable (ha : (s.queue r).state ≠ .absent) {head : Nat} {phase : Bool}
include ha

theorem State.reportCq_counts (hh : head < (s.queue r).m)
    (hd : (s.queue r).reportDist head phase ≤ ((s.queue r).cnt.completed - (s.queue r).cnt.consumed).toNat) :
    (s.reportCq r head phase).queue r = { s.queue r with
      cqReport := (s.queue r).reportPos head phase,
      cnt := { (s.queue r).cnt with
        consumed := (s.queue r).cnt.consumed + BitVec.ofNat 64 ((s.queue r).reportDist head phase) } } := by
  unfold State.reportCq
  extract_lets q p dist unread
  have hx : ¬ (q.m ≤ head ∨ unread < dist) := not_or.2 ⟨Nat.not_le.2 hh, Nat.not_lt.2 hd⟩
  rw [if_neg ha, if_neg hx]
  exact s.queue_mapQueue r (s.queue_ref r)

theorem State.reportCq_refused (hx : (s.queue r).m ≤ head
      ∨ ((s.queue r).cnt.completed - (s.queue r).cnt.consumed).toNat < (s.queue r).reportDist head phase) :
    s.reportCq r head phase = s.malformed r 6 (s.queue r).head := by
  unfold State.reportCq
  extract_lets q p dist unread
  rw [if_neg ha]
  exact if_pos hx

theorem State.latchCounters_latches : ((s.latchCounters r).queue r).latched = (s.queue r).cnt
    ∧ (s.latchCounters r).out = .regData (s.queue r).cnt.submitted :: s.out := by
  unfold State.latchCounters
  extract_lets x
  rw [if_neg ha]
  refine ⟨?_, rfl⟩
  have hq : ((s.setQueue { x with latched := x.cnt }).emit (.regData x.cnt.submitted)).queue r = { x with latched := x.cnt } :=
    State.queue_setQueue_of (s := s) (s.queue_ref r)
  rw [hq]

end

/-- Q_CFG with ENABLE 1 starts an absent queue whose sizes are within its class, and shows ERR_KIND 7 otherwise (R210). -/
theorem State.writeCfg_enable (h : (s.queue r).state = .absent) {v : BitVec 64} (hv : v.getLsbD 0 = true) :
    (s.writeCfg r v).queue r = if ((s.queue r).setCfg v).configOk then ((s.queue r).setCfg v).start
      else { (s.queue r).setCfg v with errKind := 7 } := by
  unfold State.writeCfg
  rw [if_neg (not_not_intro h)]
  extract_lets s1
  have h1 : s1.queue r = (s.queue r).setCfg v := s.queue_mapQueue r (s.queue_ref r)
  have ha : (s1.queue r).state = .absent := h1 ▸ h
  rw [if_pos hv, State.enableQueue, State.queue_mapQueue, if_neg (not_not_intro ha), h1]
  rw [if_neg (not_not_intro ha)]
  split <;> exact s1.queue_ref r

theorem State.disableQueue_drains (h : (s.queue r).state = .running ∨ (s.queue r).state = .error) :
    (s.disableQueue r).queue r = (s.queue r).drain none := by
  unfold State.disableQueue
  extract_lets q
  rw [if_pos h]
  exact State.queue_setQueue_of (s.queue_ref r)

theorem Queue.restart_ref (q : Queue) (skip : Bool) : (q.restart skip).ref = q.ref := by
  cases skip <;> rfl

theorem State.restartAdmin_restarts {fn : Nat} {skip : Bool} (h : (s.queue (.admin fn)).state = .error)
    (hk : skip = true → (s.queue (.admin fn)).errKind = 4 ∨ (s.queue (.admin fn)).errKind = 5) :
    (s.restartAdmin fn skip).queue (.admin fn) = (s.queue (.admin fn)).restart skip := by
  unfold State.restartAdmin
  extract_lets q
  rw [if_neg ?_]
  · exact State.queue_setQueue_of ((q.restart_ref skip).trans (s.queue_ref _))
  · rintro (hn | ⟨hs, h4, h5⟩)
    · exact hn h
    · exact (hk hs).elim h4 h5

/-! ### Taking entries (R180, R182, R184) -/

theorem State.malformedKind_congr {t : State} (hq : t.queue r = s.queue r) (hj : t.jobs = s.jobs) (e : Entry) :
    t.malformedKind r e = s.malformedKind r e := by
  rw [State.malformedKind, State.malformedKind, State.idTaken, State.idTaken, hq, hj]

/-- A queue whose entry at the head has gone to the end of its intake, counted. -/
def Queue.taking (q : Queue) (e : Entry) (stamp : Nat) : Queue :=
  { q.advance with
    intake := q.intake ++ [{ entry := e, index := q.head, aborted := false, stamp, input := [], viaVdm := false }],
    cnt := { q.cnt with submitted := q.cnt.submitted + 1 } }

theorem State.takeEntry_queue (s : State) (r : QRef) (e : Entry) :
    (s.takeEntry r e).queue r = (s.queue r).taking e s.sched.arrivals :=
  s.queue_mapQueue r (f := fun q => q.taking e s.sched.arrivals) (s.queue_ref r)

section
variable {b : Bytes} (hs : (s.queue r).state = .running) (hi : (s.queue r).index = false)
  (hl : (s.queue r).intake.length < 8) (hp : (Entry.ofBytes b).phase.getLsbD 0 = (s.queue r).expPhase)
  (hm : s.malformedKind r (Entry.ofBytes b) = none)
include hs hi hl hp hm

/-- In phase mode a sound entry of the expected phase is taken while the buffer has room. -/
theorem State.takeRun_one : s.takeRun r [b] = s.takeEntry r (Entry.ofBytes b) := by
  rw [State.takeRun, if_neg (by simp [hs, hi, hl]), if_neg fun h => h.2 hp, hm]
  rfl

end

theorem execIndexBlockRead_reads (hf : s.fetches r = true) (hi : (s.queue r).index = true)
    (hp : (s.queue r).ringPend = true) {tail : BitVec 32} (ht : tail.toNat < (s.queue r).n) :
    ∃ t, exec (.indexBlockRead r tail true none) s = .next t
      ∧ t.queue r = { s.queue r with ringPend := false, tail := tail.toNat } := by
  let u := (s.setQueue { s.queue r with ringPend := false }).readIn r.fn [((s.queue r).idxAddr, 64)]
  have hu : u.queue r = { s.queue r with ringPend := false } :=
    (State.queue_congr (State.readIn_get _ _ _ (fld := .queues) (by simp)) r).trans (State.queue_setQueue_of (s.queue_ref r))
  have hx : exec (.indexBlockRead r tail true none) s = .next (u.mapQueue r fun y => { y with tail := tail.toNat }) :=
    congrArg Host.Outcome.next ((if_neg (by simp [hf, hi, hp])).trans (if_neg (by simp [Nat.not_le.2 ht])))
  refine ⟨_, hx, ?_⟩
  rw [u.queue_mapQueue r (u.queue_ref r), hu]

/-- One entry fetched in phase mode, where one request may read it, is taken. -/
theorem execSqFetch_takes (hf : s.fetches r = true) {b : Bytes} (hi : (s.queue r).index = false)
    (hw : (s.queue r).wants = true) (hb : b.length = 64) (hn : 1 ≤ s.fetchLen (s.queue r))
    (hp : (Entry.ofBytes b).phase.getLsbD 0 = (s.queue r).expPhase) (hm : s.malformedKind r (Entry.ofBytes b) = none) :
    ∃ t, exec (.sqFetch r [b] none) s = .next t ∧ t.queue r = (s.queue r).taking (Entry.ofBytes b) s.sched.arrivals := by
  let u := s.readIn r.fn [((s.queue r).headAddr, 64 * s.fetchLen (s.queue r))]
  have get {fld : Field} (h : fld ∉ ([.out] : List Field)) : u.get fld = s.get fld := State.readIn_get _ _ _ h
  have hu : u.queue r = s.queue r := State.queue_congr (get (fld := .queues) (by simp)) r
  have hd : u.sched = s.sched := get (fld := .sched) (by simp)
  have hl : (s.queue r).intake.length < 8 := of_decide_eq_true (Bool.and_eq_true_iff.1 hw).1
  have ht : u.takeRun r ([b].take (s.fetchLen (s.queue r))) = u.takeEntry r (Entry.ofBytes b) := by
    rw [List.take_of_length_le hn]
    exact State.takeRun_one (hu ▸ State.running_of_fetches hf) (hu ▸ hi) (hu ▸ hl) (hu ▸ hp)
      ((State.malformedKind_congr hu (get (fld := .jobs) (by simp)) _).trans hm)
  refine ⟨_, congrArg Host.Outcome.next ((if_neg (by simp [hf, hw])).trans (if_neg (by simp [hb]))), ?_⟩
  dsimp only
  change (if _ then u.takeRun r _ else (u.takeRun r _).writeHead r).queue r = _
  rw [ht]
  have he : (u.takeEntry r (Entry.ofBytes b)).queue r = (s.queue r).taking (Entry.ofBytes b) s.sched.arrivals := by
    rw [State.takeEntry_queue, hu, hd]
  split
  · exact he
  · exact (State.queue_congr (State.writeHead_get _ r (fld := .queues) (by simp)) r).trans he

/-! ### The end of a drain (R208, R210) -/

/-- A queue that has ended is as at reset. -/
theorem State.endQueue_queue (s : State) (r : QRef) : (s.endQueue r).queue r = Queue.atReset r := by
  have h : (s.endQueue r).queues = s.queues.filter fun q => q.ref ≠ r := rfl
  have hn : (s.endQueue r).queues.find? (fun q => q.ref = r) = none :=
    List.find?_eq_none.2 fun q hq => by rw [h] at hq; simpa using (List.mem_filter.1 hq).2
  rw [State.queue, hn]
  rfl

/-- The end of a drain ends the QUEUE_DESTROY that waited for it. -/
theorem execQueueDrained_ends (hd : (s.queue r).state = .draining) (hf : (s.queue r).inFlight = 0) :
    ∃ t, exec (.queueDrained r) s = .next t ∧ t.queue r = Queue.atReset r
      ∧ ∀ id j, (s.queue r).drainJob = some id → s.job? id = some j → j.phase = .barrier →
          t.endedWith id st.ok (BitVec.ofNat 64 ((s.queue r).retCount + 65536 * (s.queue r).retIndex)) [] := by
  refine ⟨_, congrArg Host.Outcome.next (if_neg (by simp [hd, hf])), ?_, fun id j hi hj hp => ?_⟩
  · have done (j : Job) (n m : Nat) : ((s.endQueue r).done j n [] m).queue r = Queue.atReset r := s.endQueue_queue r
    dsimp only
    split
    · split
      · exact done _ _ _
      · exact s.endQueue_queue r
    · exact s.endQueue_queue r
  · have hb : (s.queue r).drainJob.bind s.job? = some j := by rw [hi]; exact hj
    have he : (s.endQueue r).job? id = some j := (State.job?_congr (s.endQueue_get r (fld := .jobs) (by simp)) id).trans hj
    dsimp only
    rw [hb]
    dsimp only
    rw [if_pos hp]
    exact State.done_ended he (State.job?_id hj) _ [] _

end

end Sys2Proof.Machine
open Sys2Proof Sys2Proof.Machine

/-- Settles O32: each row by its own case, where its queue's block answers or entries are fetched. -/
theorem ringsComplete : Obligations.RingsComplete := by
  intro s r q
  refine ⟨fun hu => ?_, fun hr => ⟨_, congrArg Host.Outcome.next (if_pos hr), s.queue_mapQueue r (s.queue_ref r)⟩,
    fun hf => ?_, fun ha hn hm => ⟨_, congrArg Host.Outcome.next (if_pos ⟨ha, hn, hm⟩), s.signal_queue r⟩, execQueueDrained_ends⟩
  · have up (act : State → State) : (.next (s.onQueue r act) : Host.Outcome State Fault Refusal) = .next (act s) :=
      congrArg Host.Outcome.next (State.onQueue_up hu act)
    refine ⟨fun hr => ⟨_, up _, State.ringSq_running hr⟩, fun ha => ⟨_, up _, ?_⟩,
      fun head phase ha => ⟨fun hh hd => ?_, fun hx hc hr => ?_⟩,
      fun ha => ⟨_, congrArg Host.Outcome.next (State.onQueueRead_up hu _), State.latchCounters_latches ha⟩,
      fun cfg hj ha => ⟨_, up _, ?_⟩, fun hj hr => ⟨_, up _, ?_⟩, ?_⟩
    · rw [State.ringSq_absent ha]
      exact s.setAccess_flag (by decide)
    · have hq := State.reportCq_counts ha hh hd
      exact ⟨_, up _, by rw [hq], by rw [hq]; rfl⟩
    · refine ⟨_, up _, ?_⟩
      rw [State.reportCq_refused ha hx]
      exact State.malformed_queue hc hr 6 _
    · rw [hj, if_neg Bool.false_ne_true]
      exact State.writeCfg_enable ha (by simp)
    · rw [hj, if_neg Bool.false_ne_true]
      exact State.disableQueue_drains hr
    · rintro fn skip rfl he hk
      exact ⟨_, up _, State.restartAdmin_restarts he hk⟩
  · refine ⟨fun tail hi hp ht => execIndexBlockRead_reads hf hi hp ht, fun b hi hw hb hn hp hm => ?_⟩
    obtain ⟨t, ht, hq⟩ := execSqFetch_takes hf hi hw hb hn hp hm
    exact ⟨t, ht, by rw [hq]; rfl, by rw [hq]; rfl, by rw [hq]; rfl⟩
end


section
/-! The queue commands, IDENTIFY and ABORT (R206 to R209, R236, R245, R246). -/
namespace Sys2Proof.Machine
open Sys2Proof

/-! ### Jobs that a stop of others leaves -/

section
variable {s : State} {id : Nat} {x : Job} (hx : s.job? id = some x)
include hx

theorem State.job?_mapJob_same {f : Job → Job} (hf : ∀ y, (f y).id = y.id) : (s.mapJob id f).job? id = some (f x) :=
  (State.job?_map hx hf).trans (congrArg some (if_pos (State.job?_id hx)))

theorem State.job?_mapJob_ne {i : Nat} (hn : id ≠ i) {f : Job → Job} (hf : ∀ y, (f y).id = y.id) :
    (s.mapJob i f).job? id = some x :=
  (State.job?_map hx hf).trans (congrArg some (if_neg (by rwa [State.job?_id hx])))

section
variable (hl : x.phase ≠ .waitLeaf)
include hl

/-- The end of a job leaves every other that does not wait for a leaf. -/
theorem State.finish_job?_ne {n : Nat} (hn : id ≠ n) (c : Status) (r : BitVec 64) (b : Bytes) (k : Nat) :
    (s.finish n c r b k).job? id = some x := by
  have h1 := State.job?_mapJobs (s := s.leavePort n) (p := fun j => j.waitsLeaf (s.job? n)) (f := Job.wake) (j := x)
    (by simpa using hx) fun _ => rfl
  rw [if_neg (by simp [Job.waitsLeaf, hl])] at h1
  exact State.job?_mapJob_ne h1 hn fun _ => rfl

theorem State.stopJob_job?_ne {k : Job} (hn : id ≠ k.id) (status : Status) : (s.stopJob k status).job? id = some x := by
  let u := (s.mapStore fun o => o.spoilAll (k.stopSpoils status)).dropStream k
  have hu : u.job? id = some x := (State.job?_congr (State.dropStream_get _ k (fld := .jobs) (by simp)) id).trans hx
  have hc : (u.uncount k status).job? id = some x := by
    unfold State.uncount
    split
    · exact State.job?_mapJob_ne (s := u.mapKeys _) hu hn fun _ => by rfl
    · exact hu
  exact State.finish_job?_ne (s := (u.uncount k status).draw) hc hl hn _ _ _ _

/-- An order to stop others leaves a job that does not run. -/
theorem State.orderStop_job?_ne (hr : x.phase ≠ .running) {p : Job → Bool} (hp : ∀ y ∈ s.jobs, p y = true → y.id ≠ id)
    (status : Status) : (s.orderStop p status).job? id = some x := by
  unfold State.orderStop
  extract_lets hit
  refine List.foldlRecOn (motive := fun u : State => u.job? id = some x) _ _ ?_ fun u hu k hk => ?_
  · exact (State.job?_mapJobs hx fun _ => by rfl).trans (congrArg some (if_neg (by simp [hr])))
  · obtain ⟨hj, hpk⟩ := List.mem_filter.1 (List.mem_of_mem_filter hk)
    exact State.stopJob_job?_ne hu hl (hp k hj (Bool.and_eq_true_iff.1 hpk).1).symm status

end

end

/-- After an order to stop the jobs of a number, one that still runs has the order. -/
theorem State.orderStop_number (s : State) (n : Nat) (status : Status) :
    ∀ x ∈ (s.orderStop (fun x => x.id = n) status).jobs, x.id = n → x.phase = .running → x.stop = some status := by
  unfold State.orderStop
  extract_lets hit
  refine List.foldlRecOn (motive := fun u : State => ∀ x ∈ u.jobs, x.id = n → x.phase = .running → x.stop = some status)
    _ _ (fun x hx hi hr => ?_) fun u _ k hk x hx hi hr => ?_
  · obtain ⟨y, -, rfl⟩ := List.mem_map.1 hx
    by_cases hy : y.id = n ∧ y.phase = .running
    · simp [hy]
    · rw [if_neg (by simpa using hy)] at hi hr
      exact absurd ⟨hi, hr⟩ hy
  · obtain ⟨-, hpk⟩ := List.mem_filter.1 (List.mem_of_mem_filter hk)
    have hkn : k.id = n := of_decide_eq_true (Bool.and_eq_true_iff.1 hpk).1
    obtain ⟨-, -, -, -, he, -⟩ := State.stopJob_jobs hx
    exact absurd ((he (hi.trans hkn.symm)).symm.trans hr) (by decide)

/-! ### The commands -/

section
variable {s : State} {id : Nat} {j : Job}

theorem execQueueCreate_creates (h : s.runsJob id j .queueCreate []) (hs : j.entry.p 14 1 ≤ s.shareFree)
    (ha : (s.queue j.named).state = .absent) (hn : s.jobQueues.length < 4096) :
    ∃ t, exec (.queueCreate id) s = .next t ∧ t.endedWith id st.ok (BitVec.ofNat 64 (j.entry.p 8 2)) []
      ∧ t.queue j.named = newQueue j.named j.entry := by
  refine ⟨_, congrArg Host.Outcome.next (State.runCmd_of h _), ?_⟩
  dsimp only
  rw [if_neg (Nat.not_lt.2 hs), if_neg (not_not_intro ha), if_neg (Nat.not_le.2 hn)]
  exact ⟨State.done_ended (s := s.setQueue (newQueue j.named j.entry)) h.1 (State.job?_id h.1) _ [] _,
    State.queue_setQueue_of rfl⟩

theorem execQueueRestart_restarts (h : s.runsJob id j .queueRestart []) (he : (s.queue j.named).state = .error)
    (hk : j.entry.p 10 1 = 1 → (s.queue j.named).errKind = 4 ∨ (s.queue j.named).errKind = 5) :
    ∃ t, exec (.queueRestart id) s = .next t ∧ t.endedWith id st.ok 0 []
      ∧ t.queue j.named = (s.queue j.named).restart (j.entry.p 10 1 = 1) := by
  refine ⟨_, congrArg Host.Outcome.next (State.runCmd_of h _), ?_⟩
  let q := (s.queue j.named).restart (j.entry.p 10 1 = 1)
  have hs : ¬ (decide (j.entry.p 10 1 = 1) = true ∧ (s.queue j.named).errKind ≠ 4 ∧ (s.queue j.named).errKind ≠ 5) :=
    fun ⟨hp, h4, h5⟩ => (hk (of_decide_eq_true hp)).elim h4 h5
  dsimp only
  rw [if_neg (not_not_intro he), if_neg hs]
  exact ⟨State.done_ended (s := s.setQueue q) h.1 (State.job?_id h.1) _ [] _,
    State.queue_setQueue_of ((Queue.restart_ref _ _).trans (s.queue_ref _))⟩

/-- The state in which QUEUE_DESTROY waits for the queue to drain (R208). -/
def State.destroying (s : State) (j : Job) : State :=
  ((s.setQueue ((s.queue j.named).drain (some j.id))).wakeReturned j.named (s.queue j.named).intake).mapJob j.id fun x =>
    { x with phase := .barrier, unit := none }

theorem State.destroying_queue (s : State) (j : Job) :
    (s.destroying j).queue j.named = (s.queue j.named).drain (some j.id) :=
  State.queue_setQueue_of (s := s) (s.queue_ref j.named)

theorem State.destroying_job? (h : s.job? id = some j) : ∃ x, (s.destroying j).job? id = some x ∧ x.phase = .barrier := by
  obtain rfl := State.job?_id h
  exact ⟨_, State.job?_mapJob_same (State.job?_mapJobs (s := s.setQueue _) h fun _ => by rfl) fun _ => by rfl, rfl⟩

/-- No job changes its number or its queue. -/
theorem State.destroying_jobs {x : Job} (hx : x ∈ (s.destroying j).jobs) : ∃ y ∈ s.jobs, y.id = x.id ∧ y.q = x.q := by
  obtain ⟨y, hy, rfl⟩ := List.mem_map.1 hx
  obtain ⟨z, hz, rfl⟩ := List.mem_map.1 hy
  refine ⟨z, hz, ?_⟩
  dsimp only
  split <;> split <;> exact ⟨rfl, rfl⟩

/-- QUEUE_DESTROY drains its queue, and with ABORT stops the jobs of it. -/
theorem execQueueDestroy_drains (h : s.runsJob id j .queueDestroy [])
    (hr : (s.queue j.named).state = .running ∨ (s.queue j.named).state = .error)
    (hn : ∀ x, x ∈ s.jobs → x.q = j.named → x.id ≠ id) :
    ∃ t, exec (.queueDestroy id) s = .next t ∧ t.queue j.named = (s.queue j.named).drain (some id)
      ∧ (t.job? id).map Job.phase = some .barrier
      ∧ (j.entry.p 10 1 = 1 → ∀ x, x ∈ t.jobs → x.q = j.named → x.ended = true ∨ x.stop = some st.abortedQueueStop) := by
  let stop (u : State) : State :=
    if j.entry.p 10 1 = 1 then u.orderStop (fun x => x.q = j.named) st.abortedQueueStop else u
  have hx : exec (.queueDestroy id) s = .next (stop (s.destroying j)) :=
    congrArg Host.Outcome.next ((State.runCmd_of h _).trans (if_neg fun hx => hr.elim hx.1 hx.2))
  obtain ⟨x, hj, hp⟩ := State.destroying_job? h.1
  have hq := s.destroying_queue j
  rw [State.job?_id h.1] at hq
  refine ⟨_, hx, ?_⟩
  by_cases ha : j.entry.p 10 1 = 1
  · simp only [stop, if_pos ha]
    refine ⟨(State.queue_congr (State.orderStop_get _ _ _ (fld := .queues) (by simp)) _).trans hq, ?_, fun _ y hy hyq => ?_⟩
    · rw [State.orderStop_job?_ne hj (by simp [hp]) (by simp [hp])]
      · exact congrArg some hp
      · intro y hy hyq
        obtain ⟨z, hz, hi, hzq⟩ := State.destroying_jobs hy
        exact hi ▸ hn z hz (hzq.trans (of_decide_eq_true hyq))
    · rcases State.orderStop_ordered (fun x y h => by rw [h]) _ y hy (decide_eq_true hyq) with he | ⟨-, hs⟩
      · exact .inl (decide_eq_true he)
      · exact .inr hs
  · simp only [stop, if_neg ha]
    exact ⟨hq, by rw [hj]; exact congrArg some hp, fun h1 => absurd h1 ha⟩

/-! ### ABORT (R236) -/

theorem State.awaitTarget_job? (h : s.job? id = some j) (q : QRef) (cmd : BitVec 16) (n : Nat) :
    (s.awaitTarget j q cmd n).job? id
      = some { j with phase := .barrier, unit := none, aborts := some (q, cmd), started := n } := by
  obtain rfl := State.job?_id h
  exact State.job?_mapJob_same h fun _ => by rfl

section
variable (h : s.runsJob id j .abort [])
include h

theorem execAbort_idle (hq : j.entry.p 0 2 = 0 ∨ (s.queue (.job j.fn (j.entry.p 0 2))).state = .absent) :
    ∃ t, exec (.abort id) s = .next t ∧ t.endedWith id st.ok 0 [] :=
  ⟨_, congrArg Host.Outcome.next ((State.runCmd_of h _).trans (if_pos hq)), State.done_ended h.1 (State.job?_id h.1) 0 [] _⟩

section
variable (hz : j.entry.p 0 2 ≠ 0) (hq : (s.queue (.job j.fn (j.entry.p 0 2))).state ≠ .absent)
include hz hq

/-- A target that waits in the intake is marked. -/
theorem execAbort_waiting (hi : (s.queue (.job j.fn (j.entry.p 0 2))).intake.any
      (fun i => i.entry.cmdId = BitVec.ofNat 16 (j.entry.p 2 2)) = true) :
    ∃ t, exec (.abort id) s = .next t ∧ (t.job? id).map Job.phase = some .barrier
      ∧ ∀ i, i ∈ (t.queue (.job j.fn (j.entry.p 0 2))).intake → i.entry.cmdId = BitVec.ofNat 16 (j.entry.p 2 2) →
          i.aborted = true := by
  let r : QRef := .job j.fn (j.entry.p 0 2)
  let cmd := BitVec.ofNat 16 (j.entry.p 2 2)
  let mark (i : Intake) : Intake := if i.entry.cmdId = cmd then { i with aborted := true } else i
  let u := s.mapQueue r fun y => { y with intake := y.intake.map mark }
  have hu : u.queue r = { s.queue r with intake := (s.queue r).intake.map mark } := s.queue_mapQueue r (s.queue_ref r)
  have hx : exec (.abort id) s = .next (u.awaitTarget j r cmd 1) :=
    congrArg Host.Outcome.next ((State.runCmd_of h _).trans ((if_neg (not_or.2 ⟨hz, hq⟩)).trans (if_pos hi)))
  refine ⟨_, hx, ?_, fun i hm hc => ?_⟩
  · rw [State.awaitTarget_job? (s := u) h.1]
    rfl
  · have hm : i ∈ (u.queue r).intake := hm
    rw [hu] at hm
    obtain ⟨k, -, rfl⟩ := List.mem_map.1 hm
    by_cases hk : k.entry.cmdId = cmd
    · simp only [mark, if_pos hk]
    · simp only [mark, if_neg hk] at hc
      exact absurd hc hk

/-- A target that runs is ordered to stop. -/
theorem execAbort_running {k : Job} (hi : (s.queue (.job j.fn (j.entry.p 0 2))).intake.any
      (fun i => i.entry.cmdId = BitVec.ofNat 16 (j.entry.p 2 2)) = false)
    (hk : s.jobs.find? (fun k => k.q = .job j.fn (j.entry.p 0 2) && k.entry.cmdId = BitVec.ofNat 16 (j.entry.p 2 2)) = some k)
    (hp : k.phase = .running) (hn : k.id ≠ id) :
    ∃ t, exec (.abort id) s = .next t ∧ (t.job? id).map Job.phase = some .barrier
      ∧ ∀ x, x ∈ t.jobs → x.id = k.id → x.phase = .running → x.stop = some st.abortedHost := by
  let u := s.awaitTarget j (.job j.fn (j.entry.p 0 2)) (BitVec.ofNat 16 (j.entry.p 2 2)) 2
  have hx : exec (.abort id) s = .next (u.orderStop (fun x => x.id = k.id) st.abortedHost) := by
    refine congrArg Host.Outcome.next ((State.runCmd_of h _).trans ?_)
    dsimp only
    rw [if_neg (not_or.2 ⟨hz, hq⟩), hi, if_neg Bool.false_ne_true, hk]
    exact if_neg (by simp [Job.ended, hp])
  have hj := State.awaitTarget_job? h.1 (.job j.fn (j.entry.p 0 2)) (BitVec.ofNat 16 (j.entry.p 2 2)) 2
  refine ⟨_, hx, ?_, u.orderStop_number k.id _⟩
  have hs : ∀ y ∈ u.jobs, decide (y.id = k.id) = true → y.id ≠ id := fun y _ hy => of_decide_eq_true hy ▸ hn
  rw [State.orderStop_job?_ne hj nofun nofun hs]
  rfl

end

end

end

end Sys2Proof.Machine
open Sys2Proof Sys2Proof.Machine

/-- Settles O33: each command by its own case; a stop of other jobs leaves the command that ordered it. -/
theorem queueCommandsComplete : Obligations.QueueCommandsComplete := by
  intro s id j q
  refine ⟨execQueueCreate_creates, fun h _ hr hn => execQueueDestroy_drains h hr hn, execQueueRestart_restarts,
    fun h => ⟨_, congrArg Host.Outcome.next (State.runCmd_of h _), State.done_ended h.1 (State.job?_id h.1) 0 _ _⟩,
    fun h => ⟨execAbort_idle h, fun hz hq => ⟨execAbort_waiting h hz hq,
      fun k hi hk hp hn => execAbort_running h hz hq hi hk hp hn⟩⟩⟩
end


section
/-!
The Hopper (R193, R197 to R202, R219, R225, R227, R231 to R233, R344, R445): the arbitration of a class, a dispatch with its
intake, subtree tasks, the engine-time windows, yield points and the ends of a wait.
-/
namespace Sys2Proof.Machine
open Sys2Proof

/-! ### The arbitration of a class -/

@[simp] theorem State.mapArb_arb (s : State) (c : UnitClass) (f : Arb → Arb) :
    (s.mapArb c f).sched.arb c = f (s.sched.arb c) := by
  cases c <;> rfl

@[simp] theorem State.mapArb_step (s : State) (c : UnitClass) (f : Arb → Arb) : (s.mapArb c f).sched.step = s.sched.step := by
  cases c <;> rfl

theorem State.mapArb_arb_ne (s : State) {c d : UnitClass} (h : d ≠ c) (f : Arb → Arb) :
    (s.mapArb c f).sched.arb d = s.sched.arb d := by
  cases c <;> cases d <;> first | rfl | exact absurd rfl h

theorem State.mapArb_sched_congr {s t : State} (h : t.sched = s.sched) (c : UnitClass) (f : Arb → Arb) :
    (t.mapArb c f).sched = (s.mapArb c f).sched := by
  cases c <;> simp only [State.mapArb, h]

/-- Of the scheduler, `t` differs from `s` in the arbitration of one class at most. -/
structure State.InClass (c : UnitClass) (s t : State) : Prop where
  step : t.sched.step = s.sched.step
  arb : ∀ d, d ≠ c → t.sched.arb d = s.sched.arb d

section
variable {c : UnitClass}

theorem State.InClass.of_eq {s t : State} (h : t.sched = s.sched) : State.InClass c s t :=
  ⟨by rw [h], fun d _ => by rw [h]⟩

theorem State.InClass.trans {s t u : State} (h : State.InClass c s t) (k : State.InClass c t u) : State.InClass c s u :=
  ⟨k.step.trans h.step, fun d hd => (k.arb d hd).trans (h.arb d hd)⟩

theorem State.InClass.mapArb (s : State) (f : Arb → Arb) : State.InClass c s (s.mapArb c f) :=
  ⟨s.mapArb_step c f, fun _ hd => s.mapArb_arb_ne hd f⟩

theorem State.InClass.foldl {α : Type} {g : State → α → State} (h : ∀ s a, State.InClass c s (g s a)) (l : List α)
    (s : State) : State.InClass c s (l.foldl g s) := by
  induction l generalizing s with
  | nil => exact .of_eq rfl
  | cons a l ih => exact (h s a).trans (ih _)

theorem State.InClass.countUse (s : State) (r : QRef) (job code : Nat) : State.InClass c s (s.countUse c r job code) := by
  have h : State.InClass c s (s.useUnit c r code) := .mapArb s _
  unfold State.countUse
  exact (h.trans (.mapArb _ _)).trans (.of_eq (State.draw_get _ (fld := .sched) (by simp)))

/-- The choice of R201 moves positions and credit of its class alone. -/
theorem State.InClass.choose (s : State) : State.InClass c s (s.choose c).2 := by
  have wrr (el : List Queue) : State.InClass c s (s.wrr c el).2 := by
    unfold State.wrr
    split
    · exact .of_eq rfl
    · extract_lets a a1
      split
      · dsimp only
        exact .mapArb s _
      · dsimp only
        exact .mapArb s _
  unfold State.choose
  extract_lets cap el
  split
  · exact .of_eq rfl
  · split
    · dsimp only
      exact .mapArb s _
    · split
      · dsimp only
        exact .mapArb s _
      · exact wrr _

end

/-! ### Endings and queues -/

theorem State.unitTaken_job? (s : State) (c : UnitClass) (id : Nat) : (s.unitTaken c).job? id = s.job? id :=
  State.job?_congr (s.unitTaken_get c (fld := .jobs) (by simp)) id

theorem State.countUse_job? (s : State) (c : UnitClass) (r : QRef) (job code id : Nat) :
    (s.countUse c r job code).job? id = s.job? id :=
  State.job?_congr (s.countUse_get c r job code (fld := .jobs) (by simp)) id

theorem State.dropStream_job? (s : State) (j : Job) (id : Nat) : (s.dropStream j).job? id = s.job? id :=
  State.job?_congr (s.dropStream_get j (fld := .jobs) (by simp)) id

theorem State.fail_ended {s : State} {j : Job} (h : (s.job? j.id).isSome) (c : Status) (n : Nat) :
    (s.fail j c n).endedWith j.id c (j.plainResult c) [] :=
  (State.finish_iff h c c _ _ [] [] n).2 ⟨rfl, rfl, ite_self _⟩

/-- A job that is stopped has ended with the status of the stop (R237). -/
theorem State.stopJob_ended {s : State} {j : Job} (h : s.job? j.id = some j) (status : Status) :
    (s.stopJob j status).endedWith j.id status (j.plainResult status) [] := by
  let u := (s.mapStore fun o => o.spoilAll (j.stopSpoils status)).dropStream j
  have hu : u.job? j.id = some j := (State.dropStream_job? _ j _).trans h
  refine State.fail_ended (s := (u.uncount j status).draw) ?_ status _
  rw [State.draw_job?, State.uncount]
  split
  · rw [State.job?_mapJob_same (s := u.mapKeys _) hu fun _ => by rfl]
    rfl
  · rw [hu]
    rfl

theorem State.queue_setQueue_ne {s : State} {q : Queue} {r : QRef} (h : q.ref ≠ r) : (s.setQueue q).queue r = s.queue r := by
  unfold State.queue State.setQueue
  split
  · have hp : ((fun y : Queue => decide (y.ref = r)) ∘ fun y => if y.ref = q.ref then q else y)
        = fun y => decide (y.ref = r) := by
      funext y
      by_cases hy : y.ref = q.ref <;> simp [hy, h]
    rw [List.find?_map, hp]
    cases hx : s.queues.find? fun y => y.ref = r with
    | none => rfl
    | some x =>
      have hr : x.ref = r := by simpa using List.find?_some hx
      exact congrArg (Option.getD · _) (congrArg some (if_neg (by rw [hr]; exact h.symm)))
  · simp [h]

theorem State.setQEvt_queue_ne (s : State) {r k : QRef} (h : k ≠ r) (b : Nat) : (s.setQEvt k b).queue r = s.queue r :=
  (State.queue_setQueue_ne (s := s.countEvt (qEvtBank k) b)
    fun he => h ((s.queue_ref k).symm.trans he))

/-- A flag that is set for a list of queues stands for each of them. -/
theorem State.foldl_setQEvt_flag {b : Nat} (hb : b < 3) {r : QRef} (l : List QRef) (s : State)
    (h : r ∈ l ∨ (s.queue r).evt.getLsbD b = true) :
    ((l.foldl (fun s k => s.setQEvt k b) s).queue r).evt.getLsbD b = true := by
  induction l generalizing s with
  | nil => simpa using h
  | cons k l ih =>
    refine ih (s.setQEvt k b) ?_
    by_cases hk : k = r
    · subst hk
      rw [State.setQEvt_queue]
      exact .inr (by simp [hb])
    · rw [s.setQEvt_queue_ne hk]
      exact h.imp_left fun hm => (List.mem_cons.1 hm).resolve_left (Ne.symm hk)

theorem State.noteStall_queue (s : State) (r : QRef) : ∃ e, (s.noteStall r).queue r = { s.queue r with evt := e } := by
  unfold State.noteStall
  split
  · exact ⟨(s.queue r).evt, rfl⟩
  · exact ⟨_, s.setQEvt_queue r 1⟩

/-! ### Intake (R219) -/

theorem State.eccJob_job?_some {s : State} {id : Nat} (h : (s.job? id).isSome) (w : SramWord) :
    ((s.eccJob w).job? id).isSome := by
  have hd (j : Job) : ((s.dropStream j).job? id).isSome := by rwa [State.dropStream_job?]
  unfold State.eccJob
  split
  · split
    · split
      · exact h
      · exact State.finish_job?_some (hd _) _ _ _ _ _
    · exact h
  · exact h

/-- The record of a DMA error loses no job. -/
theorem State.dmaError_job?_some {s : State} {id : Nat} (h : (s.job? id).isSome) (fn : Nat) (e : DmaErr) (a : BitVec 64) :
    ((s.dmaError fn e a).job? id).isSome := by
  cases e with
  | internal w =>
    let u := ((s.setFnDma fn (DmaErr.num (.internal w)) a).faultEvent 5 0).1.retire w 5
    have hu : u.jobs = s.jobs := ((State.retire_get _ w 5 (fld := .jobs) (by simp)).trans
      (State.faultEvent_get _ 5 0 (fld := .jobs) (by simp))).trans (State.setFnDma_get s fn _ a (fld := .jobs) (by simp))
    exact State.eccJob_job?_some (s := u) (by rwa [State.job?_congr hu]) w
  | _ => rwa [State.job?_congr (State.dmaError_get_of_pcie (by simp) s fn a (fld := .jobs) (by simp))]

section
variable {s t : State} (hk : t.keys = s.keys) (hp : t.keeper = s.keeper)
include hk hp

theorem State.cacheTag_congr (i : Nat) : t.cacheTag i = s.cacheTag i := by
  simp only [State.cacheTag, State.sepochOf, State.slogOf, hk, hp]

theorem State.touched_congr (chain : List Nat) : t.touched chain = s.touched chain := by
  induction chain with
  | nil => rfl
  | cons i rest ih => simp only [State.touched, hk, State.cacheTag_congr hk hp, ih]

/-- Which keys are at hand rests on the context records and the log records of the keeper. -/
theorem State.lostRoot_congr (chain : List Nat) : t.lostRoot chain = s.lostRoot chain := by
  simp only [State.lostRoot, hk, State.touched_congr hk hp, State.cacheTag_congr hk hp]

end

theorem State.lostRoot_readIn (s : State) (fn : Nat) (rs : List (BitVec 64 × Nat)) (chain : List Nat) :
    (s.readIn fn rs).lostRoot chain = s.lostRoot chain :=
  State.lostRoot_congr (s.readIn_get fn rs (fld := .keys) (by simp)) (s.readIn_get fn rs (fld := .keeper) (by simp)) chain

section
variable {s : State} {j : Job} (hj : s.job? j.id = some j)
include hj

/-- A job that starts with its keys at hand has its unit, its holds and its output ranges. -/
theorem State.startJob_starts {chain chain2 : List Nat} (h1 : s.lostRoot chain = false) (h2 : s.lostRoot chain2 = false)
    (u : Option Nat) (holds : List Hold) (outs : List (BitVec 64 × Nat)) :
    ∃ x, (s.startJob j u holds chain chain2 outs).job? j.id = some x ∧ x.entry = j.entry ∧ x.q = j.q ∧ x.holds = holds
      ∧ x.outFrags = outs ∧ x.unit = u := by
  have hk : (s.lostRoot (if keyless j.op then [] else chain) || s.lostRoot chain2) = false := by
    split
    · exact h2
    · rw [h1, h2]
      rfl
  unfold State.startJob
  extract_lets slot waits kc key record counted lost t1 t2 t3
  have hl : lost = false := hk
  have ht : t1.job? j.id = some j := by
    rw [State.mapKeys_job?, State.job?_ite]
    split <;> exact hj
  rw [hl, if_neg Bool.false_ne_true, State.unitTaken_job?, State.countUse_job?, State.job?_mapJob_same ht fun _ => by rfl]
  exact ⟨_, rfl, rfl, rfl, rfl, rfl, rfl⟩

variable {i : Intake} {inF outF : List FragEntry} {fragErr : DmaErr}

theorem State.runIntake_aborted (ha : i.aborted = true) :
    (s.runIntake j i inF outF fragErr).endedWith j.id st.abortedHost (j.plainResult st.abortedHost) [] := by
  unfold State.runIntake
  rw [if_pos ha]
  refine State.fail_ended ?_ _ _
  rw [State.dropStream_job?, hj]
  rfl

section
variable (ha : i.aborted = false)
include ha

theorem State.runIntake_ended {c : Status} {res : BitVec 64} (h : s.intake j.q j.entry inF outF = .ended c res) :
    (s.runIntake j i inF outF fragErr).endedWith j.id c (signerResult j.op c res) [] := by
  unfold State.runIntake
  rw [if_neg (by simp [ha]), h]
  refine (State.finish_iff ?_ c c _ _ [] [] _).2 ⟨rfl, rfl, ite_self _⟩
  rw [State.dropStream_job?, hj]
  rfl

theorem State.runIntake_unread {a : BitVec 64} (h : s.intake j.q j.entry inF outF = .unread a) :
    (s.runIntake j i inF outF fragErr).endedWith j.id (DmaErr.status fragErr) (j.plainResult (DmaErr.status fragErr)) [] := by
  unfold State.runIntake
  rw [if_neg (by simp [ha]), h]
  refine State.fail_ended (State.dmaError_job?_some ?_ _ _ _) _ _
  rw [State.dropStream_job?, hj]
  rfl

theorem State.runIntake_accepted {holds : List Hold} {c1 c2 : List Nat} {ins outs : List (BitVec 64 × Nat)}
    (h : s.intake j.q j.entry inF outF = .accepted holds c1 c2 ins outs) (h1 : s.lostRoot c1 = false)
    (h2 : s.lostRoot c2 = false) :
    ∃ x, (s.runIntake j i inF outF fragErr).job? j.id = some x ∧ x.entry = j.entry ∧ x.q = j.q ∧ x.holds = holds
      ∧ x.outFrags = outs ∧ x.unit = s.pickUnit j.group := by
  unfold State.runIntake
  rw [if_neg (by simp [ha]), h]
  dsimp only
  split
  · refine State.startJob_starts ?_ ((s.lostRoot_readIn _ _ _).trans h1) ((s.lostRoot_readIn _ _ _).trans h2) _ _ _
    exact (State.job?_congr (s.readIn_get _ _ (fld := .jobs) (by simp)) _).trans hj
  · exact State.startJob_starts hj h1 h2 _ _ _

end

end

/-! ### Dispatch (R193, R201, R344) -/

/-- An entry that leaves the intake is counted, and is the job of the next number. -/
theorem State.leaveIntake_leaves (s : State) (r : QRef) (i : Intake) (hn : s.job? s.nextJob = none) :
    (s.leaveIntake r i).job? s.nextJob = some (newJob s.nextJob r i)
    ∧ (s.leaveIntake r i).nextJob = s.nextJob + 1
    ∧ ((s.leaveIntake r i).queue r).intake = (s.queue r).intake.drop 1
    ∧ ((s.leaveIntake r i).queue r).cnt.dispatched = (s.queue r).cnt.dispatched + 1 := by
  let q : Queue := { s.queue r with
    intake := (s.queue r).intake.drop 1, cnt := { (s.queue r).cnt with dispatched := (s.queue r).cnt.dispatched + 1 } }
  let u := s.setQueue q
  have hj : (s.leaveIntake r i).jobs = s.jobs ++ [newJob s.nextJob r i] :=
    congrArg (· ++ [newJob s.nextJob r i]) (u.noteStall_get r (fld := .jobs) (by simp))
  have hx : (s.leaveIntake r i).nextJob = s.nextJob + 1 := congrArg (· + 1) (u.noteStall_get r (fld := .nextJob) (by simp))
  obtain ⟨e, he⟩ := u.noteStall_queue r
  rw [State.queue_setQueue_of (q := q) (s.queue_ref r)] at he
  have hq : (s.leaveIntake r i).queue r = { q with evt := e } := he
  refine ⟨?_, hx, by rw [hq], by rw [hq]⟩
  have hn : s.jobs.find? (fun j => j.id = s.nextJob) = none := hn
  simp [State.job?, hj, List.find?_append, hn, newJob]

/-- What intake makes of an entry that has left is the job's: the queue and the numbering stand. -/
theorem State.runIntake_after (s : State) (r : QRef) (i : Intake) (j : Job) (inF outF : List FragEntry) (fragErr : DmaErr) :
    let t := ((s.leaveIntake r i).noteAccept r i.entry i.aborted).runIntake j i inF outF fragErr
    t.nextJob = (s.leaveIntake r i).nextJob ∧ t.queue r = (s.leaveIntake r i).queue r := by
  let u := s.leaveIntake r i
  exact ⟨(State.runIntake_get _ j i inF outF fragErr (fld := .nextJob) (by simp)).trans
      (u.noteAccept_get r i.entry i.aborted (fld := .nextJob) (by simp)),
    State.queue_congr ((State.runIntake_get _ j i inF outF fragErr (fld := .queues) (by simp)).trans
      (u.noteAccept_get r i.entry i.aborted (fld := .queues) (by simp))) r⟩

section
variable {s s3 : State} {cls : UnitClass} {r : QRef} (hd : s.dispatching = true) (hr : s.resumers cls = [])
  (hc : (s.noteChoice cls).choose cls = (some r, s3))

include hc in
theorem State.choice_get {fld : Field} (h : fld ∉ ([.sched] : List Field)) : s3.get fld = s.get fld := by
  have h3 := State.choose_get (s.noteChoice cls) cls h
  rw [hc] at h3
  exact h3.trans (s.noteChoice_get cls h)

include hc in
theorem State.choice_step : s3.sched.step = s.sched.step := by
  have h3 : State.InClass cls (s.noteChoice cls) s3 := by
    have := State.InClass.choose (c := cls) (s.noteChoice cls)
    rwa [hc] at this
  exact h3.step.trans (s.mapArb_step cls _)

include hc in
theorem State.choice_nextJob (hn : s.job? s.nextJob = none) : s3.nextJob = s.nextJob ∧ s3.job? s3.nextJob = none := by
  have hx : s3.nextJob = s.nextJob := State.choice_get hc (fld := .nextJob) (by simp)
  exact ⟨hx, by rw [hx, State.job?_congr (State.choice_get hc (fld := .jobs) (by simp)), hn]⟩

include hd hr hc

/-- The next entry of the queue that R201 chooses goes through intake. -/
theorem execHopperDispatch_runs (hn : s.job? s.nextJob = none) {i : Intake} (ht : s3.taskReady cls (s3.queue r) = false)
    (hi : (s3.queue r).next = some i) (inF outF : List FragEntry) (fragErr : DmaErr) :
    exec (.hopperDispatch cls inF outF fragErr) s
      = .next (((s3.leaveIntake r i).noteAccept r i.entry i.aborted).runIntake (newJob s.nextJob r i) i inF outF fragErr)
    ∧ ((s3.leaveIntake r i).noteAccept r i.entry i.aborted).job? s.nextJob = some (newJob s.nextJob r i) := by
  obtain ⟨hx, hn3⟩ := State.choice_nextJob hc hn
  obtain ⟨hj, -⟩ := s3.leaveIntake_leaves r i hn3
  have hk : ((s3.leaveIntake r i).noteAccept r i.entry i.aborted).job? s.nextJob = some (newJob s.nextJob r i) := by
    rw [State.job?_congr (State.noteAccept_get _ r i.entry i.aborted (fld := .jobs) (by simp)), ← hx, hj]
  refine ⟨?_, hk⟩
  change execHopperDispatch cls inF outF s fragErr = _
  unfold execHopperDispatch
  rw [if_neg (by simp [hd, hr])]
  dsimp only
  rw [hc]
  dsimp only
  rw [ht, if_neg Bool.false_ne_true, hi]
  dsimp only
  rw [hx, hk]

end

theorem execHopperDispatch_task {s s3 : State} {r : QRef} (hd : s.dispatching = true) (hr : s.resumers .hash = [])
    (hc : (s.noteChoice .hash).choose .hash = (some r, s3)) {k : Job} (ht : s3.taskReady .hash (s3.queue r) = true)
    (hk : s3.taskJob r = some k) (inF outF : List FragEntry) (fragErr : DmaErr) :
    exec (.hopperDispatch .hash inF outF fragErr) s = .next (s3.startTask k) := by
  change execHopperDispatch .hash inF outF s fragErr = _
  unfold execHopperDispatch
  rw [if_neg (by simp [hd, hr])]
  dsimp only
  rw [hc]
  dsimp only
  rw [if_pos ht, hk]

/-- A subtree task takes the first idle hash group. -/
theorem State.startTask_takes {s : State} {k : Job} (hk : s.job? k.id = some k) {n u : Nat} (hn : k.tasks = some (n + 1))
    (hu : (s.unitsUp .hash).find? (fun u => !s.unitBusy .hash u) = some u) :
    (s.startTask k).job? k.id = some { k with tasks := some n, taskUnits := k.taskUnits ++ [u], since := s.sched.step } := by
  have h : ((s.countUse .hash k.q k.id k.op).unitTaken .hash).job? k.id = some k := by
    rw [State.unitTaken_job?, State.countUse_job?, hk]
  unfold State.startTask
  rw [hu]
  dsimp only
  rw [State.job?_mapJob_same h fun _ => by rfl, hn]
  rfl

/-! ### Windows (R198, R202) -/

/-- Of the arbitration of a class, `b` differs from `a` in engine time, and in CTLQ0's use of the window where `used`. -/
structure Arb.Counted (a b : Arb) (used : Bool) : Prop where
  always : b.always = a.always
  due : b.due = a.due
  ctl0Used : b.ctl0Used = (a.ctl0Used || used)

theorem Arb.Counted.refl (a : Arb) : a.Counted a false := ⟨rfl, rfl, (Bool.or_false _).symm⟩

theorem Arb.Counted.trans {a b c : Arb} {u v : Bool} (h : a.Counted b u) (k : b.Counted c v) : a.Counted c (u || v) :=
  ⟨k.always.trans h.always, k.due.trans h.due, by rw [k.ctl0Used, h.ctl0Used, Bool.or_assoc]⟩

section
variable (c : UnitClass)

theorem State.countUse_counted (s : State) (r : QRef) (job code : Nat) :
    (s.sched.arb c).Counted ((s.countUse c r job code).sched.arb c) (r = .ctl 0) := by
  rw [State.countUse, State.draw_sched, State.mapArb_arb, State.useUnit, State.mapArb_arb]
  exact ⟨rfl, rfl, rfl⟩

/-- The units of a job count in the step that begins. -/
def State.countUnits (s : State) (j : Job) : State := (List.range j.unitCount).foldl (fun s _ => s.countUse c j.q j.id j.op) s

theorem State.countUnits_counted (s : State) (j : Job) :
    (s.sched.arb c).Counted ((s.countUnits c j).sched.arb c) (decide (0 < j.unitCount) && decide (j.q = .ctl 0)) := by
  unfold State.countUnits
  induction j.unitCount with
  | zero => exact .refl _
  | succ n ih =>
    rw [List.range_succ, List.foldl_append]
    have h := ih.trans (State.countUse_counted c _ j.q j.id j.op)
    cases hq : decide (j.q = .ctl 0) <;> simpa [hq] using h

theorem State.foldl_countUnits_counted (l : List Job) (s : State) :
    (s.sched.arb c).Counted ((l.foldl (State.countUnits c) s).sched.arb c)
      (l.any fun j => decide (0 < j.unitCount) && decide (j.q = .ctl 0)) := by
  induction l generalizing s with
  | nil => exact .refl _
  | cons j l ih => exact (State.countUnits_counted c s j).trans (ih _)

/-- What the device does with a test ends it; nothing else of the scheduler changes. -/
theorem State.shareAct_sched (s : State) : (s.shareAct c).sched = (s.mapArb c fun a => { a with due := none }).sched := by
  unfold State.shareAct
  split
  · next h => cases c <;> simp only [State.mapArb] <;> simp only [Sched.arb] at h <;> rw [← h]
  · next w h =>
    have hf : ((w.hit.foldl (fun s r => s.setQEvt r 2) s)).sched = s.sched :=
      State.get_foldl w.hit (fun s r => s.setQEvt r 2) (f := .sched) (fun s r => s.setQEvt_get r 2 (by simp)) s
    dsimp only
    split
    · exact State.mapArb_sched_congr hf c _
    · exact (State.logBroken_get _ _ _ _ (fld := .sched) (by simp)).trans (State.mapArb_sched_congr hf c _)

theorem State.InClass.shareAct (s : State) : State.InClass c s (s.shareAct c) := by
  have h : State.InClass c s (s.mapArb c fun a => { a with due := none }) := .mapArb s _
  exact h.trans (.of_eq (s.shareAct_sched c))

/-- As a test finds a queue affected its SHARE_OVERRIDDEN is set. -/
theorem State.shareAct_flag {s : State} {w : ShareTest} (h : (s.sched.arb c).due = some w) {r : QRef} (hr : r ∈ w.hit) :
    ((s.shareAct c).queue r).evt.getLsbD 2 = true := by
  have hf := State.foldl_setQEvt_flag (b := 2) (by decide) w.hit s (.inl hr)
  unfold State.shareAct
  rw [h]
  dsimp only
  split
  · exact hf
  · rw [State.queue_congr (State.logBroken_get _ _ _ _ (fld := .queues) (by simp))]
    exact hf

theorem State.InClass.endWindow (s : State) : State.InClass c s (s.endWindow c) := by
  unfold State.endWindow
  split
  · exact .of_eq rfl
  · exact (State.InClass.shareAct c s).trans (.mapArb _ _)

/-- As an aligned window ends it is to be tested, and what R202 gathers begins anew. -/
theorem State.endWindow_arb {s : State} (h : s.sched.step % windowSteps = 0) :
    ((s.endWindow c).sched.arb c).always = none ∧ ((s.endWindow c).sched.arb c).due.isSome = true
      ∧ ((s.endWindow c).sched.arb c).ctl0Used = false := by
  unfold State.endWindow
  rw [if_neg (not_not_intro h)]
  dsimp only
  rw [State.mapArb_arb]
  exact ⟨rfl, rfl, rfl⟩

/-- The sliding window of a class has moved on by a step (R198). -/
def State.slid (s : State) : State :=
  s.mapArb c fun a =>
    { a with served := ((s.unitsUp c).length :: a.served).take windowSteps,
             uses := (a.uses.map fun u =>
               if u.step = s.sched.step - 1 ∧ s.heldThrough u.job then { u with micros := stepMicros } else u).filter fun u =>
                 s.sched.step < u.step + windowSteps }

theorem State.advanceClass_eq (s : State) : s.advanceClass c
    = (s.jobs.filter fun j => j.cls = c && !j.ended).foldl (State.countUnits c) ((s.slid c).endWindow c) := rfl

theorem State.InClass.advanceClass (s : State) : State.InClass c s (s.advanceClass c) := by
  have h1 : State.InClass c s ((s.slid c).endWindow c) := (State.InClass.mapArb s _).trans (.endWindow c _)
  rw [State.advanceClass_eq]
  exact h1.trans (.foldl (fun t _ => .foldl (fun t _ => .countUse t _ _ _) _ t) _ _)

/-- At the end of an aligned window CTLQ0's use of the next one begins with the units its jobs hold. -/
theorem State.advanceClass_window {s : State} (h : s.sched.step % windowSteps = 0) :
    ((s.advanceClass c).sched.arb c).always = none ∧ ((s.advanceClass c).sched.arb c).due.isSome = true
      ∧ (((s.advanceClass c).sched.arb c).ctl0Used = true ↔
          ∃ x, x ∈ s.jobs ∧ x.cls = c ∧ x.ended = false ∧ 0 < x.unitCount ∧ x.q = .ctl 0) := by
  obtain ⟨ha, hd, hu⟩ := State.endWindow_arb c (s := s.slid c) (by rwa [State.slid, State.mapArb_step])
  obtain ⟨ka, kd, ku⟩ := State.foldl_countUnits_counted c (s.jobs.filter fun j => j.cls = c && !j.ended)
    ((s.slid c).endWindow c)
  rw [State.advanceClass_eq]
  refine ⟨ka.trans ha, by rw [kd, hd], ?_⟩
  rw [ku, hu]
  simp [and_assoc]

end

theorem State.foldl_advanceClass_others {c : UnitClass} (l : List UnitClass) (hl : c ∉ l) (s : State) :
    (l.foldl State.advanceClass s).sched.step = s.sched.step
    ∧ (l.foldl State.advanceClass s).sched.arb c = s.sched.arb c ∧ (l.foldl State.advanceClass s).jobs = s.jobs := by
  induction l generalizing s with
  | nil => exact ⟨rfl, rfl, rfl⟩
  | cons d l ih =>
    obtain ⟨hd, hl⟩ := not_or.1 (List.mem_cons.not.1 hl)
    obtain ⟨h1, h2, h3⟩ := ih hl (s.advanceClass d)
    have hs := State.InClass.advanceClass d s
    exact ⟨h1.trans hs.step, h2.trans (hs.arb c hd), h3.trans (s.advanceClass_get d (fld := .jobs) (by simp))⟩

/-- A class has its own place among the classes. -/
theorem allClasses_split (c : UnitClass) : ∃ l m, allClasses = l ++ c :: m ∧ c ∉ l ∧ c ∉ m := by
  have hm : c ∈ allClasses := by cases c <;> decide
  obtain ⟨l, m, h⟩ := List.append_of_mem hm
  have hn : (l ++ c :: m).Nodup := h ▸ (by decide : allClasses.Nodup)
  have hc := (List.nodup_cons.1 (List.nodup_middle.1 hn)).1
  exact ⟨l, m, h, fun hl => hc (List.mem_append_left m hl), fun hm => hc (List.mem_append_right l hm)⟩

/-- 100 µs pass in every class; each class sees its own window alone. -/
theorem State.foldl_advanceClass (s : State) (c : UnitClass) : (allClasses.foldl State.advanceClass s).sched.step = s.sched.step
    ∧ (s.sched.step % windowSteps = 0 →
      ((allClasses.foldl State.advanceClass s).sched.arb c).always = none
      ∧ ((allClasses.foldl State.advanceClass s).sched.arb c).due.isSome = true
      ∧ (((allClasses.foldl State.advanceClass s).sched.arb c).ctl0Used = true ↔
          ∃ x, x ∈ s.jobs ∧ x.cls = c ∧ x.ended = false ∧ 0 < x.unitCount ∧ x.q = .ctl 0)) := by
  obtain ⟨l, m, h, hl, hm⟩ := allClasses_split c
  rw [h, List.foldl_append, List.foldl_cons]
  obtain ⟨h1, -, h3⟩ := State.foldl_advanceClass_others l hl s
  let u := l.foldl State.advanceClass s
  obtain ⟨k1, k2, -⟩ := State.foldl_advanceClass_others m hm (u.advanceClass c)
  refine ⟨(k1.trans (State.InClass.advanceClass c u).step).trans h1, fun hw => ?_⟩
  rw [k2, ← h3]
  exact State.advanceClass_window c (s := u) (by rwa [h1])

/-! ### Yield points, resumption and the entropy wait (R225, R232, R233, R445) -/

section
variable {s : State} {id : Nat} {j : Job} (hj : s.job? id = some j)
include hj

/-- An order to stop takes effect at a yield point. -/
theorem execYieldPoint_stops {status : Status} (hp : j.phase = .running ∨ (j.phase.isWait = true ∧ j.unit.isSome = true))
    (hs : j.stop = some status) : exec (.yieldPoint id) s = .next (s.stopJob j status) := by
  change execYieldPoint id s = _
  unfold execYieldPoint
  rw [hj]
  dsimp only
  rw [if_neg fun h => hp.elim h.1 h.2, hs]

/-- A power-fail hold or a thermal stop pauses a running job. -/
theorem execYieldPoint_pauses (hp : j.phase = .running) (hs : j.stop = none)
    (hh : s.power.pfHold = true ∨ s.thermal.thermStop = true) : exec (.yieldPoint id) s = .next (s.giveUp j .paused) := by
  change execYieldPoint id s = _
  unfold execYieldPoint
  rw [hj]
  dsimp only
  rw [if_neg fun h => h.1 hp, hs]
  exact congrArg Host.Outcome.next (if_pos (hh.imp_right .inl))

theorem State.giveUp_job? (hp : j.phase.isWait = false) (phase : JobPhase) : (s.giveUp j phase).job? id = some { j with
    phase, unit := none, lane := none, tasks := j.tasks.map (· + j.taskUnits.length), taskUnits := [] } := by
  obtain rfl := State.job?_id hj
  refine (State.job?_mapJob_same hj fun _ => by rfl).trans ?_
  rw [hp]
  rfl

/-- The oldest job that gave up its unit takes one, when none of the class goes before it. -/
theorem execJobResume_takes {u : Nat} (hr : s.resumable j = true) (hg : (s.sched.arb j.cls).gave.contains id = false)
    (hh : (s.resumers j.cls).head?.map Job.id = some id) (hu : s.pickUnit j.group = some u) :
    exec (.jobResume id) s = .next (s.takeUnit j u) := by
  obtain rfl := State.job?_id hj
  obtain ⟨k, hk, hi⟩ := Option.map_eq_some_iff.1 hh
  change execJobResume j.id s = _
  unfold execJobResume
  rw [hj]
  dsimp only
  rw [if_neg (by simp [hr]), hu, hg, hk]
  simp [hi]

theorem State.takeUnit_job? (u : Nat) : (s.takeUnit j u).job? id = some { j with
    phase := if j.phase.isWait then j.phase else .running, unit := some u, since := s.sched.step, lane := s.laneBeside j u } := by
  obtain rfl := State.job?_id hj
  have h : ((s.countUse j.cls j.q j.id j.op).unitTaken j.cls).job? j.id = some j := by
    rw [State.unitTaken_job?, State.countUse_job?, hj]
  unfold State.takeUnit
  rw [State.job?_mapJob_same h fun _ => by rfl]

theorem State.seedJob_job? (hp : j.phase = .waitEntropy) :
    (s.seedJob j).job? id = some { j with phase := j.awake, seeded := true } := by
  obtain rfl := State.job?_id hj
  have h : (if j.cls = .sc ∨ j.op = 0x0B01 then s else s.request j.inst false).job? j.id = some j := by
    split
    · exact hj
    · exact hj
  refine (State.job?_mapJob_same h fun _ => by rfl).trans ?_
  rw [if_pos hp]

theorem execEntropyWaitEnd_seeds (hp : j.phase = .waitEntropy) (he : s.ent.state = .ready) :
    exec (.entropyWaitEnd id) s = .next (s.seedJob j) := by
  change execEntropyWaitEnd id s = _
  unfold execEntropyWaitEnd
  rw [hj]
  exact congrArg Host.Outcome.next (if_pos ⟨he, .inl hp⟩)

/-- A wait of 100 ms ends the job, and sets the flag of ENT_EVT. -/
theorem execEntropyWaitTimeout_ends (hp : j.phase = .waitEntropy) (he : s.ent.state ≠ .ready) :
    ∃ t, exec (.entropyWaitTimeout id) s = .next t ∧ t.endedWith id st.entropyNotReady (j.plainResult st.entropyNotReady) []
      ∧ t.ent.evt.getLsbD 0 = true := by
  obtain rfl := State.job?_id hj
  have hx : exec (.entropyWaitTimeout j.id) s
      = .next (((s.dropStream j).fail j st.entropyNotReady (s.phaseCycles j)).setEnt 0) := by
    change execEntropyWaitTimeout j.id s = _
    unfold execEntropyWaitTimeout
    rw [hj]
    exact congrArg Host.Outcome.next (if_pos ⟨hp, he⟩)
  have hd : ((s.dropStream j).job? j.id).isSome := by
    rw [State.dropStream_job?, hj]
    rfl
  refine ⟨_, hx, ?_, by simp⟩
  exact (State.endedWith_congr (State.setEnt_get _ 0 (fld := .jobs) (by simp))).2 (State.fail_ended hd _ _)

end

end Sys2Proof.Machine
open Sys2Proof Sys2Proof.Machine

/-- Settles O34: a dispatch by the outcome of its intake, the windows class by class, the job's rows by their cases. -/
theorem hopperCompletes : Obligations.HopperCompletes := by
  intro s cls id j
  refine ⟨fun inF outF fragErr r s3 i hd hr hc ht hi hn => ?_, fun inF outF fragErr r s3 k n u hd hr hc ht hk hj hn hu => ?_,
    fun hc => ⟨?_, ?_, ?_⟩, fun hj => ⟨fun status hp hs => ?_, fun hp hs hh => ?_, fun hr hg hh => ?_,
      fun hp => ⟨fun he => ?_, fun he => ?_⟩⟩⟩
  · intro s4
    obtain ⟨hx, hk⟩ := execHopperDispatch_runs hd hr hc hn ht hi inF outF fragErr
    obtain ⟨h3, hn3⟩ := State.choice_nextJob hc hn
    obtain ⟨-, hl, hi, hd⟩ := s3.leaveIntake_leaves r i hn3
    obtain ⟨hnx, hq⟩ := s3.runIntake_after r i (newJob s.nextJob r i) inF outF fragErr
    exact ⟨_, hx, by rw [hnx, hl, h3], by rw [hq, hi], by rw [hq, hd], State.runIntake_aborted hk,
      fun c res ha h => State.runIntake_ended hk ha h, fun a ha h => State.runIntake_unread hk ha h,
      fun holds c1 c2 ins outs ha h h1 h2 => State.runIntake_accepted hk ha h h1 h2⟩
  · refine ⟨_, execHopperDispatch_task hd hr hc ht hk inF outF fragErr,
      (s3.startTask_get k (fld := .nextJob) (by simp)).trans (State.choice_get hc (fld := .nextJob) (by simp)), ?_⟩
    rw [State.startTask_takes hj hn hu, State.choice_step hc]
  · exact ⟨_, congrArg Host.Outcome.next (if_pos hc), (State.foldl_advanceClass _ cls).1⟩
  · intro t he hw
    obtain rfl := Host.Outcome.next.inj ((congrArg Host.Outcome.next (if_pos hc)).symm.trans he)
    exact (State.foldl_advanceClass { s with sched := { s.sched with step := s.sched.step + 1 } } cls).2 hw
  · refine ⟨_, congrArg Host.Outcome.next (if_pos hc), ?_, fun w r hw hr =>
      State.shareAct_flag cls hw (List.contains_iff_mem.1 hr)⟩
    rw [State.shareAct_sched, State.mapArb_arb]
  · obtain rfl := State.job?_id hj
    exact ⟨_, execYieldPoint_stops hj hp hs, State.stopJob_ended hj status⟩
  · exact ⟨_, execYieldPoint_pauses hj hp hs hh, State.giveUp_job? hj (by rw [hp]; rfl) .paused⟩
  · have hu : (s.pickUnit j.group).isSome = true := (Bool.and_eq_true_iff.1 hr).2
    obtain ⟨u, hu⟩ := Option.isSome_iff_exists.1 hu
    rw [hu]
    exact ⟨_, execJobResume_takes hj hr hg hh hu, State.takeUnit_job? hj u⟩
  · exact ⟨_, execEntropyWaitEnd_seeds hj hp he, State.seedJob_job? hj hp⟩
  · exact execEntropyWaitTimeout_ends hj hp he
end

section
/-! The frame of the rows of a queue's or link's command. -/
namespace Sys2Proof.Machine
open Sys2Proof

theorem touches_of_job {i : Instr} {j : Nat} {l : List Field} (h : jobTouches i = some (j, l)) : touches i = l := by
  simp [touches, h]

/-- Outside the list of a row that acts on a job, a step keeps every component. -/
theorem exec_get_of_job {i : Instr} {j : Nat} {l : List Field} {s t : State} (hi : jobTouches i = some (j, l))
    (he : exec i s = .next t) {fld : Field} (hf : fld ∉ l) : t.get fld = s.get fld := by
  obtain ⟨u, hu, hk⟩ := exec_keeps s i (touches_of_job hi ▸ hf)
  rw [he] at hu
  obtain rfl := Host.Outcome.next.inj hu
  exact hk

end Sys2Proof.Machine
open Sys2Proof Sys2Proof.Machine

/-- Settles O47: a job row's list is what the row may change. -/
theorem frameOfJobRows : Obligations.FrameOfJobRows :=
  fun _ _ _ _ _ hi he _ hf => exec_get_of_job hi he hf
end

section
/-! Hash streams (R242 to R244, R331). -/
namespace Sys2Proof.Machine
open Sys2Proof

section
variable {s : State} {id : Nat} {j : Job} {inp : Bytes}

/-- A stream is found by the tables alone. -/
theorem State.streamOf_seeding (s : State) (j : Job) (op : Op) (fn handle : Nat) :
    (s.seeding j op).streamOf fn handle = s.streamOf fn handle := by
  simp [State.streamOf]

/-- A part whose handle names a stream, at the offset that the stream has reached, runs (R243). -/
theorem State.onStream_of {x : Stream} (hx : s.streamOf j.fn (j.entry.p 12 4) = some x) (ho : j.entry.p 16 8 = x.absorbed)
    (run : State → Stream → State) : s.onStream j run = run s x := by
  simp [State.onStream, hx, ho]

/-- An end leaves the streams. -/
@[simp] theorem State.finish_streams (s : State) (id : Nat) (c : Status) (r : BitVec 64) (b : Bytes) (n : Nat) :
    (s.finish id c r b n).tables.streams = s.tables.streams := rfl

@[simp] theorem State.endHash_streams (s : State) (j : Job) (alg : Nat) (out tag : Bytes) (n : Nat) :
    (s.endHash j alg out tag n).tables.streams = s.tables.streams := by
  unfold State.endHash State.verdict
  repeat' split
  all_goals rfl

/-- A hash job ends with its output, or with CHECK with the verdict on the expected tag (R328, R329). -/
theorem State.endHash_ended {x : Job} (h : s.job? id = some x) (hj : j.id = id) (alg : Nat) (out tag : Bytes) (n : Nat) :
    (j.entry.flag 2 = false → (s.endHash j alg out tag n).endedWith id st.ok (BitVec.ofNat 64 alg) out)
    ∧ (j.entry.flag 2 = true → (s.endHash j alg out tag n).endedWith id (if out = tag then st.ok else st.verifyFalse)
        (if out = tag then pairTrue else pairFalse) []) := by
  refine ⟨fun hf => ?_, fun hf => ?_⟩
  · rw [State.endHash, if_neg (by simp [hf])]
    exact State.done_ended h hj alg out n
  · rw [State.endHash, if_pos hf]
    simpa using State.verdict_ended h hj (decide (out = tag)) (by decide) n

/-- The job that a row's body sees once the DRBGs have let it go. -/
theorem State.runsJob.seeding_job? {op : Op} (h : s.runsJob id j op inp) :
    ∃ x, (s.seeding j op).job? id = some x :=
  (State.seeding_job? j op h.1).imp fun _ hx => hx.1

theorem execStreamOpen_opens (h : s.runsJob id j .streamOpen inp) (hp : s.passes j .streamOpen) {n : Nat}
    (hn : s.tables.freeSlot = some n) :
    let e := j.entry
    let kp := if 2 ≤ e.p 1 1 then j.keyed inp else ([], inp)
    ∃ t, exec (.streamOpen id inp) s = .next t
      ∧ t.endedWith id st.ok (BitVec.ofNat 64 (n + 65536 * s.tables.streamGen.get 0 n)) []
      ∧ t.tables.streams = {
          slot := n, fn := j.fn, kind := e.p 1 1, alg := e.p 0 1, ctx := e.ctx,
          keyed := decide (2 ≤ e.p 1 1), key := kp.1, name := kp.2.take (e.p 2 2), custom := kp.2.drop (e.p 2 2),
          total := e.p 16 8, absorbed := 0, data := [] } :: s.tables.streams := by
  obtain ⟨x, hx⟩ := h.seeding_job?
  refine ⟨_, congrArg Host.Outcome.next ((State.runOp_of h _).trans (State.gated_of hp _ _)), ?_⟩
  simp only [State.seeding_tables, hn, decide_eq_true_eq]
  refine ⟨State.done_ended (s := (s.seeding j .streamOpen).mapTables _) hx (State.job?_id h.1) _ [] _, ?_⟩
  exact congrArg (fun t : Tables => _ :: t.streams) (s.seeding_tables j .streamOpen)

section
variable {x : Stream} (hx : s.streamOf j.fn (j.entry.p 12 4) = some x)
include hx

theorem execStreamPart_absorbs (h : s.runsJob id j .streamPart inp) (hp : s.passes j .streamPart)
    (ho : j.entry.p 16 8 = x.absorbed) :
    ∃ t, exec (.streamPart id inp) s = .next t ∧ t.endedWith id st.ok 0 []
      ∧ t.tables.streams = s.tables.streams.map fun y =>
          if y.slot = x.slot then { x with absorbed := x.absorbed + inp.length, data := x.data ++ inp } else y := by
  obtain ⟨y, hy⟩ := h.seeding_job?
  refine ⟨_, congrArg Host.Outcome.next ((State.runOp_of h _).trans ((State.gated_of hp _ _).trans
    (State.onStream_of (j := { j with seeded := true }) ((s.streamOf_seeding ..).trans hx) ho _))), ?_, ?_⟩
  · exact State.done_ended (s := (s.seeding j .streamPart).mapTables _) hy (State.job?_id h.1) 0 [] _
  · exact congrArg (fun t : Tables => t.streams.map _) (s.seeding_tables j .streamPart)

/-- A final part that discards ends with the algorithm's number and no output; its stream is gone (R331). -/
theorem execStreamFinal_discards (h : s.runsJob id j .streamFinal inp) (hp : s.passes j .streamFinal)
    (hd : j.entry.flag 4 = true) :
    ∃ t, exec (.streamFinal id inp) s = .next t ∧ t.endedWith id st.ok (BitVec.ofNat 64 x.alg) []
      ∧ t.tables.streams = s.tables.streams.filter fun y => y.slot ≠ x.slot := by
  obtain ⟨y, hy⟩ := h.seeding_job?
  refine ⟨_, congrArg Host.Outcome.next ((State.runOp_of h _).trans (State.gated_of hp _ _)), ?_⟩
  have hx' : (s.seeding j .streamFinal).streamOf ({ j with seeded := true } : Job).fn (j.entry.p 12 4) = some x :=
    (s.streamOf_seeding ..).trans hx
  simp only [hd, hx']
  refine ⟨State.done_ended (s := (s.seeding j .streamFinal).mapTables _) hy (State.job?_id h.1) _ [] _, ?_⟩
  exact congrArg (fun t : Tables => t.streams.filter _) (s.seeding_tables j .streamFinal)

/-- Any other final part, at the declared total, ends with the value of the whole message; its stream is gone (R243, R331). -/
theorem execStreamFinal_finishes (h : s.runsJob id j .streamFinal inp) (hp : s.passes j .streamFinal)
    (hd : j.entry.flag 4 = false) :
    let m := bodyOf j.entry inp
    let out := kindOut x.kind x.alg (outBytes x.kind x.alg j.entry) (j.entry.flag 3) x.key x.name x.custom (x.data ++ m)
    let tag := tagOf j.entry inp
    ∃ t, exec (.streamFinal id inp) s = .next t ∧ (j.entry.p 16 8 = x.absorbed → x.absorbed + m.length = x.total →
      (j.entry.flag 2 = false → t.endedWith id st.ok (BitVec.ofNat 64 x.alg) out)
      ∧ (j.entry.flag 2 = true → t.endedWith id (if out = tag then st.ok else st.verifyFalse)
          (if out = tag then pairTrue else pairFalse) [])
      ∧ t.tables.streams = s.tables.streams.filter fun y => y.slot ≠ x.slot) := by
  obtain ⟨y, hy⟩ := h.seeding_job?
  refine ⟨_, congrArg Host.Outcome.next ((State.runOp_of h _).trans (State.gated_of hp _ _)), fun ho ht => ?_⟩
  simp only [hd]
  rw [State.onStream_of (j := { j with seeded := true }) ((s.streamOf_seeding ..).trans hx) ho, if_neg (not_not_intro ht),
    State.endHash_streams]
  have hj : j.id = id := State.job?_id h.1
  obtain ⟨hn, hc⟩ := State.endHash_ended (s := (s.seeding j .streamFinal).mapTables fun t => t.freeStream x.slot)
    (j := { j with seeded := true }) hy hj x.alg _ _ _
  exact ⟨hn, hc, congrArg (fun t : Tables => t.streams.filter _) (s.seeding_tables j .streamFinal)⟩

end

end

end Sys2Proof.Machine
open Sys2Proof Sys2Proof.Machine

/-- Settles O6: each part by its own case; a final part by what its DISCARD flag says. -/
theorem streamsComplete : Obligations.StreamsComplete := by
  intro s id j inp
  refine ⟨fun h hp n => execStreamOpen_opens h hp, fun x hx => ⟨execStreamPart_absorbs hx, fun h hp => ?_⟩⟩
  cases hd : j.entry.flag 4 with
  | true =>
    obtain ⟨t, he, hend, hs⟩ := execStreamFinal_discards hx h hp hd
    exact ⟨t, he, fun _ => ⟨hend, hs⟩, fun hf => absurd hf (by decide)⟩
  | false =>
    obtain ⟨t, he, hend⟩ := execStreamFinal_finishes hx h hp hd
    exact ⟨t, he, fun hf => absurd hf (by decide), fun _ => hend⟩
end

section
/-!
What a job's row leaves of the other jobs and of the operand store (R222, R236, R348, R378): each row's body changes its own
job until that job ends, and the end wakes those that waited for a leaf.
-/
namespace Sys2Proof.Machine
open Sys2Proof

/-! ### Jobs of other numbers -/

/-- A job is looked up in a change of many jobs. -/
theorem State.mapJobs_job? (s : State) (p : Job → Bool) {f : Job → Job} (hf : ∀ x, (f x).id = x.id) (k : Nat) :
    (s.mapJobs p f).job? k = (s.job? k).map fun x => if p x then f x else x := by
  have e : ((fun j : Job => decide (j.id = k)) ∘ fun x => if p x then f x else x) = fun x => decide (x.id = k) := by
    funext x
    by_cases hx : p x <;> simp [hx, hf]
  exact List.find?_map.trans (by rw [e]; rfl)

theorem State.mapJob_job?_ne (s : State) {id k : Nat} (hk : k ≠ id) {f : Job → Job} (hf : ∀ x, (f x).id = x.id) :
    (s.mapJob id f).job? k = s.job? k := by
  have e : s.mapJob id f = s.mapJobs (fun x => decide (x.id = id)) f := by simp [State.mapJob, State.mapJobs]
  rw [e, State.mapJobs_job? s _ hf]
  cases h : s.job? k with
  | none => rfl
  | some x => simp [State.job?_id h, hk]

theorem State.putJob_eq_mapJob (s : State) (j : Job) : s.putJob j = s.mapJob j.id fun x => { j with id := x.id } := by
  unfold State.putJob State.mapJob
  congr 2
  funext x
  split
  · next hx => simp [hx]
  · rfl

/-- Of the jobs other than `id`, `t` has those of `s` as they were, but for signers that waited for a leaf: they look again
where job `id` has ended (R348). -/
def State.sparesOthers (s : State) (id : Nat) (t : State) : Prop :=
  ∀ k, k ≠ id → t.job? k = s.job? k
    ∨ ∃ x, s.job? k = some x ∧ x.phase = .waitLeaf ∧ t.job? k = some x.wake ∧ (t.job? id).map Job.ended = some true

/-- What holds inside a row's body that has the state `u` and runs for the job `j`: its number is `id`, it is there, and
every other job is as it was in `s`. -/
structure State.Alone (s : State) (id : Nat) (u : State) (j : Job) : Prop where
  num : j.id = id
  here : (u.job? id).isSome
  others : ∀ k, k ≠ id → u.job? k = s.job? k

section
variable {s u v : State} {id : Nat} {j : Job}

theorem spares_ite (ha : s.sparesOthers id u) (hb : s.sparesOthers id v) {c : Prop} [Decidable c] :
    s.sparesOthers id (if c then u else v) := by
  split
  · exact ha
  · exact hb

namespace State.Alone

/-- A change outside the jobs. -/
theorem step (h : s.Alone id u j) (hv : v.jobs = u.jobs := by rfl) : s.Alone id v j :=
  ⟨h.num, by rw [State.job?_congr hv]; exact h.here, fun k hk => (State.job?_congr hv k).trans (h.others k hk)⟩

/-- Another form of the job. -/
theorem job (h : s.Alone id u j) {i : Job} (hi : i.id = j.id := by rfl) : s.Alone id u i := ⟨hi.trans h.num, h.here, h.others⟩

/-- A change of the job itself. -/
theorem mapJob (h : s.Alone id u j) {f : Job → Job} (hf : ∀ x, (f x).id = x.id := by intro x; rfl) :
    s.Alone id (u.mapJob j.id f) j := by
  obtain ⟨x, hx⟩ := Option.isSome_iff_exists.1 h.here
  obtain rfl := h.num
  refine ⟨rfl, ?_, fun k hk => (u.mapJob_job?_ne hk hf).trans (h.others k hk)⟩
  rw [State.job?_mapJob_same hx hf]
  rfl

theorem kept (h : s.Alone id u j) (hv : v.jobs = u.jobs := by rfl) : s.sparesOthers id v :=
  fun k hk => .inl ((h.step hv).others k hk)

/-- The job alone is changed. -/
theorem changed (h : s.Alone id u j) {f : Job → Job} (hf : ∀ x, (f x).id = x.id := by intro x; rfl) :
    s.sparesOthers id (u.mapJob j.id f) := (h.mapJob hf).kept

/-- The job ends. -/
theorem finish (h : s.Alone id u j) (hv : v.jobs = u.jobs := by rfl) {c : Status} {r : BitVec 64} {b : Bytes} {n : Nat} :
    s.sparesOthers id (v.finish j.id c r b n) := by
  obtain ⟨num, here, others⟩ := h.step hv
  obtain ⟨x, hx⟩ := Option.isSome_iff_exists.1 here
  obtain rfl := num
  intro k hk
  obtain ⟨y, hy⟩ := State.finish_job? hx c r b n
  have hw : (v.finish j.id c r b n).job? k = (s.job? k).map fun i => if i.waitsLeaf (v.job? j.id) then i.wake else i := by
    unfold State.finish
    rw [State.mapJob_job?_ne _ hk fun _ => by rfl, State.mapJobs_job? _ _ fun _ => by rfl, State.leavePort_job?, others k hk]
  rw [hw]
  cases hs : s.job? k with
  | none => exact .inl rfl
  | some z =>
    by_cases hl : z.waitsLeaf (v.job? j.id) = true
    · exact .inr ⟨z, rfl, of_decide_eq_true (Bool.and_eq_true_iff.1 hl).1, congrArg some (if_pos hl),
        congrArg (Option.map Job.ended) hy⟩
    · exact .inl (congrArg some (if_neg hl))

theorem done (h : s.Alone id u j) (hv : v.jobs = u.jobs := by rfl) {r : Nat} {b : Bytes} {n : Nat} :
    s.sparesOthers id (v.done j r b n) := h.finish hv

theorem endWith (h : s.Alone id u j) (hv : v.jobs = u.jobs := by rfl) {c : Status} {r n : Nat} :
    s.sparesOthers id (v.endWith j c r n) := h.finish hv

theorem fail (h : s.Alone id u j) (hv : v.jobs = u.jobs := by rfl) {c : Status} {n : Nat} :
    s.sparesOthers id (v.fail j c n) := h.finish hv

theorem refuse (h : s.Alone id u j) (hv : v.jobs = u.jobs := by rfl) {n : Nat} : s.sparesOthers id (v.refuse j n) := h.finish hv

theorem verdict (h : s.Alone id u j) (hv : v.jobs = u.jobs := by rfl) {good : Bool} {c : Status} {n : Nat} :
    s.sparesOthers id (v.verdict j good c n) := by
  unfold State.verdict
  split
  · exact h.finish hv
  · exact h.finish hv

theorem endHash (h : s.Alone id u j) (hv : v.jobs = u.jobs := by rfl) {alg : Nat} {b tag : Bytes} {n : Nat} :
    s.sparesOthers id (v.endHash j alg b tag n) := by
  unfold State.endHash
  split
  · exact h.verdict hv
  · exact h.done hv

/-- The job ends, or waits with its ending for the count of its context (R270). -/
theorem awaitBarrier (h : s.Alone id u j) {e : Ending} : s.sparesOthers id (u.awaitBarrier j e) := by
  unfold State.awaitBarrier
  split
  · exact h.finish
  · exact h.changed

theorem seeding (h : s.Alone id u j) (op : Op) : s.Alone id (u.seeding j op) { j with seeded := true } := by
  unfold State.seeding State.seedJob
  split
  · refine (mapJob ?_).job
    split
    · exact h
    · exact h.step
  · exact h.job

/-- The job waits for the DRBGs, ends, or runs on as the body has it. -/
theorem gated (h : s.Alone id u j) {op : Op} {pub : Nat} {body : State → Job → State}
    (hb : ∀ {u j}, s.Alone id u j → s.sparesOthers id (body u j)) : s.sparesOthers id (u.gated j op pub body) := by
  rcases u.gated_cases j op pub body with e | e | e <;> rw [e]
  · exact hb (h.seeding op)
  · exact h.changed
  · exact h.fail (State.dropStream_get u j (fld := .jobs) (by simp))

/-! ### What the chapters' shared bodies do -/

/-- A part that continues its stream runs on; another ends (R243). -/
theorem onStream (h : s.Alone id u j) {run : State → Stream → State} (hr : ∀ {x}, s.sparesOthers id (run u x)) :
    s.sparesOthers id (u.onStream j run) := by
  unfold State.onStream
  split
  · exact h.endWith
  · exact spares_ite h.finish hr

theorem treeRegister (h : s.Alone id u j) (k : TreeKind) : s.sparesOthers id (u.treeRegister j k) := by
  refine spares_ite h.endWith (spares_ite h.fail (spares_ite h.fail (spares_ite h.kept ?_)))
  split
  · exact h.done
  · exact h.done
  · exact h.kept

theorem treeKeygen (h : s.Alone id u j) (k : TreeKind) : s.sparesOthers id (u.treeKeygen j k) := by
  unfold State.treeKeygen
  split
  · exact spares_ite (h.treeRegister k) h.changed
  · exact h.treeRegister k
  · exact h.changed

theorem treeFinish (h : s.Alone id u j) (k : TreeKind) (q : Nat) (t : TreeCache) (inp : Bytes) :
    s.sparesOthers id (u.treeFinish j k q t inp) :=
  spares_ite h.changed (h.done (by rw [State.mapStore_jobs]; split <;> rfl))

theorem treeSign (h : s.Alone id u j) (k : TreeKind) (op : Op) (inp : Bytes) : s.sparesOthers id (u.treeSign j k op inp) := by
  unfold State.treeSign
  split
  · exact h.treeFinish k _ _ inp
  · split
    · exact h.gated fun h => h.mapJob.kept rfl
    · exact h.fail
  · exact h.fail

theorem holdLane (h : s.Alone id u j) : s.Alone id (u.holdLane j) j := h.mapJob

theorem rsaRun (h : s.Alone id u j) {key c : Bytes} {n : Nat} : s.sparesOthers id (u.rsaRun j key c n) :=
  spares_ite h.endWith (spares_ite h.endWith h.done)

theorem placeRoot (h : s.Alone id u j) {secret : Bytes} : s.sparesOthers id (u.placeRoot j secret) := by
  refine spares_ite h.refuse ?_
  split
  · exact h.endWith
  · exact h.done

theorem invalidateRun (h : s.Alone id u j) (spoil : Bool) : s.sparesOthers id (u.invalidateRun j spoil) :=
  spares_ite h.fail (spares_ite h.endWith (h.step (by split <;> rfl)).awaitBarrier)

/-- A migration waits, or ends with its blob, or waits for the barrier of the context it retires (R294). -/
theorem migrate (h : s.Alone id u j) (inp : Bytes) : s.sparesOthers id (u.migrate j inp) := by
  unfold State.migrate
  extract_lets i l keys s1 s2 blob e s3
  have h2 : s.Alone id s2 j := h.step ((State.mapKeeper_jobs _ _).trans (State.mapKeeper_jobs _ _))
  have hr : s.Alone id (s2.scDraw.revoke i) j := h2.step (State.revoke_get _ i (fld := .jobs) (by simp))
  have h3 : s.Alone id s3 j := (hr.step (State.mapKeys_jobs _ _)).mapJob (f := fun x => { x with chain := [] })
  exact spares_ite h.kept (spares_ite h2.finish (spares_ite h2.endWith h3.awaitBarrier))

theorem placeImport (h : s.Alone id u j) (p : MigPayload) (nonce : Bytes) : s.sparesOthers id (u.placeImport j p nonce) := by
  unfold State.placeImport
  dsimp only
  split
  · exact h.endWith
  · exact h.endWith
  · exact spares_ite h.endWith (spares_ite h.fail h.done)

/-- The requests of a RANDOM change its job alone. -/
theorem serveRandom (h : s.Alone id u j) (n : Nat) :
    s.Alone id (State.serveRandom n u j).1 (State.serveRandom n u j).2 := by
  induction n generalizing u j with
  | zero => exact h
  | succ n ih =>
    unfold State.serveRandom
    dsimp only
    split
    · exact h
    · refine ih ?_
      rw [State.putJob_eq_mapJob]
      exact h.step.mapJob.job

theorem burnSeq (h : s.Alone id u j) {bad o : Option Nat} {l : List (Nat × BitVec 32)} (e : State.burnSeq bad l u = (v, o)) :
    s.Alone id v j := h.step (State.burnSeq_of e (fld := .jobs) (by simp))

/-- A word that senses wrongly ends the command; else it goes on (R465). -/
theorem tripProgram (h : s.Alone id u j) {l : List (Nat × BitVec 32)} {bad : Option Nat} {go : State → State}
    (hg : ∀ {v}, s.Alone id v j → s.sparesOthers id (go v)) : s.sparesOthers id (u.tripProgram j l bad go) := by
  unfold State.tripProgram
  split
  · exact h.endWith
  · split
    · next e => exact (h.burnSeq e).endWith
    · next e => exact hg (h.burnSeq e)

theorem generateRoots (h : s.Alone id u j) (bad : Option Nat) : s.sparesOthers id (u.generateRoots j bad) := by
  have hd : s.Alone id u.scDraw j := h.step
  unfold State.generateRoots
  dsimp only
  split
  · exact h.endWith
  · split
    · next e => exact (hd.burnSeq e).endWith
    · next e =>
      split
      · next e' => exact ((hd.burnSeq e).burnSeq e').endWith
      · next e' => exact ((hd.burnSeq e).burnSeq e').done

end State.Alone

/-- A row that runs for a job leaves the others as its body does. -/
theorem State.runOp_spares {op : Op} {inp : Bytes} {run : State → Job → State}
    (hr : ∀ {j}, s.Alone id s j → s.sparesOthers id (run s j)) : s.sparesOthers id (s.runOp id op inp run) := by
  obtain e | ⟨j, h, e⟩ := s.runOp_cases id op inp run <;> rw [e]
  · exact fun k _ => .inl rfl
  · exact hr ⟨State.job?_id h.1, Option.isSome_iff_exists.2 ⟨j, h.1⟩, fun _ _ => rfl⟩

theorem State.nvOp_spares {op : Op} {inp : Bytes} {run : State → Job → State}
    (hr : ∀ {j}, s.Alone id s j → s.sparesOthers id (run s j)) : s.sparesOthers id (s.nvOp id op inp run) := by
  unfold State.nvOp
  split
  · exact State.runOp_spares hr
  · exact fun k _ => .inl rfl

end

/-! ### The rows and the other jobs -/

/-- The job of a row that orders no other job to stop. -/
def ownJob (i : Instr) : Option Nat :=
  match jobTouches i with
  | some (j, l) => if .queues ∈ l ∨ .upd ∈ l ∨ .out ∈ l then none else some j
  | none => none

theorem ownJob_of {i : Instr} {j : Nat} {l : List Field} (h : jobTouches i = some (j, l)) (hq : .queues ∉ l) (hu : .upd ∉ l)
    (ho : .out ∉ l) : ownJob i = some j := by
  simp [ownJob, h, hq, hu, ho]

/-- The row answers a next state that spares the other jobs. -/
def State.rowSpares (s : State) (id : Nat) (o : Host.Outcome State Fault Refusal) : Prop :=
  ∃ t, o = .next t ∧ s.sparesOthers id t

theorem State.rowSpares_of {s : State} {id : Nat} {op : Op} {inp : Bytes} {run : State → Job → State}
    (hr : ∀ {j}, s.Alone id s j → s.sparesOthers id (run s j)) : s.rowSpares id (.next (s.runOp id op inp run)) :=
  ⟨_, rfl, State.runOp_spares hr⟩

theorem State.rowSpares_nv {s : State} {id : Nat} {op : Op} {inp : Bytes} {run : State → Job → State}
    (hr : ∀ {j}, s.Alone id s j → s.sparesOthers id (run s j)) : s.rowSpares id (.next (s.nvOp id op inp run)) :=
  ⟨_, rfl, State.nvOp_spares hr⟩

/-- The sessions that a transfer of ownership closes, and the stores it spoils, are no jobs. -/
theorem State.transfer_jobs (s : State) : (s.redecode.spoilKeyStores false).shutSessions.jobs = s.jobs :=
  calc (s.redecode.spoilKeyStores false).shutSessions.jobs
      = (s.redecode.spoilKeyStores false).jobs := State.shutSessions_get _ (fld := .jobs) (by simp)
    _ = s.redecode.jobs := State.spoilKeyStores_get _ _ (fld := .jobs) (by simp)
    _ = s.jobs := State.redecode_get _ (fld := .jobs) (by simp)

open State in
/-- Each row of a job that orders no other job to stop spares the others: in the order of the chapters. -/
theorem exec_sparesOthers (s : State) {id : Nat} : (i : Instr) → ownJob i = some id → s.rowSpares id (exec i s)
  | .identify _, rfl => rowSpares_of fun h => h.done
  | .eventLogRead _, rfl => rowSpares_of fun h => h.done
  | .ctxQuery _, rfl => rowSpares_of fun h => h.done
  | .statefulQuery _, rfl => rowSpares_of fun h => h.done
  | .mlkemKeygen _, rfl => rowSpares_of fun h => h.gated fun h => spares_ite h.done h.done
  | .mlkemEncaps _ _, rfl => rowSpares_of fun h => by
      split
      · exact h.endWith
      · exact h.gated fun h => h.done
  | .mlkemDecaps _ _, rfl => rowSpares_of fun h => spares_ite h.fail (h.gated fun h => h.done)
  | .mlkemEncapsInternal _ _, rfl => rowSpares_of fun h => by
      dsimp only
      split
      · exact h.endWith
      · exact h.done
  | .mlkemKeygenInternal _ _, rfl => rowSpares_of fun h => h.done
  | .mldsaKeygen _, rfl => rowSpares_of fun h => h.gated fun h => h.done
  | .mldsaSign _ _, rfl => rowSpares_of fun h => h.gated fun h => by
      dsimp only
      split
      · exact h.endWith (by split <;> rfl)
      · exact h.done (by split <;> rfl)
  | .mldsaVerify _ _, rfl => rowSpares_of fun h => spares_ite h.endWith h.verdict
  | .mldsaKeygenInternal _ _, rfl => rowSpares_of fun h => h.done
  | .hash _ _, rfl => rowSpares_of fun h => h.done
  | .cshake _ _, rfl => rowSpares_of fun h => h.done
  | .kmac _ _, rfl => rowSpares_of fun h => h.gated fun h => h.endHash
  | .hmac _ _, rfl => rowSpares_of fun h => h.gated fun h => h.endHash
  | .streamOpen _ _, rfl => rowSpares_of fun h => h.gated fun h => by
      split
      · exact h.endWith
      · exact h.done
  | .streamPart _ _, rfl => rowSpares_of fun h => h.gated fun h => h.onStream h.done
  | .streamFinal _ _, rfl => rowSpares_of fun h => h.gated fun h => by
      dsimp only
      split
      · exact h.done
      · exact h.onStream (spares_ite h.finish h.endHash)
  | .slhdsaKeygen _, rfl => rowSpares_of fun h => h.gated fun h => h.done
  | .slhdsaSign _ _, rfl => rowSpares_of fun h => h.gated fun h => h.done (by split <;> rfl)
  | .slhdsaVerify _ _, rfl => rowSpares_of fun h => h.verdict
  | .slhdsaKeygenInternal _ _, rfl => rowSpares_of fun h => h.done
  | .lmsKeygen _, rfl => rowSpares_of fun h => h.gated fun h => h.treeKeygen _
  | .xmssKeygen _, rfl => rowSpares_of fun h => h.gated fun h => h.treeKeygen _
  | .lmsSign _ _, rfl => rowSpares_of fun h => h.treeSign _ _ _
  | .xmssSign _ _, rfl => rowSpares_of fun h => h.treeSign _ _ _
  | .lmsVerify _ _, rfl => rowSpares_of fun h => spares_ite h.endWith h.verdict
  | .xmssVerify _ _, rfl => rowSpares_of fun h => spares_ite h.endWith h.verdict
  | .cacheSave _, rfl => rowSpares_of fun h => by
      dsimp only
      split
      · exact spares_ite h.done h.fail
      · exact h.fail
  | .cacheLoad _ _, rfl => rowSpares_of fun h => by
      dsimp only
      split
      · exact h.done
      · exact h.fail
  | .seal _ _, rfl => rowSpares_of fun h => h.gated fun h => spares_ite h.kept (by
      have h := h.holdLane
      extract_lets
      split
      · exact h.endWith
      · exact h.done)
  | .ecKeygen _, rfl => rowSpares_of fun h => h.gated fun h => h.done
  | .ecdsaSign _ _, rfl => rowSpares_of fun h => h.gated fun h => h.done (by split <;> rfl)
  | .ecdsaVerify _ _, rfl => rowSpares_of fun h => by
      dsimp only
      split
      · exact h.endWith
      · exact spares_ite h.endWith h.verdict
  | .ecdh _ _, rfl => rowSpares_of fun h => by
      dsimp only
      split
      · exact h.endWith
      · exact h.gated fun h => spares_ite h.fail h.done
  | .eddsaSign _ _, rfl => rowSpares_of fun h => h.gated fun h => h.done
  | .eddsaVerify _ _, rfl => rowSpares_of fun h => spares_ite h.endWith h.verdict
  | .ecValidate _ _, rfl => rowSpares_of fun h => by
      split
      · exact h.finish
      · exact h.finish
  | .curveLoad _ _, rfl => rowSpares_of fun h => spares_ite h.fail (spares_ite h.finish (by
      split
      · exact h.endWith
      · exact spares_ite h.finish h.done))
  | .rsaKeygen _, rfl => rowSpares_of fun h => h.gated fun h => by
      dsimp only
      split
      · exact h.done
      · exact h.endWith
  | .rsaKeyLoad _ _, rfl => rowSpares_of fun h => by
      dsimp only
      split
      · exact h.fail
      · exact h.gated fun h => spares_ite h.done h.fail
  | .rsaPrivate _ _, rfl => rowSpares_of fun h =>
      spares_ite (spares_ite h.fail (spares_ite h.endWith (h.gated fun h => h.rsaRun))) (by
      dsimp only
      split
      · exact h.fail
      · exact h.gated fun h => spares_ite h.rsaRun h.fail)
  | .rsaPublic _ _, rfl => rowSpares_of fun h => spares_ite h.endWith (spares_ite h.endWith (spares_ite h.endWith h.done))
  | .modexp _ _, rfl => rowSpares_of fun h => by
      dsimp only
      split
      · exact h.endWith
      · exact h.gated fun h => h.done
  | .modmul _ _, rfl => rowSpares_of fun h => by
      dsimp only
      split
      · exact h.endWith
      · exact h.gated fun h => h.done
  | .modinv _ _, rfl => rowSpares_of fun h => by
      dsimp only
      split
      · exact h.endWith
      · exact h.gated fun h => spares_ite h.endWith h.done
  | .dxProgramLoad _ _, rfl => rowSpares_of fun h => spares_ite h.fail (spares_ite h.fail (spares_ite h.finish h.finish))
  | .dxRun _, rfl => rowSpares_of fun h => by
      dsimp only
      split
      · exact h.finish
      · exact h.gated fun h => spares_ite
          (h.done (by rw [mapStore_jobs]; split <;> rfl)) (h.endWith (by rw [mapStore_jobs]; split <;> rfl))
      · exact h.fail
  | .dxSlotWrite _ _, rfl => rowSpares_of fun h => by
      dsimp only
      split
      · exact h.done
      · exact h.done
      · exact h.fail
  | .dxSlotRead _, rfl => rowSpares_of fun h => by
      dsimp only
      split
      · exact spares_ite h.fail h.done
      · exact h.fail
  | .gcmEncrypt _ _, rfl => rowSpares_of fun h => h.gated fun h => h.done (by split <;> rfl)
  | .gcmDecrypt _ _, rfl => rowSpares_of fun h => h.gated fun h => spares_ite h.finish (h.mapJob.finish rfl)
  | .xtsEncrypt _ _, rfl => rowSpares_of fun h => h.gated fun h => spares_ite h.fail h.done
  | .xtsDecrypt _ _, rfl => rowSpares_of fun h => h.gated fun h => spares_ite h.fail h.done
  | .kwWrap _ _, rfl => rowSpares_of fun h => h.gated fun h => h.done
  | .kwUnwrap _ _, rfl => rowSpares_of fun h => h.gated fun h => by
      dsimp only
      split
      · exact h.done
      · exact h.fail
  | .cmac _ _, rfl => rowSpares_of fun h => h.gated fun h => spares_ite h.verdict h.done
  | .random _ _, rfl => rowSpares_of fun h => h.job.gated fun {u _} h' => by
      split
      · exact h'.kept
      · next j hj =>
        have hr : s.Alone _ _ _ := (h'.job (i := j) ((State.job?_id hj).trans (h.num.trans h'.num.symm))).serveRandom 3
        exact spares_ite hr.done hr.kept
  | .noiseRead _, rfl => rowSpares_of fun h => h.done
  | .mceKeygen _, rfl => rowSpares_of fun h => h.gated fun h => by
      dsimp only
      split
      · exact h.endWith
      · exact h.done (by split <;> rfl)
  | .mceEncaps _ _, rfl => rowSpares_of fun h => spares_ite h.fail (h.gated fun h => h.done)
  | .mceDecaps _ _, rfl => rowSpares_of fun h => by
      dsimp only
      split
      · exact h.fail
      · exact h.gated fun h => spares_ite h.done h.fail
  | .mcePkLoad _ _, rfl => rowSpares_of fun h => h.done
  | .hqcKeygen _, rfl => rowSpares_of fun h => h.gated fun h => h.done
  | .hqcEncaps _ _, rfl => rowSpares_of fun h => by
      split
      · exact h.endWith
      · exact h.gated fun h => h.done
  | .hqcDecaps _ _, rfl => rowSpares_of fun h => by
      split
      · exact h.endWith
      · exact h.gated fun h => h.done
  | .ctxCreate _, rfl => rowSpares_of fun h => spares_ite h.fail (spares_ite h.endWith (by
      split
      · exact h.fail
      · exact spares_ite h.refuse h.done))
  | .scopeSet _, rfl => rowSpares_of fun h => h.done
  | .invalidate _, rfl => rowSpares_nv fun h => h.invalidateRun _
  | .rootSpoil _, rfl => rowSpares_nv fun h => h.invalidateRun _
  | .sweep _, rfl => rowSpares_nv fun h => h.done
      (State.get_foldl _ _ (f := .jobs) (fun s i => State.freeCtx_get s i (by simp)) _)
  | .contextImageSave _, rfl => rowSpares_nv fun h => spares_ite h.kept (spares_ite h.fail (h.gated fun h => h.done))
  | .contextImageCommit _, rfl => rowSpares_nv fun h => spares_ite h.kept (spares_ite h.refuse h.done)
  | .contextImageLoad _ _, rfl => rowSpares_nv fun h => spares_ite h.fail (spares_ite h.fail (spares_ite h.fail
      (spares_ite h.endWith (spares_ite h.refuse (h.gated fun h => spares_ite (h.done (by split <;> rfl)) h.fail)))))
  | .externalWrap _ _, rfl => rowSpares_of fun h => h.gated fun h => h.done
  | .keyExport _, rfl => rowSpares_of fun h => h.gated fun h => h.done
  | .migrateStatement _ _, rfl => rowSpares_nv fun h => h.gated fun h => h.done
  | .migrateExportNonce _, rfl => rowSpares_nv fun h => spares_ite h.kept (spares_ite h.refuse (h.gated fun h => h.done))
  | .migrateExport _ _, rfl => rowSpares_nv fun h => spares_ite h.kept (spares_ite h.fail (spares_ite h.finish
      (spares_ite h.fail (spares_ite h.fail (h.gated fun h => h.migrate _)))))
  | .migrateImport _ _, rfl => rowSpares_nv fun h => spares_ite h.fail (spares_ite h.fail (h.gated fun h => by
      dsimp only
      split
      · exact h.placeImport _ _
      · exact h.fail))
  | .rootImport _ _, rfl => rowSpares_of fun h => h.gated fun h => h.placeRoot
  | .rootGenerate _, rfl => rowSpares_of fun h => h.gated fun h => h.step.placeRoot
  | .opstoreConfig _ _, rfl => rowSpares_nv fun h => spares_ite h.refuse (by
      split
      · exact h.endWith
      · exact h.done)
  | .slotGrant _, rfl => rowSpares_nv fun h => spares_ite h.fail (by
      split
      · exact h.endWith
      · exact h.done)
  | .sessionAssign _ _, rfl => rowSpares_nv fun h => spares_ite h.fail (spares_ite h.fail h.done)
  | .sessionOpenNonce _, rfl => rowSpares_of fun h => spares_ite h.kept (h.gated fun {u _} h =>
      h.done (u.issueNonce_get _ (fld := .jobs) (by simp)))
  | .sessionOpenProof _ _, rfl => rowSpares_of fun h => spares_ite h.kept (h.finish (s.prove_get _ _ _ (fld := .jobs) (by simp)))
  | .sessionClose _, rfl => rowSpares_of fun h => h.done (s.closeSession_get _ (fld := .jobs) (by simp))
  | .debugNonce _, rfl => rowSpares_nv fun h => h.done
  | .debugCert _ _, rfl => rowSpares_nv fun h => by
      split
      · exact h.endWith (s.useNonce_get _ (fld := .jobs) (by simp))
      · exact (h.step (s.useNonce_get _ (fld := .jobs) (by simp))).finish (State.acceptCert_get _ _ (fld := .jobs) (by simp))
  | .fuseProgram _ _ _, rfl => rowSpares_nv fun h => spares_ite (h.gated fun h => h.generateRoots _) (spares_ite h.endWith (by
      split
      · exact h.endWith
      · split
        · next e => exact (h.burnSeq e).endWith
        · next e => exact (h.burnSeq e).done))
  | .fuseLock _ _, rfl => rowSpares_nv fun h => by
      dsimp only
      split
      · exact h.endWith
      · split
        · exact h.endWith
        · split
          · next e => exact (h.burnSeq e).endWith
          · next e => exact (h.burnSeq e).done
  | .ownerTransfer _ _, rfl => rowSpares_nv fun h => h.tripProgram fun {v} h => (h.step v.transfer_jobs).done

/-! ### The operand store -/

theorem OpStore.slot_write_ne (o : OpStore) {a n : Nat} (hn : n ≠ a) (tag : SlotTag) (c : Bytes) :
    (o.write a tag c).slot n = o.slot n :=
  (Sparse.get_set _ _ _ _ _).trans (if_neg hn.symm)

theorem OpStore.slot_spoil_ne (o : OpStore) {a n : Nat} (hn : n ≠ a) : (o.spoil a).slot n = o.slot n :=
  (Sparse.get_set _ _ _ _ _).trans (if_neg hn.symm)

/-- Of the operand store, `t` differs from `s` in slot `a` at most. -/
def State.sparesSlots (s : State) (a : Nat) (t : State) : Prop := ∀ n, n ≠ a → t.store.slot n = s.store.slot n

/-- What holds inside a row's body before it writes: the operand store is as it was, and `a` is SLOT_A of the job. -/
structure State.Names (s : State) (a : Nat) (u : State) (j : Job) : Prop where
  slotA : j.entry.slotA.toNat = a
  store : u.store = s.store

section
variable {s u v : State} {id a : Nat} {j : Job}

theorem slots_ite (hu : s.sparesSlots a u) (hv : s.sparesSlots a v) {c : Prop} [Decidable c] :
    s.sparesSlots a (if c then u else v) := by
  split
  · exact hu
  · exact hv

namespace State.Names

theorem kept (h : s.Names a u j) (hv : v.store = u.store := by rfl) : s.sparesSlots a v :=
  fun n _ => congrArg (OpStore.slot · n) (hv.trans h.store)

/-- Slot `a` is written. -/
theorem writes (h : s.Names a u j) {tag : SlotTag} {c : Bytes} (hv : v.store = u.store.write a tag c := by rfl) :
    s.sparesSlots a v := fun n hn => by rw [hv, OpStore.slot_write_ne _ hn, h.store]

/-- SLOT_A is written. -/
theorem wrote (h : s.Names a u j) {tag : SlotTag} {c : Bytes}
    (hv : v.store = u.store.write j.entry.slotA.toNat tag c := by rfl) : s.sparesSlots a v := h.writes (h.slotA ▸ hv)

/-- SLOT_A is spoiled. -/
theorem spoiled (h : s.Names a u j) (hv : v.store = u.store.spoil j.entry.slotA.toNat := by rfl) : s.sparesSlots a v :=
  fun n hn => by rw [hv, h.slotA, OpStore.slot_spoil_ne _ hn, h.store]

theorem gated (h : s.Names a u j) {op : Op} {pub : Nat} {body : State → Job → State}
    (hb : ∀ {u j}, s.Names a u j → s.sparesSlots a (body u j)) : s.sparesSlots a (u.gated j op pub body) := by
  rcases u.gated_cases j op pub body with e | e | e <;> rw [e]
  · exact hb ⟨h.slotA, (u.seeding_store j op).trans h.store⟩
  · exact h.kept
  · exact h.kept ((State.fail_get _ _ _ _ (fld := .store) (by simp)).trans (State.dropStream_get u j (fld := .store) (by simp)))

theorem treeRegister (h : s.Names a u j) (k : TreeKind) : s.sparesSlots a (u.treeRegister j k) := by
  refine slots_ite h.kept (slots_ite h.kept (slots_ite h.kept (slots_ite h.kept ?_)))
  split
  · exact h.wrote
  · exact h.wrote
  · exact h.kept

theorem treeKeygen (h : s.Names a u j) (k : TreeKind) : s.sparesSlots a (u.treeKeygen j k) := by
  unfold State.treeKeygen
  split
  · exact slots_ite (h.treeRegister k) h.kept
  · exact h.treeRegister k
  · exact h.kept

theorem treeFinish (h : s.Names a u j) (k : TreeKind) (q : Nat) (t : TreeCache) (inp : Bytes) :
    s.sparesSlots a (u.treeFinish j k q t inp) := by
  refine slots_ite h.kept ?_
  cases k.xmss with
  | true => exact h.wrote
  | false => exact h.wrote

theorem treeSign (h : s.Names a u j) (k : TreeKind) (op : Op) (inp : Bytes) : s.sparesSlots a (u.treeSign j k op inp) := by
  unfold State.treeSign
  split
  · exact h.treeFinish k _ _ inp
  · split
    · exact h.gated fun h => h.kept
    · exact h.kept
  · exact h.kept

end State.Names

/-- The row answers a next state that spares every slot but SLOT_A of its job. -/
def State.rowSparesSlots (s : State) (id : Nat) (o : Host.Outcome State Fault Refusal) : Prop :=
  ∃ t, o = .next t ∧ ∀ x, s.job? id = some x → s.sparesSlots x.entry.slotA.toNat t

theorem State.rowSparesSlots_of {op : Op} {inp : Bytes} {run : State → Job → State}
    (hr : ∀ {j}, s.Names j.entry.slotA.toNat s j → s.sparesSlots j.entry.slotA.toNat (run s j)) :
    s.rowSparesSlots id (.next (s.runOp id op inp run)) := by
  refine ⟨_, rfl, fun x hx => ?_⟩
  obtain e | ⟨j, h, e⟩ := s.runOp_cases id op inp run <;> rw [e]
  · exact fun _ _ => rfl
  · obtain rfl := Option.some.inj (h.1.symm.trans hx)
    exact hr ⟨rfl, rfl⟩

end

/-- The rows that lay the operand store out, or spoil it with the key stores. -/
def remakesStore : Instr → Bool
  | .opstoreConfig _ _ | .slotGrant _ | .debugCert _ _ | .ownerTransfer _ _ => true
  | _ => false

/-- The job of a row that may write the operand store and orders no other job to stop. -/
def storeJob (i : Instr) : Option Nat :=
  match jobTouches i with
  | some (j, l) => if .store ∉ l ∨ .queues ∈ l ∨ .upd ∈ l ∨ .out ∈ l then none else some j
  | none => none

theorem storeJob_of {i : Instr} {j : Nat} {l : List Field} (h : jobTouches i = some (j, l)) (hs : .store ∈ l)
    (hq : .queues ∉ l) (hu : .upd ∉ l) (ho : .out ∉ l) : storeJob i = some j := by
  simp [storeJob, h, hs, hq, hu, ho]

theorem remakesStore_of {i : Instr} {j : Nat} {l : List Field} (hi : jobTouches i = some (j, l))
    (h1 : ∀ b, i ≠ .opstoreConfig j b) (h2 : i ≠ .slotGrant j) (h3 : ∀ b, i ≠ .debugCert j b)
    (h4 : ∀ b, i ≠ .ownerTransfer j b) : remakesStore i = false := by
  unfold remakesStore
  split
  · cases hi
    exact absurd rfl (h1 _)
  · cases hi
    exact absurd rfl h2
  · cases hi
    exact absurd rfl (h3 _)
  · cases hi
    exact absurd rfl (h4 _)
  · rfl

open State in
/-- Each row that may write the operand store, but for those that remake it, writes SLOT_A of its job at most. -/
theorem exec_sparesSlots (s : State) {id : Nat} :
    (i : Instr) → storeJob i = some id → remakesStore i = false → s.rowSparesSlots id (exec i s)
  | .mlkemKeygen _, rfl, _ => rowSparesSlots_of fun h => h.gated fun h => slots_ite h.wrote h.kept
  | .lmsKeygen _, rfl, _ => rowSparesSlots_of fun h => h.gated fun h => h.treeKeygen _
  | .xmssKeygen _, rfl, _ => rowSparesSlots_of fun h => h.gated fun h => h.treeKeygen _
  | .lmsSign _ _, rfl, _ => rowSparesSlots_of fun h => h.treeSign _ _ _
  | .xmssSign _ _, rfl, _ => rowSparesSlots_of fun h => h.treeSign _ _ _
  | .cacheLoad _ _, rfl, _ => rowSparesSlots_of fun h => by
      dsimp only
      split
      · exact h.wrote
      · exact h.spoiled
  | .rsaKeyLoad _ _, rfl, _ => rowSparesSlots_of fun h => by
      dsimp only
      split
      · exact h.kept
      · exact h.gated fun h => slots_ite h.wrote h.kept
  | .dxRun _, rfl, _ => rowSparesSlots_of fun h => by
      dsimp only
      split
      · exact h.kept
      · next pr _ _ _ =>
        refine h.gated fun h => ?_
        cases pr.needsEntropy
        · exact slots_ite h.writes h.writes
        · exact slots_ite h.writes h.writes
      · exact h.kept
  | .dxSlotWrite _ _, rfl, _ => rowSparesSlots_of fun h => by
      dsimp only
      split
      · exact h.wrote
      · exact h.wrote
      · exact h.kept
  | .mceKeygen _, rfl, _ => rowSparesSlots_of fun h => h.gated fun h => by
      dsimp only
      split
      · exact h.kept
      · split
        · exact h.kept
        · exact h.wrote
  | .mcePkLoad _ _, rfl, _ => rowSparesSlots_of fun h => h.wrote

end Sys2Proof.Machine
open Sys2Proof Sys2Proof.Machine

/-- Settles O50: each row's body keeps to its own job and slot; a row without the operand store in its list keeps the whole
store. -/
theorem otherJobsAndSlotsKept : Obligations.OtherJobsAndSlotsKept := by
  intro i j l s t hi he hq hu ho
  have hj : ownJob i = some j := ownJob_of hi hq hu ho
  refine ⟨?_, fun h1 h2 h3 h4 x hx n hn => ?_⟩
  · obtain ⟨v, hv, hs⟩ := exec_sparesOthers s i hj
    obtain rfl := Host.Outcome.next.inj (he.symm.trans hv)
    exact hs
  · by_cases hl : .store ∈ l
    · have hr : remakesStore i = false := remakesStore_of hi h1 h2 h3 h4
      obtain ⟨v, hv, hs⟩ := exec_sparesSlots s i (storeJob_of hi hl hq hu ho) hr
      obtain rfl := Host.Outcome.next.inj (he.symm.trans hv)
      exact hs x hx n hn
    · exact congrArg (OpStore.slot · n) (exec_get_of_job hi he hl)
end

section
/-!
The canonical form of the sparse stores (R257, R378, R457): a store is only written by `Sparse.set`, `Sparse.erase`, or made
anew from the empty list, so every operation that writes the fuse words, the context store or the operand store keeps the
form. One lemma for each such operation; the others keep the three components whole (`_get`).
-/
namespace Sys2Proof.Machine
open Sys2Proof

/-! ### Sparse stores -/

theorem Sparse.wf_erase {α : Type} [DecidableEq α] {d : α} {m : Sparse α} (h : m.wf d = true) (i : Nat) :
    (m.erase i).wf d = true := by
  have e := Sparse.wf_set i d h
  rwa [Sparse.set, if_pos rfl] at e

/-- A store that each step of a fold writes canonically stays canonical. -/
theorem Sparse.wf_foldl {α β : Type} [DecidableEq α] {d : α} {m : Sparse α} (h : m.wf d = true) (l : List β)
    {f : Sparse α → β → Sparse α} (hf : ∀ {m : Sparse α} (b : β), m.wf d = true → (f m b).wf d = true) :
    (l.foldl f m).wf d = true :=
  List.foldlRecOn (motive := fun m => Sparse.wf d m = true) l f h fun _ hm b _ => hf b hm

/-! ### The three components -/

/-- The fuse array and its shadows are canonical. -/
structure Fuses.Tidy (f : Fuses) : Prop where
  raw : Sparse.wf 0 f.raw = true
  shadow : Sparse.wf Shadow.blank f.shadow = true

/-- The context records and the imported keys are canonical. -/
structure Keys.Tidy (k : Keys) : Prop where
  ctx : Sparse.wf Ctx.blank k.ctx = true
  imported : Sparse.wf [] k.imported = true

/-- The operand slots are canonical. -/
def OpStore.Tidy (o : OpStore) : Prop := Sparse.wf Slot.blank o.slots = true

/-- `State.canonical`, component by component. -/
structure State.Tidy (s : State) : Prop where
  fuses : s.fuses.Tidy
  keys : s.keys.Tidy
  store : s.store.Tidy

theorem State.canonical_iff (s : State) : s.canonical = true ↔ s.Tidy := by
  simp only [State.canonical, Bool.and_eq_true]
  exact ⟨fun ⟨⟨⟨⟨a, b⟩, c⟩, d⟩, e⟩ => ⟨⟨a, b⟩, ⟨c, d⟩, e⟩, fun ⟨⟨a, b⟩, ⟨c, d⟩, e⟩ => ⟨⟨⟨⟨a, b⟩, c⟩, d⟩, e⟩⟩

theorem Keys.Tidy.empty (m : Sparse Nat) : ({ Keys.empty with inflight := m } : Keys).Tidy := ⟨rfl, rfl⟩

theorem Keys.Tidy.setRec {k : Keys} (h : k.Tidy) (i : Nat) (c : Ctx) : (k.setRec i c).Tidy :=
  ⟨Sparse.wf_set i c h.ctx, h.imported⟩

theorem Keys.Tidy.uncache {k : Keys} (h : k.Tidy) (i : Nat) : (k.uncache i).Tidy := ⟨h.ctx, h.imported⟩

theorem Keys.Tidy.lower {k : Keys} (h : k.Tidy) (l : List Nat) : (k.lower l).Tidy := ⟨h.ctx, h.imported⟩

theorem Keys.Tidy.raise {k : Keys} (h : k.Tidy) (l : List Nat) : (k.raise l).Tidy := ⟨h.ctx, h.imported⟩

theorem Keys.Tidy.dropEntry {k : Keys} (h : k.Tidy) (n : Nat) : (k.dropEntry n).Tidy :=
  ⟨h.ctx, Sparse.wf_erase h.imported n⟩

theorem OpStore.Tidy.setSlot {o : OpStore} (h : o.Tidy) (n : Nat) (v : Slot) : (o.setSlot n v).Tidy :=
  Sparse.wf_set n v h

theorem OpStore.Tidy.spoil {o : OpStore} (h : o.Tidy) (n : Nat) : (o.spoil n).Tidy := h.setSlot _ _

theorem OpStore.Tidy.write {o : OpStore} (h : o.Tidy) (n : Nat) (tag : SlotTag) (c : Bytes) : (o.write n tag c).Tidy :=
  h.setSlot _ _

theorem OpStore.Tidy.foldl {β : Type} {o : OpStore} (h : o.Tidy) (l : List β) {f : OpStore → β → OpStore}
    (hf : ∀ {o : OpStore} (b : β), o.Tidy → (f o b).Tidy) : (l.foldl f o).Tidy :=
  List.foldlRecOn l f h fun _ ho b _ => hf b ho

theorem OpStore.Tidy.spoilAll {o : OpStore} (h : o.Tidy) (l : List Nat) : (o.spoilAll l).Tidy :=
  h.foldl l fun n ho => ho.spoil n

theorem OpStore.Tidy.spoilEvery {o : OpStore} (h : o.Tidy) : o.spoilEvery.Tidy := h.spoilAll _

/-! ### Changes of a state -/

section
variable {s t : State}

/-- An operation outside the three components. -/
theorem State.Tidy.keep (h : s.Tidy)
    (e : t.get .fuses = s.get .fuses ∧ t.get .keys = s.get .keys ∧ t.get .store = s.get .store) : t.Tidy := by
  obtain ⟨hf, hk, hs⟩ := e
  have hf : t.fuses = s.fuses := hf
  have hk : t.keys = s.keys := hk
  have hs : t.store = s.store := hs
  exact ⟨hf ▸ h.fuses, hk ▸ h.keys, hs ▸ h.store⟩

theorem State.Tidy.ite {c : Prop} {_ : Decidable c} (h : s.Tidy) (k : t.Tidy) : (if c then s else t).Tidy := by
  split <;> assumption

theorem State.Tidy.foldl {β : Type} (h : s.Tidy) (l : List β) {f : State → β → State}
    (hf : ∀ {s : State} (b : β), s.Tidy → (f s b).Tidy) : (l.foldl f s).Tidy :=
  List.foldlRecOn l f h fun _ hs b _ => hf b hs

theorem State.Tidy.mapFuses (h : s.Tidy) {f : Fuses → Fuses} (hf : (f s.fuses).Tidy) : (s.mapFuses f).Tidy :=
  ⟨hf, h.keys, h.store⟩

/-- The words stay; another part of the fuse state changes. -/
theorem State.Tidy.fuseState (h : s.Tidy) {f : Fuses → Fuses}
    (e : (f s.fuses).raw = s.fuses.raw ∧ (f s.fuses).shadow = s.fuses.shadow) : (s.mapFuses f).Tidy :=
  h.mapFuses ⟨e.1 ▸ h.fuses.raw, e.2 ▸ h.fuses.shadow⟩

theorem State.Tidy.mapKeys (h : s.Tidy) {f : Keys → Keys} (hf : (f s.keys).Tidy) : (s.mapKeys f).Tidy :=
  ⟨h.fuses, hf, h.store⟩

theorem State.Tidy.mapStore (h : s.Tidy) {f : OpStore → OpStore} (hf : (f s.store).Tidy) : (s.mapStore f).Tidy :=
  ⟨h.fuses, h.keys, hf⟩

theorem State.Tidy.spoilAll (h : s.Tidy) (l : List Nat) : (s.mapStore fun o => o.spoilAll l).Tidy :=
  h.mapStore (h.store.spoilAll l)

theorem State.Tidy.write (h : s.Tidy) (n : Nat) (tag : SlotTag) (c : Bytes) : (s.mapStore fun o => o.write n tag c).Tidy :=
  h.mapStore (h.store.write n tag c)

theorem State.Tidy.draw (h : s.Tidy) : s.draw.Tidy := ⟨h.fuses, h.keys, h.store⟩

theorem State.Tidy.logEvent (h : s.Tidy) (c : BitVec 16) (d : Nat) : (s.logEvent c d).Tidy := h.keep (by simp)

/-- A row's body runs, or nothing happens. -/
theorem State.Tidy.runOp (h : s.Tidy) (id : Nat) (op : Op) (inp : Bytes) {run : State → Job → State}
    (hr : ∀ j, (run s j).Tidy) : (s.runOp id op inp run).Tidy := by
  rcases s.runOp_cases id op inp run with e | ⟨j, -, e⟩ <;> rw [e]
  · exact h
  · exact hr j

theorem State.Tidy.nvOp (h : s.Tidy) (id : Nat) (op : Op) (inp : Bytes) {run : State → Job → State}
    (hr : ∀ j, (run s j).Tidy) : (s.nvOp id op inp run).Tidy := (h.runOp id op inp hr).ite h

theorem State.Tidy.gated (h : s.Tidy) {j : Job} (op : Op) (pub : Nat) {body : State → Job → State}
    (hb : ∀ {s : State} {j : Job}, s.Tidy → (body s j).Tidy) : (s.gated j op pub body).Tidy := by
  rcases s.gated_cases j op pub body with e | e | e <;> rw [e]
  · exact hb (h.keep (by simp))
  · exact h.keep (by simp)
  · exact h.keep (by simp)

theorem State.Tidy.finish (h : s.Tidy) (id : Nat) (c : Status) (r : BitVec 64) (b : Bytes) (n : Nat) :
    (s.finish id c r b n).Tidy := h.keep (by simp)

theorem State.Tidy.done (h : s.Tidy) (j : Job) (r : Nat) (b : Bytes) (n : Nat) : (s.done j r b n).Tidy := h.keep (by simp)

theorem State.Tidy.endWith (h : s.Tidy) (j : Job) (c : Status) (r n : Nat) : (s.endWith j c r n).Tidy := h.keep (by simp)

theorem State.Tidy.fail (h : s.Tidy) (j : Job) (c : Status) (n : Nat) : (s.fail j c n).Tidy := h.keep (by simp)

theorem State.Tidy.refuse (h : s.Tidy) (j : Job) (n : Nat) : (s.refuse j n).Tidy := h.keep (by simp)

/-! ### Fuse words (R457, R466, R470, R490) -/

theorem State.Tidy.burn (h : s.Tidy) (w : Nat) (d : BitVec 32) : (s.burn w d).Tidy :=
  h.mapFuses ⟨Sparse.wf_set _ _ h.fuses.raw, Sparse.wf_set _ _ h.fuses.shadow⟩

theorem State.Tidy.burnBad (h : s.Tidy) (w : Nat) : (s.burnBad w).Tidy := by
  have h1 := Sparse.wf_set w { Shadow.blank with invalid := true } h.fuses.shadow
  unfold State.burnBad
  exact (h.mapFuses ⟨Sparse.wf_set _ _ h.fuses.raw, h1⟩).draw

theorem State.Tidy.burnAll (h : s.Tidy) (l : List (Nat × BitVec 32)) : (s.burnAll l).Tidy :=
  h.foldl l fun p hs => hs.burn p.1 p.2

theorem State.Tidy.burnTrip (h : s.Tidy) (l : List (Nat × BitVec 32)) : (s.burnTrip l).Tidy :=
  h.foldl l fun _ hs => hs.burnAll _

theorem State.Tidy.burnSeq (bad : Option Nat) (l : List (Nat × BitVec 32)) (h : s.Tidy) : (State.burnSeq bad l s).1.Tidy := by
  induction l generalizing s with
  | nil => exact h
  | cons p l ih =>
    unfold State.burnSeq
    split
    · exact h.burnBad p.1
    · exact ih (h.burn p.1 p.2)

theorem State.Tidy.of_burnSeq (h : s.Tidy) {bad : Option Nat} {l : List (Nat × BitVec 32)} {w : Option Nat}
    (e : State.burnSeq bad l s = (t, w)) : t.Tidy := by
  have := h.burnSeq bad l
  rwa [e] at this

theorem State.Tidy.redecode (h : s.Tidy) : s.redecode.Tidy := ⟨⟨h.fuses.raw, h.fuses.shadow⟩, h.keys, h.store⟩

theorem State.Tidy.disableRoot (h : s.Tidy) (e : Nat) : (s.disableRoot e).Tidy := by
  have h1 := h.burnTrip [(336 + 2 + e, rootDisableData)]
  unfold State.disableRoot
  exact h1.keep (by simp)

theorem State.Tidy.orderDisable (h : s.Tidy) : s.orderDisable.Tidy := (h.disableRoot _).ite (h.keep (by simp))

theorem State.Tidy.applyPatches (h : s.Tidy) : s.applyPatches.Tidy := h.fuseState ⟨rfl, rfl⟩

theorem State.Tidy.latchFuseFields (h : s.Tidy) : s.latchFuseFields.Tidy := h.fuseState ⟨rfl, rfl⟩

theorem State.Tidy.senseAll (h : s.Tidy) (m : List MarginRead) : (s.senseAll m).Tidy := by
  unfold State.senseAll
  generalize List.range 8192 = l
  exact h.mapFuses ⟨h.fuses.raw, Sparse.wf_foldl h.fuses.shadow l fun _ hm => Sparse.wf_set _ _ hm⟩

theorem State.Tidy.takeMajorities (h : s.Tidy) : s.takeMajorities.Tidy :=
  h.mapFuses ⟨h.fuses.raw, Sparse.wf_foldl h.fuses.shadow _ fun _ hm => Sparse.wf_foldl hm _ fun _ hl => Sparse.wf_set _ _ hl⟩

theorem State.Tidy.judgeFuses (h : s.Tidy) (l : List Nat) (reads : Bool) : (s.judgeFuses l reads).Tidy := by
  unfold State.judgeFuses
  split
  · exact h.keep (by simp)
  · have h1 : (if reads then s.redecode
        else s.mapFuses fun f => { f with lc := .invalid, epoch := 0, pattern := 0 }).Tidy :=
      h.redecode.ite (h.fuseState ⟨rfl, rfl⟩)
    exact h1.keep (by simp)

theorem State.Tidy.finishSense (h : s.Tidy) : s.finishSense.Tidy :=
  ((h.takeMajorities.foldl _ fun _ hs => hs.keep (by simp)).latchFuseFields).judgeFuses _ _

theorem State.Tidy.fuseFail (h : s.Tidy) (j : Job) (c w : Nat) : (s.fuseFail j c w).Tidy := h.keep (by simp)

theorem State.Tidy.generateRoots (h : s.Tidy) (j : Job) (bad : Option Nat) : (s.generateRoots j bad).Tidy := by
  have h0 : s.scDraw.Tidy := h.keep (by simp)
  unfold State.generateRoots
  dsimp only
  split
  · exact h.fuseFail _ _ _
  · split <;> rename_i e1
    · exact (h0.of_burnSeq e1).fuseFail _ _ _
    · split <;> rename_i e2
      · exact ((h0.of_burnSeq e1).of_burnSeq e2).fuseFail _ _ _
      · exact ((h0.of_burnSeq e1).of_burnSeq e2).done _ _ _ _

theorem State.Tidy.tripProgram (h : s.Tidy) (j : Job) (l : List (Nat × BitVec 32)) (bad : Option Nat) {go : State → State}
    (hg : ∀ {s : State}, s.Tidy → (go s).Tidy) : (s.tripProgram j l bad go).Tidy := by
  unfold State.tripProgram
  split
  · exact h.fuseFail _ _ _
  · split <;> rename_i e
    · exact (h.of_burnSeq e).fuseFail _ _ _
    · exact hg (h.of_burnSeq e)

theorem State.Tidy.finishConfirm (h : s.Tidy) (c svn : Nat) (roll : Bool) : (s.finishConfirm c svn roll).Tidy :=
  State.Tidy.keep (h.burnAll _) ⟨rfl, rfl, rfl⟩

/-! ### Jobs that end (R227, R229, R237, R281) -/

theorem State.Tidy.touchCache (h : s.Tidy) (l : List Nat) : (s.touchCache l).Tidy :=
  ⟨h.fuses, ⟨h.keys.ctx, h.keys.imported⟩, h.store⟩

theorem State.Tidy.uncount (h : s.Tidy) (j : Job) (c : Status) : (s.uncount j c).Tidy :=
  State.Tidy.ite ⟨h.fuses, (h.keys.lower j.chain).lower j.chain2, h.store⟩ h

theorem State.Tidy.stopJob (h : s.Tidy) (j : Job) (c : Status) : (s.stopJob j c).Tidy := by
  have h1 : ((s.mapStore fun o => o.spoilAll (j.stopSpoils c)).dropStream j).Tidy :=
    (h.spoilAll (j.stopSpoils c)).keep (by simp)
  unfold State.stopJob
  exact (h1.uncount j c).keep (by simp)

theorem State.Tidy.orderStop (h : s.Tidy) (p : Job → Bool) (c : Status) : (s.orderStop p c).Tidy :=
  State.Tidy.foldl (h.keep (by simp)) _ fun j hs => hs.stopJob j c

theorem State.Tidy.stopNow (h : s.Tidy) (p : Job → Bool) (c : Status) : (s.stopNow p c).Tidy :=
  h.foldl _ fun j hs => hs.stopJob j c

theorem State.Tidy.takeHigh (h : s.Tidy) : s.takeHigh.Tidy := by
  unfold State.takeHigh
  extract_lets s1
  have h1 : s1.Tidy := ⟨h.fuses, h.keys, h.store.spoilAll _⟩
  refine h.ite ?_
  split
  · exact h
  · split
    · exact h1.finish _ _ _ _ _
    · exact h
  · exact h1.keep (by simp)

theorem State.Tidy.release (h : s.Tidy) (j : Job) : (s.release j).Tidy := by
  have h1 : (s.mapKeys fun k => (k.lower j.chain).lower j.chain2).Tidy := h.mapKeys ((h.keys.lower _).lower _)
  exact State.Tidy.takeHigh ((h1.spoilAll j.scratch).keep (by simp))

theorem State.Tidy.loseJobs (h : s.Tidy) (l : List Job) : (s.loseJobs l).Tidy :=
  h.foldl l fun {s} j hs => by
    have h1 : ((s.leavePort j.id).dropStream j).Tidy := hs.keep (by simp)
    exact (h1.spoilAll _).release j

theorem State.Tidy.spoilAfter (h : s.Tidy) (j : Job) : (s.spoilAfter j).Tidy := (h.mapStore (h.store.spoil _)).ite h

theorem State.Tidy.complete (h : s.Tidy) (j : Job) (e : Ending) : (s.complete j e).Tidy := by
  unfold State.complete
  extract_lets s1
  have h1 : s1.Tidy := (State.Tidy.spoilAfter ((h.keep (by simp)).ite h) j).ite (h.keep (by simp))
  have h2 : (s1.post j (s1.finalEnding j e)).Tidy := h1.keep (by simp)
  exact (h2.release j).keep (by simp)

theorem State.Tidy.completeNow (h : s.Tidy) (id : Nat) : (s.completeNow id).Tidy := by
  unfold State.completeNow
  split
  · split
    · exact h.ite (h.complete _ _)
    · exact h
  · exact h

theorem State.Tidy.forgetWaits (h : s.Tidy) : s.forgetWaits.Tidy := ⟨h.fuses, h.keys, h.store⟩

theorem State.Tidy.endJobs (h : s.Tidy) (l : List Job) : (s.endJobs l).Tidy :=
  ((h.loseJobs l).foldl l fun _ hs => hs.keep (by simp)).forgetWaits


/-! ### Spoil, resets and the major response (R80 to R82, R488 to R493) -/

theorem State.Tidy.spoilKeyStores (h : s.Tidy) (b : Bool) : (s.spoilKeyStores b).Tidy :=
  ⟨h.fuses, Keys.Tidy.empty _, h.store.spoilAll _⟩

theorem State.Tidy.dropUpdate (h : s.Tidy) : s.dropUpdate.Tidy := by
  refine ⟨h.fuses, h.keys, ?_⟩
  change Sparse.wf Slot.blank (if s.store.lent then s.store.spoilAll _ else s.store).slots = true
  split
  · exact h.store.spoilAll _
  · exact h.store

theorem State.Tidy.dropHostUpdate (h : s.Tidy) : s.dropHostUpdate.Tidy := h.dropUpdate.ite h

theorem State.Tidy.enterLockdown (h : s.Tidy) (n : Nat) : (s.enterLockdown n).Tidy := by
  unfold State.enterLockdown
  extract_lets s1
  have h1 : s1.Tidy := h.keep (by simp +zetaDelta)
  have h2 := (h1.orderStop (fun _ => true) st.abortedQueueStop).spoilKeyStores false
  exact h.ite (h2.keep (by simp))

theorem State.Tidy.clearDie (h : s.Tidy) : s.clearDie.Tidy := ⟨h.fuses, Keys.Tidy.empty _, h.store.spoilEvery⟩

theorem State.Tidy.restartDie (h : s.Tidy) : s.restartDie.Tidy := (h.endJobs s.jobs).clearDie.keep ⟨rfl, rfl, rfl⟩

theorem State.Tidy.majorRun (h : s.Tidy) (code : BitVec 16) (cls detail : Nat) : (s.majorRun code cls detail).Tidy := by
  unfold State.majorRun
  extract_lets pol cut jobs s1 s2 s3 s4 s5 s6 s7 s8 s9
  have h2 : s2.Tidy := h.keep (by simp +zetaDelta)
  have h3 : s3.Tidy := (h2.loseJobs jobs).ite (h2.stopNow _ _)
  have h4 : s4.Tidy := (h3.spoilKeyStores false).keep (by simp +zetaDelta)
  have h5 : s5.Tidy := (h4.keep (by simp)).ite h4
  have h6 : s6.Tidy := h5.dropUpdate.ite h5
  have h7 : s7.Tidy := h6.keep (by simp +zetaDelta)
  have h8 : s8.Tidy := (State.Tidy.forgetWaits (State.Tidy.foldl (h7.keep (by simp)) _ fun _ hs => hs.keep (by simp))).ite h7
  have h9 : s9.Tidy := h8.orderDisable.ite h8
  exact h9.keep (by simp)

theorem State.Tidy.majorEarly (h : s.Tidy) (code : BitVec 16) (cls detail : Nat) : (s.majorEarly code cls detail).Tidy := by
  unfold State.majorEarly
  extract_lets s1 s2
  have h1 : s1.Tidy := h.keep (by simp +zetaDelta)
  have h2 : s2.Tidy := (h1.keep (by simp)).ite h1
  exact h2.ite (h2.clearDie.keep (by simp))

theorem State.Tidy.majorTamper (h : s.Tidy) (code : BitVec 16) (cls detail : Nat) : (s.majorTamper code cls detail).Tidy :=
  (h.keep (by simp)).ite ((h.majorEarly _ _ _).ite (h.majorRun _ _ _))

/-- Counting a fault event changes the fault state alone. -/
theorem State.Tidy.faultEvent (h : s.Tidy) {c obj : Nat} {b : Bool} (e : s.faultEvent c obj = (t, b)) : t.Tidy :=
  h.keep ⟨State.faultEvent_of e (by simp), State.faultEvent_of e (by simp), State.faultEvent_of e (by simp)⟩

theorem State.Tidy.unitFaultEvent (h : s.Tidy) (c : Nat × Nat × Nat) (n : Nat) : (s.unitFaultEvent c n).Tidy := by
  unfold State.unitFaultEvent
  obtain ⟨cls, obj, unit⟩ := c
  dsimp only
  have h1 : ((s.log 0x0703 1 cls unit (n % 65536)).setFlt 8).Tidy := h.keep (by simp)
  split <;> rename_i e
  · exact h1.faultEvent e
  · exact ((h1.faultEvent e).majorTamper _ _ _).ite ((h1.faultEvent e).keep (by simp))

theorem State.Tidy.loseWord (h : s.Tidy) (w : SramWord) : (s.loseWord w).Tidy := by
  unfold State.loseWord
  split
  · exact h.mapKeys ((h.keys.setRec _ _).setRec _ _)
  · exact h.mapKeys ⟨h.keys.ctx, h.keys.imported⟩
  · exact h.mapKeys (h.keys.uncache _)
  · exact h
  · exact h.mapStore (h.store.spoil _)
  · split
    · exact h.keep (by simp)
    · exact h
  · exact h

theorem State.Tidy.retire (h : s.Tidy) (w : SramWord) (cls : Nat) : (s.retire w cls).Tidy := by
  unfold State.retire
  extract_lets u s1 s2
  have h2 : s2.Tidy := h.keep (by simp +zetaDelta)
  exact (h.keep (by simp)).ite ((h2.loseWord w).ite h2)

theorem State.Tidy.sramUe (h : s.Tidy) (w : SramWord) : (s.sramUe w).Tidy := by
  have h1 : (s.faultEvent 5 0).1.Tidy := h.keep (by simp)
  unfold State.sramUe
  exact (h1.retire w 5).keep (by simp)

theorem State.Tidy.noteIsland (h : s.Tidy) : s.noteIsland.Tidy := h.ite ((h.majorTamper _ _ _).ite (h.keep (by simp)))

theorem State.Tidy.minor (h : s.Tidy) (cls : Nat) : (s.minor cls).Tidy := by
  unfold State.minor
  extract_lets hit drop t s1
  have ht : t.Tidy := (h.stopNow _ _).ite h
  have h1 : s1.Tidy := h.ite (ht.keep (by simp))
  split <;> rename_i e
  · exact h1.faultEvent e
  · exact (h1.faultEvent e).majorTamper _ _ _

theorem State.Tidy.minorBegins (h : s.Tidy) (cls : Nat) : (s.minorBegins cls).Tidy := by
  unfold State.minorBegins
  refine State.Tidy.ite ?_ h
  exact State.Tidy.minor (h.keep (by simp)) cls

theorem State.Tidy.guardly {f : State → State} (hf : (f s).Tidy) : (s.guardly f).Tidy := (hf.keep (by simp)).ite hf

theorem State.Tidy.begin (h : s.Tidy) (code : Nat) {run : State → State} (hr : ∀ {s : State}, s.Tidy → (run s).Tidy) :
    (s.begin code run).Tidy := hr ⟨h.fuses, h.keys, h.store⟩

theorem State.Tidy.dmaError (h : s.Tidy) (fn : Nat) (e : DmaErr) (addr : BitVec 64) : (s.dmaError fn e addr).Tidy := by
  have h1 : (s.setFnDma fn (DmaErr.num e) addr).Tidy := h.keep (by simp)
  unfold State.dmaError
  split
  · exact h1.sramUe _
  · exact h1.keep (by simp)

/-! ### Queues (R189, R203 to R205) -/

theorem State.Tidy.malformed (h : s.Tidy) (r : QRef) (k n : Nat) : (s.malformed r k n).Tidy :=
  (h.enterLockdown _).ite (h.keep (by simp))

theorem State.Tidy.ringError (h : s.Tidy) (r : QRef) (e : DmaErr) (addr : BitVec 64) : (s.ringError r e addr).Tidy :=
  (h.dmaError _ _ _).malformed _ _ _

theorem State.Tidy.takeRun (h : s.Tidy) (r : QRef) (l : List Bytes) : (s.takeRun r l).Tidy := by
  induction l generalizing s with
  | nil => exact h
  | cons b l ih =>
    unfold State.takeRun
    refine h.ite (State.Tidy.ite (h.keep (by simp)) ?_)
    split
    · exact h.malformed _ _ _
    · exact ih ⟨h.fuses, h.keys, h.store⟩

theorem State.Tidy.reportCq (h : s.Tidy) (r : QRef) (n : Nat) (b : Bool) : (s.reportCq r n b).Tidy :=
  (h.keep (by simp)).ite ((h.malformed _ _ _).ite (h.keep (by simp)))

theorem State.Tidy.writeHeld (h : s.Tidy) (fn : Nat) : (s.writeHeld fn).Tidy := by
  refine State.Tidy.keep (State.Tidy.foldl h _ fun {s} id hs => ?_) ⟨rfl, rfl, rfl⟩
  split
  · split
    · exact hs.complete _ _
    · exact hs
  · exact hs

theorem State.Tidy.writeDoorbell (h : s.Tidy) (r : QRef) (v : BitVec 64) : (s.writeDoorbell r v).Tidy := by
  have h1 : (if v.getLsbD 48 then s.reportCq r (v.toNat / 2 ^ 32 % 65536) (v.getLsbD 49) else s).Tidy :=
    (h.reportCq _ _ _).ite h
  unfold State.writeDoorbell
  exact (h.keep (by simp)).ite ((h1.keep (by simp)).ite h1)

/-! ### Functions and registers (R82, R143, R145, R148, R156) -/

theorem State.Tidy.onBar (h : s.Tidy) (fn : Nat) {act : State → State} (ha : (act s).Tidy) : (s.onBar fn act).Tidy :=
  h.ite ((h.keep (by simp)).ite (h.ite ha))

theorem State.Tidy.onQueue (h : s.Tidy) (r : QRef) {act : State → State} (ha : (act s).Tidy) : (s.onQueue r act).Tidy :=
  (h.onBar r.fn (ha.ite h)).ite h

theorem State.Tidy.writeVf (h : s.Tidy) (fn off : Nat) (w : RegWrite) : (s.writeVf fn off w).Tidy := by
  unfold State.writeVf
  extract_lets reg r n r2
  exact h.ite ((h.writeDoorbell _ _).ite ((h.keep (by simp)).ite ((h.keep (by simp)).ite ((h.keep (by simp)).ite
    ((h.keep (by simp)).ite (h.ite (h.keep (by simp))))))))

theorem State.Tidy.writePf (h : s.Tidy) (off size : Nat) (w : RegWrite) : (s.writePf off size w).Tidy := by
  unfold State.writePf
  extract_lets reg fw n n2 r
  have hf {t : State} (k : t.Tidy) : (fw t).Tidy := k.ite h
  have hw {r : QRef} {act : State → State} (k : (act s).Tidy) : (s.whenUp r act).Tidy := k.ite h
  refine State.Tidy.ite ?_ (State.Tidy.ite ((hw (h.keep (by simp))).ite (hf (h.keep (by simp))))
    (State.Tidy.ite ((hw (h.keep (by simp))).ite (hf (h.keep (by simp))))
    ((hf (h.keep (by simp))).ite ((hf (h.keep (by simp))).ite (hf (h.keep (by simp)))))))
  split
  · exact hw (h.writeDoorbell _ _)
  · exact hf (h.keep (by simp))

theorem State.Tidy.barWriteOp (h : s.Tidy) (fn off size : Nat) (v : BitVec 64) : (s.barWriteOp fn off size v).Tidy := by
  unfold State.barWriteOp
  split
  · exact (h.keep (by simp)).ite h
  · exact (h.writeVf _ _ _).ite (((h.keep (by simp)).ite h).ite (h.writePf _ _ _))

theorem State.Tidy.flrOne (h : s.Tidy) (fn : Nat) : (s.flrOne fn).Tidy := by
  unfold State.flrOne
  extract_lets mine s1 owned s2
  have h1 : s1.Tidy := State.Tidy.endJobs (h.keep (by simp)) mine
  have h2 : s2.Tidy := (h1.spoilAll owned).keep (by simp +zetaDelta)
  exact h2.keep (by simp)

theorem State.Tidy.clearVfs (h : s.Tidy) : s.clearVfs.Tidy := h.foldl _ fun i hs => (hs.flrOne i).keep (by simp)

theorem State.Tidy.flrPf (h : s.Tidy) : s.flrPf.Tidy := State.Tidy.dropHostUpdate ((h.flrOne 0).clearVfs.keep (by simp))

theorem State.Tidy.perstJobs (h : s.Tidy) : s.perstJobs.Tidy := State.Tidy.endJobs (h.keep (by simp)) s.jobs

theorem State.Tidy.perstWarm (h : s.Tidy) : s.perstWarm.Tidy := by
  unfold State.perstWarm
  extract_lets s1 s2
  have h1 : s1.Tidy := (h.perstJobs.spoilKeyStores false).keep (by simp +zetaDelta)
  have h2 : s2.Tidy := h1.keep (by simp +zetaDelta)
  have h3 : (s2.clearDru s.resetOwner).dropHostUpdate.Tidy := State.Tidy.dropHostUpdate (h2.keep (by simp))
  exact h3.keep (by simp)

theorem State.Tidy.perstLocked (h : s.Tidy) : s.perstLocked.Tidy := by
  unfold State.perstLocked
  extract_lets s1
  have h1 : s1.Tidy := h.keep (by simp +zetaDelta)
  exact h1.restartDie.keep (by simp)

/-! ### Restarts and updates (R286, R471, R508, R518, R522, R524, R526) -/

theorem State.Tidy.restartHeld (h : s.Tidy) : s.restartHeld.Tidy := by
  have h1 : s.guardReset.Tidy := h.keep (by simp)
  unfold State.restartHeld
  exact h1.restartDie.keep (by simp)

theorem State.Tidy.restartUpdate (h : s.Tidy) (hold : Bool) : (s.restartUpdate hold).Tidy := by
  have h1 : (if hold then s.guardReset else s).Tidy := (h.keep (by simp)).ite h
  unfold State.restartUpdate
  exact h1.restartDie.keep (by simp)

theorem State.Tidy.restartKeeper (h : s.Tidy) : s.restartKeeper.Tidy := by
  have h1 := (h.endJobs s.jobs).clearDie
  unfold State.restartKeeper
  exact h1.keep (by simp)

theorem State.Tidy.transition (h : s.Tidy) (j : Job) (tgt : LcState) (bad : Option Nat) : (s.transition j tgt bad).Tidy :=
  h.tripProgram j _ bad fun hs => ((hs.redecode.done _ _ _ _).completeNow _).restartHeld

theorem State.Tidy.beginUpdate (h : s.Tidy) (b : Bytes) (t : Taker) : (s.beginUpdate b t).Tidy :=
  State.Tidy.takeHigh ⟨h.fuses, h.keys, h.store⟩

theorem State.Tidy.returnHigh (h : s.Tidy) : s.returnHigh.Tidy := ⟨h.fuses, h.keys, h.store.spoilAll _⟩

theorem State.Tidy.cancelUpdate (h : s.Tidy) : s.cancelUpdate.Tidy := by
  unfold State.cancelUpdate
  exact h.dropUpdate.keep (by simp)

theorem State.Tidy.returnBlob (h : s.Tidy) : s.returnBlob.Tidy := by
  unfold State.returnBlob
  split
  · exact h
  · exact ⟨h.fuses, h.keys, OpStore.Tidy.foldl (by rfl) _ fun _ ho => ho.setSlot _ _⟩

theorem State.Tidy.restoreUpdate (h : s.Tidy) (stage : UpdStage) (c : Nat) : (s.restoreUpdate stage c).Tidy := by
  unfold State.restoreUpdate
  refine State.Tidy.logEvent (State.Tidy.returnBlob ?_) _ _
  exact ⟨h.fuses, h.keys, h.store⟩

theorem State.Tidy.pldm (h : s.Tidy) (ch : Channel) (cmd : Nat) {run : State → State} (hr : (run s).Tidy) :
    (s.pldm ch cmd run).Tidy := h.ite (hr.ite (h.keep (by simp)))

theorem State.Tidy.pldmCancel (h : s.Tidy) (ch : Channel) (cmd : Nat) : (s.pldmCancel ch cmd).Tidy :=
  (h.keep (by simp)).ite ((h.cancelUpdate.keep (by simp)).ite (h.keep (by simp)))

theorem State.Tidy.holdCert (h : s.Tidy) : s.holdCert.Tidy := by
  unfold State.holdCert
  extract_lets s1
  have h1 : s1.Tidy := h.keep (by simp +zetaDelta)
  exact (h1.spoilKeyStores true).ite h1

theorem State.Tidy.acceptCert (h : s.Tidy) (b : Bytes) : (s.acceptCert b).Tidy := by
  unfold State.acceptCert
  extract_lets s1
  have h1 : s1.Tidy := h.ite ((h.spoilKeyStores false).keep (by simp))
  exact h1.keep (by simp)

/-! ### The key tree (R255, R270, R273, R276, R294, R295) -/

theorem State.Tidy.revoke (h : s.Tidy) (i : Nat) : (s.revoke i).Tidy := ⟨h.fuses, (h.keys.setRec _ _).uncache _, h.store⟩

theorem State.Tidy.awaitBarrier (h : s.Tidy) (j : Job) (e : Ending) : (s.awaitBarrier j e).Tidy :=
  (h.finish _ _ _ _ _).ite (h.keep (by simp))

theorem State.Tidy.invalidateRun (h : s.Tidy) (j : Job) (b : Bool) : (s.invalidateRun j b).Tidy := by
  unfold State.invalidateRun
  extract_lets i c check n s1 s2
  have h1 : s1.Tidy := h.revoke i
  have h2 : s2.Tidy := (h1.mapKeys (h1.keys.dropEntry _)).ite h1
  exact (h.fail _ _ _).ite ((h.endWith _ _ _ _).ite (h2.awaitBarrier _ _))

theorem State.Tidy.freeCtx (h : s.Tidy) (i : Nat) : (s.freeCtx i).Tidy := by
  unfold State.freeCtx
  extract_lets c s1
  have h1 : s1.Tidy := by
    refine h.mapKeys ?_
    have hk := (h.keys.setRec i { c with state := .free, type := 0 }).uncache i
    dsimp only
    split
    · exact hk.dropEntry _
    · exact hk
  exact (h1.keep (by simp)).ite h1

/-- The records of an image are written one by one into an empty store. -/
theorem bodyRecords_wf (n : Nat) (body : Bytes) : (bodyRecords n body).wf Ctx.blank = true :=
  Sparse.wf_foldl (by rfl) _ fun {m} i hm => by
    split
    · exact hm
    · exact Sparse.wf_set _ _ hm

theorem bodyImported_wf (recs : Sparse Ctx) (area : Bytes) : (bodyImported recs area).wf [] = true :=
  Sparse.wf_foldl (by rfl) _ fun {m} p hm => by
    dsimp only
    split
    · exact hm
    · exact Sparse.wf_set _ _ hm

theorem State.Tidy.installImage (h : s.Tidy) (body : Bytes) (revs : List (Nat × Nat)) : (s.installImage body revs).Tidy := by
  unfold State.installImage
  exact h.mapKeys (List.foldlRecOn (motive := Keys.Tidy) _ _ ⟨bodyRecords_wf _ _, bodyImported_wf _ _⟩ fun _ hk _ _ =>
    hk.setRec _ _)

theorem State.Tidy.migrate (h : s.Tidy) (j : Job) (inp : Bytes) : (s.migrate j inp).Tidy := by
  unfold State.migrate
  extract_lets i l keys s1 s2 blob e s3
  have h1 : s1.Tidy := h.keep (by simp +zetaDelta)
  have h2 : s2.Tidy := h1.keep (by simp +zetaDelta)
  have hr : (s2.scDraw.revoke i).Tidy := State.Tidy.revoke (h2.keep (by simp)) i
  have h3 : s3.Tidy := ⟨hr.fuses, (hr.keys.dropEntry _).lower _, hr.store⟩
  exact h1.ite ((h2.keep (by simp)).ite ((h2.endWith _ _ _ _).ite (h3.awaitBarrier _ _)))

theorem State.Tidy.installMigration (h : s.Tidy) (p : MigPayload) (n : Nat) : (s.installMigration p n).Tidy := by
  unfold State.installMigration
  exact h.mapKeys (List.foldlRecOn (motive := Keys.Tidy) _ _
    ⟨Sparse.wf_set _ _ h.keys.ctx, Sparse.wf_set _ _ h.keys.imported⟩ fun _ hk _ _ => hk.setRec _ _)

theorem State.Tidy.placeImport (h : s.Tidy) (j : Job) (p : MigPayload) (nonce : Bytes) : (s.placeImport j p nonce).Tidy := by
  unfold State.placeImport
  extract_lets fresh room genOf s1
  have h1 : s1.Tidy := h.keep (by simp +zetaDelta)
  split
  · exact h.endWith _ _ _ _
  · exact h.endWith _ _ _ _
  · exact (h.endWith _ _ _ _).ite ((h.fail _ _ _).ite ((h1.installMigration _ _).done _ _ _ _))

theorem State.Tidy.placeRoot (h : s.Tidy) (j : Job) (secret : Bytes) : (s.placeRoot j secret).Tidy := by
  unfold State.placeRoot
  dsimp only
  refine (h.refuse _ _).ite ?_
  split
  · exact h.endWith _ _ _ _
  · exact State.Tidy.done (h.mapKeys ⟨Sparse.wf_set _ _ h.keys.ctx, Sparse.wf_set _ _ h.keys.imported⟩) _ _ _ _

theorem State.Tidy.judge (h : s.Tidy) (fn m : Nat) (nonce proof : Bytes) : (s.judge fn m nonce proof).2.Tidy := by
  unfold State.judge
  dsimp only
  split
  · exact h
  · split
    · split
      · exact h
      · split
        · exact h
        · exact h.touchCache _
    · split
      · exact h
      · exact h

theorem State.Tidy.prove (h : s.Tidy) (fn m : Nat) (proof : Bytes) : (s.prove fn m proof).2.2.Tidy := by
  unfold State.prove
  split
  · exact h
  · split
    · exact h
    · next nonce _ =>
      have hj := h.judge fn m nonce proof
      dsimp only
      split
      · exact hj.keep (by simp)
      · exact hj.keep (by simp)

/-! ### Stateful signatures (R281, R346, R347) -/

theorem State.Tidy.treeRegister (h : s.Tidy) (j : Job) (k : TreeKind) : (s.treeRegister j k).Tidy := by
  have fill {u : State} (hu : u.Tidy) (c : TreeCache × Bytes) (pk : Bytes) (n : Nat) :
      ((u.draw.mapStore fun o => o.write j.entry.slotA.toNat (.tree c.1) c.2).done j 0 pk n).Tidy :=
    (hu.draw.write _ _ _).done _ _ _ _
  refine (h.endWith _ _ _ _).ite ((h.fail _ _ _).ite ((h.fail _ _ _).ite (h.ite ?_)))
  split
  · exact fill (h.keep (by simp)) _ _ _
  · exact fill (h.keep (by simp)) _ _ _
  · exact h

theorem State.Tidy.treeKeygen (h : s.Tidy) (j : Job) (k : TreeKind) : (s.treeKeygen j k).Tidy := by
  unfold State.treeKeygen
  split
  · exact (h.treeRegister j k).ite (h.keep (by simp))
  · exact h.treeRegister j k
  · exact h.keep (by simp)

theorem State.Tidy.treeFinish (h : s.Tidy) (j : Job) (k : TreeKind) (q : Nat) (t : TreeCache) (inp : Bytes) :
    (s.treeFinish j k q t inp).Tidy := by
  refine State.Tidy.ite (h.keep (by simp)) ?_
  exact State.Tidy.done (State.Tidy.write (h.ite h.draw) _ _ _) _ _ _ _

theorem State.Tidy.treeSign (h : s.Tidy) (j : Job) (k : TreeKind) (op : Op) (inp : Bytes) : (s.treeSign j k op inp).Tidy := by
  unfold State.treeSign
  split
  · exact h.treeFinish _ _ _ _ _
  · split
    · exact h.gated _ _ fun hs => hs.keep (by simp)
    · exact h.fail _ _ _
  · exact h.fail _ _ _

/-! ### Intake (R219, R222, R227) -/

theorem State.Tidy.startJob (h : s.Tidy) (j : Job) (u : Option Nat) (holds : List Hold) (c c2 : List Nat)
    (outs : List (BitVec 64 × Nat)) : (s.startJob j u holds c c2 outs).Tidy := by
  unfold State.startJob
  extract_lets slot waits kc key record counted lost s1 s2 s3
  have h0 : (if lost then s else (s.touchCache kc).touchCache c2).Tidy := h.ite ((h.touchCache _).touchCache _)
  have h1 : s1.Tidy := h0.mapKeys ((h0.keys.raise _).raise _)
  have h2 : s2.Tidy := h1.keep (by simp +zetaDelta)
  have h3 : s3.Tidy := h2.keep (by simp +zetaDelta)
  refine State.Tidy.ite ?_ h3
  split
  · exact h3.keep (by simp)
  · exact h3

theorem State.Tidy.runIntake (h : s.Tidy) (j : Job) (i : Intake) (a b : List FragEntry) (e : DmaErr) :
    (s.runIntake j i a b e).Tidy := by
  have hd : (s.dropStream j).Tidy := h.keep (by simp)
  unfold State.runIntake
  refine (hd.fail _ _ _).ite ?_
  split
  · exact hd.finish _ _ _ _ _
  · exact (hd.dmaError _ _ _).fail _ _ _
  · exact State.Tidy.startJob ((h.keep (by simp)).ite h) _ _ _ _ _ _

end

/-! ### The rows -/

/-- The outcome is a next state whose stores are canonical. -/
def Tidies (o : Host.Outcome State Fault Refusal) : Prop := ∃ t, o = .next t ∧ t.Tidy

theorem State.Tidy.next {t : State} (h : t.Tidy) : Tidies (.next t) := ⟨t, rfl, h⟩

theorem tidies_ite {c : Prop} {_ : Decidable c} {a b : Host.Outcome State Fault Refusal} (ha : Tidies a) (hb : Tidies b) :
    Tidies (if c then a else b) := by
  split <;> assumption

section
variable {s : State}

/-- A job's row: its body runs, or nothing happens. -/
theorem State.Tidy.row (h : s.Tidy) {id : Nat} {op : Op} {inp : Bytes} {run : State → Job → State}
    (hr : ∀ j, (run s j).Tidy) : Tidies (.next (s.runOp id op inp run)) := (h.runOp id op inp hr).next

/-- The same for a row that waits while non-volatile changes may not begin. -/
theorem State.Tidy.nvRow (h : s.Tidy) {id : Nat} {op : Op} {inp : Bytes} {run : State → Job → State}
    (hr : ∀ j, (run s j).Tidy) : Tidies (.next (s.nvOp id op inp run)) := (h.nvOp id op inp hr).next

/-- A row whose list has none of the three components. -/
theorem State.Tidy.keptRow (h : s.Tidy) {i : Instr}
    (hi : (touches i).all (fun f => f != .fuses && f != .keys && f != .store) = true) : Tidies (exec i s) := by
  have hn (f : Field) (hf : (f != .fuses && f != .keys && f != .store) = false) : f ∉ touches i := fun hm => by
    have e := List.all_eq_true.1 hi f hm
    rw [hf] at e
    exact absurd e (by decide)
  obtain ⟨t, ht, hf⟩ := exec_keeps s i (hn .fuses rfl)
  obtain ⟨u, hu, hk⟩ := exec_keeps s i (hn .keys rfl)
  obtain ⟨v, hv, hs⟩ := exec_keeps s i (hn .store rfl)
  obtain rfl := Host.Outcome.next.inj (ht.symm.trans hu)
  obtain rfl := Host.Outcome.next.inj (ht.symm.trans hv)
  exact ⟨t, ht, h.keep ⟨hf, hk, hs⟩⟩

/-! #### Jobs -/

theorem execCtxCreate_tidies (h : s.Tidy) (id : Nat) : Tidies (execCtxCreate id s) := h.row fun j => by
  refine (h.fail _ _ _).ite ((h.endWith _ _ _ _).ite ?_)
  split
  · exact h.fail _ _ _
  · exact (h.refuse _ _).ite ((h.mapKeys (h.keys.setRec _ _)).done _ _ _ _)

theorem execOpstoreConfig_tidies (h : s.Tidy) (id : Nat) (inp : Bytes) :
    Tidies (execOpstoreConfig id inp s) := h.nvRow fun j => by
  refine (h.refuse _ _).ite ?_
  split
  · exact h.endWith _ _ _ _
  · refine State.Tidy.done ?_ _ _ _ _
    exact h.mapStore rfl

theorem execSlotGrant_tidies (h : s.Tidy) (id : Nat) : Tidies (execSlotGrant id s) := h.nvRow fun j => by
  refine (h.fail _ _ _).ite ?_
  split
  · exact h.endWith _ _ _ _
  · exact State.Tidy.done (h.mapStore (h.store.foldl _ fun _ ho => ho.setSlot _ _)) _ _ _ _

theorem execCacheLoad_tidies (h : s.Tidy) (id : Nat) (inp : Bytes) : Tidies (execCacheLoad id inp s) := h.row fun j => by
  dsimp only
  split
  · exact (h.write _ _ _).done _ _ _ _
  · exact State.Tidy.fail (h.mapStore (h.store.spoil _)) _ _ _

theorem execDxSlotWrite_tidies (h : s.Tidy) (id : Nat) (inp : Bytes) : Tidies (execDxSlotWrite id inp s) := h.row fun j => by
  dsimp only
  split
  · exact (h.write _ _ _).done _ _ _ _
  · exact State.Tidy.done (h.mapStore (h.store.write _ _ _)) _ _ _ _
  · exact h.fail _ _ _

theorem execFuseLock_tidies (h : s.Tidy) (id : Nat) (bad : Option Nat) : Tidies (execFuseLock id bad s) := h.nvRow fun j => by
  dsimp only
  split
  · exact h.fuseFail _ _ _
  · split
    · exact h.fuseFail _ _ _
    · split <;> rename_i e
      · exact (h.of_burnSeq e).fuseFail _ _ _
      · exact (h.of_burnSeq e).done _ _ _ _

theorem execFuseProgram_tidies (h : s.Tidy) (id : Nat) (inp : Bytes) (bad : Option Nat) :
    Tidies (execFuseProgram id inp bad s) := h.nvRow fun j => by
  refine (h.gated _ _ fun hs => hs.generateRoots _ _).ite (State.Tidy.ite (h.keep (by simp)) ?_)
  split
  · exact h.fuseFail _ _ _
  · split <;> rename_i e
    · exact (h.of_burnSeq e).fuseFail _ _ _
    · exact (h.of_burnSeq e).done _ _ _ _

theorem execRsaKeyLoad_tidies (h : s.Tidy) (id : Nat) (inp : Bytes) : Tidies (execRsaKeyLoad id inp s) := h.row fun j => by
  dsimp only
  split
  · exact h.fail _ _ _
  · exact h.gated _ _ fun hs => ((hs.write _ _ _).done _ _ _ _).ite (hs.fail _ _ _)

theorem execMlkemKeygen_tidies (h : s.Tidy) (id : Nat) : Tidies (execMlkemKeygen id s) := h.row fun _ =>
  h.gated _ _ fun hs => ((hs.draw.write _ _ _).done _ _ _ _).ite (hs.done _ _ _ _)

theorem execMceKeygen_tidies (h : s.Tidy) (id : Nat) : Tidies (execMceKeygen id s) := h.row fun _ =>
  h.gated _ _ fun {s _} hs => by
    have hd : s.draw.Tidy := hs.draw
    dsimp only
    split
    · exact hd.endWith _ _ _ _
    · exact (hd.ite (hd.write _ _ _)).done _ _ _ _

theorem execDxRun_tidies (h : s.Tidy) (id : Nat) : Tidies (execDxRun id s) := h.row fun j => by
  dsimp only
  split
  · exact h.finish _ _ _ _ _
  · refine h.gated _ _ fun {s j} hs => ?_
    have hd (c : Bool) : (if c then s.draw else s).Tidy := hs.draw.ite hs
    exact State.Tidy.ite ((State.Tidy.write (hd _) _ _ _).done _ _ _ _) ((State.Tidy.write (hd _) _ _ _).endWith _ _ _ _)
  · exact h.fail _ _ _

theorem execDebugCert_tidies (h : s.Tidy) (id : Nat) (inp : Bytes) : Tidies (execDebugCert id inp s) := h.nvRow fun _ => by
  have hn : (s.useNonce inp).Tidy := h.keep (by simp)
  split
  · exact hn.endWith _ _ _ _
  · exact (hn.acceptCert inp).finish _ _ _ _ _

theorem execContextImageLoad_tidies (h : s.Tidy) (id : Nat) (inp : Bytes) : Tidies (execContextImageLoad id inp s) :=
  h.nvRow fun j => (h.fail _ _ _).ite ((h.fail _ _ _).ite ((h.fail _ _ _).ite ((h.endWith _ _ _ _).ite ((h.refuse _ _).ite
    (h.gated _ _ fun hs => by
      extract_lets iv n ct body k s1
      have h1 : s1.Tidy := hs.installImage _ _
      exact (((h1.keep (by simp)).ite h1).done _ _ _ _).ite (hs.fail _ _ _))))))

theorem execMigrateImport_tidies (h : s.Tidy) (id : Nat) (inp : Bytes) : Tidies (execMigrateImport id inp s) :=
  h.nvRow fun _ => (h.fail _ _ _).ite ((h.fail _ _ _).ite (h.gated _ _ fun hs => by
    dsimp only
    split
    · exact hs.placeImport _ _ _
    · exact hs.fail _ _ _))

theorem execMigrateExport_tidies (h : s.Tidy) (id : Nat) (inp : Bytes) : Tidies (execMigrateExport id inp s) :=
  h.nvRow fun _ => h.ite ((h.fail _ _ _).ite ((h.finish _ _ _ _ _).ite ((h.fail _ _ _).ite ((h.fail _ _ _).ite
    (h.gated _ _ fun hs => hs.migrate _ _)))))

theorem execSweep_tidies (h : s.Tidy) (id : Nat) : Tidies (execSweep id s) := h.nvRow fun _ =>
  (h.foldl _ fun i hs => hs.freeCtx i).done _ _ _ _

theorem execSessionOpenProof_tidies (h : s.Tidy) (id : Nat) (inp : Bytes) : Tidies (execSessionOpenProof id inp s) :=
  h.row fun j => h.ite ((h.prove j.fn (j.entry.p 1 1) inp).finish _ _ _ _ _)

theorem execUpdateBegin_tidies (h : s.Tidy) (id : Nat) (inp : Bytes) : Tidies (execUpdateBegin id inp s) := h.row fun j => by
  refine ((h.finish _ _ _ _ _).ite (h.refuse _ _)).ite ?_
  split
  · exact h.draw.finish _ _ _ _ _
  · extract_lets s1
    have h1 : s1.Tidy := ⟨h.fuses, h.keys, h.store⟩
    exact h1.beginUpdate _ _

theorem execQueueDestroy_tidies (h : s.Tidy) (id : Nat) : Tidies (execQueueDestroy id s) := h.row fun j => by
  refine (h.finish _ _ _ _ _).ite ?_
  extract_lets s1
  have h1 : s1.Tidy := h.keep (by simp +zetaDelta)
  exact (h1.orderStop _ _).ite h1

theorem execAbort_tidies (h : s.Tidy) (id : Nat) : Tidies (execAbort id s) := h.row fun j => by
  have ha (q : QRef) (i : BitVec 16) (n : Nat) : (s.awaitTarget j q i n).Tidy := h.keep (by simp)
  refine (h.done _ _ _ _).ite (State.Tidy.ite (h.keep (by simp)) ?_)
  split
  · exact (ha _ _ _).ite ((ha _ _ _).orderStop _ _)
  · exact h.done _ _ _ _

theorem execOwnerTransfer_tidies (h : s.Tidy) (id : Nat) (bad : Option Nat) : Tidies (execOwnerTransfer id s bad) :=
  h.nvRow fun j => h.tripProgram j _ bad fun hs => by
    have h1 := hs.redecode.spoilKeyStores false
    exact h1.keep (by simp)

theorem execSpoilNow_tidies (h : s.Tidy) (id : Nat) : Tidies (execSpoilNow id s) := h.row fun j => by
  extract_lets s1 s2 s3 s4
  have h1 : s1.Tidy := h.stopNow _ _
  have h2 : s2.Tidy := (h1.spoilKeyStores false).keep (by simp +zetaDelta)
  have h3 : s3.Tidy := h2.dropUpdate.ite h2
  have h4 : s4.Tidy := h3.keep (by simp +zetaDelta)
  exact (h4.orderDisable.ite h4).done _ _ _ _

theorem execLcTransition_tidies (h : s.Tidy) (id : Nat) (inp : Bytes) (bad : Option Nat) :
    Tidies (execLcTransition id inp s bad) := h.nvRow fun j => by
  have hn : (s.useNonce inp).Tidy := h.keep (by simp)
  refine State.Tidy.ite ?_ (h.transition _ _ _)
  split
  · exact hn.endWith _ _ _ _
  · exact hn.transition _ _ _

theorem execCounterReestablish_tidies (h : s.Tidy) (id : Nat) (inp : Bytes) : Tidies (execCounterReestablish id inp s) :=
  h.nvRow fun j => by
    extract_lets keys e fresh s1
    have h1 : s1.Tidy := h.keep (by simp +zetaDelta)
    have h2 := ((h1.done j 0 [] j.scCycles).completeNow j.id).restartKeeper
    exact (h.fail _ _ _).ite ((h.fail _ _ _).ite (h2.keep (by simp)))

/-! #### Buses and links -/

theorem execMgAuthProof_tidies (h : s.Tidy) (ch : Channel) (m : Nat) (proof : Bytes) :
    Tidies (execMgAuthProof ch m proof s) := by
  have hp := h.prove 255 m proof
  unfold execMgAuthProof
  extract_lets answer
  refine (h.ite (State.Tidy.ite (h.keep (by simp +zetaDelta)) ?_)).next
  have h1 : (if (s.prove 255 m proof).1 = st.ok ∨ (s.prove 255 m proof).1 = st.notAuthorised
      ∨ (s.prove 255 m proof).1 = st.stateRefused then (s.prove 255 m proof).2.2
    else (s.prove 255 m proof).2.2.setAlert 3).Tidy := hp.ite (hp.keep (by simp))
  exact h1.keep (by simp +zetaDelta)

theorem execCancelUpdate_tidies (h : s.Tidy) (ch : Channel) : Tidies (execCancelUpdate ch s) := by
  have h1 := h.dropUpdate
  refine (h.pldm ch _ ?_).next
  exact (h1.keep (by simp)).ite (h.pldmCancel _ _)

theorem execUpdateComponent_tidies (h : s.Tidy) (ch : Channel) (b : Bytes) : Tidies (execUpdateComponent ch b s) := by
  refine (h.pldm ch _ ?_).next
  refine State.Tidy.ite (h.keep (by simp)) (State.Tidy.ite (h.keep (by simp)) ?_)
  split
  · exact h.keep (by simp)
  · exact State.Tidy.ite (h.keep (by simp)) (h.beginUpdate _ _)

theorem execBusMasterDisable_tidies (h : s.Tidy) (fn : Nat) : Tidies (execBusMasterDisable fn s) := by
  have h1 : (s.mapFn fn fun f => { f with bme := false }).Tidy := ⟨h.fuses, h.keys, h.store⟩
  exact (h.ite (h1.orderStop _ _)).next

theorem execBusMasterEnable_tidies (h : s.Tidy) (fn : Nat) : Tidies (execBusMasterEnable fn s) := by
  have h1 : (s.mapFn fn fun f => { f with bme := true }).Tidy := ⟨h.fuses, h.keys, h.store⟩
  exact (h.ite ((h1.writeHeld fn).ite h1)).next

theorem execD0Return_tidies (h : s.Tidy) (fn : Nat) : Tidies (execD0Return fn s) := by
  have h1 : (s.mapFn fn fun f => { f with d3hot := false }).resumePaused.Tidy := ⟨h.fuses, h.keys, h.store⟩
  exact (h.ite ((h1.writeHeld fn).ite h1)).next

theorem execMgControlRequest_tidies (h : s.Tidy) (ch : Channel) (e inp : Bytes) : Tidies (execMgControlRequest ch e inp s) := by
  refine (h.ite (State.Tidy.ite (h.keep (by simp)) ?_)).next
  split
  · exact h.malformed _ _ _
  · exact h.keep (by simp)

theorem execDmaCompletion_tidies (h : s.Tidy) (tgt : DmaTarget) (err : Option DmaErr) (addr : BitVec 64) :
    Tidies (execDmaCompletion tgt err addr s) := by
  refine State.Tidy.next ?_
  split
  · exact h
  · next e =>
    have he (fn : Nat) : (s.dmaError fn e addr).Tidy := h.dmaError fn e addr
    dsimp only
    split
    · exact (h.ringError _ _ _).ite h
    · split
      · next j _ =>
        have hj := he j.fn
        exact h.ite (hj.keep (by simp))
      · exact h
    · split
      · next j _ =>
        have hj := he j.fn
        exact h.ite (hj.keep (by simp))
      · exact h
    · split
      · next j _ =>
        have hj := he j.fn
        exact h.ite (hj.keep (by simp))
      · exact h
    · next r =>
      have hr := he r.fn
      exact (hr.keep (by simp)).ite h

theorem execIndexBlockRead_tidies (h : s.Tidy) (q : QRef) (tail : BitVec 32) (z : Bool) (err : Option DmaErr) :
    Tidies (execIndexBlockRead q tail z err s) := by
  unfold execIndexBlockRead
  extract_lets x s1
  have h1 : s1.Tidy := h.keep (by simp +zetaDelta)
  refine (h.ite ?_).next
  split
  · exact h1.ringError _ _ _
  · exact (h1.malformed _ _ _).ite (h1.keep (by simp))

theorem execSqFetch_tidies (h : s.Tidy) (q : QRef) (l : List Bytes) (err : Option DmaErr) : Tidies (execSqFetch q l err s) := by
  unfold execSqFetch
  extract_lets x s1
  have hr : (s.readIn q.fn [(x.headAddr, 64 * s.fetchLen x)]).Tidy := h.keep (by simp)
  have h1 : s1.Tidy := hr.takeRun _ _
  refine (h.ite ?_).next
  split
  · exact hr.ringError _ _ _
  · exact h.ite (h1.ite (h1.keep (by simp)))

theorem execPerstAssert_tidies (h : s.Tidy) : Tidies (execPerstAssert s) :=
  (h.ite (State.Tidy.ite (h.keep (by simp)) (h.perstLocked.ite h.perstWarm))).next

theorem execFlr_tidies (h : s.Tidy) (fn : Nat) : Tidies (execFlr fn s) := (h.ite (h.flrPf.ite (h.flrOne fn))).next

theorem execRegisterWrite_tidies (h : s.Tidy) (fn off size : Nat) (a : BarAccess) :
    Tidies (execRegisterWrite fn off size a s) := by
  refine (h.ite (h.onBar fn ?_)).next
  cases a with
  | write v => exact h.barWriteOp _ _ _ _
  | read => exact h.keep (by simp)

/-! #### Events -/

theorem execVinRestored_tidies (h : s.Tidy) (mv : Nat) (straps : Straps) (chk : KeeperCheck) :
    Tidies (execVinRestored mv straps chk s) := by
  unfold execVinRestored
  extract_lets s1 s2 s3
  have h1 : s1.Tidy := h.keep (by simp +zetaDelta)
  have h2 : s2.Tidy := (h1.keep (by simp)).ite h1
  have h3 : s3.Tidy := (h2.keep (by simp)).ite h2
  have h4 : s3.holdLatched.Tidy := h3.keep (by simp)
  exact tidies_ite h.next h4.noteIsland.next

theorem execUndervoltage_tidies (h : s.Tidy) : Tidies (execUndervoltage s) := by
  have h1 := h.clearDie
  have h2 : s.clearDie.guardReset.resetFns.Tidy := h1.keep (by simp)
  have hc {u : State} (hu : u.Tidy) : (u.setCode 0x8009 0).Tidy := hu.keep (by simp)
  refine tidies_ite h.next ?_
  refine State.Tidy.next (State.Tidy.ite ?_ ?_)
  · exact hc ⟨h2.fuses, h2.keys, h2.store⟩
  · exact ⟨h2.fuses, h2.keys, h2.store⟩

/-- The journal's bit and start's stage leave the words. -/
theorem State.Tidy.rolling (h : s.Tidy) :
    (((s.mapFuses fun f => { f with busy := true }).mapBoot fun b => { b with stage := .rolling }).setCode 0x0005 1).Tidy :=
  ⟨⟨h.fuses.raw, h.fuses.shadow⟩, h.keys, h.store⟩

theorem execFusesSensed_tidies (h : s.Tidy) (m : List MarginRead) : Tidies (execFusesSensed m s) := by
  unfold execFusesSensed
  generalize List.range 8192 = words
  extract_lets s1 s2
  have h0 := h.senseAll m
  have h1 : s1.Tidy := h0.keep (by simp +zetaDelta)
  have h2 : s2.Tidy := h1.foldl _ fun _ hs => hs.keep (by simp)
  refine tidies_ite h.next (State.Tidy.next ?_)
  split
  · exact h2.rolling
  · exact State.Tidy.finishSense (h2.keep (by simp))
  · exact h2.finishSense

theorem execLcRollForward_tidies (h : s.Tidy) : Tidies (execLcRollForward s) := by
  refine (h.ite ?_).next
  split
  · next jn _ =>
    extract_lets s1
    have h1 := h.burnAll jn.targets
    have h2 : s1.Tidy := ⟨⟨h1.fuses.raw, h1.fuses.shadow⟩, h1.keys, h1.store⟩
    exact (h2.logEvent _ _).finishSense
  · exact h

theorem execRootDisableAtStart_tidies (h : s.Tidy) : Tidies (execRootDisableAtStart s) := by
  refine State.Tidy.next ?_
  split
  · next e _ =>
    have h1 := h.disableRoot e
    exact (h1.keep (by simp)).ite h
  · exact h

theorem execRootDisablePending_tidies (h : s.Tidy) : Tidies (execRootDisablePending s) := by
  refine State.Tidy.next ?_
  split
  · exact (h.disableRoot _).ite h
  · exact h

theorem execBundleVerify_tidies (h : s.Tidy) (low ok : Bool) : Tidies (execBundleVerify low s ok) := by
  unfold execBundleVerify
  extract_lets s1 m runs s2
  have h1 : s1.Tidy := State.Tidy.applyPatches (h.foldl _ fun _ hs => hs.keep (by simp))
  have h2 : s2.Tidy := h1.ite (h1.keep (by simp))
  exact tidies_ite h.next (tidies_ite (State.Tidy.next (h.keep (by simp))) (State.Tidy.next (h2.keep (by simp))))

theorem execActivationRollForward_tidies (h : s.Tidy) : Tidies (execActivationRollForward s) := by
  have h0 : (s.setCode 0x0005 2).Tidy := h.keep (by simp)
  refine State.Tidy.next ?_
  split
  · exact h
  · exact h.ite (((h0.keep (by simp)).ite (h0.restoreUpdate _ _)).ite (State.Tidy.ite (h0.keep (by simp))
      (((h0.finishConfirm _ _ _).logEvent _ _).ite (h0.restoreUpdate _ _))))

theorem execFwStart_tidies (h : s.Tidy) (kat : Bool) (v : Nat) : Tidies (execFwStart kat v s) := by
  unfold execFwStart
  extract_lets s1 s2 s3 s4 s5 s6
  have h1 : s1.Tidy := h.keep (by simp +zetaDelta)
  have h2 : s2.Tidy := h1.holdCert.keep (by simp +zetaDelta)
  have h6 : s6.Tidy := h2.keep (by simp +zetaDelta)
  exact tidies_ite h.next (State.Tidy.next (State.Tidy.ite (h6.keep (by simp)) (State.Tidy.guardly (h6.keep (by simp)))))

theorem execJobComplete_tidies (h : s.Tidy) (id : Nat) (fault : UnitFault) (ecc : Option SramWord) :
    Tidies (execJobComplete id fault ecc s) := by
  refine State.Tidy.next ?_
  split
  · exact h
  · refine h.ite ?_
    extract_lets j1 engine res s1 s2 s3
    have h1 : s1.Tidy := h.keep (by simp +zetaDelta)
    have h2 : s2.Tidy := (h1.unitFaultEvent _ _).draw.ite h1
    have h3 : s3.Tidy := by
      dsimp only [s3]
      split
      · next w =>
        have hw : ((s2.setFnDma j1.fn 5 (s2.writeAddr j1 (j1.eccBytes (Config.freeNat s2.freeCtr)))).sramUe w).Tidy :=
          State.Tidy.sramUe (h2.keep (by simp)) w
        exact hw.keep (by simp)
      · exact h2
    split
    · exact h3
    · extract_lets j4 s4
      have h4 : s4.Tidy := h3.keep (by simp +zetaDelta)
      split
      · exact h3
      · exact (h4.keep (by simp)).ite (h4.complete _ _)

theorem execHopperDispatch_tidies (h : s.Tidy) (cls : UnitClass) (a b : List FragEntry) (e : DmaErr) :
    Tidies (execHopperDispatch cls a b s e) := by
  refine (h.ite ?_).next
  have hc : ((s.noteChoice cls).choose cls).2.Tidy := h.keep (by simp)
  dsimp only
  split
  · next e => rw [e] at hc; exact hc
  · next r s3 e =>
    rw [e] at hc
    split
    · exact hc.keep (by simp)
    · exact hc
    · next i _ _ =>
      have h4 : ((s3.leaveIntake r i).noteAccept r i.entry i.aborted).Tidy := hc.keep (by simp)
      split
      · exact h4.runIntake _ _ _ _ _
      · exact h4

theorem execYieldPoint_tidies (h : s.Tidy) (id : Nat) : Tidies (execYieldPoint id s) := by
  refine State.Tidy.next ?_
  split
  · exact h
  · refine h.ite ?_
    split
    · exact h.stopJob _ _
    · exact State.Tidy.ite (h.keep (by simp)) (State.Tidy.ite (h.keep (by simp))
        (h.ite (State.Tidy.ite (State.Tidy.ite (h.keep (by simp)) (h.keep (by simp))) h)))

theorem execHighHalfWaitTimeout_tidies (h : s.Tidy) (id : Nat) : Tidies (execHighHalfWaitTimeout id s) := by
  refine (State.Tidy.ite ?_ h).next
  split
  · exact h.dropUpdate.endWith _ _ _ _
  · exact h

theorem execConfirmationRun_tidies (h : s.Tidy) : Tidies (execConfirmationRun s) := by
  refine State.Tidy.next ?_
  split
  · next jn _ =>
    have h1 := h.finishConfirm jn.component jn.svn false
    exact (h1.keep (by simp)).ite h
  · exact h

theorem execUpdateLockExpired_tidies (h : s.Tidy) : Tidies (execUpdateLockExpired s) :=
  ((h.logEvent _ _).cancelUpdate.ite h).next

theorem execMicrocodeSwap_tidies (h : s.Tidy) : Tidies (execMicrocodeSwap s) := by
  have h0 : (s.mapUpd fun u => { u.install with timerFrom := s.now }).Tidy := ⟨h.fuses, h.keys, h.store⟩
  have h1 := h0.returnHigh
  refine (State.Tidy.ite ?_ h).next
  exact ⟨h1.fuses, h1.keys, h1.store⟩

theorem execPolicySwap_tidies (h : s.Tidy) : Tidies (execPolicySwap s) := by
  have h0 : ((s.guardly State.holdAll).mapUpd fun u => { u.install with timerFrom := s.now }).Tidy := h.keep (by simp)
  exact ((h0.returnHigh.keep (by simp)).ite h).next

theorem execActivationStart_tidies (h : s.Tidy) : Tidies (execActivationStart s) := by
  unfold execActivationStart
  extract_lets u s1
  have h1 : s1.Tidy := h.keep (by simp +zetaDelta)
  refine (h.ite (State.Tidy.ite ?_ (h.ite (h.keep (by simp))))).next
  split
  · exact h1.completeNow _
  · exact h1

theorem execActivationDrainExpired_tidies (h : s.Tidy) : Tidies (execActivationDrainExpired s) := by
  refine (State.Tidy.ite ?_ h).next
  extract_lets s1 s2 s3
  have h1 : s1.Tidy := h.stopNow _ _
  have h2 : s2.Tidy := h1.foldl _ fun _ hs => hs.completeNow _
  have h2' := h2.endJobs s2.jobs
  have h3 : s3.Tidy := h2'.keep (by simp +zetaDelta)
  have h4 := h3.spoilKeyStores true
  exact h4.keep (by simp)

theorem execActivationCopyDone_tidies (h : s.Tidy) : Tidies (execActivationCopyDone s) := by
  refine State.Tidy.next ?_
  split
  · next jn _ =>
    refine State.Tidy.ite ?_ h
    extract_lets img s1
    have h1 : s1.Tidy := h.keep (by simp +zetaDelta)
    have h2 := h1.restartUpdate jn.holdHost
    exact h2.keep (by simp)
  · exact h

theorem execRestore_tidies (h : s.Tidy) : Tidies (execRestore s) := by
  refine (h.ite ?_).next
  have ha : (s.guardly State.holdAll).Tidy := h.keep (by simp)
  have h2 := h.restoreUpdate .restoring 2
  have hc := ha.restoreUpdate .restoring s.upd.component
  extract_lets hold
  split
  · exact ((ha.ite h).restoreUpdate _ _).restartUpdate _
  · exact h2.keep (by simp +zetaDelta)
  · exact hc.keep (by simp)

theorem execSramCorrected_tidies (h : s.Tidy) (w : SramWord) : Tidies (execSramCorrected w s) := by
  refine (h.ite ?_).next
  extract_lets s1
  have h1 : s1.Tidy := h.keep (by simp +zetaDelta)
  split <;> rename_i e
  · exact h1.faultEvent e
  · exact (h1.faultEvent e).retire _ _

theorem execLockstep_tidies (h : s.Tidy) : Tidies (execLockstep s) := by
  have h1 : ((s.setFlt 4).faultEvent 3 0).1.Tidy := h.keep (by simp)
  exact ((h1.majorTamper _ _ _).ite (State.Tidy.ite (h.keep (by simp)) h)).next

end

/-! ### Every row -/

/-- The rows that may write a sparse store by their lemmas, the others because their list has none of the three components. -/
theorem exec_tidies {s : State} (h : s.Tidy) (i : Instr) : Tidies (exec i s) := by
  cases i
  case ctxCreate => exact execCtxCreate_tidies h _
  case scopeSet => exact h.row fun _ => State.Tidy.done (h.mapKeys ⟨h.keys.ctx, h.keys.imported⟩) _ _ _ _
  case opstoreConfig => exact execOpstoreConfig_tidies h _ _
  case slotGrant => exact execSlotGrant_tidies h _
  case cacheLoad => exact execCacheLoad_tidies h _ _
  case mcePkLoad => exact h.row fun _ => (h.write _ _ _).done _ _ _ _
  case dxSlotWrite => exact execDxSlotWrite_tidies h _ _
  case fuseLock => exact execFuseLock_tidies h _ _
  case fuseProgram => exact execFuseProgram_tidies h _ _ _
  case rootImport => exact h.row fun _ => h.gated _ _ fun hs => hs.placeRoot _ _
  case rootGenerate => exact h.row fun _ => h.gated _ _ fun hs => State.Tidy.placeRoot (hs.keep (by simp)) _ _
  case rsaKeyLoad => exact execRsaKeyLoad_tidies h _ _
  case updateCancel => exact h.row fun _ => (h.cancelUpdate.done _ _ _ _).ite (h.refuse _ _)
  case rootSpoil => exact h.nvRow fun _ => h.invalidateRun _ _
  case invalidate => exact h.nvRow fun _ => h.invalidateRun _ _
  case sweep => exact execSweep_tidies h _
  case sessionOpenProof => exact execSessionOpenProof_tidies h _ _
  case mlkemKeygen => exact execMlkemKeygen_tidies h _
  case lmsKeygen => exact h.row fun _ => h.gated _ _ fun hs => hs.treeKeygen _ _
  case xmssKeygen => exact h.row fun _ => h.gated _ _ fun hs => hs.treeKeygen _ _
  case lmsSign => exact h.row fun _ => h.treeSign _ _ _ _
  case xmssSign => exact h.row fun _ => h.treeSign _ _ _ _
  case mceKeygen => exact execMceKeygen_tidies h _
  case dxRun => exact execDxRun_tidies h _
  case debugCert => exact execDebugCert_tidies h _ _
  case contextImageLoad => exact execContextImageLoad_tidies h _ _
  case migrateImport => exact execMigrateImport_tidies h _ _
  case migrateExport => exact execMigrateExport_tidies h _ _
  case updateBegin => exact execUpdateBegin_tidies h _ _
  case queueDestroy => exact execQueueDestroy_tidies h _
  case abort => exact execAbort_tidies h _
  case ownerTransfer => exact execOwnerTransfer_tidies h _ _
  case spoilNow => exact execSpoilNow_tidies h _
  case lcTransition => exact execLcTransition_tidies h _ _ _
  case counterReestablish => exact execCounterReestablish_tidies h _ _
  case mgAuthProof => exact execMgAuthProof_tidies h _ _ _
  case cancelUpdateComponent => exact (h.pldm _ _ (h.pldmCancel _ _)).next
  case cancelUpdate => exact execCancelUpdate_tidies h _
  case updateComponent => exact execUpdateComponent_tidies h _ _
  case busMasterDisable => exact execBusMasterDisable_tidies h _
  case busMasterEnable => exact execBusMasterEnable_tidies h _
  case d0Return => exact execD0Return_tidies h _
  case doorbellCqReport => exact (h.onQueue _ (h.reportCq _ _ _)).next
  case vfEnableClear => exact (h.ite h.clearVfs).next
  case mgControlRequest => exact execMgControlRequest_tidies h _ _ _
  case flr => exact execFlr_tidies h _
  case dmaCompletion => exact execDmaCompletion_tidies h _ _ _
  case indexBlockRead => exact execIndexBlockRead_tidies h _ _ _ _
  case sqFetch => exact execSqFetch_tidies h _ _ _
  case perstAssert => exact execPerstAssert_tidies h
  case registerWrite => exact execRegisterWrite_tidies h _ _ _ _
  case vinRestored => exact execVinRestored_tidies h _ _ _
  case undervoltage => exact execUndervoltage_tidies h
  case fusesSensed m => exact execFusesSensed_tidies h m
  case lcRollForward => exact execLcRollForward_tidies h
  case rootDisableAtStart => exact execRootDisableAtStart_tidies h
  case rootDisablePending => exact execRootDisablePending_tidies h
  case bundleVerify => exact execBundleVerify_tidies h _ _
  case activationRollForward => exact execActivationRollForward_tidies h
  case fwStart => exact execFwStart_tidies h _ _
  case jobComplete => exact execJobComplete_tidies h _ _ _
  case hopperDispatch => exact execHopperDispatch_tidies h _ _ _ _
  case yieldPoint => exact execYieldPoint_tidies h _
  case highHalfWaitTimeout => exact execHighHalfWaitTimeout_tidies h _
  case confirmationRun => exact execConfirmationRun_tidies h
  case updateLockExpired => exact execUpdateLockExpired_tidies h
  case microcodeSwap => exact execMicrocodeSwap_tidies h
  case policySwap => exact execPolicySwap_tidies h
  case activationStart => exact execActivationStart_tidies h
  case activationDrainExpired => exact execActivationDrainExpired_tidies h
  case activationCopyDone => exact execActivationCopyDone_tidies h
  case restore => exact execRestore_tidies h
  case sramCorrected => exact execSramCorrected_tidies h _
  case sramUncorrectable => exact ((h.sramUe _).ite h).next
  case lidMesh => exact ((h.begin _ fun hs => hs.majorTamper _ _ _).ite h).next
  case loopMismatch => exact ((h.begin _ fun hs => hs.majorTamper _ _ _).ite h).next
  case voltageMinor => exact (h.minorBegins _).next
  case clockMinor => exact (h.minorBegins _).next
  case tempMinor => exact ((h.minorBegins _).ite h).next
  case minorPersist => exact ((h.minor _).ite h).next
  case lockstep => exact execLockstep_tidies h
  all_goals exact h.keptRow rfl

end Sys2Proof.Machine
open Sys2Proof Sys2Proof.Machine

/-- Settles O58: an idle step leaves the stores, and every command's row keeps them canonical. -/
theorem storesStayCanonical : Obligations.StoresStayCanonical := by
  intro s t hs h
  rw [State.canonical_iff] at hs ⊢
  unfold step at h
  split at h
  · cases h
    exact hs.keep (by simp)
  · next i l _ =>
    have hp : ({ s with pending := l } : State).Tidy := ⟨hs.fuses, hs.keys, hs.store⟩
    obtain ⟨u, hu, ht⟩ := exec_tidies hp i
    cases hu.symm.trans h
    exact ht
end

section
/-!
What the rows of the key tree share: the rows that wait for the non-volatile stores, the state a row's body sees past the
entropy gate, the writes of a context record, revocation and its barrier (R270, R271).
-/
namespace Sys2Proof.Machine
open Sys2Proof

section
variable {s : State} {id : Nat} {j : Job}

/-- A row that waits while non-volatile changes may not begin runs its body when they may. -/
theorem State.nvOp_of {op : Op} {inp : Bytes} (h : s.runsJob id j op inp) (hn : s.nvFree = true)
    (run : State → Job → State) : s.nvOp id op inp run = run s j :=
  (if_pos hn).trans (State.runOp_of h run)

/-- The state with other DRBGs and other jobs. -/
def State.reseed (s : State) (e : Entropy) (l : List Job) : State := { s with ent := e, jobs := l }

/-- Past the gate a row's body sees the state with other DRBGs and its job marked, and nothing else of it changed. -/
theorem State.gated_reseeds {op : Op} {inp : Bytes} (h : s.runsJob id j op inp) (hp : s.passes j op) :
    ∃ e l x, (s.reseed e l).job? id = some x
      ∧ ∀ pub body, s.gated j op pub body = body (s.reseed e l) { j with seeded := true } := by
  obtain ⟨x, hx, -⟩ := State.seeding_job? j op h.1
  have e : s.seeding j op = s.reseed _ _ := s.seeding_eq j op
  refine ⟨_, _, x, e ▸ hx, fun pub body => ?_⟩
  rw [State.gated_of hp, ← e]

/-! ### Records -/

/-- Records written one by one leave the imported keys. -/
theorem Keys.imported_setRecs (l : List (Nat × Ctx)) (k : Keys) :
    (l.foldl (fun k x => k.setRec x.1 x.2) k).imported = k.imported := by
  induction l generalizing k with
  | nil => rfl
  | cons x l ih => exact ih _

/-- Records written one by one leave a record at an index that none of them has. -/
theorem Keys.record_setRecs {l : List (Nat × Ctx)} {n : Nat} (h : ∀ x, x ∈ l → x.1 ≠ n) (k : Keys) :
    (l.foldl (fun k x => k.setRec x.1 x.2) k).record n = k.record n := by
  induction l generalizing k with
  | nil => rfl
  | cons x l ih =>
    rw [List.foldl_cons, ih fun y hy => h y (List.mem_cons_of_mem _ hy), Keys.record_setRec,
      if_neg (h x List.mem_cons_self)]

/-! ### Revocation (R270, R271) -/

/-- What a revocation makes of a record. -/
def Ctx.revoked (c : Ctx) : Ctx := { c with gen := c.gen + 1, state := if 4095 ≤ c.gen + 1 then .exhausted else .dead }

theorem Ctx.revoked_not_live (c : Ctx) : c.revoked.state ≠ .live := by
  unfold Ctx.revoked
  split <;> simp

theorem State.revoke_record (s : State) (i : Nat) : (s.revoke i).keys.record i = (s.keys.record i).revoked :=
  (Keys.record_setRec _ _ _ _).trans (if_pos rfl)

theorem State.revoke_revJournal (s : State) (i : Nat) :
    (s.revoke i).keeper.revJournal = s.keeper.revJournal ++ [(i, (s.keys.record i).gen + 1)] := rfl

theorem State.revoke_uncached (s : State) (i : Nat) : ∀ g, g ∈ (s.revoke i).keys.cache → g.1 ≠ i := fun _ hg => by
  simpa using (List.mem_filter.1 hg).2

@[simp] theorem State.awaitBarrier_keys (s : State) (j : Job) (e : Ending) : (s.awaitBarrier j e).keys = s.keys :=
  s.awaitBarrier_get j e (fld := .keys) (by simp)

@[simp] theorem State.awaitBarrier_keeper (s : State) (j : Job) (e : Ending) : (s.awaitBarrier j e).keeper = s.keeper :=
  s.awaitBarrier_get j e (fld := .keeper) (by simp)

/-- With no job in flight under the record the revoker ends at once. -/
theorem State.awaitBarrier_ends {x : Job} (h : s.job? id = some x) (hj : j.id = id)
    (hf : s.keys.flights (handleIndex j.entry.ctx) = 0) (e : Ending) :
    (s.awaitBarrier j e).endedWith id e.status e.result (if e.status = st.ok then e.out else []) := by
  rw [State.awaitBarrier, if_pos hf, hj]
  exact State.finish_ended h _ _ _ _

/-- Otherwise it waits at the barrier. -/
theorem State.awaitBarrier_waits {x : Job} (h : s.job? id = some x) (hj : j.id = id)
    (hf : s.keys.flights (handleIndex j.entry.ctx) ≠ 0) (e : Ending) :
    ((s.awaitBarrier j e).job? id).map Job.phase = some .barrier := by
  have hb := State.job?_map (i := id) (f := fun x => { x with phase := .barrier, unit := none, ending := some e }) h
    fun _ => rfl
  rw [if_pos (State.job?_id h)] at hb
  rw [State.awaitBarrier, if_neg hf, hj, hb]
  rfl

/-- A job that fails, found by its number. -/
theorem State.fail_ends {x : Job} (h : s.job? id = some x) (hj : j.id = id) (c : Status) (n : Nat) :
    (s.fail j c n).endedWith id c (j.plainResult c) [] := by
  subst hj
  exact State.fail_ended (by simp [h]) c n

/-- An ended job's phase. -/
theorem State.endedWith.phase {t : State} {c : Status} {r : BitVec 64} {b : Bytes} (h : t.endedWith id c r b) :
    (t.job? id).map Job.phase = some .ended := by
  obtain ⟨x, _, hx, hp, -⟩ := h
  rw [hx, Option.map_some, hp]

/-- The ending of a revoker: the record's new generation, whether it is spent, and the jobs in flight (R271). -/
def State.revokerEnding (s : State) (j : Job) : Ending :=
  let c := s.keys.record (handleIndex j.entry.ctx)
  { status := st.ok, out := [], cycles := j.scCycles,
    result := BitVec.ofNat 64 ((c.gen + 1) % 4096 + (if 4095 ≤ c.gen + 1 then 4096 else 0)
      + 2 ^ 32 * s.keys.flights (handleIndex j.entry.ctx)) }

theorem State.revokerEnding_result (hf : s.keys.flights (handleIndex j.entry.ctx) = 0) :
    (s.revokerEnding j).result = BitVec.ofNat 64 (((s.keys.record (handleIndex j.entry.ctx)).gen + 1) % 4096
      + if 4095 ≤ (s.keys.record (handleIndex j.entry.ctx)).gen + 1 then 4096 else 0) := by
  simp [State.revokerEnding, hf]

/-- A handle that resolves is revoked, a root's imported key with it, and the job goes to the barrier. -/
theorem State.invalidateRun_of (hc : (s.chainCheck j.entry.ctx j.fn).1 = st.ok) (hl : s.keeper.revJournal.length < 4096)
    (spoil : Bool) :
    s.invalidateRun j spoil =
      (if spoil then (s.revoke (handleIndex j.entry.ctx)).mapKeys fun k =>
          k.dropEntry (s.keys.record (handleIndex j.entry.ctx)).entry
        else s.revoke (handleIndex j.entry.ctx)).awaitBarrier j (s.revokerEnding j) := by
  unfold State.invalidateRun
  exact (if_neg (not_not_intro hc)).trans (if_neg (Nat.not_le.2 hl))

end

end Sys2Proof.Machine
end

section
/-! Stateful signing (R281, R282, R347). -/
namespace Sys2Proof.Machine
open Sys2Proof

/-- The opcode of a stateful signature, by its scheme. -/
def treeSignOp (xmss : Bool) : Op := if xmss then .xmssSign else .lmsSign

/-- The command that runs it. -/
def treeSignCmd (xmss : Bool) (id : Nat) (inp : Bytes) : Instr := if xmss then .xmssSign id inp else .lmsSign id inp

section
variable {s : State} {id : Nat} {j : Job} {inp : Bytes}

/-- LMS and XMSS sign by the one row. -/
theorem exec_treeSignCmd {xmss : Bool} (h : s.runsJob id j (treeSignOp xmss) inp) :
    exec (treeSignCmd xmss id inp) s = .next (s.treeSign j (j.tree xmss) (treeSignOp xmss) inp) := by
  cases xmss with
  | false => exact congrArg Host.Outcome.next (State.runOp_of h _)
  | true => exact congrArg Host.Outcome.next (State.runOp_of h _)

/-! ### The row of a signature -/

/-- Seeding gives no job an index. -/
theorem State.seeding_taken {x : Job} (h : s.job? id = some x) (j : Job) (op : Op) :
    ∃ y, (s.seeding j op).job? id = some y ∧ y.taken = x.taken := by
  unfold State.seeding
  split
  · have hr : (if j.cls = .sc ∨ j.op = 0x0B01 then s else s.request j.inst false).job? id = some x := by
      split
      · exact h
      · exact h
    refine ⟨_, State.job?_map hr fun _ => by rfl, ?_⟩
    split <;> rfl
  · exact ⟨x, h, rfl⟩

/-- The state in which a job waits for the index port. -/
def State.toPort (s : State) (j : Job) : State :=
  (s.mapJob j.id fun x => { x with phase := .waitIndex, waitFrom := s.now }).mapTables fun x =>
    { x with idxQueue := x.idxQueue ++ [j.id] }

/-- With a cache that is the key's, a job without an index goes to the index port (R281). -/
theorem State.treeSign_queues {k : TreeKind} {op : Op} {r : SlogRec} {c : TreeCache} (h : s.job? id = some j)
    (hr : s.jobRec j = some r) (hc : (s.store.slot j.entry.slotA.toNat).tag = .tree c) (ht : j.taken = none)
    (hm : k.matches c r = true) (hp : s.passes j op) :
    (s.treeSign j k op inp).tables.idxQueue = s.tables.idxQueue ++ [id]
    ∧ ∃ x, (s.treeSign j k op inp).job? id = some x ∧ x.phase = .waitIndex ∧ x.taken = none := by
  obtain rfl := State.job?_id h
  obtain ⟨y, hy, hyt⟩ := State.seeding_taken h j op
  have e : s.treeSign j k op inp = (s.seeding j op).toPort { j with seeded := true } := by
    rw [State.treeSign, hr, hc, ht]
    exact (if_pos hm).trans (State.gated_of hp _ _)
  rw [e]
  refine ⟨congrArg (fun t : Tables => t.idxQueue ++ [j.id]) (s.seeding_tables j op), _,
    State.job?_mapJob_same hy fun _ => by rfl, rfl, hyt.trans ht⟩

/-- Under the index it was given a job signs with the cache brought to that index's subtree, and the cache goes on (R347). -/
theorem State.treeSign_signs {k : TreeKind} {op : Op} {r : SlogRec} {c : TreeCache} {q : Nat} (h : s.job? id = some j)
    (hr : s.jobRec j = some r) (hc : (s.store.slot j.entry.slotA.toNat).tag = .tree c) (ht : j.taken = some q)
    (hw : k.mustWait c (s.otherIndices j) q = false) :
    let a := j.entry.slotA.toNat
    let seed := k.seed j.key
    let p := k.prepare seed c (s.store.slot a).content (q / 2 ^ k.b)
    let f := k.advance seed p.1 p.2.1 (s.otherIndices j) q
    (s.treeSign j k op inp).endedWith id st.ok (BitVec.ofNat 64 (q + 2 ^ 48 * (p.2.2 + f.2.2)))
        (k.sign seed p.1 p.2.1 q (s.freeNow k.n) inp)
    ∧ (s.treeSign j k op inp).store = s.store.write a (.tree f.1) f.2.1 ∧ (s.treeSign j k op inp).keeper = s.keeper := by
  intro a seed p f
  have e : s.treeSign j k op inp = s.treeFinish j k q c inp := by
    rw [State.treeSign, hr, hc, ht]
  have ef : s.treeFinish j k q c inp = ((if k.xmss then s else s.draw).mapStore fun o => o.write a (.tree f.1) f.2.1).done j
      (q + 2 ^ 48 * (p.2.2 + f.2.2)) (k.sign seed p.1 p.2.1 q (s.freeNow k.n) inp)
      (Config.cycles j.entry.opcode [k.type, k.ots, inp.length, p.2.2 + f.2.2]) := if_neg (by simp [hw])
  rw [e, ef, State.done_store, State.done_keeper, State.mapStore_store, State.mapStore_keeper]
  refine ⟨State.done_ended (x := j) ?_ (State.job?_id h) _ _ _, ?_, ?_⟩
  · rw [State.mapStore_job?]
    split <;> exact h
  · split <;> rfl
  · split <;> rfl

/-! ### The index port and the reservation (R281, R282) -/

/-- The state in which job `j` has the next index of record `r`. -/
def State.giveIndex (s : State) (j : Job) (r : SlogRec) : State :=
  ((s.leavePort j.id).mapKeeper fun k => k.mapRec r.num fun r => { r with next := r.next + 1 }).mapJob j.id fun x =>
    { x.wake with taken := some r.next }

/-- The port gives the job that has waited longest the key's next index, which then counts as used. -/
theorem execIndexPortServe_serves {r : SlogRec} (hq : s.tables.idxQueue.head? = some id) (h : s.job? id = some j)
    (hp : j.phase = .waitIndex) (hr : s.jobRec j = some r) (hs : r.status ≠ .retired) (he : r.exporting = false)
    (hl : r.next < r.indexLimit) (hv : r.next < r.reservedEnd) :
    ∃ t, exec .indexPortServe s = .next t
      ∧ t.keeper.slog = (s.keeper.slog.map fun x => if x.num = r.num then { x with next := x.next + 1 } else x)
      ∧ t.tables.idxQueue = (s.tables.idxQueue.filter fun i => i ≠ id)
      ∧ ∃ x, t.job? id = some x ∧ x.phase = j.awake ∧ x.taken = some r.next := by
  obtain rfl := State.job?_id h
  obtain ⟨l, hq⟩ := List.head?_eq_some_iff.1 hq
  have hc : ¬ (r.status = .retired ∨ r.exporting = true ∨ r.indexLimit ≤ r.next) := by
    simp [hs, he, hl]
  have e : exec .indexPortServe s = .next (s.takeIndex j) := by
    refine congrArg Host.Outcome.next ?_
    rw [hq]
    dsimp only
    rw [h]
    exact if_pos hp
  have et : s.takeIndex j = s.giveIndex j r := by
    rw [State.takeIndex, hr]
    exact (if_neg hc).trans (if_neg (Nat.not_le.2 hv))
  rw [e, et]
  refine ⟨_, rfl, rfl, rfl, _, State.job?_mapJob_same (s := (s.leavePort j.id).mapKeeper _) ?_ fun _ => by rfl, rfl, rfl⟩
  exact h

/-- The state in which record `r` has its next block reserved, and the jobs that waited for it are back at the port. -/
def State.reserved (s : State) (r : SlogRec) : State :=
  let p (j : Job) : Bool := j.phase = .waitReserve && ((s.jobRec j).map SlogRec.num) = some r.num
  ((s.mapKeeper fun k => k.mapRec r.num fun r => { r with reservedEnd := min (r.reservedEnd + 4096) r.indexLimit }).mapTables
    fun t => { t with idxQueue := t.idxQueue ++ (s.jobs.filter p).map Job.id }).mapJobs p
    fun j => { j with phase := .waitIndex }

/-- A reservation moves RESERVED_END on, never past INDEX_LIMIT. -/
theorem execReservationWrite_reserves {r : SlogRec} (h : s.keeper.slog.find? (fun x => x.num = r.num) = some r)
    (hn : s.nvFree = true) (hs : r.status = .active) (hv : r.reservedEnd < r.next + 4096) (hl : r.reservedEnd < r.indexLimit) :
    ∃ t, exec (.reservationWrite r.num) s = .next t
      ∧ t.keeper.slog = s.keeper.slog.map fun x => if x.num = r.num then
          { x with reservedEnd := min (x.reservedEnd + 4096) x.indexLimit } else x := by
  have hc : ¬ ((!s.nvFree) = true ∨ r.status ≠ .active ∨ r.next + 4096 ≤ r.reservedEnd ∨ r.indexLimit ≤ r.reservedEnd) := by
    simp [hn, hs, hv, hl]
  refine ⟨s.reserved r, congrArg Host.Outcome.next ?_, rfl⟩
  rw [h]
  exact if_neg hc

end

end Sys2Proof.Machine
open Sys2Proof Sys2Proof.Machine

/-- Settles O9: the two sides of a signing job by whether it has its index, then the port and the reservation. -/
theorem treeSignCompletes : Obligations.TreeSignCompletes := by
  intro s id j inp xmss r c
  refine ⟨fun h hr hc => ⟨fun ht hm hp => ?_, fun q ht hw => ?_⟩, fun hq h hp hr hs he hl hv =>
    execIndexPortServe_serves hq h hp hr hs he hl hv, execReservationWrite_reserves⟩
  · exact ⟨_, exec_treeSignCmd h, State.treeSign_queues h.1 hr hc ht hm hp⟩
  · exact ⟨_, exec_treeSignCmd h, State.treeSign_signs h.1 hr hc ht hw⟩
end

section
/-! Roots and the operand store (R255, R256, R270, R378 to R380). -/
namespace Sys2Proof.Machine
open Sys2Proof

section
variable {s : State} {id : Nat} {j : Job} {inp : Bytes}

/-! ### Roots -/

/-- The record of a new root whose key stands at entry `k`. -/
def Job.rootRecord (j : Job) (gen k : Nat) : Ctx :=
  { parent := 0, gen, pgen := 0, type := j.entry.p 6 1, policy := BitVec.ofNat 24 (j.entry.p 8 3),
    label := BitVec.ofNat 48 (j.entry.p 12 4 * 65536 + k), state := .live }

/-- A root at a FREE index with an entry for its key is placed. -/
theorem State.placeRoot_places {x : Job} (hx : s.job? id = some x) (hj : j.id = id) {k : Nat}
    (hf : (s.keys.record (j.entry.p 0 4)).state = .free) (he : s.entryFor (j.entry.p 4 2) = some k) (secret : Bytes) :
    (s.placeRoot j secret).endedWith id st.ok
        (BitVec.ofNat 64 ((mkHandle (j.entry.p 0 4) (s.keys.record (j.entry.p 0 4)).gen).toNat + 2 ^ 32 * k)) []
    ∧ (s.placeRoot j secret).keys.record (j.entry.p 0 4) = j.rootRecord (s.keys.record (j.entry.p 0 4)).gen k
    ∧ (s.placeRoot j secret).keys.imported.get [] k = secret := by
  unfold State.placeRoot
  dsimp only
  rw [if_neg (not_not_intro hf), he]
  exact ⟨State.done_ended (x := x) hx hj _ _ _, (Sparse.get_set _ _ _ _ _).trans (if_pos rfl),
    (Sparse.get_set _ _ _ _ _).trans (if_pos rfl)⟩

section
variable {k : Nat} (hf : (s.keys.record (j.entry.p 0 4)).state = .free) (he : s.entryFor (j.entry.p 4 2) = some k)
include hf he

theorem execRootImport_places (h : s.runsJob id j .rootImport inp) (hp : s.passes j .rootImport) :
    ∃ t, exec (.rootImport id inp) s = .next t
      ∧ t.endedWith id st.ok
          (BitVec.ofNat 64 ((mkHandle (j.entry.p 0 4) (s.keys.record (j.entry.p 0 4)).gen).toNat + 2 ^ 32 * k)) []
      ∧ t.keys.record (j.entry.p 0 4) = j.rootRecord (s.keys.record (j.entry.p 0 4)).gen k
      ∧ t.keys.imported.get [] k = inp := by
  obtain ⟨e, l, x, hx, hg⟩ := State.gated_reseeds h hp
  have hj : j.id = id := State.job?_id h.1
  exact ⟨_, congrArg Host.Outcome.next ((State.runOp_of h _).trans (hg _ _)),
    State.placeRoot_places (s := s.reseed e l) (j := { j with seeded := true }) hx hj hf he inp⟩

theorem execRootGenerate_places (h : s.runsJob id j .rootGenerate []) (hp : s.passes j .rootGenerate) :
    ∃ t, exec (.rootGenerate id) s = .next t
      ∧ t.endedWith id st.ok
          (BitVec.ofNat 64 ((mkHandle (j.entry.p 0 4) (s.keys.record (j.entry.p 0 4)).gen).toNat + 2 ^ 32 * k)) []
      ∧ t.keys.record (j.entry.p 0 4) = j.rootRecord (s.keys.record (j.entry.p 0 4)).gen k
      ∧ t.keys.imported.get [] k = s.freeNow 32 := by
  obtain ⟨e, l, x, hx, hg⟩ := State.gated_reseeds h hp
  have hj : j.id = id := State.job?_id h.1
  exact ⟨_, congrArg Host.Outcome.next ((State.runCmd_of h _).trans (hg _ _)),
    State.placeRoot_places (s := (s.reseed e l).scDraw) (j := { j with seeded := true }) hx hj hf he _⟩

end

/-- The spoil of a root revokes it and drops its key. -/
theorem execRootSpoil_spoils (h : s.runsJob id j .rootSpoil []) (hn : s.nvFree = true)
    (hc : (s.chainCheck j.entry.ctx j.fn).1 = st.ok) (hl : s.keeper.revJournal.length < 4096) :
    let x := handleIndex j.entry.ctx
    let c := s.keys.record x
    ∃ t, exec (.rootSpoil id) s = .next t ∧ t.keys.record x = c.revoked ∧ t.keys.imported.get [] c.entry = []
      ∧ t.keeper.revJournal = s.keeper.revJournal ++ [(x, c.gen + 1)]
      ∧ (s.keys.flights x = 0 → (t.job? id).map Job.phase = some .ended)
      ∧ (s.keys.flights x ≠ 0 → (t.job? id).map Job.phase = some .barrier) := by
  intro x c
  let u := (s.revoke x).mapKeys fun k => k.dropEntry c.entry
  refine ⟨u.awaitBarrier j (s.revokerEnding j), congrArg Host.Outcome.next ((State.nvOp_of h hn _).trans
    (State.invalidateRun_of hc hl true)), ?_⟩
  rw [State.awaitBarrier_keys, State.awaitBarrier_keeper]
  exact ⟨s.revoke_record x, (Sparse.get_erase _ _ _ _).trans (if_pos rfl), s.revoke_revJournal x,
    fun hf => (State.awaitBarrier_ends (s := u) h.1 (State.job?_id h.1) hf _).phase,
    fun hf => State.awaitBarrier_waits (s := u) h.1 (State.job?_id h.1) hf _⟩

/-! ### The operand store -/

theorem execOpstoreConfig_configures (h : s.runsJob id j .opstoreConfig inp) (hn : s.nvFree = true)
    (ha : s.anyHold = false) (hl : s.store.lent = false) (hv : s.power.nvOk = true) :
    let bands := (List.range (j.entry.p 0 1)).map (cfgBand inp)
    ∃ t, exec (.opstoreConfig id inp) s = .next t
      ∧ (geometryFault bands = none → t.endedWith id st.ok 0 [] ∧ t.store.slots = []
          ∧ t.store.bands = bands.map fun b => { count := b.1, sizeLog := b.2.1, high := decide (b.2.2 = 1) })
      ∧ (∀ n r, geometryFault bands = some (n, r) → t.store = s.store
          ∧ t.endedWith id st.paramRejected (BitVec.ofNat 64 (n + 256 * r)) []) := by
  intro bands
  have hc : ¬ (s.anyHold = true ∨ s.store.lent = true ∨ s.power.nvOk = false) := by simp [ha, hl, hv]
  refine ⟨_, congrArg Host.Outcome.next ((State.nvOp_of h hn _).trans (if_neg hc)), fun hg => ?_, fun n r hg => ?_⟩
  · rw [hg]
    exact ⟨State.done_ended (x := j) h.1 (State.job?_id h.1) 0 _ _, rfl, rfl⟩
  · rw [hg]
    exact ⟨rfl, State.endWith_ended (x := j) h.1 (State.job?_id h.1) (by decide) _ _⟩

theorem OpStore.slot_setSlot (o : OpStore) (i n : Nat) (v : Slot) :
    (o.setSlot i v).slot n = if i = n then v else o.slot n := Sparse.get_set _ _ _ _ _

/-- Slots written one by one with the same content. -/
theorem OpStore.slot_setSlots (l : List Nat) (o : OpStore) (n : Nat) (v : Slot) :
    (l.foldl (fun o i => o.setSlot i v) o).slot n = if n ∈ l then v else o.slot n := by
  induction l generalizing o with
  | nil => rfl
  | cons i l ih =>
    rw [List.foldl_cons, ih, OpStore.slot_setSlot]
    by_cases h : i = n
    · simp [h]
    · simp [h, Ne.symm h]

theorem mem_range_add {a n i : Nat} : i ∈ (List.range n).map (a + ·) ↔ a ≤ i ∧ i < a + n := by
  simp only [List.mem_map, List.mem_range]
  exact ⟨fun ⟨k, hk, e⟩ => by omega, fun h => ⟨i - a, by omega, by omega⟩⟩

theorem execSlotGrant_grants (h : s.runsJob id j .slotGrant []) (hn : s.nvFree = true)
    (hc : j.entry.p 0 2 + j.entry.p 2 2 ≤ s.store.count)
    (hb : ∀ n, j.entry.p 0 2 ≤ n → n < j.entry.p 0 2 + j.entry.p 2 2 → s.slotHolds n = []) :
    ∃ t, exec (.slotGrant id) s = .next t ∧ t.endedWith id st.ok 0 []
      ∧ ∀ n, t.store.slot n = if j.entry.p 0 2 ≤ n ∧ n < j.entry.p 0 2 + j.entry.p 2 2
          then { Slot.blank with owner := j.entry.p 4 1 } else s.store.slot n := by
  have hfind : ((List.range (j.entry.p 2 2)).map (j.entry.p 0 2 + ·)).find? (fun i => !(s.slotHolds i).isEmpty) = none := by
    rw [List.find?_eq_none]
    intro n hm
    obtain ⟨ha, hlt⟩ := mem_range_add.1 hm
    simp [hb n ha hlt]
  refine ⟨_, congrArg Host.Outcome.next ((State.nvOp_of h hn _).trans (if_neg (Nat.not_lt.2 hc))), ?_⟩
  rw [hfind]
  refine ⟨State.done_ended (x := j) h.1 (State.job?_id h.1) 0 _ _, fun n => ?_⟩
  refine (OpStore.slot_setSlots _ s.store n _).trans ?_
  simp only [mem_range_add]

end

end Sys2Proof.Machine
open Sys2Proof Sys2Proof.Machine

/-- Settles O36: each command by its own row. -/
theorem rootsAndStoreComplete : Obligations.RootsAndStoreComplete := by
  intro s id j inp
  exact ⟨fun k hf he => ⟨execRootImport_places hf he, execRootGenerate_places hf he⟩, execRootSpoil_spoils,
    execOpstoreConfig_configures, execSlotGrant_grants⟩
end

section
/-! Control commands and the TAP (R286, R475, R477, R481, R498, R499, R514). -/
namespace Sys2Proof.Machine
open Sys2Proof

/-! ### Counters (R286) -/

/-- The counters that COUNTER_REESTABLISH sets up. -/
structure Keeper.Image (k : Keeper) (counter sepoch : Nat) : Prop where
  ctr : k.imageCtr = counter
  sepoch : k.sepoch = sepoch
  pending : k.imgPending = none
  badLogRecs : k.badLogRecs = []

section
variable {k : Keeper} {c e : Nat} (h : k.Image c e)
include h

/-- A counter that is set to zero is none of them. -/
theorem Keeper.Image.zeroCounter (n : Nat) : (k.zeroCounter n).Image c e := by
  obtain ⟨hc, he, hp, hb⟩ := h
  unfold Keeper.zeroCounter
  split
  · exact ⟨hc, he, hp, hb⟩
  · split
    · exact ⟨hc, he, hp, hb⟩
    · split <;> exact ⟨hc, he, hp, hb⟩

/-- Nor does a key that is listed again change them. -/
theorem Keeper.Image.relistKey (m : LostKey) (n : Nat) : (k.relistKey m n).Image c e := by
  obtain ⟨hc, he, hp, hb⟩ := h
  unfold Keeper.relistKey
  split
  · exact ⟨hc, he, hp, hb⟩
  · split <;> exact ⟨hc, he, hp, hb⟩

end

theorem Keeper.reestablish_image (k : Keeper) (counter sepoch : Nat) (keys : List LostKey) (limit : Nat → Nat) :
    (k.reestablish counter sepoch keys limit).Image counter sepoch := by
  unfold Keeper.reestablish
  extract_lets k1 k2 k3
  have h2 : k2.Image counter sepoch :=
    List.foldlRecOn (motive := (Keeper.Image · counter sepoch)) _ _ ⟨rfl, rfl, rfl, rfl⟩ fun _ hk p _ => hk.relistKey p.1 _
  have h3 : k3.Image counter sepoch := ⟨h2.ctr, h2.sepoch, h2.pending, h2.badLogRecs⟩
  have h4 : (k.badCounters.foldl Keeper.zeroCounter k3).Image counter sepoch :=
    List.foldlRecOn (motive := (Keeper.Image · counter sepoch)) _ _ h3 fun _ hk n _ => hk.zeroCounter n
  exact ⟨h4.ctr, h4.sepoch, h4.pending, h4.badLogRecs⟩

section
variable {s : State} {id : Nat} {j : Job} {inp : Bytes}

theorem execCounterReestablish_restarts (h : s.runsJob id j .counterReestablish inp) (hn : s.nvFree = true)
    (he : ∀ r, r ∈ s.keeper.slog → r.sepoch < j.entry.p 8 2) (hl : s.keeper.slog.length + j.entry.p 10 2 ≤ 8192) :
    ∃ t, exec (.counterReestablish id inp) s = .next t ∧ t.keeper.imageCtr = j.entry.p 0 8 ∧ t.keeper.sepoch = j.entry.p 8 2
      ∧ t.keeper.badCounters = [] ∧ t.keeper.badLogRecs = [] ∧ t.keeper.imgPending = none
      ∧ t.boot.stage = .keeper ∧ t.boot.code = 0x0001 ∧ t.boot.countersLost = false ∧ t.power.tierFloor = 0 := by
  let keys := (List.range (j.entry.p 10 2)).map (lostKey inp)
  let fresh := keys.filter fun m => (s.keeper.sameKey m.keyId).isNone
  have hs : ¬ (s.keeper.slog.any fun r => decide (j.entry.p 8 2 ≤ r.sepoch)) = true := by
    simp only [List.any_eq_true, decide_eq_true_eq, not_exists, not_and, Nat.not_le]
    exact he
  have hf : ¬ 8192 < s.keeper.slog.length + fresh.length := by
    have h1 : fresh.length ≤ keys.length := List.length_filter_le _ _
    have h2 : keys.length = j.entry.p 10 2 := by simp [keys]
    omega
  let k := s.keeper.reestablish (j.entry.p 0 8) (j.entry.p 8 2) keys fun i => Config.freeNat (s.freeCtr + i)
  let u := ((((s.mapKeeper fun _ => k).draw).done j 0 [] j.scCycles).completeNow j.id).restartKeeper
  refine ⟨u.setCode 0x0001 0, congrArg Host.Outcome.next ((State.nvOp_of h hn _).trans ((if_neg hs).trans (if_neg hf))), ?_⟩
  have hk : u.keeper = k := (State.restartKeeper_get _ (fld := .keeper) (by simp)).trans
    (State.completeNow_get _ _ (fld := .keeper) (by simp))
  have hi : k.Image (j.entry.p 0 8) (j.entry.p 8 2) := s.keeper.reestablish_image _ _ _ _
  rw [State.setCode_keeper, State.setCode_boot, State.setCode_power, hk]
  exact ⟨hi.ctr, hi.sepoch, rfl, hi.badLogRecs, hi.pending, rfl, rfl, rfl, rfl⟩

/-! ### Platform time (R475, R477) -/

/-- The platform's time is the time it is set to. -/
theorem State.setTime_platformTime (s : State) (n : Nat) : (s.setTime n).platformTime = n := by
  change (Int.ofNat s.now + (Int.ofNat n - Int.ofNat s.now)).toNat = n
  simp only [Int.ofNat_eq_natCast]
  omega

theorem execTimeSet_sets (h : s.runsJob id j .timeSet []) :
    ∃ t, exec (.timeSet id) s = .next t
      ∧ (j.entry.flag 2 = false → t.endedWith id st.ok 0 [] ∧ t.boot.timeValid = true
          ∧ t.platformTime = secs (j.entry.p 0 8))
      ∧ (j.entry.flag 2 = true → (t.job? id).map Job.phase = some .barrier ∧ t.platformTime = s.platformTime) := by
  obtain rfl := State.job?_id h.1
  refine ⟨_, congrArg Host.Outcome.next (State.runCmd_of h _), fun hf => ?_, fun hf => ?_⟩
  · rw [if_neg (by simp [hf])]
    exact ⟨State.done_ended (s := s.setTime _) (x := j) h.1 rfl 0 _ _, rfl, s.setTime_platformTime _⟩
  · rw [if_pos hf]
    refine ⟨?_, rfl⟩
    rw [State.job?_mapJob_same h.1 fun _ => by rfl]
    rfl

theorem execTimeSetTimeout_ends (h : s.job? id = some j) (hp : j.awaitsPps = true) :
    ∃ t, exec (.timeSetTimeout id) s = .next t ∧ t.endedWith id st.timeout (j.plainResult st.timeout) []
      ∧ t.platformTime = s.platformTime := by
  refine ⟨s.fail j st.timeout j.scCycles, congrArg Host.Outcome.next ?_, State.fail_ends h (State.job?_id h) _ _, rfl⟩
  simp only [h, hp, if_true]

/-- What an edge of PPS_IN makes of the time and of the jobs that wait for it. -/
def State.ppsTime (s : State) : State :=
  if s.jobs.filter Job.awaitsPps = [] then s.roundTime
  else (s.jobs.filter Job.awaitsPps).foldl (fun s j => (s.setTime (secs (j.entry.p 0 8))).done j 0 [] j.scCycles) s

/-- A scheduled activation that falls due leaves the time and the jobs. -/
theorem State.markDue_choice (s : State) (c : Prop) {_ : Decidable c} :
    (if c then s.markDue else s).jobs = s.jobs ∧ (if c then s.markDue else s).boot = s.boot
    ∧ (if c then s.markDue else s).platformTime = s.platformTime := by
  split <;> exact ⟨rfl, rfl, rfl⟩

theorem execPpsEdge_of (hv : s.power.vinValid = true) :
    ∃ t, exec .ppsEdge s = .next t ∧ t.jobs = s.ppsTime.jobs ∧ t.boot = s.ppsTime.boot
      ∧ t.platformTime = s.ppsTime.platformTime :=
  ⟨_, if_neg (by simp [hv]), s.ppsTime.markDue_choice _⟩

theorem execPpsEdge_times (hv : s.power.vinValid = true) :
    ∃ t, exec .ppsEdge s = .next t
      ∧ (s.jobs.filter Job.awaitsPps = [j] →
          t.endedWith j.id st.ok 0 [] ∧ t.boot.timeValid = true ∧ t.platformTime = secs (j.entry.p 0 8))
      ∧ (s.jobs.filter Job.awaitsPps = [] → s.boot.timeValid = true → t.platformTime = roundSecond s.platformTime) := by
  obtain ⟨t, ht, hj, hb, hp⟩ := execPpsEdge_of hv
  refine ⟨t, ht, fun hl => ?_, fun hl hb => ?_⟩
  · have e : s.ppsTime = (s.setTime (secs (j.entry.p 0 8))).done j 0 [] j.scCycles := by
      rw [State.ppsTime, hl]
      exact if_neg (List.cons_ne_nil _ _)
    have hm : j ∈ s.jobs := List.mem_of_mem_filter (hl ▸ List.mem_singleton_self j)
    obtain ⟨x, hx⟩ : ∃ x, s.job? j.id = some x :=
      Option.isSome_iff_exists.1 (List.find?_isSome.2 ⟨j, hm, by simp⟩)
    rw [State.endedWith_congr hj, hb, hp, e]
    exact ⟨State.done_ended (s := s.setTime _) (x := x) hx rfl 0 _ _, rfl, s.setTime_platformTime _⟩
  · rw [hp, State.ppsTime, if_pos hl, State.roundTime, if_pos hb]
    exact s.setTime_platformTime _

/-! ### The log (R481) -/

theorem execEventLogRead_reads (h : s.runsJob id j .eventLogRead []) :
    let log := if j.entry.p 6 1 = 1 then s.logs.tamper else s.logs.event
    let l := (log.reverse.filter fun r => decide (j.entry.p 0 4 ≤ r.seq)).take (j.entry.p 4 2)
    ∃ t, exec (.eventLogRead id) s = .next t
      ∧ t.endedWith id st.ok (BitVec.ofNat 64 (l.length + 2 ^ 32 * s.logs.nextSeq)) (l.flatMap LogRec.bytes)
      ∧ t.logs = s.logs :=
  ⟨_, congrArg Host.Outcome.next (State.runCmd_of h _), State.done_ended (x := j) h.1 (State.job?_id h.1) _ _ _, rfl⟩

/-! ### The spoil (R490, R514) -/

/-- Stopping others leaves a running job. -/
theorem State.stopNow_job?_running (h : s.job? id = some j) (hr : j.phase = .running) {p : Job → Bool}
    (hp : ∀ x, p x = true → x.id ≠ id) (status : Status) : (s.stopNow p status).job? id = some j := by
  refine List.foldlRecOn (motive := fun u : State => u.job? id = some j) _ _ h fun u hu k hk => ?_
  obtain ⟨-, hc⟩ := List.mem_filter.1 hk
  exact State.stopJob_job?_ne hu (by simp [hr]) (hp k (Bool.and_eq_true_iff.1 hc).1).symm status

/-- The state in which SPOIL_NOW has stopped the other jobs and spoiled the key stores, the DRBGs and the DRU. -/
def State.spoilStores (s : State) (j : Job) : State :=
  (((s.stopNow (fun x => x.id ≠ j.id) st.abortedTamper).spoilKeyStores false).respoilDrbg).clearDru .none

/-- The state that SPOIL_NOW leaves before the root's disable and its own end. -/
def State.spoiled (s : State) (j : Job) : State :=
  (if (s.spoilStores j).updateOpen || (s.spoilStores j).store.taking ≠ .nobody then (s.spoilStores j).dropUpdate
    else s.spoilStores j).logEvent 0x0640 (if j.entry.flag 2 then 1 else 0)

/-- The update that is dropped and the record leave the jobs, the key stores and the DRU. -/
theorem State.spoiled_get (s : State) (j : Job) {fld : Field}
    (hm : fld ∉ ([.logs, .fns, .mgmt, .flt, .out, .store, .upd] : List Field)) :
    (s.spoiled j).get fld = (s.spoilStores j).get fld := by
  simp only [List.mem_cons, List.not_mem_nil, or_false, not_or] at hm
  simp [State.spoiled, hm]

/-- No spoil touches the supply or the fuses. -/
theorem State.spoiled_power (s : State) (j : Job) : (s.spoiled j).power = s.power := by
  refine (s.spoiled_get j (fld := .power) (by simp)).trans ?_
  change (s.spoilStores j).get .power = s.get .power
  simp [State.spoilStores]

theorem State.spoiled_fuses (s : State) (j : Job) : (s.spoiled j).fuses = s.fuses := by
  refine (s.spoiled_get j (fld := .fuses) (by simp)).trans ?_
  change (s.spoilStores j).get .fuses = s.get .fuses
  simp [State.spoilStores]

theorem State.spoiled_keys (s : State) (j : Job) :
    ∃ m, (s.spoiled j).keys = { Keys.empty with inflight := m } :=
  ⟨_, (s.spoiled_get j (fld := .keys) (by simp)).trans (State.clearDru_get _ _ (fld := .keys) (by simp))⟩

theorem State.spoiled_owner (s : State) (j : Job) : (s.spoiled j).dru.owner = .none :=
  (congrArg Dru.owner (s.spoiled_get j (fld := .dru) (by simp))).trans (State.clearDru_owner _ _)

theorem State.spoiled_job? (h : s.job? id = some j) (hr : j.phase = .running) : (s.spoiled j).job? id = some j := by
  have hj : (s.spoiled j).jobs = (s.stopNow (fun x => x.id ≠ j.id) st.abortedTamper).jobs :=
    (s.spoiled_get j (fld := .jobs) (by simp)).trans (State.clearDru_get _ _ (fld := .jobs) (by simp))
  rw [State.job?_congr hj]
  exact State.stopNow_job?_running h hr (fun x hx => by simpa [State.job?_id h] using hx) _

theorem execSpoilNow_spoils (h : s.runsJob id j .spoilNow []) :
    ∃ t, exec (.spoilNow id) s = .next t ∧ t.endedWith id st.ok 0 [] ∧ t.keys.ctx = [] ∧ t.keys.imported = []
      ∧ t.keys.cache = [] ∧ t.keys.scopes = [] ∧ t.dru.owner = .none
      ∧ (j.entry.flag 2 = true → s.power.nvOk = true → s.nvFree = true →
          ∀ w, w ∈ copies (338 + s.fuses.epoch) → (t.fuses.shadowOf w).data = rootDisableData)
      ∧ (j.entry.flag 2 = true → ¬ (s.power.nvOk = true ∧ s.nvFree = true) → t.flt.rootPending = some s.fuses.epoch
          ∧ t.fuses.raw = s.fuses.raw) := by
  have ⟨_, _, hr, _⟩ := h
  let u := s.spoiled j
  let v := if j.entry.flag 2 then u.orderDisable else u
  have hv {fld : Field} (hm : fld ∉ ([.logs, .fuses, .fns, .mgmt, .flt, .out] : List Field)) : v.get fld = u.get fld := by
    dsimp only [v]
    split
    · exact u.orderDisable_get hm
    · rfl
  have hk : v.keys = u.keys := hv (fld := .keys) (by simp)
  have hd : v.dru = u.dru := hv (fld := .dru) (by simp)
  have hj : v.jobs = u.jobs := hv (fld := .jobs) (by simp)
  obtain ⟨m, hm⟩ := s.spoiled_keys j
  have ho := s.spoiled_owner j
  have hn : u.nvFree = s.nvFree := congrArg (fun p : Power => !p.pfHold) (s.spoiled_power j)
  have hp : u.power.nvOk = s.power.nvOk := congrArg Power.nvOk (s.spoiled_power j)
  have hx : v.job? id = some j := (State.job?_congr hj id).trans (State.spoiled_job? h.1 hr)
  refine ⟨v.done j 0 [] j.scCycles, congrArg Host.Outcome.next (State.runCmd_of h _),
    State.done_ended hx (State.job?_id h.1) 0 _ _, ?_⟩
  rw [State.done_keys, State.done_dru, State.done_fuses, State.done_flt, hk, hd, hm, ← s.spoiled_fuses j]
  refine ⟨rfl, rfl, rfl, rfl, ho, fun hf hok hfree w hw => ?_, fun hf hno => ?_⟩
  · have e : v = u.disableRoot u.fuses.epoch := (if_pos hf).trans (if_pos ⟨hp.trans hok, hn.trans hfree⟩)
    rw [e]
    exact u.disableRoot_data _ hw
  · have e : v = u.mapFlt fun f => { f with rootPending := some u.fuses.epoch } :=
      (if_pos hf).trans (if_neg (by rwa [hp, hn]))
    rw [e]
    exact ⟨rfl, rfl⟩

/-! ### The TAP (R498, R499) -/

/-- An instruction whose right is open is taken and runs. -/
theorem State.tapWith_of {right : Nat} (h : s.rights.getLsbD right = true) (t : TapSel) (run : State → State) :
    s.tapWith right t run = run (s.tapTo t) := if_pos h

theorem execMfgCmd_takes (entry input : Bytes) (hs : s.mfgServes = true) (hb : s.mfgBusy = false) (he : entry.length = 64)
    (hi : input.length ≤ 256) :
    let n := Entry.ofBytes entry
    ∃ t, exec (.mfgCmd entry input) s = .next t ∧ t.flt.tapSelect = .mfgCmd ∧ t.flt.mfgReply = []
      ∧ (t.queue .tap).intake = (s.queue .tap).intake ++ [{
          entry := n, index := 0, aborted := false, stamp := s.sched.arrivals, input := input.take n.inLen.toNat,
          viaVdm := false }] := by
  have hc : ¬ (s.mfgBusy = true ∨ entry.length ≠ 64 ∨ 256 < input.length) := by simp [hb, he, hi]
  let u := (s.tapTo .mfgCmd).mapFlt fun f => { f with mfgReply := [] }
  have hf : (u.linkEntry .tap (Entry.ofBytes entry) (input.take (Entry.ofBytes entry).inLen.toNat) false).flt = u.flt :=
    u.linkEntry_get _ _ _ _ (fld := .flt) (by simp)
  refine ⟨_, congrArg Host.Outcome.next ((if_neg (by simp [hs])).trans (if_neg hc)), ?_⟩
  exact ⟨congrArg Faults.tapSelect hf, congrArg Faults.mfgReply hf, u.linkEntry_intake .tap _ _ _⟩

theorem execMfgRsp_answers (h : s.mfgServes = true ∨ s.fuses.lc = .testUnlocked ∨ s.flt.mfgReply ≠ []) :
    exec .mfgRsp s
      = .next ((s.tapTo .mfgRsp).emit (.tdo (if s.flt.mfgReply = [] then zeros 32 else s.flt.mfgReply))) := by
  refine congrArg Host.Outcome.next (if_neg ?_)
  rintro ⟨hs, hl, hr⟩
  obtain h | h | h := h
  · simp [hs] at h
  · exact hl h
  · exact h hr

end

end Sys2Proof.Machine
open Sys2Proof Sys2Proof.Machine

/-- Settles O37: each command and each TAP instruction by its own row. -/
theorem controlAndTapComplete : Obligations.ControlAndTapComplete := by
  intro s id j inp
  refine ⟨execCounterReestablish_restarts, execTimeSet_sets, execTimeSetTimeout_ends, execPpsEdge_times,
    execEventLogRead_reads, execSpoilNow_spoils, ⟨_, rfl, rfl⟩, ⟨_, rfl, rfl⟩, fun hr => ⟨?_, ?_⟩, fun f hr => ?_,
    execMfgCmd_takes, fun h => ⟨_, execMfgRsp_answers h, rfl⟩⟩
  · exact ⟨_, congrArg Host.Outcome.next (State.tapWith_of hr _ _), rfl⟩
  · exact ⟨_, congrArg Host.Outcome.next (State.tapWith_of hr _ _), rfl⟩
  · exact ⟨_, congrArg Host.Outcome.next (State.tapWith_of hr _ _), rfl⟩
end

section
/-! Contexts (R263, R268 to R273, R279, R284). -/
namespace Sys2Proof.Machine
open Sys2Proof

/-! ### Scopes and swept records -/

theorem Sparse.lookup_erase {α : Type} (m : Sparse α) (i : Nat) : List.lookup i (m.erase i) = none := by
  simp only [Sparse.erase, List.lookup_eq_none_iff, List.mem_filter, decide_eq_true_eq, bne_iff_ne]
  exact fun _ h => h.2.symm

theorem Sparse.lookup_insert {α : Type} (m : Sparse α) (i : Nat) (v : α) : List.lookup i (m.insert i v) = some v := by
  induction m with
  | nil => simp [Sparse.insert]
  | cons p m ih =>
    unfold Sparse.insert
    split
    · simp
    · split
      · simp
      · next h => rw [List.lookup_cons, beq_false_of_ne h, ih]

/-- A swept record: its index is FREE again and keeps its generation (R273). -/
def Ctx.freed (c : Ctx) : Ctx := { c with state := .free, type := 0 }

theorem State.freeCtx_record (s : State) (i n : Nat) :
    (s.freeCtx i).keys.record n = if i = n then (s.keys.record i).freed else s.keys.record n := by
  have hk : (s.freeCtx i).keys.record n = (s.keys.setRec i (s.keys.record i).freed).record n := by
    unfold State.freeCtx
    dsimp only
    split <;> (dsimp only [State.mapKeys, State.mapKeeper]; split <;> rfl)
  rw [hk, Keys.record_setRec]

theorem State.freeCtx_fold_record (l : List Nat) (s : State) (n : Nat) :
    (l.foldl State.freeCtx s).keys.record n = if n ∈ l then (s.keys.record n).freed else s.keys.record n := by
  induction l generalizing s with
  | nil => rfl
  | cons i l ih =>
    rw [List.foldl_cons, ih, State.freeCtx_record]
    by_cases h : i = n
    · subst h
      simp [Ctx.freed]
    · simp [h, Ne.symm h]

/-- What is not FREE stands in the store. -/
theorem Keys.mem_ctx_of_not_free {k : Keys} {i : Nat} (h : (k.record i).state ≠ .free) : i ∈ k.ctx.map Prod.fst := by
  unfold Keys.record at h
  generalize k.ctx = m at h
  induction m with
  | nil => exact absurd rfl h
  | cons p m ih =>
    rw [Sparse.get] at h
    split at h
    · next e => simp [e]
    · simp [ih h]

/-- A sweep leaves the jobs. -/
theorem State.freeCtx_fold_jobs (l : List Nat) (s : State) : (l.foldl State.freeCtx s).jobs = s.jobs := by
  induction l generalizing s with
  | nil => rfl
  | cons i l ih => exact (ih _).trans (s.freeCtx_get i (fld := .jobs) (by simp))

section
variable {s : State} {id : Nat} {j : Job}

theorem execCtxCreate_creates {i : Nat} (h : s.runsJob id j .ctxCreate []) (hr : j.childRefused = false)
    (hs : j.childStray = false) (hi : (if j.entry.p 0 4 = 0 then s.lowestFree else some (j.entry.p 0 4)) = some i)
    (hf : (s.keys.record i).state = .free) :
    ∃ t, exec (.ctxCreate id) s = .next t ∧ t.keys.record i = s.newRecord j i
      ∧ t.endedWith id st.ok (BitVec.ofNat 64 (mkHandle i (s.keys.record i).gen).toNat) []
      ∧ ∀ k, k ≠ i → t.keys.record k = s.keys.record k := by
  refine ⟨_, congrArg Host.Outcome.next ((State.runCmd_of h _).trans ((if_neg (by simp [hr])).trans
    (if_neg (by simp [hs])))), ?_⟩
  rw [hi]
  dsimp only
  rw [if_neg (not_not_intro hf)]
  exact ⟨(Keys.record_setRec _ _ _ _).trans (if_pos rfl), State.done_ended (x := j) h.1 (State.job?_id h.1) _ _ _,
    fun k hk => (Keys.record_setRec _ _ _ _).trans (if_neg hk.symm)⟩

theorem execCtxQuery_answers (h : s.runsJob id j .ctxQuery []) :
    ∃ t, exec (.ctxQuery id) s = .next t ∧ t.keys = s.keys ∧ t.endedWith id st.ok 0 (s.queryOut j) :=
  ⟨_, congrArg Host.Outcome.next (State.runCmd_of h _), rfl, State.done_ended (x := j) h.1 (State.job?_id h.1) 0 _ _⟩

theorem execInvalidate_revokes (h : s.runsJob id j .invalidate []) (hn : s.nvFree = true)
    (hc : (s.chainCheck j.entry.ctx j.fn).1 = st.ok) (hl : s.keeper.revJournal.length < 4096) :
    let x := handleIndex j.entry.ctx
    let c := s.keys.record x
    ∃ t, exec (.invalidate id) s = .next t ∧ t.keys.record x = c.revoked
      ∧ t.keeper.revJournal = s.keeper.revJournal ++ [(x, c.gen + 1)] ∧ (∀ g, g ∈ t.keys.cache → g.1 ≠ x)
      ∧ (s.keys.flights x = 0 → t.endedWith id st.ok
          (BitVec.ofNat 64 ((c.gen + 1) % 4096 + if 4095 ≤ c.gen + 1 then 4096 else 0)) [])
      ∧ (s.keys.flights x ≠ 0 → (t.job? id).map Job.phase = some .barrier) := by
  intro x c
  refine ⟨_, congrArg Host.Outcome.next ((State.nvOp_of h hn _).trans (State.invalidateRun_of hc hl false)), ?_⟩
  rw [State.awaitBarrier_keys, State.awaitBarrier_keeper]
  refine ⟨s.revoke_record x, s.revoke_revJournal x, s.revoke_uncached x, fun hf => ?_, fun hf => ?_⟩
  · have e := State.awaitBarrier_ends (s := s.revoke x) h.1 (State.job?_id h.1) hf (s.revokerEnding j)
    rwa [State.revokerEnding_result hf] at e
  · exact State.awaitBarrier_waits (s := s.revoke x) h.1 (State.job?_id h.1) hf _

/-- The barrier opens once no job is in flight under the record. -/
theorem execInvalidateBarrier_ends {n : Ending} (h : s.job? id = some j) (hp : j.phase = .barrier) (he : j.ending = some n)
    (hf : s.keys.flights (handleIndex j.entry.ctx) = 0) :
    ∃ t, exec (.invalidateBarrier id) s = .next t
      ∧ t.endedWith id n.status n.result (if n.status = st.ok then n.out else []) := by
  refine ⟨s.finish id n.status n.result n.out n.cycles, congrArg Host.Outcome.next ?_, State.finish_ended h _ _ _ _⟩
  simp only [h, hp, he, hf, if_true]

theorem execSweep_frees (h : s.runsJob id j .sweep []) (hn : s.nvFree = true) :
    let named := (s.keys.ctx.map Prod.fst).filter fun i => decide (j.entry.p 0 4 ≤ i ∧ i < j.entry.p 0 4 + j.entry.p 4 4)
    ∃ t, exec (.sweep id) s = .next t
      ∧ t.endedWith id st.ok
          (BitVec.ofNat 64 ((named.filter s.sweepable).length + 2 ^ 32 * (named.filter s.resolves).length)) []
      ∧ ∀ i, if j.entry.p 0 4 ≤ i ∧ i < j.entry.p 0 4 + j.entry.p 4 4 ∧ s.sweepable i = true
          then (t.keys.record i).state = .free ∧ (t.keys.record i).gen = (s.keys.record i).gen
          else t.keys.record i = s.keys.record i := by
  intro named
  refine ⟨_, congrArg Host.Outcome.next (State.nvOp_of h hn _), ?_, fun i => ?_⟩
  · refine State.done_ended (x := j) ?_ (State.job?_id h.1) _ _ _
    exact (State.job?_congr (State.freeCtx_fold_jobs _ s) id).trans h.1
  · have hr := State.freeCtx_fold_record (named.filter s.sweepable) s i
    split
    · next hi =>
      have hm : i ∈ named.filter s.sweepable := by
        obtain ⟨ha, hb, hs⟩ := hi
        have hx : (s.keys.record i).state ≠ .free := by
          intro e
          simp [State.sweepable, e] at hs
        simp only [named, List.mem_filter, decide_eq_true_eq]
        exact ⟨⟨Keys.mem_ctx_of_not_free hx, ha, hb⟩, hs⟩
      have he := hr.trans (if_pos hm)
      exact ⟨congrArg Ctx.state he, (congrArg Ctx.gen he :)⟩
    · next hi =>
      have hm : i ∉ named.filter s.sweepable := by
        simp only [named, List.mem_filter, decide_eq_true_eq]
        exact fun ⟨⟨_, ha, hb⟩, hs⟩ => hi ⟨ha, hb, hs⟩
      exact hr.trans (if_neg hm)

theorem execScopeSet_sets (h : s.runsJob id j .scopeSet []) :
    let x := handleIndex j.entry.ctx
    ∃ t, exec (.scopeSet id) s = .next t ∧ t.endedWith id st.ok 0 []
      ∧ (j.entry.ctx ≠ 0 → t.keys.scopes.lookup (j.entry.p 0 1) = some (x, if x ≤ 4 then s.aliasGen x else j.crec.gen))
      ∧ (j.entry.ctx = 0 → t.keys.scopes.lookup (j.entry.p 0 1) = none) := by
  intro x
  refine ⟨_, congrArg Host.Outcome.next (State.runCmd_of h _), State.done_ended (x := j) h.1 (State.job?_id h.1) 0 _ _,
    fun h0 => ?_, fun h0 => ?_⟩
  · refine (congrArg (List.lookup (j.entry.p 0 1)) (if_neg h0)).trans ?_
    exact Sparse.lookup_insert _ _ _
  · refine (congrArg (List.lookup (j.entry.p 0 1)) (if_pos h0)).trans ?_
    exact Sparse.lookup_erase _ _

theorem execStatefulQuery_answers (h : s.runsJob id j .statefulQuery []) :
    ∃ t, exec (.statefulQuery id) s = .next t ∧ t.keeper = s.keeper ∧ t.endedWith id st.ok 0 (s.statefulOut j) :=
  ⟨_, congrArg Host.Outcome.next (State.runCmd_of h _), rfl, State.done_ended (x := j) h.1 (State.job?_id h.1) 0 _ _⟩

end

end Sys2Proof.Machine
open Sys2Proof Sys2Proof.Machine

/-- Settles O42: each command by its own row; what STATEFUL_QUERY outputs is split on whether the key has a record. -/
theorem contextsComplete : Obligations.ContextsComplete := by
  intro s id j
  refine ⟨fun i => execCtxCreate_creates, execCtxQuery_answers, execInvalidate_revokes, fun n => execInvalidateBarrier_ends,
    execSweep_frees, execScopeSet_sets, fun h => ?_⟩
  obtain ⟨t, ht, hk, he⟩ := execStatefulQuery_answers h
  refine ⟨t, ht, hk, fun r hr => ?_, fun hr => ?_⟩
  · rwa [State.statefulOut, hr] at he
  · rwa [State.statefulOut, hr] at he
end

section
/-! The context image and key blobs (R274 to R278). -/
namespace Sys2Proof.Machine
open Sys2Proof

/-! ### The commit (R275) -/

/-- A commit of the pending image drops the revocations it holds and keeps every record that is not to be released; all that
are to be released go, unless SEPOCH is spent. -/
theorem Keeper.commitImage_of {k : Keeper} {c n : Nat} (h : k.imgPending = some (c, n)) :
    k.commitImage.imageCtr = c ∧ k.commitImage.imgPending = none ∧ k.commitImage.revJournal = k.revJournal.drop n
    ∧ (∀ r, r ∈ k.slog → r.status ≠ .releasePending → r ∈ k.commitImage.slog)
    ∧ (k.sepoch ≠ 65535 → ∀ r, r ∈ k.commitImage.slog → r.status ≠ .releasePending) := by
  unfold Keeper.commitImage
  rw [h]
  refine ⟨rfl, rfl, rfl, fun r hr hs => ?_, fun he r hr => ?_⟩
  · dsimp only
    split
    · exact List.mem_filter.2 ⟨hr, by simpa using hs⟩
    · exact hr
  · dsimp only at hr
    split at hr
    · simpa using (List.mem_filter.1 hr).2
    · next hf =>
      intro hs
      exact hf (Bool.and_eq_true_iff.2 ⟨by simpa using he, List.any_eq_true.2 ⟨r, hr, by simpa using hs⟩⟩)

section
variable {s : State} {id : Nat} {j : Job} {inp : Bytes}

/-- An image is saved under the next counter, pending until its commit. -/
theorem execContextImageSave_saves (h : s.runsJob id j .imageSave []) (hn : s.nvFree = true) (hp : s.passes j .imageSave)
    (h0 : j.entry.p 0 1 = 0) (hr : s.imageRootOk = true) :
    let c := s.keeper.imageCtr + 1
    let iv := s.freeNow 12
    let hd := s.imageHeader c iv
    let body := s.imageBody
    ∃ t, exec (.contextImageSave id) s = .next t
      ∧ t.endedWith id st.ok (BitVec.ofNat 64 c)
          (hd ++ gcmCrypt s.imgKey iv body ++ gcmTag s.imgKey iv hd (gcmCrypt s.imgKey iv body))
      ∧ t.keeper = { s.keeper with imgPending := some (c, s.keeper.revJournal.length) } ∧ t.keys = s.keys := by
  intro c iv hd body
  obtain ⟨e, l, x, hx, hg⟩ := State.gated_reseeds h hp
  refine ⟨_, congrArg Host.Outcome.next ((State.nvOp_of h hn _).trans ((if_neg (not_not_intro h0)).trans
    ((if_neg (by simp [hr])).trans (hg _ _)))), ?_, rfl, rfl⟩
  exact State.done_ended (x := x) hx (State.job?_id h.1) c _ _

theorem execContextImageCommit_commits (h : s.runsJob id j .imageSave []) (hn : s.nvFree = true) (h1 : j.entry.p 0 1 = 1)
    {c n : Nat} (hi : s.keeper.imgPending = some (c, n)) :
    ∃ t, exec (.contextImageCommit id) s = .next t ∧ t.endedWith id st.ok 0 [] ∧ t.keeper = s.keeper.commitImage :=
  ⟨_, congrArg Host.Outcome.next ((State.nvOp_of h hn _).trans ((if_neg (not_not_intro h1)).trans
    (if_neg (by simp [hi])))), State.done_ended (x := j) h.1 (State.job?_id h.1) 0 _ _, rfl⟩

/-! ### The load (R276) -/

/-- The image that carries counter `c` is the pending one. -/
def Keeper.pends (k : Keeper) (c : Nat) : Bool := k.imgPending.any fun p => p.1 = c

/-- The revocations that the image with counter `c` already holds. -/
def Keeper.imageHolds (k : Keeper) (c : Nat) : Nat :=
  match k.imgPending with
  | some p => if k.pends c then p.2 else 0
  | none => 0

theorem Keeper.pends_of {k : Keeper} {c n : Nat} (h : k.imgPending = some (c, n)) : k.pends c = true := by
  simp [Keeper.pends, h]

theorem Keeper.imageHolds_of {k : Keeper} {c n : Nat} (h : k.imgPending = some (c, n)) : k.imageHolds c = n := by
  rw [Keeper.imageHolds, h]
  exact if_pos (Keeper.pends_of h)

theorem Keeper.not_pends {k : Keeper} {c : Nat} (h : ∀ p, k.imgPending = some p → p.1 ≠ c) : k.pends c = false := by
  unfold Keeper.pends
  cases hp : k.imgPending with
  | none => rfl
  | some p => simpa using h p hp

theorem Keeper.imageHolds_of_not {k : Keeper} {c : Nat} (h : k.pends c = false) : k.imageHolds c = 0 := by
  unfold Keeper.imageHolds
  split
  · exact if_neg (by simp [h])
  · rfl

/-- A load of the committed or the pending image: with a good tag it takes the image's place, and commits the pending one;
with a bad tag it fails and the stores stay. -/
theorem execContextImageLoad_loads (h : s.runsJob id j .imageLoad inp) (hn : s.nvFree = true) (hp : s.passes j .imageLoad)
    (hr : s.imageRootOk = true) (hv : s.keys.vacant = true) :
    let hd := inp.take 64
    fieldAt hd 0 4 = 0x58544350 → fieldAt hd 4 2 = 1 → zeroAt hd 44 20 = true →
    fieldAt hd 8 8 = s.deviceId → fieldAt hd 6 1 = s.fuses.lc.num → fieldAt hd 7 1 = s.fuses.epoch →
    fieldAt hd 24 4 = s.ctxCount →
    let c := fieldAt hd 16 8
    let n := inp.length - 80
    let ct := slice inp 64 n
    let iv := slice hd 32 12
    let good := gcmOk s.imgKey iv hd ct (inp.drop (64 + n))
    c = s.keeper.imageCtr ∨ s.keeper.pends c = true →
    ∃ t, exec (.contextImageLoad id inp) s = .next t
      ∧ (good = true → t.endedWith id st.ok 0 []
          ∧ t.keeper = (if s.keeper.pends c then s.keeper.commitImage else s.keeper)
          ∧ t.keys = (s.installImage (gcmCrypt s.imgKey iv ct) (s.keeper.revJournal.drop (s.keeper.imageHolds c))).keys)
      ∧ (good = false → t.endedWith id st.tagFail (j.plainResult st.tagFail) [] ∧ t.keys = s.keys ∧ t.keeper = s.keeper) := by
  intro hd h0 h4 h44 h8 h6 h7 h24 c n ct iv good hc
  obtain ⟨e, l, x, hx, hg⟩ := State.gated_reseeds h hp
  have hform : ¬ (fieldAt hd 0 4 ≠ 0x58544350 ∨ fieldAt hd 4 2 ≠ 1 ∨ zeroAt hd 44 20 = false) :=
    not_or.2 ⟨not_not_intro h0, not_or.2 ⟨not_not_intro h4, by simp [h44]⟩⟩
  have hhere : ¬ (fieldAt hd 8 8 ≠ s.deviceId ∨ fieldAt hd 6 1 ≠ s.fuses.lc.num ∨ fieldAt hd 7 1 ≠ s.fuses.epoch
      ∨ fieldAt hd 24 4 ≠ s.ctxCount) :=
    not_or.2 ⟨not_not_intro h8, not_or.2 ⟨not_not_intro h6, not_or.2 ⟨not_not_intro h7, not_not_intro h24⟩⟩⟩
  have hctr : ¬ (c ≠ s.keeper.imageCtr ∧ s.keeper.pends c = false) := fun ⟨hne, hf⟩ =>
    hc.elim hne fun ht => absurd (ht.symm.trans hf) (by decide)
  have hroot : ¬ (!s.imageRootOk) = true := by simp [hr]
  have hvac : ¬ (!s.keys.vacant) = true := by simp [hv]
  cases hgood : good with
  | true =>
    refine ⟨_, congrArg Host.Outcome.next ((State.nvOp_of h hn _).trans ((if_neg hroot).trans
      ((if_neg hform).trans ((if_neg hhere).trans ((if_neg hctr).trans ((if_neg hvac).trans
      ((hg _ _).trans (if_pos hgood)))))))),
      fun _ => ⟨State.done_ended (x := x) ?_ (State.job?_id h.1) 0 _ _, ?_, ?_⟩, nofun⟩
    · split <;> exact hx
    · change State.keeper (if s.keeper.pends c then _ else _) = _
      split <;> rfl
    · change State.keys (if s.keeper.pends c then _ else _) = _
      split <;> rfl
  | false =>
    have hbad : ¬ good = true := by simp [hgood]
    exact ⟨_, congrArg Host.Outcome.next ((State.nvOp_of h hn _).trans ((if_neg hroot).trans
      ((if_neg hform).trans ((if_neg hhere).trans ((if_neg hctr).trans ((if_neg hvac).trans
      ((hg _ _).trans (if_neg hbad)))))))),
      nofun, fun _ => ⟨State.fail_ends (x := x) hx (State.job?_id h.1) _ _, rfl, rfl⟩⟩

theorem execExternalWrap_wraps (h : s.runsJob id j .externalWrap inp) (hp : s.passes j .externalWrap) :
    ∃ t, exec (.externalWrap id inp) s = .next t
      ∧ t.endedWith id st.ok 0 (makeBlob j.key (j.crec.blobHeader 1 (j.entry.p 0 4)) inp) := by
  obtain ⟨e, l, x, hx, hg⟩ := State.gated_reseeds h hp
  exact ⟨_, congrArg Host.Outcome.next ((State.runOp_of h _).trans (hg _ _)),
    State.done_ended (x := x) hx (State.job?_id h.1) 0 _ _⟩

theorem execKeyExport_exports (h : s.runsJob id j .keyExport []) (hp : s.passes j .keyExport) :
    ∃ t, exec (.keyExport id) s = .next t
      ∧ t.endedWith id st.ok 0 (makeBlob j.key2 (j.crec.blobHeader 2 32) j.key) := by
  obtain ⟨e, l, x, hx, hg⟩ := State.gated_reseeds h hp
  exact ⟨_, congrArg Host.Outcome.next ((State.runCmd_of h _).trans (hg _ _)),
    State.done_ended (x := x) hx (State.job?_id h.1) 0 _ _⟩

end

end Sys2Proof.Machine
open Sys2Proof Sys2Proof.Machine

/-- Settles O43: each command by its own row; the two loads are the one row without and with a pending image. -/
theorem imagesAndBlobsComplete : Obligations.ImagesAndBlobsComplete := by
  intro s id j inp
  refine ⟨execContextImageSave_saves, fun c n h hn h1 hi => ?_, ?_, execExternalWrap_wraps, execKeyExport_exports⟩
  · obtain ⟨t, ht, he, hk⟩ := execContextImageCommit_commits h hn h1 hi
    refine ⟨t, ht, he, ?_⟩
    rw [hk]
    exact Keeper.commitImage_of hi
  · intro hd h hn hp hr hv h0 h4 h44 h8 h6 h7 h24 c n ct iv good
    have hload := execContextImageLoad_loads h hn hp hr hv h0 h4 h44 h8 h6 h7 h24
    refine ⟨fun hc hq => ?_, fun k hk => ?_⟩
    · obtain ⟨t, ht, hgood, hbad⟩ := hload (.inl hc)
      have hf := Keeper.not_pends hq
      refine ⟨t, ht, fun hg => ?_, hbad⟩
      obtain ⟨he, hkp, hks⟩ := hgood hg
      rw [Keeper.imageHolds_of_not hf] at hks
      exact ⟨he, hkp.trans (if_neg fun ht => absurd (ht.symm.trans hf) (by decide)), hks⟩
    · obtain ⟨t, ht, hgood, hbad⟩ := hload (.inr (Keeper.pends_of hk))
      refine ⟨t, ht, fun hg => ?_, hbad⟩
      obtain ⟨he, hkp, hks⟩ := hgood hg
      rw [Keeper.imageHolds_of hk] at hks
      exact ⟨he, hkp.trans (if_pos (Keeper.pends_of hk)), hks⟩
end

section
/-! Migration (R287 to R295). -/
namespace Sys2Proof.Machine
open Sys2Proof

section
variable {s : State} {id : Nat} {j : Job} {inp : Bytes}

/-! ### The statement and the nonce of MIGRATE_EXPORT (R288, R293) -/

theorem execMigrateStatement_states (hn : s.nvFree = true) (h : s.runsJob id j .migrateStatement inp)
    (hp : s.passes j .migrateStatement) :
    ∃ t, exec (.migrateStatement id inp) s = .next t
      ∧ t.keeper = { s.keeper with stmtNonce := some inp, importDone := false }
      ∧ t.endedWith id st.ok 0
          (s.idc ++ s.mksBody inp ++ s.idkSign "PETHAL-MKS1" (s.mksBody inp) (s.freeNow 32)) := by
  obtain ⟨e, l, x, hx, hg⟩ := State.gated_reseeds h hp
  refine ⟨_, congrArg Host.Outcome.next ((State.nvOp_of h hn _).trans (hg _ _)), rfl, ?_⟩
  exact State.done_ended (x := x) hx (State.job?_id h.1) 0 _ _

section
variable (hn : s.nvFree = true) (h : s.runsJob id j .migrateExport []) (hp : s.passes j .migrateExport)
  (h0 : j.entry.p 0 1 = 0)
include hn h h0

include hp in
/-- Without a record of MIGRATE_EXPORT, or with DISCARD, step 0 outputs its nonce and drops the record. -/
theorem execMigrateExportNonce_issues (hr : s.keeper.exportRec = none ∨ j.entry.p 1 1 / 2 % 2 = 1) :
    ∃ t, exec (.migrateExportNonce id) s = .next t ∧ t.endedWith id st.ok 0 (s.freeNow 32)
      ∧ t.keeper = { s.keeper with exportNonce := some (s.freeNow 32), exportRec := none } := by
  obtain ⟨e, l, x, hx, hg⟩ := State.gated_reseeds h hp
  have hc : ¬ (s.keeper.exportRec.isSome = true ∧ j.entry.p 1 1 / 2 % 2 ≠ 1) := by
    rintro ⟨hs, hd⟩
    obtain hr | hr := hr
    · simp [hr] at hs
    · exact hd hr
  refine ⟨_, congrArg Host.Outcome.next ((State.nvOp_of h hn _).trans ((if_neg (not_not_intro h0)).trans
    ((if_neg hc).trans (hg _ _)))), ?_, rfl⟩
  exact State.done_ended (x := x) hx (State.job?_id h.1) 0 _ _

/-- With a record and no DISCARD it is refused, and the keeper stays. -/
theorem execMigrateExportNonce_refuses (hr : s.keeper.exportRec ≠ none) (hd : j.entry.p 1 1 / 2 % 2 = 0) :
    ∃ t, exec (.migrateExportNonce id) s = .next t ∧ ∃ r, t.endedWith id st.stateRefused r [] ∧ t.keeper = s.keeper := by
  have hc : s.keeper.exportRec.isSome = true ∧ j.entry.p 1 1 / 2 % 2 ≠ 1 := ⟨Option.isSome_iff_ne_none.2 hr, by simp [hd]⟩
  have e := State.finish_ended h.1 st.stateRefused (s.refusedWord j.fn 0) [] j.scCycles
  rw [if_neg (by decide)] at e
  refine ⟨_, congrArg Host.Outcome.next ((State.nvOp_of h hn _).trans ((if_neg (not_not_intro h0)).trans (if_pos hc))),
    s.refusedWord j.fn 0, ?_, rfl⟩
  rw [State.refuse, State.job?_id h.1]
  exact e

end

/-! ### The blob (R289, R290, R294) -/

/-- The exported subtree is read in the context store alone. -/
theorem State.migSubtree_congr {t : State} (h : t.keys = s.keys) (n : Nat) (l : List Nat) :
    t.migSubtree n l = s.migSubtree n l := by
  have hm (l : List Nat) : t.migrants l = s.migrants l := by simp only [State.migrants, h]
  induction n generalizing l with
  | zero => rfl
  | succ n ih => simp only [State.migSubtree, hm, ih]

/-- The keeper once the exported keys are retired for good: marked as exporting, then retired (R294). -/
def Keeper.exported (k : Keeper) (mks : Bytes) (nums : List Nat) : Keeper :=
  ({ k with slog := k.slog.map fun r =>
       if nums.contains r.num ∧ r.status ≠ .retired then { r with exporting := true } else r } : Keeper).retireKeys mks nums

theorem Keeper.exported_digest (k : Keeper) (mks : Bytes) (nums : List Nat) :
    (k.exported mks nums).exportRec.map ExportRec.mksDigest = some (Config.sha384 mks) := rfl

theorem Keeper.exported_retired (k : Keeper) (mks : Bytes) (nums : List Nat) :
    ∀ r, r ∈ (k.exported mks nums).slog → r.num ∈ nums → r.status = .retired := by
  intro r hr hm
  obtain ⟨q, -, rfl⟩ := List.mem_map.1 hr
  split at hm
  · next hc => rw [if_pos hc]
  · next hc => exact absurd (List.contains_iff_mem.2 hm) hc

/-- With no exported key in flight the keys are retired, then the blob ends the job, or the exported subtree's root is revoked
first. -/
theorem State.migrate_of {l : List Nat} {keys : List SlogRec} (hl : s.migSubtree 8 [handleIndex j.entry.ctx] = l)
    (hk : s.migRecords (mksOf inp) l = keys) (hf : ∀ r, r ∈ keys → s.keys.flights r.index = 0) :
    let u := s.mapKeeper fun k => k.exported (mksOf inp) (keys.map SlogRec.num)
    let e : Ending := { status := st.ok, result := BitVec.ofNat 64 (l.length + 2 ^ 32 * keys.length),
                        out := s.migBlob inp (s.freeNow 32) (s.migPayload j l keys) l.length keys.length, cycles := j.scCycles }
    s.migrate j inp =
      if j.entry.p 1 1 % 2 = 0 then u.scDraw.finish j.id e.status e.result e.out e.cycles
      else if 4096 ≤ s.keeper.revJournal.length then u.endWith j st.contextFull 4096 j.scCycles
      else (((u.scDraw.revoke (handleIndex j.entry.ctx)).mapKeys fun k => (k.dropEntry j.crec.entry).lower j.chain).mapJob j.id
        fun x => { x with chain := [] }).awaitBarrier j e := by
  have hc : ¬ keys.any (fun r => decide (s.keys.flights r.index ≠ 0)) = true := by
    simpa using hf
  unfold State.migrate
  dsimp only
  rw [hl, hk]
  exact if_neg hc

/-- A valid statement is answered by the blob, or by the barrier over the exported subtree's root. -/
theorem execMigrateExport_exports (hn : s.nvFree = true) (h : s.runsJob id j .migrateExport inp)
    (hp : s.passes j .migrateExport) (h1 : j.entry.p 0 1 = 1) (hm : migForm inp = true) (hs : migSigs inp = true)
    (hq : s.migParams inp = true) (hc : j.crec.allows 16 = true) {l : List Nat} {keys : List SlogRec}
    (hl : s.migSubtree 8 [handleIndex j.entry.ctx] = l) (hk : s.migRecords (mksOf inp) l = keys)
    (hf : ∀ r, r ∈ keys → s.keys.flights r.index = 0) :
    ∃ t, exec (.migrateExport id inp) s = .next t
      ∧ t.keeper.exportRec.map ExportRec.mksDigest = some (Config.sha384 (mksOf inp)) ∧ t.keeper.exportNonce = none
      ∧ (∀ r, r ∈ t.keeper.slog → r.num ∈ keys.map SlogRec.num → r.status = .retired)
      ∧ (j.entry.p 1 1 % 2 = 0 → t.keys = s.keys ∧ t.endedWith id st.ok (BitVec.ofNat 64 (l.length + 2 ^ 32 * keys.length))
          (s.migBlob inp (s.freeNow 32) (s.migPayload j l keys) l.length keys.length))
      ∧ (j.entry.p 1 1 % 2 = 1 → s.keeper.revJournal.length < 4096 →
          (t.keys.record (handleIndex j.entry.ctx)).gen = (s.keys.record (handleIndex j.entry.ctx)).gen + 1
          ∧ (t.keys.record (handleIndex j.entry.ctx)).state ≠ .live
          ∧ t.keeper.revJournal
            = s.keeper.revJournal ++ [(handleIndex j.entry.ctx, (s.keys.record (handleIndex j.entry.ctx)).gen + 1)]) := by
  obtain ⟨e, js, x, hx, hg⟩ := State.gated_reseeds h hp
  have hl' : (s.reseed e js).migSubtree 8 [handleIndex j.entry.ctx] = l := (State.migSubtree_congr rfl 8 _).trans hl
  have hu := State.migrate_of (s := s.reseed e js) (j := { j with seeded := true }) (inp := inp) hl' hk hf
  refine ⟨_, congrArg Host.Outcome.next ((State.nvOp_of h hn _).trans ((if_neg (not_not_intro h1)).trans
    ((if_neg (by simp [hm])).trans ((if_neg (by simp [hs])).trans ((if_neg (by simp [hq])).trans
    ((if_neg (by simp [hc])).trans ((hg _ _).trans hu))))))), ?_⟩
  have hd := Keeper.exported_digest s.keeper (mksOf inp) (keys.map SlogRec.num)
  have hr := Keeper.exported_retired s.keeper (mksOf inp) (keys.map SlogRec.num)
  dsimp only
  split
  · next h0 =>
    refine ⟨hd, rfl, hr, fun _ => ⟨rfl, ?_⟩, fun h1 => absurd (h0.symm.trans h1) (by decide)⟩
    exact State.done_ended (x := x) hx (State.job?_id h.1) _ _ _
  · next h0 =>
    split
    · next hj => exact ⟨hd, rfl, hr, fun h1 => absurd h1 h0, fun _ hlt => absurd hj (Nat.not_le.2 hlt)⟩
    · rw [State.awaitBarrier_keeper, State.awaitBarrier_keys]
      refine ⟨hd, rfl, hr, fun h1 => absurd h1 h0, fun _ _ => ?_⟩
      have hv := (s.reseed e js).revoke_record (handleIndex j.entry.ctx)
      exact ⟨congrArg Ctx.gen hv, fun hs => Ctx.revoked_not_live _ (hv ▸ hs), rfl⟩

/-! ### The import (R295) -/

/-- A blob that unwraps and whose records, entry and keys have a place is installed. -/
theorem State.placeImport_of {p : MigPayload} {nonce : Bytes} {entry : Nat} (hm : s.misplaced p = none)
    (he : s.entryFor (j.entry.p 0 2) = some entry)
    (hr : (p.keys.filter fun m => (s.keeper.sameKey m.keyId).isNone).length
      ≤ 8192 - (s.keeper.slog.length + s.keeper.badLogRecs.length))
    (hk : ∀ m r, m ∈ p.keys → s.keeper.sameKey m.keyId = some r → r.nonce = nonce) :
    ∃ k : Keeper, k.importDone = true
      ∧ s.placeImport j p nonce = ((s.mapKeeper fun _ => k).installMigration p entry).done j
          (mkHandle p.root.1 p.root.2.gen).toNat [] j.scCycles := by
  have hn : ¬ p.keys.any (fun m => (s.keeper.sameKey m.keyId).any fun r => decide (r.nonce ≠ nonce)) = true := by
    simp only [List.any_eq_true, Option.any_eq_true, decide_eq_true_eq, not_exists, not_and, not_not]
    exact fun m hm r hr => hk m r hm hr
  unfold State.placeImport
  rw [hm, he]
  dsimp only
  rw [if_neg (Nat.not_lt.2 hr), if_neg hn]
  exact ⟨_, rfl, rfl⟩

theorem State.installMigration_imported (s : State) (p : MigPayload) (entry : Nat) :
    (s.installMigration p entry).keys.imported.get [] entry = p.secret := by
  have e := Keys.imported_setRecs p.recs
    { s.keys.setRec p.root.1 { p.root.2 with label := BitVec.ofNat 48 (p.rootId * 65536 + entry) } with
      imported := s.keys.imported.set [] entry p.secret }
  refine (congrArg (Sparse.get [] · entry) e).trans ?_
  exact (Sparse.get_set _ _ _ _ _).trans (if_pos rfl)

theorem State.installMigration_root (s : State) {p : MigPayload} (entry : Nat) (h : ∀ x, x ∈ p.recs → x.1 ≠ p.root.1) :
    (s.installMigration p entry).keys.record p.root.1
      = { p.root.2 with label := BitVec.ofNat 48 (p.rootId * 65536 + entry) } :=
  (Keys.record_setRecs h _).trans ((Keys.record_setRec _ _ _ _).trans (if_pos rfl))

theorem execMigrateImport_imports (hn : s.nvFree = true) (h : s.runsJob id j .migrateImport inp)
    (hp : s.passes j .migrateImport) :
    let hd := inp.take 1632
    let n := fieldAt hd 56 4
    let k := fieldAt hd 60 4
    let nonce := slice hd 24 32
    inp.length = migLen n k → fieldAt hd 0 4 = 0x47494D50 → fieldAt hd 4 2 = 1 → zeroAt hd 6 2 = true →
    fieldAt hd 16 8 = s.deviceId → s.keeper.stmtNonce = some nonce →
    let kek := Config.kmac256 (kemDecaps 3 s.migDk (slice hd 64 1568)) hd 32 (Config.ascii "PETHAL-MIG1")
    let w := inp.drop 1632
    ∃ t, exec (.migrateImport id inp) s = .next t
      ∧ (kwpUnwrap kek w = none → t.endedWith id st.tagFail (j.plainResult st.tagFail) [] ∧ t.keys = s.keys)
      ∧ (∀ b entry, kwpUnwrap kek w = some b →
          let p := MigPayload.parse b n k
          s.misplaced p = none → s.entryFor (j.entry.p 0 2) = some entry →
          (p.keys.filter fun m => (s.keeper.sameKey m.keyId).isNone).length
            ≤ 8192 - (s.keeper.slog.length + s.keeper.badLogRecs.length) →
          (∀ m r, m ∈ p.keys → s.keeper.sameKey m.keyId = some r → r.nonce = nonce) →
          t.endedWith id st.ok (BitVec.ofNat 64 (mkHandle p.root.1 p.root.2.gen).toNat) [] ∧ t.keeper.importDone = true
          ∧ t.keys.imported.get [] entry = p.secret
          ∧ ((∀ x, x ∈ p.recs → x.1 ≠ p.root.1) → t.keys.record p.root.1 =
              { p.root.2 with label := BitVec.ofNat 48 (p.rootId * 65536 + entry) })) := by
  intro hd n k nonce hlen h0 h4 h6 h16 hs kek w
  obtain ⟨e, js, x, hx, hg⟩ := State.gated_reseeds h hp
  refine ⟨_, congrArg Host.Outcome.next ((State.nvOp_of h hn _).trans ((if_neg ?_).trans ((if_neg ?_).trans (hg _ _)))), ?_, ?_⟩
  · exact not_or.2 ⟨not_not_intro h0, not_or.2 ⟨not_not_intro h4, not_or.2 ⟨by simp [hd, h6], not_not_intro hlen⟩⟩⟩
  · exact not_or.2 ⟨not_not_intro h16, not_not_intro hs⟩
  · intro hw
    have hw' : kwpUnwrap (Config.kmac256 (kemDecaps 3 (s.reseed e js).migDk (slice hd 64 1568)) hd 32
      (Config.ascii "PETHAL-MIG1")) (inp.drop 1632) = none := hw
    dsimp only
    rw [hw']
    exact ⟨State.fail_ends (x := x) hx (State.job?_id h.1) _ _, rfl⟩
  · intro b entry hw p hm he hr hk
    have hw' : kwpUnwrap (Config.kmac256 (kemDecaps 3 (s.reseed e js).migDk (slice hd 64 1568)) hd 32
      (Config.ascii "PETHAL-MIG1")) (inp.drop 1632) = some b := hw
    obtain ⟨kp, hi, hpl⟩ :=
      State.placeImport_of (s := s.reseed e js) (j := { j with seeded := true }) (nonce := nonce) hm he hr hk
    dsimp only
    rw [hw']
    dsimp only
    rw [hpl]
    exact ⟨State.done_ended (x := x) hx (State.job?_id h.1) _ _ _, hi, State.installMigration_imported _ p entry,
      State.installMigration_root _ entry⟩

end

end Sys2Proof.Machine
open Sys2Proof Sys2Proof.Machine

/-- Settles O55: with a record and without DISCARD step 0 is refused, otherwise it outputs its nonce. -/
theorem migrateExportStepZero : Obligations.MigrateExportStepZero := by
  intro s id j h hp hn h0
  by_cases hr : s.keeper.exportRec = none ∨ j.entry.p 1 1 / 2 % 2 = 1
  · obtain ⟨t, ht, he, -⟩ := execMigrateExportNonce_issues hn h hp h0 hr
    refine ⟨t, ht, fun _ => ⟨he, by simp [State.freeNow, Config.freeBytes]⟩, fun hs hd => ?_⟩
    exact absurd hr (not_or.2 ⟨hs, by simp [hd]⟩)
  · obtain ⟨hs, hd⟩ := not_or.1 hr
    obtain ⟨t, ht, he⟩ := execMigrateExportNonce_refuses hn h h0 hs (by omega)
    exact ⟨t, ht, fun h' => absurd h' hr, fun _ _ => he⟩

/-- Settles O44: each command by its own row. -/
theorem migrationCompletes : Obligations.MigrationCompletes := by
  intro s id j inp hn
  exact ⟨execMigrateStatement_states hn, fun h hp h0 => execMigrateExportNonce_issues hn h hp h0,
    fun h hp h1 hm hs hq hc hf => execMigrateExport_exports hn h hp h1 hm hs hq hc rfl rfl hf,
    fun h hp => execMigrateImport_imports hn h hp⟩
end

section
/-! ML-KEM and ML-DSA (R298 to R312). -/
namespace Sys2Proof.Machine
open Sys2Proof

section
variable {s : State} {id : Nat} {j : Job} {inp : Bytes}

/-! ### ML-KEM -/

/-- A key of a context comes from its seed; an ephemeral one from the DRBG, its dk into the slot (R299, R300). -/
theorem execMlkemKeygen_generates (h : s.runsJob id j .mlkemKeygen []) (hp : s.passes j .mlkemKeygen) :
    let p := j.entry.p 0 1
    let seed := if j.entry.ctx = 0 then s.freeNow 64 else mlkemSeed j.key p
    ∃ t, exec (.mlkemKeygen id) s = .next t
      ∧ t.endedWith id st.ok (BitVec.ofNat 64 p) (mlkemEk p (slice seed 0 32) (slice seed 32 32))
      ∧ (j.entry.ctx = 0 → t.store = s.store.write j.entry.slotA.toNat (.mlkem p)
          (mlkemDk p (slice seed 0 32) (slice seed 32 32)))
      ∧ (j.entry.ctx ≠ 0 → t.store = s.store) := by
  intro p seed
  obtain ⟨e, l, x, hx, hg⟩ := State.gated_reseeds h hp
  by_cases hc : j.entry.ctx = 0
  · have hs : seed = s.freeNow 64 := if_pos hc
    refine ⟨_, congrArg Host.Outcome.next ((State.runCmd_of h _).trans ((hg _ _).trans (if_pos hc))), ?_, fun _ => ?_,
      fun h0 => absurd hc h0⟩
    · rw [hs]
      exact State.done_ended (x := x) hx (State.job?_id h.1) _ _ _
    · rw [hs]
      rfl
  · have hs : seed = mlkemSeed j.key p := if_neg hc
    refine ⟨_, congrArg Host.Outcome.next ((State.runCmd_of h _).trans ((hg _ _).trans (if_neg hc))), ?_,
      fun h0 => absurd h0 hc, fun _ => rfl⟩
    rw [hs]
    exact State.done_ended (x := x) hx (State.job?_id h.1) _ _ _

/-- An encapsulation key that passes the modulus check is used with m from the DRBG (R302, R304). -/
theorem execMlkemEncaps_encapsulates (h : s.runsJob id j .mlkemEncaps inp) (hp : s.passes j .mlkemEncaps)
    (hb : badCoeff (j.entry.p 0 1) inp = none) :
    ∃ t, exec (.mlkemEncaps id inp) s = .next t
      ∧ t.endedWith id st.ok (BitVec.ofNat 64 (j.entry.p 0 1)) (mlkemEnc (j.entry.p 0 1) inp (s.freeNow 32)) := by
  obtain ⟨e, l, x, hx, hg⟩ := State.gated_reseeds h hp
  have hb' : badCoeff j.pset inp = none := hb
  refine ⟨_, congrArg Host.Outcome.next (State.runOp_of h _), ?_⟩
  rw [hb']
  dsimp only
  rw [hg]
  exact State.done_ended (x := x) hx (State.job?_id h.1) _ _ _

/-- The slot's dk or that of the context's seed decapsulates (R299, R300). -/
theorem execMlkemDecaps_decapsulates (h : s.runsJob id j .mlkemDecaps inp) (hp : s.passes j .mlkemDecaps)
    (ht : j.entry.ctx = 0 → (s.store.slot j.entry.slotA.toNat).tag = .mlkem (j.entry.p 0 1)) :
    let p := j.entry.p 0 1
    let seed := mlkemSeed j.key p
    let dk := if j.entry.ctx = 0 then (s.store.slot j.entry.slotA.toNat).content
      else mlkemDk p (slice seed 0 32) (slice seed 32 32)
    ∃ t, exec (.mlkemDecaps id inp) s = .next t ∧ t.endedWith id st.ok (BitVec.ofNat 64 p) (kemDecaps p dk inp)
      ∧ t.store = s.store := by
  intro p seed dk
  obtain ⟨e, l, x, hx, hg⟩ := State.gated_reseeds h hp
  have hc : ¬ (j.entry.ctx = 0 ∧ (s.store.slot j.entry.slotA.toNat).tag ≠ .mlkem j.pset) := fun hn => hn.2 (ht hn.1)
  exact ⟨_, congrArg Host.Outcome.next ((State.runOp_of h _).trans ((if_neg hc).trans (hg _ _))),
    State.done_ended (x := x) hx (State.job?_id h.1) _ _ _, rfl⟩

theorem execMlkemEncapsInternal_encapsulates (h : s.runsJob id j .mlkemEncapsInternal inp)
    (hb : badCoeff (j.entry.p 0 1) (inp.take (mlkemEkLen (j.entry.p 0 1))) = none) :
    let n := mlkemEkLen (j.entry.p 0 1)
    ∃ t, exec (.mlkemEncapsInternal id inp) s = .next t
      ∧ t.endedWith id st.ok (BitVec.ofNat 64 (j.entry.p 0 1)) (mlkemEnc (j.entry.p 0 1) (inp.take n) (inp.drop n)) := by
  intro n
  have hb' : badCoeff j.pset (inp.take (mlkemEkLen j.pset)) = none := hb
  refine ⟨_, congrArg Host.Outcome.next (State.runOp_of h _), ?_⟩
  dsimp only
  rw [hb']
  exact State.done_ended (x := j) h.1 (State.job?_id h.1) _ _ _

theorem execMlkemKeygenInternal_generates (h : s.runsJob id j .mlkemKeygenInternal inp) :
    let p := j.entry.p 0 1
    ∃ t, exec (.mlkemKeygenInternal id inp) s = .next t
      ∧ t.endedWith id st.ok (BitVec.ofNat 64 p)
          (mlkemEk p (slice inp 0 32) (slice inp 32 32) ++ mlkemDk p (slice inp 0 32) (slice inp 32 32)) :=
  ⟨_, congrArg Host.Outcome.next (State.runOp_of h _), State.done_ended (x := j) h.1 (State.job?_id h.1) _ _ _⟩

/-! ### ML-DSA -/

theorem execMldsaKeygen_generates (h : s.runsJob id j .mldsaKeygen []) (hp : s.passes j .mldsaKeygen) :
    let p := j.entry.p 0 1
    ∃ t, exec (.mldsaKeygen id) s = .next t
      ∧ t.endedWith id st.ok (BitVec.ofNat 64 p) (mldsaPk p (mldsaSeed j.key p)) := by
  obtain ⟨e, l, x, hx, hg⟩ := State.gated_reseeds h hp
  exact ⟨_, congrArg Host.Outcome.next ((State.runCmd_of h _).trans (hg _ _)),
    State.done_ended (x := x) hx (State.job?_id h.1) _ _ _⟩

/-- The loop of a signature ends with it, or with ENGINE_FAULT at its bound; only the hedged form draws (R309, R312). -/
theorem execMldsaSign_signs (h : s.runsJob id j .mldsaSign inp) (hp : s.passes j .mldsaSign) :
    let p := j.entry.p 0 1
    let rnd := if j.entry.flag 2 then zeros 32 else s.freeNow 32
    let mu := dsaMu (j.entry.p 1 1) (j.entry.p 3 1) (mldsaPk p (mldsaSeed j.key p))
      (inp.take (j.entry.p 2 1)) (inp.drop (j.entry.p 2 1))
    let sig := dsaSign p (mldsaSk p (mldsaSeed j.key p)) rnd mu
    ∃ t, exec (.mldsaSign id inp) s = .next t
      ∧ (∀ x, sig.2 = some x → t.endedWith id st.ok (BitVec.ofNat 64 (sig.1 + 65536 * p)) x)
      ∧ (sig.2 = none → t.endedWith id st.engineFault 1000 [])
      ∧ t.freeCtr = s.freeCtr + (if j.entry.flag 2 then 0 else 1) := by
  intro p rnd mu sig
  obtain ⟨e, l, x, hx, hg⟩ := State.gated_reseeds h hp
  let u := if j.entry.flag 2 then s.reseed e l else (s.reseed e l).draw
  have hu : u.job? id = some x := by
    rw [State.job?_ite, State.draw_job?, ite_self, hx]
  have hf : u.freeCtr = s.freeCtr + (if j.entry.flag 2 then 0 else 1) := by
    by_cases hd : j.entry.flag 2 = true <;> simp [u, hd, State.reseed, State.draw]
  have hj : j.id = id := State.job?_id h.1
  refine ⟨_, congrArg Host.Outcome.next ((State.runOp_of h _).trans (hg _ _)), ?_⟩
  dsimp only
  split
  · next hs =>
    exact ⟨fun _ hx => (nomatch hs.symm.trans hx), fun _ => State.endWith_ended (x := x) hu hj (by decide) 1000 _, hf⟩
  · next y hs =>
    refine ⟨fun z hz => ?_, fun hn => (nomatch hs.symm.trans hn), hf⟩
    cases hs.symm.trans hz
    exact State.done_ended (x := x) hu hj _ _ _

theorem execMldsaVerify_verifies (h : s.runsJob id j .mldsaVerify inp) :
    let p := j.entry.p 0 1
    let n := if j.entry.ctx = 0 then mldsaPkLen p else 0
    let pk := if j.entry.ctx = 0 then inp.take n else mldsaPk p (mldsaSeed j.key p)
    let sig := slice inp n (mldsaSigLen p)
    let form := inp.drop (n + mldsaSigLen p)
    hintOk p sig = true →
    let good := mldsaOk p (j.entry.p 1 1) (j.entry.p 3 1) pk (form.take (j.entry.p 2 1)) (form.drop (j.entry.p 2 1)) sig
    ∃ t, exec (.mldsaVerify id inp) s = .next t
      ∧ t.endedWith id (if good then st.ok else st.verifyFalse) (if good then pairTrue else pairFalse) [] := by
  intro p n pk sig form hh good
  have hh' : ¬ (!hintOk p sig) = true := by simp [hh]
  exact ⟨_, congrArg Host.Outcome.next ((State.runOp_of h _).trans (if_neg hh')),
    State.verdict_ended (x := j) h.1 (State.job?_id h.1) _ (by decide) _⟩

theorem execMldsaKeygenInternal_generates (h : s.runsJob id j .mldsaKeygenInternal inp) :
    ∃ t, exec (.mldsaKeygenInternal id inp) s = .next t
      ∧ t.endedWith id st.ok (BitVec.ofNat 64 (j.entry.p 0 1))
          (mldsaPk (j.entry.p 0 1) inp ++ mldsaSk (j.entry.p 0 1) inp) :=
  ⟨_, congrArg Host.Outcome.next (State.runOp_of h _), State.done_ended (x := j) h.1 (State.job?_id h.1) _ _ _⟩

/-! ### RESULT of ML-KEM (R306) -/

/-- Job `id` has no other RESULT than `r` where `t` has ended it with OK. -/
def State.okResultIs (t : State) (id : Nat) (r : BitVec 64) : Prop := ∀ r' b, t.endedWith id st.ok r' b → r' = r

section
variable {r : BitVec 64} {x : Job} (hx : s.job? id = some x) (hj : j.id = id)
include hx hj

theorem State.done_okResultIs (n : Nat) (b : Bytes) (k : Nat) :
    (s.done j n b k).okResultIs id (BitVec.ofNat 64 n) := fun _ _ h => by
  subst hj
  exact ((State.finish_iff (Option.isSome_of_eq_some hx) _ _ _ _ _ _ _).1 h).2.1.symm

theorem State.endWith_okResultIs {c : Status} (hc : c ≠ st.ok) (n k : Nat) : (s.endWith j c n k).okResultIs id r :=
  fun _ _ h => by
    subst hj
    exact absurd ((State.finish_iff (Option.isSome_of_eq_some hx) _ _ _ _ _ _ _).1 h).1 hc

theorem State.fail_okResultIs {c : Status} (hc : c ≠ st.ok) (k : Nat) : (s.fail j c k).okResultIs id r :=
  fun _ _ h => by
    subst hj
    exact absurd ((State.finish_iff (Option.isSome_of_eq_some hx) _ _ _ _ _ _ _).1 h).1 hc

end

variable {r : BitVec 64}

/-- Where the job has not ended, there is no RESULT. -/
theorem State.okResultIs_of_phase {t : State} (h : ∀ y, t.job? id = some y → y.phase ≠ .ended) : t.okResultIs id r :=
  fun _ _ ⟨y, _, hy, hp, _⟩ => absurd hp (h y hy)

/-- Past the gate the body decides; a job that waits has no ending, and one that fails there has not ended with OK. -/
theorem State.gated_okResultIs {x : Job} (hx : s.job? id = some x) (hj : j.id = id) (op : Op) (pub : Nat)
    {body : State → Job → State}
    (hb : ∀ u y, u.job? id = some y → (body u { j with seeded := true }).okResultIs id r) :
    (s.gated j op pub body).okResultIs id r := by
  obtain h | h | h := s.gated_cases j op pub body <;> rw [h]
  · obtain ⟨y, hy, -⟩ := State.seeding_job? j op hx
    exact hb _ y hy
  · refine State.okResultIs_of_phase fun y hy => ?_
    have hm := (State.job?_map (i := j.id) (f := fun x => { x with phase := .waitEntropy, waitFrom := s.now }) hx
      fun _ => rfl).symm.trans hy
    rw [if_pos ((State.job?_id hx).trans hj.symm)] at hm
    cases hm
    exact nofun
  · exact State.fail_okResultIs ((State.dropStream_job? s j id).trans hx) hj (by decide) _

/-- A row that does not run, its opcode or input not the job's, leaves the job running. -/
theorem State.runOp_okResultIs (hj : s.job? id = some j) (hp : j.phase = .running) {op : Op} {run : State → Job → State}
    (hr : (run s j).okResultIs id r) : (s.runOp id op inp run).okResultIs id r := by
  obtain e | ⟨k, ⟨hk, -⟩, e⟩ := s.runOp_cases id op inp run <;> rw [e]
  · refine State.okResultIs_of_phase fun y hy => ?_
    cases hj.symm.trans hy
    rw [hp]
    exact nofun
  · cases hj.symm.trans hk
    exact hr

section
variable {t : State} (hx : s.job? id = some j) (hp : j.phase = .running)
include hx hp

theorem execMlkemKeygen_okResultIs (ht : exec (.mlkemKeygen id) s = .next t) :
    t.okResultIs id (BitVec.ofNat 64 j.pset) := by
  obtain rfl := Host.Outcome.next.inj ht
  refine State.runOp_okResultIs hx hp (State.gated_okResultIs hx (State.job?_id hx) _ _ fun u y hu => ?_)
  dsimp only
  split
  · exact State.done_okResultIs (s := u.draw.mapStore _) hu (State.job?_id hx) _ _ _
  · exact State.done_okResultIs hu (State.job?_id hx) _ _ _

theorem execMlkemEncaps_okResultIs (ht : exec (.mlkemEncaps id inp) s = .next t) :
    t.okResultIs id (BitVec.ofNat 64 j.pset) := by
  obtain rfl := Host.Outcome.next.inj ht
  refine State.runOp_okResultIs hx hp ?_
  split
  · exact State.endWith_okResultIs hx (State.job?_id hx) (by decide) _ _
  · exact State.gated_okResultIs hx (State.job?_id hx) _ _ fun u y hu =>
      State.done_okResultIs (s := u.draw) hu (State.job?_id hx) _ _ _

theorem execMlkemDecaps_okResultIs (ht : exec (.mlkemDecaps id inp) s = .next t) :
    t.okResultIs id (BitVec.ofNat 64 j.pset) := by
  obtain rfl := Host.Outcome.next.inj ht
  refine State.runOp_okResultIs hx hp ?_
  dsimp only
  split
  · exact State.fail_okResultIs hx (State.job?_id hx) (by decide) _
  · exact State.gated_okResultIs hx (State.job?_id hx) _ _ fun u y hu =>
      State.done_okResultIs hu (State.job?_id hx) _ _ _

theorem execMlkemEncapsInternal_okResultIs (ht : exec (.mlkemEncapsInternal id inp) s = .next t) :
    t.okResultIs id (BitVec.ofNat 64 j.pset) := by
  obtain rfl := Host.Outcome.next.inj ht
  refine State.runOp_okResultIs hx hp ?_
  dsimp only
  split
  · exact State.endWith_okResultIs hx (State.job?_id hx) (by decide) _ _
  · exact State.done_okResultIs hx (State.job?_id hx) _ _ _

theorem execMlkemKeygenInternal_okResultIs (ht : exec (.mlkemKeygenInternal id inp) s = .next t) :
    t.okResultIs id (BitVec.ofNat 64 j.pset) := by
  obtain rfl := Host.Outcome.next.inj ht
  exact State.runOp_okResultIs hx hp (State.done_okResultIs hx (State.job?_id hx) _ _ _)

end

/-- RESULT of an ML-KEM row is its PSET, which is a byte. -/
theorem State.okResultIs.eq_pset {t : State} (h : t.okResultIs id (BitVec.ofNat 64 j.pset)) {b : Bytes}
    (he : t.endedWith id st.ok r b) : r.toNat = j.entry.p 0 1 := by
  have hb : j.entry.p 0 1 < 2 ^ 8 := Nat.mod_lt _ (by decide)
  rw [h r b he, BitVec.toNat_ofNat, Job.pset]
  omega

end

end Sys2Proof.Machine
open Sys2Proof Sys2Proof.Machine

/-- Settles O2: each command by its own row. -/
theorem mlKemCompletes : Obligations.MlKemCompletes := by
  intro s id j inp
  exact ⟨execMlkemKeygen_generates, execMlkemEncaps_encapsulates, execMlkemDecaps_decapsulates,
    execMlkemEncapsInternal_encapsulates, execMlkemKeygenInternal_generates⟩

/-- Settles O3: each command by its own row. -/
theorem mlDsaCompletes : Obligations.MlDsaCompletes := by
  intro s id j inp
  exact ⟨execMldsaKeygen_generates, execMldsaSign_signs, execMldsaVerify_verifies, execMldsaKeygenInternal_generates⟩

/-- Settles O51: each row ends its job with its PSET, or not with OK. -/
theorem latticeResultHoldsPset : Obligations.LatticeResultHoldsPset := by
  intro s t id j inp i op r out hi ⟨hj, _, hp, _⟩ ht he
  simp only [List.mem_cons, Prod.mk.injEq, List.not_mem_nil, or_false] at hi
  obtain ⟨rfl, -⟩ | ⟨rfl, -⟩ | ⟨rfl, -⟩ | ⟨rfl, -⟩ | ⟨rfl, -⟩ := hi
  · exact (execMlkemKeygen_okResultIs hj hp ht).eq_pset he
  · exact (execMlkemEncaps_okResultIs hj hp ht).eq_pset he
  · exact (execMlkemDecaps_okResultIs hj hp ht).eq_pset he
  · exact (execMlkemEncapsInternal_okResultIs hj hp ht).eq_pset he
  · exact (execMlkemKeygenInternal_okResultIs hj hp ht).eq_pset he
end

section
/-! One-shot hash and MAC jobs and SLH-DSA (R326 to R330, R333 to R337). -/
namespace Sys2Proof.Machine
open Sys2Proof

/-! ### The lengths and parts of a hash job (R327, R328, R330) -/

/-- With CHECK a job puts out TAG_LEN bytes, whatever its KIND. -/
theorem outBytes_of_check {e : Entry} (h : e.flag 2 = true) (kind alg : Nat) : outBytes kind alg e = e.p 8 2 :=
  if_pos h

/-- A HASH job puts out the digest, or OUT_LEN bytes of an XOF. -/
theorem outBytes_hash {e : Entry} (h : e.flag 2 = false) (alg : Nat) :
    outBytes 0 alg e = if alg ≤ 6 then Config.digestLen alg else e.outLen.toNat := by
  simp [outBytes, h]

theorem outBytes_kmac {e : Entry} (h : e.flag 2 = false) (alg : Nat) : outBytes 2 alg e = e.outLen.toNat := by
  simp [outBytes, h]

theorem outBytes_hmac (e : Entry) (alg : Nat) :
    outBytes 3 alg e = if e.flag 2 then e.p 8 2 else if e.p 8 2 = 0 then Config.digestLen alg else e.p 8 2 := by
  simp [outBytes]

/-- The key of a keyed job is the context's, or the first bytes of its input. -/
theorem Job.keyed_fst (j : Job) (m : Bytes) : (j.keyed m).1 = if j.entry.ctx = 0 then m.take (j.entry.p 6 2) else j.key := by
  unfold Job.keyed
  split <;> rfl

/-- What follows the key. -/
theorem Job.keyed_snd (j : Job) (m : Bytes) : (j.keyed m).2 = if j.entry.ctx = 0 then m.drop (j.entry.p 6 2) else m := by
  unfold Job.keyed
  split <;> rfl

section
variable {s : State} {id : Nat} {j : Job} {inp : Bytes}

/-! ### One-shot jobs -/

theorem execHash_digests (h : s.runsJob id j .hash inp) :
    let alg := j.entry.p 0 1
    ∃ t, exec (.hash id inp) s = .next t
      ∧ t.endedWith id st.ok (BitVec.ofNat 64 alg)
          (hashOut alg (if alg ≤ 6 then Config.digestLen alg else j.entry.outLen.toNat) inp) := by
  intro alg
  have hn : outBytes 0 alg { j.entry with flags := 0 } = _ := outBytes_hash (by simp [Entry.flag]) alg
  rw [← hn]
  exact ⟨_, congrArg Host.Outcome.next (State.runOp_of h _), State.done_ended (x := j) h.1 (State.job?_id h.1) _ _ _⟩

theorem execCshake_digests (h : s.runsJob id j .cshake inp) :
    let e := j.entry
    ∃ t, exec (.cshake id inp) s = .next t
      ∧ t.endedWith id st.ok (BitVec.ofNat 64 (e.p 0 1))
          (cshakeOut (e.p 0 1) e.outLen.toNat (inp.take (e.p 2 2)) (slice inp (e.p 2 2) (e.p 4 2))
            (inp.drop (e.p 2 2 + e.p 4 2))) :=
  ⟨_, congrArg Host.Outcome.next (State.runOp_of h _), State.done_ended (x := j) h.1 (State.job?_id h.1) _ _ _⟩

/-- KMAC over the customisation and the message that follow the key. -/
theorem execKmac_macs (h : s.runsJob id j .kmac inp) (hp : s.passes j .kmac) :
    let e := j.entry
    let alg := e.p 0 1
    let kr := j.keyed (bodyOf e inp)
    let out := kmacOut alg (outBytes 2 alg e) (e.flag 3) kr.1 (kr.2.take (e.p 4 2)) (kr.2.drop (e.p 4 2))
    ∃ t, exec (.kmac id inp) s = .next t
      ∧ (e.flag 2 = false → t.endedWith id st.ok (BitVec.ofNat 64 alg) out)
      ∧ (e.flag 2 = true → t.endedWith id (if out = tagOf e inp then st.ok else st.verifyFalse)
          (if out = tagOf e inp then pairTrue else pairFalse) []) := by
  intro e alg kr out
  obtain ⟨u, l, x, hx, hg⟩ := State.gated_reseeds h hp
  have hj : j.id = id := State.job?_id h.1
  exact ⟨_, congrArg Host.Outcome.next ((State.runOp_of h _).trans (hg _ _)),
    State.endHash_ended (x := x) (j := { j with seeded := true }) hx hj alg out _ _⟩

/-- HMAC over the message that follows the key. -/
theorem execHmac_macs (h : s.runsJob id j .hmac inp) (hp : s.passes j .hmac) :
    let e := j.entry
    let alg := e.p 0 1
    let kr := j.keyed (bodyOf e inp)
    let out := hmacOut alg (outBytes 3 alg e) kr.1 kr.2
    ∃ t, exec (.hmac id inp) s = .next t
      ∧ (e.flag 2 = false → t.endedWith id st.ok (BitVec.ofNat 64 alg) out)
      ∧ (e.flag 2 = true → t.endedWith id (if out = tagOf e inp then st.ok else st.verifyFalse)
          (if out = tagOf e inp then pairTrue else pairFalse) []) := by
  intro e alg kr out
  obtain ⟨u, l, x, hx, hg⟩ := State.gated_reseeds h hp
  have hj : j.id = id := State.job?_id h.1
  exact ⟨_, congrArg Host.Outcome.next ((State.runOp_of h _).trans (hg _ _)),
    State.endHash_ended (x := x) (j := { j with seeded := true }) hx hj alg out _ _⟩

/-! ### SLH-DSA -/

theorem execSlhdsaKeygen_generates (h : s.runsJob id j .slhKeygen []) (hp : s.passes j .slhKeygen) :
    let p := j.entry.p 0 1
    ∃ t, exec (.slhdsaKeygen id) s = .next t ∧ t.endedWith id st.ok (BitVec.ofNat 64 p) (slhPk p (slhSeed j.key p)) := by
  obtain ⟨u, l, x, hx, hg⟩ := State.gated_reseeds h hp
  exact ⟨_, congrArg Host.Outcome.next ((State.runCmd_of h _).trans (hg _ _)),
    State.done_ended (x := x) hx (State.job?_id h.1) _ _ _⟩

/-- opt_rand is PK.seed for DETERMINISTIC, else drawn from the DRBG (R336). -/
theorem execSlhdsaSign_signs (h : s.runsJob id j .slhSign inp) (hp : s.passes j .slhSign) :
    let p := j.entry.p 0 1
    let seed := slhSeed j.key p
    let rand := if j.entry.flag 2 then seed.drop (2 * slhN p) else s.freeNow (slhN p)
    ∃ t, exec (.slhdsaSign id inp) s = .next t
      ∧ t.endedWith id st.ok (BitVec.ofNat 64 p) (slhSig p seed rand (dsaMessage (j.entry.p 1 1) (j.entry.p 3 1)
          (inp.take (j.entry.p 2 1)) (inp.drop (j.entry.p 2 1)))) := by
  intro p seed rand
  obtain ⟨u, l, x, hx, hg⟩ := State.gated_reseeds h hp
  have hd : (if j.entry.flag 2 then s.reseed u l else (s.reseed u l).draw).job? id = some x := by
    rw [State.job?_ite, State.draw_job?, ite_self, hx]
  exact ⟨_, congrArg Host.Outcome.next ((State.runOp_of h _).trans (hg _ _)),
    State.done_ended (x := x) hd (State.job?_id h.1) _ _ _⟩

theorem execSlhdsaVerify_verifies (h : s.runsJob id j .slhVerify inp) :
    let p := j.entry.p 0 1
    let n := if j.entry.ctx = 0 then 2 * slhN p else 0
    let pk := if j.entry.ctx = 0 then inp.take n else slhPk p (slhSeed j.key p)
    let form := inp.drop (n + slhSigLen p)
    let good := slhOk p (j.entry.p 1 1) (j.entry.p 3 1) pk (form.take (j.entry.p 2 1)) (form.drop (j.entry.p 2 1))
      (slice inp n (slhSigLen p))
    ∃ t, exec (.slhdsaVerify id inp) s = .next t
      ∧ t.endedWith id (if good then st.ok else st.verifyFalse) (if good then pairTrue else pairFalse) [] := by
  intro p n pk form good
  exact ⟨_, congrArg Host.Outcome.next (State.runOp_of h _),
    State.verdict_ended (x := j) h.1 (State.job?_id h.1) good (by decide) _⟩

theorem execSlhdsaKeygenInternal_generates (h : s.runsJob id j .slhKeygenInternal inp) :
    let p := j.entry.p 0 1
    ∃ t, exec (.slhdsaKeygenInternal id inp) s = .next t
      ∧ t.endedWith id st.ok (BitVec.ofNat 64 p) (slhPk p inp ++ slhSk p inp) :=
  ⟨_, congrArg Host.Outcome.next (State.runOp_of h _), State.done_ended (x := j) h.1 (State.job?_id h.1) _ _ _⟩

end

end Sys2Proof.Machine
open Sys2Proof Sys2Proof.Machine

/-- Settles O5: each job by its own row; a keyed job's output is as long as its CHECK flag says. -/
theorem hashJobsComplete : Obligations.HashJobsComplete := by
  intro s id j inp e alg m tag key rest
  have hk : (j.keyed (bodyOf e inp)).1 = key := j.keyed_fst m
  have hr : (j.keyed (bodyOf e inp)).2 = rest := j.keyed_snd m
  refine ⟨execHash_digests, execCshake_digests, fun h hp => ?_, fun h hp => ?_⟩
  · intro out
    obtain ⟨t, ht, hn, hc⟩ := execKmac_macs h hp
    rw [hk, hr] at hn hc
    refine ⟨t, ht, fun hf => ?_, fun hf => ?_⟩
    · rw [outBytes_kmac hf] at hn
      exact hn hf
    · rw [outBytes_of_check hf] at hc
      exact hc hf
  · intro n
    obtain ⟨t, ht, hn⟩ := execHmac_macs h hp
    rw [hk, hr, outBytes_hmac] at hn
    exact ⟨t, ht, hn⟩

/-- Settles O7: each command by its own row. -/
theorem slhDsaCompletes : Obligations.SlhDsaCompletes := by
  intro s id j inp
  exact ⟨execSlhdsaKeygen_generates, execSlhdsaSign_signs, execSlhdsaVerify_verifies, execSlhdsaKeygenInternal_generates⟩
end

section
/-! Key generation of stateful keys (R280, R343 to R345). -/
namespace Sys2Proof.Machine
open Sys2Proof

/-! ### What seeding leaves of the key tree and of a running job -/

/-- A key is derived from the contexts, the log, the keeper's SEPOCH and the fuses alone (R262). -/
theorem State.reseed_deriveDown (s : State) (e : Entropy) (l : List Job) (path : List Nat) (depth : Nat) (key labels : Bytes) :
    (s.reseed e l).deriveDown path depth key labels = s.deriveDown path depth key labels := by
  induction path generalizing depth key labels with
  | nil => rfl
  | cons i path ih => exact ih ..

/-- So DRBGs and jobs leave the key of a chain. -/
theorem State.reseed_keyOf (s : State) (e : Entropy) (l : List Job) (chain : List Nat) :
    (s.reseed e l).keyOf chain = s.keyOf chain := by
  unfold State.keyOf
  split
  · rfl
  · exact State.reseed_deriveDown ..

/-- And the key of a registration. -/
theorem State.seeding_regKey (s : State) (j i : Job) (op : Op) : (s.seeding i op).regKey j = s.regKey j := by
  rw [State.seeding_eq]
  change (s.reseed _ _).regKey j = s.regKey j
  rw [State.regKey, State.reseed_keyOf]
  rfl

/-- The log record of a job's key is found in the keeper alone. -/
theorem State.seeding_jobRec (s : State) (j i : Job) (op : Op) : (s.seeding i op).jobRec j = s.jobRec j := by
  rw [State.seeding_eq]
  rfl

/-- Seeding pauses no job that runs. -/
theorem State.seeding_running {s : State} {id : Nat} {x : Job} (h : s.job? id = some x) (hr : x.phase = .running) (j : Job)
    (op : Op) : ∃ y, (s.seeding j op).job? id = some y ∧ y.phase = .running := by
  unfold State.seeding
  split
  · have hq : (if j.cls = .sc ∨ j.op = 0x0B01 then s else s.request j.inst false).job? id = some x := by
      rw [State.job?_ite, State.request_job?, ite_self, h]
    refine ⟨_, State.job?_map hq fun _ => by rfl, ?_⟩
    split
    · exact (if_neg (by simp [hr])).trans hr
    · exact hr
  · exact ⟨x, h, hr⟩

/-- The slot just written holds what was written; its grant stays (R382). -/
theorem OpStore.slot_write (o : OpStore) (a : Nat) (tag : SlotTag) (c : Bytes) :
    (o.write a tag c).slot a = { owner := (o.slot a).owner, tag, content := c } :=
  (OpStore.slot_setSlot ..).trans (if_pos rfl)

/-! ### Key generation (R280, R343, R344) -/

/-- The opcode of a stateful key generation, by its scheme. -/
def treeKeygenOp (xmss : Bool) : Op := if xmss then .xmssKeygen else .lmsKeygen

/-- The command that runs it. -/
def treeKeygenCmd (xmss : Bool) (id : Nat) : Instr := if xmss then .xmssKeygen id else .lmsKeygen id

/-- The public key of a tree under a context's key. -/
def TreeKind.publicKey (k : TreeKind) (key : Bytes) : Bytes :=
  let seed := k.seed key
  k.pk seed ((k.top seed).head?.getD [])

/-- KEY_ID of that tree. -/
def TreeKind.keyId (k : TreeKind) (key : Bytes) : Bytes := Config.sha256 (k.publicKey key)

/-- The record that a new key gets: nothing reserved, the current SEPOCH (R280). -/
def Keeper.newRec (x : Keeper) (j : Job) (k : TreeKind) (key : Bytes) (num : Nat) : SlogRec :=
  { num, keyId := k.keyId key, index := handleIndex j.entry.ctx, gen := j.crec.gen, sepoch := x.sepoch, reservedEnd := 0,
    indexLimit := if j.entry.p 8 8 = 0 then 2 ^ k.h else j.entry.p 8 8, status := .active, next := 0, exporting := false,
    nonce := [] }

/-- The record of a key that is generated again. -/
def SlogRec.renewed (r : SlogRec) : SlogRec :=
  { r with status := if r.status = .releasePending then .active else r.status }

/-- The end of a key generation: the cache at an index into the slot, the public key out (R343). -/
def State.endKeygen (s : State) (j : Job) (k : TreeKind) (key : Bytes) (next : Nat) : State :=
  let c := k.freshCache (k.seed key) (k.keyId key) (s.freeNow k.areaLen) next
  (s.draw.mapStore fun o => o.write j.entry.slotA.toNat (.tree c.1) c.2).done j 0 (k.publicKey key) (j.treeCycles k)

section
variable {s : State} {id : Nat} {j : Job}

theorem State.endKeygen_ended {x : Job} (h : s.job? id = some x) (hj : j.id = id) (k : TreeKind) (key : Bytes) (next : Nat) :
    (s.endKeygen j k key next).endedWith id st.ok 0 (k.publicKey key) :=
  State.done_ended (s := s.draw.mapStore _) (x := x) h hj 0 _ _

theorem State.endKeygen_keeper (s : State) (j : Job) (k : TreeKind) (key : Bytes) (next : Nat) :
    (s.endKeygen j k key next).keeper = s.keeper := by
  rw [State.endKeygen, State.done_keeper]
  rfl

/-- A fresh key's cache stands on its first subtree. -/
theorem State.endKeygen_tag (s : State) (j : Job) (k : TreeKind) (key : Bytes) :
    ((s.endKeygen j k key 0).store.slot j.entry.slotA.toNat).tag = .tree {
      xmss := k.xmss, type := k.type, ots := k.ots, curArea := false, curSub := 0, nextFill := 2 ^ k.b, ahead := [],
      keyId := k.keyId key } := by
  rw [State.endKeygen, State.done_store, State.mapStore_store, OpStore.slot_write]
  simp [TreeKind.freshCache]

/-- LMS and XMSS generate keys by the one row. -/
theorem exec_treeKeygenCmd {xmss : Bool} (h : s.runsJob id j (treeKeygenOp xmss) []) (hp : s.passes j (treeKeygenOp xmss)) :
    exec (treeKeygenCmd xmss id) s
      = .next ((s.seeding j (treeKeygenOp xmss)).treeKeygen { j with seeded := true } (j.tree xmss)) := by
  cases xmss with
  | false => exact congrArg Host.Outcome.next ((State.runCmd_of h _).trans (State.gated_of hp _ _))
  | true => exact congrArg Host.Outcome.next ((State.runCmd_of h _).trans (State.gated_of hp _ _))

/-- A tall tree first issues its subtree tasks, and the job runs on (R344). -/
theorem State.treeKeygen_issues {x : Job} (h : s.job? id = some x) (hr : x.phase = .running) (hj : j.id = id) {k : TreeKind}
    (ht : j.tasks = none) (hk : k.taskCount ≠ 0) :
    (∃ y, (s.treeKeygen j k).job? id = some y ∧ y.phase = .running ∧ y.tasks = some k.taskCount)
    ∧ (s.treeKeygen j k).keeper = s.keeper := by
  subst hj
  have e : s.treeKeygen j k = s.mapJob j.id fun x => { x with tasks := some k.taskCount, taskUnits := [] } := by
    rw [State.treeKeygen, ht]
    exact if_neg hk
  rw [e]
  exact ⟨⟨_, State.job?_mapJob_same h fun _ => by rfl, hr, rfl⟩, rfl⟩

/-- Without tasks to dispatch the key is registered. -/
theorem State.treeKeygen_registers {k : TreeKind} (h : j.tasks = some 0 ∨ (j.tasks = none ∧ k.taskCount = 0)) :
    s.treeKeygen j k = s.treeRegister j k := by
  obtain h | ⟨h, hk⟩ := h
  · rw [State.treeKeygen, h]
  · rw [State.treeKeygen, h]
    exact if_pos hk

section
variable {k : TreeKind} {key : Bytes} (hn : s.nvFree = true) (hkey : s.regKey j = key)
  (hc : (s.keeper.slog.any fun r => r.keyId = k.keyId key
    && (r.index ≠ handleIndex j.entry.ctx || r.status = .retired)) = false)
include hn hkey hc

/-- A new key within its tree's height, with a record free for it, is appended to the log (R280, R343). -/
theorem State.treeRegister_new (hr : s.jobRec j = none) (hl : j.entry.p 8 8 ≤ 2 ^ k.h) {n : Nat}
    (hf : s.keeper.freeRec = some n) :
    s.treeRegister j k
      = (s.mapKeeper fun x => { x with slog := x.slog ++ [s.keeper.newRec j k key n] }).endKeygen j k key 0 := by
  subst hkey
  unfold State.treeRegister
  dsimp only
  rw [hr, hf, if_neg (by simp [hl]), if_neg (by simp), if_neg, if_neg (by simp [hn])]
  · rfl
  · rintro (h | h)
    · exact Bool.false_ne_true h
    · exact Bool.false_ne_true (hc.symm.trans h)

/-- A key that has a record keeps it. -/
theorem State.treeRegister_old {r : SlogRec} (hr : s.jobRec j = some r) (hk : r.keyId = k.keyId key) :
    s.treeRegister j k = (s.mapKeeper fun x => x.mapRec r.num SlogRec.renewed).endKeygen j k key r.next := by
  subst hkey
  unfold State.treeRegister
  dsimp only
  rw [hr, if_neg (by simp), if_neg (by simp), if_neg, if_neg (by simp [hn])]
  · rfl
  · rintro (h | h)
    · exact absurd hk (of_decide_eq_true h)
    · exact Bool.false_ne_true (hc.symm.trans h)

end

end

end Sys2Proof.Machine
open Sys2Proof Sys2Proof.Machine

/-- Settles O8: the tasks of a tall tree, then the registration of a new key and of one with a record, each on the state
that seeding leaves, which has the row's keeper and derives the row's key. -/
theorem treeKeygenCompletes : Obligations.TreeKeygenCompletes := by
  intro s id j xmss k seed pk kid limit op c h hp
  have ⟨hjob, _, hrun, _⟩ := h
  have hj : j.id = id := State.job?_id hjob
  obtain ⟨x, hx, hxr⟩ := State.seeding_running hjob hrun j op
  let u := s.seeding j op
  let i := { j with seeded := true }
  have he : exec c s = .next (u.treeKeygen i k) := exec_treeKeygenCmd h hp
  have hkeep : u.keeper = s.keeper := s.seeding_keeper j op
  have hkey : u.regKey i = s.regKey j := s.seeding_regKey i j op
  have hrec : u.jobRec i = s.jobRec j := s.seeding_jobRec i j op
  refine ⟨fun ht hk => ?_, fun ht hn hc => ?_⟩
  · obtain ⟨⟨y, hy, hyr, hyt⟩, hu⟩ := State.treeKeygen_issues (j := i) hx hxr hj ht hk
    exact ⟨_, y, he, hy, hyr, hyt, hu.trans hkeep⟩
  rw [State.treeKeygen_registers (j := i) ht] at he
  have hun : u.nvFree = true := (congrArg (fun p : Power => !p.pfHold) (s.seeding_power j op)).trans hn
  have huc : (u.keeper.slog.any fun r => r.keyId = kid && (r.index ≠ handleIndex j.entry.ctx || r.status = .retired)) = false :=
    hkeep ▸ hc
  refine ⟨fun n hr hl hf => ?_, fun r hr hk => ?_⟩
  · rw [State.treeRegister_new hun hkey huc (hrec.trans hr) hl (hkeep ▸ hf)] at he
    refine ⟨_, he, State.endKeygen_ended ((u.mapKeeper_job? _ id).trans hx) hj k _ 0, ?_, State.endKeygen_tag _ i k _⟩
    rw [State.endKeygen_keeper, State.mapKeeper_keeper, hkeep]
    rfl
  · rw [State.treeRegister_old hun hkey huc (hrec.trans hr) hk] at he
    refine ⟨_, he, State.endKeygen_ended ((u.mapKeeper_job? _ id).trans hx) hj k _ _, ?_⟩
    rw [State.endKeygen_keeper, State.mapKeeper_keeper, hkeep]
    rfl
end

section
/-! Verification of LMS and XMSS signatures, and cache images (R345, R349, R350). -/
namespace Sys2Proof.Machine
open Sys2Proof

section
variable {s : State} {id : Nat} {j : Job} {inp : Bytes}

/-! ### Verification (R350) -/

/-- An LMS signature whose type fields are the key's, with an index inside the tree, gets its verdict. -/
theorem execLmsVerify_verifies (h : s.runsJob id j .lmsVerify inp) :
    let ty := j.entry.p 0 1
    let ots := j.entry.p 1 1
    let pk := inp.take (lmsPkLen ty)
    let sig := slice inp (lmsPkLen ty) (lmsSigLen ty ots)
    be32At pk 0 = ty → be32At pk 4 = ots → be32At sig 4 = ots → be32At sig (8 + lmsN ty * (otsP ots + 1)) = ty →
    be32At sig 0 < 2 ^ lmsH ty →
    let n := lmsN ty
    let good := (otsSet ots).verify (lmsH ty) (slice pk 8 16) (pk.drop 24) (slice sig 8 n)
      (inp.drop (lmsPkLen ty + lmsSigLen ty ots)) (slice sig (8 + n) (n * otsP ots))
      (sig.drop (12 + n * (otsP ots + 1))) (be32At sig 0)
    ∃ t, exec (.lmsVerify id inp) s = .next t
      ∧ t.endedWith id (if good then st.ok else st.verifyFalse) (if good then pairTrue else pairFalse) [] := by
  intro ty ots pk sig hty hots hso hst hq n good
  have hc : ¬ (be32At pk 0 ≠ ty ∨ be32At pk 4 ≠ ots ∨ be32At sig 4 ≠ ots ∨ be32At sig (8 + lmsN ty * (otsP ots + 1)) ≠ ty
      ∨ 2 ^ lmsH ty ≤ be32At sig 0) := by
    simp [hty, hots, hso, hst, hq]
  have hpath : 12 + n * (otsP ots + 1) = 4 + (8 + n * (otsP ots + 1)) := Nat.add_assoc 4 8 _
  refine ⟨_, congrArg Host.Outcome.next ((State.runOp_of h _).trans (if_neg hc)), ?_⟩
  subst good
  rw [hpath]
  exact State.verdict_ended (x := j) h.1 (State.job?_id h.1) _ (by decide) _

/-- An XMSS signature has no type fields of its own; the key's must be the job's (RFC 8391). -/
theorem execXmssVerify_verifies (h : s.runsJob id j .xmssVerify inp) :
    let ty := j.entry.p 0 1
    let pk := inp.take (xmssPkLen ty)
    let sig := slice inp (xmssPkLen ty) (xmssSigLen ty)
    be32At pk 0 = ty → be32At sig 0 < 2 ^ xmssH ty →
    let n := xmssN ty
    let good := (xmssSet ty).verify (slice pk 4 n) (slice pk (4 + n) n) (slice sig 4 n)
      (inp.drop (xmssPkLen ty + xmssSigLen ty)) (slice sig (4 + n) (n * xmssLen ty))
      (sig.drop (4 + n + n * xmssLen ty)) (be32At sig 0)
    ∃ t, exec (.xmssVerify id inp) s = .next t
      ∧ t.endedWith id (if good then st.ok else st.verifyFalse) (if good then pairTrue else pairFalse) [] := by
  intro ty pk sig hty hq n good
  have hc : ¬ (be32At pk 0 ≠ ty ∨ 2 ^ xmssH ty ≤ be32At sig 0) := by
    simp [hty, hq]
  exact ⟨_, congrArg Host.Outcome.next ((State.runOp_of h _).trans (if_neg hc)),
    State.verdict_ended (x := j) h.1 (State.job?_id h.1) good (by decide) _⟩

/-! ### Cache images (R349) -/

/-- A cache that is the key's goes out, header and content; the slot keeps it. -/
theorem execCacheSave_saves {r : SlogRec} {c : TreeCache} (h : s.runsJob id j .cacheSave []) (hr : s.jobRec j = some r)
    (hc : (s.store.slot j.entry.slotA.toNat).tag = .tree c) (hm : j.cacheTree.matches c r = true) :
    ∃ t, exec (.cacheSave id) s = .next t
      ∧ t.endedWith id st.ok 0 (j.cacheTree.header c ++ (s.store.slot j.entry.slotA.toNat).content) ∧ t.store = s.store := by
  refine ⟨_, congrArg Host.Outcome.next (State.runCmd_of h _), ?_⟩
  dsimp only
  rw [hr, hc]
  dsimp only
  rw [if_pos hm]
  exact ⟨State.done_ended (x := j) h.1 (State.job?_id h.1) 0 _ _, rfl⟩

/-- An image whose header is the key's is written where its nodes are sound, else its slot is spoiled. -/
theorem execCacheLoad_loads {r : SlogRec} {c : TreeCache} (h : s.runsJob id j .cacheLoad inp) (hr : s.jobRec j = some r)
    (hc : cacheHeader j.cacheTree inp = some c) (hm : j.cacheTree.matches c r = true) :
    let a := j.entry.slotA.toNat
    let good := j.cacheTree.sound (j.cacheTree.seed j.key) c (inp.drop 64)
    ∃ t, exec (.cacheLoad id inp) s = .next t
      ∧ (good = true → t.endedWith id st.ok 0 [] ∧ t.store = s.store.write a (.tree c) (inp.drop 64))
      ∧ (good = false → t.endedWith id st.paramRejected (j.plainResult st.paramRejected) [] ∧ t.store = s.store.spoil a) := by
  intro a good
  obtain rfl : j.id = id := State.job?_id h.1
  refine ⟨_, congrArg Host.Outcome.next (State.runOp_of h _), ?_⟩
  dsimp only
  rw [hr, hc]
  dsimp only
  rw [hm, Bool.true_and]
  refine ⟨fun hg => ?_, fun hg => ?_⟩
  · rw [if_pos hg]
    exact ⟨State.done_ended (s := s.mapStore _) (x := j) h.1 rfl 0 [] _, rfl⟩
  · rw [if_neg (by simpa [good] using hg)]
    exact ⟨State.fail_ended (s := s.mapStore _) (Option.isSome_of_eq_some h.1) st.paramRejected _, rfl⟩

end

end Sys2Proof.Machine
open Sys2Proof Sys2Proof.Machine

/-- Settles O10: each command by its own row. -/
theorem treeVerifyAndCacheComplete : Obligations.TreeVerifyAndCacheComplete := by
  intro s id j inp
  exact ⟨execLmsVerify_verifies, execXmssVerify_verifies, fun r c h hr hc hm => execCacheSave_saves h hr hc hm,
    fun r c h hr hc hm => execCacheLoad_loads h hr hc hm⟩
end

section
/-! The batch seal (R230, R351 to R354). -/
namespace Sys2Proof.Machine
open Sys2Proof

/-! ### Idle lane engines -/

/-- A change of one job that moves no unit of it and neither ends nor revives it leaves every unit as busy as it was. -/
theorem State.unitBusy_mapJob (s : State) (i : Nat) {f : Job → Job} (c : UnitClass) (u : Nat)
    (hf : ∀ x, (f x).ended = x.ended ∧ (f x).occupies c u = x.occupies c u) :
    (s.mapJob i f).unitBusy c u = s.unitBusy c u := by
  rw [State.unitBusy, State.mapJob, List.any_map]
  refine congrArg (List.any s.jobs) (funext fun x => ?_)
  dsimp only [Function.comp]
  split
  · rw [(hf x).1, (hf x).2]
  · rfl

/-- Seeding moves no unit: a job that waited for entropy keeps what it occupied. -/
theorem State.seeding_unitBusy (s : State) (j : Job) (op : Op) (c : UnitClass) (u : Nat) :
    (s.seeding j op).unitBusy c u = s.unitBusy c u := by
  unfold State.seeding State.seedJob
  split
  · refine (State.unitBusy_mapJob _ _ c u fun x => ⟨?_, by rfl⟩).trans ?_
    · by_cases hx : x.phase = .waitEntropy
      · cases hu : x.unit <;> simp [Job.ended, Job.awake, hx, hu]
      · simp [Job.ended, hx]
    · split
      · rfl
      · rfl
  · rfl

/-- So a seal waits for a lane engine after it exactly when it waits before it (R230). -/
theorem State.seeding_laneWait (s : State) (j i : Job) (op : Op) : (s.seeding i op).laneWait j = s.laneWait j := by
  have hl (b : Nat) : (s.seeding i op).idleLanes b = s.idleLanes b := by
    simp only [State.idleLanes, State.seeding_flt, State.seeding_unitBusy]
  have hb (b : Nat) : (s.seeding i op).benchUp b = s.benchUp b := by
    rw [State.seeding_eq]
    rfl
  simp only [State.laneWait, State.laneBeside, hl, hb]

section
variable {s : State} {id : Nat} {j : Job} {inp : Bytes}

/-- With its lane engine a seal's row sees the state with other DRBGs and other jobs, its own among them. -/
theorem State.runsJob.holdLane_reseeds {op : Op} (h : s.runsJob id j op inp) (i : Job) :
    ∃ e l x, (s.seeding j op).holdLane i = s.reseed e l ∧ (s.reseed e l).job? id = some x := by
  obtain ⟨x, hx⟩ := h.seeding_job?
  have he : (s.seeding j op).holdLane i = s.reseed (s.seeding j op).ent ((s.seeding j op).holdLane i).jobs := by
    rw [State.seeding_eq]
    rfl
  obtain ⟨y, hy⟩ : ∃ y, ((s.seeding j op).holdLane i).job? id = some y := ⟨_, State.job?_map hx fun _ => by rfl⟩
  exact ⟨_, _, y, he, he ▸ hy⟩

end

end Sys2Proof.Machine
open Sys2Proof Sys2Proof.Machine

/-- Settles O11: past the gate and with its lane engine the row computes statement, signatures and paths from the input and
the state; the loop of the ML-DSA signature ends with it or at its bound. -/
theorem sealCompletes : Obligations.SealCompletes := by
  intro s id j inp h hp hw c d mode hd leaves levels root stmt name p ml q
  have hj : j.id = id := State.job?_id h.1
  have hw' : ¬ (s.seeding j .seal).laneWait { j with seeded := true } = true := by
    rw [State.seeding_laneWait]
    exact Bool.eq_false_iff.1 hw
  obtain ⟨e, l, x, he, hx⟩ := h.holdLane_reseeds { j with seeded := true }
  refine ⟨_, congrArg Host.Outcome.next ((State.runOp_of h _).trans ((State.gated_of hp _ _).trans (if_neg hw'))), ?_⟩
  dsimp only
  rw [he]
  split
  · next hs =>
    exact ⟨fun _ hm => (nomatch hs.symm.trans hm), fun _ =>
      State.endWith_ended (s := (s.reseed e l).draw.draw) (x := x) hx hj (by decide) 1000 _⟩
  · next y hs =>
    refine ⟨fun z hz => ?_, fun hn => (nomatch hs.symm.trans hn)⟩
    cases hs.symm.trans hz
    exact State.done_ended (s := (s.reseed e l).draw.draw) (x := x) hx hj _ _ _
end

section
/-! Classic McEliece and HQC (R359 to R371). -/
namespace Sys2Proof.Machine
open Sys2Proof

section
variable {s : State} {id : Nat} {j : Job} {inp : Bytes}

/-! ### Classic McEliece -/

/-- The attempts of a seed end with a key pair, whose public key a slot keeps where the job names one, or at their bound,
with the operand store as it was (R365). -/
theorem execMceKeygen_generates (h : s.runsJob id j .mceKeygen []) (hp : s.passes j .mceKeygen) :
    let p := j.entry.p 0 1
    let key := mceKeys p (s.freeNow 32)
    ∃ t, exec (.mceKeygen id) s = .next t
      ∧ (∀ pk sk, key.2 = some (pk, sk) → t.endedWith id st.ok (BitVec.ofNat 64 (key.1 + 65536 * p))
            (pk ++ makeBlob j.key (j.crec.blobHeader 1 (mceSkLen p)) sk)
          ∧ t.store = (if j.entry.slotA = noSlot then s.store else s.store.write j.entry.slotA.toNat (.mce p) pk))
      ∧ (key.2 = none → t.endedWith id st.engineFault 1024 [] ∧ t.store = s.store) := by
  intro p key
  have hj : j.id = id := State.job?_id h.1
  obtain ⟨e, l, x, hx, hg⟩ := State.gated_reseeds h hp
  refine ⟨_, congrArg Host.Outcome.next ((State.runCmd_of h _).trans (hg _ _)), ?_⟩
  dsimp only
  split
  · next hk =>
    exact ⟨fun _ _ hs => (nomatch hk.symm.trans hs), fun _ =>
      ⟨State.endWith_ended (s := (s.reseed e l).draw) (x := x) hx hj (by decide) 1024 _, rfl⟩⟩
  · next pk sk hk =>
    refine ⟨fun _ _ hs => ?_, fun hn => (nomatch hk.symm.trans hn)⟩
    cases hk.symm.trans hs
    by_cases hslot : j.entry.slotA = noSlot
    · rw [if_pos hslot, if_pos hslot]
      exact ⟨State.done_ended (s := (s.reseed e l).draw) (x := x) hx hj _ _ _, rfl⟩
    · rw [if_neg hslot, if_neg hslot]
      exact ⟨State.done_ended (s := (s.reseed e l).draw.mapStore _) (x := x) hx hj _ _ _, rfl⟩

/-- A slot that holds a public key of the set stands for the input; the fixed-weight vector takes as many DRBG values as it
needs (R363, R368). -/
theorem execMceEncaps_encapsulates (h : s.runsJob id j .mceEncaps inp) (hp : s.passes j .mceEncaps)
    (ht : j.entry.slotA ≠ noSlot → (s.store.slot j.entry.slotA.toNat).tag = .mce (j.entry.p 0 1)) :
    let p := j.entry.p 0 1
    let pk := if j.entry.slotA = noSlot then inp else (s.store.slot j.entry.slotA.toNat).content
    let w := mceWeight p fun k => Config.freeBytes (s.freeCtr + k) 512
    ∃ t, exec (.mceEncaps id inp) s = .next t
      ∧ t.endedWith id st.ok 0 ((mceEncaps p pk w.1).1 ++ (mceEncaps p pk w.1).2) ∧ t.freeCtr = s.freeCtr + w.2 := by
  intro p pk w
  obtain ⟨e, l, x, hx, hg⟩ := State.gated_reseeds h hp
  have hc : ¬ (j.entry.slotA ≠ noSlot ∧ (s.store.slot j.entry.slotA.toNat).tag ≠ .mce j.set) := fun hn => hn.2 (ht hn.1)
  exact ⟨_, congrArg Host.Outcome.next ((State.runOp_of h _).trans ((if_neg hc).trans (hg _ _))),
    State.done_ended (s := (s.reseed e l).drawMany w.2) (x := x) hx (State.job?_id h.1) 0 _ _, rfl⟩

/-- A blob whose header is the context's is unwrapped: its secret decapsulates, or its tag fails (R368 to R370). -/
theorem execMceDecaps_decapsulates (h : s.runsJob id j .mceDecaps inp) (hp : s.passes j .mceDecaps) :
    let p := j.entry.p 0 1
    let blob := inp.take (blobLen (mceSkLen p))
    blobFault j.crec (mceSkLen p) blob = none →
    let good := blobOk j.key blob
    ∃ t, exec (.mceDecaps id inp) s = .next t
      ∧ (good = true → t.endedWith id st.ok 0
          (mceDecaps p (blobSecret j.key blob) (inp.drop (blobLen (mceSkLen p)))))
      ∧ (good = false → t.endedWith id st.tagFail (j.plainResult st.tagFail) []) := by
  intro p blob hb good
  have hj : j.id = id := State.job?_id h.1
  obtain ⟨e, l, x, hx, hg⟩ := State.gated_reseeds h hp
  have hb' : blobFault j.crec (mceSkLen j.set) (inp.take (blobLen (mceSkLen j.set))) = none := hb
  refine ⟨_, congrArg Host.Outcome.next (State.runOp_of h _), ?_⟩
  dsimp only
  rw [hb']
  dsimp only
  rw [hg]
  split
  · next hgood =>
    exact ⟨fun _ => State.done_ended (x := x) hx hj 0 _ _, fun hbad => absurd hgood (Bool.eq_false_iff.1 hbad)⟩
  · next hbad =>
    exact ⟨fun hgood => absurd hgood hbad, fun _ =>
      State.fail_ends (x := x) (j := { j with seeded := true }) hx hj _ _⟩

/-- A public key goes into the slot as it is (R364). -/
theorem execMcePkLoad_loads (h : s.runsJob id j .mcePkLoad inp) :
    ∃ t, exec (.mcePkLoad id inp) s = .next t ∧ t.endedWith id st.ok 0 []
      ∧ t.store = s.store.write j.entry.slotA.toNat (.mce (j.entry.p 0 1)) inp :=
  ⟨_, congrArg Host.Outcome.next (State.runOp_of h _),
    State.done_ended (s := s.mapStore _) (x := j) h.1 (State.job?_id h.1) 0 _ _, rfl⟩

/-! ### HQC -/

theorem execHqcKeygen_generates (h : s.runsJob id j .hqcKeygen []) (hp : s.passes j .hqcKeygen) :
    let p := j.entry.p 0 1
    ∃ t, exec (.hqcKeygen id) s = .next t ∧ t.endedWith id st.ok 0 (hqcPk p (hqcSeed j.key p)) := by
  obtain ⟨e, l, x, hx, hg⟩ := State.gated_reseeds h hp
  exact ⟨_, congrArg Host.Outcome.next ((State.runCmd_of h _).trans (hg _ _)),
    State.done_ended (x := x) hx (State.job?_id h.1) 0 _ _⟩

/-- Padding that is not zero ends the job with DECODE_FAIL and the byte's offset before the entropy gate; with zero padding
the row's body decides (R368). -/
theorem State.padChecked_ends {op : Op} (h : s.runsJob id j op inp) {bad : Option Nat} {n : Nat} {go : State} {out : Bytes}
    (hgo : go.endedWith id st.ok 0 out) :
    let t := match bad with
      | some i => s.endWith j st.decodeFail i n
      | none => go
    (bad = none → t.endedWith id st.ok 0 out)
      ∧ (∀ k, bad = some k → t.endedWith id st.decodeFail (BitVec.ofNat 64 k) []) := by
  cases bad with
  | none => exact ⟨fun _ => hgo, nofun⟩
  | some i =>
    refine ⟨nofun, fun k hk => ?_⟩
    cases hk
    exact State.endWith_ended (x := j) h.1 (State.job?_id h.1) (by decide) i _

/-- A public key with zero padding encapsulates the DRBG's random values. -/
theorem execHqcEncaps_encapsulates (h : s.runsJob id j .hqcEncaps inp) (hp : s.passes j .hqcEncaps) :
    let p := j.entry.p 0 1
    ∃ t, exec (.hqcEncaps id inp) s = .next t
      ∧ (hqcPadBad p 32 inp = none →
          t.endedWith id st.ok 0 (hqcCt p inp (s.freeNow 64) ++ hqcKey p inp (s.freeNow 64)))
      ∧ (∀ k, hqcPadBad p 32 inp = some k → t.endedWith id st.decodeFail (BitVec.ofNat 64 k) []) := by
  intro p
  obtain ⟨e, l, x, hx, hg⟩ := State.gated_reseeds h hp
  refine ⟨_, congrArg Host.Outcome.next (State.runOp_of h _), ?_⟩
  rw [hg]
  exact State.padChecked_ends h
    (State.done_ended (s := (s.reseed e l).draw) (x := x) hx (State.job?_id h.1) 0 _ _)

/-- A ciphertext with zero padding decapsulates, rejected implicitly where what it decrypts to does not encrypt to it
(R370). -/
theorem execHqcDecaps_decapsulates (h : s.runsJob id j .hqcDecaps inp) (hp : s.passes j .hqcDecaps) :
    let p := j.entry.p 0 1
    ∃ t, exec (.hqcDecaps id inp) s = .next t
      ∧ (hqcPadBad p 0 inp = none → t.endedWith id st.ok 0 (hqcDecaps p (hqcSeed j.key p) inp))
      ∧ (∀ k, hqcPadBad p 0 inp = some k → t.endedWith id st.decodeFail (BitVec.ofNat 64 k) []) := by
  intro p
  obtain ⟨e, l, x, hx, hg⟩ := State.gated_reseeds h hp
  refine ⟨_, congrArg Host.Outcome.next (State.runOp_of h _), ?_⟩
  rw [hg]
  exact State.padChecked_ends h (State.done_ended (x := x) hx (State.job?_id h.1) 0 _ _)

end

end Sys2Proof.Machine
open Sys2Proof Sys2Proof.Machine

/-- Settles O4: each command by its own row. -/
theorem codeBasedCompletes : Obligations.CodeBasedCompletes := by
  intro s id j inp p
  exact ⟨execMceKeygen_generates, execMceEncaps_encapsulates, execMceDecaps_decapsulates, execMcePkLoad_loads,
    execHqcKeygen_generates, execHqcEncaps_encapsulates, execHqcDecaps_decapsulates⟩
end

section
open Sys2Proof Sys2Proof.Machine

/-- Settles O1: the front of the queue decides the branch `step` takes. -/
theorem stepRunsFront : Obligations.StepRunsFront := by
  intro s c rest h
  rw [step, h]
end

section
/-! The machine after reset. -/
namespace Sys2Proof.Machine
open Sys2Proof

/-- After reset each of the eight hold domains has the reset values of its registers. -/
theorem State.reset_dom {d : Nat} (h : d < 8) : State.reset.dom d = Domain.atReset :=
  (List.getD_eq_getElem _ _ (by simpa [State.reset, Guard.atReset] using h)).trans (List.getElem_replicate _)

/-- No queue is listed, so each has the reset values of its registers (R211). -/
theorem State.reset_queue (r : QRef) : State.reset.queue r = Queue.atReset r := rfl

theorem State.reset_canonical : State.reset.canonical = true := rfl

end Sys2Proof.Machine
open Sys2Proof Sys2Proof.Machine

/-- Settles O59: registers at the values `State.reset` writes, the domains and queues by their own lemmas. -/
theorem resetState : Obligations.ResetState := by
  refine ⟨State.reset_canonical, rfl, rfl, rfl, rfl, rfl, rfl, rfl, rfl, rfl, rfl, fun d hd => ?_, rfl, rfl, rfl, rfl, rfl,
    rfl, fun r => ?_⟩
  · rw [State.reset_dom hd]
    exact ⟨rfl, rfl, rfl, rfl⟩
  · rw [State.reset_queue]
    rfl
end

section
/-! The frame of the events. -/
namespace Sys2Proof.Machine
open Sys2Proof

/-- An event is no row of a command, and none of a bus or a link. -/
theorem not_job_nor_bus_of_event {i : Instr} {l : List Field} (h : eventTouches i = some l) :
    jobTouches i = none ∧ busTouches i = none := by
  have hi : ((jobTouches i).isNone && (busTouches i).isNone || (eventTouches i).isNone) = true := by cases i <;> rfl
  simpa [h] using hi

theorem touches_of_event {i : Instr} {l : List Field} (h : eventTouches i = some l) : touches i = l := by
  obtain ⟨hj, hb⟩ := not_job_nor_bus_of_event h
  simp [touches, h, hj, hb]

end Sys2Proof.Machine
open Sys2Proof Sys2Proof.Machine

/-- Settles O49: an event's list is what its row may change. -/
theorem frameOfEvents : Obligations.FrameOfEvents := by
  intro i l s t hl he fld hf
  obtain ⟨u, hu, hk⟩ := exec_keeps s i (touches_of_event hl ▸ hf)
  cases he.symm.trans hu
  exact hk
end

section
/-!
The fuse array is one-time programmable (R453, R457): a word is only written by `burn` and `burnBad`, which keep the bits it
has, so every operation that programs or senses words keeps the bits set before it. One lemma for each such operation; the
others keep the fuses whole (`_get`).
-/
namespace Sys2Proof.Machine
open Sys2Proof

/-- Every raw fuse bit that is set in `r` is set in `s`. -/
def State.KeepsBits (r s : State) : Prop :=
  ∀ w b, (r.fuses.word w).getLsbD b = true → (s.fuses.word w).getLsbD b = true

theorem State.KeepsBits.refl (r : State) : r.KeepsBits r := fun _ _ h => h

section
variable {r s t : State}

/-- An operation that leaves the raw bits. -/
theorem State.KeepsBits.raw (h : r.KeepsBits s) (e : t.fuses.raw = s.fuses.raw) : r.KeepsBits t := fun w b hb => by
  rw [Fuses.word, e]
  exact h w b hb

/-- An operation that leaves the fuses. -/
theorem State.KeepsBits.keep (h : r.KeepsBits s) (e : t.get .fuses = s.get .fuses) : r.KeepsBits t :=
  h.raw (congrArg Fuses.raw (e : t.fuses = s.fuses))

theorem State.KeepsBits.ite {c : Prop} {_ : Decidable c} (h : r.KeepsBits s) (k : r.KeepsBits t) :
    r.KeepsBits (if c then s else t) := by
  split <;> assumption

theorem State.KeepsBits.foldl {β : Type} (h : r.KeepsBits s) (l : List β) {f : State → β → State}
    (hf : ∀ {s : State} (b : β), r.KeepsBits s → r.KeepsBits (f s b)) : r.KeepsBits (l.foldl f s) :=
  List.foldlRecOn l f h fun _ hs b _ => hf b hs

/-! ### Programming (R457, R458, R466) -/

/-- A word is programmed on top of the bits it has. -/
theorem State.KeepsBits.program (h : r.KeepsBits s) {w : Nat} {x : BitVec 39}
    (e : t.fuses.raw = s.fuses.raw.set 0 w (s.fuses.word w ||| x)) : r.KeepsBits t := fun v b hb => by
  rw [Fuses.word, e, Sparse.get_set]
  split
  · next hv =>
    subst hv
    rw [BitVec.getLsbD_or, h w b hb, Bool.true_or]
  · exact h v b hb

theorem State.KeepsBits.burn (h : r.KeepsBits s) (w : Nat) (d : BitVec 32) : r.KeepsBits (s.burn w d) := h.program rfl

theorem State.KeepsBits.burnBad (h : r.KeepsBits s) (w : Nat) : r.KeepsBits (s.burnBad w) := h.program rfl

theorem State.KeepsBits.burnAll (h : r.KeepsBits s) (l : List (Nat × BitVec 32)) : r.KeepsBits (s.burnAll l) :=
  h.foldl l fun p hs => hs.burn p.1 p.2

theorem State.KeepsBits.burnTrip (h : r.KeepsBits s) (l : List (Nat × BitVec 32)) : r.KeepsBits (s.burnTrip l) :=
  h.foldl l fun _ hs => hs.burnAll _

theorem State.KeepsBits.burnSeq (h : r.KeepsBits s) (bad : Option Nat) (l : List (Nat × BitVec 32)) :
    r.KeepsBits (State.burnSeq bad l s).1 := by
  induction l generalizing s with
  | nil => exact h
  | cons p l ih =>
    unfold State.burnSeq
    split
    · exact h.burnBad p.1
    · exact ih (h.burn p.1 p.2)

theorem State.KeepsBits.of_burnSeq (h : r.KeepsBits s) {bad : Option Nat} {l : List (Nat × BitVec 32)} {w : Option Nat}
    (e : State.burnSeq bad l s = (t, w)) : r.KeepsBits t := by
  have hb := h.burnSeq bad l
  rwa [e] at hb

theorem State.KeepsBits.fuseFail (h : r.KeepsBits s) (j : Job) (c w : Nat) : r.KeepsBits (s.fuseFail j c w) :=
  h.keep (by simp)

theorem State.KeepsBits.done (h : r.KeepsBits s) (j : Job) (n : Nat) (b : Bytes) (c : Nat) : r.KeepsBits (s.done j n b c) :=
  h.keep (by simp)

theorem State.KeepsBits.generateRoots (h : r.KeepsBits s) (j : Job) (bad : Option Nat) :
    r.KeepsBits (s.generateRoots j bad) := by
  have h0 : r.KeepsBits s.scDraw := h.keep (by simp)
  unfold State.generateRoots
  dsimp only
  split
  · exact h.fuseFail _ _ _
  · split
    · next e1 => exact (h0.of_burnSeq e1).fuseFail _ _ _
    · next e1 =>
      split
      · next e2 => exact ((h0.of_burnSeq e1).of_burnSeq e2).fuseFail _ _ _
      · next e2 => exact ((h0.of_burnSeq e1).of_burnSeq e2).done _ _ _ _

theorem State.KeepsBits.tripProgram (h : r.KeepsBits s) (j : Job) (l : List (Nat × BitVec 32)) (bad : Option Nat)
    {go : State → State} (hg : ∀ {s : State}, r.KeepsBits s → r.KeepsBits (go s)) : r.KeepsBits (s.tripProgram j l bad go) := by
  unfold State.tripProgram
  split
  · exact h.fuseFail _ _ _
  · split
    · next e => exact (h.of_burnSeq e).fuseFail _ _ _
    · next e => exact hg (h.of_burnSeq e)

theorem State.KeepsBits.transition (h : r.KeepsBits s) (j : Job) (tgt : LcState) (bad : Option Nat) :
    r.KeepsBits (s.transition j tgt bad) :=
  h.tripProgram j _ bad fun {s} hs => State.KeepsBits.keep (State.KeepsBits.raw (t := s.redecode) hs rfl) (by simp)

theorem State.KeepsBits.finishConfirm (h : r.KeepsBits s) (c svn : Nat) (roll : Bool) :
    r.KeepsBits (s.finishConfirm c svn roll) := (h.burnAll _).keep rfl

/-! ### Root disable and the major response (R472, R488 to R491) -/

theorem State.KeepsBits.disableRoot (h : r.KeepsBits s) (e : Nat) : r.KeepsBits (s.disableRoot e) := by
  have hb := h.burnTrip [(336 + 2 + e, rootDisableData)]
  unfold State.disableRoot
  exact hb.keep (by simp)

theorem State.KeepsBits.orderDisable (h : r.KeepsBits s) : r.KeepsBits s.orderDisable :=
  (h.disableRoot _).ite (h.keep (by simp))

theorem State.KeepsBits.majorRun (h : r.KeepsBits s) (code : BitVec 16) (cls detail : Nat) :
    r.KeepsBits (s.majorRun code cls detail) := by
  unfold State.majorRun
  extract_lets pol cut jobs s1 s2 s3 s4 s5 s6 s7 s8 s9
  have h8 : r.KeepsBits s8 := h.keep (by simp +zetaDelta)
  exact State.KeepsBits.keep (h8.orderDisable.ite h8) (State.setFlt_get _ _ (by simp))

theorem State.KeepsBits.majorTamper (h : r.KeepsBits s) (code : BitVec 16) (cls detail : Nat) :
    r.KeepsBits (s.majorTamper code cls detail) :=
  (h.keep (by simp)).ite ((h.keep (by simp)).ite (h.majorRun _ _ _))

theorem State.KeepsBits.faultEvent (h : r.KeepsBits s) {c obj : Nat} {b : Bool} (e : s.faultEvent c obj = (t, b)) :
    r.KeepsBits t := h.keep (State.faultEvent_of e (by simp))

theorem State.KeepsBits.unitFaultEvent (h : r.KeepsBits s) (c : Nat × Nat × Nat) (n : Nat) :
    r.KeepsBits (s.unitFaultEvent c n) := by
  obtain ⟨cls, obj, unit⟩ := c
  have h1 : r.KeepsBits ((s.log 0x0703 1 cls unit (n % 65536)).setFlt 8) := h.keep (by simp)
  unfold State.unitFaultEvent
  dsimp only
  split
  · next e => exact h1.faultEvent e
  · next e => exact ((h1.faultEvent e).majorTamper _ _ _).ite ((h1.faultEvent e).keep (by simp))

theorem State.KeepsBits.minor (h : r.KeepsBits s) (cls : Nat) : r.KeepsBits (s.minor cls) := by
  unfold State.minor
  extract_lets hit drop t s1
  have h1 : r.KeepsBits s1 := h.keep (by simp +zetaDelta)
  split
  · next e => exact h1.faultEvent e
  · next e => exact (h1.faultEvent e).majorTamper _ _ _

theorem State.KeepsBits.begin (h : r.KeepsBits s) (code : Nat) {run : State → State}
    (hr : ∀ {s : State}, r.KeepsBits s → r.KeepsBits (run s)) : r.KeepsBits (s.begin code run) :=
  hr (h.keep (State.mapFlt_get _ _ (by simp)))

theorem State.KeepsBits.minorBegins (h : r.KeepsBits s) (cls : Nat) : r.KeepsBits (s.minorBegins cls) :=
  (State.KeepsBits.minor (h.keep (State.mapFlt_get _ _ (by simp))) cls).ite h

/-! ### Sensing (R65 to R67) -/

theorem State.KeepsBits.finishSense (h : r.KeepsBits s) : r.KeepsBits s.finishSense := h.raw s.finishSense_words.1

end

/-! ### The rows -/

/-- The outcome is a next state in which every raw fuse bit of `r` is set. -/
def State.KeptBy (r : State) (o : Host.Outcome State Fault Refusal) : Prop := ∃ t, o = .next t ∧ r.KeepsBits t

section
variable {r s : State}

theorem State.KeepsBits.next (h : r.KeepsBits s) : r.KeptBy (.next s) := ⟨s, rfl, h⟩

theorem keptBy_ite {c : Prop} {_ : Decidable c} {a b : Host.Outcome State Fault Refusal} (ha : r.KeptBy a) (hb : r.KeptBy b) :
    r.KeptBy (if c then a else b) := by
  split <;> assumption

/-- A job's row: its body runs, or nothing happens. -/
theorem State.KeepsBits.row (h : r.KeepsBits s) {id : Nat} {op : Op} {inp : Bytes} {run : State → Job → State}
    (hr : ∀ j, r.KeepsBits (run s j)) : r.KeptBy (.next (s.runOp id op inp run)) := by
  rcases s.runOp_cases id op inp run with e | ⟨j, -, e⟩
  · exact (e ▸ h).next
  · exact (e ▸ hr j).next

/-- The same for a row that waits while non-volatile changes may not begin. -/
theorem State.KeepsBits.nvRow (h : r.KeepsBits s) {id : Nat} {op : Op} {inp : Bytes} {run : State → Job → State}
    (hr : ∀ j, r.KeepsBits (run s j)) : r.KeptBy (.next (s.nvOp id op inp run)) := by
  unfold State.nvOp
  split
  · exact h.row hr
  · exact h.next

/-- A row whose list has no fuses. -/
theorem State.KeepsBits.keptRow (h : r.KeepsBits s) {i : Instr} (hi : (touches i).all (· != .fuses) = true) :
    r.KeptBy (exec i s) := by
  have hn : Field.fuses ∉ touches i := fun hm => absurd (List.all_eq_true.1 hi _ hm) (by decide)
  obtain ⟨t, ht, hf⟩ := exec_keeps s i hn
  exact ⟨t, ht, h.keep hf⟩

theorem execFuseProgram_keepsBits (h : r.KeepsBits s) (id : Nat) (inp : Bytes) (bad : Option Nat) :
    r.KeptBy (execFuseProgram id inp bad s) := h.nvRow fun j => by
  have hg : r.KeepsBits (s.gated j .fuseProgram (s.phaseCycles j) fun s j => s.generateRoots j bad) := by
    rcases s.gated_cases j .fuseProgram (s.phaseCycles j) fun s j => s.generateRoots j bad with e | e | e
    · exact e ▸ State.KeepsBits.generateRoots (h.keep (by simp)) _ _
    · exact e ▸ h.keep (by simp)
    · exact e ▸ h.keep (by simp)
  refine hg.ite (State.KeepsBits.ite (h.keep (by simp)) ?_)
  split
  · exact h.fuseFail _ _ _
  · split
    · next e => exact (h.of_burnSeq e).fuseFail _ _ _
    · next e => exact (h.of_burnSeq e).done _ _ _ _

theorem execFuseLock_keepsBits (h : r.KeepsBits s) (id : Nat) (bad : Option Nat) :
    r.KeptBy (execFuseLock id bad s) := h.nvRow fun j => by
  dsimp only
  split
  · exact h.fuseFail _ _ _
  · split
    · exact h.fuseFail _ _ _
    · split
      · next e => exact (h.of_burnSeq e).fuseFail _ _ _
      · next e => exact (h.of_burnSeq e).done _ _ _ _

theorem execLcTransition_keepsBits (h : r.KeepsBits s) (id : Nat) (inp : Bytes) (bad : Option Nat) :
    r.KeptBy (execLcTransition id inp s bad) := h.nvRow fun j => by
  have hn : r.KeepsBits (s.useNonce inp) := h.keep (by simp)
  refine State.KeepsBits.ite ?_ (h.transition _ _ _)
  split
  · exact hn.keep (by simp)
  · exact hn.transition _ _ _

theorem execOwnerTransfer_keepsBits (h : r.KeepsBits s) (id : Nat) (bad : Option Nat) :
    r.KeptBy (execOwnerTransfer id s bad) :=
  h.nvRow fun j => h.tripProgram j _ bad fun {s} hs => State.KeepsBits.keep (State.KeepsBits.raw (t := s.redecode) hs rfl)
    (by simp)

theorem execSpoilNow_keepsBits (h : r.KeepsBits s) (id : Nat) : r.KeptBy (execSpoilNow id s) := h.row fun j => by
  extract_lets s1 s2 s3 s4
  have h4 : r.KeepsBits s4 := h.keep (by simp +zetaDelta)
  exact (h4.orderDisable.ite h4).done _ _ _ _

theorem execVinRestored_keepsBits (h : r.KeepsBits s) (mv : Nat) (straps : Straps) (chk : KeeperCheck) :
    r.KeptBy (execVinRestored mv straps chk s) := by
  unfold execVinRestored
  extract_lets s1 s2 s3
  have h3 : r.KeepsBits s3.holdLatched := h.keep (by simp +zetaDelta)
  exact keptBy_ite h.next (State.KeepsBits.next (h3.ite ((h3.majorTamper _ _ _).ite (h3.keep (by simp)))))

/-- The roll-forward that waits leaves the words. -/
theorem State.KeepsBits.rolling (h : r.KeepsBits s) :
    r.KeepsBits (((s.mapFuses fun f => { f with busy := true }).mapBoot fun b => { b with stage := .rolling }).setCode 0x0005 1) := by
  have hb : r.KeepsBits (s.mapFuses fun f => { f with busy := true }) := h.raw rfl
  exact hb.keep (by simp)

theorem execFusesSensed_keepsBits (h : r.KeepsBits s) (m : List MarginRead) : r.KeptBy (execFusesSensed m s) := by
  unfold execFusesSensed
  generalize List.range 8192 = words
  extract_lets s1 s2
  have h0 : r.KeepsBits (s.senseAll m) := h.raw (s.senseAll_raw m)
  have h1 : r.KeepsBits s1 := h0.keep (State.setCode_get _ _ _ (by simp))
  have h2 : r.KeepsBits s2 := h1.foldl _ fun _ hs => hs.keep (by simp)
  refine keptBy_ite h.next (State.KeepsBits.next ?_)
  split
  · exact h2.rolling
  · exact State.KeepsBits.finishSense (h2.keep (by simp))
  · exact h2.finishSense

theorem execLcRollForward_keepsBits (h : r.KeepsBits s) : r.KeptBy (execLcRollForward s) := by
  refine (h.ite ?_).next
  split
  · next jn _ =>
    extract_lets s1
    have h1 : r.KeepsBits s1 := (h.burnAll jn.targets).raw rfl
    exact State.KeepsBits.finishSense (h1.keep (by simp))
  · exact h

theorem execRootDisableAtStart_keepsBits (h : r.KeepsBits s) : r.KeptBy (execRootDisableAtStart s) := by
  refine State.KeepsBits.next ?_
  split
  · next e _ => exact ((h.disableRoot e).keep (by simp)).ite h
  · exact h

theorem execRootDisablePending_keepsBits (h : r.KeepsBits s) : r.KeptBy (execRootDisablePending s) := by
  refine State.KeepsBits.next ?_
  split
  · exact (h.disableRoot _).ite h
  · exact h

theorem execBundleVerify_keepsBits (h : r.KeepsBits s) (low ok : Bool) : r.KeptBy (execBundleVerify low s ok) := by
  unfold execBundleVerify
  extract_lets s1 m runs s2
  have h0 : r.KeepsBits (s.badPatches.foldl (fun s d => s.logEvent 0x0104 d) s) := h.foldl _ fun _ hs => hs.keep (by simp)
  have h1 : r.KeepsBits s1 := h0.raw rfl
  have h2 : r.KeepsBits s2 := h1.ite (h1.keep (by simp))
  exact keptBy_ite h.next (keptBy_ite (h.keep (by simp)).next (h2.keep (by simp)).next)

theorem execActivationRollForward_keepsBits (h : r.KeepsBits s) : r.KeptBy (execActivationRollForward s) := by
  have h0 : r.KeepsBits (s.setCode 0x0005 2) := h.keep (by simp)
  refine State.KeepsBits.next ?_
  split
  · exact h
  · next jn _ =>
    exact h.ite ((State.KeepsBits.ite (h0.keep (by simp)) (h0.keep (by simp))).ite (State.KeepsBits.ite (h0.keep (by simp))
      (((h0.finishConfirm jn.component jn.svn true).keep (by simp)).ite (h0.keep (by simp)))))

theorem execConfirmationRun_keepsBits (h : r.KeepsBits s) : r.KeptBy (execConfirmationRun s) := by
  refine State.KeepsBits.next ?_
  split
  · next jn _ => exact ((h.finishConfirm jn.component jn.svn false).keep (by simp)).ite h
  · exact h

theorem execJobComplete_keepsBits (h : r.KeepsBits s) (id : Nat) (fault : UnitFault) (ecc : Option SramWord) :
    r.KeptBy (execJobComplete id fault ecc s) := by
  refine State.KeepsBits.next ?_
  split
  · exact h
  · refine h.ite ?_
    extract_lets j1 engine res s1 s2 s3
    have h1 : r.KeepsBits s1 := h.keep (by simp +zetaDelta)
    have h2 : r.KeepsBits s2 := ((h1.unitFaultEvent (s1.faultOf j1) res).keep (by simp)).ite h1
    have h3 : r.KeepsBits s3 := h2.keep (by cases ecc <;> simp +zetaDelta)
    split
    · exact h3
    · extract_lets j4 s4
      have h4 : r.KeepsBits s4 := h3.keep (by simp +zetaDelta)
      split
      · exact h3
      · exact h4.keep (by simp)

theorem execLockstep_keepsBits (h : r.KeepsBits s) : r.KeptBy (execLockstep s) := by
  have h1 : r.KeepsBits ((s.setFlt 4).faultEvent 3 0).1 := h.keep (by simp)
  exact ((h1.majorTamper _ _ _).ite (State.KeepsBits.ite (h.keep (by simp)) h)).next

/-- The rows that may write a fuse word by their lemmas, the others because their list has no fuses. -/
theorem exec_keepsBits (h : r.KeepsBits s) (i : Instr) : r.KeptBy (exec i s) := by
  cases i
  case fuseProgram => exact execFuseProgram_keepsBits h _ _ _
  case fuseLock => exact execFuseLock_keepsBits h _ _
  case lcTransition => exact execLcTransition_keepsBits h _ _ _
  case ownerTransfer => exact execOwnerTransfer_keepsBits h _ _
  case spoilNow => exact execSpoilNow_keepsBits h _
  case vinRestored => exact execVinRestored_keepsBits h _ _ _
  case fusesSensed m => exact execFusesSensed_keepsBits h m
  case lcRollForward => exact execLcRollForward_keepsBits h
  case rootDisableAtStart => exact execRootDisableAtStart_keepsBits h
  case rootDisablePending => exact execRootDisablePending_keepsBits h
  case bundleVerify => exact execBundleVerify_keepsBits h _ _
  case activationRollForward => exact execActivationRollForward_keepsBits h
  case confirmationRun => exact execConfirmationRun_keepsBits h
  case jobComplete => exact execJobComplete_keepsBits h _ _ _
  case lidMesh => exact ((h.begin _ fun hs => hs.majorTamper _ _ _).ite h).next
  case loopMismatch => exact ((h.begin _ fun hs => hs.majorTamper _ _ _).ite h).next
  case voltageMinor => exact (h.minorBegins _).next
  case clockMinor => exact (h.minorBegins _).next
  case tempMinor => exact ((h.minorBegins _).ite h).next
  case minorPersist => exact ((h.minor _).ite h).next
  case lockstep => exact execLockstep_keepsBits h
  all_goals exact h.keptRow rfl

end

end Sys2Proof.Machine
open Sys2Proof Sys2Proof.Machine

/-- Settles O57: an idle step leaves the fuses, and every command's row keeps the bits that are set. -/
theorem fusesAreOneTimeProgrammable : Obligations.FusesAreOneTimeProgrammable := by
  intro s t h
  suffices hk : s.KeepsBits t from hk
  unfold step at h
  split at h
  · cases h
    exact (State.KeepsBits.refl s).keep (by simp)
  · next i l _ =>
    obtain ⟨u, hu, ht⟩ := exec_keepsBits (r := s) (s := { s with pending := l }) (fun _ _ hb => hb) i
    cases hu.symm.trans h
    exact ht
end

section
/-! The curve commands (R384 to R393). -/
namespace Sys2Proof.Machine
open Sys2Proof

section
variable {s : State} {id : Nat} {j : Job} {inp : Bytes}

theorem State.endedWith.of_eq {s t : State} {c : Status} {r : BitVec 64} {b : Bytes} (h : t.endedWith id c r b)
    (e : s = t) : s.endedWith id c r b := e ▸ h

/-! ### Keys and signatures -/

theorem execEcKeygen_generates (h : s.runsJob id j .ecKeygen []) (hp : s.passes j .ecKeygen) :
    ∃ t, exec (.ecKeygen id) s = .next t ∧ t.endedWith id st.ok 0 (s.ecPk j.key (j.entry.p 0 1)) := by
  obtain ⟨e, l, x, hx, hg⟩ := State.gated_reseeds h hp
  exact ⟨_, congrArg Host.Outcome.next ((State.runCmd_of h _).trans (hg _ _)),
    State.done_ended (x := x) hx (State.job?_id h.1) 0 _ _⟩

/-- The attempts of a signature count the DRBG's values from the state's own; RESULT tells how many they were (R390). -/
theorem execEcdsaSign_signs (h : s.runsJob id j .ecdsaSign inp) (hp : s.passes j .ecdsaSign) :
    let c := j.entry.p 0 1
    let r := s.ecdsaTry (s.weier c) (weierScalar (s.weier c).n (s.ecSecret j.key c)) (decide (j.entry.p 1 1 = 1))
      (j.entry.p 3 1) inp
    ∃ t, exec (.ecdsaSign id inp) s = .next t
      ∧ t.endedWith id st.ok (BitVec.ofNat 64 (r.1 % 65536 + 65536 * c)) (encodeSig (s.curveLn c) r.2.1 r.2.2) := by
  intro c r
  obtain ⟨e, l, x, hx, hg⟩ := State.gated_reseeds h hp
  refine ⟨_, congrArg Host.Outcome.next ((State.runOp_of h _).trans (hg _ _)), ?_⟩
  refine State.done_ended (x := x) ?_ (State.job?_id h.1) _ _ _
  rw [State.job?_ite]
  split
  · exact hx
  · exact hx

/-- A public key without a fault and a signature in range get their verdict; the context's own key is not checked (R392). -/
theorem execEcdsaVerify_verifies (h : s.runsJob id j .ecdsaVerify inp) :
    let c := j.entry.p 0 1
    let w := s.weier c
    let n := if j.entry.ctx ≠ 0 then 0 else s.ecPkLen c
    let pk := if j.entry.ctx ≠ 0 then s.ecPk j.key c else inp.take n
    let r := slice inp n (s.curveLn c)
    let v := slice inp (n + s.curveLn c) (s.curveLn c)
    (j.entry.ctx = 0 → s.pointFault c pk = none) → 1 ≤ beNat r → beNat r < w.n → 1 ≤ beNat v → beNat v < w.n →
    let good := w.verify (decodePoint (s.curveL c) pk) (leftBits w.n (inp.drop (n + 2 * s.curveLn c))) (beNat r) (beNat v)
    ∃ t, exec (.ecdsaVerify id inp) s = .next t
      ∧ t.endedWith id (if good then st.ok else st.verifyFalse) (if good then pairTrue else pairFalse) [] := by
  intro c w n pk r v hpk hr1 hr2 hv1 hv2 good
  have hf : (if j.entry.ctx ≠ 0 then none else s.pointFault c pk) = none := by
    split
    · rfl
    · next hc => exact hpk (Decidable.not_not.1 hc)
  have hrange : ¬ ((!decide (1 ≤ beNat r ∧ beNat r < w.n) || !decide (1 ≤ beNat v ∧ beNat v < w.n)) = true) := by
    simp [hr1, hr2, hv1, hv2]
  refine ⟨_, congrArg Host.Outcome.next (State.runOp_of h _), ?_⟩
  simp only [decide_eq_true_eq]
  change State.endedWith (match (if j.entry.ctx ≠ 0 then none else s.pointFault c pk) with
    | some f => _
    | none => _) _ _ _ _
  rw [hf]
  exact (State.verdict_ended (x := j) h.1 (State.job?_id h.1) good (by decide) _).of_eq (if_neg hrange)

theorem execEddsaSign_signs (h : s.runsJob id j .eddsaSign inp) (hp : s.passes j .eddsaSign) :
    let e := j.entry
    ∃ t, exec (.eddsaSign id inp) s = .next t ∧ t.endedWith id st.ok 0 ((edwards (e.p 0 1)).sign
      (s.ecSecret j.key (e.p 0 1)) (e.p 1 1) (inp.take (e.p 2 1)) (inp.drop (e.p 2 1))) := by
  obtain ⟨e, l, x, hx, hg⟩ := State.gated_reseeds h hp
  exact ⟨_, congrArg Host.Outcome.next ((State.runOp_of h _).trans (hg _ _)),
    State.done_ended (x := x) hx (State.job?_id h.1) 0 _ _⟩

/-- What decodes gets its verdict, anything else ends with DECODE_FAIL (R391, R392). -/
theorem execEddsaVerify_verifies (h : s.runsJob id j .eddsaVerify inp) :
    let e := j.entry
    let c := e.p 0 1
    let n := if e.ctx ≠ 0 then 0 else s.ecPkLen c
    let pk := if e.ctx ≠ 0 then s.ecPk j.key c else inp.take n
    let sig := slice inp n (s.ecSigLen c)
    let form := inp.drop (n + s.ecSigLen c)
    let decodes := (edwards c).decodes pk sig
    let good := (edwards c).verify pk sig (e.p 1 1) (form.take (e.p 2 1)) (form.drop (e.p 2 1))
    ∃ t, exec (.eddsaVerify id inp) s = .next t
      ∧ (decodes = true → t.endedWith id (if good then st.ok else st.verifyFalse) (if good then pairTrue else pairFalse) [])
      ∧ (decodes = false → t.endedWith id st.decodeFail 0 []) := by
  intro e c n pk sig form decodes good
  have hj : j.id = id := State.job?_id h.1
  refine ⟨_, congrArg Host.Outcome.next (State.runOp_of h _), ?_⟩
  simp only [decide_eq_true_eq]
  refine ⟨fun hd => ?_, fun hd => ?_⟩
  · have hc : ¬ (!decodes) = true := by simp [hd]
    exact (State.verdict_ended (x := j) h.1 hj good (by decide) _).of_eq (if_neg hc)
  · have hc : (!decodes) = true := by simp [hd]
    exact (State.endWith_ended (x := j) h.1 hj (by decide) 0 _).of_eq (if_pos hc)

/-! ### Shared values and checks -/

/-- A peer's key without a fault gives the shared value; the zero check ends the job after it (R392, R393). -/
theorem execEcdh_agrees (h : s.runsJob id j .ecdh inp) (hp : s.passes j .ecdh)
    (hf : isWeier (j.entry.p 0 1) = true → s.pointFault (j.entry.p 0 1) inp = none) :
    let c := j.entry.p 0 1
    let z := s.ecShared j.key c inp
    let zero := isXdh c && j.entry.flag 2 && decide (z = zeros (s.curveL c))
    ∃ t, exec (.ecdh id inp) s = .next t
      ∧ (zero = false → t.endedWith id st.ok 0 z)
      ∧ (zero = true → t.endedWith id st.invalidPoint (j.plainResult st.invalidPoint) []) := by
  intro c z zero
  have hj : j.id = id := State.job?_id h.1
  have hn : (if isWeier j.curve = true then s.pointFault j.curve inp else none) = none := by
    split
    · next hw => exact hf hw
    · rfl
  obtain ⟨e, l, x, hx, hg⟩ := State.gated_reseeds h hp
  refine ⟨_, congrArg Host.Outcome.next (State.runOp_of h _), ?_⟩
  dsimp only
  rw [hn]
  dsimp only
  rw [hg]
  exact ⟨fun hz => (State.done_ended (x := x) hx hj 0 z _).of_eq (if_neg (Bool.eq_false_iff.1 hz)),
    fun hz => (State.fail_ends (x := x) (j := { j with seeded := true }) hx hj _ _).of_eq (if_pos hz)⟩

theorem execEcValidate_validates (h : s.runsJob id j .ecValidate inp) :
    ∃ t, exec (.ecValidate id inp) s = .next t
      ∧ (s.pointFault (j.entry.p 0 1) inp = none → t.endedWith id st.ok pairTrue [])
      ∧ ∀ f, s.pointFault (j.entry.p 0 1) inp = some f →
          t.endedWith id st.verifyFalse (pairFalse ||| (f.zeroExtend 64 <<< 32)) [] := by
  obtain rfl : j.id = id := State.job?_id h.1
  refine ⟨_, congrArg Host.Outcome.next (State.runOp_of h _), fun hf => ?_, fun f hf => ?_⟩
  · have hf' : s.pointFault j.curve inp = none := hf
    rw [hf']
    exact State.finish_ended h.1 st.ok _ [] _
  · have hf' : s.pointFault j.curve inp = some f := hf
    rw [hf']
    exact State.finish_ended h.1 st.verifyFalse _ [] _

/-! ### CURVE_LOAD (R386) -/

/-- The form of a set that the nine checks apply to. -/
def curveForm (b : Bytes) : Bool :=
  let l := leNat (slice b 6 2)
  let ln := leNat (slice b 8 2)
  slice b 0 6 = leBytes 4 0x56524350 ++ leBytes 2 1 && slice b 11 5 = zeros 5 && decide (20 ≤ l ∧ l ≤ 128 ∧ 20 ≤ ln ∧ ln ≤ l + 1)

/-- A well-formed set of the right length is judged by the nine checks, and installed where its entry may still take it. -/
theorem execCurveLoad_installs (h : s.runsJob id j .curveLoad inp) (hform : curveForm inp = true)
    (hlen : inp.length = 16 + 5 * leNat (slice inp 6 2) + leNat (slice inp 8 2)) :
    let k := j.entry.p 1 1
    ∃ t, exec (.curveLoad id inp) s = .next t
      ∧ (curveFault inp = none → s.tables.curves.get [] k = [] ∨ (j.entry.flag 2 = true ∧ s.curveInUse k = false) →
          t.endedWith id st.ok 0 [] ∧ t.tables.curves = s.tables.curves.set [] k inp)
      ∧ (curveFault inp = none → s.tables.curves.get [] k ≠ [] → j.entry.flag 2 = false ∨ s.curveInUse k = true →
          t.endedWith id st.stateRefused (s.refusedWord j.fn 0) [] ∧ t.tables.curves = s.tables.curves)
      ∧ (∀ n, curveFault inp = some n → t.endedWith id st.paramRejected (BitVec.ofNat 64 n) []
          ∧ t.tables.curves = s.tables.curves) := by
  intro k
  obtain rfl : j.id = id := State.job?_id h.1
  refine ⟨_, congrArg Host.Outcome.next ((State.runOp_of h _).trans
    ((if_neg (by simpa [curveForm] using hform)).trans (if_neg (not_not_intro hlen)))), ?_, ?_, ?_⟩
  · intro hf hk
    rw [hf]
    dsimp only
    rw [if_neg (by rcases hk with hk | ⟨h2, hu⟩ <;> simp_all [k])]
    exact ⟨State.done_ended (s := s.mapTables _) (x := j) h.1 rfl 0 [] _, rfl⟩
  · intro hf hk hu
    rw [hf]
    dsimp only
    rw [if_pos ⟨hk, hu⟩]
    exact ⟨State.finish_ended h.1 st.stateRefused _ [] _, rfl⟩
  · intro n hf
    rw [hf]
    exact ⟨State.endWith_ended (x := j) h.1 rfl (by decide) n _, rfl⟩

end

end Sys2Proof.Machine
open Sys2Proof Sys2Proof.Machine

/-- Settles O12: each command by its own row. -/
theorem curveCommandsComplete : Obligations.CurveCommandsComplete := by
  intro s id j inp e c d w n pk
  refine ⟨execEcKeygen_generates, execEcdsaSign_signs, execEcdsaVerify_verifies, execEcdh_agrees, execEddsaSign_signs,
    execEddsaVerify_verifies, execEcValidate_validates, fun h hm hz hl hl' hn hn' hlen => ?_⟩
  exact execCurveLoad_installs h (by simp [curveForm, hm, hz, hl, hl', hn, hn']) hlen
end

section
/-! RSA and modular arithmetic (R394 to R399). -/
namespace Sys2Proof.Machine
open Sys2Proof

/-! ### Integers -/

/-- Any y below the modulus that a takes to 1 is the inverse (R399). -/
theorem inverse_eq {m a y : Nat} (hg : Nat.gcd a m = 1) (hy : y < m) (h : a * y % m = 1 % m) : inverse m a = y := by
  have hm : (0 : Int) < m := by omega
  have hbez : (a * Nat.gcdA a m : Int) ≡ 1 [ZMOD m] := by
    have hb := Nat.gcd_eq_gcd_ab a m
    rw [hg] at hb
    rw [Int.modEq_iff_dvd]
    exact ⟨Nat.gcdB a m, by push_cast at hb; linarith⟩
  have hay : (a * y : Int) ≡ 1 [ZMOD m] := by
    have := (Int.natCast_modEq_iff (n := m)).2 (show a * y ≡ 1 [MOD m] from h)
    simpa using this
  have hinv : Nat.gcdA a m ≡ y [ZMOD m] := calc
    Nat.gcdA a m ≡ Nat.gcdA a m * (a * y) [ZMOD m] := by simpa using (hay.mul_left (Nat.gcdA a m)).symm
    _ = a * Nat.gcdA a m * y := by ring
    _ ≡ y [ZMOD m] := by simpa using hbez.mul_right y
  have hmod : Nat.gcdA a m % (m : Int) = y := by
    rw [hinv, Int.emod_eq_of_lt (by omega) (by omega)]
  rw [inverse, hmod, Int.toNat_natCast]

/-- A good modulus and operands below it have no fault. -/
theorem modFault_eq_none {m : Nat} {l : List Nat} (h2 : m % 2 = 1) (h1 : 1 < m) (hl : ∀ x ∈ l, x < m) :
    modFault m l = none := by
  have hi : l.findIdx (fun x => decide (m ≤ x)) = l.length :=
    List.findIdx_eq_length_of_false fun x hx => by simpa using hl x hx
  unfold modFault
  rw [if_neg (by omega)]
  exact if_neg (by simp [hi])

section
variable {s : State} {id : Nat} {j : Job} {inp : Bytes}

/-! ### RSA -/

/-- The search for the second prime, from the candidate after the last of the first search `p`, once that found one. -/
def secondPrime (k e limit i : Nat) (p : Nat × Option Nat) : Nat × Option Nat :=
  match p.2 with
  | some x => rsaPrime (4 * k) e x limit (i + p.1) 0
  | none => (0, none)

/-- How a key generation ends after the searches `p` and `q` for the two primes. -/
def State.endPrimes (s : State) (j : Job) (p q : Nat × Option Nat) : State :=
  let k := j.entry.p 0 2
  let n := p.1 + q.1
  match p.2, q.2 with
  | some x, some y =>
    let key := rsaKeyOf k (j.entry.p 4 4) x y
    (s.drawMany n).done j (n + 65536 * rsaParam k) (slice key 4 k ++ makeBlob j.key (j.crec.blobHeader 1 (rsaKeyLen k)) key)
      (rsaGenCycles k n)
  | _, _ => (s.drawMany n).endWith j st.engineFault (n + 65536 * rsaParam k) (rsaGenCycles k n)

section
variable {x : Job} (hx : s.job? id = some x) (hj : j.id = id) {p q : Nat × Option Nat}
include hx hj

/-- A search that reached its limit ends the job with ENGINE_FAULT and the candidates tried (R397). -/
theorem State.endPrimes_fails (h : p.2 = none ∨ q.2 = none) :
    (s.endPrimes j p q).endedWith id st.engineFault (BitVec.ofNat 64 (p.1 + q.1 + 65536 * rsaParam (j.entry.p 0 2))) [] := by
  unfold State.endPrimes
  dsimp only
  split
  · next hp hq =>
    rcases h with h | h
    · nomatch hp.symm.trans h
    · nomatch hq.symm.trans h
  · exact State.endWith_ended (s := s.drawMany _) (x := x) hx hj (by decide) _ _

theorem State.endPrimes_ends {a b : Nat} (hp : p.2 = some a) (hq : q.2 = some b) :
    let k := j.entry.p 0 2
    let key := rsaKeyOf k (j.entry.p 4 4) a b
    (s.endPrimes j p q).endedWith id st.ok (BitVec.ofNat 64 (p.1 + q.1 + 65536 * rsaParam k))
      (slice key 4 k ++ makeBlob j.key (j.crec.blobHeader 1 (rsaKeyLen k)) key) := by
  intro k key
  unfold State.endPrimes
  rw [hp, hq]
  exact State.done_ended (s := s.drawMany _) (x := x) hx hj _ _ _

end

/-- Both searches end with a prime, or the first or the second reaches its limit of 5 · nlen / 2 = 20 · k candidates
(R397). -/
theorem execRsaKeygen_generates (h : s.runsJob id j .rsaKeygen []) (hp : s.passes j .rsaKeygen) :
    let k := j.entry.p 0 2
    let limit := 20 * k
    let p := rsaPrime (4 * k) (j.entry.p 4 4) 0 limit s.freeCtr 0
    ∃ t, exec (.rsaKeygen id) s = .next t
      ∧ (p.2 = none → t.endedWith id st.engineFault (BitVec.ofNat 64 (p.1 + 65536 * rsaParam k)) [])
      ∧ (∀ x, p.2 = some x →
        let q := rsaPrime (4 * k) (j.entry.p 4 4) x limit (s.freeCtr + p.1) 0
        let n := p.1 + q.1
        (q.2 = none → t.endedWith id st.engineFault (BitVec.ofNat 64 (n + 65536 * rsaParam k)) [])
        ∧ (∀ y, q.2 = some y →
          let key := rsaKeyOf k (j.entry.p 4 4) x y
          t.endedWith id st.ok (BitVec.ofNat 64 (n + 65536 * rsaParam k))
            (slice key 4 k ++ makeBlob j.key (j.crec.blobHeader 1 (rsaKeyLen k)) key))) := by
  intro k
  rw [show 20 * k = 5 * (8 * k) / 2 by omega]
  intro limit p
  have hj : j.id = id := State.job?_id h.1
  obtain ⟨e, l, x, hx, hg⟩ := State.gated_reseeds h hp
  have he : exec (.rsaKeygen id) s = .next ((s.reseed e l).endPrimes { j with seeded := true } p
      (secondPrime k (j.entry.p 4 4) limit s.freeCtr p)) :=
    congrArg Host.Outcome.next ((State.runCmd_of h _).trans (hg _ _))
  refine ⟨_, he, fun hn => ?_, fun a ha => ?_⟩
  · rw [secondPrime, hn]
    exact State.endPrimes_fails (q := (0, none)) hx hj (.inl hn)
  · rw [secondPrime, ha]
    exact ⟨fun hn => State.endPrimes_fails hx hj (.inr hn), fun b hb => State.endPrimes_ends hx hj ha hb⟩

/-- A blob whose header is the context's fills the slot where its tag is good (R398). -/
theorem execRsaKeyLoad_loads (h : s.runsJob id j .rsaKeyLoad inp) (hp : s.passes j .rsaKeyLoad)
    (hb : blobFault j.crec (rsaKeyLen (j.entry.p 0 2)) inp = none) :
    let good := blobOk j.key inp
    ∃ t, exec (.rsaKeyLoad id inp) s = .next t
      ∧ (good = true → t.endedWith id st.ok (BitVec.ofNat 64 (rsaParam (j.entry.p 0 2))) []
          ∧ t.store = s.store.write j.entry.slotA.toNat (.rsa (handleIndex j.entry.ctx) j.crec.gen) (blobSecret j.key inp))
      ∧ (good = false → t.endedWith id st.tagFail (j.plainResult st.tagFail) [] ∧ t.store = s.store) := by
  intro good
  have hj : j.id = id := State.job?_id h.1
  have hb' : blobFault j.crec (rsaKeyLen j.modLen) inp = none := hb
  obtain ⟨e, l, x, hx, hg⟩ := State.gated_reseeds h hp
  refine ⟨_, congrArg Host.Outcome.next (State.runOp_of h _), ?_⟩
  dsimp only
  rw [hb']
  dsimp only
  rw [hg]
  split
  · next hgood =>
    exact ⟨fun _ => ⟨State.done_ended (s := (s.reseed e l).mapStore _) (x := x) hx hj _ _ _, rfl⟩,
      fun hbad => absurd hgood (Bool.eq_false_iff.1 hbad)⟩
  · next hbad =>
    exact ⟨fun hgood => absurd hgood hbad, fun _ =>
      ⟨State.fail_ends (x := x) (j := { j with seeded := true }) hx hj _ _, rfl⟩⟩

/-- An input below the modulus whose secret power the public exponent takes back is answered with that power. -/
theorem State.rsaRun_answers {x : Job} (hx : s.job? id = some x) (hj : j.id = id) {key c : Bytes}
    (hlt : beNat c < beNat (slice key 4 (j.entry.p 0 2)))
    (hpow : powMod (beNat (slice key 4 (j.entry.p 0 2))) (rsaCrt (j.entry.p 0 2) key (beNat c)) (key.take 4) = beNat c)
    (n : Nat) :
    (s.rsaRun j key c n).endedWith id st.ok (BitVec.ofNat 64 (rsaParam (j.entry.p 0 2)))
      (beBytes (j.entry.p 0 2) (rsaCrt (j.entry.p 0 2) key (beNat c))) :=
  (State.done_ended hx hj _ _ _).of_eq ((if_neg (Nat.not_le.2 hlt)).trans (if_neg (not_not_intro hpow)))

/-- With SLOT_A the key is the slot's. -/
theorem execRsaPrivate_slot (h : s.runsJob id j .rsaPrivate inp) (hp : s.passes j .rsaPrivate) (hs : j.entry.slotA ≠ noSlot)
    (ht : (s.store.slot j.entry.slotA.toNat).tag = .rsa (handleIndex j.entry.ctx) j.crec.gen) :
    let k := j.entry.p 0 2
    let key := (s.store.slot j.entry.slotA.toNat).content
    beNat inp < beNat (slice key 4 k) → powMod (beNat (slice key 4 k)) (rsaCrt k key (beNat inp)) (key.take 4) = beNat inp →
    ∃ t, exec (.rsaPrivate id inp) s = .next t
      ∧ t.endedWith id st.ok (BitVec.ofNat 64 (rsaParam k)) (beBytes k (rsaCrt k key (beNat inp))) := by
  intro k key hlt hpow
  have hj : j.id = id := State.job?_id h.1
  obtain ⟨e, l, x, hx, hg⟩ := State.gated_reseeds h hp
  exact ⟨_, congrArg Host.Outcome.next ((State.runOp_of h _).trans ((if_pos hs).trans ((if_neg (not_not_intro ht)).trans
    ((if_neg (Nat.not_le.2 hlt)).trans (hg _ _))))),
    State.rsaRun_answers (j := { j with seeded := true }) hx hj hlt hpow _⟩

/-- Without SLOT_A the key is that of the blob that leads the input. -/
theorem execRsaPrivate_blob (h : s.runsJob id j .rsaPrivate inp) (hp : s.passes j .rsaPrivate) (hs : j.entry.slotA = noSlot) :
    let k := j.entry.p 0 2
    let n := blobLen (rsaKeyLen k)
    let key := blobSecret j.key (inp.take n)
    let x := beNat (inp.drop n)
    blobFault j.crec (rsaKeyLen k) (inp.take n) = none →
    ∃ t, exec (.rsaPrivate id inp) s = .next t
      ∧ (blobOk j.key (inp.take n) = false → t.endedWith id st.tagFail (j.plainResult st.tagFail) [])
      ∧ (blobOk j.key (inp.take n) = true → x < beNat (slice key 4 k) →
          powMod (beNat (slice key 4 k)) (rsaCrt k key x) (key.take 4) = x →
          t.endedWith id st.ok (BitVec.ofNat 64 (rsaParam k)) (beBytes k (rsaCrt k key x))) := by
  intro k n key v hb
  have hj : j.id = id := State.job?_id h.1
  have hb' : blobFault j.crec (rsaKeyLen j.modLen) (inp.take (blobLen (rsaKeyLen j.modLen))) = none := hb
  obtain ⟨e, l, x, hx, hg⟩ := State.gated_reseeds h hp
  refine ⟨_, congrArg Host.Outcome.next ((State.runOp_of h _).trans (if_neg (not_not_intro hs))), ?_⟩
  dsimp only
  rw [hb']
  dsimp only
  rw [hg]
  exact ⟨fun hbad => (State.fail_ends (x := x) (j := { j with seeded := true }) hx hj _ _).of_eq
      (if_neg (Bool.eq_false_iff.1 hbad)),
    fun hgood hlt hpow => (State.rsaRun_answers (j := { j with seeded := true }) hx hj hlt hpow _).of_eq (if_pos hgood)⟩

theorem execRsaPublic_answers (h : s.runsJob id j .rsaPublic inp) :
    let k := j.entry.p 0 2
    let x := beNat (inp.drop (4 + k))
    let n := beNat (slice inp 4 k)
    n % 2 = 1 → slice inp 4 1 ≠ [0] → x < n → beNat (inp.take 4) % 2 = 1 → 3 ≤ beNat (inp.take 4) →
    ∃ t, exec (.rsaPublic id inp) s = .next t ∧ t.endedWith id st.ok 0 (beBytes k (powMod n x (inp.take 4))) := by
  intro k x n hn hlead hx he he3
  have hn' : ¬ (n % 2 = 0 ∨ slice inp 4 1 = [0]) := not_or.2 ⟨by omega, hlead⟩
  have he' : ¬ (beNat (inp.take 4) % 2 = 0 ∨ beNat (inp.take 4) < 3) := by omega
  exact ⟨_, congrArg Host.Outcome.next ((State.runOp_of h _).trans ((if_neg hn').trans ((if_neg (Nat.not_le.2 hx)).trans
    (if_neg he')))), State.done_ended (x := j) h.1 (State.job?_id h.1) 0 _ _⟩

/-! ### Modular arithmetic -/

theorem execModexp_answers (h : s.runsJob id j .modexp inp) (hp : s.passes j .modexp) :
    let k := j.entry.p 0 2
    let m := beNat (inp.take k)
    let b := beNat (slice inp k k)
    m % 2 = 1 → 1 < m → b < m →
    ∃ t, exec (.modexp id inp) s = .next t ∧ t.endedWith id st.ok 0 (beBytes k (powMod m b (inp.drop (2 * k)))) := by
  intro k m b h2 h1 hb
  have hf : modFault (beNat (inp.take j.modLen)) [beNat (slice inp j.modLen j.modLen)] = none :=
    modFault_eq_none h2 h1 (List.forall_mem_singleton.2 hb)
  obtain ⟨e, l, x, hx, hg⟩ := State.gated_reseeds h hp
  refine ⟨_, congrArg Host.Outcome.next (State.runOp_of h _), ?_⟩
  dsimp only
  rw [hf]
  exact (State.done_ended (x := x) hx (State.job?_id h.1) 0 _ _).of_eq (hg _ _)

theorem execModmul_answers (h : s.runsJob id j .modmul inp) (hp : s.passes j .modmul) :
    let k := j.entry.p 0 2
    let m := beNat (inp.take k)
    let x := beNat (slice inp k k)
    let y := beNat (inp.drop (2 * k))
    m % 2 = 1 → 1 < m → x < m → y < m →
    ∃ t, exec (.modmul id inp) s = .next t ∧ t.endedWith id st.ok 0 (beBytes k (x * y % m)) := by
  intro k m a b h2 h1 ha hb
  have hf : modFault (beNat (inp.take j.modLen)) [beNat (slice inp j.modLen j.modLen), beNat (inp.drop (2 * j.modLen))] = none :=
    modFault_eq_none h2 h1 (List.forall_mem_cons.2 ⟨ha, List.forall_mem_singleton.2 hb⟩)
  obtain ⟨e, l, x, hx, hg⟩ := State.gated_reseeds h hp
  refine ⟨_, congrArg Host.Outcome.next (State.runOp_of h _), ?_⟩
  dsimp only
  rw [hf]
  exact (State.done_ended (x := x) hx (State.job?_id h.1) 0 _ _).of_eq (hg _ _)

/-- With no common factor the inverse, else OPERAND_RANGE with 0x80 (R399). -/
theorem execModinv_answers (h : s.runsJob id j .modinv inp) (hp : s.passes j .modinv) :
    let k := j.entry.p 0 2
    let m := beNat (inp.take k)
    let x := beNat (inp.drop k)
    m % 2 = 1 → 1 < m → x < m →
    ∃ t, exec (.modinv id inp) s = .next t
      ∧ (Nat.gcd x m = 1 → ∀ y, y < m → x * y % m = 1 % m → t.endedWith id st.ok 0 (beBytes k y))
      ∧ (Nat.gcd x m ≠ 1 → t.endedWith id st.operandRange 0x80 []) := by
  intro k m a h2 h1 ha
  have hj : j.id = id := State.job?_id h.1
  have hf : modFault (beNat (inp.take j.modLen)) [beNat (inp.drop j.modLen)] = none :=
    modFault_eq_none h2 h1 (List.forall_mem_singleton.2 ha)
  obtain ⟨e, l, x, hx, hg⟩ := State.gated_reseeds h hp
  refine ⟨_, congrArg Host.Outcome.next (State.runOp_of h _), ?_⟩
  dsimp only
  rw [hf]
  dsimp only
  rw [hg]
  refine ⟨fun hgcd y hy hxy => ?_, fun hgcd => ?_⟩
  · rw [← inverse_eq hgcd hy hxy]
    exact (State.done_ended (x := x) hx hj 0 _ _).of_eq (if_neg (not_not_intro hgcd))
  · exact (State.endWith_ended (x := x) hx hj (by decide) 0x80 _).of_eq (if_pos hgcd)

end

end Sys2Proof.Machine
open Sys2Proof Sys2Proof.Machine

/-- Settles O13: each command by its own row. -/
theorem rsaAndModularComplete : Obligations.RsaAndModularComplete := by
  intro s id j inp e k a
  exact ⟨execRsaKeygen_generates, execRsaKeyLoad_loads, execRsaPrivate_slot, execRsaPrivate_blob, execRsaPublic_answers,
    execModexp_answers, execModmul_answers, execModinv_answers⟩
end

section
/-! The compatibility sequencer (R404 to R408). -/
namespace Sys2Proof.Machine
open Sys2Proof

section
variable {s : State} {id : Nat} {j : Job} {inp : Bytes}

/-- A signed image of a known signer takes its entry of the program table (R408). -/
theorem execDxProgramLoad_loads (h : s.runsJob id j .dxProgramLoad inp) (hform : dxFormOk inp = true) :
    let n := leNat (slice inp 12 4)
    let pk := slice inp (64 + n) 2592
    let known := (List.range 8).any fun i => s.keyFills false i pk
    let good := mldsa87Ok pk "PETHAL-DX500" (inp.take (64 + n)) (slice inp (2656 + n) 4627)
    ∃ t, exec (.dxProgramLoad id inp) s = .next t
      ∧ (known = false → t.endedWith id st.paramRejected (j.plainResult st.paramRejected) [])
      ∧ (known = true → good = false → t.endedWith id st.verifyFalse pairFalse [])
      ∧ (known = true → good = true → t.endedWith id st.ok pairTrue []
          ∧ (t.tables.dxProgs.lookup (j.entry.p 0 1)).map DxProg.code = some (slice inp 64 n)) := by
  intro n pk known good
  obtain rfl : j.id = id := State.job?_id h.1
  refine ⟨_, congrArg Host.Outcome.next ((State.runOp_of h _).trans (if_neg (by simp [hform]))), fun hk => ?_,
    fun hk hg => ?_, fun hk hg => ?_⟩
  · have hc : (!known) = true := by simp [hk]
    exact (State.fail_ends (x := j) h.1 rfl _ _).of_eq (if_pos hc)
  · have hc : ¬ (!known) = true := by simp [hk]
    have hb : (!good) = true := by simp [hg]
    exact (State.finish_ended h.1 st.verifyFalse _ [] _).of_eq ((if_neg hc).trans (if_pos hb))
  · have hc : ¬ (!known) = true := by simp [hk]
    have hb : ¬ (!good) = true := by simp [hg]
    rw [if_neg hc, if_neg hb]
    exact ⟨State.finish_ended (s := s.mapTables _) h.1 st.ok _ [] _,
      congrArg (Option.map DxProg.code) List.lookup_cons_self⟩

/-- A run replaces the registers, may add seals, and ends as the program says; it takes a DRBG value where the program needs
one. -/
theorem execDxRun_runs {pr : DxProg} {seals : BitVec 32} (h : s.runsJob id j .dxRun []) (hp : s.passes j .dxRun)
    (hpr : s.tables.dxProgs.lookup (j.entry.p 0 1) = some pr) (hs : (s.store.slot j.entry.slotA.toNat).tag = .dx seals) :
    let a := j.entry.slotA.toNat
    let ins := [pr.code, (s.store.slot a).content, leBytes 4 seals.toNat, if pr.needsEntropy then s.freeNow 32 else []]
    let status := Config.primCount .dxStatus ins % 65536
    ∃ t, exec (.dxRun id) s = .next t
      ∧ t.store = s.store.write a (.dx (seals ||| BitVec.ofNat 32 (Config.primCount .dxSeal ins))) (Config.prim .dxRun ins 16384)
      ∧ (status = 0 → t.endedWith id st.ok 0 []) ∧ (status ≠ 0 → t.endedWith id st.paramRejected (BitVec.ofNat 64 status) []) := by
  intro a ins status
  have hj : j.id = id := State.job?_id h.1
  obtain ⟨e, l, x, hx, hg⟩ := State.gated_reseeds h hp
  have hx' : (if pr.needsEntropy then (s.reseed e l).draw else s.reseed e l).job? id = some x := by
    split
    · exact hx
    · exact hx
  have hst : (if pr.needsEntropy then (s.reseed e l).draw else s.reseed e l).store = s.store := by
    split
    · rfl
    · rfl
  refine ⟨_, congrArg Host.Outcome.next (State.runCmd_of h _), ?_⟩
  dsimp only
  rw [hpr, hs]
  dsimp only
  rw [hg]
  refine ⟨?_, fun hz => ?_, fun hz => ?_⟩
  · refine (apply_ite State.store _ _ _).trans ?_
    rw [State.done_store, State.endWith_store, ite_self, State.mapStore_store, hst]
    rfl
  · exact (State.done_ended (s := (if pr.needsEntropy then (s.reseed e l).draw else s.reseed e l).mapStore _) (x := x) hx' hj 0
      [] _).of_eq (if_pos hz)
  · exact (State.endWith_ended (s := (if pr.needsEntropy then (s.reseed e l).draw else s.reseed e l).mapStore _) (x := x) hx' hj
      (by decide) status _).of_eq (if_neg hz)

/-- The register bytes `old` with `inp` written at `off`. -/
def regsWith (off : Nat) (inp old : Bytes) : Bytes := old.take off ++ inp ++ old.drop (off + inp.length)

/-- An EMPTY slot becomes a register slot. -/
theorem execDxSlotWrite_empty (h : s.runsJob id j .dxSlotWrite inp) (ht : (s.store.slot j.entry.slotA.toNat).tag = .empty) :
    ∃ t, exec (.dxSlotWrite id inp) s = .next t ∧ t.endedWith id st.ok 0 []
      ∧ t.store = s.store.write j.entry.slotA.toNat (.dx 0) (regsWith (512 * j.entry.p 1 1) inp (zeros 16384)) := by
  refine ⟨_, congrArg Host.Outcome.next (State.runOp_of h _), ?_⟩
  dsimp only
  rw [ht]
  exact ⟨State.done_ended (s := s.mapStore _) (x := j) h.1 (State.job?_id h.1) 0 [] _, rfl⟩

/-- A register slot keeps its other registers and their seals. -/
theorem execDxSlotWrite_regs {seals : BitVec 32} (h : s.runsJob id j .dxSlotWrite inp)
    (ht : (s.store.slot j.entry.slotA.toNat).tag = .dx seals) :
    let a := j.entry.slotA.toNat
    ∃ t, exec (.dxSlotWrite id inp) s = .next t ∧ t.endedWith id st.ok 0 []
      ∧ t.store = s.store.write a (.dx (seals &&& ~~~ regMask j.entry))
          (regsWith (512 * j.entry.p 1 1) inp (s.store.slot a).content) := by
  refine ⟨_, congrArg Host.Outcome.next (State.runOp_of h _), ?_⟩
  dsimp only
  rw [ht]
  exact ⟨State.done_ended (s := s.mapStore _) (x := j) h.1 (State.job?_id h.1) 0 [] _, rfl⟩

theorem execDxSlotRead_reads {seals : BitVec 32} (h : s.runsJob id j .dxSlotRead [])
    (ht : (s.store.slot j.entry.slotA.toNat).tag = .dx seals) :
    let e := j.entry
    ∃ t, exec (.dxSlotRead id) s = .next t
      ∧ (seals &&& regMask e = 0 →
          t.endedWith id st.ok 0 (slice (s.store.slot e.slotA.toNat).content (512 * e.p 1 1) (512 * e.p 2 1)))
      ∧ (seals &&& regMask e ≠ 0 → t.endedWith id st.keyPolicy (j.plainResult st.keyPolicy) []) := by
  intro e
  have hj : j.id = id := State.job?_id h.1
  refine ⟨_, congrArg Host.Outcome.next (State.runCmd_of h _), ?_⟩
  dsimp only
  rw [ht]
  exact ⟨fun hz => (State.done_ended (x := j) h.1 hj 0 _ _).of_eq (if_neg (not_not_intro hz)),
    fun hz => (State.fail_ends (x := j) h.1 hj _ _).of_eq (if_pos hz)⟩

end

end Sys2Proof.Machine
open Sys2Proof Sys2Proof.Machine

/-- Settles O14: each command by its own row. -/
theorem sequencerCompletes : Obligations.SequencerCompletes := by
  intro s id j inp e a
  exact ⟨execDxProgramLoad_loads, fun pr seals h hp hpr hs => execDxRun_runs h hp hpr hs,
    fun h => ⟨fun ht => execDxSlotWrite_empty h ht, fun seals ht => execDxSlotWrite_regs h ht⟩,
    fun seals h ht => execDxSlotRead_reads h ht⟩
end

section
/-! The AES commands (R409 to R413). -/
namespace Sys2Proof.Machine
open Sys2Proof

section
variable {s : State} {id : Nat} {j : Job} {inp : Bytes}

/-- The key of an AES job, of `n` bytes at the head of the input when CTX is zero, and the rest (R410). -/
theorem Job.aes_eq (j : Job) (n : Nat) (inp : Bytes) :
    j.aes n inp = (if decide (j.entry.ctx ≠ 0) then j.key else inp.take n, if decide (j.entry.ctx ≠ 0) then inp else inp.drop n) := by
  simp only [Job.aes, decide_eq_true_eq, ne_eq, ite_not]
  split
  · rfl
  · rfl

/-- The end of a job leaves the bytes it has written. -/
theorem State.finish_written {x : Job} (h : s.job? id = some x) (c : Status) (r : BitVec 64) (b : Bytes) (n : Nat) :
    ∃ y, (s.finish id c r b n).job? id = some y ∧ y.written = x.written := by
  have h1 : (s.leavePort id).job? id = some x := h
  have h2 := State.job?_mapJobs (p := fun j => j.waitsLeaf (s.job? id)) (f := Job.wake) h1 fun _ => rfl
  refine ⟨_, State.job?_mapJob_same (f := fun j => j.finish c r b n) h2 fun _ => rfl, ?_⟩
  split
  · rfl
  · rfl

theorem execGcmEncrypt_encrypts (h : s.runsJob id j .gcmEncrypt inp) (hp : s.passes j .gcmEncrypt) :
    let e := j.entry
    let own : Bool := decide (e.ctx ≠ 0)
    let key := if own then j.key else inp.take 32
    let rest := if own then inp else inp.drop 32
    let gen := e.flag 2
    let iv := if gen then s.freeNow 12 else rest.take 12
    let body := if gen then rest else rest.drop 12
    let aad := body.take (e.p 0 4)
    let p := body.drop (e.p 0 4)
    ∃ t, exec (.gcmEncrypt id inp) s = .next t
      ∧ t.endedWith id st.ok 0 ((if gen then iv else []) ++ gcmCrypt key iv p
          ++ (gcmTag key iv aad (gcmCrypt key iv p)).take (e.p 4 1)) := by
  intro e own key rest gen iv body aad p
  have hj : j.id = id := State.job?_id h.1
  obtain ⟨f, l, x, hx, hg⟩ := State.gated_reseeds h hp
  refine ⟨_, congrArg Host.Outcome.next ((State.runOp_of h _).trans (hg _ _)), ?_⟩
  rw [Job.aes_eq]
  refine State.done_ended (x := x) ?_ hj 0 _ _
  rw [State.job?_ite]
  split
  · exact hx
  · exact hx

/-- A good tag gives the plaintext, a bad one zeros in its place (R238, R412). -/
theorem execGcmDecrypt_decrypts (h : s.runsJob id j .gcmDecrypt inp) (hp : s.passes j .gcmDecrypt) :
    let e := j.entry
    let own : Bool := decide (e.ctx ≠ 0)
    let key := if own then j.key else inp.take 32
    let rest := if own then inp else inp.drop 32
    let body := rest.drop 12
    let n := body.length - e.p 0 4 - e.p 4 1
    let ct := slice body (e.p 0 4) n
    let good := gcmOk key (rest.take 12) (body.take (e.p 0 4)) ct (body.drop (e.p 0 4 + n))
    ∃ t, exec (.gcmDecrypt id inp) s = .next t
      ∧ (good = true → t.endedWith id st.ok pairTrue (gcmCrypt key (rest.take 12) ct))
      ∧ (good = false → t.endedWith id st.tagFail pairFalse [] ∧ ∃ x, t.job? id = some x ∧ x.written = zeros n) := by
  intro e own key rest body n ct good
  obtain rfl : j.id = id := State.job?_id h.1
  obtain ⟨f, l, x, hx, hg⟩ := State.gated_reseeds h hp
  refine ⟨_, congrArg Host.Outcome.next ((State.runOp_of h _).trans (hg _ _)), ?_⟩
  rw [Job.aes_eq]
  refine ⟨fun hgood => (State.finish_ended hx st.ok pairTrue _ _).of_eq (if_pos hgood), fun hbad => ?_⟩
  have hz := State.job?_mapJob_same (f := fun x => { x with written := zeros n }) hx fun _ => by rfl
  have hc : ¬ good = true := Bool.eq_false_iff.1 hbad
  refine ⟨(State.finish_ended hz st.tagFail pairFalse [] _).of_eq (if_neg hc), ?_⟩
  obtain ⟨y, hy, hw⟩ := State.finish_written hz st.tagFail pairFalse [] _
  exact ⟨y, (congrArg (State.job? · j.id) (if_neg hc)).trans hy, hw⟩

/-- Both directions: with equal halves of the key the job fails after its count (R411, R412). -/
theorem execXts_crypts (enc : Bool) :
    let own : Bool := decide (j.entry.ctx ≠ 0)
    let op : Op := if enc then .xtsEncrypt else .xtsDecrypt
    let c : Instr := if enc then .xtsEncrypt id inp else .xtsDecrypt id inp
    let k2 := if own then Config.kmac256 j.key (Config.ascii "AES-XTS") 64 (Config.ascii "PETHAL-SEED") else inp.take 64
    let m := if own then inp else inp.drop 64
    s.runsJob id j op inp → s.passes j op →
    ∃ t, exec c s = .next t
      ∧ (k2.take 32 ≠ k2.drop 32 → t.endedWith id st.ok 0 (xtsCrypt (!enc) k2 (leBytes 16 (j.entry.p 8 16)) m))
      ∧ (k2.take 32 = k2.drop 32 → t.endedWith id st.paramRejected (j.plainResult st.paramRejected) []) := by
  intro own op c k2 m h hp
  have hj : j.id = id := State.job?_id h.1
  obtain ⟨f, l, x, hx, hg⟩ := State.gated_reseeds h hp
  have he : exec c s = .next ((s.reseed f l).xts { j with seeded := true } (!enc) inp) := by
    cases enc with
    | false => exact congrArg Host.Outcome.next ((State.runOp_of h _).trans (hg _ _))
    | true => exact congrArg Host.Outcome.next ((State.runOp_of h _).trans (hg _ _))
  have hk : (if j.entry.ctx = 0 then (if own then j.key else inp.take 64)
      else Config.kmac256 (if own then j.key else inp.take 64) (Config.ascii "AES-XTS") 64 (Config.ascii "PETHAL-SEED")) = k2 := by
    by_cases hc : j.entry.ctx = 0
    · have ho : own = false := decide_eq_false (not_not_intro hc)
      simp only [k2, ho, if_pos hc, Bool.false_eq_true, if_false]
    · have ho : own = true := decide_eq_true hc
      simp only [k2, ho, if_neg hc, if_true]
  refine ⟨_, he, ?_⟩
  unfold State.xts
  rw [Job.aes_eq]
  dsimp only
  rw [hk]
  exact ⟨fun hd => (State.done_ended (x := x) hx hj 0 _ _).of_eq (if_neg hd),
    fun hd => (State.fail_ends (x := x) (j := { j with seeded := true }) hx hj _ _).of_eq (if_pos hd)⟩

theorem execKwWrap_wraps (h : s.runsJob id j .kwWrap inp) (hp : s.passes j .kwWrap) :
    let e := j.entry
    let own : Bool := decide (e.ctx ≠ 0)
    let key := if own then j.key else inp.take 32
    let rest := if own then inp else inp.drop 32
    ∃ t, exec (.kwWrap id inp) s = .next t
      ∧ t.endedWith id st.ok 0 (if e.p 5 1 = 0 then kwWrap key rest else kwpWrap key rest) := by
  intro e own key rest
  obtain ⟨f, l, x, hx, hg⟩ := State.gated_reseeds h hp
  refine ⟨_, congrArg Host.Outcome.next ((State.runOp_of h _).trans (hg _ _)), ?_⟩
  rw [Job.aes_eq]
  exact State.done_ended (x := x) hx (State.job?_id h.1) 0 _ _

theorem execKwUnwrap_unwraps (h : s.runsJob id j .kwUnwrap inp) (hp : s.passes j .kwUnwrap) :
    let e := j.entry
    let own : Bool := decide (e.ctx ≠ 0)
    let key := if own then j.key else inp.take 32
    let rest := if own then inp else inp.drop 32
    let out := if e.p 5 1 = 1 then kwpUnwrap key rest else kwUnwrap key rest
    ∃ t, exec (.kwUnwrap id inp) s = .next t
      ∧ (∀ m, out = some m → t.endedWith id st.ok 0 m)
      ∧ (out = none → t.endedWith id st.tagFail (j.plainResult st.tagFail) []) := by
  intro e own key rest out
  have hj : j.id = id := State.job?_id h.1
  obtain ⟨f, l, x, hx, hg⟩ := State.gated_reseeds h hp
  refine ⟨_, congrArg Host.Outcome.next ((State.runOp_of h _).trans (hg _ _)), ?_⟩
  rw [Job.aes_eq]
  dsimp only
  split
  · next m hm =>
    refine ⟨fun m' hm' => ?_, fun hn => (nomatch hm.symm.trans hn)⟩
    cases hm.symm.trans hm'
    exact State.done_ended (x := x) hx hj 0 _ _
  · next hn =>
    exact ⟨fun m hm => (nomatch hn.symm.trans hm), fun _ =>
      State.fail_ends (x := x) (j := { j with seeded := true }) hx hj _ _⟩

theorem execCmac_answers (h : s.runsJob id j .cmac inp) (hp : s.passes j .cmac) :
    let e := j.entry
    let own : Bool := decide (e.ctx ≠ 0)
    let key := if own then j.key else inp.take 32
    let rest := if own then inp else inp.drop 32
    let n := e.p 4 1
    let m := if e.flag 2 then rest.take (rest.length - n) else rest
    let tag := (aesCmac key m).take n
    let good := decide (tag = rest.drop (rest.length - n))
    ∃ t, exec (.cmac id inp) s = .next t
      ∧ (e.flag 2 = false → t.endedWith id st.ok 0 tag)
      ∧ (e.flag 2 = true → t.endedWith id (if good then st.ok else st.tagFail) (if good then pairTrue else pairFalse) []) := by
  intro e own key rest n m tag good
  have hj : j.id = id := State.job?_id h.1
  obtain ⟨f, l, x, hx, hg⟩ := State.gated_reseeds h hp
  refine ⟨_, congrArg Host.Outcome.next ((State.runOp_of h _).trans (hg _ _)), ?_⟩
  rw [Job.aes_eq]
  exact ⟨fun hc => (State.done_ended (x := x) hx hj 0 tag _).of_eq (if_neg (Bool.eq_false_iff.1 hc)),
    fun hc => (State.verdict_ended (x := x) hx hj good (by decide) _).of_eq (if_pos hc)⟩

end

end Sys2Proof.Machine
open Sys2Proof Sys2Proof.Machine

/-- Settles O15: each command by its own row. -/
theorem aesCommandsComplete : Obligations.AesCommandsComplete := by
  intro s id j inp e own key rest
  exact ⟨execGcmEncrypt_encrypts, execGcmDecrypt_decrypts, execXts_crypts, execKwWrap_wraps, execKwUnwrap_unwraps,
    execCmac_answers⟩
end

section
/-! The digest register unit (R415 to R432). -/
namespace Sys2Proof.Machine
open Sys2Proof

section
variable {s : State}

/-! ### Reach and ownership (R416, R420) -/

/-- Both sides reach the unit while the host's BAR0 is open, the firmware answers and the compute die runs. -/
theorem State.druReach_of (hb : s.barUp 0 = true) (hf : s.fwRunning = true) {who : DruSide}
    (hc : who = .sc → s.cdRunning = true) (act : State → State) : s.druReach who act = act s := by
  cases who with
  | host => exact (State.onBar_up hb _).trans (if_pos hf)
  | sc => exact if_pos (hc rfl)

theorem State.druReach_host (hb : s.barUp 0 = true) (hf : s.fwRunning = true) (act : State → State) :
    s.druReach .host act = act s := State.druReach_of (who := .host) hb hf nofun act

section
variable (hb : s.barUp 0 = true) (hf : s.fwRunning = true) {who : DruSide} (hc : who = .sc → s.cdRunning = true)
  (ho : s.dru.owner = DruSide.owner who)
include hb hf hc ho

theorem State.druOwned_of (act : State → State) : s.druOwned who act = act s :=
  (State.druReach_of hb hf hc _).trans (if_pos ho)

theorem State.druCtrl_of (page : Bool) (act : State → State) :
    s.druCtrl who page act = act (s.mapDru fun d => { d with page := page }) := State.druOwned_of hb hf hc ho _

theorem State.druWord_of (act : State → State) : s.druWord who 8 act = act s := by
  refine (State.druReach_of hb hf hc _).trans ?_
  simp [ho]

end

/-! ### Control (R417 to R422, R429, R431, R432) -/

/-- A CLAIM of a free unit by the host. -/
theorem State.druClaimOp_free {tag : BitVec 8} (ho : s.dru.owner = .none) (ht : tag ≠ 0) (page : Bool) :
    s.druClaimOp tag page = s.mapDru fun d => { d.wipe .host with tag := tag } := by
  have hn : ¬ s.dru.owner = .host := by simp [ho]
  simp only [State.druClaimOp, if_neg hn, if_neg ht, if_pos ho]

section
variable (hb : s.barUp 0 = true) (hf : s.fwRunning = true)
include hb hf

/-- The host takes a free unit, also where the security controller claims it in the same cycle (R418). -/
theorem execDruClaim_host {tag : BitVec 8} {side : DruClaimant} (hs : side = .host ∨ side = .both) (ho : s.dru.owner = .none)
    (ht : tag ≠ 0) (page : Bool) :
    exec (.druClaim tag page side) s = .next (s.mapDru fun d => { d.wipe .host with tag := tag }) := by
  have hh : (s.druReach .host fun s => s.druClaimOp tag page) = s.mapDru fun d => { d.wipe .host with tag := tag } :=
    (State.druReach_host hb hf _).trans (State.druClaimOp_free ho ht page)
  rcases hs with rfl | rfl
  · exact congrArg Host.Outcome.next hh
  · refine congrArg Host.Outcome.next ((congrArg (State.druReach · .sc State.druScClaim) hh).trans ?_)
    have hsc : (s.mapDru fun d => { d.wipe .host with tag := tag }).druScClaim
        = s.mapDru fun d => { d.wipe .host with tag := tag } := if_neg (fun h => nomatch h.2)
    exact (congrArg (fun t : State => if s.cdRunning then t else s.mapDru fun d => { d.wipe .host with tag := tag }) hsc).trans
      (ite_self _)

omit hb in
/-- The security controller takes a free unit at run time (R421). -/
theorem execDruClaim_sc (hc : s.cdRunning = true) (ho : s.dru.owner = .none) (tag : BitVec 8) (page : Bool) :
    exec (.druClaim tag page .sc) s = .next (s.mapDru fun d => d.wipe .sc) :=
  congrArg Host.Outcome.next ((if_pos hc : s.druReach .sc State.druScClaim = _).trans (if_pos ⟨hf, ho⟩))

section
variable {who : DruSide} (hc : who = .sc → s.cdRunning = true) (ho : s.dru.owner = DruSide.owner who)
include hc ho

/-- A RELEASE frees the unit at once, or waits for a finish (R418, R432). -/
theorem execDruRelease_releases (page : Bool) :
    exec (.druRelease page who) s = .next (s.mapDru fun d =>
      if d.finishing then { d with page := page, relPend := true } else { d with page := page }.wipe .none) :=
  congrArg Host.Outcome.next (State.druCtrl_of hb hf hc ho page _)

theorem execDruStart_starts (hn : s.dru.finishing = false) {alg : BitVec 4} (h1 : 1 ≤ alg.toNat) (h6 : alg.toNat ≤ 6)
    (sealedMode page : Bool) :
    exec (.druStart alg sealedMode page who) s = .next (s.mapDru fun d =>
      { { d with page := page }.start alg.toNat sealedMode with window := zeros 256, saved := false }) := by
  have hg : ¬ (s.dru.finishing = true ∨ alg = 0 ∨ 6 < alg.toNat) := by
    rintro (h | rfl | h)
    · simp [hn] at h
    · simp at h1
    · omega
  exact congrArg Host.Outcome.next ((State.druCtrl_of hb hf hc ho page _).trans (if_neg hg))

end

section
variable (ho : s.dru.owner = .host)
include ho

/-- A good image goes on where it was saved (R431). -/
theorem execDruRestore_restores {sealedMode : Bool} (hn : s.dru.finishing = false) (hi : s.dru.imageOk sealedMode = true)
    (page : Bool) :
    let w := s.dru.window
    exec (.druRestore sealedMode page) s = .next (s.mapDru fun d =>
      { { d with page := page }.start (druImgAlg w) sealedMode with
        bytes := druImgBytes w
        base := if druImgSealed w then gcmCrypt d.key (slice w 216 12) (slice w 16 200) else slice w 16 200 }) :=
  congrArg Host.Outcome.next ((State.druCtrl_of (who := .host) hb hf nofun ho page _).trans
    ((if_neg (Bool.eq_false_iff.1 hn)).trans (if_pos hi)))

/-- SAVE waits for the blocks that are buffered (R429, R430). -/
theorem execDruSave_saves (ha : s.dru.active = true) (hn : s.dru.finishing = false)
    (hw : s.dru.msg.length % druBlock s.dru.alg.toNat = 0) (hk : s.dru.sealedMode = true → s.dru.saveKey.isSome = true)
    (page : Bool) :
    exec (.druSave page) s = .next (s.mapDru fun d => { d with page := page, saving := true }) := by
  have hs : s.dru.sealedMode = false ∨ s.dru.saveKey.isSome = true := by
    cases h : s.dru.sealedMode
    · exact .inl rfl
    · exact .inr (hk h)
  exact congrArg Host.Outcome.next ((State.druCtrl_of (who := .host) hb hf nofun ho page _).trans (if_pos ⟨ha, hn, hw, hs⟩))

theorem execDruPageSelect_selects (page : Bool) :
    exec (.druPageSelect page) s = .next (s.mapDru fun d => { d with page := page }) :=
  congrArg Host.Outcome.next (State.druCtrl_of (who := .host) hb hf nofun ho page _)

end

/-! ### Data (R423 to R430) -/

section
variable {who : DruSide} (hc : who = .sc → s.cdRunning = true) (ho : s.dru.owner = DruSide.owner who)
include hc ho

section
variable (ha : s.dru.active = true) (hn : s.dru.finishing = false)
include ha hn

theorem execDruDataWrite_absorbs (hl : s.dru.bytes + 8 ≤ 2 ^ 61 - 1) (word : BitVec 64) :
    exec (.druDataWrite 8 word who) s
      = .next (s.mapDru fun d => { d with bytes := d.bytes + 8, msg := d.msg ++ leBytes 8 word.toNat }) := by
  have hg : ¬ (s.dru.active = false ∨ s.dru.finishing = true) := by simp [ha, hn]
  exact congrArg Host.Outcome.next ((State.druWord_of hb hf hc ho _).trans ((if_neg hg).trans (if_neg (Nat.not_lt.2 hl))))

/-- A word past the longest message ends the digest (R423). -/
theorem execDruDataWrite_tooLong (hl : 2 ^ 61 - 1 < s.dru.bytes + 8) (word : BitVec 64) :
    exec (.druDataWrite 8 word who) s
      = .next ((s.mapDru fun d => { d with active := false, saving := false }).druFault who druErr.length) := by
  have hg : ¬ (s.dru.active = false ∨ s.dru.finishing = true) := by simp [ha, hn]
  exact congrArg Host.Outcome.next ((State.druWord_of hb hf hc ho _).trans ((if_neg hg).trans (if_pos hl)))

section
variable (hx : s.dru.lastCnt ≠ 0xF)
include hx

theorem execDruLastWrite_finishes (hl : s.dru.bytes + s.dru.lastCnt.toNat ≤ 2 ^ 61 - 1) (word : BitVec 64) :
    exec (.druLastWrite 8 word who) s = .next (s.mapDru fun d =>
      { d with finishing := true, saving := false, bytes := d.bytes + s.dru.lastCnt.toNat,
               final := (leBytes 8 word.toNat).take s.dru.lastCnt.toNat }) := by
  have hg : ¬ (s.dru.active = false ∨ s.dru.finishing = true) := by simp [ha, hn]
  exact congrArg Host.Outcome.next ((State.druWord_of hb hf hc ho _).trans ((if_neg hg).trans ((if_neg hx).trans
    (if_neg (Nat.not_lt.2 hl)))))

/-- So does a final word (R423). -/
theorem execDruLastWrite_tooLong (hl : 2 ^ 61 - 1 < s.dru.bytes + s.dru.lastCnt.toNat) (word : BitVec 64) :
    exec (.druLastWrite 8 word who) s
      = .next ((s.mapDru fun d => { d with active := false, saving := false }).druFault who druErr.length) := by
  have hg : ¬ (s.dru.active = false ∨ s.dru.finishing = true) := by simp [ha, hn]
  exact congrArg Host.Outcome.next ((State.druWord_of hb hf hc ho _).trans ((if_neg hg).trans ((if_neg hx).trans
    (if_pos hl))))

end

end

/-- Outside an active digest a message word is dropped (R423). -/
theorem execDruDataWrite_dropped (h : s.dru.active = false ∨ s.dru.finishing = true) (word : BitVec 64) :
    exec (.druDataWrite 8 word who) s = .next (s.druFault who druErr.badCmd) :=
  congrArg Host.Outcome.next ((State.druWord_of hb hf hc ho _).trans (if_pos h))

theorem execDruLastcntWrite_sets {n : BitVec 4} (h8 : n.toNat ≤ 8) :
    exec (.druLastcntWrite n who) s = .next (s.mapDru fun d => { d with lastCnt := n }) :=
  congrArg Host.Outcome.next ((State.druOwned_of hb hf hc ho _).trans (if_neg (by omega)))

end

/-- EXPECT is taken from START until the final word (R427). -/
theorem execDruExpectWrite_sets (ho : s.dru.owner = .host) {i : Nat} (hi : i < 8) (ha : s.dru.active = true)
    (hn : s.dru.finishing = false) (hd : s.dru.done = false) (word : BitVec 64) :
    exec (.druExpectWrite i word) s
      = .next (s.mapDru fun d => { d with expect := patch d.expect (8 * i) (leBytes 8 word.toNat) }) := by
  have hg : ¬ (s.dru.finishing = true ∨ s.dru.done = true) := by simp [hn, hd]
  exact congrArg Host.Outcome.next ((if_pos hi).trans ((State.druOwned_of (who := .host) hb hf nofun ho _).trans
    ((if_neg hg).trans (if_pos ha))))

/-- A read before DONE is answered with zero and EARLY_READ, whoever owns the unit (R426). -/
theorem execDruResultRead_early {now : Bool} (h : s.dru.done = false ∨ now = true) (index : Option Nat) (part : ReadPart) :
    exec (.druResultRead index now part) s = .next ((s.setDruErr druErr.early).emit (.regData 0)) :=
  congrArg Host.Outcome.next ((State.onBar_up hb _).trans ((if_pos hf).trans (if_pos h)))

/-- The value of a read once DONE is set: a word of the result, or the verdict. -/
def Dru.read (d : Dru) (index : Option Nat) : BitVec 64 :=
  match index with
  | some n => BitVec.ofNat 64 (leNat (slice d.result (8 * n) 8))
  | none => d.cmp.zeroExtend 64

/-- Once DONE is set its owner reads the value, any other host zero (R420, R426). -/
theorem execDruResultRead_done (hd : s.dru.done = true) (index : Option Nat) (part : ReadPart) :
    exec (.druResultRead index false part) s
      = .next (s.emit (.regData (if s.dru.owner ≠ .host then 0 else ReadPart.of part (s.dru.read index)))) := by
  have hg : ¬ (s.dru.done = false ∨ false = true) := by simp [hd]
  refine congrArg Host.Outcome.next ((State.onBar_up hb _).trans ((if_pos hf).trans ((if_neg hg).trans ?_)))
  split
  · rfl
  · cases index <;> rfl

end

theorem execDruSaveDone_ends (h : s.dru.saving = true) :
    exec .druSaveDone s = .next ((s.mapDru fun d =>
      { d with saving := false, saved := true, window := d.image (s.freeNow 12) }).draw) :=
  congrArg Host.Outcome.next (if_pos h)

theorem execDruFinishDone_ends (h : s.dru.finishing = true) :
    exec .druFinishDone s = .next (s.mapDru fun d =>
      if d.relPend then d.wipe .none
      else { d with active := false, finishing := false, done := true, lastCnt := 0xF,
                    result := if d.sealedMode then [] else d.digest,
                    cmp := if d.digest = d.expect.take d.digest.length then 0x95A66A59 else 0xC3F03C0F }) :=
  congrArg Host.Outcome.next (if_neg (by simp [h]))

end

end Sys2Proof.Machine
open Sys2Proof Sys2Proof.Machine

/-- Settles O16: each command by its own row. -/
theorem druControlCompletes : Obligations.DruControlCompletes := by
  intro s tag alg sealedMode page who hb hf hc
  refine ⟨fun side hs ho ht => ⟨_, execDruClaim_host hb hf hs ho ht page, rfl, rfl, rfl, rfl, rfl, rfl⟩,
    fun ho => ⟨_, execDruClaim_sc hf hc ho tag page, rfl, rfl, rfl, rfl⟩,
    fun ho => ⟨fun hn => ?_, fun hn => ?_, fun hn h1 h6 => ?_⟩,
    fun ho => ⟨fun hn hi => ?_, fun ha hn hw hk => ?_, ?_⟩⟩
  · refine ⟨_, execDruRelease_releases hb hf (fun _ => hc) ho page, ?_⟩
    rw [State.mapDru_dru, hn]
    exact ⟨rfl, rfl, rfl, rfl, rfl, rfl⟩
  · refine ⟨_, execDruRelease_releases hb hf (fun _ => hc) ho page, ?_⟩
    rw [State.mapDru_dru, hn]
    exact ⟨rfl, rfl⟩
  · exact ⟨_, execDruStart_starts hb hf (fun _ => hc) ho hn h1 h6 sealedMode page, rfl, rfl, BitVec.ofNat_toNat 4 alg, rfl, rfl,
      rfl, rfl, rfl⟩
  · exact ⟨_, execDruRestore_restores hb hf ho hn hi page, rfl, rfl, rfl, rfl, rfl⟩
  · exact ⟨_, execDruSave_saves hb hf ho ha hn hw hk page, rfl, rfl⟩
  · exact ⟨_, execDruPageSelect_selects hb hf ho page, rfl⟩

/-- Settles O17: each row by its own lemma. -/
theorem druDataCompletes : Obligations.DruDataCompletes := by
  intro s word who hb hf hc
  refine ⟨fun ho ha hn hl => ⟨_, execDruDataWrite_absorbs hb hf (fun _ => hc) ho ha hn hl word, rfl⟩,
    fun n ho h8 => ⟨_, execDruLastcntWrite_sets hb hf (fun _ => hc) ho h8, rfl⟩,
    fun ho ha hn h8 hl => ?_,
    fun i ho hi ha hn hd => ⟨_, execDruExpectWrite_sets hb hf ho hi ha hn hd word, rfl⟩,
    fun h => ⟨_, execDruSaveDone_ends h, rfl, rfl, rfl, rfl⟩, fun h hr => ?_, fun h hr => ?_, fun ho hd i part => ?_⟩
  · have hx : s.dru.lastCnt ≠ 0xF := fun h => by
      rw [h] at h8
      exact absurd h8 (by decide)
    exact ⟨_, execDruLastWrite_finishes hb hf (fun _ => hc) ho ha hn hx hl word, rfl, rfl, rfl, rfl⟩
  · refine ⟨_, execDruFinishDone_ends h, ?_⟩
    rw [State.mapDru_dru, hr]
    exact ⟨rfl, rfl, rfl, rfl, rfl, rfl⟩
  · refine ⟨_, execDruFinishDone_ends h, ?_⟩
    rw [State.mapDru_dru, hr]
    exact ⟨rfl, rfl, rfl⟩
  · refine ⟨_, execDruResultRead_done hb hf hd i part, rfl, ?_⟩
    rw [if_neg (not_not_intro ho)]
    rfl

/-- Settles O52: each row by its own lemma. -/
theorem digestUnitRefusals : Obligations.DigestUnitRefusals := by
  intro s word index part now hb hf
  refine ⟨fun ho h => ⟨_, execDruDataWrite_dropped (who := .host) hb hf nofun ho h word, rfl⟩, fun ho ha hn => ⟨fun hl => ?_,
    fun hx hl => ?_⟩, fun h => ⟨_, execDruResultRead_early hb hf h index part, rfl, rfl⟩, fun hd hnow => ?_⟩
  · exact ⟨_, execDruDataWrite_tooLong (who := .host) hb hf nofun ho ha hn hl word, rfl, rfl, rfl, rfl⟩
  · exact ⟨_, execDruLastWrite_tooLong (who := .host) hb hf nofun ho ha hn hx hl word, rfl, rfl, hn, rfl⟩
  · subst hnow
    exact ⟨_, execDruResultRead_done hb hf hd index part, rfl, rfl⟩
end

section
/-!
The fuse commands (R457 to R465): what a word holds after a list of words is programmed, then one lemma per command and
outcome.
-/
namespace Sys2Proof.Machine
open Sys2Proof

section
variable {s : State}

/-! ### What a program leaves in a word (R457) -/

theorem State.shadowOf_burn (w : Nat) (d : BitVec 32) (v : Nat) : (s.burn w d).fuses.shadowOf v
    = if w = v then { Shadow.blank with data := d } else s.fuses.shadowOf v := Sparse.get_set _ _ _ _ _

theorem State.word_burn (w : Nat) (d : BitVec 32) (v : Nat) : (s.burn w d).fuses.word v
    = if w = v then s.fuses.word w ||| fuseRaw d else s.fuses.word v := Sparse.get_set _ _ _ _ _

/-- A list that gives a word no data but `d` leaves it with `d`, or as it was. -/
theorem State.shadowOf_burnAll {l : List (Nat × BitVec 32)} {v : Nat} {d : BitVec 32} (h : ∀ q ∈ l, q.1 = v → q.2 = d) :
    (s.burnAll l).fuses.shadowOf v
      = if v ∈ l.map Prod.fst then { Shadow.blank with data := d } else s.fuses.shadowOf v := by
  induction l generalizing s with
  | nil => rfl
  | cons p l ih =>
    have ht := ih (s := s.burn p.1 p.2) fun q hq => h q (List.mem_cons_of_mem p hq)
    refine ht.trans ?_
    rw [State.shadowOf_burn]
    by_cases hp : p.1 = v
    · simp [hp, h p List.mem_cons_self hp]
    · simp [hp, Ne.symm hp]

theorem State.fz_burnAll {l : List (Nat × BitVec 32)} {v : Nat} {d : BitVec 32} (h : ∀ q ∈ l, q.1 = v → q.2 = d) :
    (s.burnAll l).fz v = if v ∈ l.map Prod.fst then d else s.fz v :=
  (congrArg Shadow.data (State.shadowOf_burnAll h)).trans (apply_ite Shadow.data _ _ _)

/-- A list that does not name a word leaves its data. -/
theorem State.fz_burnAll_of_not_mem {l : List (Nat × BitVec 32)} {v : Nat} (h : ∀ q ∈ l, q.1 ≠ v) : (s.burnAll l).fz v = s.fz v :=
  (State.fz_burnAll (d := 0) fun q hq hv => absurd hv (h q hq)).trans (if_neg fun hm => by
    obtain ⟨q, hq, hv⟩ := List.mem_map.1 hm
    exact h q hq hv)

theorem State.word_burnAll {l : List (Nat × BitVec 32)} {v : Nat} {d : BitVec 32} (h : ∀ q ∈ l, q.1 = v → q.2 = d) :
    (s.burnAll l).fuses.word v = if v ∈ l.map Prod.fst then s.fuses.word v ||| fuseRaw d else s.fuses.word v := by
  induction l generalizing s with
  | nil => rfl
  | cons p l ih =>
    have ht := ih (s := s.burn p.1 p.2) fun q hq => h q (List.mem_cons_of_mem p hq)
    refine ht.trans ?_
    rw [State.word_burn]
    by_cases hp : p.1 = v
    · have hd := h p List.mem_cons_self hp
      subst hp
      simp [hd, BitVec.or_assoc]
    · simp [hp, Ne.symm hp]

/-- A sequence without a word that senses wrongly programs the whole list. -/
theorem State.burnSeq_eq_burnAll {bad : Option Nat} {l : List (Nat × BitVec 32)} (h : ∀ w, bad = some w → w ∉ l.map Prod.fst) :
    State.burnSeq bad l s = (s.burnAll l, none) := by
  induction l generalizing s with
  | nil => rfl
  | cons p l ih =>
    have hp : ¬ bad = some p.1 := fun hb => h _ hb List.mem_cons_self
    exact (if_neg hp).trans (ih fun w hw hm => h w hw (List.mem_cons_of_mem _ hm))

/-- A sequence stops at the word that senses wrongly. -/
theorem State.burnSeq_eq_burnBad {w : Nat} {l : List (Nat × BitVec 32)} (h : w ∈ l.map Prod.fst) :
    ∃ u : State, State.burnSeq (some w) l s = (u.burnBad w, some w) := by
  induction l generalizing s with
  | nil => nomatch h
  | cons p l ih =>
    by_cases hp : some w = some p.1
    · cases hp
      exact ⟨s, if_pos rfl⟩
    · obtain ⟨u, hu⟩ := ih (s := s.burn p.1 p.2) (((List.mem_cons.1 h).resolve_left fun hw => hp (congrArg some hw)))
      exact ⟨u, (if_neg hp).trans hu⟩

theorem State.shadowOf_burnBad (w : Nat) : (s.burnBad w).fuses.shadowOf w = { Shadow.blank with invalid := true } := by
  have h := Sparse.get_set Shadow.blank s.fuses.shadow w w { Shadow.blank with invalid := true }
  exact h.trans (if_pos rfl)

/-- Programming leaves the jobs. -/
theorem State.burnAll_job? (l : List (Nat × BitVec 32)) (id : Nat) : (s.burnAll l).job? id = s.job? id :=
  State.job?_congr (s.burnAll_get l (fld := .jobs) (by simp)) id

theorem State.burnSeq_job? {bad : Option Nat} {l : List (Nat × BitVec 32)} {t : State} {o : Option Nat}
    (h : State.burnSeq bad l s = (t, o)) (id : Nat) : t.job? id = s.job? id :=
  State.job?_congr (State.burnSeq_of h (fld := .jobs) (by simp)) id

theorem State.fuseFail_ended {id : Nat} {x j : Job} (h : s.job? id = some x) (hj : j.id = id) (c w : Nat) :
    (s.fuseFail j c w).endedWith id st.paramRejected (BitVec.ofNat 64 (c + 65536 * w)) [] :=
  State.endWith_ended h hj (by decide) _ _

/-! ### FUSE_PROGRAM (R457, R463) -/

/-- The words a FUSE_PROGRAM job gives, from word `a` on. -/
def fuseWords (a n : Nat) (inp : Bytes) : List (Nat × BitVec 32) :=
  (List.range n).map fun i => (a + i, BitVec.ofNat 32 (leNat (slice inp (4 * i) 4)))

/-- Each word of an ascending list is named once. -/
theorem data_unique_of_range {n a : Nat} {f : Nat → BitVec 32} {p q : Nat × BitVec 32}
    (hp : p ∈ (List.range n).map fun i => (a + i, f i)) (hq : q ∈ (List.range n).map fun i => (a + i, f i)) (h : q.1 = p.1) :
    q.2 = p.2 := by
  obtain ⟨i, -, rfl⟩ := List.mem_map.1 hp
  obtain ⟨k, -, rfl⟩ := List.mem_map.1 hq
  exact congrArg f (Nat.add_left_cancel h)

theorem State.wordFault_eq_none {w : Nat} (h : s.wordFault w = none) : s.fuses.word w = 0 := by
  unfold State.wordFault at h
  split at h
  · cases h
  · split at h
    · cases h
    · split at h
      · cases h
      · next hw => exact Decidable.not_not.1 hw

theorem State.word_eq_zero_of_firstFault {l : List Nat} (h : s.firstFault l = none) {w : Nat} (hw : w ∈ l) :
    s.fuses.word w = 0 := by
  have := List.findSome?_eq_none_iff.1 h w hw
  exact State.wordFault_eq_none (Option.map_eq_none_iff.1 this)

variable {id : Nat} {j : Job} {inp : Bytes}

/-- Words without a fault are programmed, and the job ends as the sequence did. -/
theorem execFuseProgram_row (hn : s.nvFree = true) (h : s.runsJob id j .fuseProgram inp) (hf : j.entry.flag 2 = false)
    (hz : ∀ p, p ∈ fuseWords (j.entry.p 0 2) (j.entry.p 2 2) inp → p.2 ≠ 0)
    (hff : s.firstFault ((fuseWords (j.entry.p 0 2) (j.entry.p 2 2) inp).map Prod.fst) = none) {bad o : Option Nat} {t : State}
    (hb : State.burnSeq bad (fuseWords (j.entry.p 0 2) (j.entry.p 2 2) inp) s = (t, o)) :
    exec (.fuseProgram id inp bad) s = .next (o.elim (t.done j (j.entry.p 2 2) [] j.scCycles) fun w => t.fuseFail j 5 w) := by
  have hzero : ¬ ((fuseWords (j.entry.p 0 2) (j.entry.p 2 2) inp).any (fun p => decide (p.2 = 0)) = true) := fun ha => by
    obtain ⟨p, hp, h0⟩ := List.any_eq_true.1 ha
    exact hz p hp (of_decide_eq_true h0)
  refine congrArg Host.Outcome.next ((State.nvOp_of h hn _).trans ((if_neg (Bool.eq_false_iff.1 hf)).trans
    ((if_neg hzero).trans ?_)))
  unfold fuseWords at hff hb
  rw [hff, hb]
  cases o
  · rfl
  · rfl

/-- Words without a fault are programmed in order, up to one that senses wrongly. -/
theorem execFuseProgram_programs (hn : s.nvFree = true) (h : s.runsJob id j .fuseProgram inp) (hf : j.entry.flag 2 = false)
    (hz : ∀ p, p ∈ fuseWords (j.entry.p 0 2) (j.entry.p 2 2) inp → p.2 ≠ 0)
    (hff : s.firstFault ((fuseWords (j.entry.p 0 2) (j.entry.p 2 2) inp).map Prod.fst) = none) (bad : Option Nat) :
    let words := fuseWords (j.entry.p 0 2) (j.entry.p 2 2) inp
    ∃ t, exec (.fuseProgram id inp bad) s = .next t
      ∧ ((∀ w, bad = some w → w ∉ words.map Prod.fst) →
          t.endedWith id st.ok (BitVec.ofNat 64 (j.entry.p 2 2)) []
          ∧ ∀ p, p ∈ words → t.fuses.word p.1 = fuseRaw p.2 ∧ t.fuses.shadowOf p.1 = { Shadow.blank with data := p.2 })
      ∧ (∀ w, bad = some w → w ∈ words.map Prod.fst →
          t.endedWith id st.paramRejected (BitVec.ofNat 64 (5 + 65536 * w)) []
          ∧ (t.fuses.shadowOf w).invalid = true ∧ t.fz w = 0) := by
  intro words
  have hj : j.id = id := State.job?_id h.1
  rcases hb : State.burnSeq bad words s with ⟨t, o⟩
  refine ⟨_, execFuseProgram_row hn h hf hz hff hb, fun hw => ?_, fun w hbad hw => ?_⟩
  · cases hb.symm.trans (State.burnSeq_eq_burnAll hw)
    refine ⟨State.done_ended ((State.burnAll_job? _ id).trans h.1) hj _ _ _, fun p hp => ?_⟩
    have hd : ∀ q ∈ words, q.1 = p.1 → q.2 = p.2 := fun q hq => data_unique_of_range hp hq
    have hm := List.mem_map_of_mem (f := Prod.fst) hp
    refine ⟨?_, (State.shadowOf_burnAll hd).trans (if_pos hm)⟩
    refine (State.word_burnAll hd).trans ((if_pos hm).trans ?_)
    rw [State.word_eq_zero_of_firstFault hff hm]
    exact BitVec.zero_or
  · subst hbad
    obtain ⟨u, hu⟩ := State.burnSeq_eq_burnBad (s := s) hw
    cases hb.symm.trans hu
    exact ⟨State.fuseFail_ended ((State.burnSeq_job? hu id).trans h.1) hj 5 w, congrArg Shadow.invalid (u.shadowOf_burnBad w),
      congrArg Shadow.data (u.shadowOf_burnBad w)⟩

/-! ### Lock words (R460) -/

theorem mem_copies_ge {w v : Nat} (h : v ∈ copies w) : w ≤ v := by
  simp only [copies, List.mem_cons, List.not_mem_nil, or_false] at h
  omega

theorem self_mem_copies (w : Nat) : w ∈ copies w := List.mem_cons_self

/-- The lock words lie in region 15 and get the data of a lock word. -/
theorem of_mem_lockWords {r locks : Nat} {q : Nat × BitVec 32} (h : q ∈ lockWords r locks) : 8096 ≤ q.1 ∧ q.2 = lockData := by
  obtain ⟨w, hw, hq⟩ := List.mem_flatMap.1 h
  obtain ⟨c, hc, rfl⟩ := List.mem_map.1 hq
  have hge := mem_copies_ge hc
  have hw' : 8096 ≤ w := by
    rcases List.mem_append.1 hw with hm | hm
    · split at hm
      · have := List.mem_singleton.1 hm
        omega
      · nomatch hm
    · split at hm
      · have := List.mem_singleton.1 hm
        omega
      · nomatch hm
  exact ⟨by omega, rfl⟩

theorem writeLock_mem_lockWords (r : Nat) {locks : Nat} (h : locks % 2 = 1) : (8096 + r, lockData) ∈ lockWords r locks :=
  List.mem_flatMap.2 ⟨8096 + r, by simp [h], List.mem_map.2 ⟨_, self_mem_copies _, rfl⟩⟩

theorem readLock_mem_lockWords (r : Nat) {locks : Nat} (h : locks / 2 = 1) : (8096 + 16 + r, lockData) ∈ lockWords r locks :=
  List.mem_flatMap.2 ⟨8096 + 16 + r, by simp [h], List.mem_map.2 ⟨_, self_mem_copies _, rfl⟩⟩

/-- A lock word that is named is set, and one that is set stays so. -/
theorem State.locked_burnAll {l : List (Nat × BitVec 32)} {v : Nat} (hl : ∀ q ∈ l, q.1 = v → q.2 = lockData)
    (h : (v, lockData) ∈ l ∨ s.fz v = lockData) : (s.burnAll l).fz v = lockData := by
  rw [State.fz_burnAll hl]
  split
  · rfl
  · next hm => exact h.resolve_left fun hv => hm (List.mem_map_of_mem (f := Prod.fst) hv)

theorem State.fz_congr {t : State} (h : t.fuses = s.fuses) (v : Nat) : t.fz v = s.fz v :=
  congrArg (fun f : Fuses => (f.shadowOf v).data) h

theorem State.writeLocked_of {r : Nat} (h : s.fz (8096 + r) = lockData) : s.writeLocked r = true := decide_eq_true h

theorem State.readLocked_of {r : Nat} (h : s.fz (8096 + 16 + r) = lockData) : s.readLocked r = true := decide_eq_true h

/-! ### GENERATE (R464) -/

/-- The roots GENERATE fills from word `a` on. -/
def State.rootsOf (s : State) (a n : Nat) : List (Nat × BitVec 32) :=
  (List.range n).map fun i => (a + i, BitVec.ofNat 32 (leNat (slice (s.freeNow (4 * n)) (4 * i) 4)))

/-- The digest word of a region and its two locks, which GENERATE programs after the roots. -/
def State.sealWords (s : State) (r : Nat) : List (Nat × BitVec 32) :=
  (regionFirst (r + 1) - 1, s.regionDigest r (regionFirst (r + 1) - 1)) :: lockWords r 3

/-- A region without a fault gets its roots, its digest and both locks. -/
theorem State.generateRoots_eq
    (hw : ∀ w, w ∈ (List.range (regionSize (regionOf (j.entry.p 0 2)))).map (j.entry.p 0 2 + ·) →
      s.generateFault (regionOf (j.entry.p 0 2)) w = none)
    (hl : s.invalidIn ((lockWords (regionOf (j.entry.p 0 2)) 3).map Prod.fst) = none) :
    let r := regionOf (j.entry.p 0 2)
    let u := s.scDraw.burnAll (s.rootsOf (j.entry.p 0 2) (rootWords r))
    s.generateRoots j none = (u.burnAll (u.sealWords r)).done j (rootWords r + 1) [] j.scCycles := by
  intro r u
  have hf : (((List.range (regionSize r)).map (j.entry.p 0 2 + ·)).findSome?
      fun w => (s.generateFault r w).map fun c => (c, w)) = none :=
    List.findSome?_eq_none_iff.2 fun w hm => by rw [hw w hm]; rfl
  have hb : ∀ (l : List (Nat × BitVec 32)) (v : State), State.burnSeq none l v = (v.burnAll l, none) :=
    fun l v => State.burnSeq_eq_burnAll nofun
  unfold State.generateRoots
  dsimp only
  rw [hf, hl]
  dsimp only [Option.or, Option.map]
  rw [hb]
  dsimp only
  rw [hb]
  rfl

/-- The regions with roots hold them below their digest word. -/
theorem rootWords_lt_digest {r : Nat} (h3 : 3 ≤ r) (h6 : r ≤ 6) :
    regionFirst r + rootWords r < regionFirst (r + 1) ∧ regionFirst (r + 1) < 8096 := by
  have hr : r = 3 ∨ r = 4 ∨ r = 5 ∨ r = 6 := by omega
  rcases hr with rfl | rfl | rfl | rfl
  all_goals decide

theorem execFuseProgram_generates (hn : s.nvFree = true) (h : s.runsJob id j .fuseProgram []) (hp : s.passes j .fuseProgram)
    (hf : j.entry.flag 2 = true) :
    let a := j.entry.p 0 2
    let r := regionOf a
    3 ≤ r → r ≤ 6 → a = regionFirst r →
    (∀ w, w ∈ (List.range (regionSize r)).map (a + ·) → s.generateFault r w = none) →
    s.invalidIn ((lockWords r 3).map Prod.fst) = none →
    ∃ t, exec (.fuseProgram id [] none) s = .next t ∧ t.endedWith id st.ok (BitVec.ofNat 64 (rootWords r + 1)) []
      ∧ t.writeLocked r = true ∧ t.readLocked r = true
      ∧ ∀ i, i < rootWords r → t.fz (a + i) = BitVec.ofNat 32 (leNat (slice (s.freeNow (4 * rootWords r)) (4 * i) 4)) := by
  intro a r h3 h6 ha hw hl
  obtain ⟨e, l, x, hx, hg⟩ := State.gated_reseeds h hp
  obtain ⟨hroot, hdig⟩ := rootWords_lt_digest h3 h6
  let u := (s.reseed e l).scDraw.burnAll ((s.reseed e l).rootsOf a (rootWords r))
  have hrow : exec (.fuseProgram id [] none) s
      = .next ((u.burnAll (u.sealWords r)).done { j with seeded := true } (rootWords r + 1) [] j.scCycles) :=
    congrArg Host.Outcome.next ((State.nvOp_of h hn _).trans ((if_pos hf).trans ((hg _ _).trans
      (State.generateRoots_eq (s := s.reseed e l) (j := { j with seeded := true }) hw hl))))
  have hlock : ∀ v, 8096 ≤ v → ∀ q ∈ u.sealWords r, q.1 = v → q.2 = lockData := fun v hv q hq hqv => by
    rcases List.mem_cons.1 hq with rfl | hq
    · dsimp only at hqv
      omega
    · exact (of_mem_lockWords hq).2
  refine ⟨_, hrow, State.done_ended (x := x) ?_ (State.job?_id h.1) _ _ _, ?_, ?_, fun i hi => ?_⟩
  · rw [State.burnAll_job?, State.burnAll_job?]
    exact hx
  · exact State.writeLocked_of ((State.fz_congr (State.done_fuses _ _ _ _ _) _).trans (State.locked_burnAll
      (hlock _ (Nat.le_add_right _ _)) (.inl (List.mem_cons_of_mem _ (writeLock_mem_lockWords r (locks := 3) rfl)))))
  · exact State.readLocked_of ((State.fz_congr (State.done_fuses _ _ _ _ _) _).trans (State.locked_burnAll
      (hlock _ (by omega)) (.inl (List.mem_cons_of_mem _ (readLock_mem_lockWords r (locks := 3) rfl)))))
  · have hout : ∀ q ∈ u.sealWords r, q.1 ≠ a + i := fun q hq hqi => by
      rcases List.mem_cons.1 hq with rfl | hq
      · dsimp only at hqi
        omega
      · have := (of_mem_lockWords hq).1
        omega
    have hmem := List.mem_map_of_mem (f := fun i => (a + i, BitVec.ofNat 32 (leNat (slice (s.freeNow (4 * rootWords r))
      (4 * i) 4)))) (List.mem_range.2 hi)
    refine (State.fz_congr (State.done_fuses _ _ _ _ _) _).trans ((State.fz_burnAll_of_not_mem hout).trans ?_)
    exact (State.fz_burnAll fun q hq => data_unique_of_range hmem hq).trans
      (if_pos (List.mem_map_of_mem (f := Prod.fst) hmem))

/-! ### FUSE_LOCK (R459, R461) -/

/-- The digest words lie below the lock words. -/
theorem digestWord_lt {r d : Nat} (h : digestWord r = some d) : d < 8096 := by
  unfold digestWord at h
  split at h
  all_goals simp only [Option.some.injEq, reduceCtorEq] at h
  all_goals omega

/-- Outside the epoch blocks a digest word below the lock words is programmed, then lock words. -/
theorem State.mem_lockWrites {g locks : Nat} (h8 : g ≠ 8) (h13 : g ≠ 13) {q : Nat × BitVec 32} (hq : q ∈ s.lockWrites g locks)
    (hv : 8096 ≤ q.1) : q.2 = lockData := by
  have hg : ¬ (g = 8 ∨ g = 13) := by omega
  unfold State.lockWrites State.missingDigest at hq
  dsimp only at hq
  rw [if_neg hg, if_neg hg] at hq
  rcases List.mem_append.1 hq with hd | hd
  · exfalso
    obtain ⟨hm, -⟩ := Option.filter_eq_some_iff.1 (Option.mem_toList.1 hd)
    obtain ⟨d, hdig, rfl⟩ := Option.map_eq_some_iff.1 hm
    exact absurd (digestWord_lt hdig) (Nat.not_lt.2 hv)
  · exact (of_mem_lockWords hd).2

/-- A lock that is asked for is already set, or its word is programmed. -/
theorem State.writeLock_mem_lockWrites {g locks : Nat} (h8 : g ≠ 8) (h13 : g ≠ 13) (h : locks % 2 = 1) :
    (8096 + g, lockData) ∈ s.lockWrites g locks ∨ s.fz (8096 + g) = lockData := by
  by_cases hw : s.writeLocked g = true
  · exact .inr (of_decide_eq_true hw)
  · refine .inl (List.mem_append_right _ ?_)
    rw [if_neg (by omega)]
    refine writeLock_mem_lockWords g ?_
    rw [if_pos ⟨h, by simp [hw]⟩]
    split
    · rfl
    · rfl

theorem State.readLock_mem_lockWrites {g locks : Nat} (h8 : g ≠ 8) (h13 : g ≠ 13) (h : locks / 2 = 1) :
    (8096 + 16 + g, lockData) ∈ s.lockWrites g locks ∨ s.fz (8096 + 16 + g) = lockData := by
  by_cases hw : s.readLocked g = true
  · exact .inr (of_decide_eq_true hw)
  · refine .inl (List.mem_append_right _ ?_)
    rw [if_neg (by omega)]
    refine readLock_mem_lockWords g ?_
    rw [if_pos (c := locks / 2 = 1 ∧ (!s.readLocked g) = true) ⟨h, by simp [hw]⟩]
    split
    · rfl
    · rfl

/-- A block whose digest word is blank gets that word alone. -/
theorem State.lockWrites_block {g locks : Nat} (hg : g = 8 ∨ g = 13)
    (h : s.fuses.word (blockDigestWord g s.fuses.epoch) = 0) :
    s.lockWrites g locks = [(blockDigestWord g s.fuses.epoch, s.blockDigest g s.fuses.epoch)] := by
  unfold State.lockWrites State.missingDigest
  dsimp only
  rw [if_pos hg, if_pos hg]
  simp [Option.filter, h]

/-- A region or block without an invalid word, and without a blank one where that matters, gets what it lacks. -/
theorem execFuseLock_row (hn : s.nvFree = true) (h : s.runsJob id j .fuseLock [])
    (hi : s.invalidIn (s.lockTouches (j.entry.p 0 1) (j.entry.p 1 1)) = none)
    (hs : j.entry.flag 2 = true ∨ ∀ w, w ∈ s.lockScope (j.entry.p 0 1) → s.fuses.word w ≠ 0) :
    exec (.fuseLock id none) s = .next ((s.burnAll (s.lockWrites (j.entry.p 0 1) (j.entry.p 1 1))).done j
      (if s.lockWrites (j.entry.p 0 1) (j.entry.p 1 1) = [] then 0 else 1) [] j.scCycles) := by
  have hb : (if j.entry.flag 2 then none else (s.lockScope (j.entry.p 0 1)).find? fun w => s.fuses.word w = 0) = none := by
    rcases hs with hf | hw
    · exact if_pos hf
    · rw [List.find?_eq_none.2 fun w hm => by simpa using hw w hm]
      exact ite_self _
  refine congrArg Host.Outcome.next ((State.nvOp_of h hn _).trans ?_)
  dsimp only
  rw [hi]
  dsimp only
  rw [hb]
  dsimp only
  rw [State.burnSeq_eq_burnAll (bad := none) nofun]

theorem execFuseLock_locks (hn : s.nvFree = true) (h : s.runsJob id j .fuseLock []) :
    let e := j.entry
    let g := e.p 0 1
    s.invalidIn (s.lockTouches g (e.p 1 1)) = none →
    (e.flag 2 = true ∨ ∀ w, w ∈ s.lockScope g → s.fuses.word w ≠ 0) →
    ∃ t, exec (.fuseLock id none) s = .next t
      ∧ t.endedWith id st.ok (if s.lockWrites g (e.p 1 1) = [] then 0 else 1) []
      ∧ (g < 15 → g ≠ 8 → g ≠ 13 → (e.p 1 1 % 2 = 1 → t.writeLocked g = true) ∧ (e.p 1 1 / 2 = 1 → t.readLocked g = true))
      ∧ (g = 8 ∨ g = 13 → s.fuses.word (blockDigestWord g s.fuses.epoch) = 0 →
          t.fz (blockDigestWord g s.fuses.epoch) = s.blockDigest g s.fuses.epoch) := by
  intro e g hi hs
  refine ⟨_, execFuseLock_row hn h hi hs, ?_, fun _ h8 h13 => ⟨fun hw => ?_, fun hr => ?_⟩, fun hg hw => ?_⟩
  · have hd := State.done_ended ((State.burnAll_job? (s.lockWrites g (e.p 1 1)) id).trans h.1) (State.job?_id h.1)
      (if s.lockWrites g (e.p 1 1) = [] then 0 else 1) [] j.scCycles
    rw [apply_ite (BitVec.ofNat 64)] at hd
    exact hd
  · refine State.writeLocked_of ((State.fz_congr (State.done_fuses _ _ _ _ _) _).trans (State.locked_burnAll
      (fun q hq hv => State.mem_lockWrites h8 h13 hq ?_) (State.writeLock_mem_lockWrites h8 h13 hw)))
    omega
  · refine State.readLocked_of ((State.fz_congr (State.done_fuses _ _ _ _ _) _).trans (State.locked_burnAll
      (fun q hq hv => State.mem_lockWrites h8 h13 hq ?_) (State.readLock_mem_lockWrites h8 h13 hr)))
    omega
  · refine (State.fz_congr (State.done_fuses _ _ _ _ _) _).trans ?_
    rw [State.lockWrites_block hg hw]
    exact (State.fz_burnAll (d := s.blockDigest g s.fuses.epoch) fun q hq _ =>
      congrArg Prod.snd (List.mem_singleton.1 hq)).trans (if_pos List.mem_cons_self)

end

end Sys2Proof.Machine
open Sys2Proof Sys2Proof.Machine

/-- Settles O38: each command by its own row. -/
theorem fusesComplete : Obligations.FusesComplete := by
  intro s id j inp bad e a words r g hn
  exact ⟨fun h hf hz hff => execFuseProgram_programs hn h hf hz hff bad,
    fun h hp hf => execFuseProgram_generates hn h hp hf, fun h => execFuseLock_locks hn h⟩
end

section
/-! Life cycle and debug (R466, R471 to R480). -/
namespace Sys2Proof.Machine
open Sys2Proof

section
variable {s : State} {id : Nat} {j : Job} {inp : Bytes}

/-! ### Triplicated programs (R466) -/

theorem State.invalidIn_congr {t : State} (h : t.fuses = s.fuses) (l : List Nat) : t.invalidIn l = s.invalidIn l := by
  unfold State.invalidIn
  rw [h]

theorem State.rootDisabled_congr {t : State} (h : t.fuses = s.fuses) (w : Nat) : t.rootDisabled w = s.rootDisabled w := by
  unfold State.rootDisabled
  rw [State.fz_congr h]

theorem State.lcWrites_congr {t : State} (h : t.fuses = s.fuses) (tgt : LcState) : t.lcWrites tgt = s.lcWrites tgt := by
  simp only [State.lcWrites, State.rootDisabled_congr h]

/-- A word marked invalid ends a triplicated program before its first bit. -/
theorem State.tripProgram_invalid {l : List (Nat × BitVec 32)} {w : Nat} (h : s.invalidIn ((tripWords l).map Prod.fst) = some w)
    (bad : Option Nat) (go : State → State) : s.tripProgram j l bad go = s.fuseFail j 4 w := by
  unfold State.tripProgram
  rw [h]

theorem State.tripProgram_goes {l : List (Nat × BitVec 32)} (h : s.invalidIn ((tripWords l).map Prod.fst) = none)
    (go : State → State) : s.tripProgram j l none go = go (s.burnAll (tripWords l)) := by
  unfold State.tripProgram
  rw [h, State.burnSeq_eq_burnAll (bad := none) nofun]

theorem copies_le {w v : Nat} (h : v ∈ copies w) : w ≤ v ∧ v ≤ w + 64 := by
  have hs : copyStep w ≤ 32 := by
    unfold copyStep
    split
    · exact Nat.le_refl 32
    · decide
  simp only [copies, List.mem_cons, List.not_mem_nil, or_false] at h
  omega

theorem mem_tripWords {l : List (Nat × BitVec 32)} {p : Nat × BitVec 32} (hp : p ∈ l) {v : Nat} (hv : v ∈ copies p.1) :
    (v, p.2) ∈ tripWords l := List.mem_flatMap.2 ⟨p, hp, List.mem_map.2 ⟨v, hv, rfl⟩⟩

/-- Each copy of a listed word gets its data, where the other words of the list lie more than its copies away. -/
theorem State.fz_tripWords {l : List (Nat × BitVec 32)} {p : Nat × BitVec 32} (hp : p ∈ l)
    (ho : ∀ q ∈ l, q = p ∨ p.1 + 64 < q.1 ∨ q.1 + 64 < p.1) {v : Nat} (hv : v ∈ copies p.1) :
    (s.burnAll (tripWords l)).fz v = p.2 := by
  refine (State.fz_burnAll fun q hq hqv => ?_).trans (if_pos (List.mem_map_of_mem (f := Prod.fst) (mem_tripWords hp hv)))
  obtain ⟨x, hx, hq⟩ := List.mem_flatMap.1 hq
  obtain ⟨c, hc, rfl⟩ := List.mem_map.1 hq
  dsimp only at hqv
  subst hqv
  rcases ho x hx with rfl | hf
  · rfl
  · have h1 := copies_le hc
    have h2 := copies_le hv
    omega

/-- Decoding the life cycle leaves the words. -/
theorem State.redecode_fz (v : Nat) : s.redecode.fz v = s.fz v := rfl

/-! ### Transitions (R471, R473) -/

/-- A restart with every hold asserted waits for fuse sensing, without jobs. -/
theorem State.restartHeld_effect : s.restartHeld.boot.stage = .released ∧ s.restartHeld.boot.code = 0x0003
    ∧ s.restartHeld.jobs = [] := by
  obtain ⟨⟨hj, -, -⟩, hst, -⟩ := s.guardReset.restartDie_effect
  unfold State.restartHeld
  refine ⟨?_, ?_, ?_⟩
  · rw [State.setCode_boot]
    exact hst
  · rw [State.setCode_boot]
  · rw [State.setCode_jobs]
    exact hj

/-- The end of a transition whose words are programmed. -/
def State.transitioned (s : State) (j : Job) : State :=
  ((s.redecode.done j s.redecode.fuses.lc.num [] j.scCycles).completeNow j.id).restartHeld

theorem State.transitioned_fuses : (s.transitioned j).fuses = s.redecode.fuses :=
  show (s.transitioned j).get .fuses = s.redecode.get .fuses by simp [State.transitioned]

theorem State.transitioned_keeper : (s.transitioned j).keeper = s.keeper :=
  show (s.transitioned j).get .keeper = s.get .keeper by simp [State.transitioned]

theorem State.transition_goes {tgt : LcState} (h : s.invalidIn ((tripWords (s.lcWrites tgt)).map Prod.fst) = none) :
    s.transition j tgt none = (s.burnAll (tripWords (s.lcWrites tgt))).transitioned j := State.tripProgram_goes h _

/-- The state word and, into RMA, the root disables that are missing. -/
theorem State.mem_lcWrites {tgt : LcState} {q : Nat × BitVec 32} (h : q ∈ s.lcWrites tgt) :
    q = (160 + lcWord tgt, lcWordData.getD (lcWord tgt) 0) ∨ 338 ≤ q.1 := by
  refine (List.mem_cons.1 h).imp_right fun h => ?_
  split at h
  · obtain ⟨w, hw, rfl⟩ := List.mem_map.1 h
    obtain ⟨i, -, rfl⟩ := List.mem_map.1 (List.mem_filter.1 hw).1
    dsimp only
    omega
  · nomatch h

theorem lcWord_le (tgt : LcState) : lcWord tgt ≤ 5 := by
  cases tgt
  all_goals decide

/-- Every copy of the state word holds its data after a transition. -/
theorem State.transitioned_fz {tgt : LcState} {w : Nat} (h : w ∈ copies (160 + lcWord tgt)) :
    ((s.burnAll (tripWords (s.lcWrites tgt))).transitioned j).fz w = lcWordData.getD (lcWord tgt) 0 := by
  refine (State.fz_congr State.transitioned_fuses w).trans ((State.redecode_fz w).trans ?_)
  refine State.fz_tripWords (p := (160 + lcWord tgt, lcWordData.getD (lcWord tgt) 0)) List.mem_cons_self (fun q hq => ?_) h
  have hle := lcWord_le tgt
  rcases State.mem_lcWrites hq with rfl | hq
  · exact .inl rfl
  · refine .inr (.inl ?_)
    dsimp only
    omega

/-- What keeps the bits that are set leaves each word with at least its bits. -/
theorem State.KeepsBits.and_eq {t : State} (h : s.KeepsBits t) (w : Nat) : t.fuses.word w &&& s.fuses.word w = s.fuses.word w :=
  BitVec.eq_of_getLsbD_eq fun b _ => by
    rw [BitVec.getLsbD_and]
    cases hb : (s.fuses.word w).getLsbD b
    · exact Bool.and_false _
    · rw [h w b hb]
      rfl

theorem State.transitioned_keepsBits {tgt : LcState} :
    s.KeepsBits ((s.burnAll (tripWords (s.lcWrites tgt))).transitioned j) :=
  State.KeepsBits.raw (s := (s.burnAll (tripWords (s.lcWrites tgt))).redecode)
    (State.KeepsBits.raw (s := s.burnAll (tripWords (s.lcWrites tgt))) (.burnAll (.refl s) _) rfl)
    (congrArg Fuses.raw State.transitioned_fuses)

/-! ### Certificates (R476 to R480) -/

/-- A certificate without a fault consumes the nonce. -/
theorem State.useNonce_of_good {rma : Bool} (h : s.certFault rma inp = none) :
    s.useNonce inp = s.mapKeeper fun k => { k with debugNonce := k.debugNonce + 1 } := by
  refine if_pos ?_
  unfold State.certFault at h
  by_cases hf : certForm inp = true
  · by_cases hd : fieldAt inp 8 8 = s.deviceId
    · by_cases hn : fieldAt inp 16 8 = s.keeper.debugNonce
      · exact ⟨hf, hd, hn⟩
      · simp [hf, hd, hn] at h
    · simp [hf, hd] at h
  · simp [hf] at h

/-- An optional fault is no success. -/
def NoOk (o : Option (Status × Nat)) : Prop := ∀ c r, o = some (c, r) → c ≠ st.ok

theorem NoOk.ite {p : Prop} [Decidable p] {c : Status} {r : Nat} {o : Option (Status × Nat)} (hc : c ≠ st.ok) (ho : NoOk o) :
    NoOk (if p then some (c, r) else o) := by
  split
  · rintro _ _ ⟨⟩
    exact hc
  · exact ho

theorem State.certFault_ne_ok {rma : Bool} : NoOk (s.certFault rma inp) := by
  have hp : st.paramRejected ≠ st.ok := by decide
  exact .ite (by decide) (.ite hp (.ite hp (.ite hp (.ite hp (.ite hp (.ite hp (.ite hp (.ite (by decide) nofun))))))))

/-- A transition that runs: the nonce of its authorisation is consumed first, and the fuses and the job are as they were. -/
theorem execLcTransition_runs (hn : s.nvFree = true) (h : s.runsJob id j .lcTransition inp) {tgt : LcState}
    (ht : tgt = lcOfNum (j.entry.p 0 1)) (hc : tgt = .rma → s.certFault true inp = none) :
    ∃ u : State, (∀ bad, exec (.lcTransition id inp bad) s = .next (u.transition j tgt bad)) ∧ u.fuses = s.fuses
      ∧ u.job? id = some j ∧ u.keeper.debugNonce = s.keeper.debugNonce + (if tgt = .rma then 1 else 0) := by
  subst ht
  by_cases hr : lcOfNum (j.entry.p 0 1) = .rma
  · refine ⟨s.useNonce inp, fun bad => congrArg Host.Outcome.next ((State.nvOp_of h hn _).trans ((if_pos hr).trans ?_)), ?_, ?_, ?_⟩
    · rw [hc hr]
    · exact State.useNonce_get s inp (fld := .fuses) (by simp)
    · exact (State.job?_congr (State.useNonce_get s inp (fld := .jobs) (by simp)) id).trans h.1
    · rw [State.useNonce_of_good (hc hr), if_pos hr]
      rfl
  · refine ⟨s, fun bad => congrArg Host.Outcome.next ((State.nvOp_of h hn _).trans (if_neg hr)), rfl, h.1, ?_⟩
    rw [if_neg hr]
    rfl

theorem execLcTransition_completes (hn : s.nvFree = true) :
    let tgt := lcOfNum (j.entry.p 0 1)
    let words := (tripWords (s.lcWrites tgt)).map Prod.fst
    s.runsJob id j .lcTransition inp → (tgt = .rma → s.certFault true inp = none) →
    (∀ w bad, s.invalidIn words = some w →
      ∃ t, exec (.lcTransition id inp bad) s = .next t ∧ t.fuses = s.fuses
        ∧ t.endedWith id st.paramRejected (BitVec.ofNat 64 (4 + 65536 * w)) [])
    ∧ (s.invalidIn words = none →
      ∃ t, exec (.lcTransition id inp none) s = .next t ∧ t.boot.stage = .released ∧ t.boot.code = 0x0003 ∧ t.jobs = []
        ∧ (∀ w, w ∈ copies (160 + lcWord tgt) → (t.fuses.shadowOf w).data = lcWordData.getD (lcWord tgt) 0)
        ∧ (∀ w, t.fuses.word w &&& s.fuses.word w = s.fuses.word w)
        ∧ t.keeper.debugNonce = s.keeper.debugNonce + (if tgt = .rma then 1 else 0)) := by
  intro tgt words h hc
  obtain ⟨u, hu, hf, hj, hk⟩ := execLcTransition_runs hn h rfl hc
  have hw : u.invalidIn ((tripWords (u.lcWrites tgt)).map Prod.fst) = s.invalidIn words := by
    rw [State.lcWrites_congr hf, State.invalidIn_congr hf]
  refine ⟨fun w bad hi => ⟨_, (hu bad).trans (congrArg _ (State.tripProgram_invalid (hw.trans hi) bad _)), ?_, ?_⟩, fun hi => ?_⟩
  · exact (State.fuseFail_get u j 4 w (fld := .fuses) (by simp)).trans hf
  · exact State.fuseFail_ended hj (State.job?_id h.1) 4 w
  · obtain ⟨hst, hco, hjobs⟩ := State.restartHeld_effect (s := ((u.burnAll (tripWords (u.lcWrites tgt))).redecode.done j
      (u.burnAll (tripWords (u.lcWrites tgt))).redecode.fuses.lc.num [] j.scCycles).completeNow j.id)
    refine ⟨_, (hu none).trans (congrArg _ (State.transition_goes (hw.trans hi))), hst, hco, hjobs,
      fun w => State.transitioned_fz, fun w => ?_, ?_⟩
    · rw [← hf]
      exact State.KeepsBits.and_eq State.transitioned_keepsBits w
    · rw [State.transitioned_keeper, show (u.burnAll _).keeper = u.keeper from State.burnAll_get _ _ (fld := .keeper) (by simp)]
      exact hk

/-! ### Owner transfer (R474) -/

/-- No session of any function, nor the management link's, is open. -/
theorem State.shutSessions_session (fn : Nat) : (s.shutSessions.session fn).isOpen = false := by
  unfold State.session
  split
  · rfl
  · unfold State.shutSessions State.fn
    rw [List.getD_eq_getElem?_getD, List.getElem?_map]
    cases s.fns[fn]?
    · rfl
    · rfl

/-- The end of a transfer whose words are programmed. -/
def State.transferred (s : State) (j : Job) (e : Nat) : State :=
  ((s.redecode.spoilKeyStores false).shutSessions.mapKeeper fun k =>
    { k with creds := [], debugRights := 0, debugExpiry := 0, debugDigest := [] }).done j (e + 1) [] j.scCycles

theorem State.transferred_fz (e v : Nat) : (s.transferred j e).fz v = s.fz v := by
  have h : (s.transferred j e).get .fuses = s.redecode.get .fuses := by simp [State.transferred]
  exact (State.fz_congr h v).trans (State.redecode_fz v)

/-- A transfer spoils the keys and takes credentials, debug rights and sessions back. -/
theorem State.transferred_effect (e : Nat) : (s.transferred j e).keys.ctx = [] ∧ (s.transferred j e).keys.imported = []
    ∧ (s.transferred j e).keeper.creds = [] ∧ (s.transferred j e).keeper.debugRights = 0
    ∧ ∀ fn, ((s.transferred j e).session fn).isOpen = false :=
  ⟨rfl, rfl, rfl, rfl, fun fn => State.shutSessions_session fn⟩

theorem State.transferred_ended (h : s.job? id = some j) (e : Nat) :
    (s.transferred j e).endedWith id st.ok (BitVec.ofNat 64 (e + 1)) [] :=
  State.done_ended (s := ((s.redecode.spoilKeyStores false).shutSessions).mapKeeper _)
    ((State.job?_congr s.transfer_jobs id).trans h) (State.job?_id h) _ _ _

theorem execOwnerTransfer_completes (hn : s.nvFree = true) :
    let e := s.fuses.epoch
    s.runsJob id j .ownerTransfer [] →
    s.invalidIn ((tripWords [(168 + e, epochData), (338 + e, rootDisableData)]).map Prod.fst) = none →
    ∃ t, exec (.ownerTransfer id none) s = .next t ∧ t.endedWith id st.ok (BitVec.ofNat 64 (e + 1)) []
      ∧ (∀ w, w ∈ copies (168 + e) → (t.fuses.shadowOf w).data = epochData)
      ∧ (∀ w, w ∈ copies (338 + e) → (t.fuses.shadowOf w).data = rootDisableData)
      ∧ t.keys.ctx = [] ∧ t.keys.imported = [] ∧ t.keeper.creds = [] ∧ t.keeper.debugRights = 0
      ∧ (∀ fn, (t.session fn).isOpen = false) := by
  intro e h hi
  let u := s.burnAll (tripWords [(168 + e, epochData), (338 + e, rootDisableData)])
  have hrow : exec (.ownerTransfer id none) s = .next (u.transferred j e) :=
    congrArg Host.Outcome.next ((State.nvOp_of h hn _).trans (State.tripProgram_goes hi _))
  refine ⟨_, hrow, State.transferred_ended ((State.burnAll_job? _ id).trans h.1) e, fun w hw => ?_, fun w hw => ?_,
    State.transferred_effect e⟩
  · refine (State.transferred_fz e w).trans (State.fz_tripWords (p := (168 + e, epochData)) List.mem_cons_self
      (fun q hq => ?_) hw)
    rcases List.mem_cons.1 hq with rfl | hq
    · exact .inl rfl
    · obtain rfl := List.mem_singleton.1 hq
      exact .inr (.inl (by dsimp only; omega))
  · refine (State.transferred_fz e w).trans (State.fz_tripWords (p := (338 + e, rootDisableData)) (List.mem_cons_of_mem _ List.mem_cons_self)
      (fun q hq => ?_) hw)
    rcases List.mem_cons.1 hq with rfl | hq
    · exact .inr (.inr (by dsimp only; omega))
    · exact .inl (List.mem_singleton.1 hq)

/-! ### Nonce and certificate (R476, R480) -/

theorem execDebugNonce_completes (hn : s.nvFree = true) (h : s.runsJob id j .debugNonce []) :
    let n := s.keeper.debugNonce + 1
    ∃ t, exec (.debugNonce id) s = .next t ∧ t.keeper.debugNonce = n
      ∧ t.endedWith id st.ok 0 (leBytes 8 n ++ leBytes 8 s.deviceId ++ leBytes 8 s.keeper.bootCount) :=
  ⟨_, congrArg Host.Outcome.next (State.nvOp_of h hn _), rfl,
    State.done_ended (s := s.mapKeeper _) (x := j) h.1 (State.job?_id h.1) 0 _ _⟩

theorem State.acceptCert_keeper (b : Bytes) : (s.acceptCert b).keeper.debugNonce = s.keeper.debugNonce
    ∧ (s.acceptCert b).keeper.debugRights = certRights b ∧ (s.acceptCert b).keeper.debugExpiry = fieldAt b 32 8
    ∧ (s.acceptCert b).keeper.debugDigest = Config.sha384 b
    ∧ (s.fuses.lc ≠ .rma → (s.acceptCert b).keys.ctx = [] ∧ (s.acceptCert b).keeper.debugSpoiled = true) := by
  unfold State.acceptCert
  dsimp only
  by_cases hr : s.fuses.lc = .rma
  · rw [if_pos hr]
    exact ⟨rfl, rfl, rfl, rfl, fun hc => absurd hr hc⟩
  · rw [if_neg hr]
    exact ⟨rfl, rfl, rfl, rfl, fun _ => ⟨rfl, rfl⟩⟩

theorem execDebugCert_completes (hn : s.nvFree = true) (h : s.runsJob id j .debugCert inp) :
    ∃ t, exec (.debugCert id inp) s = .next t
      ∧ (s.certFault false inp = none →
          t.endedWith id st.ok pairTrue [] ∧ t.keeper.debugNonce = s.keeper.debugNonce + 1
          ∧ t.keeper.debugRights = certRights inp ∧ t.keeper.debugExpiry = fieldAt inp 32 8
          ∧ t.keeper.debugDigest = Config.sha384 inp
          ∧ (s.fuses.lc ≠ .rma → t.keys.ctx = [] ∧ t.keeper.debugSpoiled = true))
      ∧ (∀ c r, s.certFault false inp = some (c, r) →
          t.endedWith id c (BitVec.ofNat 64 r) [] ∧ t.keeper.debugRights = s.keeper.debugRights ∧ t.keys = s.keys) := by
  obtain rfl : j.id = id := State.job?_id h.1
  have hu : (s.useNonce inp).job? j.id = some j :=
    (State.job?_congr (State.useNonce_get s inp (fld := .jobs) (by simp)) j.id).trans h.1
  refine ⟨_, congrArg Host.Outcome.next (State.nvOp_of h hn _), fun hg => ?_, fun c r hb => ?_⟩
  · rw [hg]
    dsimp only
    have ha : ((s.useNonce inp).acceptCert inp).job? j.id = some j :=
      (State.job?_congr (State.acceptCert_get _ inp (fld := .jobs) (by simp)) j.id).trans hu
    obtain ⟨hnon, hri, hex, hdi, hsp⟩ := State.acceptCert_keeper (s := s.useNonce inp) inp
    refine ⟨State.finish_ended ha st.ok pairTrue [] _, hnon.trans ?_, hri, hex, hdi, fun hr => hsp ?_⟩
    · rw [State.useNonce_of_good hg]
      rfl
    · rw [State.useNonce_of_good hg]
      exact hr
  · rw [hb]
    dsimp only
    refine ⟨State.endWith_ended hu rfl (State.certFault_ne_ok _ _ hb) r _, ?_, ?_⟩
    · unfold State.useNonce
      split
      · rfl
      · rfl
    · exact State.useNonce_get s inp (fld := .keys) (by simp)

end

end Sys2Proof.Machine
open Sys2Proof Sys2Proof.Machine

/-- Settles O39: each command by its own row. -/
theorem lifeCycleAndDebugComplete : Obligations.LifeCycleAndDebugComplete := by
  intro s id j inp hn
  exact ⟨execLcTransition_completes hn, execOwnerTransfer_completes hn, execDebugNonce_completes hn, execDebugCert_completes hn⟩
end

section
/-! SVN bands and the step words of a confirmation (R456, R521). -/
namespace Sys2Proof.Machine
open Sys2Proof

/-! ### The value of a band (R456) -/

/-- The highest index below `n` with `p`, plus one; 0 where none has it. -/
def topIndex (p : Nat → Bool) (n : Nat) : Nat := (List.range n).foldl (fun m i => if p i then i + 1 else m) 0

theorem topIndex_succ (p : Nat → Bool) (n : Nat) : topIndex p (n + 1) = if p n then n + 1 else topIndex p n := by
  unfold topIndex
  rw [List.range_succ, List.foldl_append]
  rfl

theorem topIndex_le (p : Nat → Bool) (n : Nat) : topIndex p n ≤ n := by
  induction n with
  | zero => exact Nat.le_refl 0
  | succ n ih =>
    rw [topIndex_succ]
    split
    · exact Nat.le_refl _
    · exact Nat.le_succ_of_le ih

/-- No index from the value on has the property. -/
theorem not_of_topIndex_le {p : Nat → Bool} {n i : Nat} (h : topIndex p n ≤ i) (hi : i < n) : p i = false := by
  induction n with
  | zero => nomatch hi
  | succ n ih =>
    rw [topIndex_succ] at h
    split at h
    · omega
    · next hp =>
      by_cases hn : i = n
      · exact hn ▸ Bool.eq_false_iff.2 hp
      · exact ih h (by omega)

/-- The index below the value has the property. -/
theorem of_topIndex_eq {p : Nat → Bool} {n k : Nat} (h : topIndex p n = k + 1) : p k = true := by
  induction n with
  | zero => nomatch h
  | succ n ih =>
    rw [topIndex_succ] at h
    split at h
    · next hp =>
      cases h
      exact hp
    · exact ih h

theorem topIndex_eq_zero_iff {p : Nat → Bool} {n : Nat} : topIndex p n = 0 ↔ ∀ i, i < n → p i = false := by
  refine ⟨fun h i hi => not_of_topIndex_le (h ▸ Nat.zero_le i) hi, fun h => ?_⟩
  cases hk : topIndex p n with
  | zero => rfl
  | succ k =>
    have hle := topIndex_le p n
    have hp := of_topIndex_eq hk
    rw [h k (by omega)] at hp
    nomatch hp

section
variable {s : State}

/-- The word of a band is not blank. -/
def State.stepSet (s : State) (c i : Nat) : Bool := decide (s.fuses.word ((bandWords c).1 + i) ≠ 0)

theorem State.svnBand_eq (c : Nat) : s.svnBand c = topIndex (s.stepSet c) (bandWords c).2 := by
  simp only [State.svnBand, topIndex, State.stepSet, decide_eq_true_eq]

theorem State.stepSet_false {c i : Nat} : s.stepSet c i = false ↔ s.fuses.word ((bandWords c).1 + i) = 0 :=
  decide_eq_false_iff_not.trans Decidable.not_not

/-! ### The steps of a confirmation (R521) -/

/-- The step words R521 programs: blank ones and, where the ROM rolls forward, those with bits missing. -/
def State.stepWords (s : State) (c svn : Nat) (roll : Bool) : List Nat :=
  ((List.range svn).map ((bandWords c).1 + ·)).filter fun w =>
    s.fuses.word w = 0 || (roll && (s.fuses.word w ≠ fuseRaw 0xFFFFFFFF && rawSubset (s.fuses.word w) (fuseRaw 0xFFFFFFFF)))

/-- The data of a step word. -/
def stepData : BitVec 32 := 0xFFFFFFFF

theorem State.finishConfirm_fuses (c svn : Nat) (roll : Bool) :
    (s.finishConfirm c svn roll).fuses = (s.burnAll ((s.stepWords c svn roll).map fun w => (w, stepData))).fuses := rfl

theorem State.mem_stepWords {c svn i : Nat} {roll : Bool} (hi : i < svn) (h : s.fuses.word ((bandWords c).1 + i) = 0) :
    (bandWords c).1 + i ∈ s.stepWords c svn roll :=
  List.mem_filter.2 ⟨List.mem_map_of_mem (List.mem_range.2 hi), by simp [h]⟩

/-- A confirmation that may run ends its job and forgets it. -/
theorem execConfirmationRun_runs {jn : UpdJournal} (hj : s.upd.journal = some jn) (hs : s.upd.stage = .confirming)
    (hv : s.power.nvOk = true) (hn : s.nvFree = true) :
    exec .confirmationRun s = .next (((s.finishConfirm jn.component jn.svn false).endUpdJob s.upd.confJob st.ok 0).mapUpd
      fun u => { u with confJob := none }) := by
  refine congrArg Host.Outcome.next ?_
  rw [hj]
  exact if_pos ⟨hs, hv, hn⟩

/-- Ending the job leaves the fuses. -/
theorem State.confirmed_fuses (c svn : Nat) (id : Option Nat) (f : Update → Update) :
    (((s.finishConfirm c svn false).endUpdJob id st.ok 0).mapUpd f).fuses = (s.finishConfirm c svn false).fuses :=
  State.endUpdJob_get _ _ _ _ (fld := .fuses) (by simp)

/-- A blank step word below the SVN gets its data. -/
theorem State.confirmed_step {c svn i : Nat} {id : Option Nat} {f : Update → Update} (hi : i < svn)
    (h : s.fuses.word ((bandWords c).1 + i) = 0) :
    ((((s.finishConfirm c svn false).endUpdJob id st.ok 0).mapUpd f).fuses.shadowOf ((bandWords c).1 + i)).data = stepData := by
  rw [State.confirmed_fuses, State.finishConfirm_fuses, State.burnAll_data]
  exact if_pos (State.mem_stepWords hi h)

end

end Sys2Proof.Machine
open Sys2Proof Sys2Proof.Machine

/-- Settles O53: the value is the highest index of a word that is not blank, plus one. -/
theorem svnBandValue : Obligations.SvnBandValue := by
  intro s c b
  rw [State.svnBand_eq]
  refine ⟨topIndex_le _ _, ?_, fun n hn => of_decide_eq_true (of_topIndex_eq hn), fun i h hi => ?_, ?_⟩
  · exact topIndex_eq_zero_iff.trans (forall₂_congr fun i _ => State.stepSet_false)
  · exact State.stepSet_false.1 (not_of_topIndex_le h hi)
  · rintro jn hj rfl hs hv hn
    exact ⟨_, execConfirmationRun_runs hj hs hv hn, fun i hi h => State.confirmed_step hi h⟩
end

section
/-! The update commands (R506 to R516, R521, R526). -/
namespace Sys2Proof.Machine
open Sys2Proof

section
variable {s : State} {id : Nat} {j : Job} {inp : Bytes}

theorem State.markDue_job? (id : Nat) : s.markDue.job? id = s.job? id := rfl

/-! ### The HIGH half (R381, R508) -/

/-- A held HIGH half is taken later. -/
theorem State.takeHigh_held (h : s.highHeld = true) : s.takeHigh = s := if_pos h

/-- Where no job holds a HIGH slot, staging for a job takes the HIGH half at once and ends the job. -/
theorem State.takeHigh_job (hh : s.highHeld = false) (ht : s.store.taking = .job id) (hj : s.job? id = some j) :
    s.takeHigh.upd.stage = .downloading ∧ s.takeHigh.upd.holder = s.upd.holder ∧ s.takeHigh.upd.holderId = s.upd.holderId
      ∧ s.takeHigh.upd.component = s.upd.component ∧ s.takeHigh.upd.header = s.upd.header ∧ s.takeHigh.store.lent = true
      ∧ s.takeHigh.endedWith id st.ok 0 [] := by
  unfold State.takeHigh
  extract_lets u
  rw [if_neg (Bool.eq_false_iff.1 hh), ht]
  dsimp only
  rw [hj]
  exact ⟨rfl, rfl, rfl, rfl, rfl, rfl, State.finish_ended (s := u) (j := j) hj st.ok 0 [] _⟩

/-- A job that waits at the barrier. -/
def Job.barred (now : Nat) (x : Job) : Job := { x with phase := .barrier, unit := none, waitFrom := now }

/-- The state in which staging for a job asks for the HIGH half. -/
def State.asking (s : State) (j : Job) (h : Bytes) : State :=
  ((((s.mapUpd fun u => { u with holder := .host, holderId := j.ctlNumber }).mapJob j.id (Job.barred s.now)).mapUpd fun u =>
    { u with component := imgComponent h, header := h, timerFrom := s.now, areaOk := false }).mapStore fun o =>
      { o with taking := .job j.id })

theorem State.asking_highHeld (h : Bytes) : (s.asking j h).highHeld = s.highHeld := by
  have hm : (s.asking j h).highHeld
      = (s.jobs.map fun x => if x.id = j.id then x.barred s.now else x).any fun x => x.holds.any fun y => s.store.isHigh y.slot := rfl
  rw [hm, List.any_map]
  refine congrArg (s.jobs.any ·) (funext fun x => ?_)
  dsimp only [Function.comp]
  split
  · rfl
  · rfl

theorem execUpdateBegin_asks (h : s.runsJob id j .updateBegin inp) (hl : s.lockHeld = false)
    (hf : s.beginFault j.fn inp = none) : exec (.updateBegin id inp) s = .next (s.asking j inp).takeHigh := by
  refine congrArg Host.Outcome.next ((State.runOp_of h _).trans ((if_neg (Bool.eq_false_iff.1 hl)).trans ?_))
  rw [hf]
  rfl

theorem execUpdateBegin_refuses (h : s.runsJob id j .updateBegin inp) (hl : s.lockHeld = false) {c : Status} {r : BitVec 64}
    (hf : s.beginFault j.fn inp = some (c, r)) :
    exec (.updateBegin id inp) s = .next (s.draw.finish j.id c r [] j.scCycles) := by
  refine congrArg Host.Outcome.next ((State.runOp_of h _).trans ((if_neg (Bool.eq_false_iff.1 hl)).trans ?_))
  rw [hf]

/-- A header without a fault takes the lock; where the HIGH half is held, the job waits for it. -/
theorem execUpdateBegin_completes (h : s.runsJob id j .updateBegin inp) (hl : s.lockHeld = false) :
    ∃ t, exec (.updateBegin id inp) s = .next t
      ∧ (s.beginFault j.fn inp = none →
          t.upd.holder = .host ∧ t.upd.holderId = j.ctlNumber ∧ t.upd.component = imgComponent inp ∧ t.upd.header = inp
          ∧ (s.highHeld = false → t.upd.stage = .downloading ∧ t.store.lent = true ∧ t.endedWith id st.ok 0 [])
          ∧ (s.highHeld = true → t.upd.stage = s.upd.stage ∧ t.store.taking = .job id
              ∧ (t.job? id).map Job.phase = some .barrier))
      ∧ (∀ c r, s.beginFault j.fn inp = some (c, r) → t.upd = s.upd ∧ t.endedWith id c r []) := by
  obtain rfl : j.id = id := State.job?_id h.1
  have hx : (s.asking j inp).job? j.id = some (j.barred s.now) :=
    State.job?_mapJob_same (s := s.mapUpd fun u => { u with holder := .host, holderId := j.ctlNumber }) h.1 fun _ => rfl
  cases hf : s.beginFault j.fn inp with
  | none =>
    refine ⟨_, execUpdateBegin_asks h hl hf, fun _ => ?_, nofun⟩
    cases hh : s.highHeld with
    | false =>
      obtain ⟨hst, hho, hid, hco, hhd, hle, hend⟩ :=
        State.takeHigh_job ((State.asking_highHeld inp).trans hh) (s := s.asking j inp) rfl hx
      exact ⟨hho, hid, hco, hhd, fun _ => ⟨hst, hle, hend⟩, nofun⟩
    | true =>
      rw [State.takeHigh_held ((State.asking_highHeld inp).trans hh)]
      exact ⟨rfl, rfl, rfl, rfl, nofun, fun _ => ⟨rfl, rfl, congrArg (Option.map Job.phase) hx⟩⟩
  | some p =>
    obtain ⟨c, r⟩ := p
    refine ⟨_, execUpdateBegin_refuses h hl hf, nofun, ?_⟩
    rintro _ _ ⟨⟩
    have he := State.finish_ended (s := s.draw) h.1 c r [] j.scCycles
    rw [ite_self] at he
    exact ⟨rfl, he⟩

/-! ### Blocks and verification (R509 to R513) -/

theorem State.stageBlock_job? {off : Nat} {data : Bytes} {v : State} (h : s.stageBlock off data = some v) (id : Nat) :
    v.job? id = s.job? id := by
  unfold State.stageBlock at h
  dsimp only at h
  split at h
  · nomatch h
  · obtain rfl := Option.some.inj h
    rfl

theorem execUpdateBlock_stages (h : s.runsJob id j .updateBlock inp) (hs : s.upd.stage = .downloading) :
    ∃ t, exec (.updateBlock id inp) s = .next t
      ∧ (∀ v, s.stageBlock (j.entry.p 0 4) inp = some v →
          t.upd = v.upd ∧ t.endedWith id st.ok (BitVec.ofNat 64 v.upd.received) [])
      ∧ (s.stageBlock (j.entry.p 0 4) inp = none → t.upd = s.upd ∧ t.endedWith id st.paramRejected 7 []) := by
  have hj : j.id = id := State.job?_id h.1
  refine ⟨_, congrArg Host.Outcome.next ((State.runOp_of h _).trans (if_neg (not_not_intro hs))), fun v hv => ?_, fun hv => ?_⟩
  · rw [hv]
    exact ⟨rfl, State.done_ended ((State.stageBlock_job? hv id).trans h.1) hj _ [] _⟩
  · rw [hv]
    exact ⟨rfl, State.endWith_ended h.1 hj (by decide) 7 _⟩

/-- A verification that ends with OK is in stage 3, any other in stage 1. -/
def StageFits (v : Status × BitVec 64 × State) : Prop := v.2.2.upd.stage = if v.1 = st.ok then .verified else .downloading

theorem StageFits.good {r : BitVec 64} {t : State} (h : t.upd.stage = .verified) : StageFits (st.ok, r, t) :=
  h.trans (if_pos rfl).symm

theorem StageFits.bad {c : Status} {r : BitVec 64} {t : State} (hc : c ≠ st.ok) (h : t.upd.stage = .downloading) :
    StageFits (c, r, t) := h.trans (if_neg hc).symm

theorem StageFits.ite {p : Prop} {_ : Decidable p} {a b : Status × BitVec 64 × State} (ha : StageFits a) (hb : StageFits b) :
    StageFits (if p then a else b) := by
  split
  · exact ha
  · exact hb

theorem State.verifyImage_stage (back : Bool) : StageFits (s.verifyImage back) := by
  have hp : st.paramRejected ≠ st.ok := by decide
  unfold State.verifyImage
  extract_lets img b good
  split
  · exact .bad hp rfl
  · refine .ite (.bad hp rfl) (.ite (.bad (by decide) rfl) (.ite (.bad hp rfl) ?_))
    split
    · exact .good rfl
    · exact .ite (.good rfl) (.bad (by decide) rfl)

theorem execUpdateVerify_verifies (back : Bool) (h : s.runsJob id j .updateVerify []) :
    ∃ t, exec (.updateVerify id back) s = .next t
      ∧ (s.upd.stage = .downloading → t.upd = { s.upd with stage := .verifying } ∧ (t.job? id).map Job.phase = some .yielded)
      ∧ (s.upd.stage = .verifying →
          let v := s.verifyImage back
          t.endedWith id v.1 v.2.1 [] ∧ t.upd.stage = if v.1 = st.ok then .verified else .downloading) := by
  obtain rfl : j.id = id := State.job?_id h.1
  refine ⟨_, congrArg Host.Outcome.next (State.runCmd_of h _), fun hs => ?_, fun hs => ?_⟩
  · dsimp only
    rw [hs]
    exact ⟨rfl, State.mapJob_phase (s := s.mapUpd _) h.1 _ _⟩
  · dsimp only
    rw [hs]
    have hv : (s.verifyImage back).2.2.job? j.id = some j :=
      (State.job?_congr (State.verifyImage_get s back (fld := .jobs) (by simp)) j.id).trans h.1
    have he := State.finish_ended hv (s.verifyImage back).1 (s.verifyImage back).2.1 [] j.scCycles
    rw [ite_self] at he
    exact ⟨he, State.verifyImage_stage back⟩

/-! ### Activation, confirmation, cancelling (R515, R521, R526) -/

theorem execUpdateActivate_activates (h : s.runsJob id j .updateActivate []) (ha : s.upd.actJob = none) :
    let e := j.entry
    let u := s.upd
    ∃ t, exec (.updateActivate id) s = .next t
      ∧ (e.p 0 8 = 0 → u.stage = .verified ∨ u.stage = .scheduled → s.canActivate = true →
          t.upd = { u with actJob := some id, waitFrom := some (u.waitFrom.getD s.now) }
          ∧ (t.job? id).map Job.phase = some .barrier)
      ∧ (e.p 0 8 ≠ 0 → u.stage = .verified → s.boot.timeValid = true →
          t.upd = { u with stage := .scheduled, activeAt := e.p 0 8, atPps := e.flag 2 } ∧ t.endedWith id st.ok 0 []) := by
  intro e u
  obtain rfl : j.id = id := State.job?_id h.1
  refine ⟨_, congrArg Host.Outcome.next (State.runCmd_of h _), fun h0 hs hc => ?_, fun h0 hs ht => ?_⟩
  · dsimp only
    rw [if_neg ?_, if_pos h0]
    · rw [State.markDue_job?]
      exact ⟨rfl, State.mapJob_phase (s := s.mapUpd _) h.1 _ _⟩
    · have hz : j.entry.p 0 8 = 0 := h0
      have hv : s.upd.stage = .verified ∨ s.upd.stage = .scheduled := hs
      rcases hv with hv | hv
      · simp [hv, ha, hz, hc]
      · simp [hv, ha, hz, hc]
  · dsimp only
    rw [if_neg ?_, if_neg h0]
    · exact ⟨rfl, State.done_ended (s := s.mapUpd _) (x := j) h.1 rfl 0 [] _⟩
    · have hz : ¬ j.entry.p 0 8 = 0 := h0
      have hv : s.upd.stage = .verified := hs
      simp [hv, ha, hz, ht]

theorem execUpdateConfirm_confirms (h : s.runsJob id j .updateConfirm []) (hs : s.upd.stage = .unconfirmed)
    (ho : s.upd.selftestOk = true) :
    ∃ t, exec (.updateConfirm id) s = .next t ∧ t.upd.stage = .confirming ∧ t.upd.confJob = some id
      ∧ (t.job? id).map Job.phase = some .barrier := by
  obtain rfl : j.id = id := State.job?_id h.1
  have hc : ¬ (s.upd.stage ≠ .unconfirmed ∨ s.upd.selftestOk = false) := by simp [hs, ho]
  exact ⟨_, congrArg Host.Outcome.next ((State.runCmd_of h _).trans (if_neg hc)), rfl, rfl,
    State.mapJob_phase (s := (s.beginConfirm).mapUpd _) h.1 _ _⟩

theorem State.endUpdJob_job?_some (h : (s.job? id).isSome) (o : Option Nat) (c : Status) (n : Nat) :
    ((s.endUpdJob o c n).job? id).isSome := by
  unfold State.endUpdJob
  split
  · split
    · exact State.finish_job?_some h _ _ _ _ _
    · exact State.finish_job?_some h _ _ _ _ _
  · exact h

theorem execUpdateCancel_cancels (h : s.runsJob id j .updateCancel []) (ho : s.updateOpen = true) :
    ∃ t, exec (.updateCancel id) s = .next t ∧ t.endedWith id st.ok 0 [] ∧ t.upd.stage = .idle ∧ t.upd.holder = .none
      ∧ t.upd.image = [] ∧ t.store.lent = false := by
  have hd : (s.dropUpdate.job? id).isSome := Option.isSome_of_eq_some h.1
  obtain ⟨x, hx⟩ := Option.isSome_iff_exists.1 (State.endUpdJob_job?_some hd s.upd.actJob st.stateRefused 0)
  obtain ⟨hst, hho, hle⟩ := s.cancelUpdate_idle
  have hu : s.cancelUpdate.upd = s.dropUpdate.upd := State.endUpdJob_get _ _ _ _ (fld := .upd) (by simp)
  exact ⟨_, congrArg Host.Outcome.next ((State.runCmd_of h _).trans (if_pos ho)),
    State.done_ended (s := s.cancelUpdate) hx (State.job?_id h.1) 0 [] _, hst, hho, congrArg Update.image hu, hle⟩

theorem execHighHalfWaitTimeout_ends (h : s.job? id = some j) (ht : s.store.taking = .job id) :
    ∃ t, exec (.highHalfWaitTimeout id) s = .next t ∧ t.upd.stage = .idle ∧ t.upd.holder = .none
      ∧ t.store.taking = .nobody ∧ ∃ n, t.endedWith id st.slotBusy n [] := by
  have hrow : exec (.highHalfWaitTimeout id) s = .next (s.dropUpdate.endWith j st.slotBusy
      ((((s.jobs.flatMap Job.holds).find? fun h => s.store.isHigh h.slot).map Hold.slot).getD 0) j.scCycles) := by
    refine congrArg Host.Outcome.next ((if_pos ht).trans ?_)
    rw [h]
  exact ⟨_, hrow, rfl, rfl, rfl, _, State.endWith_ended (s := s.dropUpdate) (x := j) h (State.job?_id h) (by decide) _ _⟩

end

end Sys2Proof.Machine
open Sys2Proof Sys2Proof.Machine

/-- Settles O40: each command by its own row. -/
theorem updateCommandsComplete : Obligations.UpdateCommandsComplete := by
  intro s id j inp e u
  exact ⟨execUpdateBegin_completes, execUpdateBlock_stages, execUpdateVerify_verifies, execUpdateActivate_activates,
    execUpdateConfirm_confirms, execUpdateCancel_cancels, execHighHalfWaitTimeout_ends⟩
end

section
/-!
The events of an update (R507, R515 to R522). Of the components that lost and completed jobs reach, the HIGH half may go to
staging that waits for it: `Stages` says what of the update stands all the same.
-/
namespace Sys2Proof.Machine
open Sys2Proof

/-! ### What jobs that end leave of an update -/

/-- The firmware slot, its digest and the journal stand; where no staging waits for the HIGH half, all of the update does. -/
structure State.Stages (s t : State) : Prop where
  slot : t.upd.slot = s.upd.slot
  hash : t.upd.slotHash = s.upd.slotHash
  journal : t.upd.journal = s.upd.journal
  idle : s.store.taking = .nobody → t.upd = s.upd ∧ t.store.taking = .nobody

theorem State.Stages.of_eq {s t : State} (hu : t.upd = s.upd) (ht : t.store.taking = s.store.taking) : s.Stages t :=
  ⟨congrArg Update.slot hu, congrArg Update.slotHash hu, congrArg Update.journal hu, fun h => ⟨hu, ht.trans h⟩⟩

theorem State.Stages.refl (s : State) : s.Stages s := .of_eq rfl rfl

theorem State.Stages.trans {r s t : State} (h : r.Stages s) (k : s.Stages t) : r.Stages t where
  slot := k.slot.trans h.slot
  hash := k.hash.trans h.hash
  journal := k.journal.trans h.journal
  idle hn := by
    obtain ⟨hu, ht⟩ := h.idle hn
    obtain ⟨ku, kt⟩ := k.idle ht
    exact ⟨ku.trans hu, kt⟩

theorem OpStore.spoilAll_taking (o : OpStore) (l : List Nat) : (o.spoilAll l).taking = o.taking :=
  List.foldlRecOn l OpStore.spoil (motive := fun x => x.taking = o.taking) rfl fun _ h _ _ => by exact h

theorem State.Stages.takeHigh (s : State) : s.Stages s.takeHigh := by
  by_cases hn : s.store.taking = .nobody
  · have h : s.takeHigh = s := by
      unfold State.takeHigh
      dsimp only
      rw [hn]
      exact ite_self s
    rw [h]
    exact .refl s
  · suffices h : s.takeHigh.upd.slot = s.upd.slot ∧ s.takeHigh.upd.slotHash = s.upd.slotHash
        ∧ s.takeHigh.upd.journal = s.upd.journal by
      obtain ⟨hs, hh, hj⟩ := h
      exact ⟨hs, hh, hj, fun h => absurd h hn⟩
    unfold State.takeHigh
    extract_lets u
    split
    · exact ⟨rfl, rfl, rfl⟩
    · split
      · exact ⟨rfl, rfl, rfl⟩
      · split
        · exact ⟨rfl, rfl, rfl⟩
        · exact ⟨rfl, rfl, rfl⟩
      · next b _ =>
        have hp : ((u.pldmSend b 0x14 0 []).requestData b).upd = u.upd :=
          (State.requestData_get _ b (fld := .upd) (by simp)).trans (u.pldmSend_upd b _ _ _)
        rw [hp]
        exact ⟨rfl, rfl, rfl⟩

theorem State.Stages.release (s : State) (j : Job) : s.Stages (s.release j) := by
  have h : s.Stages (((s.mapKeys fun k => (k.lower j.chain).lower j.chain2).mapStore fun o => o.spoilAll j.scratch).dropJob j.id) :=
    .of_eq rfl (OpStore.spoilAll_taking _ _)
  exact h.trans (.takeHigh _)

theorem State.Stages.loseJobs (s : State) (l : List Job) : s.Stages (s.loseJobs l) := by
  refine List.foldlRecOn l _ (.refl s) fun u h j _ => h.trans ?_
  have hd {fld : Field} (hf : fld ∉ ([.tables] : List Field)) : ((u.leavePort j.id).dropStream j).get fld = u.get fld :=
    (State.dropStream_get _ j hf).trans (State.leavePort_get u j.id hf)
  refine (State.Stages.of_eq (t := ((u.leavePort j.id).dropStream j).mapStore fun o => o.spoilAll j.spoiledSlots)
    (hd (fld := .upd) (by simp)) ?_).trans (.release _ j)
  exact (OpStore.spoilAll_taking _ _).trans (congrArg OpStore.taking (hd (fld := .store) (by simp)))

theorem State.written_taking (s : State) (j : Job) (e : Ending) : (s.written j e).store.taking = s.store.taking := by
  have hw (l : List (BitVec 64 × Nat)) (b : Bytes) : (s.writeOut j.q.fn l b).store = s.store :=
    State.writeOut_get s _ l b (fld := .store) (by simp)
  have hs (u : State) : (u.spoilAfter j).store.taking = u.store.taking := by
    unfold State.spoilAfter
    split
    · rfl
    · rfl
  unfold State.written
  split
  · rw [hs]
    split
    · rw [hw]
    · rfl
  · rw [hw]

theorem State.Stages.complete (s : State) (j : Job) (e : Ending) : s.Stages (s.complete j e) := by
  have hw : s.Stages (s.written j e) := .of_eq (s.written_get j e (fld := .upd) (by simp)) (s.written_taking j e)
  have hp (u : State) (x : Ending) : u.Stages (u.post j x) :=
    .of_eq (State.post_get u j x (fld := .upd) (by simp)) (congrArg OpStore.taking (State.post_get u j x (fld := .store) (by simp)))
  have hk (u : State) (n : Option Nat) (q : QRef) (c d : BitVec 16) : u.Stages ((u.wakeStream n).wakeAborts q c d) :=
    .of_eq ((State.wakeAborts_get _ q c d (fld := .upd) (by simp)).trans (State.wakeStream_get u n (fld := .upd) (by simp)))
      (congrArg OpStore.taking ((State.wakeAborts_get _ q c d (fld := .store) (by simp)).trans
        (State.wakeStream_get u n (fld := .store) (by simp))))
  rw [State.complete_eq]
  exact ((hw.trans (hp _ _)).trans (.release _ j)).trans (hk _ _ _ _ _)

theorem State.Stages.completeNow (s : State) (id : Nat) : s.Stages (s.completeNow id) := by
  unfold State.completeNow
  split
  · split
    · split
      · exact .refl s
      · exact .complete s _ _
    · exact .refl s
  · exact .refl s

/-- When jobs end without completions, the slot, its digest and the journal stand. -/
theorem State.endJobs_upd (s : State) (l : List Job) : (s.endJobs l).upd.slot = s.upd.slot
    ∧ (s.endJobs l).upd.slotHash = s.upd.slotHash ∧ (s.endJobs l).upd.journal = s.upd.journal
    ∧ (s.store.taking = .nobody → (s.endJobs l).upd.restored = s.upd.restored) := by
  have h := State.Stages.loseJobs s l
  have hu : (l.foldl State.undelivered (s.loseJobs l)).upd = (s.loseJobs l).upd :=
    State.foldl_keeps State.upd (fun u j => State.undelivered_get u j (fld := .upd) (by simp)) l _
  unfold State.endJobs State.forgetWaits
  dsimp only [State.mapGuard, State.mapStore, State.mapUpd]
  rw [hu]
  exact ⟨h.slot, h.hash, h.journal, fun hn => congrArg Update.restored (h.idle hn).1⟩

/-! ### The lock and the schedule (R507, R515, R516) -/

section
variable {s : State}

theorem execUpdateLockExpired_drops (hs : s.upd.stage = .downloading ∨ s.upd.stage = .verified) (hw : s.upd.waitFrom = none) :
    ∃ t, exec .updateLockExpired s = .next t ∧ t.upd.stage = .idle ∧ t.upd.holder = .none ∧ t.store.lent = false :=
  ⟨_, congrArg Host.Outcome.next (if_pos ⟨hs, hw⟩), State.cancelUpdate_idle _⟩

theorem State.logEvent_now (c : BitVec 16) (d : Nat) : (s.logEvent c d).now = s.now :=
  congrArg Keeper.ticks (State.logEvent_get s c d (fld := .keeper) (by simp))

/-- An aligned activation that waits for no edge yet is due once its second has passed. -/
theorem execAlignLost_marks (hs : s.upd.stage = .scheduled) (ha : s.upd.atPps = true) (hw : s.upd.waitFrom = none)
    (ht : secs (s.upd.activeAt + 1) ≤ s.platformTime) :
    ∃ t, exec .alignLost s = .next t ∧ t.upd = { s.upd with waitFrom := some s.now } := by
  refine ⟨_, congrArg Host.Outcome.next (if_pos ⟨hs, ha, hw, ht⟩), ?_⟩
  unfold State.markDue
  rw [State.mapUpd_upd, State.logEvent_upd, State.logEvent_now, hw]
  rfl

theorem execActivationDeferred_defers (hs : s.upd.stage = .scheduled) (hw : s.upd.waitFrom.isSome = true)
    (hc : s.canActivate = false) :
    ∃ t, exec .activationDeferred s = .next t
      ∧ t.upd = { s.upd with stage := .verified, waitFrom := none, activeAt := 0, atPps := false, timerFrom := s.now } :=
  ⟨_, congrArg Host.Outcome.next (if_pos ⟨hs, hw, hc⟩), State.logEvent_upd _ _ _⟩

/-! ### Activation (R516 to R519) -/

/-- Stage 5 and its journal record. -/
theorem State.beginStage5_upd : s.beginStage5.upd.stage = .activating
    ∧ s.beginStage5.upd.journal = some {
        stage := .activating, component := s.upd.component, digest := Config.sha384 s.upd.staged, svn := imgSvn s.upd.header,
        holdHost := s.holdHost, holder := s.upd.holder, swapped := false, hasArea := s.upd.areaOk }
    ∧ s.beginStage5.store.taking = s.store.taking := by
  have hg (u : State) {fld : Field} (h : fld ∉ ([.guard, .mgmt, .flt, .out] : List Field)) :
      (u.guardly State.holdAll).get fld = u.get fld := by
    simp only [List.mem_cons, List.not_mem_nil, or_false, not_or] at h
    simp [h]
  unfold State.beginStage5
  extract_lets u hold jn v
  split
  · have hu : (v.guardly State.holdAll).upd = v.upd := hg v (fld := .upd) (by simp)
    have ht : (v.guardly State.holdAll).store = v.store := hg v (fld := .store) (by simp)
    rw [hu, ht]
    exact ⟨rfl, rfl, rfl⟩
  · exact ⟨rfl, rfl, rfl⟩

/-- The state an activation leaves before its command is completed. -/
def State.activated (s : State) : State :=
  ((s.beginStage5).endUpdJob s.upd.actJob st.ok 0).mapUpd fun u => { u with actJob := none }

theorem execActivationStart_starts (hw : s.upd.waitFrom.isSome = true) (hs : s.upd.stage = .verified ∨ s.upd.stage = .scheduled)
    (hc : s.canActivate = true) (ht : s.store.taking = .nobody) :
    ∃ t, exec .activationStart s = .next t ∧ t.upd.stage = .activating ∧ t.upd.actJob = none
      ∧ t.upd.journal = some {
          stage := .activating, component := s.upd.component, digest := Config.sha384 s.upd.staged, svn := imgSvn s.upd.header,
          holdHost := s.holdHost, holder := s.upd.holder, swapped := false, hasArea := s.upd.areaOk } := by
  have hg : ¬ (s.upd.waitFrom.isNone = true ∨ ¬ (s.upd.stage = .verified ∨ s.upd.stage = .scheduled)) := by
    rintro (h | h)
    · simp [Option.isNone_iff_eq_none.1 h] at hw
    · exact h hs
  obtain ⟨hst, hjn, hta⟩ := s.beginStage5_upd
  have hu : s.activated.upd = { s.beginStage5.upd with actJob := none } :=
    congrArg (fun u : Update => { u with actJob := none }) (State.endUpdJob_get _ _ _ _ (fld := .upd) (by simp))
  have hn : s.activated.store.taking = .nobody :=
    (congrArg OpStore.taking (State.endUpdJob_get _ _ _ _ (fld := .store) (by simp))).trans (hta.trans ht)
  have hrow : exec .activationStart s = .next (s.upd.actJob.elim s.activated s.activated.completeNow) := by
    refine congrArg Host.Outcome.next ((if_neg hg).trans ((if_pos hc).trans ?_))
    unfold State.activated
    cases s.upd.actJob
    · rfl
    · rfl
  refine ⟨_, hrow, ?_⟩
  have hf : (s.upd.actJob.elim s.activated s.activated.completeNow).upd = s.activated.upd := by
    cases s.upd.actJob with
    | none => rfl
    | some id => exact ((State.Stages.completeNow s.activated id).idle hn).1
  rw [hf, hu]
  exact ⟨hst, rfl, hjn⟩

theorem execActivationDrainExpired_drains (hs : s.upd.stage = .activating) (hc : s.upd.component = 1)
    (hd : s.upd.drained = false) :
    ∃ t, exec .activationDrainExpired s = .next t ∧ t.upd.drained = true ∧ t.boot.loaderServes = true ∧ t.jobs = []
      ∧ t.keys.ctx = [] ∧ t.keys.imported = [] := by
  refine ⟨_, congrArg Host.Outcome.next (if_pos ⟨hs, hc, hd⟩), rfl, rfl, ?_, rfl, rfl⟩
  extract_lets s1 s2 s3
  have h3 : s3.jobs = (s2.endJobs s2.jobs).jobs := State.endQueues_get _ _ (fld := .jobs) (by simp)
  have hk : (s3.spoilKeyStores true).jobs = s3.jobs := State.spoilKeyStores_get _ _ (fld := .jobs) (by simp)
  exact hk.trans (h3.trans s2.endJobs_all)

theorem Update.restart_kept (u : Update) : u.restart.slot = u.slot ∧ u.restart.slotHash = u.slotHash
    ∧ u.restart.journal = u.journal ∧ u.restart.restored = u.restored := by
  unfold Update.restart
  split
  · exact ⟨rfl, rfl, rfl, rfl⟩
  · exact ⟨rfl, rfl, rfl, rfl⟩

theorem Update.restart_of_none {u : Update} (h : u.journal = none) : u.restart.stage = .idle ∧ u.restart.holder = .none := by
  unfold Update.restart
  rw [h]
  exact ⟨rfl, rfl⟩

theorem Update.restart_of_some {u : Update} {jn : UpdJournal} (h : u.journal = some jn) : u.restart.stage = jn.stage := by
  unfold Update.restart
  rw [h]

/-- A restart for an update takes the update's state from the journal; the slot and its digest stand. -/
theorem State.restartUpdate_upd (hold : Bool) : ∃ v : Update, (s.restartUpdate hold).upd = v.restart
    ∧ v.slot = s.upd.slot ∧ v.slotHash = s.upd.slotHash ∧ v.journal = s.upd.journal
    ∧ (s.store.taking = .nobody → v.restored = s.upd.restored) := by
  let x := if hold then s.guardReset else s
  have hx {fld : Field} (h : fld ∉ ([.guard, .out] : List Field)) : x.get fld = s.get fld := by
    dsimp only [x]
    split
    · exact State.guardReset_get s h
    · rfl
  have hu : x.upd = s.upd := hx (fld := .upd) (by simp)
  have ht : x.store = s.store := hx (fld := .store) (by simp)
  obtain ⟨h1, h2, h3, h4⟩ := x.endJobs_upd x.jobs
  rw [hu] at h1 h2 h3 h4
  rw [ht] at h4
  exact ⟨(x.endJobs x.jobs).upd, State.setCode_get _ _ _ (fld := .upd) (by simp), h1, h2, h3, h4⟩

theorem State.restartUpdate_boot (hold : Bool) :
    (s.restartUpdate hold).boot.stage = .released ∧ (s.restartUpdate hold).boot.code = 0x0003 := by
  unfold State.restartUpdate
  rw [State.setCode_boot]
  exact ⟨rfl, rfl⟩

theorem execActivationCopyDone_copies {jn : UpdJournal} (hs : s.upd.stage = .activating) (hj : s.upd.journal = some jn)
    (hc : s.upd.component = 1) (hd : s.upd.drained = true) (hn : s.nvFree = true) (hl : s.boot.lockdown = false) :
    ∃ t, exec .activationCopyDone s = .next t ∧ t.upd.slot = s.upd.staged ∧ t.upd.slotHash = jn.digest
      ∧ t.upd.stage = .unconfirmed ∧ t.boot.stage = .released ∧ t.boot.code = 0x0003 := by
  let s1 := s.mapUpd fun u =>
    { u with slot := s.upd.staged, slotHash := jn.digest, journal := some { jn with stage := .unconfirmed } }
  have hrow : exec .activationCopyDone s = .next ((s1.restartUpdate jn.holdHost).mapUpd fun u => { u with drained := true }) := by
    refine congrArg Host.Outcome.next ?_
    rw [hj]
    exact if_pos ⟨hs, hc, hd, hn, hl⟩
  obtain ⟨v, hu, h1, h2, h3, -⟩ := State.restartUpdate_upd (s := s1) jn.holdHost
  obtain ⟨r1, r2, -, -⟩ := v.restart_kept
  refine ⟨_, hrow, ?_⟩
  rw [State.mapUpd_upd, State.mapUpd_boot, hu]
  exact ⟨r1.trans h1, r2.trans h2, Update.restart_of_some h3, State.restartUpdate_boot jn.holdHost⟩

theorem execMicrocodeSwap_swaps (hs : s.upd.stage = .activating) (hc : s.upd.component = 2) (hn : s.nvFree = true)
    (hj : ∀ j, j ∈ s.jobs → j.group = 0x0D → j.ended = true) :
    ∃ t, exec .microcodeSwap s = .next t ∧ t.upd.stage = .unconfirmed ∧ t.upd.microCur = s.upd.staged
      ∧ t.upd.microPrev = s.upd.microCur ∧ t.tables.dxProgs = [] ∧ t.store.lent = false := by
  have hi : (s.jobs.any fun j => j.group = 0x0D && !j.ended) = false :=
    List.any_eq_false.2 fun j hm hb => by
      obtain ⟨hg, he⟩ := Bool.and_eq_true_iff.1 hb
      rw [hj j hm (of_decide_eq_true hg)] at he
      nomatch he
  have hv : s.upd.install.microCur = s.upd.staged ∧ s.upd.install.microPrev = s.upd.microCur := by
    unfold Update.install
    dsimp only
    rw [if_pos hc]
    exact ⟨rfl, rfl⟩
  exact ⟨_, congrArg Host.Outcome.next (if_pos ⟨hs, hc, hn, hi⟩), rfl, hv.1, hv.2, rfl, rfl⟩

/-! ### The guard under a new policy (R519) -/

theorem State.settle_running : s.settle.guard.running = s.guard.running := by
  unfold State.settle
  generalize List.range 8 = l
  refine State.foldl_keeps (fun s => s.guard.running) (fun u d => ?_) l s
  split
  · rfl
  · rfl

theorem State.startPort_running (p : Policy) (port : Port) : (s.startPort p port).guard.running = s.guard.running := by
  unfold State.startPort
  split
  · cases port
    · rfl
    · rfl
  · cases port
    · rfl
    · rfl

theorem State.guardStart_running : s.guardStart.guard.running = true := by
  unfold State.guardStart
  split
  · rfl
  · rw [State.settle_running, State.startPort_running, State.startPort_running]
    rfl

theorem State.loadComponents_holdPins : s.loadComponents.guard.holdPins = s.guard.holdPins := rfl

/-- Outside LOCKDOWN the guard starts again with every ball low. -/
theorem State.restartGuard_guard (hl : s.boot.lockdown = false) :
    s.restartGuard.guard.running = true ∧ s.restartGuard.guard.holdPins = 0 := by
  let x := s.endGuardJobs.guardReset.loadComponents
  have he : s.endGuardJobs.boot = s.boot := s.endGuardJobs_get (fld := .boot) (by simp)
  have hb : s.endGuardJobs.boot.lockdown = false := he ▸ hl
  have hx : x.guard.holdPins = 0 := State.loadComponents_holdPins.trans (State.guardReset_holdPins hb)
  have hg : s.restartGuard.guard = x.guardStart.guard := State.guardly_guard x _
  rw [hg]
  refine ⟨State.guardStart_running, BitVec.eq_of_getLsbD_eq fun d _ => ?_⟩
  have hp := (State.Holds.refl x).guardStart.pin d
  rw [hx] at hp
  cases hd : x.guardStart.guard.holdPins.getLsbD d
  · exact BitVec.getLsbD_zero.symm
  · exact (hp hd).symm

theorem State.holdsAsserted_get {fld : Field} (h : fld ∉ ([.guard, .mgmt, .flt, .out] : List Field)) :
    (s.guardly State.holdAll).get fld = s.get fld := by
  simp only [List.mem_cons, List.not_mem_nil, or_false, not_or] at h
  simp [h]

theorem execPolicySwap_swaps (hs : s.upd.stage = .activating) (hc : s.upd.component = 3) (hn : s.nvFree = true)
    (hl : s.boot.lockdown = false) :
    ∃ t, exec .policySwap s = .next t ∧ t.upd.stage = .unconfirmed ∧ t.upd.polCur = s.upd.staged
      ∧ t.upd.polPrev = s.upd.polCur ∧ t.guard.running = true ∧ t.guard.holdPins = 0 := by
  let x := ((s.guardly State.holdAll).mapUpd fun u => { u.install with timerFrom := s.now }).returnHigh
  have hg : (s.guardly State.holdAll).upd = s.upd := State.holdsAsserted_get (fld := .upd) (by simp)
  have hb : x.boot.lockdown = false :=
    (congrArg Boot.lockdown (State.holdsAsserted_get (s := s) (fld := .boot) (by simp))).trans hl
  have hx : x.restartGuard.upd = { s.upd.install with timerFrom := s.now, header := [], image := [] } := by
    have h : x.restartGuard.upd = x.upd := State.restartGuard_get x (fld := .upd) (by simp)
    have h' : x.upd = { (s.guardly State.holdAll).upd.install with timerFrom := s.now, header := [], image := [] } := rfl
    rw [h, h', hg]
  have hv : s.upd.install.polCur = s.upd.staged ∧ s.upd.install.polPrev = s.upd.polCur := by
    unfold Update.install
    dsimp only
    rw [if_neg (by omega)]
    exact ⟨rfl, rfl⟩
  have hrow : exec .policySwap s = .next x.restartGuard := congrArg Host.Outcome.next (if_pos ⟨hs, hc, hn, hl⟩)
  refine ⟨_, hrow, ?_⟩
  rw [hx]
  exact ⟨rfl, hv.1, hv.2, State.restartGuard_guard hb⟩

/-! ### Self-test and confirmation (R517, R520, R521) -/

theorem execSelftestDone_ends (hf : s.fwRunning = true) (passed ok : Bool)
    (hok : ok = if s.upd.stage = .unconfirmed ∧ s.upd.component = 3 then s.guard.policy.isSome else passed && !s.upd.blobNewer) :
    ∃ t, exec (.selftestDone passed) s = .next t ∧ t.upd.selftestOk = ok
      ∧ (s.upd.stage ≠ .unconfirmed → t.upd.stage = s.upd.stage)
      ∧ (s.upd.stage = .unconfirmed → t.upd.stage = if ok = false then .restoring
          else if s.autoConfirm = true ∨ (s.upd.component = 1 ∧ s.upd.areaOk = false) then .confirming else .unconfirmed) := by
  have hr : ¬ s.fwRunning = false := by simp [hf]
  have hs : s.selftest passed = ok := hok.symm
  refine ⟨_, congrArg Host.Outcome.next (if_neg hr), ?_⟩
  rw [hs]
  by_cases hu : s.upd.stage = .unconfirmed
  · rw [if_neg (not_not_intro hu)]
    cases ok with
    | false => exact ⟨rfl, fun h => absurd hu h, fun _ => rfl⟩
    | true =>
      by_cases hc : s.autoConfirm = true ∨ (s.upd.component = 1 ∧ s.upd.areaOk = false)
      · rw [if_neg (by simp), if_pos hc]
        exact ⟨rfl, fun h => absurd hu h, fun _ => ((if_neg (by simp)).trans (if_pos hc)).symm⟩
      · rw [if_neg (by simp), if_neg hc]
        exact ⟨rfl, fun h => absurd hu h, fun _ => hu.trans ((if_neg (by simp)).trans (if_neg hc)).symm⟩
  · rw [if_pos hu]
    exact ⟨rfl, fun _ => rfl, fun h => absurd h hu⟩

/-- A word that holds all ones is not blank. -/
theorem fuseRaw_stepData_ne (x : BitVec 39) : x ||| fuseRaw stepData ≠ 0 := fun h => by
  have hb : (x ||| fuseRaw stepData).getLsbD 0 = false := congrArg (·.getLsbD 0) h
  rw [BitVec.getLsbD_or, fuseRaw, BitVec.getLsbD_append] at hb
  simp [stepData] at hb

/-- After a confirmation no step word below the SVN is blank. -/
theorem State.confirmed_word {c svn i : Nat} (hi : i < svn) :
    (s.finishConfirm c svn false).fuses.word ((bandWords c).1 + i) ≠ 0 := by
  rw [State.finishConfirm_fuses, State.word_burnAll (d := stepData) fun q hq _ => by
    obtain ⟨w, -, rfl⟩ := List.mem_map.1 hq
    rfl]
  split
  · exact fuseRaw_stepData_ne _
  · next hm =>
    refine fun h => hm ?_
    rw [List.map_map]
    exact List.mem_map.2 ⟨_, State.mem_stepWords hi h, rfl⟩

theorem State.endUpdJob_ended {k : Nat} {n : Job} (h : s.job? k = some n) (stage : Nat) :
    (s.endUpdJob (some k) st.ok stage).endedWith k st.ok 0 [] := by
  have he : s.endUpdJob (some k) st.ok stage = s.done n 0 [] n.scCycles := by
    unfold State.endUpdJob
    rw [Option.bind_some, h]
    rfl
  exact (State.done_ended h (State.job?_id h) 0 [] _).of_eq he

theorem execConfirmationRun_confirms {jn : UpdJournal} (hj : s.upd.journal = some jn) (hs : s.upd.stage = .confirming)
    (hv : s.power.nvOk = true) (hn : s.nvFree = true) :
    ∃ t, exec .confirmationRun s = .next t ∧ t.upd.stage = .idle ∧ t.upd.journal = none ∧ t.upd.holder = .none
      ∧ (∀ i, i < jn.svn → t.fuses.word ((bandWords jn.component).1 + i) ≠ 0)
      ∧ ∀ k n, s.upd.confJob = some k → s.job? k = some n → t.endedWith k st.ok 0 [] := by
  obtain ⟨hst, hjn, hho⟩ := s.finishConfirm_upd jn.component jn.svn false
  have hu : ((s.finishConfirm jn.component jn.svn false).endUpdJob s.upd.confJob st.ok 0).upd
      = (s.finishConfirm jn.component jn.svn false).upd := State.endUpdJob_get _ _ _ _ (fld := .upd) (by simp)
  refine ⟨_, execConfirmationRun_runs hj hs hv hn, (congrArg Update.stage hu).trans hst, (congrArg Update.journal hu).trans hjn,
    (congrArg Update.holder hu).trans hho, fun i hi => ?_, fun k n hk hx => ?_⟩
  · rw [State.confirmed_fuses]
    exact State.confirmed_word hi
  · rw [hk]
    exact State.endUpdJob_ended ((State.job?_congr (State.finishConfirm_get s _ _ _ (fld := .jobs) (by simp)) k).trans hx) 0

/-! ### Restore (R522) -/

theorem State.returnBlob_taking : s.returnBlob.store.taking = s.store.taking := by
  unfold State.returnBlob
  split
  · rfl
  · exact List.foldlRecOn _ _ (motive := fun o : OpStore => o.taking = s.store.taking) rfl fun _ h _ _ => by exact h

theorem State.restoreUpdate_taking (st : UpdStage) (c : Nat) : (s.restoreUpdate st c).store.taking = s.store.taking :=
  (congrArg OpStore.taking (State.logEvent_get _ _ _ (fld := .store) (by simp))).trans State.returnBlob_taking

/-- The microcode records exchange roles again where they had. -/
theorem State.restoreUpdate_microCur (st : UpdStage) : (s.restoreUpdate st 2).upd.microCur
    = if (s.upd.journal.map UpdJournal.swapped).getD false then s.upd.microPrev else s.upd.microCur := by
  unfold State.restoreUpdate
  rw [State.logEvent_upd, State.returnBlob_upd, State.mapUpd_upd, if_neg (by decide)]
  dsimp only [Update.close]
  split
  · rfl
  · rfl

/-- What a restore without a restart leaves of the update. -/
theorem State.restored_of {t u : State} (h : t.upd = u.upd) {st : UpdStage} {c : Nat} (hu : u = s.restoreUpdate st c) :
    t.upd.stage = .idle ∧ t.upd.holder = .none ∧ t.upd.journal = none ∧ t.upd.restored = true := by
  obtain ⟨hst, hjn, hho, hre⟩ := s.restoreUpdate_upd st c
  rw [h, hu]
  exact ⟨hst, hho, hjn, hre⟩

section
variable (hs : s.upd.stage = .restoring) (hf : s.fwRunning = true) (hn : s.nvFree = true) (hl : s.boot.lockdown = false)
include hs hf hn hl

/-- A bundle goes back with a restart. -/
theorem execRestore_bundle (hc : s.upd.component = 1) (ht : s.store.taking = .nobody) :
    ∃ t, exec .restore s = .next t
      ∧ (t.upd.stage = .idle ∧ t.upd.holder = .none ∧ t.upd.journal = none ∧ t.upd.restored = true) ∧ t.boot.stage = .released := by
  let hold := (s.upd.journal.map UpdJournal.holdHost).getD false
  let x := if hold then s.guardly State.holdAll else s
  have hx : x.store = s.store := by
    dsimp only [x]
    split
    · exact State.holdsAsserted_get (fld := .store) (by simp)
    · rfl
  have hrow : exec .restore s = .next ((x.restoreUpdate .restoring 1).restartUpdate hold) := by
    refine congrArg Host.Outcome.next ((if_neg (by simp [hs, hf, hn, hl])).trans ?_)
    dsimp only
    rw [hc]
    rfl
  obtain ⟨-, hjn, -, hre⟩ := x.restoreUpdate_upd .restoring 1
  obtain ⟨v, hu, -, -, hj, hr⟩ := State.restartUpdate_upd (s := x.restoreUpdate .restoring 1) hold
  have htk := (State.restoreUpdate_taking (s := x) .restoring 1).trans ((congrArg OpStore.taking hx).trans ht)
  obtain ⟨-, -, r3, r4⟩ := v.restart_kept
  obtain ⟨hst, hho⟩ := Update.restart_of_none (hj.trans hjn)
  obtain ⟨hb, -⟩ := State.restartUpdate_boot (s := x.restoreUpdate .restoring 1) hold
  refine ⟨_, hrow, ?_, hb⟩
  rw [hu]
  exact ⟨hst, hho, r3.trans (hj.trans hjn), r4.trans ((hr htk).trans hre)⟩

/-- Microcode goes back in place. -/
theorem execRestore_microcode (hc : s.upd.component = 2) :
    ∃ t, exec .restore s = .next t
      ∧ (t.upd.stage = .idle ∧ t.upd.holder = .none ∧ t.upd.journal = none ∧ t.upd.restored = true) ∧ t.tables.dxProgs = []
      ∧ t.upd.microCur = if (s.upd.journal.map UpdJournal.swapped).getD false then s.upd.microPrev else s.upd.microCur := by
  let x := s.restoreUpdate .restoring 2
  have hrow : exec .restore s = .next (x.mapTables fun t =>
      { t with dxProgs := [], microOk := x.upd.microCur ≠ [] && x.imgAccepted x.upd.microCur }) := by
    refine congrArg Host.Outcome.next ((if_neg (by simp [hs, hf, hn, hl])).trans ?_)
    dsimp only
    rw [hc]
    rfl
  exact ⟨_, hrow, State.restored_of (s := s) (u := x) rfl rfl, rfl, State.restoreUpdate_microCur .restoring⟩

/-- A policy goes back with a start of the guard. -/
theorem execRestore_policy (h1 : s.upd.component ≠ 1) (h2 : s.upd.component ≠ 2) :
    ∃ t, exec .restore s = .next t
      ∧ (t.upd.stage = .idle ∧ t.upd.holder = .none ∧ t.upd.journal = none ∧ t.upd.restored = true) := by
  let x := (s.guardly State.holdAll).restoreUpdate .restoring s.upd.component
  have hrow : exec .restore s = .next x.restartGuard := by
    refine congrArg Host.Outcome.next ((if_neg (by simp [hs, hf, hn, hl])).trans ?_)
    dsimp only
    split
    · next h => exact absurd h h1
    · next h => exact absurd h h2
    · rfl
  exact ⟨_, hrow, State.restored_of (u := x) (State.restartGuard_get x (fld := .upd) (by simp)) rfl⟩

theorem execRestore_restores (ht : s.store.taking = .nobody) :
    ∃ t, exec .restore s = .next t ∧ t.upd.stage = .idle ∧ t.upd.holder = .none ∧ t.upd.journal = none
      ∧ t.upd.restored = true
      ∧ (s.upd.component = 1 → t.boot.stage = .released)
      ∧ (s.upd.component = 2 → t.tables.dxProgs = [] ∧
          t.upd.microCur = if (s.upd.journal.map UpdJournal.swapped).getD false then s.upd.microPrev else s.upd.microCur) := by
  by_cases h1 : s.upd.component = 1
  · obtain ⟨t, hrow, ⟨hst, hho, hjn, hre⟩, hb⟩ := execRestore_bundle hs hf hn hl h1 ht
    exact ⟨t, hrow, hst, hho, hjn, hre, fun _ => hb, fun h2 => by omega⟩
  · by_cases h2 : s.upd.component = 2
    · obtain ⟨t, hrow, ⟨hst, hho, hjn, hre⟩, hm⟩ := execRestore_microcode hs hf hn hl h2
      exact ⟨t, hrow, hst, hho, hjn, hre, fun h => absurd h h1, fun _ => hm⟩
    · obtain ⟨t, hrow, hst, hho, hjn, hre⟩ := execRestore_policy hs hf hn hl h1 h2
      exact ⟨t, hrow, hst, hho, hjn, hre, fun h => absurd h h1, fun h => absurd h h2⟩

end

end

end Sys2Proof.Machine
open Sys2Proof Sys2Proof.Machine

/-- Settles O41: each event by its own row. -/
theorem activationCompletes : Obligations.ActivationCompletes := by
  intro s u
  refine ⟨execUpdateLockExpired_drops, fun hs => ⟨fun ha ht => ⟨_, congrArg Host.Outcome.next (if_pos ⟨hs, ha, ht⟩), rfl⟩,
      execAlignLost_marks hs, execActivationDeferred_defers hs⟩, execActivationStart_starts,
    fun hs => ⟨execActivationDrainExpired_drains hs, fun jn => execActivationCopyDone_copies hs, execMicrocodeSwap_swaps hs,
      execPolicySwap_swaps hs⟩, execSelftestDone_ends,
    fun hs => ⟨_, congrArg Host.Outcome.next (if_pos hs), rfl, rfl⟩, fun jn => execConfirmationRun_confirms,
    execRestore_restores⟩
end

section
/-! The entropy unit (R436 to R440, R443, R446, R447, R450, R451). -/
namespace Sys2Proof.Machine
open Sys2Proof

/-! ### RANDOM (R443, R450) -/

theorem State.freeNow_length (s : State) (n : Nat) : (s.freeNow n).length = n := by
  simp [State.freeNow, Config.freeBytes]

/-- A job whose stream is seeded. -/
def Job.marked (x : Job) : Job := { x with phase := if x.phase = .waitEntropy then x.awake else x.phase, seeded := true }

theorem State.seedJob_marks {s : State} {id : Nat} {j k : Job} (h : s.job? id = some j) (hk : k.id = id) :
    (s.seedJob k).job? id = some j.marked := by
  subst hk
  have hx : (if k.cls = .sc ∨ k.op = 0x0B01 then s else s.request k.inst false).job? k.id = some j := by
    split
    · exact h
    · exact h
  exact State.job?_mapJob_same (f := Job.marked) hx fun _ => rfl

/-- Where RANDOM's body finds its job, what the job has written and where it draws stand. -/
theorem State.seeding_random {s : State} {id : Nat} {j : Job} (h : s.job? id = some j) (op : Op) :
    ∃ x, (s.seeding { j with seeded := false } op).job? id = some x ∧ x.written = j.written ∧ x.entry = j.entry ∧ x.inst = j.inst := by
  have hj : j.id = id := State.job?_id h
  unfold State.seeding
  split
  · exact ⟨j.marked, State.seedJob_marks h hj, rfl, rfl, rfl⟩
  · exact ⟨j, h, rfl, rfl, rfl⟩

/-- A gate that lets a job go where the DRBGs are needed lets it go where they are not. -/
theorem State.gated_go {s : State} {j : Job} (h : s.gate j true = .go) (op : Op) (pub : Nat) (body : State → Job → State) :
    s.gated j op pub body = body (s.seeding j op) { j with seeded := true } := by
  refine State.gated_of ?_ pub body
  unfold State.passes
  cases s.needsEntropy j.q.fn j.entry op
  · rfl
  · exact h

/-- The bytes a request of RANDOM asks for. -/
def Job.ask (j : Job) : Nat := min 4096 (j.entry.outLen.toNat - j.written.length)

/-- A job after one request within the cap. -/
def Job.drawn (j : Job) (s : State) : Job := { j with written := j.written ++ s.freeNow j.ask }

/-- The state after one request within the cap. -/
def State.drewFor (s : State) (j : Job) : State :=
  ((s.request j.inst (j.entry.flag 2)).draw.mapTables fun t => { t with capUsed := t.capUsed + j.ask }).putJob (j.drawn s)

section
variable {s : State} {id : Nat} {j : Job}

theorem State.serveRandom_succ (n : Nat) (hk : j.ask ≠ 0) (hc : s.tables.capUsed + j.ask ≤ randomCap) :
    State.serveRandom (n + 1) s j = State.serveRandom n (s.drewFor j) (j.drawn s) :=
  if_neg (not_or.2 ⟨hk, Nat.not_lt.2 hc⟩)

theorem State.serveRandom_stop (n : Nat) (hk : j.ask = 0) : State.serveRandom n s j = (s, j) := by
  cases n with
  | zero => rfl
  | succ n => exact if_pos (.inl hk)

theorem State.drewFor_job? (h : s.job? id = some j) : (s.drewFor j).job? id = some (j.drawn s) := by
  obtain rfl : j.id = id := State.job?_id h
  unfold State.drewFor
  rw [State.putJob_eq_mapJob]
  exact State.job?_mapJob_same (s := (s.request _ _).draw.mapTables _) h fun _ => rfl

/-- Requests find their job and only add to what it has written. -/
theorem State.serveRandom_extends (n : Nat) (h : s.job? id = some j) :
    (State.serveRandom n s j).1.job? id = some (State.serveRandom n s j).2
      ∧ j.written <+: (State.serveRandom n s j).2.written := by
  induction n generalizing s j with
  | zero => exact ⟨h, List.prefix_refl _⟩
  | succ n ih =>
    by_cases hk : j.ask = 0 ∨ randomCap < s.tables.capUsed + j.ask
    · have e : State.serveRandom (n + 1) s j = (s, j) := if_pos hk
      rw [e]
      exact ⟨h, List.prefix_refl _⟩
    · obtain ⟨h0, hc⟩ := not_or.1 hk
      rw [State.serveRandom_succ n h0 (Nat.not_lt.1 hc)]
      obtain ⟨hj, hp⟩ := ih (State.drewFor_job? h)
      exact ⟨hj, (List.prefix_append _ _).trans hp⟩

/-- What RANDOM makes of a job it may serve. -/
def State.serve (s : State) (j : Job) : State :=
  let r := State.serveRandom 3 s j
  if r.2.written.length = j.entry.outLen.toNat then
    r.1.done r.2 j.inst r.2.written (randomCycles r.2.written.length (j.entry.flag 2))
  else r.1

theorem execRandom_serves {inp : Bytes} (h : s.runsJob id j .random inp) (hg : s.gate { j with seeded := false } true = .go) :
    ∃ x, (s.seeding { j with seeded := false } .random).job? id = some x ∧ x.written = j.written ∧ x.entry = j.entry
      ∧ x.inst = j.inst ∧ exec (.random id inp) s = .next ((s.seeding { j with seeded := false } .random).serve x) := by
  obtain rfl : j.id = id := State.job?_id h.1
  obtain ⟨x, hx, hw, he, hi⟩ := State.seeding_random h.1 .random
  refine ⟨x, hx, hw, he, hi, congrArg Host.Outcome.next ((State.runOp_of h _).trans ((State.gated_go hg _ _ _).trans ?_))⟩
  dsimp only
  rw [hx]
  rfl

/-- A request that completes the output ends the job. -/
theorem State.serve_last (h : s.job? id = some j) (hk : j.ask ≠ 0) (hc : s.tables.capUsed + j.ask ≤ randomCap)
    (hl : j.written.length + j.ask = j.entry.outLen.toNat) :
    (s.serve j).endedWith id st.ok (BitVec.ofNat 64 j.inst) (j.written ++ s.freeNow j.ask)
      ∧ (s.serve j).tables.capUsed = s.tables.capUsed + j.ask ∧ (s.serve j).freeCtr = s.freeCtr + 1 := by
  have hlen : (j.drawn s).written.length = j.entry.outLen.toNat := by
    rw [← hl]
    simp [Job.drawn, State.freeNow_length]
  have hz : (j.drawn s).ask = 0 := by
    unfold Job.ask
    rw [hlen]
    simp [Job.drawn]
  have hr : State.serveRandom 3 s j = (s.drewFor j, j.drawn s) :=
    (State.serveRandom_succ 2 hk hc).trans (State.serveRandom_stop 2 hz)
  unfold State.serve
  rw [hr]
  dsimp only
  rw [if_pos hlen]
  exact ⟨State.done_ended (State.drewFor_job? h) (State.job?_id h) _ _ _, rfl, rfl⟩

/-- A request within the cap adds its bytes, whatever comes after it. -/
theorem State.serve_part (h : s.job? id = some j) (hk : j.ask ≠ 0) (hc : s.tables.capUsed + j.ask ≤ randomCap) :
    ∃ k, (s.serve j).job? id = some k ∧ k.written.take (j.written.length + j.ask) = j.written ++ s.freeNow j.ask := by
  obtain ⟨hj, hp⟩ := State.serveRandom_extends 2 (State.drewFor_job? h)
  rw [← State.serveRandom_succ 2 hk hc] at hj hp
  have hlen : j.written.length + j.ask = (j.drawn s).written.length := by simp [Job.drawn, State.freeNow_length]
  have ht : (State.serveRandom 3 s j).2.written.take (j.written.length + j.ask) = j.written ++ s.freeNow j.ask := by
    rw [hlen]
    exact (List.prefix_iff_eq_take.1 hp).symm
  unfold State.serve
  extract_lets r
  split
  · obtain ⟨y, hy, hw⟩ := State.finish_written hj st.ok (BitVec.ofNat 64 j.inst) r.2.written
      (randomCycles r.2.written.length (j.entry.flag 2))
    refine ⟨y, ?_, hw ▸ ht⟩
    unfold State.done
    rw [State.job?_id hj]
    exact hy
  · exact ⟨_, hj, ht⟩

theorem execRandom_delivers {inp : Bytes} (h : s.runsJob id j .random inp) (hg : s.gate { j with seeded := false } true = .go)
    (hl : j.written.length < j.entry.outLen.toNat) :
    let n := min 4096 (j.entry.outLen.toNat - j.written.length)
    s.tables.capUsed + n ≤ randomCap →
    ∃ t, exec (.random id inp) s = .next t
      ∧ (j.written.length + n = j.entry.outLen.toNat → t.endedWith id st.ok (BitVec.ofNat 64 j.inst) (j.written ++ s.freeNow n)
          ∧ t.tables.capUsed = s.tables.capUsed + n ∧ t.freeCtr = s.freeCtr + 1)
      ∧ (j.written.length + n < j.entry.outLen.toNat → ∃ k, t.job? id = some k
          ∧ k.written.take (j.written.length + n) = j.written ++ s.freeNow n) := by
  intro n hc
  obtain ⟨x, hx, hw, he, hi, hrow⟩ := execRandom_serves h hg
  have ha : x.ask = n := by
    unfold Job.ask
    rw [hw, he]
  have hk : x.ask ≠ 0 := by
    rw [ha]
    omega
  have hf : (s.seeding { j with seeded := false } .random).freeCtr = s.freeCtr := State.seeding_freeCtr _ _ _
  have hn : (s.seeding { j with seeded := false } .random).freeNow n = s.freeNow n := congrArg (Config.freeBytes · n) hf
  have hu : (s.seeding { j with seeded := false } .random).tables = s.tables := by rw [State.seeding_eq]
  refine ⟨_, hrow, fun hlast => ?_, fun _ => ?_⟩
  · have hs := State.serve_last hx hk (by rwa [ha, hu]) (by rwa [ha, hw, he])
    rwa [ha, hw, hi, hn, hu, hf] at hs
  · have hs := State.serve_part hx hk (by rwa [ha, hu])
    rwa [ha, hw, hn] at hs

end

/-! ### Pair failures (R437 to R440, R446, R447) -/

/-- A pair is out of service: under retest or retired. -/
def Entropy.out (e : Entropy) (p : Nat) : Prop := e.pairs.getD p .dropped = .retest ∨ e.pairs.getD p .dropped = .retired

/-- What the failure of pairs keeps: the last test, sampling, the flags, and that a pair is out of service. -/
structure Entropy.Worsens (e f : Entropy) : Prop where
  test : f.lastTest = e.lastTest
  osc : f.lastOsc = e.lastOsc
  sampled : f.sampled = e.sampled
  evt : ∀ b, e.evt.getLsbD b = true → f.evt.getLsbD b = true
  size : f.pairs.length = e.pairs.length
  out : ∀ p, e.out p → f.out p

theorem Entropy.Worsens.refl (e : Entropy) : e.Worsens e := ⟨rfl, rfl, rfl, fun _ h => h, rfl, fun _ h => h⟩

theorem Entropy.Worsens.trans {d e f : Entropy} (h : d.Worsens e) (k : e.Worsens f) : d.Worsens f :=
  ⟨k.test.trans h.test, k.osc.trans h.osc, k.sampled.trans h.sampled, fun b hb => k.evt b (h.evt b hb),
    k.size.trans h.size, fun p hp => k.out p (h.out p hp)⟩

/-- A state of the DRBGs and one more flag. -/
theorem Entropy.Worsens.flag (e : Entropy) (x : EntState) (l : Bool) (b : Nat) :
    e.Worsens { e with state := x, live := l, evt := e.evt ||| (1#8 <<< b) } :=
  ⟨rfl, rfl, rfl, fun c hc => by rw [BitVec.getLsbD_or, hc, Bool.true_or], rfl, fun _ h => h⟩

theorem Entropy.getD_setPair {e : Entropy} {p q : Nat} {x : PairState} :
    (e.setPair p x).pairs.getD q .dropped = if p = q ∧ q < e.pairs.length then x else e.pairs.getD q .dropped := by
  unfold Entropy.setPair
  simp only [List.getD_eq_getElem?_getD, List.getElem?_set]
  by_cases hq : p = q
  · subst hq
    by_cases hl : p < e.pairs.length
    · simp [hl]
    · simp [hl]
  · simp [hq]

theorem Entropy.Worsens.setPair (e : Entropy) (p : Nat) {x : PairState} (hx : x = .retest ∨ x = .retired) :
    e.Worsens (e.setPair p x) ∧ (p < e.pairs.length → (e.setPair p x).out p) := by
  refine ⟨⟨rfl, rfl, rfl, fun _ h => h, List.length_set, fun q hq => ?_⟩, fun hp => ?_⟩
  · unfold Entropy.out
    rw [Entropy.getD_setPair]
    split
    · exact hx
    · exact hq
  · unfold Entropy.out
    rw [Entropy.getD_setPair, if_pos ⟨rfl, hp⟩]
    exact hx

section
variable {s : State}

theorem State.failPair_worsens (s : State) (p : Nat) :
    s.ent.Worsens (s.failPair p).ent ∧ (p < s.ent.pairs.length → (s.failPair p).ent.out p) := by
  unfold State.failPair
  extract_lets noise s1 s2
  have h1 : s1.ent = s.ent := State.foldl_keeps State.ent (fun u j => by rfl) noise s
  have h2 : s2.ent = s.ent := (State.log_get s1 _ _ _ _ _ (fld := .ent) (by simp)).trans h1
  split
  · next s3 e =>
    have h3 : s3.ent = s.ent := (State.faultEvent_of e (fld := .ent) (by simp)).trans h2
    rw [State.mapEnt_ent, h3]
    exact Entropy.Worsens.setPair s.ent p (.inl rfl)
  · next s3 e =>
    have h3 : s3.ent = s.ent := (State.faultEvent_of e (fld := .ent) (by simp)).trans h2
    have h4 : ((s3.mapEnt fun e => e.setPair p .retired).log 0x0702 1 11 (unitWord 7 p) 0).ent = s.ent.setPair p .retired :=
      (State.log_get _ _ _ _ _ _ (fld := .ent) (by simp)).trans (congrArg (Entropy.setPair · p .retired) h3)
    obtain ⟨hw, ho⟩ := Entropy.Worsens.setPair s.ent p (.inr rfl)
    have hf := Entropy.Worsens.flag (s.ent.setPair p .retired) (s.ent.setPair p .retired).state (s.ent.setPair p .retired).live 5
    rw [State.setEnt_ent, h4]
    exact ⟨hw.trans hf, fun hp => hf.out p (ho hp)⟩

/-- Pairs fail one after another: each that exists is out of service after it. -/
theorem State.failPairs_worsens (l : List Nat) (s : State) : s.ent.Worsens (l.foldl State.failPair s).ent
    ∧ ∀ p, p ∈ l → p < s.ent.pairs.length → (l.foldl State.failPair s).ent.out p := by
  induction l generalizing s with
  | nil => exact ⟨.refl _, nofun⟩
  | cons a l ih =>
    obtain ⟨hw, ho⟩ := s.failPair_worsens a
    obtain ⟨hl, hm⟩ := ih (s.failPair a)
    refine ⟨hw.trans hl, fun p hp hlt => ?_⟩
    rcases List.mem_cons.1 hp with rfl | hp
    · exact hl.out p (ho hlt)
    · exact hm p hp (hw.size.symm ▸ hlt)

theorem State.stopDrbgs_worsens (s : State) : s.ent.Worsens s.stopDrbgs.ent := by
  have h : s.stopDrbgs.get .ent = ((s.mapEnt fun e => { e with state := .failed, live := false }).setEnt 6).get .ent := by
    simp [State.stopDrbgs]
  have h : s.stopDrbgs.ent = ((s.mapEnt fun e => { e with state := .failed, live := false }).setEnt 6).ent := h
  rw [h]
  exact .flag s.ent .failed false 6

theorem State.logEvent_ent (c : BitVec 16) (d : Nat) : (s.logEvent c d).ent = s.ent :=
  State.logEvent_get s c d (fld := .ent) (by simp)

theorem State.afterPairs_worsens (s : State) : s.ent.Worsens s.afterPairs.ent := by
  unfold State.afterPairs
  extract_lets s1
  have h1 : s.ent.Worsens s1.ent := by
    dsimp only [s1]
    split
    · exact s.stopDrbgs_worsens
    · exact .refl _
  split
  · rw [State.logEvent_ent]
    exact h1.trans (.flag s1.ent .halted false 7)
  · exact h1

theorem State.afterPairs_pairs : s.afterPairs.ent.pairs = s.ent.pairs := by
  unfold State.afterPairs
  extract_lets s1
  have h1 : s1.ent.pairs = s.ent.pairs := by
    dsimp only [s1]
    split
    · obtain ⟨-, hp, -⟩ := s.stopDrbgs_ent
      exact hp
    · rfl
  split
  · rw [State.logEvent_ent]
    exact h1
  · exact h1

/-- Halted DRBGs stay so. -/
theorem State.afterPairs_of_halted (h : s.ent.state = .halted) : s.afterPairs = s := by
  unfold State.afterPairs
  simp [h]

/-- Once sampling has ended, fewer than eight healthy pairs leave no DRBG ready. -/
theorem State.afterPairs_not_ready (hs : s.ent.sampled = true) (hh : s.afterPairs.ent.healthy < 8) :
    s.afterPairs.ent.state ≠ .ready := by
  by_cases hst : s.ent.state = .halted
  · rw [State.afterPairs_of_halted hst, hst]
    nofun
  · have hp : s.ent.healthy < 8 := by
      rwa [Entropy.healthy, State.afterPairs_pairs] at hh
    rw [(State.afterPairs_ent hs hst).2, if_pos hp]
    split
    · nofun
    · nofun

/-- The state in which a failed test is noted. -/
def State.noteTest (s : State) (osc : Nat) (test : HealthTest) (partner : Option Nat) : State :=
  (s.mapEnt fun e =>
    { e with lastTest := (HealthTest.num test), lastOsc := osc, pool := if e.sampled then e.pool else 0,
             partner := match test, partner with | .lock, some o => o | _, _ => 0xFF }).setEnt (HealthTest.num test)

/-- The pairs that fail. -/
def State.failing (s : State) (osc : Nat) (test : HealthTest) (partner : Option Nat) : List Nat :=
  (osc / 2 :: (match test, partner with | .lock, some o => [o / 2] | _, _ => [])).dedup.filter s.ent.tested

theorem State.noteTest_evt (osc : Nat) (test : HealthTest) (partner : Option Nat) :
    (s.noteTest osc test partner).ent.evt.getLsbD (HealthTest.num test) = true := by
  have h : (1#8 <<< (HealthTest.num test)).getLsbD (HealthTest.num test) = true := by
    cases test
    all_goals decide
  have he : (s.noteTest osc test partner).ent.evt = s.ent.evt ||| (1#8 <<< (HealthTest.num test)) := rfl
  rw [he, BitVec.getLsbD_or, h, Bool.or_true]

theorem execPairFailure_fails {osc : Nat} {test : HealthTest} (partner : Option Nat) (hr : s.ent.running = true)
    (ht : test ≠ .kat) (hp : s.ent.pairs.getD (osc / 2) .retired = .healthy) :
    ∃ t, exec (.pairFailure osc test partner) s = .next t ∧ t.ent.lastTest = HealthTest.num test ∧ t.ent.lastOsc = osc
      ∧ t.ent.evt.getLsbD (HealthTest.num test) = true
      ∧ (t.ent.pairs.getD (osc / 2) .dropped = .retest ∨ t.ent.pairs.getD (osc / 2) .dropped = .retired)
      ∧ (s.ent.sampled = true → t.ent.healthy < 8 → t.ent.state ≠ .ready) := by
  have hlt : osc / 2 < s.ent.pairs.length := by
    by_contra h
    rw [List.getD_eq_default _ _ (Nat.not_lt.1 h)] at hp
    nomatch hp
  have hm : osc / 2 ∈ s.failing osc test partner :=
    List.mem_filter.2 ⟨List.mem_dedup.2 List.mem_cons_self, by rw [Entropy.tested, hp]; rfl⟩
  have hg : ¬ (s.ent.running = false ∨ test = .kat ∨ s.failing osc test partner = []) := by
    rintro (h | h | h)
    · simp [hr] at h
    · exact ht h
    · simp [h] at hm
  obtain ⟨hw, ho⟩ := State.failPairs_worsens (s.failing osc test partner) (s.noteTest osc test partner)
  have ha := ((s.failing osc test partner).foldl State.failPair (s.noteTest osc test partner)).afterPairs_worsens
  have hall := hw.trans ha
  exact ⟨_, congrArg Host.Outcome.next (if_neg hg), hall.test, hall.osc, hall.evt _ (State.noteTest_evt _ _ _),
    ha.out _ (ho _ hm hlt), fun hs hh => State.afterPairs_not_ready (hw.sampled.trans hs) hh⟩

/-! ### Retests (R438, R447) -/

theorem execRetestPass_heals {p : Nat} (hp : s.ent.pairs.getD p .retired = .retest) :
    ∃ t, exec (.retestPass p) s = .next t ∧ t.ent.pairs = s.ent.pairs.set p .healthy
      ∧ (s.ent.state = .failed → 8 ≤ t.ent.healthy → t.ent.state = .starting ∧ t.ent.pool = 0)
      ∧ (s.ent.state ≠ .failed → t.ent.state = s.ent.state) := by
  refine ⟨_, congrArg Host.Outcome.next (if_pos hp), ?_⟩
  extract_lets s1
  by_cases hf : s1.ent.state = .failed ∧ 8 ≤ s1.ent.healthy
  · rw [if_pos hf]
    exact ⟨rfl, fun _ _ => ⟨rfl, rfl⟩, fun hn => absurd hf.1 hn⟩
  · rw [if_neg hf]
    exact ⟨rfl, fun hs hh => absurd ⟨hs, hh⟩ hf, fun _ => rfl⟩

end

end Sys2Proof.Machine
open Sys2Proof Sys2Proof.Machine

/-- Settles O45: each row by its own lemma. -/
theorem entropyCompletes : Obligations.EntropyCompletes := by
  intro s id j inp
  exact ⟨fun h hg hl => execRandom_delivers h hg hl,
    fun h => ⟨_, congrArg Host.Outcome.next (State.runCmd_of h _), State.done_ended (s := s.draw) (x := j) h.1 (State.job?_id h.1)
      0 _ _, rfl, rfl⟩,
    ⟨_, rfl, rfl, rfl⟩, fun hr hh => ⟨_, congrArg Host.Outcome.next (if_pos ⟨hr, hh⟩), rfl⟩,
    fun _ _ partner => execPairFailure_fails partner, fun _ => execRetestPass_heals⟩
end
